-- ==== Sys2Proof/Word.lean ====
section
/-!
DEFINITION. The machine words of the QZK7-4144 (R6, R27, R107, R304): their types and nothing else.
-/

namespace Sys2Proof

/-- A 64-bit scalar or doubleword (R27, R30). -/
abbrev Word := BitVec 64

/-- A byte of memory (R6). -/
abbrev Byte := BitVec 8

/-- An instruction word (R304). -/
abbrev IWord := BitVec 32

/-- The 128 data bits of a field word (R8, R107). -/
abbrev Quad := BitVec 128

end Sys2Proof
end

