-- ==== Sys2Proof/Syntax.lean ====
section
/-!
DEFINITION. The steps of the machine as syntax: one constructor per row of spec/opcode_table.json (R304-R316, R247,
and the steps of 95_what_each_step_holds.md). The 120 sequencer instructions carry their guard (R304); the five Rook
instructions carry their RISC-V register fields (R247); a step without an encoding carries the agent it happens at.
-/
namespace Sys2Proof

/-- The guard of a sequencer instruction: predicate p[p], negated when neg (R304). -/
structure Guard where
  p : BitVec 3
  neg : Bool
  deriving DecidableEq, Repr

/-- The unit whose command moves an element: a stream table entry of a floe, or a Firn engine of a die (R67). -/
inductive StreamUnit where
  | floe (f e : Nat)
  | firn (die n : Nat)
  deriving DecidableEq, Repr

/-- What an access needs of a page (R263). -/
inductive Need where
  | read
  | write
  | readWrite
  | fetch
  deriving DecidableEq, Repr

/-- The memories of this module an inbound request can name (R286, R288). -/
inductive InTarget where
  | l2
  | hbm
  | lpd
  deriving DecidableEq, Repr

/-- A message between embedding engines (R222, R228, R231). Engines are numbered 4 × module + die; tab is the table's
descriptor, src the engine a message comes from, engine, id and pos the engine, the command and the item that ask.
- contribution: a module's row sum for a step, with the step's parameters lr, p1, p2, eps, c1, c2;
- close: a module has sent all its sums for a step; relayed by a row's hash home or sent by the module itself;
- relayEnd: the marker behind the contributions relayed to a row's new home;
- outcome: a contribution has been applied, or discarded and counted bad, or its row's access was refused: whether that access
  was a write, its address, and the class and cause of its fault;
- lookUp, rowValue: a look-up of a row at its home, and the values it answers;
- action, acted: an EPIN action on a row (on the whole table where it has none), and its end;
- rowCopy: the bytes of a migrating row, and the steps applied to it;
- rowTaken: the row's new home has that copy. -/
inductive EmbMsg where
  | contribution (src : Nat) (tab : List Word) (step module row : Nat) (g p : List (BitVec 32)) (engine id : Nat)
  | close (src : Nat) (tab : List Word) (step module : Nat) (relayed : Bool)
  | relayEnd (src tid row : Nat)
  | outcome (id row : Nat) (bad : Bool) (refused : Option (Bool × Nat × Nat × Nat))
  | lookUp (engine id pos : Nat) (tab : List Word) (row : Nat)
  | rowValue (id pos : Nat) (values : List (BitVec 32)) (psn : Bool) (refused : Option (Bool × Nat × Nat × Nat))
  | action (engine id pos : Nat) (tab : List Word) (act : Nat) (row : Option Nat) (target : Nat)
  | acted (id pos : Nat) (bad : Bool) (refused : Option (Bool × Nat × Nat × Nat))
  | rowCopy (src : Nat) (tab : List Word) (row : Nat) (bytes : List Byte) (psn : Bool) (steps : List Nat)
  | rowTaken (tid row : Nat)
  deriving DecidableEq, Repr

/-- An inbound request of the host function or of a UALink station (R286, R288): a read, a write of bytes, an atomic
read-modify-write of one 32-bit word (op numbered as ATOM's), a token word for a work identifier (R290), or a
message to an embedding engine of the module (R228). A device virtual address is translated at the target module. -/
inductive Inbound where
  | read (tgt : InTarget) (virtual : Bool) (addr len : Nat)
  | write (tgt : InTarget) (virtual : Bool) (addr : Nat) (bytes : List (BitVec 8)) (psn : Bool)
  | atomic (tgt : InTarget) (virtual : Bool) (addr : Nat) (op : BitVec 3) (v cmp : BitVec 32)
  | token (word dst src : BitVec 64) (c : BitVec 2)
  | emb (die : Nat) (m : EmbMsg)
  deriving DecidableEq, Repr

/-- The requester a UALink completion ends at (R289): a stream unit, for its second tile (the index tile of a gather or scatter, the
source of an SMOV, the destination of a LAY) or its first, access i of a TP, or the request for item p of the command at index c of
a die's embedding engine. -/
inductive LinkUser where
  | unit (u : StreamUnit) (second : Bool)
  | access (f k i : Nat)
  | engine (die c p : Nat)
  deriving DecidableEq, Repr

/-- One step of the machine: a sequencer instruction (with its guard g), a Rook instruction, or an event. -/
inductive Instr where
  | nop (g : Guard)
  | trap (g : Guard) (code : BitVec 10)
  | yield (g : Guard)
  | park (g : Guard)
  | exit (g : Guard)
  | brk (g : Guard)
  | getk (g : Guard) (d : BitVec 5) (kn : BitVec 10)
  | putk (g : Guard) (a : BitVec 5) (kn : BitVec 10)
  | widf (g : Guard) (d : BitVec 5) (lvl : BitVec 3)
  | add (g : Guard) (d a b : BitVec 5)
  | sub (g : Guard) (d a b : BitVec 5)
  | mul (g : Guard) (d a b : BitVec 5)
  | mulhiS (g : Guard) (d a b : BitVec 5)
  | mulhiN (g : Guard) (d a b : BitVec 5)
  | divS (g : Guard) (d a b : BitVec 5)
  | divN (g : Guard) (d a b : BitVec 5)
  | remS (g : Guard) (d a b : BitVec 5)
  | remN (g : Guard) (d a b : BitVec 5)
  | and (g : Guard) (d a b : BitVec 5)
  | or (g : Guard) (d a b : BitVec 5)
  | xor (g : Guard) (d a b : BitVec 5)
  | shl (g : Guard) (d a b : BitVec 5)
  | shrN (g : Guard) (d a b : BitVec 5)
  | shrS (g : Guard) (d a b : BitVec 5)
  | minS (g : Guard) (d a b : BitVec 5)
  | minN (g : Guard) (d a b : BitVec 5)
  | maxS (g : Guard) (d a b : BitVec 5)
  | maxN (g : Guard) (d a b : BitVec 5)
  | bitcClz (g : Guard) (d a : BitVec 5)
  | bitcCtz (g : Guard) (d a : BitVec 5)
  | bitcPop (g : Guard) (d a : BitVec 5)
  | sel (g : Guard) (d a b : BitVec 5) (k : BitVec 3)
  | cmp (g : Guard) (pd : BitVec 3) (a b : BitVec 5) (c : BitVec 3)
  | cmpi (g : Guard) (pd : BitVec 3) (a : BitVec 5) (c : BitVec 3) (imm : BitVec 11)
  | addi (g : Guard) (d a : BitVec 5) (imm : BitVec 12)
  | andi (g : Guard) (d a : BitVec 5) (imm : BitVec 12)
  | ori (g : Guard) (d a : BitVec 5) (imm : BitVec 12)
  | xori (g : Guard) (d a : BitVec 5) (imm : BitVec 12)
  | shli (g : Guard) (d a : BitVec 5) (sh : BitVec 6)
  | shriS (g : Guard) (d a : BitVec 5) (sh : BitVec 6)
  | shriN (g : Guard) (d a : BitVec 5) (sh : BitVec 6)
  | lim (g : Guard) (d : BitVec 5) (imm : BitVec 17)
  | plog (g : Guard) (pd pa pb : BitVec 3) (tt : BitVec 4)
  | br (g : Guard) (off : BitVec 22)
  | jal (g : Guard) (d : BitVec 5) (off : BitVec 17)
  | jr (g : Guard) (a : BitVec 5) (off : BitVec 12)
  | loop (g : Guard) (c : BitVec 5) (len : BitVec 13)
  | tshp (g : Guard) (n : BitVec 2) (a : BitVec 5)
  | tbind (g : Guard) (t : BitVec 4) (e : BitVec 6) (n : BitVec 2) (rdim cdim : BitVec 3)
  | torg (g : Guard) (t : BitVec 4) (dim : BitVec 3) (a : BitVec 5)
  | tadv (g : Guard) (t : BitVec 4) (dim : BitVec 3) (a : BitVec 5)
  | tqry (g : Guard) (d : BitVec 5) (t : BitVec 4)
  | ltld (g : Guard) (e : BitVec 6) (j : BitVec 8)
  | ltw (g : Guard) (e : BitVec 6) (fld : BitVec 4) (a : BitVec 5)
  | spat (g : Guard) (sp : BitVec 3) (pf : BitVec 5) (a : BitVec 5)
  | srd (g : Guard) (t port : BitVec 4) (tag : BitVec 6) (sp : BitVec 3)
  | swr (g : Guard) (t port : BitVec 4) (tag : BitVec 6) (sp : BitVec 3)
  | sgth (g : Guard) (t port : BitVec 4) (tag : BitVec 6) (sp : BitVec 3)
  | ssctSt (g : Guard) (t port : BitVec 4) (tag : BitVec 6) (sp : BitVec 3)
  | ssctAdd (g : Guard) (t port : BitVec 4) (tag : BitVec 6) (sp : BitVec 3)
  | ssctMax (g : Guard) (t port : BitVec 4) (tag : BitVec 6) (sp : BitVec 3)
  | ssctMin (g : Guard) (t port : BitVec 4) (tag : BitVec 6) (sp : BitVec 3)
  | srec (g : Guard) (op ip : BitVec 4) (sp : BitVec 3)
  | sconC (g : Guard) (ip : BitVec 4) (sp : BitVec 3)
  | sconI (g : Guard) (ip : BitVec 4) (sp : BitVec 3)
  | smcs (g : Guard) (t port : BitVec 4) (tag : BitVec 6) (sp : BitVec 3) (b : BitVec 4)
  | sbar (g : Guard) (t : BitVec 4)
  | sbarSp (g : Guard) (space : BitVec 4)
  | sbarAll (g : Guard)
  | skilTag (g : Guard) (tag : BitVec 6)
  | skilIp (g : Guard) (port : BitVec 4)
  | skilOp (g : Guard) (port : BitVec 4)
  | twaitAll (g : Guard) (a : BitVec 5)
  | twaitAny (g : Guard) (a : BitVec 5)
  | tffr (g : Guard) (d a : BitVec 5)
  | tclr (g : Guard) (a : BitVec 5)
  | smov (g : Guard) (td ta : BitVec 4) (tag : BitVec 6)
  | cfgl (g : Guard) (a : BitVec 5) (tag : BitVec 6)
  | cfgw (g : Guard) (fr a b : BitVec 5)
  | cfgg (g : Guard) (tag : BitVec 6)
  | cfgq (g : Guard) (d : BitVec 5) (sel : BitVec 8)
  | mxt (g : Guard) (a b : BitVec 5)
  | mxtP (g : Guard) (port : BitVec 4)
  | mxtU (g : Guard)
  | lds (g : Guard) (d : BitVec 5) (t : BitVec 4) (a b : BitVec 5)
  | sts (g : Guard) (d : BitVec 5) (t : BitVec 4) (a b : BitVec 5)
  | atomSwp (g : Guard) (d : BitVec 5) (t : BitVec 4) (a : BitVec 5) (ord : BitVec 2) (scope : BitVec 3)
  | atomCas (g : Guard) (d : BitVec 5) (t : BitVec 4) (a : BitVec 5) (ord : BitVec 2) (scope : BitVec 3)
  | atomAdd (g : Guard) (d : BitVec 5) (t : BitVec 4) (a : BitVec 5) (ord : BitVec 2) (scope : BitVec 3)
  | atomAnd (g : Guard) (d : BitVec 5) (t : BitVec 4) (a : BitVec 5) (ord : BitVec 2) (scope : BitVec 3)
  | atomOr (g : Guard) (d : BitVec 5) (t : BitVec 4) (a : BitVec 5) (ord : BitVec 2) (scope : BitVec 3)
  | atomXor (g : Guard) (d : BitVec 5) (t : BitVec 4) (a : BitVec 5) (ord : BitVec 2) (scope : BitVec 3)
  | atomMax (g : Guard) (d : BitVec 5) (t : BitVec 4) (a : BitVec 5) (ord : BitVec 2) (scope : BitVec 3)
  | atomMin (g : Guard) (d : BitVec 5) (t : BitVec 4) (a : BitVec 5) (ord : BitVec 2) (scope : BitVec 3)
  | vld (g : Guard) (d : BitVec 5) (t : BitVec 4) (a : BitVec 5) (k : BitVec 3) (scope : BitVec 3)
  | vst (g : Guard) (d : BitVec 5) (t : BitVec 4) (a : BitVec 5) (scope : BitVec 3)
  | vrcl (g : Guard) (t : BitVec 4) (a : BitVec 5) (scope : BitVec 3)
  | fenceAcq (g : Guard) (scope : BitVec 3)
  | fenceRel (g : Guard) (scope : BitVec 3)
  | fenceFull (g : Guard) (scope : BitVec 3)
  | tsend (g : Guard) (d a : BitVec 5) (c : BitVec 2) (scope : BitVec 3)
  | trecv (g : Guard) (d : BitVec 5) (c : BitVec 2)
  | cbindOn (g : Guard) (c : BitVec 2)
  | cbindOff (g : Guard) (c : BitVec 2)
  | qpsh (g : Guard) (d a : BitVec 5) (scope : BitVec 3)
  | qpop (g : Guard) (d a : BitVec 5) (k : BitVec 3)
  | qctlStat (g : Guard) (d a : BitVec 5)
  | qctlCfg (g : Guard) (a : BitVec 5) (t : BitVec 4)
  | qctlOff (g : Guard) (a : BitVec 5)
  | lay (g : Guard) (tag : BitVec 6) (a b : BitVec 5)
  | egat (g : Guard) (tag : BitVec 6) (t : BitVec 4) (a : BitVec 5)
  | eupd (g : Guard) (tag : BitVec 6) (t : BitVec 4) (a : BitVec 5)
  | epin (g : Guard) (tag : BitVec 6) (t : BitVec 4) (a : BitVec 5)
  | ingqStart (g : Guard) (tag : BitVec 6) (t : BitVec 4) (a : BitVec 5)
  | ingqStop (g : Guard) (tag : BitVec 6) (a : BitVec 5)
  | ingqStat (g : Guard) (d a : BitVec 5)
  | ssqCfg (g : Guard) (a : BitVec 5) (t : BitVec 4) (tag : BitVec 6)
  | ssqGo (g : Guard) (a : BitVec 5) (t : BitVec 4) (tag : BitVec 6)
  | ssqStat (g : Guard) (d a : BitVec 5)
  | ssqStop (g : Guard) (a : BitVec 5) (tag : BitVec 6)
  | rfet (rd rs1 rs2 : BitVec 5)
  | bfxt (rd rs1 rs2 : BitVec 5)
  | sgwt (rd : BitVec 5)
  | dspt (rd rs1 rs2 : BitVec 5)
  | sgst (rd : BitVec 5)
  | slotAged (f k : Nat)
  | parkDrainEnd (f k : Nat)
  | tpRetire (f k : Nat)
  | tpTrapped (f k : Nat)
  | twaitWake (f k : Nat)
  | trecvWake (f k : Nat)
  | divResult (f k : Nat)
  | mulResult (f k : Nat)
  | ldsReturn (f k i : Nat)
  | atomPerform (f k i : Nat)
  | tokenWordArrival (i : Nat)
  | mailboxMove (f k c : Nat)
  | streamStart (f e : Nat)
  | streamElement (u : StreamUnit)
  | streamComplete (f e : Nat)
  | barrierRelease (f e : Nat)
  | groupFire (f c : Nat)
  | groupCommit (f c : Nat)
  | generatorAccess (f m g : Nat)
  | switchBoxHop (f b p : Nat)
  | cfglLoadEnd (f : Nat)
  | configSwitch (f : Nat)
  | matrixTokenFeed (f : Nat)
  | mma (f q : Nat)
  | mmat (f q : Nat)
  | mmov (f q : Nat)
  | mclr (f q : Nat)
  | mtab (f q : Nat)
  | mtabComplete (f q : Nat)
  | matrixContribution (f q : Nat)
  | layStart (die : Nat)
  | layComplete (die n : Nat)
  | vstRetry (f k : Nat)
  | vldWake (f k : Nat)
  | lvWaitLimit (f k : Nat)
  | qpshRetry (f k : Nat)
  | qpopWake (f k : Nat)
  | queueRefill (h : Nat)
  | ingqStartDone (p : Nat)
  | ingqStopDone (p : Nat)
  | ingestRecordPop (p : Nat)
  | ingestStage (p st : Nat)
  | quarantineRingResume (p : Nat)
  | ingestResultPush (p : Nat)
  | egatBag (die c b : Nat)
  | eupdCoalesce (die c : Nat)
  | eupdContribution (die i : Nat)
  | eupdClose (die i : Nat)
  | epinPin (die c : Nat)
  | epinUnpin (die c : Nat)
  | epinPrefetch (die c : Nat)
  | epinMigrate (die c : Nat)
  | migrateCommit (die tid row : Nat)
  | relayEnd (die i : Nat)
  | epinFlush (die c : Nat)
  | epinInval (die c : Nat)
  | epinSetk (die c : Nat)
  | moraineAgeing (die set : Nat)
  | engineComplete (die c : Nat)
  | ssqCfgDone (die n : Nat)
  | solverRoundStart (die n : Nat)
  | solverErrorWord (die n : Nat)
  | solverDecision (die n : Nat)
  | pageWalk (f : Nat) (va : BitVec 52) (need : Need)
  | heldRecordWrite (x : Nat)
  | doorbellRing (x q : Nat)
  | doorbellEnable (x q : Nat)
  | doorbellDisable (x q : Nat)
  | doorbellResume (x q : Nat)
  | hwSlotGrant (x : Nat)
  | launchPacket (q : Nat)
  | deltaPacket (q : Nat)
  | deltaFloeWrite (q f : Nat)
  | waitPacket (q : Nat)
  | waitEvaluate (q : Nat)
  | waitTimeout (q : Nat)
  | signalPacket (q : Nat)
  | fencePacket (q : Nat)
  | queueQuantumExpire (q : Nat)
  | schedulerPass
  | regionQuantumExpire (lid : Nat)
  | sequencerHalt (f : Nat)
  | floeSaveComplete (f : Nat)
  | regionRestore (lid : Nat)
  | regionStalemate (lid : Nat)
  | drainStalemate (f : Nat)
  | pairedCountDelivery (x : Nat)
  | release (x : Nat) (v : BitVec 64)
  | ptrootWrite (v : BitVec 64)
  | tlbi (v : BitVec 64)
  | tlbiComplete
  | retry (v : BitVec 64)
  | atcmd (v : BitVec 64)
  | qtbaseWrite (x : Nat) (v : BitVec 64)
  | mbxbaseWrite (x : Nat) (v : BitVec 64)
  | mbxconsWrite (x : Nat) (v : BitVec 64)
  | registerWrite (off : Nat) (v : BitVec 64)
  | rcmdAppend
  | rcmdVerify
  | rcmdStart
  | hostInboundRequest (r : Inbound)
  | peerInboundRequest (station : Nat) (r : Inbound)
  | ualinkLinkDown (station : Nat)
  | ualinkErrorCompletion (u : LinkUser)
  | ualinkCompletionTimeout (u : LinkUser)
  | clockStepDown
  | clockStepUp
  | telemetryRead (die counter : Nat)
  | dieReset (die : Nat)
  | flr
  | perst
  | rookBoot (x : Nat)
  | startComplete
  | startFail (reason : BitVec 8)
  | startTimeout
  | issueCompletion (f k : Nat)
  | rowLookUp (die c p : Nat)
  | dieLeavesReset (die : Nat)
  | spdmMeasurementRequest
  deriving DecidableEq, Repr

end Sys2Proof
end

