-- ==== Sys2Proof/WellFormed.lean ====
section
/-!
DEFINITION. Which instruction terms are well formed: the encoded operand limits of R306 (causes 0x02, 0x04 and 0x06 of a
decoded field), and for a step without an encoding the agents that exist (R13, R14, R15, R248).
-/

namespace Sys2Proof

/-- A scope field of 0-6 (R173). -/
def scopeOk (x : BitVec 3) : Bool := x.toNat != 7

/-- A push or send scope of 0-4 (R199, R315). -/
def pushScopeOk (x : BitVec 3) : Bool := decide (x.toNat ≤ 4)

/-- ATOM's scope: 0 when the order is .rlx, never 7 (R333). -/
def atomScopeOk (ord : BitVec 2) (x : BitVec 3) : Bool := (ord.toNat != 0 || x.toNat == 0) && x.toNat != 7

/-- A CFGQ selector that R132 lists. -/
def cfgqSelOk (x : BitVec 8) : Bool := decide (x.toNat ≤ 3) || (decide (8 ≤ x.toNat) && decide (x.toNat ≤ 23))

/-- A space code SBAR may name (R77). -/
def sbarSpaceOk (x : BitVec 4) : Bool := x.toNat != 2 && decide (x.toNat ≤ 6)

/-- A floe number of the module (R13). -/
def floeOk (f : Nat) : Bool := decide (f < 144)

/-- A slot of a floe's handler table (R35). -/
def slotOk (f k : Nat) : Bool := decide (f < 144) && decide (k < 8)

/-- An index below a count, at an existing floe. -/
def unitOk (f n lim : Nat) : Bool := decide (f < 144) && decide (n < lim)

/-- A compute die (R11). -/
def dieOk (d : Nat) : Bool := decide (d < 4)

/-- A die of the module: compute dies 0-3, I/O dies 4 and 5 (R11). -/
def anyDieOk (d : Nat) : Bool := decide (d < 6)

/-- A unit that moves stream elements: an entry of a stream table (R87), or a Firn engine of a die (R382). -/
def streamUnitOk : StreamUnit → Bool
  | .floe f e => unitOk f e 32
  | .firn die n => dieOk die && decide (n < 8)

/-- A unit with a request to another module (R289). -/
def linkUserOk : LinkUser → Bool
  | .unit u _ => streamUnitOk u
  | .access f k _ => slotOk f k
  | .engine die _ _ => dieOk die

/-- A software queue number (R248). -/
def swqOk (q : Nat) : Bool := decide (q < 4096)

/-- Well-formedness of an instruction term. -/
def Instr.wf : Instr → Bool
  | .nop _ => true
  | .trap _ _ => true
  | .yield _ => true
  | .park _ => true
  | .exit _ => true
  | .brk _ => true
  | .getk _ _ kn => decide (kn.toNat ≤ 11)
  | .putk _ _ kn => decide (kn.toNat ≤ 11)
  | .widf _ _ lvl => decide (lvl.toNat ≤ 5)
  | .add _ _ _ _ => true
  | .sub _ _ _ _ => true
  | .mul _ _ _ _ => true
  | .mulhiS _ _ _ _ => true
  | .mulhiN _ _ _ _ => true
  | .divS _ _ _ _ => true
  | .divN _ _ _ _ => true
  | .remS _ _ _ _ => true
  | .remN _ _ _ _ => true
  | .and _ _ _ _ => true
  | .or _ _ _ _ => true
  | .xor _ _ _ _ => true
  | .shl _ _ _ _ => true
  | .shrN _ _ _ _ => true
  | .shrS _ _ _ _ => true
  | .minS _ _ _ _ => true
  | .minN _ _ _ _ => true
  | .maxS _ _ _ _ => true
  | .maxN _ _ _ _ => true
  | .bitcClz _ _ _ => true
  | .bitcCtz _ _ _ => true
  | .bitcPop _ _ _ => true
  | .sel _ _ _ _ _ => true
  | .cmp _ _ _ _ c => decide (c.toNat ≤ 5)
  | .cmpi _ _ _ c _ => decide (c.toNat ≤ 5)
  | .addi _ _ _ _ => true
  | .andi _ _ _ _ => true
  | .ori _ _ _ _ => true
  | .xori _ _ _ _ => true
  | .shli _ _ _ _ => true
  | .shriS _ _ _ _ => true
  | .shriN _ _ _ _ => true
  | .lim _ _ _ => true
  | .plog _ _ _ _ _ => true
  | .br _ _ => true
  | .jal _ _ _ => true
  | .jr _ _ _ => true
  | .loop _ _ len => len.toNat != 0
  | .tshp _ _ _ => true
  | .tbind _ _ _ _ rdim cdim => rdim.toNat != 7 && cdim.toNat != 7 && rdim != cdim
  | .torg _ _ dim _ => dim.toNat != 7
  | .tadv _ _ dim _ => dim.toNat != 7
  | .tqry _ _ _ => true
  | .ltld _ _ _ => true
  | .ltw _ _ _ _ => true
  | .spat _ _ pf _ => decide (pf.toNat ≤ 8)
  | .srd _ _ _ _ _ => true
  | .swr _ _ _ _ _ => true
  | .sgth _ _ _ _ _ => true
  | .ssctSt _ _ _ _ _ => true
  | .ssctAdd _ _ _ _ _ => true
  | .ssctMax _ _ _ _ _ => true
  | .ssctMin _ _ _ _ _ => true
  | .srec _ _ _ _ => true
  | .sconC _ _ _ => true
  | .sconI _ _ _ => true
  | .smcs _ _ _ _ _ b => b.toNat != 0
  | .sbar _ _ => true
  | .sbarSp _ space => sbarSpaceOk space
  | .sbarAll _ => true
  | .skilTag _ _ => true
  | .skilIp _ _ => true
  | .skilOp _ _ => true
  | .twaitAll _ _ => true
  | .twaitAny _ _ => true
  | .tffr _ _ _ => true
  | .tclr _ _ => true
  | .smov _ _ _ _ => true
  | .cfgl _ _ tag => tag.toNat != 0
  | .cfgw _ _ _ _ => true
  | .cfgg _ _ => true
  | .cfgq _ _ selr => cfgqSelOk selr
  | .mxt _ _ _ => true
  | .mxtP _ _ => true
  | .mxtU _ => true
  | .lds _ _ _ _ _ => true
  | .sts _ _ _ _ _ => true
  | .atomSwp _ _ _ _ ord scope => atomScopeOk ord scope
  | .atomCas _ _ _ _ ord scope => atomScopeOk ord scope
  | .atomAdd _ _ _ _ ord scope => atomScopeOk ord scope
  | .atomAnd _ _ _ _ ord scope => atomScopeOk ord scope
  | .atomOr _ _ _ _ ord scope => atomScopeOk ord scope
  | .atomXor _ _ _ _ ord scope => atomScopeOk ord scope
  | .atomMax _ _ _ _ ord scope => atomScopeOk ord scope
  | .atomMin _ _ _ _ ord scope => atomScopeOk ord scope
  | .vld _ _ _ _ _ scope => scopeOk scope
  | .vst _ _ _ _ scope => scopeOk scope
  | .vrcl _ _ _ scope => scopeOk scope
  | .fenceAcq _ scope => scopeOk scope
  | .fenceRel _ scope => scopeOk scope
  | .fenceFull _ scope => scopeOk scope
  | .tsend _ _ _ _ scope => pushScopeOk scope
  | .trecv _ _ _ => true
  | .cbindOn _ _ => true
  | .cbindOff _ _ => true
  | .qpsh _ d _ scope => decide (d.toNat ≤ 28) && pushScopeOk scope
  | .qpop _ d _ _ => decide (d.toNat ≤ 28)
  | .qctlStat _ _ _ => true
  | .qctlCfg _ _ _ => true
  | .qctlOff _ _ => true
  | .lay _ _ _ _ => true
  | .egat _ _ _ _ => true
  | .eupd _ _ _ _ => true
  | .epin _ _ _ _ => true
  | .ingqStart _ _ _ _ => true
  | .ingqStop _ _ _ => true
  | .ingqStat _ _ _ => true
  | .ssqCfg _ _ _ _ => true
  | .ssqGo _ _ _ _ => true
  | .ssqStat _ _ _ => true
  | .ssqStop _ _ _ => true
  | .rfet _ _ _ => true
  | .bfxt _ _ _ => true
  | .sgwt _ => true
  | .dspt _ _ _ => true
  | .sgst _ => true
  | .slotAged f k => slotOk f k
  | .parkDrainEnd f k => slotOk f k
  | .tpRetire f k => slotOk f k
  | .tpTrapped f k => slotOk f k
  | .twaitWake f k => slotOk f k
  | .trecvWake f k => slotOk f k
  | .divResult f k => slotOk f k
  | .mulResult f k => slotOk f k
  | .ldsReturn f k _ => slotOk f k
  | .atomPerform f k _ => slotOk f k
  | .tokenWordArrival _ => true
  | .mailboxMove f k c => slotOk f k && decide (c < 4)
  | .streamStart f e => unitOk f e 32
  | .streamElement u => streamUnitOk u
  | .streamComplete f e => unitOk f e 32
  | .barrierRelease f e => unitOk f e 32
  | .groupFire f c => unitOk f c 8
  | .groupCommit f c => unitOk f c 8
  | .generatorAccess f m g => unitOk f m 8 && decide (g < 4)
  | .switchBoxHop f b p => unitOk f b 16 && decide (p < 8)
  | .cfglLoadEnd f => floeOk f
  | .configSwitch f => floeOk f
  | .matrixTokenFeed f => floeOk f
  | .mma f q => unitOk f q 4
  | .mmat f q => unitOk f q 4
  | .mmov f q => unitOk f q 4
  | .mclr f q => unitOk f q 4
  | .mtab f q => unitOk f q 4
  | .mtabComplete f q => unitOk f q 4
  | .matrixContribution f q => unitOk f q 4
  | .layStart die => dieOk die
  | .layComplete die n => dieOk die && decide (n < 8)
  | .vstRetry f k => slotOk f k
  | .vldWake f k => slotOk f k
  | .lvWaitLimit f k => slotOk f k
  | .qpshRetry f k => slotOk f k
  | .qpopWake f k => slotOk f k
  | .queueRefill h => decide (h < 512)
  | .ingqStartDone p => decide (p < 16)
  | .ingqStopDone p => decide (p < 16)
  | .ingestRecordPop p => decide (p < 16)
  | .ingestStage p st => decide (p < 16) && decide (1 ≤ st) && decide (st ≤ 5)
  | .quarantineRingResume p => decide (p < 16)
  | .ingestResultPush p => decide (p < 16)
  | .egatBag die _ _ => dieOk die
  | .eupdCoalesce die _ => dieOk die
  | .eupdContribution die _ => dieOk die
  | .eupdClose die _ => dieOk die
  | .epinPin die _ => dieOk die
  | .epinUnpin die _ => dieOk die
  | .epinPrefetch die _ => dieOk die
  | .epinMigrate die _ => dieOk die
  | .migrateCommit die _ _ => dieOk die
  | .relayEnd die _ => dieOk die
  | .epinFlush die _ => dieOk die
  | .epinInval die _ => dieOk die
  | .epinSetk die _ => dieOk die
  | .moraineAgeing die set => dieOk die && decide (set < 2048)
  | .engineComplete die _ => dieOk die
  | .ssqCfgDone die n => dieOk die && decide (n < 4)
  | .solverRoundStart die n => dieOk die && decide (n < 4)
  | .solverErrorWord die n => dieOk die && decide (n < 4)
  | .solverDecision die n => dieOk die && decide (n < 4)
  | .pageWalk f _ _ => floeOk f
  | .heldRecordWrite x => decide (x < 2)
  | .doorbellRing x q => decide (x < 2) && swqOk q
  | .doorbellEnable x q => decide (x < 2) && swqOk q
  | .doorbellDisable x q => decide (x < 2) && swqOk q
  | .doorbellResume x q => decide (x < 2) && swqOk q
  | .hwSlotGrant x => decide (x < 2)
  | .launchPacket q => swqOk q
  | .deltaPacket q => swqOk q
  | .deltaFloeWrite q f => swqOk q && floeOk f
  | .waitPacket q => swqOk q
  | .waitEvaluate q => swqOk q
  | .waitTimeout q => swqOk q
  | .signalPacket q => swqOk q
  | .fencePacket q => swqOk q
  | .queueQuantumExpire q => swqOk q
  | .schedulerPass => true
  | .regionQuantumExpire lid => decide (lid < 65536)
  | .sequencerHalt f => floeOk f
  | .floeSaveComplete f => floeOk f
  | .regionRestore lid => decide (lid < 65536)
  | .regionStalemate lid => decide (lid < 65536)
  | .drainStalemate f => floeOk f
  | .pairedCountDelivery x => decide (x < 2)
  | .release x _ => decide (x < 2)
  | .ptrootWrite _ => true
  | .tlbi _ => true
  | .tlbiComplete => true
  | .retry _ => true
  | .atcmd _ => true
  | .qtbaseWrite x _ => decide (x < 2)
  | .mbxbaseWrite x _ => decide (x < 2)
  | .mbxconsWrite x _ => decide (x < 2)
  | .registerWrite _ _ => true
  | .rcmdAppend => true
  | .rcmdVerify => true
  | .rcmdStart => true
  | .hostInboundRequest _ => true
  | .peerInboundRequest station _ => decide (station < 12)
  | .ualinkLinkDown station => decide (station < 12)
  | .ualinkErrorCompletion u => linkUserOk u
  | .ualinkCompletionTimeout u => linkUserOk u
  | .clockStepDown => true
  | .clockStepUp => true
  | .telemetryRead die _ => anyDieOk die
  | .dieReset die => anyDieOk die
  | .flr => true
  | .perst => true
  | .rookBoot x => decide (x < 2)
  | .startComplete => true
  | .startFail _ => true
  | .startTimeout => true
  | .issueCompletion f k => slotOk f k
  | .rowLookUp die _ _ => dieOk die
  | .dieLeavesReset die => anyDieOk die
  | .spdmMeasurementRequest => true

/-- An instruction with a 32-bit encoding: a sequencer or a Rook instruction (R304, R247). -/
def Instr.encoded : Instr → Bool
  | .nop _ => true
  | .trap _ _ => true
  | .yield _ => true
  | .park _ => true
  | .exit _ => true
  | .brk _ => true
  | .getk _ _ _ => true
  | .putk _ _ _ => true
  | .widf _ _ _ => true
  | .add _ _ _ _ => true
  | .sub _ _ _ _ => true
  | .mul _ _ _ _ => true
  | .mulhiS _ _ _ _ => true
  | .mulhiN _ _ _ _ => true
  | .divS _ _ _ _ => true
  | .divN _ _ _ _ => true
  | .remS _ _ _ _ => true
  | .remN _ _ _ _ => true
  | .and _ _ _ _ => true
  | .or _ _ _ _ => true
  | .xor _ _ _ _ => true
  | .shl _ _ _ _ => true
  | .shrN _ _ _ _ => true
  | .shrS _ _ _ _ => true
  | .minS _ _ _ _ => true
  | .minN _ _ _ _ => true
  | .maxS _ _ _ _ => true
  | .maxN _ _ _ _ => true
  | .bitcClz _ _ _ => true
  | .bitcCtz _ _ _ => true
  | .bitcPop _ _ _ => true
  | .sel _ _ _ _ _ => true
  | .cmp _ _ _ _ _ => true
  | .cmpi _ _ _ _ _ => true
  | .addi _ _ _ _ => true
  | .andi _ _ _ _ => true
  | .ori _ _ _ _ => true
  | .xori _ _ _ _ => true
  | .shli _ _ _ _ => true
  | .shriS _ _ _ _ => true
  | .shriN _ _ _ _ => true
  | .lim _ _ _ => true
  | .plog _ _ _ _ _ => true
  | .br _ _ => true
  | .jal _ _ _ => true
  | .jr _ _ _ => true
  | .loop _ _ _ => true
  | .tshp _ _ _ => true
  | .tbind _ _ _ _ _ _ => true
  | .torg _ _ _ _ => true
  | .tadv _ _ _ _ => true
  | .tqry _ _ _ => true
  | .ltld _ _ _ => true
  | .ltw _ _ _ _ => true
  | .spat _ _ _ _ => true
  | .srd _ _ _ _ _ => true
  | .swr _ _ _ _ _ => true
  | .sgth _ _ _ _ _ => true
  | .ssctSt _ _ _ _ _ => true
  | .ssctAdd _ _ _ _ _ => true
  | .ssctMax _ _ _ _ _ => true
  | .ssctMin _ _ _ _ _ => true
  | .srec _ _ _ _ => true
  | .sconC _ _ _ => true
  | .sconI _ _ _ => true
  | .smcs _ _ _ _ _ _ => true
  | .sbar _ _ => true
  | .sbarSp _ _ => true
  | .sbarAll _ => true
  | .skilTag _ _ => true
  | .skilIp _ _ => true
  | .skilOp _ _ => true
  | .twaitAll _ _ => true
  | .twaitAny _ _ => true
  | .tffr _ _ _ => true
  | .tclr _ _ => true
  | .smov _ _ _ _ => true
  | .cfgl _ _ _ => true
  | .cfgw _ _ _ _ => true
  | .cfgg _ _ => true
  | .cfgq _ _ _ => true
  | .mxt _ _ _ => true
  | .mxtP _ _ => true
  | .mxtU _ => true
  | .lds _ _ _ _ _ => true
  | .sts _ _ _ _ _ => true
  | .atomSwp _ _ _ _ _ _ => true
  | .atomCas _ _ _ _ _ _ => true
  | .atomAdd _ _ _ _ _ _ => true
  | .atomAnd _ _ _ _ _ _ => true
  | .atomOr _ _ _ _ _ _ => true
  | .atomXor _ _ _ _ _ _ => true
  | .atomMax _ _ _ _ _ _ => true
  | .atomMin _ _ _ _ _ _ => true
  | .vld _ _ _ _ _ _ => true
  | .vst _ _ _ _ _ => true
  | .vrcl _ _ _ _ => true
  | .fenceAcq _ _ => true
  | .fenceRel _ _ => true
  | .fenceFull _ _ => true
  | .tsend _ _ _ _ _ => true
  | .trecv _ _ _ => true
  | .cbindOn _ _ => true
  | .cbindOff _ _ => true
  | .qpsh _ _ _ _ => true
  | .qpop _ _ _ _ => true
  | .qctlStat _ _ _ => true
  | .qctlCfg _ _ _ => true
  | .qctlOff _ _ => true
  | .lay _ _ _ _ => true
  | .egat _ _ _ _ => true
  | .eupd _ _ _ _ => true
  | .epin _ _ _ _ => true
  | .ingqStart _ _ _ _ => true
  | .ingqStop _ _ _ => true
  | .ingqStat _ _ _ => true
  | .ssqCfg _ _ _ _ => true
  | .ssqGo _ _ _ _ => true
  | .ssqStat _ _ _ => true
  | .ssqStop _ _ _ => true
  | .rfet _ _ _ => true
  | .bfxt _ _ _ => true
  | .sgwt _ => true
  | .dspt _ _ _ => true
  | .sgst _ => true
  | .slotAged _ _ => false
  | .parkDrainEnd _ _ => false
  | .tpRetire _ _ => false
  | .tpTrapped _ _ => false
  | .twaitWake _ _ => false
  | .trecvWake _ _ => false
  | .divResult _ _ => false
  | .mulResult _ _ => false
  | .ldsReturn _ _ _ => false
  | .atomPerform _ _ _ => false
  | .tokenWordArrival _ => false
  | .mailboxMove _ _ _ => false
  | .streamStart _ _ => false
  | .streamElement _ => false
  | .streamComplete _ _ => false
  | .barrierRelease _ _ => false
  | .groupFire _ _ => false
  | .groupCommit _ _ => false
  | .generatorAccess _ _ _ => false
  | .switchBoxHop _ _ _ => false
  | .cfglLoadEnd _ => false
  | .configSwitch _ => false
  | .matrixTokenFeed _ => false
  | .mma _ _ => false
  | .mmat _ _ => false
  | .mmov _ _ => false
  | .mclr _ _ => false
  | .mtab _ _ => false
  | .mtabComplete _ _ => false
  | .matrixContribution _ _ => false
  | .layStart _ => false
  | .layComplete _ _ => false
  | .vstRetry _ _ => false
  | .vldWake _ _ => false
  | .lvWaitLimit _ _ => false
  | .qpshRetry _ _ => false
  | .qpopWake _ _ => false
  | .queueRefill _ => false
  | .ingqStartDone _ => false
  | .ingqStopDone _ => false
  | .ingestRecordPop _ => false
  | .ingestStage _ _ => false
  | .quarantineRingResume _ => false
  | .ingestResultPush _ => false
  | .egatBag _ _ _ => false
  | .eupdCoalesce _ _ => false
  | .eupdContribution _ _ => false
  | .eupdClose _ _ => false
  | .epinPin _ _ => false
  | .epinUnpin _ _ => false
  | .epinPrefetch _ _ => false
  | .epinMigrate _ _ => false
  | .migrateCommit _ _ _ => false
  | .relayEnd _ _ => false
  | .epinFlush _ _ => false
  | .epinInval _ _ => false
  | .epinSetk _ _ => false
  | .moraineAgeing _ _ => false
  | .engineComplete _ _ => false
  | .ssqCfgDone _ _ => false
  | .solverRoundStart _ _ => false
  | .solverErrorWord _ _ => false
  | .solverDecision _ _ => false
  | .pageWalk _ _ _ => false
  | .heldRecordWrite _ => false
  | .doorbellRing _ _ => false
  | .doorbellEnable _ _ => false
  | .doorbellDisable _ _ => false
  | .doorbellResume _ _ => false
  | .hwSlotGrant _ => false
  | .launchPacket _ => false
  | .deltaPacket _ => false
  | .deltaFloeWrite _ _ => false
  | .waitPacket _ => false
  | .waitEvaluate _ => false
  | .waitTimeout _ => false
  | .signalPacket _ => false
  | .fencePacket _ => false
  | .queueQuantumExpire _ => false
  | .schedulerPass => false
  | .regionQuantumExpire _ => false
  | .sequencerHalt _ => false
  | .floeSaveComplete _ => false
  | .regionRestore _ => false
  | .regionStalemate _ => false
  | .drainStalemate _ => false
  | .pairedCountDelivery _ => false
  | .release _ _ => false
  | .ptrootWrite _ => false
  | .tlbi _ => false
  | .tlbiComplete => false
  | .retry _ => false
  | .atcmd _ => false
  | .qtbaseWrite _ _ => false
  | .mbxbaseWrite _ _ => false
  | .mbxconsWrite _ _ => false
  | .registerWrite _ _ => false
  | .rcmdAppend => false
  | .rcmdVerify => false
  | .rcmdStart => false
  | .hostInboundRequest _ => false
  | .peerInboundRequest _ _ => false
  | .ualinkLinkDown _ => false
  | .ualinkErrorCompletion _ => false
  | .ualinkCompletionTimeout _ => false
  | .clockStepDown => false
  | .clockStepUp => false
  | .telemetryRead _ _ => false
  | .dieReset _ => false
  | .flr => false
  | .perst => false
  | .rookBoot _ => false
  | .startComplete => false
  | .startFail _ => false
  | .startTimeout => false
  | .issueCompletion _ _ => false
  | .rowLookUp _ _ _ => false
  | .dieLeavesReset _ => false
  | .spdmMeasurementRequest => false

end Sys2Proof
end

