-- ==== Sys2Proof/Decode.lean ====
section
/-!
DEFINITION. Decoding of instruction words (R304-R317, R247), total on any word, rejecting by the ILLEGAL cause of R306 in
the order of R305, and after it the encoder. Fields are read with division and remainder of the word as a number, the
mask and shift of R6.
-/

namespace Sys2Proof

/-- Bits [lo+n-1:lo] of w (R6). -/
def fld (w lo n : Nat) : Nat := w / 2 ^ lo % 2 ^ n

/-- The same bits as a bit vector. -/
def bfld (w lo n : Nat) : BitVec n := BitVec.ofNat n (fld w lo n)

/-- Two's complement reading of an n-bit value: Sext of R318. -/
def sext {n : Nat} (x : BitVec n) : Int := x.toInt

/-- A decode check: cause c is raised when the condition fails (R305). -/
def chk (ok : Bool) (c : Nat) (k : Except Nat Instr) : Except Nat Instr := if ok then k else .error c

/-- The guard of a sequencer word (R304). -/
def guardOf (w : Nat) : Guard := ⟨bfld w 23 3, fld w 22 1 == 1⟩

/-- Words of MAJ 0x00: the function field is [6:0] (R309-R316). -/
def decodeSys (w : Nat) (g : Guard) : Except Nat Instr :=
  match fld w 0 7 with
  | 0 => chk (fld w 7 15 == 0) 3 (.ok (.nop g))
  | 1 => chk (fld w 17 5 == 0) 3 (.ok (.trap g (bfld w 7 10)))
  | 2 => chk (fld w 7 15 == 0) 3 (.ok (.yield g))
  | 3 => chk (fld w 7 15 == 0) 3 (.ok (.park g))
  | 4 => chk (fld w 7 15 == 0) 3 (.ok (.exit g))
  | 5 => chk (fld w 7 15 == 0) 3 (.ok (.brk g))
  | 6 => chk (decide (fld w 7 10 ≤ 11)) 6 (.ok (.getk g (bfld w 17 5) (bfld w 7 10)))
  | 7 => chk (decide (fld w 7 10 ≤ 11)) 6 (.ok (.putk g (bfld w 17 5) (bfld w 7 10)))
  | 8 => chk (fld w 10 7 == 0) 3 (chk (decide (fld w 7 3 ≤ 5)) 4 (.ok (.widf g (bfld w 17 5) (bfld w 7 3))))
  | _ => .error 2

/-- Words of MAJ 0x01: the function field is [6:0] (R309-R316). -/
def decodeAlu (w : Nat) (g : Guard) : Except Nat Instr :=
  match fld w 0 7 with
  | 0 => .ok (.add g (bfld w 17 5) (bfld w 12 5) (bfld w 7 5))
  | 1 => .ok (.sub g (bfld w 17 5) (bfld w 12 5) (bfld w 7 5))
  | 2 => .ok (.mul g (bfld w 17 5) (bfld w 12 5) (bfld w 7 5))
  | 3 => .ok (.mulhiS g (bfld w 17 5) (bfld w 12 5) (bfld w 7 5))
  | 4 => .ok (.mulhiN g (bfld w 17 5) (bfld w 12 5) (bfld w 7 5))
  | 5 => .ok (.divS g (bfld w 17 5) (bfld w 12 5) (bfld w 7 5))
  | 6 => .ok (.divN g (bfld w 17 5) (bfld w 12 5) (bfld w 7 5))
  | 7 => .ok (.remS g (bfld w 17 5) (bfld w 12 5) (bfld w 7 5))
  | 8 => .ok (.remN g (bfld w 17 5) (bfld w 12 5) (bfld w 7 5))
  | 9 => .ok (.and g (bfld w 17 5) (bfld w 12 5) (bfld w 7 5))
  | 10 => .ok (.or g (bfld w 17 5) (bfld w 12 5) (bfld w 7 5))
  | 11 => .ok (.xor g (bfld w 17 5) (bfld w 12 5) (bfld w 7 5))
  | 12 => .ok (.shl g (bfld w 17 5) (bfld w 12 5) (bfld w 7 5))
  | 13 => .ok (.shrN g (bfld w 17 5) (bfld w 12 5) (bfld w 7 5))
  | 14 => .ok (.shrS g (bfld w 17 5) (bfld w 12 5) (bfld w 7 5))
  | 15 => .ok (.minS g (bfld w 17 5) (bfld w 12 5) (bfld w 7 5))
  | 16 => .ok (.minN g (bfld w 17 5) (bfld w 12 5) (bfld w 7 5))
  | 17 => .ok (.maxS g (bfld w 17 5) (bfld w 12 5) (bfld w 7 5))
  | 18 => .ok (.maxN g (bfld w 17 5) (bfld w 12 5) (bfld w 7 5))
  | 19 => chk (fld w 7 5 == 0) 3 (.ok (.bitcClz g (bfld w 17 5) (bfld w 12 5)))
  | 20 => chk (fld w 7 5 == 0) 3 (.ok (.bitcCtz g (bfld w 17 5) (bfld w 12 5)))
  | 21 => chk (fld w 7 5 == 0) 3 (.ok (.bitcPop g (bfld w 17 5) (bfld w 12 5)))
  | 24 => .ok (.sel g (bfld w 17 5) (bfld w 12 5) (bfld w 7 5) (bfld w 0 3))
  | 25 => .ok (.sel g (bfld w 17 5) (bfld w 12 5) (bfld w 7 5) (bfld w 0 3))
  | 26 => .ok (.sel g (bfld w 17 5) (bfld w 12 5) (bfld w 7 5) (bfld w 0 3))
  | 27 => .ok (.sel g (bfld w 17 5) (bfld w 12 5) (bfld w 7 5) (bfld w 0 3))
  | 28 => .ok (.sel g (bfld w 17 5) (bfld w 12 5) (bfld w 7 5) (bfld w 0 3))
  | 29 => .ok (.sel g (bfld w 17 5) (bfld w 12 5) (bfld w 7 5) (bfld w 0 3))
  | 30 => .ok (.sel g (bfld w 17 5) (bfld w 12 5) (bfld w 7 5) (bfld w 0 3))
  | 31 => .ok (.sel g (bfld w 17 5) (bfld w 12 5) (bfld w 7 5) (bfld w 0 3))
  | _ => .error 2

/-- Words of MAJ 0x08: the function field is [6:6] (R309-R316). -/
def decodeShri (w : Nat) (g : Guard) : Except Nat Instr :=
  match fld w 6 1 with
  | 0 => chk (fld w 7 5 == 0) 3 (.ok (.shriN g (bfld w 17 5) (bfld w 12 5) (bfld w 0 6)))
  | 1 => chk (fld w 7 5 == 0) 3 (.ok (.shriS g (bfld w 17 5) (bfld w 12 5) (bfld w 0 6)))
  | _ => .error 2

/-- Words of MAJ 0x24: the function field is [2:0] (R309-R316). -/
def decodeSsct (w : Nat) (g : Guard) : Except Nat Instr :=
  match fld w 0 3 with
  | 0 => chk (fld w 3 2 == 0) 3 (.ok (.ssctSt g (bfld w 18 4) (bfld w 14 4) (bfld w 8 6) (bfld w 5 3)))
  | 1 => chk (fld w 3 2 == 0) 3 (.ok (.ssctAdd g (bfld w 18 4) (bfld w 14 4) (bfld w 8 6) (bfld w 5 3)))
  | 2 => chk (fld w 3 2 == 0) 3 (.ok (.ssctMax g (bfld w 18 4) (bfld w 14 4) (bfld w 8 6) (bfld w 5 3)))
  | 3 => chk (fld w 3 2 == 0) 3 (.ok (.ssctMin g (bfld w 18 4) (bfld w 14 4) (bfld w 8 6) (bfld w 5 3)))
  | _ => .error 2

/-- Words of MAJ 0x26: the function field is [0:0] (R309-R316). -/
def decodeScon (w : Nat) (g : Guard) : Except Nat Instr :=
  match fld w 0 1 with
  | 0 => chk (fld w 1 4 == 0) 3 (chk (fld w 8 6 == 0) 3 (chk (fld w 18 4 == 0) 3 (.ok (.sconC g (bfld w 14 4) (bfld w 5 3)))))
  | 1 => chk (fld w 1 4 == 0) 3 (chk (fld w 8 6 == 0) 3 (chk (fld w 18 4 == 0) 3 (.ok (.sconI g (bfld w 14 4) (bfld w 5 3)))))
  | _ => .error 2

/-- Words of MAJ 0x28: the function field is [1:0] (R309-R316). -/
def decodeSbar (w : Nat) (g : Guard) : Except Nat Instr :=
  match fld w 0 2 with
  | 0 => chk (fld w 2 16 == 0) 3 (.ok (.sbar g (bfld w 18 4)))
  | 1 => chk (fld w 2 12 == 0) 3 (chk (fld w 18 4 == 0) 3 (chk (fld w 14 4 != 2 && decide (fld w 14 4 ≤ 6)) 4 (.ok (.sbarSp g (bfld w 14 4)))))
  | 2 => chk (fld w 2 20 == 0) 3 (.ok (.sbarAll g))
  | _ => .error 2

/-- Words of MAJ 0x29: the function field is [1:0] (R309-R316). -/
def decodeSkil (w : Nat) (g : Guard) : Except Nat Instr :=
  match fld w 0 2 with
  | 0 => chk (fld w 2 6 == 0) 3 (chk (fld w 14 8 == 0) 3 (.ok (.skilTag g (bfld w 8 6))))
  | 1 => chk (fld w 2 12 == 0) 3 (chk (fld w 18 4 == 0) 3 (.ok (.skilIp g (bfld w 14 4))))
  | 2 => chk (fld w 2 12 == 0) 3 (chk (fld w 18 4 == 0) 3 (.ok (.skilOp g (bfld w 14 4))))
  | _ => .error 2

/-- Words of MAJ 0x2a: the function field is [0:0] (R309-R316). -/
def decodeTwait (w : Nat) (g : Guard) : Except Nat Instr :=
  match fld w 0 1 with
  | 0 => chk (fld w 1 11 == 0) 3 (chk (fld w 17 5 == 0) 3 (.ok (.twaitAll g (bfld w 12 5))))
  | 1 => chk (fld w 1 11 == 0) 3 (chk (fld w 17 5 == 0) 3 (.ok (.twaitAny g (bfld w 12 5))))
  | _ => .error 2

/-- Words of MAJ 0x34: the function field is [7:6] (R309-R316). -/
def decodeMxt (w : Nat) (g : Guard) : Except Nat Instr :=
  match fld w 6 2 with
  | 0 => chk (fld w 0 6 == 0) 3 (chk (fld w 8 4 == 0) 3 (.ok (.mxt g (bfld w 12 5) (bfld w 17 5))))
  | 1 => chk (fld w 0 6 == 0) 3 (chk (fld w 12 10 == 0) 3 (.ok (.mxtP g (bfld w 8 4))))
  | 2 => chk (fld w 0 6 == 0) 3 (chk (fld w 8 14 == 0) 3 (.ok (.mxtU g)))
  | _ => .error 2

/-- Words of MAJ 0x38: the function field is [7:5] (R309-R316). -/
def decodeAtom (w : Nat) (g : Guard) : Except Nat Instr :=
  match fld w 5 3 with
  | 0 => chk (fld w 3 2 != 0 || fld w 0 3 == 0) 3 (chk (fld w 0 3 != 7) 4 (.ok (.atomSwp g (bfld w 17 5) (bfld w 8 4) (bfld w 12 5) (bfld w 3 2) (bfld w 0 3))))
  | 1 => chk (fld w 3 2 != 0 || fld w 0 3 == 0) 3 (chk (fld w 0 3 != 7) 4 (.ok (.atomCas g (bfld w 17 5) (bfld w 8 4) (bfld w 12 5) (bfld w 3 2) (bfld w 0 3))))
  | 2 => chk (fld w 3 2 != 0 || fld w 0 3 == 0) 3 (chk (fld w 0 3 != 7) 4 (.ok (.atomAdd g (bfld w 17 5) (bfld w 8 4) (bfld w 12 5) (bfld w 3 2) (bfld w 0 3))))
  | 3 => chk (fld w 3 2 != 0 || fld w 0 3 == 0) 3 (chk (fld w 0 3 != 7) 4 (.ok (.atomAnd g (bfld w 17 5) (bfld w 8 4) (bfld w 12 5) (bfld w 3 2) (bfld w 0 3))))
  | 4 => chk (fld w 3 2 != 0 || fld w 0 3 == 0) 3 (chk (fld w 0 3 != 7) 4 (.ok (.atomOr g (bfld w 17 5) (bfld w 8 4) (bfld w 12 5) (bfld w 3 2) (bfld w 0 3))))
  | 5 => chk (fld w 3 2 != 0 || fld w 0 3 == 0) 3 (chk (fld w 0 3 != 7) 4 (.ok (.atomXor g (bfld w 17 5) (bfld w 8 4) (bfld w 12 5) (bfld w 3 2) (bfld w 0 3))))
  | 6 => chk (fld w 3 2 != 0 || fld w 0 3 == 0) 3 (chk (fld w 0 3 != 7) 4 (.ok (.atomMax g (bfld w 17 5) (bfld w 8 4) (bfld w 12 5) (bfld w 3 2) (bfld w 0 3))))
  | 7 => chk (fld w 3 2 != 0 || fld w 0 3 == 0) 3 (chk (fld w 0 3 != 7) 4 (.ok (.atomMin g (bfld w 17 5) (bfld w 8 4) (bfld w 12 5) (bfld w 3 2) (bfld w 0 3))))
  | _ => .error 2

/-- Words of MAJ 0x39: the function field is [7:6] (R309-R316). -/
def decodeVer (w : Nat) (g : Guard) : Except Nat Instr :=
  match fld w 6 2 with
  | 0 => chk (fld w 0 3 != 7) 4 (.ok (.vld g (bfld w 17 5) (bfld w 8 4) (bfld w 12 5) (bfld w 3 3) (bfld w 0 3)))
  | 1 => chk (fld w 3 3 == 0) 3 (chk (fld w 0 3 != 7) 4 (.ok (.vst g (bfld w 17 5) (bfld w 8 4) (bfld w 12 5) (bfld w 0 3))))
  | 2 => chk (fld w 3 3 == 0) 3 (chk (fld w 17 5 == 0) 3 (chk (fld w 0 3 != 7) 4 (.ok (.vrcl g (bfld w 8 4) (bfld w 12 5) (bfld w 0 3)))))
  | _ => .error 2

/-- Words of MAJ 0x3a: the function field is [4:3] (R309-R316). -/
def decodeFence (w : Nat) (g : Guard) : Except Nat Instr :=
  match fld w 3 2 with
  | 0 => chk (fld w 5 17 == 0) 3 (chk (fld w 0 3 != 7) 4 (.ok (.fenceAcq g (bfld w 0 3))))
  | 1 => chk (fld w 5 17 == 0) 3 (chk (fld w 0 3 != 7) 4 (.ok (.fenceRel g (bfld w 0 3))))
  | 2 => chk (fld w 5 17 == 0) 3 (chk (fld w 0 3 != 7) 4 (.ok (.fenceFull g (bfld w 0 3))))
  | _ => .error 2

/-- Words of MAJ 0x3b: the function field is [7:3] (R309-R316). -/
def decodeTok (w : Nat) (g : Guard) : Except Nat Instr :=
  match fld w 3 5 with
  | 0 => chk (fld w 10 2 == 0) 3 (chk (decide (fld w 0 3 ≤ 4)) 4 (.ok (.tsend g (bfld w 17 5) (bfld w 12 5) (bfld w 8 2) (bfld w 0 3))))
  | 1 => chk (fld w 0 3 == 0) 3 (chk (fld w 10 7 == 0) 3 (.ok (.trecv g (bfld w 17 5) (bfld w 8 2))))
  | 2 => chk (fld w 0 3 == 0) 3 (chk (fld w 10 12 == 0) 3 (.ok (.cbindOn g (bfld w 8 2))))
  | 3 => chk (fld w 0 3 == 0) 3 (chk (fld w 10 12 == 0) 3 (.ok (.cbindOff g (bfld w 8 2))))
  | _ => .error 2

/-- Words of MAJ 0x3c: the function field is [7:3] (R309-R316). -/
def decodeQueue (w : Nat) (g : Guard) : Except Nat Instr :=
  match fld w 3 5 with
  | 0 => chk (fld w 8 4 == 0) 3 (chk (decide (fld w 17 5 ≤ 28)) 4 (chk (decide (fld w 0 3 ≤ 4)) 4 (.ok (.qpsh g (bfld w 17 5) (bfld w 12 5) (bfld w 0 3)))))
  | 1 => chk (fld w 0 3 == 0) 3 (chk (fld w 11 1 == 0) 3 (chk (decide (fld w 17 5 ≤ 28)) 4 (.ok (.qpop g (bfld w 17 5) (bfld w 12 5) (bfld w 8 3)))))
  | 2 => chk (fld w 0 3 == 0) 3 (chk (fld w 8 4 == 0) 3 (.ok (.qctlStat g (bfld w 17 5) (bfld w 12 5))))
  | 3 => chk (fld w 0 3 == 0) 3 (chk (fld w 17 5 == 0) 3 (.ok (.qctlCfg g (bfld w 12 5) (bfld w 8 4))))
  | 4 => chk (fld w 0 3 == 0) 3 (chk (fld w 8 4 == 0) 3 (chk (fld w 17 5 == 0) 3 (.ok (.qctlOff g (bfld w 12 5)))))
  | _ => .error 2

/-- Words of MAJ 0x3d: the function field is [2:0] (R309-R316). -/
def decodeEng (w : Nat) (g : Guard) : Except Nat Instr :=
  match fld w 0 3 with
  | 0 => chk (fld w 3 3 == 0) 3 (.ok (.lay g (bfld w 16 6) (bfld w 11 5) (bfld w 6 5)))
  | 1 => chk (fld w 3 4 == 0) 3 (.ok (.egat g (bfld w 16 6) (bfld w 12 4) (bfld w 7 5)))
  | 2 => chk (fld w 3 4 == 0) 3 (.ok (.eupd g (bfld w 16 6) (bfld w 12 4) (bfld w 7 5)))
  | 3 => chk (fld w 3 4 == 0) 3 (.ok (.epin g (bfld w 16 6) (bfld w 12 4) (bfld w 7 5)))
  | 4 =>
    match fld w 5 2 with
    | 0 => chk (fld w 3 2 == 0) 3 (.ok (.ingqStart g (bfld w 16 6) (bfld w 12 4) (bfld w 7 5)))
    | 1 => chk (fld w 3 2 == 0) 3 (chk (fld w 12 4 == 0) 3 (.ok (.ingqStop g (bfld w 16 6) (bfld w 7 5))))
    | 2 => chk (fld w 3 2 == 0) 3 (chk (fld w 12 5 == 0) 3 (.ok (.ingqStat g (bfld w 17 5) (bfld w 7 5))))
    | _ => .error 2
  | _ => .error 2

/-- Words of MAJ 0x3e: the function field is [1:0] (R309-R316). -/
def decodeSsq (w : Nat) (g : Guard) : Except Nat Instr :=
  match fld w 0 2 with
  | 0 => chk (fld w 17 5 == 0) 3 (.ok (.ssqCfg g (bfld w 12 5) (bfld w 8 4) (bfld w 2 6)))
  | 1 => chk (fld w 17 5 == 0) 3 (.ok (.ssqGo g (bfld w 12 5) (bfld w 8 4) (bfld w 2 6)))
  | 2 => chk (fld w 2 10 == 0) 3 (.ok (.ssqStat g (bfld w 17 5) (bfld w 12 5)))
  | 3 => chk (fld w 8 4 == 0) 3 (chk (fld w 17 5 == 0) 3 (.ok (.ssqStop g (bfld w 12 5) (bfld w 2 6))))
  | _ => .error 2

/-- The sequencer decoder: the instruction of a word, or the cause of the ILLEGAL it raises (R305, R306, R309). -/
def decodeSeq (w : Nat) : Except Nat Instr :=
  let g := guardOf w
  match fld w 26 6 with
  | 0 => decodeSys w g
  | 1 => decodeAlu w g
  | 2 => chk (decide (fld w 6 3 ≤ 5)) 2 (chk (fld w 0 6 == 0) 3 (.ok (.cmp g (bfld w 19 3) (bfld w 14 5) (bfld w 9 5) (bfld w 6 3))))
  | 3 => .ok (.addi g (bfld w 17 5) (bfld w 12 5) (bfld w 0 12))
  | 4 => .ok (.andi g (bfld w 17 5) (bfld w 12 5) (bfld w 0 12))
  | 5 => .ok (.ori g (bfld w 17 5) (bfld w 12 5) (bfld w 0 12))
  | 6 => .ok (.xori g (bfld w 17 5) (bfld w 12 5) (bfld w 0 12))
  | 7 => chk (fld w 6 6 == 0) 3 (.ok (.shli g (bfld w 17 5) (bfld w 12 5) (bfld w 0 6)))
  | 8 => decodeShri w g
  | 9 => chk (decide (fld w 11 3 ≤ 5)) 2 (.ok (.cmpi g (bfld w 19 3) (bfld w 14 5) (bfld w 11 3) (bfld w 0 11)))
  | 10 => .ok (.lim g (bfld w 17 5) (bfld w 0 17))
  | 11 => chk (fld w 0 9 == 0) 3 (.ok (.plog g (bfld w 19 3) (bfld w 16 3) (bfld w 13 3) (bfld w 9 4)))
  | 16 => .ok (.br g (bfld w 0 22))
  | 17 => .ok (.jal g (bfld w 17 5) (bfld w 0 17))
  | 18 => chk (fld w 17 5 == 0) 3 (.ok (.jr g (bfld w 12 5) (bfld w 0 12)))
  | 19 => chk (fld w 18 4 == 0) 3 (chk (fld w 0 13 != 0) 4 (.ok (.loop g (bfld w 13 5) (bfld w 0 13))))
  | 24 => chk (fld w 0 12 == 0) 3 (chk (fld w 17 3 == 0) 3 (.ok (.tshp g (bfld w 20 2) (bfld w 12 5))))
  | 25 => chk (fld w 0 4 == 0) 3 (chk (fld w 7 3 != 7 && fld w 4 3 != 7 && fld w 7 3 != fld w 4 3) 4 (.ok (.tbind g (bfld w 18 4) (bfld w 12 6) (bfld w 10 2) (bfld w 7 3) (bfld w 4 3))))
  | 26 => chk (fld w 0 9 == 0) 3 (chk (fld w 17 1 == 0) 3 (chk (fld w 9 3 != 7) 4 (.ok (.torg g (bfld w 18 4) (bfld w 9 3) (bfld w 12 5)))))
  | 27 => chk (fld w 0 9 == 0) 3 (chk (fld w 17 1 == 0) 3 (chk (fld w 9 3 != 7) 4 (.ok (.tadv g (bfld w 18 4) (bfld w 9 3) (bfld w 12 5)))))
  | 28 => chk (fld w 0 8 == 0) 3 (chk (fld w 12 5 == 0) 3 (.ok (.tqry g (bfld w 17 5) (bfld w 8 4))))
  | 29 => chk (fld w 0 8 == 0) 3 (.ok (.ltld g (bfld w 16 6) (bfld w 8 8)))
  | 30 => chk (fld w 0 7 == 0) 3 (.ok (.ltw g (bfld w 16 6) (bfld w 12 4) (bfld w 7 5)))
  | 32 => chk (fld w 8 9 == 0) 3 (chk (decide (fld w 0 5 ≤ 8)) 4 (.ok (.spat g (bfld w 5 3) (bfld w 0 5) (bfld w 17 5))))
  | 33 => chk (fld w 0 5 == 0) 3 (.ok (.srd g (bfld w 18 4) (bfld w 14 4) (bfld w 8 6) (bfld w 5 3)))
  | 34 => chk (fld w 0 5 == 0) 3 (.ok (.swr g (bfld w 18 4) (bfld w 14 4) (bfld w 8 6) (bfld w 5 3)))
  | 35 => chk (fld w 0 5 == 0) 3 (.ok (.sgth g (bfld w 18 4) (bfld w 14 4) (bfld w 8 6) (bfld w 5 3)))
  | 36 => decodeSsct w g
  | 37 => chk (fld w 0 1 == 0) 3 (chk (fld w 8 6 == 0) 3 (chk (fld w 18 4 == 0) 3 (.ok (.srec g (bfld w 14 4) (bfld w 1 4) (bfld w 5 3)))))
  | 38 => decodeScon w g
  | 39 => chk (fld w 4 1 == 0) 3 (chk (fld w 0 4 != 0) 4 (.ok (.smcs g (bfld w 18 4) (bfld w 14 4) (bfld w 8 6) (bfld w 5 3) (bfld w 0 4))))
  | 40 => decodeSbar w g
  | 41 => decodeSkil w g
  | 42 => decodeTwait w g
  | 43 => chk (fld w 0 12 == 0) 3 (.ok (.tffr g (bfld w 17 5) (bfld w 12 5)))
  | 44 => chk (fld w 0 12 == 0) 3 (chk (fld w 17 5 == 0) 3 (.ok (.tclr g (bfld w 12 5))))
  | 45 => chk (fld w 0 8 == 0) 3 (.ok (.smov g (bfld w 18 4) (bfld w 14 4) (bfld w 8 6)))
  | 48 => chk (fld w 0 6 == 0) 3 (chk (fld w 17 5 == 0) 3 (chk (fld w 6 6 != 0) 4 (.ok (.cfgl g (bfld w 12 5) (bfld w 6 6)))))
  | 49 => chk (fld w 0 7 == 0) 3 (.ok (.cfgw g (bfld w 17 5) (bfld w 12 5) (bfld w 7 5)))
  | 50 => chk (fld w 0 6 == 0) 3 (chk (fld w 12 10 == 0) 3 (.ok (.cfgg g (bfld w 6 6))))
  | 51 => chk (cfgqSelOk (bfld w 0 8)) 2 (chk (fld w 8 9 == 0) 3 (.ok (.cfgq g (bfld w 17 5) (bfld w 0 8))))
  | 52 => decodeMxt w g
  | 54 => chk (fld w 0 3 == 0) 3 (.ok (.lds g (bfld w 17 5) (bfld w 8 4) (bfld w 12 5) (bfld w 3 5)))
  | 55 => chk (fld w 0 3 == 0) 3 (.ok (.sts g (bfld w 17 5) (bfld w 8 4) (bfld w 12 5) (bfld w 3 5)))
  | 56 => decodeAtom w g
  | 57 => decodeVer w g
  | 58 => decodeFence w g
  | 59 => decodeTok w g
  | 60 => decodeQueue w g
  | 61 => decodeEng w g
  | 62 => decodeSsq w g
  | _ => .error 1

/-- Why a word is no instruction of the Rook extension: an illegal instruction of custom-0 (exception cause 2), or a
word of another opcode, which is a base RV64 instruction of the firmware and none of this module's (R247). -/
inductive RookReject where
  | illegal
  | base
  deriving DecidableEq, Repr

/-- The Rook extension's decoder (R247, R335, R419, R424, R426). -/
def decodeRook (w : Nat) : Except RookReject Instr :=
  if fld w 0 7 = 11 then
    if fld w 25 7 = 0 then
      match fld w 12 3 with
      | 0 => .ok (.rfet (bfld w 7 5) (bfld w 15 5) (bfld w 20 5))
      | 1 => .ok (.bfxt (bfld w 7 5) (bfld w 15 5) (bfld w 20 5))
      | 2 => if fld w 15 10 = 0 then .ok (.sgwt (bfld w 7 5)) else .error .illegal
      | 3 => .ok (.dspt (bfld w 7 5) (bfld w 15 5) (bfld w 20 5))
      | 4 => if fld w 15 10 = 0 then .ok (.sgst (bfld w 7 5)) else .error .illegal
      | _ => .error .illegal
    else .error .illegal
  else .error .base

/-- The instruction of a word in either instruction set: a word the Rook extension defines is a Rook instruction (the
sequencer has none at FN 0x0B of MAJ 0x00, R42), any other word is read by the sequencer decoder. -/
def decodeWord (w : Nat) : Option Instr :=
  match decodeRook w with
  | .ok i => some i
  | .error _ =>
    match decodeSeq w with
    | .ok i => some i
    | .error _ => none

/-- The decoder asked with the opcode table's numbering: every instruction is one little-endian 32-bit word (R304), so
bit 0 is the word's bit 0; bits above nbits are zero. -/
def decodeTableWord (nbits w : Nat) : Option Instr :=
  decodeWord (w % 2 ^ min nbits 32)

/-- A sequencer word from its major opcode, guard and 22-bit body (R304). -/
def seqWord (maj : Nat) (g : Guard) (body : Nat) : Nat :=
  maj * 2 ^ 26 + g.p.toNat * 2 ^ 23 + (if g.neg then 1 else 0) * 2 ^ 22 + body

/-- The value x in the field that begins at bit lo, beside the rest of the body (R304). -/
def put {n : Nat} (x : BitVec n) (lo rest : Nat) : Nat := x.toNat * 2 ^ lo + rest

/-- A Rook word (R247). -/
def rookWord (funct3 : Nat) (rd rs1 rs2 : Nat) : Nat :=
  rs2 * 2 ^ 20 + rs1 * 2 ^ 15 + funct3 * 2 ^ 12 + rd * 2 ^ 7 + 11

/-- The encoder: the word of an instruction that has one (R304-R316, R247). -/
def encode : Instr → Option Nat
  | .nop g => some (seqWord 0 g 0)
  | .trap g code => some (seqWord 0 g (put code 7 1))
  | .yield g => some (seqWord 0 g 2)
  | .park g => some (seqWord 0 g 3)
  | .exit g => some (seqWord 0 g 4)
  | .brk g => some (seqWord 0 g 5)
  | .getk g d kn => some (seqWord 0 g (put d 17 (put kn 7 6)))
  | .putk g a kn => some (seqWord 0 g (put a 17 (put kn 7 7)))
  | .widf g d lvl => some (seqWord 0 g (put d 17 (put lvl 7 8)))
  | .add g d a b => some (seqWord 1 g (put d 17 (put a 12 (put b 7 0))))
  | .sub g d a b => some (seqWord 1 g (put d 17 (put a 12 (put b 7 1))))
  | .mul g d a b => some (seqWord 1 g (put d 17 (put a 12 (put b 7 2))))
  | .mulhiS g d a b => some (seqWord 1 g (put d 17 (put a 12 (put b 7 3))))
  | .mulhiN g d a b => some (seqWord 1 g (put d 17 (put a 12 (put b 7 4))))
  | .divS g d a b => some (seqWord 1 g (put d 17 (put a 12 (put b 7 5))))
  | .divN g d a b => some (seqWord 1 g (put d 17 (put a 12 (put b 7 6))))
  | .remS g d a b => some (seqWord 1 g (put d 17 (put a 12 (put b 7 7))))
  | .remN g d a b => some (seqWord 1 g (put d 17 (put a 12 (put b 7 8))))
  | .and g d a b => some (seqWord 1 g (put d 17 (put a 12 (put b 7 9))))
  | .or g d a b => some (seqWord 1 g (put d 17 (put a 12 (put b 7 10))))
  | .xor g d a b => some (seqWord 1 g (put d 17 (put a 12 (put b 7 11))))
  | .shl g d a b => some (seqWord 1 g (put d 17 (put a 12 (put b 7 12))))
  | .shrN g d a b => some (seqWord 1 g (put d 17 (put a 12 (put b 7 13))))
  | .shrS g d a b => some (seqWord 1 g (put d 17 (put a 12 (put b 7 14))))
  | .minS g d a b => some (seqWord 1 g (put d 17 (put a 12 (put b 7 15))))
  | .minN g d a b => some (seqWord 1 g (put d 17 (put a 12 (put b 7 16))))
  | .maxS g d a b => some (seqWord 1 g (put d 17 (put a 12 (put b 7 17))))
  | .maxN g d a b => some (seqWord 1 g (put d 17 (put a 12 (put b 7 18))))
  | .bitcClz g d a => some (seqWord 1 g (put d 17 (put a 12 19)))
  | .bitcCtz g d a => some (seqWord 1 g (put d 17 (put a 12 20)))
  | .bitcPop g d a => some (seqWord 1 g (put d 17 (put a 12 21)))
  | .sel g d a b k => some (seqWord 1 g (put d 17 (put a 12 (put b 7 (put k 0 24)))))
  | .cmp g pd a b c => some (seqWord 2 g (put pd 19 (put a 14 (put b 9 (put c 6 0)))))
  | .cmpi g pd a c imm => some (seqWord 9 g (put pd 19 (put a 14 (put c 11 (put imm 0 0)))))
  | .addi g d a imm => some (seqWord 3 g (put d 17 (put a 12 (put imm 0 0))))
  | .andi g d a imm => some (seqWord 4 g (put d 17 (put a 12 (put imm 0 0))))
  | .ori g d a imm => some (seqWord 5 g (put d 17 (put a 12 (put imm 0 0))))
  | .xori g d a imm => some (seqWord 6 g (put d 17 (put a 12 (put imm 0 0))))
  | .shli g d a sh => some (seqWord 7 g (put d 17 (put a 12 (put sh 0 0))))
  | .shriS g d a sh => some (seqWord 8 g (put d 17 (put a 12 (put sh 0 64))))
  | .shriN g d a sh => some (seqWord 8 g (put d 17 (put a 12 (put sh 0 0))))
  | .lim g d imm => some (seqWord 10 g (put d 17 (put imm 0 0)))
  | .plog g pd pa pb tt => some (seqWord 11 g (put pd 19 (put pa 16 (put pb 13 (put tt 9 0)))))
  | .br g off => some (seqWord 16 g (put off 0 0))
  | .jal g d off => some (seqWord 17 g (put d 17 (put off 0 0)))
  | .jr g a off => some (seqWord 18 g (put a 12 (put off 0 0)))
  | .loop g c len => some (seqWord 19 g (put c 13 (put len 0 0)))
  | .tshp g n a => some (seqWord 24 g (put n 20 (put a 12 0)))
  | .tbind g t e n rdim cdim => some (seqWord 25 g (put t 18 (put e 12 (put n 10 (put rdim 7 (put cdim 4 0))))))
  | .torg g t dim a => some (seqWord 26 g (put t 18 (put a 12 (put dim 9 0))))
  | .tadv g t dim a => some (seqWord 27 g (put t 18 (put a 12 (put dim 9 0))))
  | .tqry g d t => some (seqWord 28 g (put d 17 (put t 8 0)))
  | .ltld g e j => some (seqWord 29 g (put e 16 (put j 8 0)))
  | .ltw g e fld a => some (seqWord 30 g (put e 16 (put fld 12 (put a 7 0))))
  | .spat g sp pf a => some (seqWord 32 g (put a 17 (put sp 5 (put pf 0 0))))
  | .srd g t port tag sp => some (seqWord 33 g (put t 18 (put port 14 (put tag 8 (put sp 5 0)))))
  | .swr g t port tag sp => some (seqWord 34 g (put t 18 (put port 14 (put tag 8 (put sp 5 0)))))
  | .sgth g t port tag sp => some (seqWord 35 g (put t 18 (put port 14 (put tag 8 (put sp 5 0)))))
  | .ssctSt g t port tag sp => some (seqWord 36 g (put t 18 (put port 14 (put tag 8 (put sp 5 0)))))
  | .ssctAdd g t port tag sp => some (seqWord 36 g (put t 18 (put port 14 (put tag 8 (put sp 5 1)))))
  | .ssctMax g t port tag sp => some (seqWord 36 g (put t 18 (put port 14 (put tag 8 (put sp 5 2)))))
  | .ssctMin g t port tag sp => some (seqWord 36 g (put t 18 (put port 14 (put tag 8 (put sp 5 3)))))
  | .srec g op ip sp => some (seqWord 37 g (put op 14 (put sp 5 (put ip 1 0))))
  | .sconC g ip sp => some (seqWord 38 g (put ip 14 (put sp 5 0)))
  | .sconI g ip sp => some (seqWord 38 g (put ip 14 (put sp 5 1)))
  | .smcs g t port tag sp b => some (seqWord 39 g (put t 18 (put port 14 (put tag 8 (put sp 5 (put b 0 0))))))
  | .sbar g t => some (seqWord 40 g (put t 18 0))
  | .sbarSp g space => some (seqWord 40 g (put space 14 1))
  | .sbarAll g => some (seqWord 40 g 2)
  | .skilTag g tag => some (seqWord 41 g (put tag 8 0))
  | .skilIp g port => some (seqWord 41 g (put port 14 1))
  | .skilOp g port => some (seqWord 41 g (put port 14 2))
  | .twaitAll g a => some (seqWord 42 g (put a 12 0))
  | .twaitAny g a => some (seqWord 42 g (put a 12 1))
  | .tffr g d a => some (seqWord 43 g (put d 17 (put a 12 0)))
  | .tclr g a => some (seqWord 44 g (put a 12 0))
  | .smov g td ta tag => some (seqWord 45 g (put td 18 (put ta 14 (put tag 8 0))))
  | .cfgl g a tag => some (seqWord 48 g (put a 12 (put tag 6 0)))
  | .cfgw g fr a b => some (seqWord 49 g (put fr 17 (put a 12 (put b 7 0))))
  | .cfgg g tag => some (seqWord 50 g (put tag 6 0))
  | .cfgq g d sel => some (seqWord 51 g (put d 17 (put sel 0 0)))
  | .mxt g a b => some (seqWord 52 g (put b 17 (put a 12 0)))
  | .mxtP g port => some (seqWord 52 g (put port 8 64))
  | .mxtU g => some (seqWord 52 g 128)
  | .lds g d t a b => some (seqWord 54 g (put d 17 (put a 12 (put t 8 (put b 3 0)))))
  | .sts g d t a b => some (seqWord 55 g (put d 17 (put a 12 (put t 8 (put b 3 0)))))
  | .atomSwp g d t a ord scope => some (seqWord 56 g (put d 17 (put a 12 (put t 8 (put ord 3 (put scope 0 0))))))
  | .atomCas g d t a ord scope => some (seqWord 56 g (put d 17 (put a 12 (put t 8 (put ord 3 (put scope 0 32))))))
  | .atomAdd g d t a ord scope => some (seqWord 56 g (put d 17 (put a 12 (put t 8 (put ord 3 (put scope 0 64))))))
  | .atomAnd g d t a ord scope => some (seqWord 56 g (put d 17 (put a 12 (put t 8 (put ord 3 (put scope 0 96))))))
  | .atomOr g d t a ord scope => some (seqWord 56 g (put d 17 (put a 12 (put t 8 (put ord 3 (put scope 0 128))))))
  | .atomXor g d t a ord scope => some (seqWord 56 g (put d 17 (put a 12 (put t 8 (put ord 3 (put scope 0 160))))))
  | .atomMax g d t a ord scope => some (seqWord 56 g (put d 17 (put a 12 (put t 8 (put ord 3 (put scope 0 192))))))
  | .atomMin g d t a ord scope => some (seqWord 56 g (put d 17 (put a 12 (put t 8 (put ord 3 (put scope 0 224))))))
  | .vld g d t a k scope => some (seqWord 57 g (put d 17 (put a 12 (put t 8 (put k 3 (put scope 0 0))))))
  | .vst g d t a scope => some (seqWord 57 g (put d 17 (put a 12 (put t 8 (put scope 0 64)))))
  | .vrcl g t a scope => some (seqWord 57 g (put a 12 (put t 8 (put scope 0 128))))
  | .fenceAcq g scope => some (seqWord 58 g (put scope 0 0))
  | .fenceRel g scope => some (seqWord 58 g (put scope 0 8))
  | .fenceFull g scope => some (seqWord 58 g (put scope 0 16))
  | .tsend g d a c scope => some (seqWord 59 g (put d 17 (put a 12 (put c 8 (put scope 0 0)))))
  | .trecv g d c => some (seqWord 59 g (put d 17 (put c 8 8)))
  | .cbindOn g c => some (seqWord 59 g (put c 8 16))
  | .cbindOff g c => some (seqWord 59 g (put c 8 24))
  | .qpsh g d a scope => some (seqWord 60 g (put d 17 (put a 12 (put scope 0 0))))
  | .qpop g d a k => some (seqWord 60 g (put d 17 (put a 12 (put k 8 8))))
  | .qctlStat g d a => some (seqWord 60 g (put d 17 (put a 12 16)))
  | .qctlCfg g a t => some (seqWord 60 g (put a 12 (put t 8 24)))
  | .qctlOff g a => some (seqWord 60 g (put a 12 32))
  | .lay g tag a b => some (seqWord 61 g (put tag 16 (put a 11 (put b 6 0))))
  | .egat g tag t a => some (seqWord 61 g (put tag 16 (put t 12 (put a 7 1))))
  | .eupd g tag t a => some (seqWord 61 g (put tag 16 (put t 12 (put a 7 2))))
  | .epin g tag t a => some (seqWord 61 g (put tag 16 (put t 12 (put a 7 3))))
  | .ingqStart g tag t a => some (seqWord 61 g (put tag 16 (put t 12 (put a 7 4))))
  | .ingqStop g tag a => some (seqWord 61 g (put tag 16 (put a 7 36)))
  | .ingqStat g d a => some (seqWord 61 g (put d 17 (put a 7 68)))
  | .ssqCfg g a t tag => some (seqWord 62 g (put a 12 (put t 8 (put tag 2 0))))
  | .ssqGo g a t tag => some (seqWord 62 g (put a 12 (put t 8 (put tag 2 1))))
  | .ssqStat g d a => some (seqWord 62 g (put d 17 (put a 12 2)))
  | .ssqStop g a tag => some (seqWord 62 g (put a 12 (put tag 2 3)))
  | .rfet rd rs1 rs2 => some (rookWord 0 rd.toNat rs1.toNat rs2.toNat)
  | .bfxt rd rs1 rs2 => some (rookWord 1 rd.toNat rs1.toNat rs2.toNat)
  | .sgwt rd => some (rookWord 2 rd.toNat 0 0)
  | .dspt rd rs1 rs2 => some (rookWord 3 rd.toNat rs1.toNat rs2.toNat)
  | .sgst rd => some (rookWord 4 rd.toNat 0 0)
  | .slotAged _ _ => none
  | .parkDrainEnd _ _ => none
  | .tpRetire _ _ => none
  | .tpTrapped _ _ => none
  | .twaitWake _ _ => none
  | .trecvWake _ _ => none
  | .divResult _ _ => none
  | .mulResult _ _ => none
  | .ldsReturn _ _ _ => none
  | .atomPerform _ _ _ => none
  | .tokenWordArrival _ => none
  | .mailboxMove _ _ _ => none
  | .streamStart _ _ => none
  | .streamElement _ => none
  | .streamComplete _ _ => none
  | .barrierRelease _ _ => none
  | .groupFire _ _ => none
  | .groupCommit _ _ => none
  | .generatorAccess _ _ _ => none
  | .switchBoxHop _ _ _ => none
  | .cfglLoadEnd _ => none
  | .configSwitch _ => none
  | .matrixTokenFeed _ => none
  | .mma _ _ => none
  | .mmat _ _ => none
  | .mmov _ _ => none
  | .mclr _ _ => none
  | .mtab _ _ => none
  | .mtabComplete _ _ => none
  | .matrixContribution _ _ => none
  | .layStart _ => none
  | .layComplete _ _ => none
  | .vstRetry _ _ => none
  | .vldWake _ _ => none
  | .lvWaitLimit _ _ => none
  | .qpshRetry _ _ => none
  | .qpopWake _ _ => none
  | .queueRefill _ => none
  | .ingqStartDone _ => none
  | .ingqStopDone _ => none
  | .ingestRecordPop _ => none
  | .ingestStage _ _ => none
  | .quarantineRingResume _ => none
  | .ingestResultPush _ => none
  | .egatBag _ _ _ => none
  | .eupdCoalesce _ _ => none
  | .eupdContribution _ _ => none
  | .eupdClose _ _ => none
  | .epinPin _ _ => none
  | .epinUnpin _ _ => none
  | .epinPrefetch _ _ => none
  | .epinMigrate _ _ => none
  | .migrateCommit _ _ _ => none
  | .relayEnd _ _ => none
  | .epinFlush _ _ => none
  | .epinInval _ _ => none
  | .epinSetk _ _ => none
  | .moraineAgeing _ _ => none
  | .engineComplete _ _ => none
  | .ssqCfgDone _ _ => none
  | .solverRoundStart _ _ => none
  | .solverErrorWord _ _ => none
  | .solverDecision _ _ => none
  | .pageWalk _ _ _ => none
  | .heldRecordWrite _ => none
  | .doorbellRing _ _ => none
  | .doorbellEnable _ _ => none
  | .doorbellDisable _ _ => none
  | .doorbellResume _ _ => none
  | .hwSlotGrant _ => none
  | .launchPacket _ => none
  | .deltaPacket _ => none
  | .deltaFloeWrite _ _ => none
  | .waitPacket _ => none
  | .waitEvaluate _ => none
  | .waitTimeout _ => none
  | .signalPacket _ => none
  | .fencePacket _ => none
  | .queueQuantumExpire _ => none
  | .schedulerPass => none
  | .regionQuantumExpire _ => none
  | .sequencerHalt _ => none
  | .floeSaveComplete _ => none
  | .regionRestore _ => none
  | .regionStalemate _ => none
  | .drainStalemate _ => none
  | .pairedCountDelivery _ => none
  | .release _ _ => none
  | .ptrootWrite _ => none
  | .tlbi _ => none
  | .tlbiComplete => none
  | .retry _ => none
  | .atcmd _ => none
  | .qtbaseWrite _ _ => none
  | .mbxbaseWrite _ _ => none
  | .mbxconsWrite _ _ => none
  | .registerWrite _ _ => none
  | .rcmdAppend => none
  | .rcmdVerify => none
  | .rcmdStart => none
  | .hostInboundRequest _ => none
  | .peerInboundRequest _ _ => none
  | .ualinkLinkDown _ => none
  | .ualinkErrorCompletion _ => none
  | .ualinkCompletionTimeout _ => none
  | .clockStepDown => none
  | .clockStepUp => none
  | .telemetryRead _ _ => none
  | .dieReset _ => none
  | .flr => none
  | .perst => none
  | .rookBoot _ => none
  | .startComplete => none
  | .startFail _ => none
  | .startTimeout => none
  | .issueCompletion _ _ => none
  | .rowLookUp _ _ _ => none
  | .dieLeavesReset _ => none
  | .spdmMeasurementRequest => none

end Sys2Proof
end

