-- ==== Sys2Proof/Config.lean ====
section
/-!
DEFINITION. What the spec leaves to the implementation: values without a body, so that nothing in Lean can evaluate
them (the free values), and the fixed figures of the module (R14, R15, R171, R263).
-/

namespace Sys2Proof.Config

/-- Which of the two neighbouring values of the output format tanh and sigmoid give where the exact value lies between
them ("within 1 ulp", a fixed function of operand and entry, R170): true for the upper one. Arguments: function (4 tanh,
5 sigmoid), output format, rounding mode, operand bits. A free value, log entry 6. -/
opaque sfnUpper : Nat → Nat → Nat → Nat → Bool

/-- The coefficient bin of a multistep sample whose last accepted step, loaded from memory, is below zero: the logarithm of
R241 is NaN there and the spec states no bin. Arguments: the bits of hs and of HPREV. A free value, log entry 19. -/
opaque solverBin : Nat → Nat → Nat

/-- The manifest and the images of a flash can be read (R301, reason 0x0A). A free value, log entry 8. -/
opaque imageReadable : List Byte → Bool

/-- They are well formed, and the images have the hashes that the manifest lists (R298, R299; reason 0x04). A free value, log
entry 8. -/
opaque imageFormed : List Byte → Bool

/-- The hash of the ECDSA public key of a flash image's manifest (R300). A free value, log entry 8. -/
opaque imageEcdsaKey : List Byte → BitVec 384

/-- The hash of its LMS public key. A free value, log entry 8. -/
opaque imageLmsKey : List Byte → BitVec 384

/-- Its ECDSA signature verifies against that key (R300). A free value, log entry 8. -/
opaque imageEcdsaGood : List Byte → Bool

/-- Its LMS signature verifies against that key. A free value, log entry 8. -/
opaque imageLmsGood : List Byte → Bool

/-- The security version a flash image's manifest carries (R300). A free value, log entry 8. -/
opaque imageSvn : List Byte → Nat

/-- The default access tables of a flash image (R298, R299): the doubleword at (target, master, index). A free value, log
entry 8. -/
opaque imageTable : List Byte → Nat → Nat → Nat → Word

/-- The bytes of the Rook firmware image that a flash image holds (R298, R299). A free value, log entries 8 and 128. -/
opaque imageRook : List Byte → List Byte

/-- The entry address of the Rook firmware in a flash image (R299). A free value, log entry 8. -/
opaque imageEntry : List Byte → Word

/-- I/O die X0 fails its self-test in the n-th start (R284, R298). A free value, log entry 8. -/
opaque selfTestFails : Nat → Bool

/-- The hash of R288 that picks a station for a 256-byte granule, and of R290 for a work identifier. A free value, log
entry 9. -/
opaque stationHash : Nat → Nat

/-- The data bits a field word's converter or reader leaves open are none; a value that a fault leaves open in a
device-format area (R46, R275). A free value, log entry 10. -/
opaque deviceByte : Nat → Byte

/-- The SPDM measurement response the management firmware signs (R300): its bytes from the request number. A free value,
log entry 8. -/
opaque spdmResponse : Nat → List Byte

/-- Size in bytes of HBM: 576 GB (R15, R263). -/
def hbmSize : Nat := 576000000000

/-- Size in bytes of LPD: 1,024 GB (R263). -/
def lpdSize : Nat := 1024000000000

/-- L2 of one die: 96 MiB (R172). -/
def l2Size : Nat := 0x6000000

/-- Bytes of one HBM stack: 48 GB (R20); stack t holds the addresses from t times this figure on (log entry 5). -/
def hbmStackSize : Nat := 48000000000

/-- Bytes of LPDDR6 behind one I/O die; X0 holds the lower half (log entry 5). -/
def lpdHalf : Nat := 512000000000

/-- Bytes of one L2 bank: 2 MiB (R15); bank b of a die holds the offsets from b times this figure on (log entry 5). -/
def l2BankSize : Nat := 0x200000

end Sys2Proof.Config
end

