-- ==== Sys2Proof/Machine/State.lean ====
section
/-!
DEFINITION. The state of one QZK7-4144 module as plain data: every register, table, queue, memory and engine the spec
names, the outcomes a step can have, and the state right after reset.
-/

namespace Sys2Proof.Machine

/-! ## Memories and sparse tables -/

/-- Bytes by machine address, in canonical form: addresses strictly rising, no entry equal to what an unlisted address
reads as (0, log entry 1). One number space holds every memory of R171: see Ops, locFloe and its neighbours. -/
abbrev Memory := List Host.Cell

/-- A table of numbers by key with the same canonical form: configuration fields by FID (R128), access-table
doublewords (R292), route tables (R287, R290), accumulator words (R147). An unlisted key reads 0. -/
abbrev Table := List (Nat × Nat)

/-! ## Field words and queues (R97, R107) -/

/-- A field word: 128 data bits and 33 bits of sideband (R107). -/
structure FWord where
  data : Quad
  ridx : BitVec 24
  fin : BitVec 3
  gen : Bool
  psn : Bool
  mask : BitVec 4
  deriving DecidableEq, Repr

/-- A word in a queue or channel slot, with the first advance cycle in which it can leave (R97, R111, R113). par: its
parity, 0 good, 1 bad on its data, 2 bad on its sideband (R280, R281). mc: a word of a floe-local multicast on its way to its
port, which is due in every cycle it can leave in (R90, R115). -/
structure QEnt where
  word : FWord
  ready : Nat
  par : Nat
  mc : Bool
  deriving DecidableEq, Repr

/-! ## Tile programs (R27, R35) -/

/-- One level of the loop stack: start, address of the last body word, remaining count (R389). -/
structure LoopLevel where
  start : BitVec 52
  last : Nat
  remaining : Nat
  deriving DecidableEq, Repr

/-- A tile name's binding (R61). -/
structure Binding where
  entry : BitVec 6
  shape : BitVec 2
  rdim : BitVec 3
  cdim : BitVec 3
  origin : List (BitVec 32)
  deriving DecidableEq, Repr

/-- The copies a command takes of one tile at issue: the 16 doublewords of the LTE, the shape register and the
binding (R66). -/
structure View where
  lte : List Word
  shape : Word
  bind : Binding
  deriving DecidableEq, Repr

/-- The TP a command belongs to: launch identity and linear index. -/
structure Owner where
  lid : Nat
  n : Nat
  deriving DecidableEq, Repr

/-- A token word on its way, buffered or in a mailbox (R47, R50). -/
structure TokMsg where
  word : Word
  dst : Word
  src : Word
  srcOwner : Owner
  c : BitVec 2
  deriving DecidableEq, Repr

/-- A token word held by TSEND until the sender's drain count reaches the stamp (R442). -/
structure HeldTok where
  msg : TokMsg
  stamp : Nat
  deriving DecidableEq, Repr

/-- What a pending result or access of a TP is (R177, R187, R193, R348, R402). -/
inductive PendKind where
  | div
  | mul
  | lds
  | sts
  | atom (op : BitVec 3) (operand comparand : BitVec 32)
  | vrcl (version : Nat)
  deriving DecidableEq, Repr

/-- A piece of an element: bits [off+n-1:off] of the byte at a machine address hold bits [sh+n-1:sh] of the element
(R55). -/
structure Piece where
  loc : Nat
  off : Nat
  n : Nat
  sh : Nat
  deriving DecidableEq, Repr

/-- A result or memory access the TP has issued and that has not performed. -/
structure Pend where
  id : Nat
  kind : PendKind
  d : BitVec 5
  value : Word
  /-- first cycle it may perform in: sequencer cycle for div and mul, advance cycle for a FLOE access, 0 for L2 -/
  due : Nat
  /-- a FLOE access (R177) -/
  floeLocal : Bool
  pieces : List Piece
  signed : Bool
  addr : Nat
  word : IWord
  /-- counted write number (R201), 0 for none -/
  wno : Nat
  /-- accesses that must perform first (ATOM .rel, R188) -/
  after : List Nat
  /-- the PEER module the access goes to, with the remote space (R288) -/
  peer : Option (Nat × Nat)
  /-- place in the floe's single issue order of FLOE accesses (R177) -/
  order : Nat
  deriving DecidableEq, Repr

/-- A hold that a FENCE or an acquiring ATOM places on later accesses of the TP (R181, R188, R363). -/
structure Hold where
  reads : Bool
  writes : Bool
  floeToo : Bool
  /-- accesses waited for -/
  pends : List Nat
  /-- floe-local commands waited for, by issue number -/
  cmds : List Nat
  deriving DecidableEq, Repr

/-- A register of a TP that is no scalar one (R27): its predicates, which share one granule (R280), a tile name, a shape register, a
pattern register. -/
inductive SpecReg where
  | preds
  | tile (n : BitVec 4)
  | shape (n : BitVec 2)
  | pat (n : BitVec 3)
  deriving DecidableEq, Repr

/-- The architectural state of a tile program (R27, R28) and what it has outstanding. -/
structure Tp where
  regs : List Word
  preds : List Bool
  tiles : List (Option Binding)
  shapes : List Word
  pats : List (List Word)
  tags : Word
  pc : BitVec 52
  loops : List LoopLevel
  bound : List Bool
  bufs : List (List TokMsg)
  wid : Word
  owner : Owner
  prioMax : BitVec 5
  flt : BitVec 16
  pends : List Pend
  holds : List Hold
  nextId : Nat
  /-- tags of incomplete commands, one entry a command, 0 for a command without one (R91) -/
  busy : List (BitVec 6)
  /-- matrix tokens issued and not yet performed (R44) -/
  tokens : Nat
  /-- WI: counted writes issued (R201) -/
  wi : Nat
  /-- counted writes not performed, by number -/
  undone : List Nat
  /-- counted writes that never perform, with the poison cause (R208) -/
  lost : List (Nat × Nat)
  /-- scalar registers whose SRAM has an uncorrectable error: reading one traps (R280, R282) -/
  badRegs : List (BitVec 5)
  /-- the same of its predicates, tile names, shape registers and pattern registers -/
  badSpecs : List SpecReg
  deriving DecidableEq, Repr

/-- Occupancy of a handler table slot (R35). -/
inductive SlotState where
  | empty
  | live
  | parking
  | exiting
  deriving DecidableEq, Repr

/-- The role of a TP (R28). -/
inductive Role where
  | loader
  | arithmetic
  | epilogue
  deriving DecidableEq, Repr

/-- Why an issue stalls (R37). record: new configuration waits for the floe's records (R26). -/
inductive Stall where
  | regs (rs : List (BitVec 5))
  | tag (g : BitVec 6)
  | entry
  | hold (read write floe : Bool)
  | tokenQueue (q : Nat)
  | firn
  | record
  deriving DecidableEq, Repr

/-- What a TP waits for (R37, R44, R93, R191, R192, R200, R202, R271). vstRel: a VST at issue, until its TP's earlier accesses
have performed. -/
inductive Block where
  | none
  | twait (all : Bool) (m : Word)
  | trecv (d : BitVec 5) (c : BitVec 2)
  | qpop (d : BitVec 5) (k : BitVec 3) (h : Nat)
  | qpsh (d : BitVec 5) (scope : BitVec 3) (h : Nat)
  | vld (d : BitVec 5) (k : BitVec 3) (loc v : Nat)
  | vst (d : BitVec 5) (loc v : Nat)
  | vstRel (d : BitVec 5) (loc v : Nat)
  | drain
  | parkedInSlot
  | stall (why : Stall)
  | issue (i : Instr)
  | fetch
  deriving DecidableEq, Repr

/-- A handler table slot with its TP (R35). -/
structure Slot where
  st : SlotState
  /-- the drain in progress ends in TRAPPED (R269) -/
  trapped : Bool
  mask : Bool
  prio : BitVec 5
  role : Role
  aged : Bool
  wait : Nat
  yield : Bool
  block : Block
  /-- the floe's advance cycle at which a VLD or VST began to wait (R195) -/
  since : Nat
  /-- its HANG record has been written (R195) -/
  hung : Bool
  /-- the word it issued last, for the records of R268 -/
  word : IWord
  tp : Tp
  deriving DecidableEq, Repr

/-! ## Streams (R76-R95) -/

/-- The stream commands. -/
inductive CmdKind where
  | srd
  | swr
  | sgth
  | ssct (mode : BitVec 2)
  | srec
  | sconC
  | sconI
  | smcs
  | smov
  | sbar (mode : BitVec 2)
  deriving DecidableEq, Repr

/-- Stream table entry states (R87); a free entry is none. -/
inductive EntState where
  | queued
  | active
  | stopped
  | barrier
  deriving DecidableEq, Repr

/-- A word that a stream command has in hand (R90): the cycle it is due in, the number of its word or record, the number of
the word within its record, and whether it is the last of its record. -/
structure Flight where
  due : Nat
  place : Nat
  sub : Nat
  last : Bool
  word : FWord
  deriving DecidableEq, Repr

/-- A stream table entry with its issue-time copies and restart point (R66, R67, R87). -/
structure Cmd where
  kind : CmdKind
  st : EntState
  slot : Nat
  owner : Owner
  tag : BitVec 6
  /-- ip port, op port (none: not used) -/
  ip : Option (BitVec 4)
  op : Option (BitVec 4)
  gen : Bool
  tile : Option View
  /-- index tile (SGTH, SSCT) or source tile (SMOV) -/
  tile2 : Option View
  pat : List Word
  /-- SMCS branch mask -/
  branches : BitVec 4
  space : BitVec 4
  floeLocal : Bool
  /-- issue number in the floe's issue order (R58) -/
  no : Nat
  /-- start advance cycle (R88) -/
  start : Nat
  /-- restart point (R67) -/
  pos : Nat
  /-- words passed -/
  words : Nat
  /-- words taken so far of the record in hand (SGTH, SSCT; R90) -/
  sub : Nat
  /-- SMCS branch points in words (R68) -/
  points : List Nat
  /-- words read and not yet delivered, or taken from the op port and not yet written (R90) -/
  inflight : List Flight
  /-- index values read and not yet used, with their poison; how many have been read; data words before the next record
  (SGTH; R90) -/
  idxs : List (BitVec 32 × Bool)
  idxNext : Nat
  idxWord : Nat
  /-- counted write number (R201), 0 for none -/
  wno : Nat
  /-- accesses of the TP issued before it that it waits for (R183): none for a floe-local command, whose order its offsets
  give (R90) -/
  after : List Nat
  /-- SKIL has ended it: the advance cycle in which its entry is freed and its tag set, the next one (R428) -/
  killed : Option Nat
  deriving DecidableEq, Repr

/-! ## The field (R96-R113) -/

/-- The state an operator slot keeps from one firing to the next (R121-R124, R133, R151-R153, R345, R365, R374). -/
structure RSet where
  pos : Nat
  count : Nat
  got : Nat
  keys : List (Nat × List (Option Nat))
  err : Option FWord
  psn : Bool
  deriving DecidableEq, Repr

/-- Slot state of one operator. -/
structure OpSt where
  /-- LCAR's FIRST -/
  first : Bool
  /-- LCAR's H, ORDM's held word -/
  held : Option FWord
  /-- CNTR's c, IDXG's k, LCTL's done words, CMPT's words in the record -/
  cnt : Nat
  /-- LCTL: iterations released and not begun -/
  credit : Nat
  /-- LCTL: an iteration is in progress; CMPT, ORDM: a record is -/
  inRun : Bool
  /-- CMPT, ORDM: the arm of the record in progress -/
  arm : Bool
  /-- ORDM's E, what it was before its last change, and the advance cycle of that change (R123, R124) -/
  exp : Nat
  expOld : Nat
  expAt : Nat
  /-- ORDM: the record in progress is discarded -/
  drop : Bool
  /-- ORDM: close levels of arm 1 and arm 0 -/
  close1 : Option Nat
  close0 : Option Nat
  /-- CNTR's ps, REDS's poison -/
  psn : Bool
  /-- REDS, SCNS: data words of the run -/
  words : Nat
  /-- FMAC running values, SCNS accumulators, REDS partials (partial q at q times the element count) -/
  acc : List (Option Nat)
  /-- first error token of a REDS run -/
  err : Option FWord
  /-- RDOC open sets -/
  sets : List RSet
  /-- wc of R165 -/
  wc : Nat
  deriving DecidableEq, Repr

/-- A joined long port that has given its closing word (R109): the port, the word's END and RIDX, and the words the port had
given since its last word of level 1..7 or above. -/
structure JoinClosed where
  port : Nat
  level : Nat
  ridx : BitVec 24
  counts : List Nat
  deriving DecidableEq, Repr

/-- The end matching of joined ports in progress (R109). -/
structure JoinSt where
  /-- 0 none, 1 pad, 2 check -/
  mode : Nat
  hi : Nat
  short : List Nat
  /-- long ports that have closed -/
  closed : List JoinClosed
  /-- short count, and RIDX of the short end word -/
  shortCount : Nat
  ridx : BitVec 24
  deriving DecidableEq, Repr

/-- Words of one firing waiting for their commit (R105): output port and word, in order. -/
structure Commit where
  due : Nat
  outs : List (Nat × FWord)
  /-- entries reserved on each output port -/
  reserve : List Nat
  deriving DecidableEq, Repr

/-- A queue or channel slot of a field (R97, R111); the numbering is that of the lists of Field. -/
inductive QId where
  | ip (n : Nat)
  | op (n : Nat)
  | rq (n : Nat)
  | wq (n : Nat)
  | link (n : Nat)
  | agIn (n : Nat)
  | agOut (n : Nat)
  deriving DecidableEq, Repr

/-- An operator group (R105). -/
structure Group where
  lastFire : Option Nat
  commits : List Commit
  ops : List OpSt
  /-- per join class, by its lowest port -/
  joins : List (Nat × JoinSt)
  /-- per input port: words given since its last word of level 1..7 or above -/
  counts : List (List Nat)
  deriving DecidableEq, Repr

/-- An address generator (R100-R102). -/
structure Gen where
  c0 : Nat
  c1 : Nat
  /-- buffers closed since load by words taken; the buffer in use is this modulo the count -/
  buf : Nat
  /-- tile store: buffers closed since load by accesses that have performed; line buffer: words written (writer), windows
  delivered (reader) -/
  closed : Nat
  recNo : Nat
  accesses : Nat
  /-- FIFO or line buffer: words written or read since load -/
  moved : Nat
  lastCycle : Option Nat
  /-- words taken and not yet performed: due cycle, byte address in the cell (none: nothing is written), word -/
  writes : List (Nat × Option Nat × FWord)
  /-- words read and not yet in their queue: due cycle, word -/
  reads : List (Nat × FWord)
  deriving DecidableEq, Repr

/-- The queues and units of a field (R97, R100, R111). Lists are indexed: ports 0-15; read and write queues 4 × cell +
side; links 4 × box + direction; generators 4 × memory cell + generator; converters 8 × box + output. -/
structure Field where
  ipq : List (List QEnt)
  opq : List (List QEnt)
  rq : List (List QEnt)
  wq : List (List QEnt)
  links : List (List QEnt)
  agIn : List (List QEnt)
  agOut : List (List QEnt)
  groups : List Group
  gens : List Gen
  /-- the entries of each memory cell's FIFO with their sidebands, oldest first (R100) -/
  fifo : List (List QEnt)
  /-- error tokens on their way to ESINK, oldest first (R108) -/
  sink : List FWord
  /-- wc of each converter (R165) -/
  conv : List Nat
  deriving DecidableEq, Repr

/-! ## Matrix nodes (R136-R149) -/

/-- A token in a node's queue (R142, R143). -/
structure MTok where
  tok : Word
  mow : Word
  owner : Option Owner
  arrived : Nat
  deriving DecidableEq, Repr

/-- A multiply token between acceptance and contribution (R145): the slabs of A and B read so far, one pair for each k; the
scale slabs read, one pair for each chunk; whether a word read was poisoned; and the node's tables at acceptance (R149). -/
structure MFlight where
  t : MTok
  accepted : Nat
  slabs : List (List Nat × List Nat)
  scales : List (List Nat × List Nat)
  psn : Bool
  ta : List (BitVec 16)
  tb : List (BitVec 16)
  deriving DecidableEq, Repr

/-- A move delivering words (R145, R400) or a release (R147, R399): word w is due at start + 20 + w; owner is the TP whose
MMOV it performs. -/
structure Move where
  owner : Option Owner
  start : Nat
  port : BitVec 4
  words : List FWord
  next : Nat
  holdsPort : Bool
  deriving DecidableEq, Repr

/-- A matrix node: token queue, first free cycle, codebook tables, tokens in flight, moves, MTAB in progress
(R136, R145, R149). -/
structure MNode where
  queue : List MTok
  freeAt : Nat
  ta : List (BitVec 16)
  tb : List (BitVec 16)
  flight : List MFlight
  moves : List Move
  mtab : Option (Nat × MTok × List (BitVec 16) × List (BitVec 16))
  /-- MCLR clears C in its next cycle: cycle, accumulator node and issuer -/
  clears : List (Nat × Nat × Option Owner)
  deriving DecidableEq, Repr

/-- An accumulator node (R147, R283). -/
structure Accum where
  c : Table
  cnt : Nat
  tgt : Nat
  ptgt : Nat
  acnt : Nat
  poison : Bool
  deriving DecidableEq, Repr

/-! ## Floes -/

/-- States of the pending configuration (R131). -/
inductive CfgState where
  | idle
  | loading
  | ready
  | failed
  | draining
  deriving DecidableEq, Repr

/-- The active and pending configuration of a floe (R128-R133). -/
structure CfgSt where
  cur : Table
  curId : Word
  pend : Table
  pendId : Word
  state : CfgState
  checked : Bool
  gen : Bool
  igen : Bool
  errors : Nat
  lastCause : BitVec 8
  failEntry : BitVec 16
  /-- CFGL in progress or CFGG waiting for its switch: owner, tag, delta address in the form of R225, entries (0: its header
  has not been read), next entry -/
  owner : Owner
  tag : BitVec 6
  delta : Word
  count : Nat
  next : Nat
  stopped : Bool
  /-- issue number of the CFGG: commands below it must be done before the switch (R133) -/
  mark : Nat
  /-- CFGL: the TP's accesses before it that its reads wait for (R179) -/
  after : List Nat
  deriving DecidableEq, Repr

/-- A TLB leaf (R264): base and size of the page, target code and permissions. -/
structure TlbEnt where
  va : Nat
  size : Nat
  pa : Nat
  tgt : Nat
  r : Bool
  w : Bool
  x : Bool
  deriving DecidableEq, Repr

/-- A write to the floe's memory cells in the advance cycle in progress: it takes effect as the cycle ends, so that every
read of the cycle sees what stood before it (R90), in the order of R98: write generators by their number, then stream
and STS writes in issue order. Elements are pieces with their values; combine modes are R83's (0 stores). src: 0 write
generator, 1 stream, 2 STS, 3 LAY; 4, in partLog alone, a granule found uncorrectable. part: a word of an SSCT record before its
last one (R67). -/
structure FloeWrite where
  src : Nat
  key : Nat
  elems : List (List Piece × Nat)
  psn : Bool
  mode : Nat
  fmt : Nat
  part : Bool
  deriving DecidableEq, Repr

/-- A floe (R14). -/
structure Floe where
  slots : List Slot
  /-- sequencer-cycle count (k.SEQC) -/
  seqc : Nat
  /-- advance-cycle count (R17, k.ADVC) -/
  advc : Nat
  /-- advance cycles numbered for offsets (R276): the floe's own count, kept through save and restore -/
  cyc : Nat
  /-- extra field clock cycles of a stretched advance cycle (R98) -/
  stretch : Nat
  /-- the last field clock cycle was frozen (R115) -/
  frozen : Bool
  quiet : Nat
  /-- an event of R278 has occurred since the last field clock cycle -/
  active : Bool
  /-- launch whose region holds the floe -/
  lid : Option Nat
  /-- masked for a DELTA (R256), for pre-emption (R274), by a BRK (R339) or by the monitor (R279) -/
  halting : Bool
  halted : Bool
  deltaMask : Bool
  judged : Bool
  lcache : List (Option (List Word))
  utlb : List TlbEnt
  streams : List (Option Cmd)
  issueNo : Nat
  cfg : CfgSt
  field : Field
  nodes : List MNode
  accums : List Accum
  feed : Option (BitVec 4)
  /-- issue number of the MXT.p: later streams on its port wait (R143) -/
  feedNo : Nat
  heldTok : List HeldTok
  /-- banks used in the advance cycle in progress: cell × 16 + bank, with accesses (R98) -/
  banks : List (Nat × Nat)
  /-- writes of the advance cycle in progress -/
  writes : List FloeWrite
  /-- granules of the memory cells as they would be without the SSCT records in progress: number, value, poison (R67, R434) -/
  partBase : List (Nat × Nat × Bool)
  /-- the writes to those granules since, in the order they took effect; part: of a record still in progress -/
  partLog : List FloeWrite
  /-- region entry number of the floe in its region's floe list -/
  entry : Nat
  deriving DecidableEq, Repr

/-! ## Engines of a compute die -/

/-- A LAY command (R382). -/
structure LayCmd where
  owner : Owner
  floe : Nat
  tag : BitVec 6
  src : List Word
  dst : List Word
  dmw : Word
  pos : Nat
  stopped : Bool
  wno : Nat
  /-- accesses of the TP issued before it that have not performed (R183) -/
  after : List Nat
  deriving DecidableEq, Repr

/-- A word of a versioned window (R189): latest version, values from the latest back (its length is n). -/
structure LvWord where
  latest : Nat
  vals : List Word
  deriving DecidableEq, Repr

/-- Hardware queue states (R198). -/
inductive HwqState where
  | disabled
  | direct
  | spilling
  | faulted
  deriving DecidableEq, Repr

/-- A queue entry with its stamp, scope and poison (R200, R201, R206, R208). -/
structure HwqEnt where
  data : List Word
  stamp : Nat
  sc : Nat
  mid : Nat
  role : Nat
  psn : Bool
  cause : Nat
  /-- the producer whose drain count the entry waits for; none: an engine or pipe whose writes have performed -/
  prod : Option Owner
  deriving DecidableEq, Repr

/-- A hardware queue (R196-R207). -/
structure Hwq where
  st : HwqState
  v : Bool
  spe : Bool
  ssp : Nat
  sre : Nat
  sbase : Nat
  hw : List HwqEnt
  /-- entries in the spill ring, oldest first: the device's copy of what the ring in memory holds -/
  ring : List HwqEnt
  head : Nat
  tail : Nat
  stalled : Bool
  /-- slots waiting to push or pop, in arrival order: floe and slot -/
  waitPush : List (Nat × Nat)
  waitPop : List (Nat × Nat)
  deriving DecidableEq, Repr

/-- A solver slot record (R239), field by field. -/
structure Sample where
  t : BitVec 32
  tend : BitVec 32
  h : BitVec 32
  err : BitVec 32
  atol : BitVec 32
  rtol : BitVec 32
  nacc : BitVec 32
  nrej : BitVec 32
  hprev : BitVec 32
  head : Nat
  meth : Nat
  crej : Nat
  st : Nat
  /-- the doublewords as loaded, for the check of reserved fields (R239) -/
  raw : List Word
  /-- the round in progress: the slot is active, hs, last, k, and the error word returned -/
  active : Bool
  hs : BitVec 32
  last : Bool
  k : Nat
  back : Option (BitVec 32)
  deriving DecidableEq, Repr

/-- Solver states (R234). -/
inductive SolverState where
  | idle
  | ready
  | running
  | stopping
  deriving DecidableEq, Repr

/-- A solver sequencer (R232-R246). -/
structure Solver where
  st : SolverState
  /-- loads in progress, oldest first: block, owner, tag (R235); method entries and slot records the oldest has read (R246) -/
  loads : List (List Word × Owner × BitVec 6)
  gotM : List (List Word)
  gotS : List (List Word)
  block : List Word
  /-- L2 address of the block the run's .go named: DW7 is written there (R240) -/
  blockAt : Nat
  methods : List (List (BitVec 32))
  samples : List Sample
  /-- rounds of the current or last run -/
  rounds : Nat
  inRound : Bool
  /-- words of the round still to send -/
  out : List FWord
  goTag : Option (Owner × BitVec 6)
  /-- launch that held the graph floe as the run began: the run waits while another region has the floe (R246) -/
  graph : Option Nat
  stopTags : List (Owner × BitVec 6)
  cause : Nat
  /-- stalled by a translation fault (R246) -/
  stopped : Bool
  /-- the run's end is being written: records written so far -/
  ending : Option Nat
  /-- a fault has ended the run, and its record is still to be accepted (R23, R246) -/
  ended : Bool
  /-- the same for the oldest load -/
  loadEnded : Bool
  deriving DecidableEq, Repr

/-- An engine command of the embedding engine (R224-R231). -/
structure EmbCmd where
  /-- OP of R223: 1 EGAT, 2 EUPD, 3 EPIN -/
  op : Nat
  /-- number of the command at its engine, by which messages name it -/
  id : Nat
  owner : Owner
  tag : BitVec 6
  n : Nat
  block : List Word
  tab : List Word
  /-- EPIN: the next item, its restart point (R226) -/
  pos : Nat
  /-- positions of the bad items, each once -/
  bad : List Nat
  /-- EGAT: rows looked up and not yet pooled: position, values, poison; positions asked of other modules; bags done -/
  rows : List (Nat × List (BitVec 32) × Bool)
  asked : List Nat
  bags : List Nat
  /-- EUPD: sums and closes have been sent -/
  coalesced : Bool
  /-- rows, with a position, whose contribution or action has not come to its end -/
  waiting : List (Nat × Nat)
  /-- EPIN: rows, with a position, whose request stopped the command and is made again (R226) -/
  redo : List (Nat × Nat)
  /-- stopped by a translation fault of the engine of this die (R226) -/
  stopped : Option Nat
  /-- an ACCESS denial or an uncorrectable error stopped it at this position (R226) -/
  failAt : Option Nat
  /-- counted write number (R201) -/
  wno : Nat
  /-- accesses of the TP issued before it that have not performed (R183) -/
  after : List Nat
  deriving DecidableEq, Repr

/-- A cached row unit of the Moraine, with its set and the ways it takes (R230). -/
structure MorUnit where
  set : Nat
  tab : List Word
  row : Nat
  ways : List Nat
  count : Nat
  dirty : Bool
  pinned : Bool
  bytes : List Byte
  psn : Bool
  deriving DecidableEq, Repr

/-- A module's contribution to a row in a step, with the step's parameters and the command that sent it (R228). -/
structure Contrib where
  module : Nat
  row : Nat
  g : List (BitVec 32)
  p : List (BitVec 32)
  engine : Nat
  id : Nat
  deriving DecidableEq, Repr

/-- What a home holds of a step of a table (R228, R229). A close is kept with 0 when its module sent it, with 1 + e when
engine e relayed it. -/
structure StepSt where
  step : Nat
  tab : List Word
  closes : List (Nat × Nat)
  contribs : List Contrib
  /-- rows the step has been applied to -/
  applied : List Nat
  deriving DecidableEq, Repr

/-- A migration of a row from this engine (R231), the command that asked for it, and the messages held at the old home, in
arrival order. -/
structure Migr where
  tab : List Word
  row : Nat
  target : Nat
  engine : Nat
  id : Nat
  pos : Nat
  heldMsgs : List EmbMsg
  /-- migrations of the row that wait for this one -/
  heldActs : List EmbMsg
  /-- its copy is on its way to another module -/
  sent : Bool
  deriving DecidableEq, Repr

/-- A row migrated in (R231): whether the relay-end marker has come, and whether this engine is its hash home. -/
structure InRow where
  tid : Nat
  row : Nat
  marker : Bool
  native : Bool
  deriving DecidableEq, Repr

/-- An embedding engine (R220-R231). -/
structure Emb where
  cmds : List EmbCmd
  /-- number the next command takes -/
  nextId : Nat
  /-- messages on their way to this engine, oldest first -/
  inbox : List EmbMsg
  steps : List StepSt
  units : List MorUnit
  /-- accesses of each set since reset, and the sets whose ageing is due (R230) -/
  accesses : Table
  due : List Nat
  k : Nat
  migrating : List Migr
  /-- directory of rows whose hash home is here and whose home is elsewhere: table, row, engine -/
  dir : List (Nat × Nat × Nat)
  inRows : List InRow
  /-- a translation fault has stopped the engine's updates (R226) -/
  stopped : Bool
  deriving DecidableEq, Repr

/-- A compute die (R15). -/
structure Die where
  inReset : Bool
  stlb : List TlbEnt
  firnQ : List LayCmd
  firn : List (Option LayCmd)
  emb : Emb
  solvers : List Solver
  queues : List Hwq
  lvsz : Nat
  lv : List (Nat × LvWord)
  /-- local counts of the engines (R17): Firn 0-7, embedding 8, solvers 9-12, queue home 13 -/
  counts : List Nat
  deriving DecidableEq, Repr

/-! ## I/O dies, the front end and ingest -/

/-- A message in a pipe (R210-R218). The five stages pass bytes on from one to the next; lists of five are indexed by
stage - 1. -/
structure Msg where
  /-- the record as eight words, and as the doublewords of its queue entry -/
  words : List (BitVec 32)
  raw : List Word
  /-- bytes that have come to each stage, how many it has taken, and whether it has taken its last -/
  ins : List (List Byte)
  taken : List Nat
  fin : List Bool
  /-- tokens formed and not yet written, each with the offset of its piece; tokens formed; tokens written -/
  toks : List (Nat × Nat)
  formed : Nat
  written : Nat
  /-- tokens written with poison (R218) -/
  spoilt : Nat
  /-- reason, stage and offset of a quarantine (R217), and whether its entry has been written -/
  quar : Option (Nat × Nat × Nat)
  entryDone : Bool
  deriving DecidableEq, Repr

/-- An ingest pipe (R209-R219). -/
structure Pipe where
  desc : List Word
  running : Bool
  /-- starts (with their descriptor) and stops that have reached the pipe and not acted, oldest first -/
  reqs : List (Option (List Word) × Owner × BitVec 6)
  /-- stops that wait for the messages in the pipe -/
  stopping : List (Owner × BitVec 6)
  code : Nat
  stalled : Bool
  done : BitVec 32
  /-- messages popped and without a result entry, oldest first -/
  msgs : List Msg
  /-- loaded tables: byte IDs and merge entries (left, right, rank, result), or vocabulary entries (piece, continuation, ID) -/
  vocab : List Nat
  merges : List (Nat × Nat × Nat × Nat)
  pieces : List (List Byte × Bool × Nat)
  /-- counted writes of the pipe (R201) -/
  wi : Nat
  lcount : Nat
  deriving DecidableEq, Repr

/-- A Rook core (R247): RV64 integer registers, the packet buffer, and the machine-mode trap registers of the RISC-V
family (log entry 4). -/
structure Rook where
  regs : List Word
  pc : Word
  packet : List Word
  /-- queue the packet in the buffer came from -/
  pktQueue : Nat
  mtvec : Word
  mepc : Word
  mcause : Word
  mtval : Word
  mie : Bool
  mpie : Bool
  deriving DecidableEq, Repr

/-- Software queue states (R249). -/
inductive SwqState where
  | disabled
  | empty
  | pending
  | active
  | waiting
  | faulted
  deriving DecidableEq, Repr

/-- A software queue as the front end holds it (R248-R254). -/
structure Swq where
  st : SwqState
  x : Nat
  qnt : Nat
  re : Nat
  pri : Nat
  ring : Nat × Nat
  wlim : Nat
  pidx : Nat
  cidx : Nat
  cause : Nat
  /-- front-end count at which it became PENDING -/
  since : Nat
  /-- the packet in hand, and the front-end count at which its block began -/
  packet : Option (List Word)
  blockedAt : Option Nat
  fetchedAt : Nat
  timedOut : Bool
  /-- floes of a DELTA still to change -/
  todo : List Nat
  deriving DecidableEq, Repr

/-- Region states (R257). -/
inductive RegState where
  | candidate
  | resident
  | saving
  | saved
  | restoring
  | done
  | failed
  deriving DecidableEq, Repr

/-- Where a TP of a work set stands (R36, R44, R45, R269). -/
inductive TpStatus where
  | waiting
  | placed
  | parked
  | exited
  | trapped
  deriving DecidableEq, Repr

/-- The memory cells of a saved floe, by floe-list entry: bytes, poisoned granules and device-format areas (R275). -/
structure SavedCells where
  entry : Nat
  mem : Memory
  poison : List Nat
  dev : List (Nat × Nat × Nat)
  deriving DecidableEq, Repr

/-- A live launch and its region (R30, R253, R257). -/
structure Region where
  lid : Nat
  queue : Nat
  x : Nat
  pri : Nat
  age : Nat
  floes : List Nat
  st : RegState
  hdr : List Word
  slim : Nat
  trans : BitVec 8
  delta : Nat × Nat
  signal : Nat × Nat
  sigVal : BitVec 32
  qnt : Nat
  /-- status of every TP by linear index -/
  tps : List TpStatus
  /-- contexts of parked TPs: the slot as PARK left it -/
  parkedTps : List (Nat × Slot)
  /-- mailbox words of each TP, with the producer and consumer counts -/
  mail : List (Nat × Nat × Nat × List TokMsg)
  discards : Nat
  dlProd : Nat
  loaded : Bool
  quantumAt : Nat
  expired : Bool
  saves : Nat
  savedFloes : List Floe
  /-- what the memory cells of the saved floes hold (R275) -/
  savedCells : List SavedCells
  /-- LVSZ of the packet, 31 to keep (R252, R253) -/
  lvsz : Nat
  /-- held after a BRK until RELEASE (R270) -/
  held : Bool
  /-- started by the scheduler: its floes are its own, and it is restored or loaded once they are free (R258) -/
  claim : Bool
  deriving DecidableEq, Repr

/-- An I/O die (R15, R249, R457). -/
structure IoDie where
  inReset : Bool
  /-- minimal mode: the die and its PCIe function run, its Rook cores, LPDDR6 and UALink stations are held in reset (R302) -/
  held : Bool
  rooks : List Rook
  pipes : List Pipe
  feCount : Nat
  /-- the count last delivered to the units served (R17) -/
  paired : Nat
  qtbase : Word
  mbxbase : Word
  mbxprod : Word
  mbxcons : Word
  /-- records units hold for the mailbox, oldest first (R23) -/
  heldRecs : List (List Word)
  /-- DW0 of the records in the mailbox that the front end has not read, oldest first (R22, R26) -/
  unread : List Word
  /-- hardware queue slots: the software queue that holds each -/
  hwSlots : List (Option Nat)
  links : List Bool
  deriving DecidableEq, Repr

/-- The module's memories, dies and host registers. -/
structure Data where
  mem : Memory
  /-- poisoned 16-byte granules, by machine address / 16, rising (R281) -/
  poison : List Nat
  /-- areas the device has written in its own format (R46, R275): machine address, length and number of the write -/
  devFmt : List (Nat × Nat × Nat)
  floes : List Floe
  dies : List Die
  ios : List IoDie
  swqs : List (Nat × Swq)
  regions : List Region
  /-- token words on their way (R47, R290) -/
  net : List TokMsg
  ptroot : Word
  tlbBusy : Bool
  modid : BitVec 16
  hbar : Word
  staged : List Word
  atcmd : Word
  acl : Table
  routes : Table
  widRoutes : Table
  /-- 64 KiB pages of host physical memory that the host does not back (R261) -/
  hostHoles : List Nat
  /-- values returned to the host and to other modules, newest first (R286, R288) -/
  replies : List (List Byte)
  /-- token words sent to other modules: module, station and word; those of other modules that no launch here holds, which go
  back to their senders as NOWID (R290) -/
  sent : List (Nat × Nat × TokMsg)
  bounced : List TokMsg
  /-- what other modules of the pod refuse: by 4 KiB unit of a space of a module, bit 0 a fault of its translation, bit r its
  right r (R264, R288) -/
  peerNo : Table
  /-- the HDM range the host has programmed: first LPD byte and length (R285) -/
  hdm : Nat × Nat
  /-- messages to engines of other modules: engine 4 × module + die, station, message (R228, R288) -/
  embSent : List (Nat × Nat × EmbMsg)
  /-- the floe, slot and Rook core whose instruction is being executed: which of them issues -/
  curF : Nat
  curK : Nat
  curR : Nat
  /-- the word being executed, for fault records (R268) -/
  curW : IWord
  deriving DecidableEq, Repr

/-- Start-up phases of BOOTSTS (R301). -/
inductive BootState where
  | rom
  | verify
  | train
  | load
  | started
  | minimal
  deriving DecidableEq, Repr

/-- The management plane (R296-R303): field clock in MHz, BOOTSTS fields, flash, recovery window, telemetry. -/
structure Mgmt where
  clock : Nat
  boot : BootState
  reason : BitVec 8
  fails : Nat
  /-- the start in progress has failed: nothing of it goes on (R302) -/
  failed : Bool
  svn : BitVec 8
  /-- fused hashes of the ECDSA and of the LMS keys, each with its revocation fuse (R300) -/
  ecdsaFuses : List (BitVec 384 × Bool)
  lmsFuses : List (BitVec 384 × Bool)
  xd : Nat
  /-- I/O dies that failed self-test at the current start -/
  bad : List Nat
  /-- starts begun since power-up -/
  starts : Nat
  flash : List Byte
  /-- the 64 KiB staging buffer of the recovery window, by offset (R303) -/
  staging : Memory
  rcmdReason : BitVec 8
  /-- front-end status counters of X0 and X1 (R299) -/
  fes : List (BitVec 8)
  /-- corrected-error counters by die (R280) -/
  corrected : List Nat
  /-- telemetry values read, newest first (R24) -/
  telemetry : List Nat
  /-- SPDM responses given, newest first -/
  spdm : List (List Byte)
  deriving DecidableEq, Repr

/-- A soft error that ECC or parity finds (R280, R281): one that ECC corrects, counted by its die; and the uncorrectable ones,
each at its place: a 16-byte granule of memory, a word in a channel or queue of a field (on its data or its sideband), an entry
of a memory cell's FIFO, an entry of a µTLB or a shared TLB, an entry of a hardware queue, an accumulator node, the active
configuration, a scalar or another register of a TP, a row of a Moraine cache. -/
inductive Upset where
  | corrected (die : Nat)
  | memory (loc : Nat)
  | channel (f : Nat) (q : QId) (pos : Nat) (sideband : Bool)
  | fifo (f m pos : Nat)
  | utlb (f pos : Nat)
  | stlb (die pos : Nat)
  | hwq (h pos : Nat)
  | accum (f n : Nat)
  | config (f : Nat)
  | reg (f k : Nat) (r : BitVec 5)
  | special (f k : Nat) (r : SpecReg)
  | moraine (die pos : Nat)
  deriving DecidableEq, Repr

/-- Which agent moves next. Beside the agents of the module these are what reaches it from outside in no step of the table: a
host read of BAR0 (R284), a host write of the HDM decoder (R285), a soft error (R280), what another module answers from now on
to requests to a 4 KiB unit of a space of its own (R264, R288), what it writes into its own memory (R452), and the return of token
word i as NOWID (R290); the placement of the next TP of a launch by the front end's firmware (R36), its read of the next record
in a mailbox (R22, R26); and the management core's boot ROM (R298). -/
inductive Turn where
  | event (i : Instr)
  | seq (f : Nat)
  | rook (r : Nat)
  | clock (f : Nat)
  | feClock (x n : Nat)
  | unitClock (die u n : Nat)
  | pipeClock (p n : Nat)
  | bar0Read (off : Nat)
  | hdmWrite (base len : Nat)
  | upset (u : Upset)
  | peerAnswer (m psp unit mask : Nat)
  | peerWrite (m psp a : Nat) (bs : List Byte)
  | noWid (i : Nat)
  | place (lid : Nat)
  | feRead (x : Nat)
  | verify
  deriving DecidableEq, Repr

/-- The state of the machine. d: all that a program, an engine, the front end or the host data path can touch. mg: the
management plane (R22, R296). agenda: the agents that move next, first one first; it stands for the timing the spec
leaves open (log entry 2). -/
structure State where
  d : Data
  mg : Mgmt
  agenda : List Turn
  deriving DecidableEq, Repr

/-- Reasons the machine stops with a fault. -/
inductive Fault where
  /-- Raised by step when the agenda names an agent or a step that the module does not have (a floe of 144 or above, an
  encoded instruction offered as an event). Safe: no such agent exists (R11, R14, R15). -/
  | noSuchAgent
  deriving DecidableEq, Repr

/-- Reasons a step is refused. -/
inductive Refusal where
  /-- Raised by an arm of exec for an instruction that has no meaning yet. Safe. -/
  | notModelled (mnemonic : String)
  /-- Raised by step for a Rook core whose word is no word of the custom-0 opcode: a base RV64 instruction of the
  front-end firmware, to which the spec gives no effect (R247). Safe. -/
  | rookBase
  deriving DecidableEq, Repr

/-! ## Reset -/

/-- A TP of an empty slot: the state of R27 at placement, with no launch. -/
def Tp.reset : Tp :=
  { regs := List.replicate 32 0, preds := [true, false, false, false, false, false, false, false],
    tiles := List.replicate 16 none, shapes := List.replicate 4 0x2000000#64,
    pats := List.replicate 8 [1, 0x0001000000000000, 0x0000000100000000, 0, 0, 0, 0, 0, 0],
    tags := 0, pc := 0, loops := [], bound := List.replicate 4 false, bufs := List.replicate 4 [],
    wid := 0, owner := ⟨0, 0⟩, prioMax := 0, flt := 0, pends := [], holds := [], nextId := 1, busy := [],
    tokens := 0, wi := 0, undone := [], lost := [], badRegs := [], badSpecs := [] }

/-- An EMPTY slot (R35). -/
def Slot.reset : Slot :=
  { st := .empty, trapped := false, mask := false, prio := 0, role := .loader, aged := false, wait := 0,
    yield := false, block := .none, since := 0, hung := false, word := 0, tp := Tp.reset }

/-- The load state of an operator slot (R134). -/
def OpSt.reset : OpSt :=
  { first := true, held := none, cnt := 0, credit := 1, inRun := false, arm := false, exp := 0, expOld := 0,
    expAt := 0, drop := false, close1 := none,
    close0 := none, psn := false, words := 0, acc := [], err := none, sets := [], wc := 0 }

/-- The load state of a group (R134). -/
def Group.reset : Group :=
  { lastFire := none, commits := [], ops := List.replicate 32 OpSt.reset, joins := [],
    counts := List.replicate 8 (List.replicate 7 0) }

/-- The load state of a generator (R134). -/
def Gen.reset : Gen :=
  { c0 := 0, c1 := 0, buf := 0, closed := 0, recNo := 0, accesses := 0, moved := 0, lastCycle := none, writes := [],
    reads := [] }

/-- An empty field. -/
def Field.reset : Field :=
  { ipq := List.replicate 16 [], opq := List.replicate 16 [], rq := List.replicate 32 [], wq := List.replicate 32 [],
    links := List.replicate 64 [], agIn := List.replicate 32 [], agOut := List.replicate 32 [],
    groups := List.replicate 8 Group.reset, gens := List.replicate 32 Gen.reset, fifo := List.replicate 8 [],
    sink := [], conv := List.replicate 128 0 }

/-- A matrix node at launch (R149). -/
def MNode.reset : MNode :=
  { queue := [], freeAt := 0, ta := List.replicate 16 0, tb := List.replicate 16 0, flight := [], moves := [],
    mtab := none, clears := [] }

/-- An accumulator node at launch (R147). -/
def Accum.reset : Accum := { c := [], cnt := 0, tgt := 0, ptgt := 0, acnt := 0, poison := false }

/-- The empty configuration, ID 0 (R128, R133). -/
def CfgSt.reset : CfgSt :=
  { cur := [], curId := 0, pend := [], pendId := 0, state := .idle, checked := false, gen := false, igen := false,
    errors := 0, lastCause := 0, failEntry := 0, owner := ⟨0, 0⟩, tag := 0, delta := 0, count := 0, next := 0,
    stopped := false, mark := 0, after := [] }

/-- A floe out of reset: nothing placed, every count zero (R17). -/
def Floe.reset : Floe :=
  { slots := List.replicate 8 Slot.reset, seqc := 0, advc := 0, cyc := 0, stretch := 0, frozen := false, quiet := 0,
    active := false, lid := none, halting := false, halted := false, deltaMask := false, judged := false,
    lcache := List.replicate 64 none, utlb := [], streams := List.replicate 32 none, issueNo := 0,
    cfg := CfgSt.reset, field := Field.reset, nodes := List.replicate 4 MNode.reset,
    accums := List.replicate 16 Accum.reset, feed := none, feedNo := 0, heldTok := [], banks := [], writes := [], partBase := [], partLog := [],
    entry := 0 }

/-- A DISABLED hardware queue (R198). -/
def Hwq.reset : Hwq :=
  { st := .disabled, v := false, spe := false, ssp := 0, sre := 0, sbase := 0, hw := [], ring := [], head := 0,
    tail := 0, stalled := false, waitPush := [], waitPop := [] }

/-- An IDLE solver (R234). -/
def Solver.reset : Solver :=
  { st := .idle, loads := [], gotM := [], gotS := [], block := List.replicate 8 0, blockAt := 0, methods := [], samples := [], rounds := 0,
    inRound := false, out := [], goTag := none, graph := none, stopTags := [], cause := 0, stopped := false, ending := none, ended := false,
    loadEnded := false }

/-- An embedding engine out of reset: empty cache, K = 8 (R230). -/
def Emb.reset : Emb :=
  { cmds := [], nextId := 0, inbox := [], steps := [], units := [], accesses := [], due := [], k := 8,
    migrating := [], dir := [], inRows := [], stopped := false }

/-- A compute die whose engines are idle; held in reset until the start releases it (R298). -/
def Die.reset : Die :=
  { inReset := true, stlb := [], firnQ := [], firn := List.replicate 8 none, emb := Emb.reset,
    solvers := List.replicate 4 Solver.reset, queues := List.replicate 128 Hwq.reset, lvsz := 0, lv := [],
    counts := List.replicate 14 0 }

/-- An idle pipe (R209). -/
def Pipe.reset : Pipe :=
  { desc := List.replicate 8 0, running := false, reqs := [], stopping := [], code := 0, stalled := false,
    done := 0, msgs := [], vocab := [], merges := [], pieces := [], wi := 0, lcount := 0 }

/-- A Rook core held in reset; its registers have no reset value in the spec (log entry 3). -/
def Rook.reset : Rook :=
  { regs := List.replicate 32 0, pc := 0, packet := List.replicate 8 0, pktQueue := 0, mtvec := 0, mepc := 0,
    mcause := 0, mtval := 0, mie := false, mpie := false }

/-- An I/O die: mailbox empty, every queue slot free (R23, R249, R457). -/
def IoDie.reset : IoDie :=
  { inReset := true, held := false, rooks := List.replicate 4 Rook.reset, pipes := List.replicate 8 Pipe.reset, feCount := 0,
    paired := 0, qtbase := 0, mbxbase := 0, mbxprod := 0, mbxcons := 0, heldRecs := [], unread := [],
    hwSlots := List.replicate 32 none, links := List.replicate 6 true }

/-- All data of the module right after PERST# is released: nothing listed in memory, every die held in reset. -/
def Data.reset : Data :=
  { mem := [], poison := [], devFmt := [], floes := List.replicate 144 Floe.reset, dies := List.replicate 4 Die.reset,
    ios := List.replicate 2 IoDie.reset, swqs := [], regions := [], net := [], ptroot := 0, tlbBusy := false,
    modid := 0, hbar := 0, staged := List.replicate 8 0, atcmd := 0, acl := [], routes := [], widRoutes := [],
    hostHoles := [], replies := [], sent := [], bounced := [], peerNo := [], hdm := (0, 0), embSent := [], curF := 0, curK := 0, curR := 0, curW := 0 }

/-- The management plane at the first start after power-up: step 1 of R298 has counted the start (R302). -/
def Mgmt.reset : Mgmt :=
  { clock := 600, boot := .rom, reason := 0, fails := 1, failed := false, svn := 0, ecdsaFuses := [(0, false)],
    lmsFuses := [(0, false)], xd := 0, bad := [], starts := 1, flash := [], staging := [],
    rcmdReason := 0, fes := [0, 0], corrected := List.replicate 6 0, telemetry := [], spdm := [] }

/-- The machine right after reset: PERST# released, start step 1 begun, no agent on the agenda. -/
def State.reset : State := { d := Data.reset, mg := Mgmt.reset, agenda := [] }

end Sys2Proof.Machine
end

