-- ==== Sys2Proof/Machine/Sparse.lean ====
section
/-!
DEFINITION. Tables with a default: the canonical sparse lists that hold memory, configuration fields and the access and
route tables. Keys rise strictly and no entry holds the default, so equal contents are equal lists.
-/

namespace Sys2Proof.Machine

/-- The value at key k; an unlisted key reads as the default z. -/
def spGet {β : Type} (z : β) : List (Nat × β) → Nat → β
  | [], _ => z
  | (a, v) :: l, k => if k = a then v else if k < a then z else spGet z l k

/-- The table with v at key k; writing the default removes the entry. -/
def spSet {β : Type} [DecidableEq β] (z : β) : List (Nat × β) → Nat → β → List (Nat × β)
  | [], k, v => if v = z then [] else [(k, v)]
  | (a, x) :: l, k, v =>
    if k < a then (if v = z then (a, x) :: l else (k, v) :: (a, x) :: l)
    else if k = a then (if v = z then l else (k, v) :: l)
    else (a, x) :: spSet z l k v

/-- Keys above a bound rise strictly and no entry holds the default. -/
def spWfFrom {β : Type} [DecidableEq β] (z : β) : Nat → List (Nat × β) → Bool
  | _, [] => true
  | b, (a, v) :: l => decide (b ≤ a) && decide (v ≠ z) && spWfFrom z (a + 1) l

/-- The canonical form of a table. -/
def spWf {β : Type} [DecidableEq β] (z : β) (l : List (Nat × β)) : Bool := spWfFrom z 0 l

/-- The table without the keys from lo up to (not including) hi. -/
def spDrop {β : Type} (l : List (Nat × β)) (lo hi : Nat) : List (Nat × β) :=
  l.filter (fun e => decide (e.1 < lo) || decide (hi ≤ e.1))

/-- The canonical form of a memory (MEMORY): what an unlisted byte reads as is 0. -/
def Memory.wf (m : Memory) : Bool := spWf (0 : Byte) m

/-- One byte of memory. -/
def readByte (m : Memory) (a : Nat) : Byte := spGet 0 m a

/-- Memory after one byte is stored. -/
def writeByte (m : Memory) (a : Nat) (b : Byte) : Memory := spSet 0 m a b

/-- The n bytes from address a on. -/
def readBytes (m : Memory) (a : Nat) : Nat → List Byte
  | 0 => []
  | n + 1 => readByte m a :: readBytes m (a + 1) n

/-- The n bytes from address a on as a number, little-endian (R6). -/
def readNum (m : Memory) (a : Nat) : Nat → Nat
  | 0 => 0
  | n + 1 => (readByte m a).toNat + 256 * readNum m (a + 1) n

/-- Memory after the bytes bs are stored from address a on. -/
def writeBytes (m : Memory) (a : Nat) : List Byte → Memory
  | [] => m
  | b :: bs => writeBytes (writeByte m a b) (a + 1) bs

/-- Memory after the n low bytes of x are stored from address a on, little-endian (R6). -/
def writeNum (m : Memory) (a : Nat) : Nat → Nat → Memory
  | 0, _ => m
  | n + 1, x => writeNum (writeByte m a (BitVec.ofNat 8 x)) (a + 1) n (x / 256)

/-- The n low bytes of x, little-endian. -/
def numBytes : Nat → Nat → List Byte
  | 0, _ => []
  | n + 1, x => BitVec.ofNat 8 x :: numBytes n (x / 256)

/-- The number whose little-endian bytes are bs. -/
def bytesNum : List Byte → Nat
  | [] => 0
  | b :: bs => b.toNat + 256 * bytesNum bs

/-- A rising list of keys with k put in. -/
def keyIns (k : Nat) : List Nat → List Nat
  | [] => [k]
  | a :: l => if k < a then k :: a :: l else if k = a then a :: l else a :: keyIns k l

/-- The keys a, a+1, … of n numbers. -/
def keysFrom (a : Nat) : Nat → List Nat
  | 0 => []
  | n + 1 => a :: keysFrom (a + 1) n

end Sys2Proof.Machine
end

