-- ==== Sys2Proof/Machine/Ops.lean ====
section
/-!
DEFINITION. The operations every meaning shares: numbers and fields, the agents of the module, registers, memory with
poison, fault records and the mailbox, taking a trap, the loop stack and the end of an instruction.
-/

namespace Sys2Proof.Machine

/-! ## Numbers (R6, R318) -/

/-- Bits [lo+n-1:lo] of a doubleword as a number. -/
def wb (w : Word) (lo n : Nat) : Nat := fld w.toNat lo n

/-- A doubleword from a number. -/
def w64 (n : Nat) : Word := BitVec.ofNat 64 n

/-- Sext of R318 on a number: the low n bits of x read as two's complement. -/
def sextN (n x : Nat) : Int :=
  if x % 2 ^ n < 2 ^ (n - 1) then ((x % 2 ^ n : Nat) : Int) else ((x % 2 ^ n : Nat) : Int) - ((2 ^ n : Nat) : Int)

/-- A doubleword from an integer, mod 2^64. -/
def wi64 (i : Int) : Word := BitVec.ofInt 64 i

/-- Multiplication by a power of two of a field value. -/
def shiftUp (x lo : Nat) : Nat := x * 2 ^ lo

/-- A field value below 2^n placed at bit lo. -/
def atBit (x lo n : Nat) : Nat := x % 2 ^ n * 2 ^ lo

/-- 1 for true. -/
def bnat (b : Bool) : Nat := if b then 1 else 0

/-- x with the bits [lo+n-1:lo] replaced by v. -/
def setBits (x lo n v : Nat) : Nat := x - fld x lo n * 2 ^ lo + v % 2 ^ n * 2 ^ lo

/-- The smallest multiple of n at or above x. -/
def alignUp (x n : Nat) : Nat := (x + n - 1) / n * n

/-- Ceiling division. -/
def ceilDiv (x n : Nat) : Nat := (x + n - 1) / n

/-- A power of two. -/
def isPow2 (x : Nat) : Bool := (List.range 64).any (fun k => x == 2 ^ k)

/-- The sum of a list. -/
def sumNat (l : List Nat) : Nat := l.foldl (fun a b => a + b) 0

/-- The entry of an association list. -/
def assocGet {β : Type} (l : List (Nat × β)) (k : Nat) : Option β := (l.find? (fun e => e.1 == k)).map (fun e => e.2)

/-- An association list with the entry at k replaced or added at the end. -/
def assocSet {β : Type} (l : List (Nat × β)) (k : Nat) (v : β) : List (Nat × β) :=
  if l.any (fun e => e.1 == k) then l.map (fun e => if e.1 == k then (k, v) else e) else l ++ [(k, v)]

/-- An association list without the entry at k. -/
def assocDel {β : Type} (l : List (Nat × β)) (k : Nat) : List (Nat × β) := l.filter (fun e => e.1 != k)

/-- The list without its i-th element. -/
def dropIdx {β : Type} (l : List β) (i : Nat) : List β := l.take i ++ l.drop (i + 1)

/-! ## The agents of the module (R11-R15) -/

/-- Floe f. -/
def getFloe (d : Data) (f : Nat) : Floe := d.floes.getD f Floe.reset

/-- Floe f changed; a number of no floe changes nothing. -/
def modFloe (d : Data) (f : Nat) (h : Floe → Floe) : Data := { d with floes := d.floes.set f (h (getFloe d f)) }

/-- Slot k of a floe. -/
def slotOf (fl : Floe) (k : Nat) : Slot := fl.slots.getD k Slot.reset

/-- Slot k of floe f. -/
def getSlot (d : Data) (f k : Nat) : Slot := slotOf (getFloe d f) k

/-- Slot k of floe f changed. -/
def modSlot (d : Data) (f k : Nat) (h : Slot → Slot) : Data :=
  modFloe d f (fun fl => { fl with slots := fl.slots.set k (h (slotOf fl k)) })

/-- The TP in slot k of floe f. -/
def getTp (d : Data) (f k : Nat) : Tp := (getSlot d f k).tp

/-- The TP in slot k of floe f changed. -/
def modTp (d : Data) (f k : Nat) (h : Tp → Tp) : Data := modSlot d f k (fun s => { s with tp := h s.tp })

/-- The TP whose instruction is being executed. -/
def curTp (d : Data) : Tp := getTp d d.curF d.curK

/-- That TP changed. -/
def modCur (d : Data) (h : Tp → Tp) : Data := modTp d d.curF d.curK h

/-- That TP's slot changed. -/
def modCurSlot (d : Data) (h : Slot → Slot) : Data := modSlot d d.curF d.curK h

/-- Compute die c. -/
def getDie (d : Data) (c : Nat) : Die := d.dies.getD c Die.reset

/-- Compute die c changed. -/
def modDie (d : Data) (c : Nat) (h : Die → Die) : Data := { d with dies := d.dies.set c (h (getDie d c)) }

/-- I/O die x. -/
def getIo (d : Data) (x : Nat) : IoDie := d.ios.getD x IoDie.reset

/-- I/O die x changed. -/
def modIo (d : Data) (x : Nat) (h : IoDie → IoDie) : Data := { d with ios := d.ios.set x (h (getIo d x)) }

/-- The compute die of floe f (R13). -/
def dieOf (f : Nat) : Nat := f / 36

/-- The I/O die that serves a die: X0 for C0, C2 and itself, X1 for C1, C3 and itself (R11, R17). -/
def ioOf (die : Nat) : Nat := die % 2

/-- The live launch with identity lid. -/
def getRegion (d : Data) (lid : Nat) : Option Region := d.regions.find? (fun r => r.lid == lid)

/-- That launch changed. -/
def modRegion (d : Data) (lid : Nat) (h : Region → Region) : Data :=
  { d with regions := d.regions.map (fun r => if r.lid == lid then h r else r) }

/-- The launch header of a region: doubleword i (R30). -/
def hdrW (r : Region) (i : Nat) : Word := r.hdr.getD i 0

/-- Software queue q. -/
def getSwq (d : Data) (q : Nat) : Option Swq := assocGet d.swqs q

/-- Software queue q changed. -/
def modSwq (d : Data) (q : Nat) (h : Swq → Swq) : Data :=
  { d with swqs := d.swqs.map (fun e => if e.1 == q then (q, h e.2) else e) }

/-- A TP is named by an owner: placed in slot k of floe f. -/
def findTp (d : Data) (o : Owner) : Option (Nat × Nat) :=
  (List.range 144).findSome? (fun f =>
    if (getFloe d f).lid == some o.lid then
      (List.range 8).findSome? (fun k =>
        if (getSlot d f k).st != .empty && (getSlot d f k).tp.owner == o then some (f, k) else none)
    else none)

/-! ## The issuer of a command, wherever it stands -/

/-- The slots of a saved floe with the TP of an owner changed. -/
def savedTp (o : Owner) (h : Tp → Tp) (fl : Floe) : Floe :=
  { fl with slots := fl.slots.map (fun s => if s.st != .empty && s.tp.owner == o then { s with tp := h s.tp } else s) }

/-- The TP of an owner changed: in its slot, and in the saved context of its floe (R226, R274). -/
def modOwner (d : Data) (o : Owner) (h : Tp → Tp) : Data :=
  modRegion (match findTp d o with
    | some (f, k) => modTp d f k h
    | none => d) o.lid (fun r => { r with savedFloes := r.savedFloes.map (savedTp o h) })

/-- The TP of an owner, in its slot or its saved context. -/
def ownerTp (d : Data) (o : Owner) : Option (Nat × Tp) :=
  match findTp d o with
  | some (f, k) => some (k, getTp d f k)
  | none =>
    match getRegion d o.lid with
    | none => none
    | some r => (r.savedFloes.flatMap (fun fl => (List.range 8).map (fun k => (k, slotOf fl k)))).findSome? (fun e =>
        if e.2.st != .empty && e.2.tp.owner == o then some (e.1, e.2.tp) else none)

/-! ## Scalar registers and predicates (R27, R307) -/

/-- s[r]: s0 reads as 0. -/
def sget (t : Tp) (r : BitVec 5) : Word := if r = 0 then 0 else t.regs.getD r.toNat 0

/-- s[r] := v; a write to s0 is discarded. -/
def sput (t : Tp) (r : BitVec 5) (v : Word) : Tp :=
  if r = 0 then t else { t with regs := t.regs.set r.toNat v }

/-- p[r]: p0 reads as 1. -/
def pget (t : Tp) (r : BitVec 3) : Bool := if r = 0 then true else t.preds.getD r.toNat false

/-- p[r] := v; a write to p0 is discarded. -/
def pput (t : Tp) (r : BitVec 3) (v : Bool) : Tp :=
  if r = 0 then t else { t with preds := t.preds.set r.toNat v }

/-- s[r] of the issuing TP. -/
def rs (d : Data) (r : BitVec 5) : Word := sget (curTp d) r

/-- s[r] of the issuing TP as a number. -/
def rn (d : Data) (r : BitVec 5) : Nat := (rs d r).toNat

/-! ## Machine addresses: one number space for every memory of R171 -/

/-- Address a of the FLOE space of floe f (R56). -/
def locFloe (f a : Nat) : Nat := 1 * 2 ^ 60 + f * 2 ^ 22 + a

/-- L2 address a (R172). -/
def locL2 (a : Nat) : Nat := 2 * 2 ^ 60 + a

/-- Device physical byte a of HBM. -/
def locHbm (a : Nat) : Nat := 3 * 2 ^ 60 + a

/-- Device physical byte a of LPD. -/
def locLpd (a : Nat) : Nat := 4 * 2 ^ 60 + a

/-- Host physical byte a. -/
def locHost (a : Nat) : Nat := 5 * 2 ^ 60 + a

/-- Byte a of the instruction memory of Rook core r (R247, R299). -/
def locRook (r a : Nat) : Nat := 7 * 2 ^ 60 + r * 2 ^ 40 + a

/-- Address a of space psp of module m of the pod, as its own agents would see it (R172, log entry 11). -/
def locPeer (m psp a : Nat) : Nat := (8 + 8 * m + psp) * 2 ^ 60 + a

/-- The memory a machine address names, and the address within it. -/
def locTag (loc : Nat) : Nat := loc / 2 ^ 60
/-- See locTag. -/
def locOff (loc : Nat) : Nat := loc % 2 ^ 60

/-- The physical byte pa of a target code of R262. -/
def locPhys (tgt pa : Nat) : Nat := (3 + tgt) * 2 ^ 60 + pa

/-- The ECCU cause of uncorrectable data at a machine address (R267). -/
def eccuCause (loc : Nat) : Nat :=
  match locTag loc with
  | 1 => 1
  | 2 => 2
  | 3 => 3
  | 4 => 4
  | 5 => 5
  | t => if t < 8 then 8 else (match t % 8 with
      | 1 => 2
      | 3 => 3
      | 4 => 4
      | _ => 5)

/-! ## Memory with poison (R176, R280, R281) -/

/-- Some byte of the n from loc on is poisoned. -/
def poisoned (d : Data) (loc n : Nat) : Bool :=
  d.poison.any (fun g => decide (loc / 16 ≤ g) && decide (g ≤ (loc + n - 1) / 16))

/-- Granules wholly covered by the n bytes from loc on. -/
def covered (loc n g : Nat) : Bool := decide (loc ≤ 16 * g) && decide (16 * g + 16 ≤ loc + n)

/-- A write of n bytes from loc on: poisoned data poisons every granule it touches, clean data clears a granule it
covers whole (R281). -/
def poisonWrite (d : Data) (loc n : Nat) (psn : Bool) : Data :=
  if psn then
    { d with poison := (keysFrom (loc / 16) ((loc + n - 1) / 16 - loc / 16 + 1)).foldl (fun l g => keyIns g l) d.poison }
  else { d with poison := d.poison.filter (fun g => ! covered loc n g) }

/-- Device-format areas without the n bytes from lo on. -/
def devCut (lo n : Nat) (l : List (Nat × Nat × Nat)) : List (Nat × Nat × Nat) :=
  l.flatMap (fun a =>
    if a.1 + a.2.1 ≤ lo ∨ lo + n ≤ a.1 then [a]
    else
      (if a.1 < lo then [(a.1, lo - a.1, a.2.2)] else []) ++
      (if lo + n < a.1 + a.2.1 then [(lo + n, a.1 + a.2.1 - (lo + n), a.2.2)] else []))

/-- The device writes n bytes in its own format (R46, R275): what they read as is open (log entry 10). -/
def devWrite (d : Data) (loc n : Nat) : Data :=
  { d with devFmt := (loc, n, 1 + (d.devFmt.map (fun a => a.2.2)).foldl max 0) :: devCut loc n d.devFmt }

/-- Byte a of memory: a free value in a device-format area. -/
def memByte (d : Data) (a : Nat) : Byte :=
  match d.devFmt.find? (fun r => decide (r.1 ≤ a) && decide (a < r.1 + r.2.1)) with
  | some r => Config.deviceByte (r.2.2 * 2 ^ 80 + a)
  | none => readByte d.mem a

/-- Store the n low bytes of x at loc. -/
def memWrite (d : Data) (loc n x : Nat) (psn : Bool) : Data :=
  poisonWrite { d with mem := writeNum d.mem loc n x, devFmt := devCut loc n d.devFmt } loc n psn

/-- Store bytes at loc. -/
def memWriteBytes (d : Data) (loc : Nat) (bs : List Byte) (psn : Bool) : Data :=
  poisonWrite { d with mem := writeBytes d.mem loc bs, devFmt := devCut loc bs.length d.devFmt } loc bs.length psn

/-- Store doublewords at loc. -/
def memWriteWords (d : Data) (loc : Nat) : List Word → Data
  | [] => d
  | w :: ws => memWriteWords (memWrite d loc 8 w.toNat false) (loc + 8) ws

/-- The n bytes at loc as a number. -/
def memRead (d : Data) (loc n : Nat) : Nat :=
  if d.devFmt.isEmpty then readNum d.mem loc n
  else bytesNum ((keysFrom loc n).map (memByte d))

/-- n doublewords from loc on. -/
def memReadWords (d : Data) (loc : Nat) : Nat → List Word
  | 0 => []
  | n + 1 => w64 (memRead d loc 8) :: memReadWords d (loc + 8) n

/-- The element whose pieces are given (R55): each piece lends its bits. -/
def pieceRead (d : Data) (ps : List Piece) : Nat :=
  ps.foldl (fun acc p => acc + fld (memRead d p.loc (ceilDiv (p.off + p.n) 8)) p.off p.n * 2 ^ p.sh) 0

/-- Number of bytes a piece lies in. -/
def pieceBytes (p : Piece) : Nat := ceilDiv (p.off + p.n) 8

/-- Memory after an element's pieces are stored: only the element's bits change (R176). -/
def pieceStore (m : Memory) (v : Nat) : List Piece → Memory
  | [] => m
  | p :: ps =>
    let nb := ceilDiv (p.off + p.n) 8
    pieceStore (writeNum m p.loc nb (setBits (readNum m p.loc nb) p.off p.n (v / 2 ^ p.sh))) v ps

/-- Some byte of the element is poisoned. -/
def piecePoisoned (d : Data) (ps : List Piece) : Bool := ps.any (fun p => poisoned d p.loc (pieceBytes p))

/-- The bytes an element lies in, taken out of device-format areas with the values they read as: a store of the element
leaves their other bits as they are (R176). -/
def pieceSettle (d : Data) : List Piece → Data
  | [] => d
  | p :: ps =>
    pieceSettle (if d.devFmt.isEmpty then d
      else { d with mem := writeBytes d.mem p.loc ((keysFrom p.loc (pieceBytes p)).map (memByte d)),
                    devFmt := devCut p.loc (pieceBytes p) d.devFmt }) ps

/-- The element stored, with its poison (R281); an element never covers a granule whole unless it says so. -/
def pieceWrite (d : Data) (ps : List Piece) (v : Nat) (psn : Bool) : Data :=
  let d := pieceSettle d ps
  ps.foldl (fun d p => if psn then poisonWrite d p.loc (pieceBytes p) true else d)
    { d with mem := pieceStore d.mem v ps }

/-! ## Access tables (R291-R293) -/

/-- Rights, numbered as the ACCESS causes: 1 read, 2 write, 3 atomic, 4 configure. -/
def aclFlag (right : Nat) (dw : Word) : Bool := dw.getLsbD (right - 1)

/-- Doubleword dw of entry m of the access table of target t. -/
def aclDw (d : Data) (t m dw : Nat) : Word := w64 (spGet 0 d.acl ((t * 256 + m) * 8 + dw))

/-- Window w of entry m of target t covers the 4 KiB unit u and grants the right. -/
def aclWindow (d : Data) (t m w u right : Nat) : Bool :=
  let a := aclDw d t m (2 * w)
  let b := aclDw d t m (2 * w + 1)
  a.getLsbD 4 && aclFlag right a && decide (wb a 12 40 ≤ u) && decide (u ≤ wb b 12 40)

/-- The request of MID m to the n bytes from addr on of target t passes with the right (R293). -/
def aclOk (d : Data) (t m right addr n : Nat) : Bool :=
  (keysFrom (addr / 4096) ((addr + n - 1) / 4096 - addr / 4096 + 1)).all
    (fun u => (List.range 4).any (fun w => aclWindow d t m w u right))

/-- The target and target address of a machine address, for the access tables (R292): none for FLOE and other modules'
memory. -/
def aclTarget (loc : Nat) : Option (Nat × Nat) :=
  match locTag loc with
  | 2 => some (14 + 4 * (locOff loc / 2 ^ 27) + locOff loc % 2 ^ 27 / Config.l2BankSize / 12, locOff loc)
  | 3 => some (locOff loc / Config.hbmStackSize, locOff loc)
  | 4 => some (12 + locOff loc / Config.lpdHalf, locOff loc)
  | 5 => some (60, locOff loc)
  | _ => none

/-- The host I/O die of BOOTSTS is in State.mg; the data path reaches the host through either die's links (R284). A
machine address whose target is a die, or the LPDDR6 of a die, held in reset (R25, R302). -/
def targetDown (d : Data) (loc : Nat) : Bool :=
  match locTag loc with
  | 4 => (getIo d (locOff loc / Config.lpdHalf)).inReset || (getIo d (locOff loc / Config.lpdHalf)).held
  | 5 => (getIo d 0).inReset && (getIo d 1).inReset
  | _ => false

/-- The page of host memory at a host address is not backed (R261). -/
def hostHole (d : Data) (loc : Nat) : Bool := locTag loc == 5 && d.hostHoles.contains (locOff loc / 65536)

/-- A request of MID m for n bytes at machine address loc: none, or the fault class and cause of its refusal (R25, R261,
R293). -/
def physFault (d : Data) (m right loc n : Nat) : Option (Nat × Nat) :=
  if targetDown d loc then some (0x10, 0x51)
  else match aclTarget loc with
    | none => none
    | some (t, a) =>
      if ! aclOk d t m right a n then some (7, right)
      else if hostHole d loc then some (7, right)
      else none

/-! ## Fault records and the mailbox (R23, R268, R457) -/

/-- The fields of a fault record (R268) but for its two counts. -/
structure Rec where
  wr : Bool
  mc : Bool
  entry : Nat
  slot : Nat
  tag : Nat
  mid : Nat
  unit : Nat
  utype : Nat
  kind : Nat
  cause : Nat
  cls : Nat
  wid : Word
  addr : Nat
  d0 : Word
  d1 : Word
  d2 : Word
  deriving DecidableEq, Repr

/-- A record with every field zero. -/
def recZero : Rec :=
  { wr := false, mc := false, entry := 0, slot := 0, tag := 0, mid := 0, unit := 0, utype := 0, kind := 0, cause := 0,
    cls := 0, wid := 0, addr := 0, d0 := 0, d1 := 0, d2 := 0 }

/-- DW0 of a record. -/
def recHead (r : Rec) : Word :=
  w64 (atBit (bnat r.wr) 55 1 + atBit (bnat r.mc) 54 1 + atBit r.entry 49 5 + atBit r.slot 46 3 + atBit r.tag 40 6
    + atBit r.mid 32 8 + atBit r.unit 24 8 + atBit r.utype 19 5 + atBit r.kind 16 3 + atBit r.cause 8 8
    + atBit r.cls 0 8)

/-- The eight doublewords of a record. -/
def recWords (r : Rec) (lcnt pcnt : Nat) : List Word :=
  [recHead r, r.wid, w64 r.addr, r.d0, r.d1, r.d2, w64 lcnt, w64 pcnt]

/-- An L2 address has the form of R172 and lies below its die's versioned window. -/
def l2Ok (d : Data) (a n : Nat) : Bool :=
  decide (a < 2 ^ 29) &&
    decide (a % 2 ^ 27 + n ≤ Config.l2Size - (getDie d (a / 2 ^ 27)).lvsz * 2 ^ 20)

/-- The machine address of a mailbox ring of 16 KiB at an address of R457, where that is well formed: in L2 of the form of R172, in HBM
and LPD within the memory. -/
def mbxLoc (d : Data) (v : Word) : Option Nat :=
  if wb v 56 8 = 0 ∧ wb v 0 14 = 0 then
    match wb v 52 4 with
    | 1 => if l2Ok d (wb v 0 52) 16384 then some (locL2 (wb v 0 52)) else none
    | 3 => if wb v 0 52 + 16384 ≤ Config.hbmSize then some (locHbm (wb v 0 52)) else none
    | 4 => if wb v 0 52 + 16384 ≤ Config.lpdSize then some (locLpd (wb v 0 52)) else none
    | 5 => some (locHost (wb v 0 52))
    | _ => none
  else none

/-- Where the next record of I/O die x's mailbox goes, when it has room (R23, R457): none also when the write would be
refused under the Rook cores' MID. -/
def mbxRoom (d : Data) (x : Nat) : Option Nat :=
  let io := getIo d x
  if io.mbxprod.toNat - io.mbxcons.toNat < 256 ∧ io.inReset = false then
    match mbxLoc d io.mbxbase with
    | none => none
    | some b =>
      let loc := b + 64 * (io.mbxprod.toNat % 256)
      if (physFault d (0xD8 + 4 * x) 2 loc 64).isSome then none else some loc
  else none

/-- The record words enter the mailbox of I/O die x at loc; the front end has yet to read them there (R22). -/
def mbxWrite (d : Data) (x loc : Nat) (ws : List Word) : Data :=
  modIo (memWriteWords d loc ws) x (fun io =>
    { io with mbxprod := io.mbxprod + 1, unread := io.unread ++ [ws.headD 0] })

/-- The record words enter the mailbox of I/O die x, or are held until it has room (R23). -/
def mbxPut (d : Data) (x : Nat) (ws : List Word) : Data :=
  match (getIo d x).heldRecs, mbxRoom d x with
  | [], some loc => mbxWrite d x loc ws
  | _, _ => modIo d x (fun io => { io with heldRecs := io.heldRecs ++ [ws] })

/-- Write a record captured by a unit of a die, with the unit's local count (R17, R23). R17 gives the paired count of a unit of
a compute die; a unit of an I/O die (the front end, a pipe) has none stated: its PCNT is the die's front-end count as it
stands (DESIGN CHOICE, log entry 133). -/
def emitRec (d : Data) (die lcnt : Nat) (r : Rec) : Data :=
  let x := ioOf die
  mbxPut d x (recWords r lcnt (if die < 4 then (getIo d x).paired else (getIo d x).feCount))

/-- A TP's fault count and latest class after a record that concerns it (R28, R268). -/
def fltCount (flt : BitVec 16) (cls : Nat) : BitVec 16 :=
  BitVec.ofNat 16 (min 255 (fld flt.toNat 8 8 + 1) * 256 + cls % 256)

/-- Write a record of a unit of floe f that concerns the TP in slot k. -/
def emitTpRec (d : Data) (f k : Nat) (r : Rec) : Data :=
  let t := getTp d f k
  modTp (emitRec d (dieOf f) (getFloe d f).advc { r with wid := t.wid, slot := k, mid := f, unit := f }) f k
    (fun t => { t with flt := fltCount t.flt r.cls })

/-- DW0 of a record of a unit of floe f. -/
def headOf (f : Nat) (h : Word) : Bool := decide (wb h 19 5 ≤ 2) && wb h 24 8 == f

/-- Some unit of floe f holds a record the mailbox has not accepted (R23): the floe accepts no new configuration (R26). -/
def recHeldFor (d : Data) (f : Nat) : Bool :=
  (getIo d (ioOf (dieOf f))).heldRecs.any (fun ws => headOf f (ws.headD 0))

/-- A record of floe f is held, or the front end has not read it: a launch write to the floe waits (R26, log entry 160). -/
def recUnread (d : Data) (f : Nat) : Bool :=
  recHeldFor d f || (getIo d (ioOf (dieOf f))).unread.any (headOf f)

/-- The unit a record names by UTYPE, UNIT and ENTRY holds a record the mailbox has not accepted: it stays stalled (R23). -/
def unitHeld (d : Data) (utype unit entry : Nat) : Bool :=
  d.ios.any (fun io => io.heldRecs.any (fun ws =>
    let h := ws.getD 0 0
    wb h 19 5 == utype && wb h 24 8 == unit && wb h 49 5 == entry))

/-! ## Traps (R269) -/

/-- A TP in slot k of floe f traps: the TRAP record, then the slot drains as for EXIT and the TP will end TRAPPED (R269). wr:
the faulting access was a write (R268). -/
def trapWr (wr : Bool) (d : Data) (f k cls cause addr : Nat) (word : IWord) (code : Nat) : Data :=
  modSlot (emitTpRec d f k
      { recZero with wr := wr, cls := cls, cause := cause, addr := addr, d0 := w64 word.toNat, d1 := w64 code })
    f k (fun s => { s with st := .exiting, trapped := true, block := .drain })

/-- A trap that no write access raises. -/
def trapAt (d : Data) (f k cls cause addr : Nat) (word : IWord) (code : Nat) : Data :=
  trapWr false d f k cls cause addr word code

/-- The issuing TP traps at its instruction (R269): pc is unchanged and the record's ADDR is the pc. -/
def trap (d : Data) (cls cause : Nat) : Data :=
  trapAt d d.curF d.curK cls cause (curTp d).pc.toNat d.curW 0

/-- ILLEGAL (R306). -/
def trapIllegal (d : Data) (cause : Nat) : Data := trap d 1 cause

/-- PRIV (R306). -/
def trapPriv (d : Data) (cause : Nat) : Data := trap d 2 cause

/-! ## The end of an instruction (R338, R389, R390) -/

/-- The loop stack after the word at x has been handled: what remains, and where pc goes if a level counts. -/
def loopEnd (x : Nat) : List LoopLevel → List LoopLevel × Option (BitVec 52)
  | [] => ([], none)
  | l :: ls =>
    if l.last = x then
      if 1 < l.remaining then ({ l with remaining := l.remaining - 1 } :: ls, some l.start) else loopEnd x ls
    else (l :: ls, none)

/-- The TP after the word at x was handled, with pc going to nx unless a loop level sends it back (R390). -/
def handled (t : Tp) (x : Nat) (nx : BitVec 52) : Tp :=
  { t with loops := (loopEnd x t.loops).1, pc := ((loopEnd x t.loops).2).getD nx }

/-- The issuing TP goes on after its instruction. -/
def retire (d : Data) : Data :=
  modCur d (fun t => handled t t.pc.toNat (t.pc + 4))

/-- The instruction of slot k of floe f completes: the TP goes on and is no longer blocked. -/
def retireAt (d : Data) (f k : Nat) : Data :=
  modSlot d f k (fun s => { s with block := .none, tp := handled s.tp s.tp.pc.toNat (s.tp.pc + 4) })

/-- An address lies in the body of a loop level. -/
def inBody (l : LoopLevel) (a : Nat) : Bool := decide (l.start.toNat ≤ a) && decide (a ≤ l.last)

/-- The loop stack after a taken branch to a (R338). -/
def loopBranch (a : Nat) : List LoopLevel → List LoopLevel
  | [] => []
  | l :: ls => if inBody l a then l :: ls else loopBranch a ls

/-- The issuing TP branches. -/
def branchTo (d : Data) (a : BitVec 52) : Data :=
  modCur d (fun t => { t with loops := loopBranch a.toNat t.loops, pc := a })

/-- The issuing TP waits at its instruction. -/
def blockCur (d : Data) (b : Block) : Data := modCurSlot d (fun s => { s with block := b })

/-! ## Guard and register stalls (R305, R307, R177, R348) -/

/-- The guard holds (R304). -/
def enabled (t : Tp) (g : Guard) : Bool := pget t g.p != g.neg

/-- A pending result will be written to s[r]. -/
def pendReg (t : Tp) (r : BitVec 5) : Bool :=
  t.pends.any (fun p => p.d == r && (match p.kind with
    | .sts => false
    | .vrcl _ => false
    | _ => true))

/-- A scalar register among regs holds data found uncorrectable (R282). -/
def badReg (t : Tp) (regs : List (BitVec 5)) : Bool := regs.any (fun r => r != 0 && t.badRegs.contains r)

/-- One of the other registers of a TP that an instruction uses holds data found uncorrectable (R282). -/
def badSpec (t : Tp) (l : List SpecReg) : Bool := l.any (fun r => t.badSpecs.contains r)

/-- The predicates, where one but p0 is used. -/
def predRegs (l : List (BitVec 3)) : List SpecReg := if l.any (fun p => p != 0) then [.preds] else []

/-- An instruction of the issuing TP that reads or writes the registers regs: a disabled one ends with no effect, one
that needs a pending register waits at issue, one that needs an uncorrectable register, its guard's predicate among them, traps with
ECCU 0x08 (R282; a write of part of a granule reads the rest of it, log entry 144), and any other takes its effect (R305, R177). -/
def issue (d : Data) (g : Guard) (regs : List (BitVec 5)) (effect : Data → Data) : Data :=
  if badSpec (curTp d) (predRegs [g.p]) then trap d 0x0C 8
  else if enabled (curTp d) g then
    if regs.any (fun r => r != 0 && pendReg (curTp d) r) then blockCur d (.stall (.regs regs))
    else if badReg (curTp d) regs then trap d 0x0C 8
    else effect d
  else retire d

/-- An instruction that uses other registers of its TP too: it traps where one is uncorrectable (R282). -/
def issueS (d : Data) (g : Guard) (regs : List (BitVec 5)) (specs : List SpecReg) (effect : Data → Data) : Data :=
  issue d g regs (fun d => if badSpec (curTp d) specs then trap d 0x0C 8 else effect d)

/-- An instruction that writes a scalar result in its cycle of issue (R330). -/
def issueWrite (d : Data) (g : Guard) (regs : List (BitVec 5)) (r : BitVec 5) (v : Data → Word) : Data :=
  issue d g (r :: regs) (fun d => retire (modCur d (fun t => sput t r (v d))))

/-- An instruction that writes a predicate in its cycle of issue, and reads the predicates ps. -/
def issuePred (d : Data) (g : Guard) (regs : List (BitVec 5)) (ps : List (BitVec 3)) (r : BitVec 3) (v : Data → Bool) : Data :=
  issueS d g regs (predRegs (r :: ps)) (fun d => retire (modCur d (fun t => pput t r (v d))))

/-- A step of the data plane or the front end: the management plane keeps its state (R22). -/
def nextD (s : State) (h : Data → Data) : Host.Outcome State Fault Refusal := .next { s with d := h s.d }

/-- A step that starts other agents' turns: they move next. -/
def nextDA (s : State) (h : Data → Data) (ts : List Turn) : Host.Outcome State Fault Refusal :=
  .next { s with d := h s.d, agenda := s.agenda ++ ts }

/-- A step of the management plane that changes its own state too. -/
def nextDM (s : State) (h : Data → Data) (m : Mgmt → Mgmt) : Host.Outcome State Fault Refusal :=
  .next { s with d := h s.d, mg := m s.mg }

/-- A host write to a BAR0 window that is closed until BOOTSTS shows STARTED (R284). -/
def hostWrite (s : State) (h : Data → Data) : Host.Outcome State Fault Refusal :=
  nextD s (fun d => if s.mg.boot = .started then h d else d)

/-- A list sorted by an order, equal elements in their order. -/
def insBy {β : Type} (le : β → β → Bool) (x : β) : List β → List β
  | [] => [x]
  | y :: ys => if le x y then x :: y :: ys else y :: insBy le x ys

/-- See insBy. -/
def sortBy {β : Type} (le : β → β → Bool) (l : List β) : List β := l.foldr (insBy le) []

end Sys2Proof.Machine
end

