-- ==== Sys2Proof/Machine/Translate.lean ====
section
/-!
DEFINITION. Translation (R261-R264) and the one way any unit reaches memory: from a space and an address to a machine
address, or the fault the access raises (R171, R172, R287, R288, R293).
-/

namespace Sys2Proof.Machine

/-- Size in bytes of a physical target (R263). -/
def tgtSize (tgt : Nat) : Nat :=
  match tgt with
  | 0 => Config.hbmSize
  | 1 => Config.lpdSize
  | _ => 2 ^ 52

/-- Size in bytes of a table of a level (R261, R263). -/
def tableSize (lvl : Nat) : Nat :=
  match lvl with
  | 0 => 256
  | 3 => 65536
  | _ => 4096

/-- Lo of R318: the lowest index bit of a level. -/
def lvlLo (lvl : Nat) : Nat :=
  match lvl with
  | 0 => 16
  | 1 => 21
  | 2 => 30
  | _ => 39

/-- Hi of R318. -/
def lvlHi (lvl : Nat) : Nat :=
  match lvl with
  | 0 => 20
  | 1 => 29
  | 2 => 38
  | _ => 51

/-- The index of va in a table of a level. -/
def lvlIndex (lvl va : Nat) : Nat := fld va (lvlLo lvl) (lvlHi lvl + 1 - lvlLo lvl)

/-- PA of a page table entry. -/
def pteAddr (e : Word) : Nat := wb e 8 44 * 256
/-- TGT of a page table entry. -/
def pteTgt (e : Word) : Nat := wb e 5 2

/-- A leaf's permissions cover a need (R263). -/
def permits (r w x : Bool) : Need → Bool
  | .read => r
  | .write => w
  | .readWrite => r && w
  | .fetch => x

/-- The XPERM cause of a need (R267). -/
def permCause : Need → Nat
  | .read => 1
  | .write => 2
  | .readWrite => 3
  | .fetch => 4

/-- The right of R293 a need asks at a target. -/
def needRight : Need → Nat
  | .read => 1
  | .fetch => 1
  | .write => 2
  | .readWrite => 3

/-- The result of a walk: a leaf (R263), or class and cause of the fault. -/
abbrev WalkResult := Except (Nat × Nat) TlbEnt

/-- The checks of one entry e of a level, and the leaf it maps (R263). -/
def walkLeaf (lvl va : Nat) (need : Need) (e : Word) : WalkResult :=
  if pteAddr e % 2 ^ lvlLo lvl ≠ 0 ∨ tgtSize (pteTgt e) < pteAddr e + 2 ^ lvlLo lvl then .error (5, 4)
  else if permits (e.getLsbD 2) (e.getLsbD 3) (e.getLsbD 4) need then
    .ok { va := va / 2 ^ lvlLo lvl * 2 ^ lvlLo lvl, size := 2 ^ lvlLo lvl, pa := pteAddr e, tgt := pteTgt e,
          r := e.getLsbD 2, w := e.getLsbD 3, x := e.getLsbD 4 }
  else .error (6, permCause need)

/-- One level of a walk and the levels below it. c is the die whose page walker reads. Walk reads are reads of physical
memory under the walker's MID (R291); uncorrectable table data is an ECCU stop (R282). -/
def walkFrom (d : Data) (c va : Nat) (need : Need) : Nat → Nat → Nat → WalkResult
  | 0, tgt, pa => walkStep d c va need 0 tgt pa (fun _ => .error (5, 3))
  | lvl + 1, tgt, pa =>
    walkStep d c va need (lvl + 1) tgt pa (fun e =>
      if pteAddr e % tableSize lvl ≠ 0 ∨ tgtSize (pteTgt e) < pteAddr e + tableSize lvl then .error (5, 4)
      else walkFrom d c va need lvl (pteTgt e) (pteAddr e))
where
  /-- Read and check the entry of one level; down continues with the next table. -/
  walkStep (d : Data) (c va : Nat) (need : Need) (lvl tgt pa : Nat) (down : Word → WalkResult) : WalkResult :=
    let loc := locPhys tgt (pa + 8 * lvlIndex lvl va)
    match physFault d (0xF0 + c) 1 loc 8 with
    | some fc => .error fc
    | none =>
      if poisoned d loc 8 then .error (0x0C, eccuCause loc)
      else
        let e := w64 (memRead d loc 8)
        if e.getLsbD 0 = false then .error (5, 1)
        else if wb e 52 12 ≠ 0 ∨ e.getLsbD 7 = true ∨ pteTgt e = 3 then .error (5, 2)
        else if (lvl = 3 ∧ e.getLsbD 1 = true) ∨ (lvl = 0 ∧ e.getLsbD 1 = false) then .error (5, 3)
        else if e.getLsbD 1 then walkLeaf lvl va need e
        else if wb e 2 3 ≠ 0 then .error (5, 2)
        else down e

/-- A page walk by die c from PTROOT (R263). -/
def pageWalk (d : Data) (c va : Nat) (need : Need) : WalkResult :=
  let root := d.ptroot
  if root.getLsbD 0 = false ∨ pteTgt root = 3 ∨ tgtSize (pteTgt root) < wb root 16 36 * 65536 + tableSize 3 then
    .error (5, 5)
  else walkFrom d c va need 3 (pteTgt root) (wb root 16 36 * 65536)

/-- The entry of a TLB that maps va. -/
def tlbFind (l : List TlbEnt) (va : Nat) : Option TlbEnt :=
  l.find? (fun e => decide (e.va ≤ va) && decide (va < e.va + e.size))

/-- A TLB of n entries after e enters it; the oldest entry leaves a full one (log entry 12). -/
def tlbFill (n : Nat) (l : List TlbEnt) (e : TlbEnt) : List TlbEnt :=
  if l.contains e then l else if l.length < n then l ++ [e] else l.drop 1 ++ [e]

/-- Drop the entries that map va from every TLB (R264). -/
def tlbDropVa (d : Data) (va : Nat) : Data :=
  let keep : List TlbEnt → List TlbEnt := fun l => l.filter (fun e => ! (decide (e.va ≤ va) && decide (va < e.va + e.size)))
  { d with floes := d.floes.map (fun fl => { fl with utlb := keep fl.utlb }),
           dies := d.dies.map (fun c => { c with stlb := keep c.stlb }) }

/-- Who asks: its MID, the floe whose µTLB it uses, and the die whose shared TLB it uses (R264). -/
structure Req where
  mid : Nat
  floe : Option Nat
  die : Nat
  deriving DecidableEq, Repr

/-- A TP or stream of floe f. -/
def reqFloe (f : Nat) : Req := { mid := f, floe := some f, die := dieOf f }

/-- The outcome of an access: class and cause of its fault, or a value. -/
abbrev Acc (α : Type) := Except (Nat × Nat) α

/-- Translate va for a requester: a µTLB hit, a shared TLB hit, or a walk that fills both (R264). An entry that fails the
permission check is dropped everywhere and the access faults. -/
def translate (d : Data) (q : Req) (va : Nat) (need : Need) : Data × Acc Nat :=
  let utlb := match q.floe with
    | some f => (getFloe d f).utlb
    | none => []
  let fillU : Data → TlbEnt → Data := fun d e =>
    match q.floe with
    | some f => modFloe d f (fun fl => { fl with utlb := tlbFill 64 fl.utlb e })
    | none => d
  let use : Data → TlbEnt → Data × Acc Nat := fun d e =>
    if permits e.r e.w e.x need then (d, .ok (locPhys e.tgt (e.pa + (va - e.va))))
    else (tlbDropVa d va, .error (6, permCause need))
  match tlbFind utlb va with
  | some e => use d e
  | none =>
    match tlbFind (getDie d q.die).stlb va with
    | some e => use (fillU d e) e
    | none =>
      match pageWalk d q.die va need with
      | .ok e =>
        (fillU (modDie d q.die (fun c => { c with stlb := tlbFill 4096 c.stlb e })) e,
          .ok (locPhys e.tgt (e.pa + (va - e.va))))
      | .error fc => (d, .error fc)

/-- An L2 address has the form of R172 on another module, whose versioned windows this module does not know. -/
def peerL2Ok (a n : Nat) : Bool := decide (a < 2 ^ 29) && decide (a % 2 ^ 27 + n ≤ Config.l2Size)

/-- Where the place of an access lies: space code, and PSP and PMOD for PEER (R52). -/
structure Place where
  space : Nat
  psp : Nat
  pmod : Nat
  deriving DecidableEq, Repr

/-- An address of the form of R225: the space in [55:52]. -/
def placeOf (w : Word) : Place × Nat := ({ space := wb w 52 4, psp := 0, pmod := 0 }, wb w 0 52)

/-- The mask of stations that reach module m (R287). -/
def routeMask (d : Data) (m : Nat) : Nat := spGet 0 d.routes m

/-- The stations of a mask, lowest first. -/
def maskStations (mask : Nat) : List Nat := (List.range 12).filter (fun s => mask.testBit s)

/-- The station a request for a granule leaves by (R288). -/
def stationFor (d : Data) (m a : Nat) : Option Nat :=
  match maskStations (routeMask d m) with
  | [] => none
  | [s] => some s
  | l => l[Config.stationHash (a / 256) % l.length]?

/-- A station serves requests: its die runs, is not held, and its link is up. -/
def stationUp (d : Data) (s : Nat) : Bool :=
  ! (getIo d (s / 6)).inReset && ! (getIo d (s / 6)).held && (getIo d (s / 6)).links.getD (s % 6) false

/-- Local memory of a space: machine address after translation where the space has one. -/
def reachLocal (d : Data) (q : Req) (space a n : Nat) (need : Need) : Data × Acc Nat :=
  let finish : Data → Nat → Data × Acc Nat := fun d loc =>
    match physFault d q.mid (needRight need) loc n with
    | some fc => (d, .error fc)
    | none => (d, .ok loc)
  match space with
  | 1 => if l2Ok d a n then finish d (locL2 a) else (d, .error (3, 2))
  | _ =>
    match translate d q a need with
    | (d, .ok loc) => finish d loc
    | (d, .error fc) => (d, .error fc)

/-- What module m answers a request for the n bytes at address a of its space psp: a fault of its translation (XLATE 0x06,
R264), the refusal of a right at its target (R288, R293), or none. The answers are that module's: peerNo holds them by 4 KiB
unit, as the pod stands (log entry 135). -/
def peerRefusal (d : Data) (psp m a n : Nat) (need : Need) : Option (Nat × Nat) :=
  let us := (keysFrom (a / 4096) ((a + n - 1) / 4096 - a / 4096 + 1)).map (fun u => spGet 0 d.peerNo ((8 * m + psp) * 2 ^ 40 + u))
  if us.any (fun x => x.testBit 0) then some (5, 6)
  else if us.any (fun x => x.testBit (needRight need)) then some (7, needRight need)
  else none

/-- A request to module m of the pod (R288, R289): it leaves by a station and is served there (log entry 11). -/
def reachPeer (d : Data) (q : Req) (psp m a n : Nat) (need : Need) : Data × Acc Nat :=
  match stationFor d m a with
  | none => (d, .error (0x10, 0x50))
  | some s =>
    if ! stationUp d s then (d, .error (0x10, 0x51))
    else if ! aclOk d (48 + s) q.mid (needRight need) (m * 4096) 1 then (d, .error (7, needRight need))
    else if psp = 1 ∧ ! peerL2Ok a n then (d, .error (3, 2))
    else match peerRefusal d psp m a n need with
      | some fc => (d, .error fc)
      | none => (d, .ok (locPeer m psp a))

/-- Reach n bytes at address a of a place, for a need (R171, R172). FLOE space is the requester's own floe's. -/
def reach (d : Data) (q : Req) (p : Place) (a n : Nat) (need : Need) : Data × Acc Nat :=
  match p.space with
  | 0 =>
    match q.floe with
    | some f => if a + n ≤ 2 ^ 22 then (d, .ok (locFloe f a)) else (d, .error (4, 0x14))
    | none => (d, .error (3, 1))
  | 6 =>
    if p.pmod = d.modid.toNat then reachLocal d q p.psp a n need
    else reachPeer d q p.psp p.pmod a n need
  | s => if s = 1 ∨ s = 3 ∨ s = 4 ∨ s = 5 then reachLocal d q s a n need else (d, .error (3, 1))

/-- Read n bytes as a number, with poison as an ECCU fault (R282). -/
def readAt (d : Data) (q : Req) (p : Place) (a n : Nat) : Data × Acc Nat :=
  match reach d q p a n .read with
  | (d, .ok loc) => if poisoned d loc n then (d, .error (0x0C, eccuCause loc)) else (d, .ok (memRead d loc n))
  | (d, .error fc) => (d, .error fc)

/-- Read n doublewords one after another; the first fault ends the read. -/
def readWordsAt (d : Data) (q : Req) (p : Place) (a : Nat) : Nat → Data × Acc (List Word)
  | 0 => (d, .ok [])
  | n + 1 =>
    match readAt d q p a 8 with
    | (d, .error fc) => (d, .error fc)
    | (d, .ok x) =>
      match readWordsAt d q p (a + 8) n with
      | (d, .ok ws) => (d, .ok (w64 x :: ws))
      | (d, .error fc) => (d, .error fc)

/-- Write n bytes. -/
def writeAt (d : Data) (q : Req) (p : Place) (a n x : Nat) (psn : Bool) : Data × Acc Unit :=
  match reach d q p a n .write with
  | (d, .ok loc) => (memWrite d loc n x psn, .ok ())
  | (d, .error fc) => (d, .error fc)

/-- Write doublewords one after another; the first fault ends the write. -/
def writeWordsAt (d : Data) (q : Req) (p : Place) (a : Nat) : List Word → Data × Acc Unit
  | [] => (d, .ok ())
  | w :: ws =>
    match writeAt d q p a 8 w.toNat false with
    | (d, .ok _) => writeWordsAt d q p (a + 8) ws
    | (d, .error fc) => (d, .error fc)

/-- The SPACE fault an access form raises at issue: an L2 or PEER address outside its form, or a PEER module that is
absent (R171, R172, R288). lo and hi are the lowest and highest byte touched. All four compute dies are present (R11), so
every die number names one. -/
def spaceForm (d : Data) (p : Place) (lo hi : Nat) : Option (Nat × Nat) :=
  let l2 : Option (Nat × Nat) := if lo / 2 ^ 27 = hi / 2 ^ 27 ∧ l2Ok d lo (hi - lo + 1) then none else some (3, 2)
  match p.space with
  | 1 => l2
  | 6 =>
    if p.pmod = d.modid.toNat then (if p.psp = 1 then l2 else none)
    else if 1023 < p.pmod ∨ routeMask d p.pmod = 0 then some (3, 4)
    else if p.psp = 1 ∧ ¬ (lo / 2 ^ 27 = hi / 2 ^ 27 ∧ peerL2Ok lo (hi - lo + 1) = true) then some (3, 2)
    else none
  | _ => none

/-- The same for bytes an element address gives, which can be negative: no negative address has the form of an L2 address
(R172, log entry 134). -/
def spaceFormI (d : Data) (p : Place) (lo hi : Int) : Option (Nat × Nat) :=
  if lo < 0 then (if p.space = 1 ∨ (p.space = 6 ∧ p.psp = 1) then some (3, 2) else none)
  else spaceForm d p lo.toNat hi.toNat

end Sys2Proof.Machine
end

