-- ==== Sys2Proof/Machine/Operands.lean ====
section
/-!
DEFINITION. Operand forms: layout entries and their checks, shape registers, tile windows, element addresses and the
checks a command on a tile makes at issue (R52-R66, R172).
-/

namespace Sys2Proof.Machine

/-! ## Element formats (R53) -/

/-- Storage width in bits of a format code; 0 for a reserved one. -/
def fmtBits (f : Nat) : Nat :=
  match f with
  | 0 => 32
  | 1 => 16
  | 2 => 16
  | 3 => 8
  | 4 => 8
  | 5 => 6
  | 6 => 6
  | 7 => 4
  | 8 => 8
  | 9 => 4
  | 10 => 32
  | 11 => 8
  | _ => 0

/-- An FP6 format, stored in two planes. -/
def isFp6 (f : Nat) : Bool := f == 5 || f == 6

/-- Codebook FP4 and INT4: two elements to a byte. -/
def isNibble (f : Nat) : Bool := f == 7 || f == 9

/-- The field width of an element in a 128-bit field word: as stored, FP6 in 8 bits (R158). -/
def fieldBits (f : Nat) : Nat := if isFp6 f then 8 else fmtBits f

/-- Elements of a format in a field word (R158). -/
def fieldElems (f : Nat) : Nat := 128 / max 1 (fieldBits f)

/-! ## The layout entry (R52) -/

/-- Doubleword i of a layout entry. -/
def lteW (e : List Word) (i : Nat) : Word := e.getD i 0

/-- SPACE. -/
def lteSpace (e : List Word) : Nat := wb (lteW e 0) 0 4
/-- FMT. -/
def lteFmt (e : List Word) : Nat := wb (lteW e 0) 4 4
/-- RANKM1 + 1. -/
def lteRank (e : List Word) : Nat := wb (lteW e 0) 8 3 + 1
/-- PMOD. -/
def ltePmod (e : List Word) : Nat := wb (lteW e 0) 32 16
/-- PSP. -/
def ltePsp (e : List Word) : Nat := wb (lteW e 0) 48 4
/-- BASE. -/
def lteBase (e : List Word) : Nat := wb (lteW e 1) 0 52
/-- EXTd. -/
def lteExt (e : List Word) (d : Nat) : Nat := wb (lteW e (2 + d / 2)) (32 * (d % 2)) 32
/-- STRd, two's complement. -/
def lteStr (e : List Word) (d : Nat) : Int := (lteW e (6 + d)).toInt
/-- SH. -/
def lteSh (e : List Word) : Nat := wb (lteW e 13) 8 6
/-- XM. -/
def lteXm (e : List Word) : Nat := wb (lteW e 13) 0 4
/-- KIND. -/
def lteKind (e : List Word) : Nat := wb (lteW e 14) 56 2
/-- SDIM. -/
def lteSdim (e : List Word) : Nat := wb (lteW e 14) 52 3
/-- SCP. -/
def lteScp (e : List Word) : Nat := wb (lteW e 14) 0 52
/-- PLANE. -/
def ltePlane (e : List Word) : Nat := wb (lteW e 15) 0 52

/-- The place of an entry's space. -/
def ltePlace (e : List Word) : Place := { space := lteSpace e, psp := ltePsp e, pmod := ltePmod e }

/-- A reserved field is non-zero, or SPACE, FMT, KIND or RANKM1 holds a reserved value (cause 0x01). -/
def lteBad1 (e : List Word) : Bool :=
  wb (lteW e 0) 52 12 != 0 || wb (lteW e 0) 11 21 != 0 || wb (lteW e 1) 52 12 != 0 || wb (lteW e 5) 32 32 != 0 ||
  wb (lteW e 13) 14 50 != 0 || wb (lteW e 13) 4 4 != 0 || wb (lteW e 14) 58 6 != 0 || wb (lteW e 14) 55 1 != 0 ||
  wb (lteW e 15) 52 12 != 0 || decide (7 ≤ lteSpace e) || decide (12 ≤ lteFmt e) || lteKind e == 3 || lteRank e == 8

/-- A dimension's extent and stride are as its place below or above the rank demands (cause 0x02). -/
def lteDimOk (e : List Word) (d : Nat) : Bool :=
  (if d < lteRank e then lteExt e d != 0 else lteExt e d == 0 && lteStr e d == 0) &&
  decide (-(2 : Int) ^ 51 ≤ lteStr e d) && decide (lteStr e d ≤ 2 ^ 51 - 1)

/-- Cause 0x02. -/
def lteBad2 (e : List Word) : Bool := ! (List.range 7).all (lteDimOk e)

/-- BASE and strides suit the format, PLANE is as it must be (cause 0x03). -/
def lteBad3 (e : List Word) : Bool :=
  let f := lteFmt e
  if isFp6 f then
    lteStr e 0 != 0 || lteBase e % 64 != 0 || ! (isPow2 (ltePlane e) && decide (64 ≤ ltePlane e)) ||
      (List.range 6).any (fun d => lteStr e (d + 1) % 2 != 0)
  else if isNibble f then lteStr e 0 != 0 || ltePlane e != 0
  else
    ltePlane e != 0 || lteBase e % (fmtBits f / 8) != 0 ||
      (List.range 7).any (fun d => lteStr e d % ((fmtBits f / 8 : Nat) : Int) != 0)

/-- Cause 0x04. -/
def lteBad4 (e : List Word) : Bool :=
  if lteSpace e = 0 then decide (lteSh e < 8) || decide (18 < lteSh e) || decide (2 ^ 22 ≤ lteBase e)
  else lteW e 13 != 0

/-- Cause 0x05. -/
def lteBad5 (e : List Word) : Bool :=
  if lteSpace e = 6 then ! (ltePsp e == 1 || ltePsp e == 3 || ltePsp e == 4) else ltePsp e != 0 || ltePmod e != 0

/-- Cause 0x06. -/
def lteBad6 (e : List Word) : Bool :=
  let f := lteFmt e
  match lteKind e with
  | 0 => f == 7
  | 1 => f != 7
  | _ => ! (f == 3 || f == 4 || isFp6 f) || decide (lteRank e ≤ lteSdim e)

/-- The check of a layout entry on its way into the cache (R54): 0, or the TILE cause. Where an entry fails several checks,
R54 gives them no order: the lowest cause is the one reported (DESIGN CHOICE, log entry 136). -/
def lteCheck (e : List Word) : Nat :=
  if lteBad1 e then 1 else if lteBad2 e then 2 else if lteBad3 e then 3 else if lteBad4 e then 4
  else if lteBad5 e then 5 else if lteBad6 e then 6 else 0

/-! ## Element addresses (R55, R56) -/

/-- The offset of the coordinates above dimension 0. -/
def offFrom (e : List Word) : Nat → List Int → Int
  | _, [] => 0
  | d, x :: xs => x * lteStr e d + offFrom e (d + 1) xs

/-- The parts of an element: byte address, first bit, number of bits, and where the bits lie in the element (R55). -/
def elemParts (e : List Word) (x : List Int) : List (Int × Nat × Nat × Nat) :=
  let x0 := x.headD 0
  let off := offFrom e 1 (x.drop 1)
  let f := lteFmt e
  let base : Int := lteBase e
  if isFp6 f then
    [(base + off + x0 / 2, 4 * (x0 % 2).toNat, 4, 2),
     (base + (ltePlane e : Int) + off / 2 + x0 / 4, 2 * (x0 % 4).toNat, 2, 0)]
  else if isNibble f then [(base + off + x0 / 2, 4 * (x0 % 2).toNat, 4, 0)]
  else [(base + off + x0 * lteStr e 0, 0, fmtBits f, 0)]

/-- The place of FLOE address a within its floe under SH and XM: cell, line, permuted bank and byte (R56). -/
def bankPerm (sh xm a : Nat) : Nat :=
  let c := a % 2 ^ 19
  a / 2 ^ 19 * 2 ^ 19 + fld c 8 11 * 256 + (fld c 4 4 ^^^ (c / 2 ^ sh % 16 &&& xm)) * 16 + c % 16

/-- The address an access of the entry's space presents for byte address a: permuted in FLOE, as it is elsewhere. -/
def spaceAddr (e : List Word) (a : Nat) : Nat := if lteSpace e = 0 then bankPerm (lteSh e) (lteXm e) a else a

/-- The coordinates are in range of the entry (R63). -/
def inRange (e : List Word) (x : List Int) : Bool :=
  (List.range (lteRank e)).all (fun d => decide (0 ≤ x.getD d 0) && decide (x.getD d 0 < (lteExt e d : Int)))

/-- The lowest and highest value of a coordinate times a stride over lo to hi. -/
def spanMul (lo hi s : Int) : Int × Int := (min (lo * s) (hi * s), max (lo * s) (hi * s))

/-- The lowest and highest offset of dimensions d, d+1, … over a box. -/
def spanFrom (e : List Word) : Nat → List (Int × Int) → Int × Int
  | _, [] => (0, 0)
  | d, (lo, hi) :: b =>
    let s := spanMul lo hi (lteStr e d)
    let r := spanFrom e (d + 1) b
    (s.1 + r.1, s.2 + r.2)

/-- The byte ranges, one per plane, that a box of coordinates touches (R74). -/
def boxRanges (e : List Word) (box : List (Int × Int)) : List (Int × Int) :=
  let b0 := box.headD (0, 0)
  let r := spanFrom e 1 (box.drop 1)
  let f := lteFmt e
  let base : Int := lteBase e
  if isFp6 f then
    let b2 := base + (ltePlane e : Int)
    [(base + r.1 + b0.1 / 2, base + r.2 + b0.2 / 2), (b2 + r.1 / 2 + b0.1 / 4, b2 + r.2 / 2 + b0.2 / 4)]
  else if isNibble f then [(base + r.1 + b0.1 / 2, base + r.2 + b0.2 / 2)]
  else
    let s := spanMul b0.1 b0.2 (lteStr e 0)
    [(base + r.1 + s.1, base + r.2 + s.2 + ((fmtBits f / 8 - 1 : Nat) : Int))]

/-- The whole view's box. -/
def viewBox (e : List Word) : List (Int × Int) :=
  (List.range (lteRank e)).map (fun d => (0, (lteExt e d : Int) - 1))

/-- Lowest and highest byte of the ranges. -/
def rangesSpan (l : List (Int × Int)) : Int × Int :=
  l.foldl (fun a r => (min a.1 r.1, max a.2 r.2)) (l.headD (0, 0))

/-- Lowest and highest byte the whole view can touch (R74). -/
def viewSpan (e : List Word) : Int × Int := rangesSpan (boxRanges e (viewBox e))

/-! ## Shape registers, bindings and windows (R60-R65) -/

/-- Rows of a shape register. -/
def shRows (s : Word) : Nat := wb s 0 10 + 1
/-- Columns. -/
def shCols (s : Word) : Nat := wb s 10 10 + 1
/-- Declared format. -/
def shFmt (s : Word) : Nat := wb s 20 4
/-- Ragged policy: 0 MASK, 1 ZERO, 2 FAULT. -/
def shPol (s : Word) : Nat := wb s 24 2

/-- A value TSHP refuses (R60). -/
def shapeBad (s : Word) : Bool := wb s 26 38 != 0 || shPol s == 3

/-- Origin coordinate of a view's window. -/
def vOrg (v : View) (d : Nat) : Int := (v.bind.origin.getD d 0).toInt

/-- Rank of a view. -/
def vRank (v : View) : Nat := lteRank v.lte

/-- Coordinates of window element (i, j) (R62). -/
def winCoords (v : View) (i j : Nat) : List Int :=
  (List.range (vRank v)).map (fun d =>
    vOrg v d + (if 2 ≤ vRank v ∧ d = v.bind.rdim.toNat then (i : Int) else 0)
      + (if d = v.bind.cdim.toNat then (j : Int) else 0))

/-- The values of dimension d that lie in the window and in range, lowest and highest (empty when lo > hi). -/
def winSpan (v : View) (d : Nat) : Int × Int :=
  let lo := vOrg v d
  let n : Int :=
    if 2 ≤ vRank v ∧ d = v.bind.rdim.toNat then (shRows v.shape : Int) - 1
    else if d = v.bind.cdim.toNat then (shCols v.shape : Int) - 1 else 0
  (max 0 lo, min ((lteExt v.lte d : Int) - 1) (lo + n))

/-- The box of in-range elements of a window, none when it is empty. -/
def winBox (v : View) : Option (List (Int × Int)) :=
  let b := (List.range (vRank v)).map (winSpan v)
  if b.all (fun r => decide (r.1 ≤ r.2)) then some b else none

/-- Numbers of rows and columns in range (R64). -/
def winCounts (v : View) : Nat × Nat :=
  match winBox v with
  | none => (0, 0)
  | some b =>
    let n : Nat → Nat := fun d => ((b.getD d (0, -1)).2 - (b.getD d (0, -1)).1 + 1).toNat
    (if 2 ≤ vRank v then n v.bind.rdim.toNat else shRows v.shape, n v.bind.cdim.toNat)

/-- The window is ragged (R63). -/
def winRagged (v : View) : Bool := winCounts v != (shRows v.shape, shCols v.shape)

/-- TILE 0x12: a dimension of the binding is not below the rank (R54). -/
def bad12 (v : View) : Bool :=
  decide (vRank v ≤ v.bind.cdim.toNat) || (decide (2 ≤ vRank v) && decide (vRank v ≤ v.bind.rdim.toNat)) ||
    (vRank v == 1 && decide (1 < shRows v.shape))

/-- TILE 0x11: the shape register's format differs (R54). -/
def bad11 (v : View) : Bool := shFmt v.shape != lteFmt v.lte

/-- TILE 0x14, then 0x15, of the in-range elements of a window (R54); 0 when neither. -/
def badExtent (v : View) : Nat :=
  match winBox v with
  | none => 0
  | some b =>
    let rs := boxRanges v.lte b
    if lteSpace v.lte = 0 ∧ rs.any (fun r => decide (r.1 / 2 ^ 19 ≠ ((lteBase v.lte / 2 ^ 19 : Nat) : Int)) ||
        decide (r.2 / 2 ^ 19 ≠ ((lteBase v.lte / 2 ^ 19 : Nat) : Int))) then 0x14
    else if rs.any (fun r => decide (r.1 < 0) || decide (2 ^ 52 ≤ r.2)) then 0x15
    else 0

/-- The SPACE fault of R172 and R288 for a window: the base, and the bytes of the in-range elements. -/
def badSpace (d : Data) (v : View) : Option (Nat × Nat) :=
  let p := ltePlace v.lte
  match spaceForm d p (lteBase v.lte) (lteBase v.lte) with
  | some fc => some fc
  | none =>
    match winBox v with
    | none => none
    | some b =>
      let r := rangesSpan (boxRanges v.lte b)
      spaceFormI d p r.1 r.2

/-- The issue-time copies of tile n of a TP on a floe (R66): none when the tile is unbound or its cache entry holds no
valid entry (TILE 0x10). -/
def viewOf (fl : Floe) (t : Tp) (n : BitVec 4) : Option View :=
  match t.tiles.getD n.toNat none with
  | none => none
  | some b =>
    match fl.lcache.getD b.entry.toNat none with
    | none => none
    | some e => some { lte := e, shape := t.shapes.getD b.shape.toNat 0, bind := b }

/-- The registers a tile operand uses: the tile name and the shape register it names (R50). -/
def viewRegs (t : Tp) (n : BitVec 4) : List SpecReg :=
  .tile n :: (match t.tiles.getD n.toNat none with
    | some b => [.shape b.shape]
    | none => [])

/-- The view of tile n of the issuing TP. -/
def curView (d : Data) (n : BitVec 4) : Option View := viewOf (getFloe d d.curF) (curTp d) n

/-- The view names the FLOE space. -/
def vLocal (v : View) : Bool := lteSpace v.lte == 0

/-- An element of a place, as pieces at machine addresses: each part is reached for the need (R176). -/
def reachParts (d : Data) (q : Req) (e : List Word) (need : Need) : List (Int × Nat × Nat × Nat) → Data × Acc (List Piece)
  | [] => (d, .ok [])
  | (a, off, n, sh) :: ps =>
    match reach d q (ltePlace e) (spaceAddr e a.toNat) (ceilDiv (off + n) 8) need with
    | (d, .error fc) => (d, .error fc)
    | (d, .ok loc) =>
      match reachParts d q e need ps with
      | (d, .error fc) => (d, .error fc)
      | (d, .ok l) => (d, .ok ({ loc := loc, off := off, n := n, sh := sh } :: l))

/-- The element at coordinates x of an entry, reached for a need. -/
def reachElem (d : Data) (q : Req) (e : List Word) (x : List Int) (need : Need) : Data × Acc (List Piece) :=
  reachParts d q e need (elemParts e x)

/-- The byte address of an element's first part, negative where the strides lead below zero. -/
def elemInt (e : List Word) (x : List Int) : Int := ((elemParts e x).headD (0, 0, 0, 0)).1

/-- The address R268 records for an element: that of its first byte. -/
def elemAddr (e : List Word) (x : List Int) : Nat := (elemInt e x).toNat

/-- TQRY's summary (R64). -/
def winSummary (v : View) : Nat :=
  let c := winCounts v
  c.2 + c.1 * 2 ^ 16 + bnat (winRagged v) * 2 ^ 32 + bnat (winBox v).isNone * 2 ^ 33

end Sys2Proof.Machine
end

