-- ==== Sys2Proof/Machine/Num.lean ====
section
/-!
DEFINITION. Number formats, exact arithmetic, conversion, rounding and the special functions (R156-R170).
-/

namespace Sys2Proof.Machine

/-! ## Formats (R156, R157) -/

/-- A floating-point format code. -/
def isFloat (f : Nat) : Bool := decide (f < 7)

/-- An integer format code. -/
def isInt (f : Nat) : Bool := f == 8 || f == 9 || f == 10

/-- Significand bits p of a format, hidden bit included (R162). -/
def fpP (f : Nat) : Nat :=
  match f with
  | 0 => 24
  | 1 => 8
  | 2 => 11
  | 3 => 4
  | 4 => 3
  | 5 => 3
  | _ => 4

/-- Exponent bias (R156). -/
def fpBias (f : Nat) : Nat :=
  match f with
  | 0 => 127
  | 1 => 127
  | 2 => 15
  | 3 => 7
  | 4 => 15
  | 5 => 3
  | _ => 1

/-- The smallest normal exponent emin (R162). -/
def fpEmin (f : Nat) : Int := 1 - (fpBias f : Int)

/-- The magnitude bits of the largest finite value (R156). -/
def fpMaxMag (f : Nat) : Nat :=
  match f with
  | 0 => 0x7F7FFFFF
  | 1 => 0x7F7F
  | 2 => 0x7BFF
  | 3 => 0x7E
  | 4 => 0x7B
  | _ => 0x1F

/-- The format has infinities. -/
def fpHasInf (f : Nat) : Bool := f == 0 || f == 1 || f == 2 || f == 4

/-- The produced NaN (R160), +0 where the format has none (R161). -/
def fpNan (f : Nat) : Nat :=
  match f with
  | 0 => 0x7FC00000
  | 1 => 0x7FC0
  | 2 => 0x7E00
  | 3 => 0x7F
  | 4 => 0x7E
  | _ => 0

/-- The sign bit's weight. -/
def fpSignW (f : Nat) : Nat := 2 ^ (fmtBits f - 1)

/-- A floating-point value: NaN, an infinity, or (-1)^neg × m × 2^e, zeros with their sign. -/
inductive Fp where
  | nan
  | inf (neg : Bool)
  | fin (neg : Bool) (m : Nat) (e : Int)
  deriving DecidableEq, Repr

/-- The value of an element's bits (R156). -/
def fpDecode (f x : Nat) : Fp :=
  let w := fmtBits f
  let mb := fpP f - 1
  let s := x.testBit (w - 1)
  let ex := fld x mb (w - 1 - mb)
  let m := x % 2 ^ mb
  if fpHasInf f && ex == 2 ^ (w - 1 - mb) - 1 then (if m = 0 then .inf s else .nan)
  else if f = 3 ∧ x % 128 = 0x7F then .nan
  else if ex = 0 then .fin s m (fpEmin f - mb)
  else .fin s (2 ^ mb + m) ((ex : Int) - fpBias f - mb)

/-- The value of an E8M0 element (R157). -/
def e8m0Decode (x : Nat) : Fp := if x = 255 then .nan else .fin false 1 ((x : Int) - 127)

/-! ## Rounding (R161-R165) -/

/-- How a result is rounded: format, RND, SAT, FTZ and the 24-bit H of R165. -/
structure Rnd where
  fmt : Nat
  mode : Nat
  sat : Bool
  ftz : Bool
  h : Nat
  deriving DecidableEq, Repr

/-- Round to nearest even in a format, subnormals kept (R83). -/
def rne (f : Nat) : Rnd := { fmt := f, mode := 0, sat := false, ftz := false, h := 0 }

/-- m / 2^k rounded to an integer under a mode: neg is the sign, sticky says that the exact value lies strictly between m
and m + 1 (R162). -/
def roundShift (mode h : Nat) (neg sticky : Bool) (m k : Nat) : Nat :=
  let q := m / 2 ^ k
  let r := m % 2 ^ k
  if r = 0 ∧ sticky = false then q
  else match mode with
    | 0 =>
      if 2 * r < 2 ^ k then q
      else if 2 * r = 2 ^ k ∧ sticky = false then q + q % 2
      else q + 1
    | 1 => q
    | 2 => if neg then q else q + 1
    | 3 => if neg then q + 1 else q
    | _ => q + (r * 2 ^ 24 + h * 2 ^ k) / 2 ^ (k + 24)

/-- A mode that rounds toward zero for the sign (R163). -/
def towardZero (mode : Nat) (neg : Bool) : Bool := mode == 1 || (mode == 3 && ! neg) || (mode == 2 && neg)

/-- An infinity in a format (R161, R163). -/
def fpInfBits (f : Nat) (sat neg : Bool) : Nat :=
  (if fpHasInf f then fpNan f / 2 ^ (fpP f - 1) * 2 ^ (fpP f - 1)
   else if f = 3 then (if sat then 0x7E else 0x7F) else fpMaxMag f) + bnat neg * fpSignW f

/-- The bits of an overflowing result (R163). -/
def fpOverflow (r : Rnd) (neg : Bool) : Nat :=
  if r.sat || towardZero r.mode neg then fpMaxMag r.fmt + bnat neg * fpSignW r.fmt
  else fpInfBits r.fmt false neg

/-- The magnitude bits of n × 2^(ex - p + 1), n at most 2^p, ex at least emin; monotonic in the value. -/
def fpMag (f n : Nat) (ex : Int) : Nat :=
  let mb := fpP f - 1
  if n < 2 ^ mb then n else ((ex - fpEmin f).toNat) * 2 ^ mb + n

/-- Round a magnitude m × 2^e, or one strictly between it and (m + 1) × 2^e when sticky (R162-R164). A magnitude far below
the smallest subnormal is taken as one at a fixed place below it. -/
def fpRound (r : Rnd) (neg sticky : Bool) (m : Nat) (e : Int) : Nat :=
  let p := fpP r.fmt
  let emin := fpEmin r.fmt
  let sgn := bnat neg * fpSignW r.fmt
  if m = 0 ∧ sticky = false then sgn
  else
    let tiny := m = 0 ∨ (Nat.log2 m : Int) + e < emin - p - 64
    let m' := if tiny then 1 else m
    let e' := if tiny then emin - p - 64 else e
    let st := if tiny then true else sticky
    if (Nat.log2 m' : Int) + e' > 4096 then fpOverflow r neg
    else
      let ex := max ((Nat.log2 m' : Int) + e') emin
      let k := ex - p + 1 - e'
      let n := if k ≤ 0 then m' * 2 ^ (-k).toNat else roundShift r.mode r.h neg st m' k.toNat
      let mag := fpMag r.fmt n ex
      if fpMaxMag r.fmt < mag then fpOverflow r neg
      else if r.ftz ∧ mag < 2 ^ (p - 1) then sgn
      else mag + sgn

/-- Round a value to the format (R161-R164). -/
def fpEncode (r : Rnd) : Fp → Nat
  | .nan => fpNan r.fmt
  | .inf neg => fpInfBits r.fmt r.sat neg
  | .fin neg m e => fpRound r neg false m e

/-- A finite value rounded to an integer: u is 1 (R167). -/
def intNear (mode h : Nat) (neg : Bool) (m : Nat) (e : Int) : Int :=
  let n : Nat :=
    if m = 0 then 0
    else if 0 ≤ e then m * 2 ^ e.toNat
    else if (Nat.log2 m : Int) + e < -64 then roundShift mode h neg true 1 64
    else roundShift mode h neg false m (-e).toNat
  if neg then -(n : Int) else n

/-- The nearest value of a w-bit integer format. -/
def intClamp (w : Nat) (v : Int) : Int := max (-(2 : Int) ^ (w - 1)) (min (2 ^ (w - 1) - 1) v)

/-- Round an exact value to an integer format (R161, R167): the ends of the range bound it. -/
def intRound (w : Nat) (mode h : Nat) : Fp → Int
  | .nan => 0
  | .inf neg => if neg then -(2 : Int) ^ (w - 1) else 2 ^ (w - 1) - 1
  | .fin neg m e => intClamp w (intNear mode h neg m e)

/-- Bits of an integer element. -/
def intBits (w : Nat) (v : Int) : Nat := (v % (2 : Int) ^ w).toNat

/-- The value of an integer as a floating-point value. -/
def intFp (v : Int) (e : Int) : Fp := .fin (decide (v < 0)) v.natAbs e

/-! ## Hash-stochastic rounding (R165) -/

/-- The 32-bit value h of R165, before H is taken from it. -/
def rshMix (seed ridx q : Nat) : Nat :=
  let h := (seed % 65536 * 65536 ||| q % 65536) ^^^ (ridx * 0x9E3779B9 % 2 ^ 32)
  let h := h ^^^ (h / 65536)
  let h := h * 0x85EBCA6B % 2 ^ 32
  let h := h ^^^ (h / 8192)
  let h := h * 0xC2B2AE35 % 2 ^ 32
  h ^^^ (h / 65536)

/-- H of R165. -/
def rshHash (seed ridx q : Nat) : Nat := rshMix seed ridx q / 256

/-- The rounding of a channel type entry for the element at position q of a record (R112, R162, R165). -/
def cttRnd (c ridx q : Nat) : Rnd :=
  let mode := fld c 25 3
  { fmt := fld c 28 4, mode := mode, sat := c.testBit 24, ftz := c.testBit 23,
    h := if mode = 4 then rshHash (fld c 0 16) ridx q else 0 }

/-- SCL of a channel type entry. -/
def cttScl (c : Nat) : Int := sextN 7 (fld c 16 7)

/-! ## Exact arithmetic (R159, R160) -/

/-- The opposite value. -/
def fpNeg : Fp → Fp
  | .nan => .nan
  | .inf s => .inf (! s)
  | .fin s m e => .fin (! s) m e

/-- A signed integer at a scale, as a value; an exact zero of a sum takes the sign given. -/
def fpSigned (v : Int) (e : Int) (zero : Bool) : Fp :=
  if v = 0 then .fin zero 0 e else .fin (decide (v < 0)) v.natAbs e

/-- The signed significand of a finite value brought to exponent e0. -/
def fpAt (neg : Bool) (m : Nat) (e e0 : Int) : Int :=
  let n : Int := m * 2 ^ (e - e0).toNat
  if neg then -n else n

/-- The exact sum; an exact zero takes the sign of IEEE 754 under the mode (R159). -/
def fpAdd (mode : Nat) : Fp → Fp → Fp
  | .nan, _ => .nan
  | _, .nan => .nan
  | .inf s, .inf t => if s = t then .inf s else .nan
  | .inf s, .fin _ _ _ => .inf s
  | .fin _ _ _, .inf t => .inf t
  | .fin s m e, .fin t n g =>
    if m = 0 ∧ n = 0 then .fin (if s = t then s else mode == 3) 0 (min e g)
    else if m = 0 then .fin t n g
    else if n = 0 then .fin s m e
    else
      let e0 := min e g
      fpSigned (fpAt s m e e0 + fpAt t n g e0) e0 (mode == 3)

/-- The exact product. -/
def fpMul : Fp → Fp → Fp
  | .nan, _ => .nan
  | _, .nan => .nan
  | .inf s, .inf t => .inf (s != t)
  | .inf s, .fin t m _ => if m = 0 then .nan else .inf (s != t)
  | .fin s m _, .inf t => if m = 0 then .nan else .inf (s != t)
  | .fin s m e, .fin t n g => .fin (s != t) (m * n) (e + g)

/-- Exact scaling by 2^k. -/
def fpScale (k : Int) : Fp → Fp
  | .fin s m e => .fin s m (e + k)
  | v => v

/-- A finite value is below, at or above another: -1, 0, 1; the two zeros are equal. NaN gives none. -/
def fpCmp : Fp → Fp → Option Int
  | .nan, _ => none
  | _, .nan => none
  | .inf s, .inf t => some (if s = t then 0 else if s then -1 else 1)
  | .inf s, .fin _ _ _ => some (if s then -1 else 1)
  | .fin _ _ _, .inf t => some (if t then 1 else -1)
  | .fin s m e, .fin t n g =>
    let e0 := min e g
    let d := fpAt s m e e0 - fpAt t n g e0
    some (if d < 0 then -1 else if d = 0 then 0 else 1)

/-- The sign of a value that is no NaN. -/
def fpSign : Fp → Bool
  | .nan => false
  | .inf s => s
  | .fin s _ _ => s

/-- a is below b with -0 below +0 (R366). -/
def fpBelow (a b : Fp) : Bool :=
  match fpCmp a b with
  | none => false
  | some c => decide (c < 0) || (c == 0 && fpSign a && ! fpSign b)

/-- FMAX and FMIN on values (R366). -/
def fpMax (wantMin : Bool) (a b : Fp) : Fp :=
  match a, b with
  | .nan, _ => b
  | _, .nan => a
  | _, _ => if wantMin then (if fpBelow b a then b else a) else (if fpBelow a b then b else a)

/-! ## Special functions (R170) -/

/-- Fraction bits of the fixed-point working values. -/
def fxBits : Nat := 320

/-- Integer square root, by bits from the highest down: r the root so far. -/
def isqrtFrom (n : Nat) : Nat → Nat → Nat
  | 0, r => if (r + 1) * (r + 1) ≤ n then r + 1 else r
  | k + 1, r => isqrtFrom n k (if (r + 2 ^ (k + 1)) * (r + 2 ^ (k + 1)) ≤ n then r + 2 ^ (k + 1) else r)

/-- The floor of the square root of n. -/
def isqrt (n : Nat) : Nat := isqrtFrom n (Nat.log2 n / 2 + 1) 0

/-- 2^f × 2^fxBits for the fraction f = num / 2^nb: multiply the roots 2^(1/2), 2^(1/4), … of the bits set, from the first
bit down. -/
def exp2Frac (num : Nat) : Nat → Nat → Nat → Nat
  | 0, _, acc => acc
  | nb + 1, root, acc =>
    let r := isqrt (root * 2 ^ fxBits)
    exp2Frac num nb r (if num.testBit nb then acc * r / 2 ^ fxBits else acc)

/-- A magnitude m × 2^e with its sticky flag. -/
abbrev Mag := Nat × Int × Bool

/-- 2^x for x = n / 2^nb (n an integer of either sign), strictly between the value given and the next (R170). -/
def exp2Fix (n : Int) (nb : Nat) : Mag :=
  let i := n / (2 : Int) ^ nb
  let f := (n % (2 : Int) ^ nb).toNat
  if f = 0 then (1, i, false)
  else
    let v := exp2Frac f nb (2 * 2 ^ fxBits) (2 ^ fxBits)
    (v / 2 ^ 64, i - ((fxBits - 64 : Nat) : Int), true)

/-- exp2 of a finite value: far from 1 it over- or underflows, near 0 it lies beside 1. -/
def exp2Mag (neg : Bool) (m : Nat) (e : Int) : Mag :=
  if m = 0 then (1, 0, false)
  else
    let lg := (Nat.log2 m : Int) + e
    if 20 < lg then (1, if neg then -100000 else 100000, true)
    else if lg < -100 then (if neg then (2 ^ 90 - 1, -90, true) else (2 ^ 90, -90, true))
    else
      let nb := (-e).toNat
      exp2Fix (fpAt neg m e (min e 0)) (if e < 0 then nb else 0)

/-- Fraction bits of log2 of y (in [1, 2), at fxBits) by repeated squaring, n of them. -/
def log2Frac : Nat → Nat → Nat → Nat
  | 0, _, acc => acc
  | n + 1, y, acc =>
    let y2 := y * y / 2 ^ fxBits
    if 2 * 2 ^ fxBits ≤ y2 then log2Frac n (y2 / 2) (2 * acc + 1) else log2Frac n y2 (2 * acc)

/-- log2 of m × 2^e, m > 0: sign and magnitude. -/
def log2Mag (m : Nat) (e : Int) : Bool × Mag :=
  let lg := (Nat.log2 m : Int) + e
  if m = 2 ^ Nat.log2 m then (decide (lg < 0), (lg.natAbs, 0, false))
  else
    let t := log2Frac 140 (m * 2 ^ fxBits / 2 ^ Nat.log2 m) 0
    if 0 ≤ lg then (false, (lg.toNat * 2 ^ 140 + t, -140, true))
    else (true, ((-lg).toNat * 2 ^ 140 - t - 1, -140, true))

/-- 1 / (m × 2^e), m > 0. -/
def rcpMag (m : Nat) (e : Int) : Mag :=
  let k := Nat.log2 m + 80
  (2 ^ k / m, -e - (k : Int), decide (2 ^ k % m ≠ 0))

/-- 1 / sqrt (m × 2^e), m > 0. -/
def rsqrtMag (m : Nat) (e : Int) : Mag :=
  let m2 := if e % 2 = 0 then m else 2 * m
  let e2 := if e % 2 = 0 then e else e - 1
  let k := 2 * (Nat.log2 m2 + 80)
  let r := isqrt (2 ^ k / m2)
  (r, -(e2 / 2) - ((k / 2 : Nat) : Int), decide (r * r * m2 ≠ 2 ^ k))

/-- The square root of m × 2^e (R229). -/
def sqrtMag (m : Nat) (e : Int) : Mag :=
  let m2 := if e % 2 = 0 then m else 2 * m
  let e2 := if e % 2 = 0 then e else e - 1
  let r := isqrt (m2 * 2 ^ 160)
  (r, e2 / 2 - 80, decide (r * r ≠ m2 * 2 ^ 160))

/-- (m × 2^e) / (n × 2^g), n > 0 (R229, R351). -/
def divMag (m : Nat) (e : Int) (n : Nat) (g : Int) : Mag :=
  let k := Nat.log2 n + 120
  (m * 2 ^ k / n, e - g - (k : Int), decide (m * 2 ^ k % n ≠ 0))

/-- log2 e × 2^fxBits, the factor that turns exponents of e into exponents of 2: 1 / ln 2, with ln 2 as the sum of
1 / (k × 2^k). -/
def ln2Fix : Nat := ((List.range 340).map (fun k => 2 ^ fxBits / ((k + 1) * 2 ^ (k + 1)))).foldl (fun a b => a + b) 0
/-- See ln2Fix. -/
def log2eFix : Nat := 2 ^ fxBits * 2 ^ fxBits / ln2Fix

/-- e^(m × 2^e) for a magnitude between 2^-80 and 2^20, as a number with 256 fraction bits times 2^i. -/
def expFix (neg : Bool) (m : Nat) (e : Int) : Nat × Int :=
  let p := m * log2eFix
  let sh := (fxBits : Int) - e - 200
  let q : Int := if 0 ≤ sh then ((p / 2 ^ sh.toNat : Nat) : Int) else ((p * 2 ^ (-sh).toNat : Nat) : Int)
  let r := exp2Fix (if neg then -q else q) 200
  (r.1, r.2.1)

/-- tanh of a finite non-zero magnitude, strictly between the value given and the next. -/
def tanhMag (m : Nat) (e : Int) : Mag :=
  let lg := (Nat.log2 m : Int) + e
  if 10 < lg then (2 ^ 90 - 1, -90, true)
  else if lg < -70 then (m * 2 ^ 90 - 1, e - 90, true)
  else
    let x := expFix false m (e + 1)
    -- E = x.1 × 2^x.2 with x.2 negative: (E - 1) / (E + 1)
    let one := 2 ^ (-x.2).toNat
    let r := divMag (x.1 - one) 0 (x.1 + one) 0
    (r.1, r.2.1, true)

/-- sigmoid of a finite non-zero value. -/
def sigmoidMag (neg : Bool) (m : Nat) (e : Int) : Mag :=
  let lg := (Nat.log2 m : Int) + e
  if 10 < lg then (if neg then (1, -100000, true) else (2 ^ 90 - 1, -90, true))
  else if lg < -70 then (if neg then (2 ^ 90 - 1, -91, true) else (2 ^ 90, -91, true))
  else
    -- with E = e^|x|: E / (E + 1) above 0, 1 / (E + 1) below
    let x := expFix false m e
    let one := 2 ^ (-x.2).toNat
    let r := if neg then divMag one 0 (x.1 + one) 0 else divMag x.1 0 (x.1 + one) 0
    (r.1, r.2.1, true)

/-- Round a magnitude. -/
def magRound (r : Rnd) (neg : Bool) (v : Mag) : Nat := fpRound r neg v.2.2 v.1 v.2.1

/-- tanh and sigmoid give one of the two neighbours of the exact value, which the spec leaves open (log entry 6); under
RSH as under RNE. -/
def nearMag (r : Rnd) (fn x : Nat) (neg : Bool) (v : Mag) : Nat :=
  let up := Config.sfnUpper fn r.fmt (if r.mode = 4 then 0 else r.mode) x
  magRound { r with mode := if up then (if neg then 3 else 2) else 1 } neg v

/-- FSFN's function fn of the element x, rounded (R170, R369). -/
def sfn (r : Rnd) (fn x : Nat) : Nat :=
  match fpDecode r.fmt x with
  | .nan => fpNan r.fmt
  | .inf neg =>
    (match fn with
      | 0 => if neg then 0 else fpInfBits r.fmt r.sat false
      | 1 => if neg then fpNan r.fmt else fpInfBits r.fmt r.sat false
      | 2 => bnat neg * fpSignW r.fmt
      | 3 => if neg then fpNan r.fmt else 0
      | 4 => fpRound r neg false 1 0
      | _ => if neg then 0 else fpRound r false false 1 0)
  | .fin neg m e =>
    if m = 0 then
      (match fn with
        | 0 => fpRound r false false 1 0
        | 1 => fpInfBits r.fmt r.sat true
        | 2 => fpInfBits r.fmt r.sat neg
        | 3 => fpInfBits r.fmt r.sat neg
        | 4 => bnat neg * fpSignW r.fmt
        | _ => fpRound r false false 1 (-1))
    else
      (match fn with
        | 0 => magRound r false (exp2Mag neg m e)
        | 1 => if neg then fpNan r.fmt else magRound r (log2Mag m e).1 (log2Mag m e).2
        | 2 => magRound r neg (rcpMag m e)
        | 3 => if neg then fpNan r.fmt else magRound r false (rsqrtMag m e)
        | 4 => nearMag r fn x neg (tanhMag m e)
        | _ => nearMag r fn x false (sigmoidMag neg m e))

/-! ## Elements of a field word (R80, R158) -/

/-- Element i of a field word. -/
def quadElem (f : Nat) (q : Quad) (i : Nat) : Nat := fld q.toNat (i * fieldBits f) (fmtBits f)

/-- The elements of a field word. -/
def quadElems (f : Nat) (q : Quad) : List Nat := (List.range (fieldElems f)).map (quadElem f q)

/-- A field word's data bits from elements, element 0 in the lowest bits. -/
def packElems (f : Nat) (l : List Nat) : Nat :=
  l.foldr (fun x acc => x % 2 ^ fmtBits f + 2 ^ fieldBits f * acc) 0

/-- The quarter an element lies in. -/
def elemQuarter (f i : Nat) : Nat := i * fieldBits f / 32

/-- The value of an integer element. -/
def intVal (f x : Nat) : Int := sextN (fmtBits f) x

/-- An element as an exact value: floating point or integer. -/
def elemFp (f x : Nat) : Fp := if isFloat f then fpDecode f x else intFp (intVal f x) 0

/-- A value rounded to the format of r: R162-R164 for floating point, R167 for integers. -/
def fpTo (r : Rnd) (v : Fp) : Nat :=
  if isFloat r.fmt then fpEncode r v else intBits (fmtBits r.fmt) (intRound (fmtBits r.fmt) r.mode r.h v)

/-- Convert an element of format f, scaled by 2^k, under r (R113, R167): from integer to integer SAT chooses between the
nearest end of the range and the low bits. -/
def convElem (f : Nat) (k : Int) (r : Rnd) (x : Nat) : Nat :=
  if isInt f && isInt r.fmt then
    let v := intVal f x
    let n := intNear r.mode r.h (decide (v < 0)) v.natAbs k
    let w := fmtBits r.fmt
    intBits w (if r.sat then intClamp w n else n)
  else fpTo r (fpScale k (elemFp f x))

/-! ## Scatter combines (R83) -/

/-- Element e combined with x under an SSCT mode: 0 st, 1 add, 2 max, 3 min. -/
def combine (mode f e x : Nat) : Nat :=
  match mode with
  | 0 => x
  | 1 =>
    if isFloat f then fpEncode (rne f) (fpAdd 0 (fpDecode f e) (fpDecode f x))
    else (e + x) % 2 ^ fmtBits f
  | _ =>
    if isFloat f then fpEncode (rne f) (fpMax (mode == 3) (fpDecode f e) (fpDecode f x))
    else
      let a := intVal f e
      let b := intVal f x
      intBits (fmtBits f) (if mode = 3 then min a b else max a b)

end Sys2Proof.Machine
end

