-- ==== Sys2Proof/Machine/Flags.lean ====
section
/-!
DEFINITION. The scalar results and predicate tests of the sequencer: arithmetic, shifts, counts, division and the compare
conditions (R312, R331, R332, R336, R347, R394, R402, R418, R427).
-/

namespace Sys2Proof.Machine

/-- Sext of an immediate to 64 bits. -/
def immS {n : Nat} (i : BitVec n) : Word := i.signExtend 64

/-- Zext of an immediate to 64 bits. -/
def immZ {n : Nat} (i : BitVec n) : Word := i.zeroExtend 64

/-- The test of a compare condition code (R312). -/
def condHolds (c : BitVec 3) (x y : Word) : Bool :=
  match c.toNat with
  | 0 => x == y
  | 1 => x != y
  | 2 => x.slt y
  | 3 => y.sle x
  | 4 => x.ult y
  | _ => y.ule x

/-- DIV.s: rounding toward zero, all ones for a zero divisor, and -2^63 / -1 = -2^63 (R347). -/
def divSigned (x y : Word) : Word :=
  if y = 0 then BitVec.allOnes 64 else wi64 (x.toInt.tdiv y.toInt)

/-- DIV.n (R347). -/
def divUnsigned (x y : Word) : Word :=
  if y = 0 then BitVec.allOnes 64 else w64 (x.toNat / y.toNat)

/-- REM.s: the sign of the dividend, the dividend itself for a zero divisor (R418). -/
def remSigned (x y : Word) : Word := if y = 0 then x else wi64 (x.toInt.tmod y.toInt)

/-- REM.n (R418). -/
def remUnsigned (x y : Word) : Word := if y = 0 then x else w64 (x.toNat % y.toNat)

/-- MULHI.s: bits [127:64] of the signed product (R402). -/
def mulHighS (x y : Word) : Word := wi64 (x.toInt * y.toInt / 2 ^ 64)

/-- MULHI.n: bits [127:64] of the unsigned product (R402). -/
def mulHighN (x y : Word) : Word := w64 (x.toNat * y.toNat / 2 ^ 64)

/-- Zero bits of x at or below bit n-1, counted from bit n-1 down to the highest set bit. -/
def leadZeros (x : Word) : Nat → Nat
  | 0 => 0
  | n + 1 => if x.getLsbD n then 0 else 1 + leadZeros x n

/-- Zero bits of x from bit k up to the lowest set bit, over n bits. -/
def trailZeros (x : Word) (k : Nat) : Nat → Nat
  | 0 => 0
  | n + 1 => if x.getLsbD k then 0 else 1 + trailZeros x (k + 1) n

/-- Set bits among the n low bits. -/
def popCount (x : Word) : Nat → Nat
  | 0 => 0
  | n + 1 => bnat (x.getLsbD n) + popCount x n

/-- The low six bits of a shift amount (R427). -/
def shAmt (y : Word) : Nat := wb y 0 6

/-- The larger or smaller of two values, signed or unsigned (R394). -/
def pickS (larger : Bool) (x y : Word) : Word := if x.slt y = larger then y else x
/-- See pickS. -/
def pickN (larger : Bool) (x y : Word) : Word := if x.ult y = larger then y else x

/-- ATOM's new value of the element (R187): operation, old value, operand, comparand. -/
def atomNew (op : BitVec 3) (old v cmp : BitVec 32) : BitVec 32 :=
  match op.toNat with
  | 0 => v
  | 1 => if old = cmp then v else old
  | 2 => old + v
  | 3 => old &&& v
  | 4 => old ||| v
  | 5 => old ^^^ v
  | 6 => if old.slt v then v else old
  | _ => if v.slt old then v else old

end Sys2Proof.Machine
end

