-- ==== Sys2Proof/Machine/Sequencer.lean ====
section
/-!
DEFINITION. The sequencer core: which slot is selected (R37-R39), pending scalar results (R348, R402), holds (R181, R188)
and the fetch of an instruction word (R308, R271).
-/

namespace Sys2Proof.Machine

/-- A hold still waits: an access or a floe-local command it waits for has not performed (R181, R188). -/
def holdActive (fl : Floe) (t : Tp) (h : Hold) : Bool :=
  t.pends.any (fun p => h.pends.contains p.id) ||
    fl.streams.any (fun e => match e with
      | some c => h.cmds.contains c.no
      | none => false)

/-- A later access of a kind is held at issue (R181, R363). -/
def heldBy (fl : Floe) (t : Tp) (read write floe : Bool) : Bool :=
  t.holds.any (fun h => ((h.reads && read) || (h.writes && write)) && (! floe || h.floeToo) && holdActive fl t h)

/-- The stream table has a free entry (R87). -/
def streamFree (fl : Floe) : Option Nat := fl.streams.findIdx? Option.isNone

/-- Tokens a matrix node's queue holds (R136). -/
def tokenQueueSize : Nat := 8

/-- LAY commands a die's Firn queue holds (R382). -/
def firnQueueSize : Nat := 64

/-- The condition an issue stall waits for has cleared (R37). -/
def stallClear (d : Data) (fl : Floe) (f : Nat) (t : Tp) : Stall → Bool
  | .regs rs => ! rs.any (fun r => r != 0 && pendReg t r)
  | .tag g => ! t.busy.contains g
  | .entry => (streamFree fl).isSome
  | .hold r w l => ! heldBy fl t r w l
  | .tokenQueue q => decide ((fl.nodes.getD q MNode.reset).queue.length < tokenQueueSize)
  | .firn => decide ((getDie d (dieOf f)).firnQ.length < firnQueueSize)
  | .record => ! recHeldFor d f

/-- A slot is runnable (R37). -/
def runnable (d : Data) (fl : Floe) (f k : Nat) : Bool :=
  let s := slotOf fl k
  s.st == .live && (match s.block with
    | .none => true
    | .stall w => stallClear d fl f s.tp w
    | _ => false)

/-- The candidates of a selection (R38). -/
def candidates (d : Data) (fl : Floe) (f : Nat) : List Nat :=
  (List.range 8).filter (fun k => runnable d fl f k && ! (slotOf fl k).mask)

/-- The candidates left after R38 removes the yielding ones. -/
def notYielding (fl : Floe) (cs : List Nat) : List Nat :=
  if 2 ≤ cs.length ∧ cs.any (fun k => ! (slotOf fl k).yield) then cs.filter (fun k => ! (slotOf fl k).yield) else cs

/-- Role order of R38: L, A, E. -/
def roleRank : Role → Nat
  | .loader => 2
  | .arithmetic => 1
  | .epilogue => 0

/-- Priority with aged slots counting as 23 (R38). -/
def slotPrio (s : Slot) : Nat := if s.aged then 23 else s.prio.toNat

/-- What R38 compares, the greater first; a lower slot number wins what is left. -/
def slotRank (s : Slot) : Nat :=
  (((bnat s.aged * 32 + slotPrio s) * 4 + roleRank s.role) * 131072) + s.wait

/-- The slot R38 picks. -/
def pickSlot (fl : Floe) : List Nat → Option Nat
  | [] => none
  | k :: ks =>
    match pickSlot fl ks with
    | none => some k
    | some j => if slotRank (slotOf fl k) < slotRank (slotOf fl j) then some j else some k

/-- A launch's ageing threshold AGE (R28, R30). -/
def regionAge (r : Region) : Nat := wb (hdrW r 0) 16 16 + 1

/-- The threshold for the TPs of a floe. -/
def floeAge (d : Data) (fl : Floe) : Nat :=
  match fl.lid with
  | none => 65536
  | some l => match getRegion d l with
    | none => 65536
    | some r => regionAge r

/-- A slot whose wait has reached AGE is aged (R39). -/
def ageSlot (age : Nat) (s : Slot) : Slot := if age ≤ s.wait then { s with aged := true } else s

/-- One more cycle passed over (R39). -/
def waitMore (s : Slot) : Slot := { s with wait := min 65536 (s.wait + 1) }

/-- The update of slot k at the end of a cycle (R39): cs the candidates, left those not removed, sel the selected one. A
YIELD that issues sets its own yield bit. -/
def endCycleSlot (age : Nat) (cs left : List Nat) (sel k : Nat) (s : Slot) : Slot :=
  if k = sel then { s with wait := 0, aged := false, yield := false }
  else if ! cs.contains k then s
  else if ! left.contains k then { s with yield := false }
  else ageSlot age (waitMore { s with yield := false })

/-- Write a pending scalar result that is due: DIV and REM 32 cycles, MUL and MULHI 4 cycles after issue (R348, R402). -/
def resultDue (isMul : Bool) (now : Nat) (p : Pend) : Bool :=
  decide (p.due ≤ now) && (match p.kind with
    | .div => ! isMul
    | .mul => isMul
    | _ => false)

/-- The TP after every due result of a kind is written. -/
def writeResults (isMul : Bool) (now : Nat) (t : Tp) : Tp :=
  { (t.pends.filter (resultDue isMul now)).foldl (fun t p => sput t p.d p.value) t with
    pends := t.pends.filter (fun p => ! resultDue isMul now p) }

/-- Every due result of the floe is written as the cycle begins. -/
def writeFloeResults (fl : Floe) : Floe :=
  { fl with slots := fl.slots.map (fun s =>
      { s with tp := writeResults true fl.seqc (writeResults false fl.seqc s.tp) }) }

/-- The cycle's selection (R38, R39): the floe's slots updated, and the slot that issues. -/
def selectSlot (d : Data) (f : Nat) : Data × Option Nat :=
  let fl := writeFloeResults (getFloe d f)
  let d := modFloe d f (fun _ => fl)
  let cs := candidates d fl f
  let left := notYielding fl cs
  match pickSlot fl left with
  | none => (d, none)
  | some k =>
    (modFloe d f (fun fl =>
      { fl with slots := fl.slots.mapIdx (fun i s => endCycleSlot (floeAge d fl) cs left k i s) }), some k)

/-- A code fetch stop (R271): one STOP record, and the TP waits at the instruction. -/
def fetchStop (d : Data) (f k : Nat) (cls cause : Nat) : Data :=
  modSlot (emitTpRec d f k { recZero with kind := 1, cls := cls, cause := cause, entry := k, addr := (getTp d f k).pc.toNat })
    f k (fun s => { s with block := .fetch })

/-- Fetch the word at the pc of slot k (R308). -/
def fetch (d : Data) (f k : Nat) : Data × Option Nat :=
  let pc := (getTp d f k).pc.toNat
  match translate d (reqFloe f) pc .fetch with
  | (d, .error (cls, cause)) => (fetchStop d f k cls cause, none)
  | (d, .ok loc) =>
    match physFault d f 1 loc 4 with
    | some (cls, cause) => (fetchStop d f k cls cause, none)
    | none =>
      if poisoned d loc 4 then (fetchStop d f k 0x0C (eccuCause loc), none)
      else (d, some (memRead d loc 4))

/-- The sequencer cycle up to decode: the slot selected and the word it issues. A floe of a die held in reset runs no
cycle. -/
def seqIssue (d : Data) (f : Nat) : Data × Option Nat :=
  if (getDie d (dieOf f)).inReset then (d, none)
  else match selectSlot d f with
    | (d, none) => (d, none)
    | (d, some k) =>
      match fetch (modSlot d f k (fun s => { s with block := .none })) f k with
      | (d, none) => (d, none)
      | (d, some w) =>
        ({ modFloe (modSlot d f k (fun s => { s with word := BitVec.ofNat 32 w })) f (fun fl => { fl with active := true }) with
            curF := f, curK := k, curW := BitVec.ofNat 32 w }, some w)

/-- The cycle is counted (k.SEQC). -/
def seqCount (d : Data) (f : Nat) : Data :=
  if (getDie d (dieOf f)).inReset then d else modFloe d f (fun fl => { fl with seqc := (fl.seqc + 1) % 2 ^ 64 })

/-- The condition slot k of floe f waits for in an issue stall (R37). -/
def stallOf (d : Data) (f k : Nat) : Option Stall :=
  match (slotOf (getFloe d f) k).block with
  | .stall w => some w
  | _ => none

/-- The end of an issue from s that answers t. An instruction that must wait at issue has not issued (R37): its slot is
blocked, with its wait, aged and yield as before, and the floe's cycle is still to select another slot (R38, log entry
129). Else the cycle ends and is counted. -/
def issueEnd (f k : Nat) (s t : State) : State :=
  match stallOf t.d f k with
  | some w => { s with agenda := .seq f :: s.agenda, d := modSlot s.d f k (fun sl => { sl with block := .stall w }) }
  | none => { t with d := seqCount t.d f }

/-- A Rook core's word at its pc (R247, R299): its instruction memory. -/
def rookFetch (d : Data) (r : Nat) : Nat :=
  memRead d (locRook r (((getIo d (r / 4)).rooks.getD (r % 4) Rook.reset).pc.toNat % 2 ^ 40)) 4

/-- A Rook core of an I/O die. -/
def getRook (d : Data) (r : Nat) : Rook := (getIo d (r / 4)).rooks.getD (r % 4) Rook.reset

/-- That core changed. -/
def modRook (d : Data) (r : Nat) (h : Rook → Rook) : Data :=
  modIo d (r / 4) (fun io => { io with rooks := io.rooks.set (r % 4) (h (io.rooks.getD (r % 4) Rook.reset)) })

/-- The issuing Rook core takes a machine-mode exception (R247; the trap registers are the RISC-V family's, log entry
4): mepc the instruction's address, mcause, mtval 0, interrupts off, pc the trap vector's base. -/
def rookTrap (d : Data) (cause : Nat) : Data :=
  modRook d d.curR (fun k => { k with
    mepc := k.pc, mcause := w64 cause, mtval := 0, mpie := k.mie, mie := false, pc := w64 (k.mtvec.toNat / 4 * 4) })

/-- x[r] of the issuing Rook core: x0 reads as 0. -/
def xget (d : Data) (r : BitVec 5) : Word := if r = 0 then 0 else (getRook d d.curR).regs.getD r.toNat 0

/-- x[rd] := v on the issuing Rook core, and the next instruction. -/
def rookDone (d : Data) (rd : BitVec 5) (v : Word) : Data :=
  modRook d d.curR (fun k => { k with
    regs := if rd = 0 then k.regs else k.regs.set rd.toNat v, pc := k.pc + 4 })

/-- Map the next state of an outcome. -/
def mapNext (h : State → State) : Host.Outcome State Fault Refusal → Host.Outcome State Fault Refusal
  | .next s => .next (h s)
  | .fault r => .fault r
  | .refused r => .refused r

end Sys2Proof.Machine
end

