-- ==== Sys2Proof/Machine/Sys.lean ====
section
/-!
DEFINITION. The SYS instructions: NOP, TRAP, YIELD, PARK, EXIT, BRK, GETK, PUTK and WIDF (R28, R29, R42-R45, R339, R356,
R370, R408, R410, R414, R443, R446, R447).
-/

namespace Sys2Proof.Machine

/-- NOP (R408). -/
def execNop (g : Guard) (s : State) : Host.Outcome State Fault Refusal :=
  nextD s (fun d => issue d g [] retire)

/-- TRAP (R443): class 0x11, DETAIL1 the code. -/
def execTrap (g : Guard) (code : BitVec 10) (s : State) : Host.Outcome State Fault Refusal :=
  nextD s (fun d => issue d g [] (fun d =>
    trapAt d d.curF d.curK 0x11 0 (curTp d).pc.toNat d.curW code.toNat))

/-- YIELD (R43, R447): the slot's yield bit, from the end of the cycle. -/
def execYield (g : Guard) (s : State) : Host.Outcome State Fault Refusal :=
  nextD s (fun d => issue d g [] (fun d => retire (modCurSlot d (fun k => { k with yield := true }))))

/-- The launch of the issuing TP. -/
def curRegion (d : Data) : Option Region := getRegion d (curTp d).owner.lid

/-- CORES of a launch (R30, R51). -/
def coResident (r : Option Region) : Bool :=
  match r with
  | some r => (hdrW r 0).getLsbD 32
  | none => false

/-- A bound channel's buffer holds a word. -/
def boundWord (t : Tp) : Bool :=
  (List.range 4).any (fun c => t.bound.getD c false && ! (t.bufs.getD c []).isEmpty)

/-- PARK's effect (R44, R410). In a co-resident launch the TP waits in its slot: it makes no drain, and goes on at once where a bound
channel's buffer holds a word (DESIGN CHOICE, log entry 167). -/
def parkEffect (d : Data) : Data :=
  if ! (curTp d).bound.any (fun b => b) then trapIllegal d 5
  else if coResident (curRegion d) then
    (if boundWord (curTp d) then retire d else blockCur (retire d) .parkedInSlot)
  else modCurSlot (retire d) (fun s => { s with st := .parking, block := .drain })

/-- PARK. -/
def execPark (g : Guard) (s : State) : Host.Outcome State Fault Refusal := nextD s (fun d => issue d g [] parkEffect)

/-- EXIT (R45, R356): the slot drains. -/
def execExit (g : Guard) (s : State) : Host.Outcome State Fault Refusal :=
  nextD s (fun d => issue d g [] (fun d => modCurSlot (retire d) (fun k => { k with st := .exiting, block := .drain })))

/-- BRK's effect (R270, R339): a BREAK record, the masks of the floe, and the region is pre-empted and held. -/
def brkEffect (d : Data) : Data :=
  let r := { recZero with kind := 5, cls := 0x12, addr := (curTp d).pc.toNat }
  let d := retire (emitTpRec d d.curF d.curK r)
  let d := modFloe d d.curF (fun fl => { fl with slots := fl.slots.map (fun k => { k with mask := true }), halting := true })
  modRegion d (curTp d).owner.lid (fun r =>
    if r.st = .resident then { r with st := .saving, held := true } else { r with held := true })

/-- BRK. -/
def execBrk (g : Guard) (s : State) : Host.Outcome State Fault Refusal := nextD s (fun d => issue d g [] brkEffect)

/-- k.CHAN for channel c (R28). -/
def chanField (t : Tp) (c : Nat) : Nat :=
  (bnat (t.bound.getD c false) * 128 + (t.bufs.getD c []).length % 8) * 2 ^ (8 * c)

/-- The role's code (R28). -/
def roleCode : Role → Nat
  | .loader => 0
  | .arithmetic => 1
  | .epilogue => 2

/-- KReg of the issuing TP (R28, R370). -/
def kReg (d : Data) (kn : Nat) : Word :=
  let fl := getFloe d d.curF
  let s := getSlot d d.curF d.curK
  let t := s.tp
  match kn with
  | 0 => t.wid
  | 1 => w64 (t.owner.n % 2 ^ 20)
  | 2 => w64 s.prio.toNat
  | 3 => w64 (roleCode s.role)
  | 4 => t.tags
  | 5 => w64 t.flt.toNat
  | 6 => w64 fl.advc
  | 7 => w64 (match curRegion d with
      | some r => regionAge r
      | none => 0)
  | 8 => w64 d.curK
  | 9 => w64 d.curF
  | 10 => w64 fl.seqc
  | _ => w64 (chanField t 0 + chanField t 1 + chanField t 2 + chanField t 3)

/-- GETK (R43, R370). -/
def execGetk (g : Guard) (d : BitVec 5) (kn : BitVec 10) (s : State) : Host.Outcome State Fault Refusal :=
  nextD s (fun dd => issueWrite dd g [] d (fun dd => kReg dd kn.toNat))

/-- KWrite (R28, R29, R414). -/
def kWrite (d : Data) (kn : Nat) (v : Word) : Data :=
  if kn = 2 then
    (if v.toNat ≤ (curTp d).prioMax.toNat then
      retire (modCurSlot d (fun k => { k with prio := BitVec.ofNat 5 v.toNat })) else trapPriv d 2)
  else if kn = 5 then (if v = 0 then retire (modCur d (fun t => { t with flt := 0 })) else trapPriv d 2)
  else trapPriv d 1

/-- PUTK (R43, R414). -/
def execPutk (g : Guard) (a : BitVec 5) (kn : BitVec 10) (s : State) : Host.Outcome State Fault Refusal :=
  nextD s (fun d => issue d g [a] (fun d => kWrite d kn.toNat (rs d a)))

/-- NF of a header (R30). -/
def hdrNf (h : List Word) : Nat := wb (h.getD 0 0) 33 3

/-- W of level i (R30). -/
def hdrWidth (h : List Word) (i : Nat) : Nat := wb (h.getD 1 0) (35 - 7 * i) 7

/-- E of level i (R30). -/
def hdrExt (h : List Word) (i : Nat) : Nat := wb (h.getD (3 + i / 3) 0) (42 - 21 * (i % 3)) 21

/-- LevelPos (R32): the widths of the levels after i. -/
def levelPos (h : List Word) (i : Nat) : Nat :=
  sumNat (((List.range (hdrNf h)).filter (fun j => decide (i < j))).map (hdrWidth h))

/-- The WIDF result (R43). -/
def widField (h : List Word) (wid : Word) (lvl : Nat) : Word :=
  if hdrNf h ≤ lvl then 0 else w64 (fld wid.toNat (levelPos h lvl) (hdrWidth h lvl))

/-- WIDF (R43, R446). -/
def execWidf (g : Guard) (d : BitVec 5) (lvl : BitVec 3) (s : State) : Host.Outcome State Fault Refusal :=
  nextD s (fun dd => issueWrite dd g [] d (fun dd =>
    match curRegion dd with
    | some r => widField r.hdr (curTp dd).wid lvl.toNat
    | none => 0))

end Sys2Proof.Machine
end

