-- ==== Sys2Proof/Machine/Tiles.lean ====
section
/-!
DEFINITION. Tile names, shape registers and the layout cache: TSHP, TBIND, TORG, TADV, TQRY, LTLD and LTW (R54, R57-R64,
R314, R391, R392, R439).
-/

namespace Sys2Proof.Machine

/-- TSHP (R60, R439). -/
def execTshp (g : Guard) (n : BitVec 2) (a : BitVec 5) (s : State) : Host.Outcome State Fault Refusal :=
  nextD s (fun d => issueS d g [a] [.shape n] (fun d =>
    if shapeBad (rs d a) then trapIllegal d 5
    else retire (modCur d (fun t => { t with shapes := t.shapes.set n.toNat (rs d a) }))))

/-- Tile name t is bound (R58, R61). -/
def bindTile (t : Tp) (n : BitVec 4) (b : Binding) : Tp := { t with tiles := t.tiles.set n.toNat (some b) }

/-- TBIND (R58): the origin is set to zeros. -/
def execTbind (g : Guard) (t : BitVec 4) (e : BitVec 6) (n : BitVec 2) (rdim cdim : BitVec 3) (s : State) :
    Host.Outcome State Fault Refusal :=
  nextD s (fun d => issueS d g [] [.tile t] (fun d =>
    retire (modCur d (fun tp => bindTile tp t
      { entry := e, shape := n, rdim := rdim, cdim := cdim, origin := List.replicate 7 0 }))))

/-- Origin coordinate dim of tile n goes through h; an unbound tile has none (TILE 0x10, log entry 14). -/
def moveOrigin (d : Data) (n : BitVec 4) (dim : BitVec 3) (h : BitVec 32 → BitVec 32) : Data :=
  match (curTp d).tiles.getD n.toNat none with
  | none => trap d 4 0x10
  | some b => retire (modCur d (fun t =>
      bindTile t n { b with origin := b.origin.set dim.toNat (h (b.origin.getD dim.toNat 0)) }))

/-- TORG (R58). -/
def execTorg (g : Guard) (t : BitVec 4) (dim : BitVec 3) (a : BitVec 5) (s : State) : Host.Outcome State Fault Refusal :=
  nextD s (fun d => issueS d g [a] [.tile t] (fun d => moveOrigin d t dim (fun _ => (rs d a).truncate 32)))

/-- TADV (R58): mod 2^32. -/
def execTadv (g : Guard) (t : BitVec 4) (dim : BitVec 3) (a : BitVec 5) (s : State) : Host.Outcome State Fault Refusal :=
  nextD s (fun d => issueS d g [a] [.tile t] (fun d => moveOrigin d t dim (fun x => x + (rs d a).truncate 32)))

/-- TQRY (R64, R439). -/
def execTqry (g : Guard) (d : BitVec 5) (t : BitVec 4) (s : State) : Host.Outcome State Fault Refusal :=
  nextD s (fun dd => issueS dd g [d] (viewRegs (curTp dd) t) (fun dd =>
    match curView dd t with
    | none => trap dd 4 0x10
    | some v =>
      if bad12 v then trap dd 4 0x12
      else retire (modCur dd (fun tp => sput tp d (w64 (winSummary v))))))

/-- LTN of a launch (R30). -/
def regLtn (r : Region) : Nat := wb (hdrW r 14) 56 8

/-- LTAB of a launch (R30). -/
def regLtab (r : Region) : Nat := wb (hdrW r 14) 7 45 * 128

/-- A device virtual address (R172): translated, whichever target its page names. -/
def vaPlace : Place := { space := 3, psp := 0, pmod := 0 }

/-- Layout cache entry e of the issuing TP's floe (R57). -/
def putEntry (d : Data) (e : BitVec 6) (l : List Word) : Data :=
  modFloe d d.curF (fun fl => { fl with lcache := fl.lcache.set e.toNat (some l) })

/-- LTLD's read performs (R391): the entry is loaded, or the TP traps and it is unchanged. -/
def ltldRead (d : Data) (e : BitVec 6) (j : BitVec 8) : Data :=
  match curRegion d with
  | none => trap d 4 0x16
  | some r =>
    match readWordsAt d (reqFloe d.curF) vaPlace (regLtab r + 128 * j.toNat) 16 with
    | (d, .error (cls, cause)) => trap d cls cause
    | (d, .ok l) => if lteCheck l = 0 then retireAt (putEntry d e l) d.curF d.curK else trap d 4 (lteCheck l)

/-- A later read, write or command of the issuing TP waits while a FENCE or ATOM holds it (R181, R363). -/
def whenFree (d : Data) (read write floe : Bool) (k : Data → Data) : Data :=
  if heldBy (getFloe d d.curF) (curTp d) read write floe then blockCur d (.stall (.hold read write floe)) else k d

/-- LTLD (R58, R391): TILE 0x16 at issue; issue completes when the read has performed. -/
def execLtld (g : Guard) (e : BitVec 6) (j : BitVec 8) (s : State) : Host.Outcome State Fault Refusal :=
  nextD s (fun d => issue d g [] (fun d => whenFree d true false false (fun d =>
    match curRegion d with
    | none => trap d 4 0x16
    | some r => if regLtn r < j.toNat then trap d 4 0x16 else blockCur d (.issue (.ltld g e j)))))

/-- LTW (R392): one doubleword replaced and the whole entry checked. -/
def execLtw (g : Guard) (e : BitVec 6) (fld : BitVec 4) (a : BitVec 5) (s : State) : Host.Outcome State Fault Refusal :=
  nextD s (fun d => issue d g [a] (fun d =>
    match (getFloe d d.curF).lcache.getD e.toNat none with
    | none => trap d 4 0x10
    | some l =>
      let l' := l.set fld.toNat (rs d a)
      if lteCheck l' = 0 then retire (putEntry d e l') else trap d 4 (lteCheck l')))

end Sys2Proof.Machine
end

