-- ==== Sys2Proof/Machine/Cfg.lean ====
section
/-!
DEFINITION. Reading a field configuration: identifiers of its fields (R128), ports, boxes, routes and channel types (R96,
R99, R101, R103, R108, R110-R113, R125).
-/

namespace Sys2Proof.Machine

/-- A field of a configuration (R128). -/
def cfgGet (t : Table) (fid : Nat) : Nat := spGet 0 t fid

/-- Field index of block k. -/
def fidBlock (k i : Nat) : Nat := 0x1000 + k * 256 + i
/-- Field index of memory cell m. -/
def fidCell (m i : Nat) : Nat := 0x2000 + m * 256 + i
/-- Switch word i of box b. -/
def fidBox (b i : Nat) : Nat := 0x3000 + b * 256 + i

/-- The EXP bit of a port: 0-15 ip, 16-31 op (R108). -/
def exposed (t : Table) (port : Nat) : Bool := (cfgGet t 0).testBit port

/-- ESINK: the op port, when valid (R108). -/
def esink (t : Table) : Option Nat := if (cfgGet t 1).testBit 4 then some (cfgGet t 1 % 16) else none

/-- Channel type entry i (R112). -/
def ctt (t : Table) (i : Nat) : Nat := cfgGet t (0x10 + i)

/-- Reorder pair word p (R125). -/
def rpt (t : Table) (p : Nat) : Nat := cfgGet t (0x20 + p)

/-- Operation word n of block k (R103). -/
def opw (t : Table) (k n : Nat) : Nat := cfgGet t (fidBlock k n)
/-- Slot control n. -/
def sct (t : Table) (k n : Nat) : Nat := cfgGet t (fidBlock k (0x20 + n))
/-- Constant table entry i, 128 bits. -/
def ctab (t : Table) (k i : Nat) : Nat := cfgGet t (fidBlock k (0x40 + i))
/-- Input port map i. -/
def ipm (t : Table) (k i : Nat) : Nat := cfgGet t (fidBlock k (0x48 + i))
/-- Output port map i. -/
def opm (t : Table) (k i : Nat) : Nat := cfgGet t (fidBlock k (0x50 + i))
/-- Memory cell configuration word. -/
def mcc (t : Table) (m : Nat) : Nat := cfgGet t (fidCell m 0)
/-- Generator control word g. -/
def agc (t : Table) (m g : Nat) : Nat := cfgGet t (fidCell m (1 + g))
/-- Generator loop word g. -/
def agl (t : Table) (m g : Nat) : Nat := cfgGet t (fidCell m (5 + g))
/-- Switch word i of box b. -/
def sw (t : Table) (b i : Nat) : Nat := cfgGet t (fidBox b i)

/-- OUT of a switch word (R110). -/
def swOut (w : Nat) : Nat := fld w 13 3
/-- IN. -/
def swIn (w : Nat) : Nat := fld w 10 3
/-- TYPE. -/
def swType (w : Nat) : Nat := fld w 6 4
/-- MCG. -/
def swMcg (w : Nat) : Nat := fld w 4 2

/-- The switch words in use of box b: index and word (R128: 0x0000 is unused). -/
def boxWords (t : Table) (b : Nat) : List (Nat × Nat) :=
  ((List.range 8).map (fun i => (i, sw t b i))).filter (fun e => e.2 != 0)

/-- The box of compute cell k (R96). -/
def ccBox (k : Nat) : Nat := 4 * (k / 2) + 2 * (k % 2) + k / 2 % 2
/-- The box of memory cell m (R96). -/
def mcBox (m : Nat) : Nat := 4 * (m / 2) + 2 * (m % 2) + (1 - m / 2 % 2)

/-- The cell at a box: compute (true) or memory, and its number (R96). -/
def boxCell (b : Nat) : Bool × Nat :=
  let r := b / 4
  let c := b % 4
  if r % 2 = 0 then (c % 2 == 0, 2 * r + c / 2) else (c % 2 == 1, 2 * r + c / 2)

/-- The box in a direction (0 N, 1 E, 2 S, 3 W), none at the edge of the field (R96). -/
def boxStep (b dir : Nat) : Option Nat :=
  match dir with
  | 0 => if 4 ≤ b then some (b - 4) else none
  | 1 => if b % 4 < 3 then some (b + 1) else none
  | 2 => if b < 12 then some (b + 4) else none
  | _ => if b % 4 = 0 then none else some (b - 1)

/-- The direction a word sent towards dir comes from. -/
def opposite (dir : Nat) : Nat := (dir + 2) % 4

/-- The floe and box across an edge of the field on the die mesh (R13, R110, log entry 15), none at the die's edge. -/
def meshStep (f b dir : Nat) : Option (Nat × Nat) :=
  let die := f / 36
  let row := f % 36 / 6
  let col := f % 6
  match dir with
  | 0 => if row = 0 then none else some (36 * die + 6 * (row - 1) + col, 12 + b % 4)
  | 1 => if col = 5 then none else some (f + 1, b / 4 * 4)
  | 2 => if row = 5 then none else some (36 * die + 6 * (row + 1) + col, b % 4)
  | _ => if col = 0 then none else some (f - 1, b / 4 * 4 + 3)

/-- Switch word i of box b with its IN and OUT. -/
def boxFind (t : Table) (b : Nat) (h : Nat → Bool) : Option Nat := (boxWords t b).findSome? (fun e => if h e.2 then some e.2 else none)

/-- A route that enters box b from direction dir ends at a local port of this floe within n boxes (R85). -/
def routeLocal (t : Table) : Nat → Nat → Nat → Bool
  | 0, _, _ => false
  | n + 1, b, dir =>
    ((boxWords t b).filter (fun e => swIn e.2 == dir)).all (fun e =>
      if 4 ≤ swOut e.2 then true
      else match boxStep b (swOut e.2) with
        | some b' => routeLocal t n b' (opposite (swOut e.2))
        | none => false)

/-- The switch words that carry branch m of the replication point at ip port N (R85, R110). -/
def branchWords (t : Table) (port m : Nat) : List Nat :=
  ((boxWords t (ccBox (port / 2))).filter (fun e => swIn e.2 == 4 + port % 2 && swMcg e.2 == m)).map (fun e => e.2)

/-- The selected branches of a mask. -/
def maskBits (b : Nat) (n : Nat) : List Nat := (List.range n).filter (fun i => b.testBit i)

/-- Every selected branch of the replication port has a route (R429). -/
def branchesRouted (t : Table) (port mask : Nat) : Bool :=
  (maskBits mask 4).all (fun m => ! (branchWords t port m).isEmpty)

/-- Every selected branch ends on this floe (R85). -/
def branchesLocal (t : Table) (port mask : Nat) : Bool :=
  (maskBits mask 4).all (fun m => (branchWords t port m).all (fun w =>
    if 4 ≤ swOut w then true
    else match boxStep (ccBox (port / 2)) (swOut w) with
      | some b => routeLocal t 16 b (opposite (swOut w))
      | none => false))

/-- The configuration new streams are checked against: that of the issue generation (R133). -/
def issueCfg (c : CfgSt) : Table := if c.igen == c.gen then c.cur else c.pend

end Sys2Proof.Machine
end

