-- ==== Sys2Proof/Machine/Streams.lean ====
section
/-!
DEFINITION. The issue of stream commands, pattern registers, tags and scratchpad barriers (R76-R95, R406, R420-R444).
-/

namespace Sys2Proof.Machine

/-! ## Pattern registers (R78-R80) -/

/-- A pattern field a command reads. -/
def patW (p : List Word) (i : Nat) : Word := p.getD i 0
/-- NL. -/
def patLoops (p : List Word) : Nat := wb (patW p 0) 0 3 + 1
/-- KIND: indirect. -/
def patIndirect (p : List Word) : Bool := (patW p 0).getLsbD 3
/-- ITN. -/
def patItn (p : List Word) : BitVec 4 := BitVec.ofNat 4 (wb (patW p 0) 4 4)
/-- CNT of loop l as written. -/
def patCnt (p : List Word) (l : Nat) : Nat := wb (patW p (l + 1)) 0 24
/-- DI of loop l. -/
def patDi (p : List Word) (l : Nat) : Int := sextN 16 (wb (patW p (l + 1)) 32 16)
/-- DJ of loop l. -/
def patDj (p : List Word) (l : Nat) : Int := sextN 16 (wb (patW p (l + 1)) 48 16)

/-- Count(l) of R80 for a window of rows and columns. -/
def patCount (p : List Word) (rows cols l : Nat) : Nat :=
  if patCnt p l = 0 then (if l = 0 then cols else if l = 1 then rows else 0) else patCnt p l

/-- The counts of the loops, loop 0 first. -/
def patCounts (p : List Word) (rows cols : Nat) : List Nat := (List.range (patLoops p)).map (patCount p rows cols)

/-- Product of a list. -/
def prodNat (l : List Nat) : Nat := l.foldl (fun a b => a * b) 1

/-- Loop counters of point n, loop 0 first. -/
def pointOf : List Nat → Nat → List Nat
  | [], _ => []
  | c :: cs, n => n % max 1 c :: pointOf cs (n / max 1 c)

/-- Sum of counters times steps. -/
def stepSum (h : Nat → Int) : Nat → List Nat → Int
  | _, [] => 0
  | l, c :: cs => (c : Int) * h l + stepSum h (l + 1) cs

/-- The point (i, j) of R80 at loop counters cs. -/
def patPoint (p : List Word) (cs : List Nat) : Int × Int := (stepSum (patDi p) 0 cs, stepSum (patDj p) 0 cs)

/-- Lowest and highest of a coordinate over the whole nest. -/
def stepSpan (h : Nat → Int) : Nat → List Nat → Int × Int
  | _, [] => (0, 0)
  | l, c :: cs =>
    let m : Int := ((c - 1 : Nat) : Int) * h l
    let r := stepSpan h (l + 1) cs
    (min 0 m + r.1, max 0 m + r.2)

/-- TILE 0x19 for an affine pattern's counts (R81); scon for SCON and SREC, which have no window. -/
def patBad19 (p : List Word) (rows cols : Nat) (windowless : Bool) : Bool :=
  patIndirect p ||
    (List.range (patLoops p)).any (fun l => patCnt p l == 0 && (decide (2 ≤ l) || windowless)) ||
    decide (1024 < patCount p rows cols 0) || decide (2 ^ 48 - 1 < prodNat (patCounts p rows cols))

/-- TILE 0x19 for an indirect pattern: the kind, and a count of 0 in loop 2 or above (R81). -/
def patBad19i (p : List Word) : Bool :=
  ! patIndirect p || (List.range (patLoops p)).any (fun l => patCnt p l == 0 && decide (2 ≤ l))

/-- TILE 0x18: a point outside the window, by the extreme points of every loop (R81). -/
def patBad18 (p : List Word) (rows cols : Nat) : Bool :=
  let cs := patCounts p rows cols
  let i := stepSpan (patDi p) 0 cs
  let j := stepSpan (patDj p) 0 cs
  decide (i.1 < 0) || decide ((rows : Int) ≤ i.2) || decide (j.1 < 0) || decide ((cols : Int) ≤ j.2)

/-- A value SPAT refuses (R78, R431). -/
def patFieldBad (pf : Nat) (v : Word) : Bool :=
  if pf = 0 then wb v 8 56 != 0 || wb v 0 3 == 7
  else if pf ≤ 7 then wb v 24 8 != 0
  else false

/-- SPAT (R79, R431). -/
def execSpat (g : Guard) (sp : BitVec 3) (pf a : BitVec 5) (s : State) : Host.Outcome State Fault Refusal :=
  nextD s (fun d => issueS d g [a] [.pat sp] (fun d =>
    if patFieldBad pf.toNat (rs d a) then trapIllegal d 5
    else retire (modCur d (fun t => { t with
      pats := t.pats.set sp.toNat ((t.pats.getD sp.toNat []).set pf.toNat (rs d a)) }))))

/-! ## Checks at issue (R81, R406) -/

/-- A check that may raise a fault. -/
abbrev Check := Option (Nat × Nat)

/-- The first fault of a list of checks in order. -/
def firstFault : List Check → Check
  | [] => none
  | some x :: _ => some x
  | none :: cs => firstFault cs

/-- A TILE fault when a test holds. -/
def tileIf (c : Nat) (b : Bool) : Check := if b then some (4, c) else none

/-- SPACE of a view: LV is not reachable; then R172 and R288. -/
def spaceCheck (d : Data) (v : View) : Check :=
  if lteSpace v.lte = 2 then some (3, 1) else badSpace d v

/-- A check, where it raises the given cause. -/
def onlyCause (n : Nat) (c : Check) : Check := c.filter (fun x => x.2 == n)

/-- Checks of several tiles, each of cause m or n: the first cause of any tile goes before the second of any (R406). -/
def causeOrder (m n : Nat) (cs : List Check) : List Check := cs.map (onlyCause m) ++ cs.map (onlyCause n)

/-- TILE 0x11, then 0x12. -/
def bindCheck (v : View) : Check := firstFault [tileIf 0x11 (bad11 v), tileIf 0x12 (bad12 v)]

/-- TILE 0x13 of a window. -/
def raggedCheck (v : View) : Check := tileIf 0x13 (winRagged v && shPol v.shape == 2)

/-- TILE 0x14, then 0x15. -/
def extentCheck (v : View) : Check := if badExtent v = 0 then none else some (4, badExtent v)

/-- The data tile of SGTH and SSCT as its indices can reach it: any row in range (R82). The window a row at a time: its
row origin at 0 and every row of the extent. -/
def gatherView (v : View) : View :=
  { v with
    shape := w64 (setBits v.shape.toNat 0 10 (min 1023 (lteExt v.lte v.bind.rdim.toNat - 1)))
    bind := { v.bind with origin := v.bind.origin.set v.bind.rdim.toNat 0 } }

/-- The in-range elements of all rows of the gather view, as a box. -/
def gatherBox (v : View) : Option (List (Int × Int)) :=
  let b := (List.range (vRank v)).map (fun x =>
    if 2 ≤ vRank v ∧ x = v.bind.rdim.toNat then (0, (lteExt v.lte x : Int) - 1) else winSpan v x)
  if b.all (fun r => decide (r.1 ≤ r.2)) then some b else none

/-- SPACE of a gathered or scattered tile: every row an index can name. -/
def gatherSpace (d : Data) (v : View) : Check :=
  if lteSpace v.lte = 2 then some (3, 1)
  else match spaceForm d (ltePlace v.lte) (lteBase v.lte) (lteBase v.lte) with
    | some fc => some fc
    | none => match gatherBox v with
      | none => none
      | some b =>
        let r := rangesSpan (boxRanges v.lte b)
        spaceFormI d (ltePlace v.lte) r.1 r.2

/-- Column raggedness of a gathered tile (R82). -/
def gatherRagged (v : View) : Bool :=
  match gatherBox v with
  | none => true
  | some b =>
    decide (((b.getD v.bind.cdim.toNat (0, -1)).2 - (b.getD v.bind.cdim.toNat (0, -1)).1 + 1).toNat ≠ shCols v.shape)

/-- TILE 0x14 and 0x15 over every row an index can name. -/
def gatherExtent (v : View) : Check :=
  match gatherBox v with
  | none => none
  | some b =>
    let rs := boxRanges v.lte b
    let cell : Int := ((lteBase v.lte / 2 ^ 19 : Nat) : Int)
    if lteSpace v.lte = 0 ∧ rs.any (fun r => decide (r.1 / 2 ^ 19 ≠ cell) || decide (r.2 / 2 ^ 19 ≠ cell)) then some (4, 0x14)
    else tileIf 0x15 (rs.any (fun r => decide (r.1 < 0) || decide (2 ^ 52 ≤ r.2)))

/-- SSCT modes a format allows (R83). -/
def scatterOk (mode : BitVec 2) (fmt : Nat) : Bool :=
  mode == 0 || fmt == 0 || fmt == 1 || fmt == 2 || fmt == 10 || fmt == 8

/-- Two ranges, lowest and highest byte, have a byte in common. -/
def spansMeet (r q : Int × Int) : Bool := decide (r.1 ≤ q.2) && decide (q.1 ≤ r.2)

/-- Byte ranges of two windows intersect in one space, each from its lowest to its highest byte (R74, R81). -/
def windowsMeet (d : Data) (f : Nat) (a b : View) : Bool :=
  let key : View → Nat × Nat × Nat := fun v =>
    let e := v.lte
    if lteSpace e = 6 then (if ltePmod e = d.modid.toNat then (ltePsp e, 0, 0) else (6, ltePsp e, ltePmod e))
    else if lteSpace e = 0 then (0, f, 0) else (lteSpace e, 0, 0)
  key a == key b &&
    (match winBox a, winBox b with
      | some x, some y => spansMeet (rangesSpan (boxRanges a.lte x)) (rangesSpan (boxRanges b.lte y))
      | _, _ => false)

/-- What a command asks for: its kind, operands and copies (R66, R79). -/
structure Want where
  kind : CmdKind
  tag : BitVec 6
  ip : Option (BitVec 4)
  op : Option (BitVec 4)
  tiles : List (Option View)
  pat : List Word
  branches : BitVec 4
  space : BitVec 4
  reads : Bool
  writes : Bool
  deriving DecidableEq, Repr

/-- The tiles of a command that are bound and valid. -/
def wantViews (w : Want) : List View := w.tiles.filterMap id

/-- No memory access outside FLOE (R81, R84-R86). -/
def wantLocal (cfg : Table) (w : Want) : Bool :=
  (wantViews w).all vLocal && (match w.kind with
    | .smcs => (match w.ip with
      | some p => branchesLocal cfg p.toNat w.branches.toNat
      | none => false)
    | _ => true)

/-- Step 4 and 5 of R406: pattern kind and counts, the index tile, points. -/
def patternChecks (w : Want) : List Check :=
  let v := (wantViews w).headD { lte := [], shape := 0, bind := { entry := 0, shape := 0, rdim := 0, cdim := 1, origin := [] } }
  let rows := shRows v.shape
  let cols := shCols v.shape
  match w.kind with
  | .srd => [tileIf 0x19 (patBad19 w.pat rows cols false), tileIf 0x18 (patBad18 w.pat rows cols)]
  | .swr => [tileIf 0x19 (patBad19 w.pat rows cols false), tileIf 0x18 (patBad18 w.pat rows cols)]
  | .smcs => [tileIf 0x19 (patBad19 w.pat rows cols false), tileIf 0x18 (patBad18 w.pat rows cols)]
  | .srec => [tileIf 0x19 (patBad19 w.pat 0 0 true)]
  | .sconC => [tileIf 0x19 (patBad19 w.pat 0 0 true)]
  | .sconI => [tileIf 0x19 (patBad19 w.pat 0 0 true)]
  | .sgth => [tileIf 0x19 (patBad19i w.pat), indexCheck]
  | .ssct _ => [tileIf 0x19 (patBad19i w.pat), indexCheck]
  | .smov => []
  | .sbar _ => []
where
  /-- TILE 0x1A of the index tile. -/
  indexCheck : Check :=
    match (wantViews w)[1]? with
    | some x => tileIf 0x1A (lteFmt x.lte != 10 || shRows x.shape != 1)
    | none => some (4, 0x1A)

/-- Step 6 of R406. -/
def pairChecks (d : Data) (w : Want) : List Check :=
  match w.kind, wantViews w with
  | .ssct m, v :: _ => [tileIf 0x1B (! scatterOk m (lteFmt v.lte))]
  | .smov, a :: b :: _ =>
    [tileIf 0x1C (shRows a.shape != shRows b.shape || shCols a.shape != shCols b.shape || lteFmt a.lte != lteFmt b.lte),
     tileIf 0x22 (windowsMeet d d.curF a b)]
  | _, _ => []

/-- The data tile is reached by index. -/
def isGather (k : CmdKind) : Bool :=
  match k with
  | .sgth => true
  | .ssct _ => true
  | _ => false

/-- Steps 7 and 8 of R406. -/
def windowChecks (w : Want) : List Check :=
  if isGather w.kind then
    match wantViews w with
    | v :: x :: _ =>
      [tileIf 0x13 (gatherRagged v && shPol v.shape == 2), raggedCheck x] ++ causeOrder 0x14 0x15 [gatherExtent v, extentCheck x]
    | _ => []
  else (wantViews w).map raggedCheck ++ causeOrder 0x14 0x15 ((wantViews w).map extentCheck)

/-- CFGCHK 0x08: every port named is exposed, and the branches of SMCS are routed (R81, R429). -/
def portChecks (cfg : Table) (w : Want) : List Check :=
  [(match w.ip with
      | some p => if exposed cfg p.toNat then none else some (0x0A, 8)
      | none => none),
   (match w.op with
      | some p => if exposed cfg (16 + p.toNat) then none else some (0x0A, 8)
      | none => none),
   (match w.kind, w.ip with
      | .smcs, some p => if branchesRouted cfg p.toNat w.branches.toNat then none else some (0x0A, 8)
      | _, _ => none)]

/-- The issue checks of R406 in its order. -/
def wantCheck (d : Data) (w : Want) : Check :=
  let cfg := issueCfg (getFloe d d.curF).cfg
  firstFault ([tileIf 0x10 (w.tiles.any Option.isNone)]
    ++ (if isGather w.kind then
          (match wantViews w with
            | v :: x :: _ => [gatherSpace d v, spaceCheck d x]
            | _ => [])
        else (wantViews w).map (spaceCheck d))
    ++ causeOrder 0x11 0x12 ((wantViews w).map bindCheck)
    ++ patternChecks w ++ pairChecks d w ++ windowChecks w
    ++ [tileIf 0x1D (w.tag != 0 && wantLocal cfg w)] ++ portChecks cfg w)

/-- A tag bit of the TP. -/
def tagBit (g : BitVec 6) : Word := w64 (2 ^ g.toNat)

/-- k.TAGS without bit g (R91); bit 0 stays 0. -/
def clearTag (t : Tp) (g : BitVec 6) : Tp := { t with tags := t.tags &&& ~~~ tagBit g }

/-- k.TAGS with bit g set (R91). -/
def setTag (t : Tp) (g : BitVec 6) : Tp := if g = 0 then t else { t with tags := t.tags ||| tagBit g }

/-- A command of the TP begins: its tag is cleared and it counts as incomplete (R91), and a counted write is numbered
(R201). -/
def beginCmd (t : Tp) (g : BitVec 6) (counted : Bool) : Tp :=
  let t := if g = 0 then t else clearTag t g
  let t := { t with busy := t.busy ++ [g] }
  if counted then { t with wi := t.wi + 1, undone := t.undone ++ [t.wi + 1] } else t

/-- The memory accesses of a TP that have not performed. -/
def pendAccesses (t : Tp) : List Nat :=
  (t.pends.filter (fun p => match p.kind with
    | .div => false
    | .mul => false
    | _ => true)).map (fun p => p.id)

/-- The command writes outside FLOE: it is a counted write (R201). Its first tile is the one it writes. -/
def wantCounted (w : Want) : Bool := w.writes && (match w.tiles.headD none with
  | some v => ! vLocal v
  | none => false)

/-- The entry a command takes (R87). -/
def newCmd (d : Data) (w : Want) : Cmd :=
  let fl := getFloe d d.curF
  let t := curTp d
  let loc := wantLocal (issueCfg fl.cfg) w
  { kind := w.kind, st := (match w.kind with
      | .sbar _ => .barrier
      | _ => .queued),
    slot := d.curK, owner := t.owner, tag := w.tag, ip := w.ip, op := w.op, gen := fl.cfg.igen,
    tile := w.tiles.headD none, tile2 := (w.tiles.drop 1).headD none, pat := w.pat, branches := w.branches,
    space := w.space, floeLocal := loc, no := fl.issueNo, start := 0, pos := 0, words := 0, sub := 0,
    points := List.replicate 4 0, inflight := [], idxs := [], idxNext := 0, idxWord := 0, wno := if wantCounted w then t.wi + 1 else 0,
    after := if loc then [] else pendAccesses t, killed := none }

/-- The command takes entry e of the floe's stream table. -/
def takeEntry (d : Data) (e : Nat) (w : Want) : Data :=
  let c := newCmd d w
  let d := modFloe d d.curF (fun fl => { fl with streams := fl.streams.set e (some c), issueNo := fl.issueNo + 1 })
  match w.kind with
  | .sbar _ => d
  | _ => modCur d (fun t => beginCmd t w.tag (wantCounted w))

/-- A CFGCHK raised by an instruction is the last one that CFGQ gives (R132); it changes nothing else of the configuration
(R131, log entry 46). -/
def noteCause (d : Data) (cls cause : Nat) : Data :=
  if cls = 0x0A then
    modFloe d d.curF (fun fl => { fl with cfg := { fl.cfg with lastCause := BitVec.ofNat 8 cause } })
  else d

/-- Issue of a stream command (R406): the stalls, the checks, the entry. -/
def streamIssue (d : Data) (w : Want) : Data :=
  if w.tag != 0 && (curTp d).busy.contains w.tag then blockCur d (.stall (.tag w.tag))
  else match streamFree (getFloe d d.curF) with
    | none => blockCur d (.stall .entry)
    | some e =>
      whenFree d w.reads w.writes false (fun d =>
        match wantCheck d w with
        | some (cls, cause) => trap (noteCause d cls cause) cls cause
        | none => retire (takeEntry d e w))

/-- The pattern register a command copies (R79). -/
def curPat (d : Data) (sp : BitVec 3) : List Word := (curTp d).pats.getD sp.toNat []

/-- A command with no ports, tiles or pattern. -/
def want0 (k : CmdKind) : Want :=
  { kind := k, tag := 0, ip := none, op := none, tiles := [], pat := [], branches := 0, space := 0, reads := true,
    writes := false }

/-- SRD (R432). -/
def execSrd (g : Guard) (t port : BitVec 4) (tag : BitVec 6) (sp : BitVec 3) (s : State) :
    Host.Outcome State Fault Refusal :=
  nextD s (fun d => issueS d g [] (.pat sp :: viewRegs (curTp d) t) (fun d => streamIssue d
    { want0 .srd with tag := tag, ip := some port, tiles := [curView d t], pat := curPat d sp }))

/-- SWR (R438). -/
def execSwr (g : Guard) (t port : BitVec 4) (tag : BitVec 6) (sp : BitVec 3) (s : State) :
    Host.Outcome State Fault Refusal :=
  nextD s (fun d => issueS d g [] (.pat sp :: viewRegs (curTp d) t) (fun d => streamIssue d
    { want0 .swr with tag := tag, op := some port, tiles := [curView d t], pat := curPat d sp, writes := true }))

/-- The registers SGTH and SSCT use: the pattern register and those of its data tile and its index tile. -/
def gatherRegs (d : Data) (t : BitVec 4) (sp : BitVec 3) : List SpecReg :=
  .pat sp :: viewRegs (curTp d) t ++ viewRegs (curTp d) (patItn (curPat d sp))

/-- The tiles of SGTH and SSCT: the data tile and the index tile the pattern names. -/
def gatherTiles (d : Data) (t : BitVec 4) (sp : BitVec 3) : List (Option View) :=
  [curView d t, curView d (patItn (curPat d sp))]

/-- SGTH (R425). -/
def execSgth (g : Guard) (t port : BitVec 4) (tag : BitVec 6) (sp : BitVec 3) (s : State) :
    Host.Outcome State Fault Refusal :=
  nextD s (fun d => issueS d g [] (gatherRegs d t sp) (fun d => streamIssue d
    { want0 .sgth with tag := tag, ip := some port, tiles := gatherTiles d t sp, pat := curPat d sp }))

/-- SSCT in a mode (R434). -/
def scatterIssue (g : Guard) (mode : BitVec 2) (t port : BitVec 4) (tag : BitVec 6) (sp : BitVec 3) (d : Data) : Data :=
  issueS d g [] (gatherRegs d t sp) (fun d => streamIssue d
    { want0 (.ssct mode) with tag := tag, op := some port, tiles := gatherTiles d t sp, pat := curPat d sp, writes := true })

/-- SSCT.st (R434). -/
def execSsctSt (g : Guard) (t port : BitVec 4) (tag : BitVec 6) (sp : BitVec 3) (s : State) :
    Host.Outcome State Fault Refusal := nextD s (scatterIssue g 0 t port tag sp)
/-- SSCT.add (R434). -/
def execSsctAdd (g : Guard) (t port : BitVec 4) (tag : BitVec 6) (sp : BitVec 3) (s : State) :
    Host.Outcome State Fault Refusal := nextD s (scatterIssue g 1 t port tag sp)
/-- SSCT.max (R434). -/
def execSsctMax (g : Guard) (t port : BitVec 4) (tag : BitVec 6) (sp : BitVec 3) (s : State) :
    Host.Outcome State Fault Refusal := nextD s (scatterIssue g 2 t port tag sp)
/-- SSCT.min (R434). -/
def execSsctMin (g : Guard) (t port : BitVec 4) (tag : BitVec 6) (sp : BitVec 3) (s : State) :
    Host.Outcome State Fault Refusal := nextD s (scatterIssue g 3 t port tag sp)

/-- SREC (R433): it makes no memory access, so no fence holds it (R84, R181). -/
def execSrec (g : Guard) (op ip : BitVec 4) (sp : BitVec 3) (s : State) : Host.Outcome State Fault Refusal :=
  nextD s (fun d => issueS d g [] [.pat sp] (fun d => streamIssue d
    { want0 .srec with ip := some ip, op := some op, pat := curPat d sp, reads := false }))

/-- SCON.c (R422): it makes no memory access (R84, R181). -/
def execSconC (g : Guard) (ip : BitVec 4) (sp : BitVec 3) (s : State) : Host.Outcome State Fault Refusal :=
  nextD s (fun d => issueS d g [] [.pat sp] (fun d => streamIssue d { want0 .sconC with ip := some ip, pat := curPat d sp, reads := false }))

/-- SCON.i (R422). -/
def execSconI (g : Guard) (ip : BitVec 4) (sp : BitVec 3) (s : State) : Host.Outcome State Fault Refusal :=
  nextD s (fun d => issueS d g [] [.pat sp] (fun d => streamIssue d { want0 .sconI with ip := some ip, pat := curPat d sp, reads := false }))

/-- SMCS (R429). -/
def execSmcs (g : Guard) (t port : BitVec 4) (tag : BitVec 6) (sp : BitVec 3) (b : BitVec 4) (s : State) :
    Host.Outcome State Fault Refusal :=
  nextD s (fun d => issueS d g [] (.pat sp :: viewRegs (curTp d) t) (fun d => streamIssue d
    { want0 .smcs with tag := tag, ip := some port, tiles := [curView d t], pat := curPat d sp, branches := b }))

/-- SMOV (R430): the destination is the first tile. -/
def execSmov (g : Guard) (td ta : BitVec 4) (tag : BitVec 6) (s : State) : Host.Outcome State Fault Refusal :=
  nextD s (fun d => issueS d g [] (viewRegs (curTp d) td ++ viewRegs (curTp d) ta) (fun d => streamIssue d
    { want0 .smov with tag := tag, tiles := [curView d td, curView d ta], writes := true }))

/-- A barrier takes its entry (R95): it waits only for a free one. -/
def barrierIssue (d : Data) (w : Want) : Data :=
  match streamFree (getFloe d d.curF) with
  | none => blockCur d (.stall .entry)
  | some e => retire (takeEntry d e { w with reads := false })

/-- The checks of SBAR's tile, in the order of R406: all but TILE 0x13, for it moves no window (R54, R81). -/
def barrierCheck (d : Data) (v : View) : Check := firstFault [spaceCheck d v, bindCheck v, extentCheck v]

/-- SBAR (R95, R420): TILE 0x10 if the tile is unbound, then the other checks of its tile (R81, R406; log entry 137). -/
def execSbar (g : Guard) (t : BitVec 4) (s : State) : Host.Outcome State Fault Refusal :=
  nextD s (fun d => issueS d g [] (viewRegs (curTp d) t) (fun d =>
    match streamFree (getFloe d d.curF), curView d t with
    | none, _ => blockCur d (.stall .entry)
    | _, none => trap d 4 0x10
    | _, some v => match barrierCheck d v with
      | some (cls, cause) => trap d cls cause
      | none => barrierIssue d { want0 (.sbar 0) with tiles := [some v] }))

/-- SBAR.sp (R95). -/
def execSbarSp (g : Guard) (space : BitVec 4) (s : State) : Host.Outcome State Fault Refusal :=
  nextD s (fun d => issue d g [] (fun d => barrierIssue d { want0 (.sbar 1) with space := space }))

/-- SBAR.all (R95). -/
def execSbarAll (g : Guard) (s : State) : Host.Outcome State Fault Refusal :=
  nextD s (fun d => issue d g [] (fun d => barrierIssue d (want0 (.sbar 2))))

/-! ## Tags (R93, R440, R441, R444) -/

/-- The mask of R93: s[a] and not 1. -/
def tagMask (v : Word) : Word := v &&& ~~~ 1#64

/-- The wait of a TWAIT is over (R93). -/
def twaitDone (t : Tp) (all : Bool) (m : Word) : Bool :=
  if all then t.tags &&& m == m else m == 0 || t.tags &&& m != 0

/-- Bit g of a mask can never be set: clear and named by no incomplete command of the TP (R93). -/
def deadTag (t : Tp) (g : Nat) : Bool := ! t.tags.getLsbD g && ! t.busy.contains (BitVec.ofNat 6 g)

/-- A TWAIT can never be satisfied (R93). -/
def twaitHangs (t : Tp) (all : Bool) (m : Word) : Bool :=
  if all then (List.range 64).any (fun g => m.getLsbD g && deadTag t g)
  else m != 0 && (List.range 64).all (fun g => ! m.getLsbD g || deadTag t g)

/-- TWAIT's effect (R93, R444): HANG 0x01, the end of the wait, or the wait. -/
def twait (d : Data) (all : Bool) (m : Word) : Data :=
  if twaitHangs (curTp d) all m then trap d 0x0D 1
  else if twaitDone (curTp d) all m then retire d
  else blockCur d (.twait all m)

/-- TWAIT.all (R93). -/
def execTwaitAll (g : Guard) (a : BitVec 5) (s : State) : Host.Outcome State Fault Refusal :=
  nextD s (fun d => issue d g [a] (fun d => twait d true (tagMask (rs d a))))

/-- TWAIT.any (R93). -/
def execTwaitAny (g : Guard) (a : BitVec 5) (s : State) : Host.Outcome State Fault Refusal :=
  nextD s (fun d => issue d g [a] (fun d => twait d false (tagMask (rs d a))))

/-- TFFR (R93, R441). -/
def execTffr (g : Guard) (d a : BitVec 5) (s : State) : Host.Outcome State Fault Refusal :=
  nextD s (fun dd => issueWrite dd g [a] d (fun dd =>
    let m := (curTp dd).tags &&& tagMask (rs dd a)
    if m = 0 then 0 else w64 (trailZeros m 0 64)))

/-- TCLR (R93, R440). -/
def execTclr (g : Guard) (a : BitVec 5) (s : State) : Host.Outcome State Fault Refusal :=
  nextD s (fun d => issue d g [a] (fun d =>
    retire (modCur d (fun t => { t with tags := t.tags &&& ~~~ tagMask (rs d a) }))))

/-- The wait of a TWAIT in slot k ends, if it is over. -/
def twaitWake (d : Data) (f k : Nat) : Data :=
  match (getSlot d f k).block with
  | .twait all m => if twaitDone (getTp d f k) all m then retireAt d f k else d
  | _ => d

/-- TWAIT_WAKE: the wait of a TWAIT ends (R93, R444). -/
def execTwaitWake (f k : Nat) (s : State) : Host.Outcome State Fault Refusal := nextD s (fun d => twaitWake d f k)

end Sys2Proof.Machine
end

