-- ==== Sys2Proof/Machine/FieldQ.lean ====
section
/-!
DEFINITION. The queues of the field (R97, R107, R111): names, room, entering and leaving, parity, error and end tokens and
the error sink (R108).
-/

namespace Sys2Proof.Machine

/-- Keys without repeats. -/
def dedup (l : List Nat) : List Nat := l.foldr (fun x acc => if acc.contains x then acc else x :: acc) []

/-! ## Words (R107) -/

/-- All 128 data bits set. -/
def quadOnes : Quad := BitVec.allOnes 128

/-- An error token. -/
def isErr (w : FWord) : Bool := w.mask == 15 && w.psn

/-- A bare end token. -/
def isBare (w : FWord) : Bool := w.mask == 15 && ! w.psn && w.fin != 0 && w.data == quadOnes

/-- A data word. -/
def isData (w : FWord) : Bool := ! isErr w && ! isBare w

/-- A bare end token of a level, with the sideband of a word. -/
def bareEnd (level ridx : Nat) (gen : Bool) : FWord :=
  { data := quadOnes, ridx := BitVec.ofNat 24 ridx, fin := BitVec.ofNat 3 level, gen := gen, psn := false, mask := 15 }

/-- The data bits of an error token. -/
def errData (cls lvl ports org a b : Nat) : Quad :=
  BitVec.ofNat 128 (cls % 256 + atBit lvl 8 8 + atBit ports 16 8 + atBit org 24 8 + atBit a 64 32 + atBit b 96 32)

/-- An error token. -/
def errTok (cls lvl ports org a b ridx level : Nat) (gen : Bool) : FWord :=
  { data := errData cls lvl ports org a b, ridx := BitVec.ofNat 24 ridx, fin := BitVec.ofNat 3 level, gen := gen,
    psn := true, mask := 15 }

/-- A word's END as a number. -/
def wEnd (w : FWord) : Nat := w.fin.toNat

/-- A word with another END. -/
def withEnd (w : FWord) (l : Nat) : FWord := { w with fin := BitVec.ofNat 3 l }

/-- Data bits with the quarters of a mask zero. -/
def maskData (m : BitVec 4) (q : Nat) : Nat :=
  sumNat ((List.range 4).map (fun i => if m.getLsbD i then 0 else atBit (q / 2 ^ (32 * i)) (32 * i) 32))

/-- A data word: its masked quarters hold zero (R107). -/
def dataWord (data ridx level : Nat) (gen psn : Bool) (mask : BitVec 4) : FWord :=
  { data := BitVec.ofNat 128 (maskData mask data), ridx := BitVec.ofNat 24 ridx, fin := BitVec.ofNat 3 level, gen := gen,
    psn := psn, mask := mask }

/-! ## Queue names and capacities (R97, R111) -/

/-- Words a queue holds. -/
def qCap : QId → Nat
  | .ip _ => 16
  | .op _ => 16
  | .rq _ => 8
  | .wq _ => 8
  | _ => 2

/-- The entries of a queue, oldest first. -/
def qGet (fd : Field) : QId → List QEnt
  | .ip n => fd.ipq.getD n []
  | .op n => fd.opq.getD n []
  | .rq n => fd.rq.getD n []
  | .wq n => fd.wq.getD n []
  | .link n => fd.links.getD n []
  | .agIn n => fd.agIn.getD n []
  | .agOut n => fd.agOut.getD n []

/-- The field with other entries in a queue. -/
def qSet (fd : Field) (q : QId) (l : List QEnt) : Field :=
  match q with
  | .ip n => { fd with ipq := fd.ipq.set n l }
  | .op n => { fd with opq := fd.opq.set n l }
  | .rq n => { fd with rq := fd.rq.set n l }
  | .wq n => { fd with wq := fd.wq.set n l }
  | .link n => { fd with links := fd.links.set n l }
  | .agIn n => { fd with agIn := fd.agIn.set n l }
  | .agOut n => { fd with agOut := fd.agOut.set n l }

/-- The queue on side s (0 N, 1 E, 2 S, 3 W) of compute cell k. -/
def cellSide (k s : Nat) : Nat := 4 * k + s

/-- The queue an output port map of compute cell k names (R103). -/
def opmQueue (k o : Nat) : Option QId :=
  if o.testBit 15 then
    (match fld o 10 5 with
      | 0 => some (.op (2 * k))
      | 1 => some (.op (2 * k + 1))
      | n => some (.wq (cellSide k (n - 2))))
  else none

/-- The queue an input port map of compute cell k names. -/
def ipmQueue (k i : Nat) : Option QId :=
  if i.testBit 31 then
    (match fld i 26 5 with
      | 0 => some (.ip (2 * k))
      | 1 => some (.ip (2 * k + 1))
      | n => some (.rq (cellSide k (n - 2))))
  else none

/-- The compute cell on side s of memory cell m, with the side of that cell the memory cell lies on: none when there is
none (R96). -/
def cellAt (m s : Nat) : Option (Nat × Nat) :=
  match boxStep (mcBox m) s with
  | none => none
  | some b => if (boxCell b).1 then some ((boxCell b).2, opposite s) else none

/-- Where a read generator's words go, or a write generator's data come from (R101): dest is a code of DEST. -/
def genQueue (m g dest : Nat) (read : Bool) : Option QId :=
  if dest = 4 then some (if read then .agOut (4 * m + g) else .agIn (4 * m + g))
  else match cellAt m dest with
    | none => none
    | some (k, s) => some (if read then .rq (cellSide k s) else .wq (cellSide k s))

/-- Entries of a queue that commits of compute cell k have reserved (R105). -/
def groupReserved (cfg : Table) (fd : Field) (k : Nat) (q : QId) : Nat :=
  sumNat ((List.range 8).map (fun o =>
    if opmQueue k (opm cfg k o) == some q then
      sumNat (((fd.groups.getD k Group.reset).commits).map (fun c => c.reserve.getD o 0))
    else 0))

/-- Words a read generator has read that are on their way to a queue. -/
def genReserved (cfg : Table) (fd : Field) (q : QId) : Nat :=
  sumNat ((List.range 32).map (fun n =>
    let m := n / 4
    let c := agc cfg m (n % 4)
    if c.testBit 60 && ! c.testBit 59 && genQueue m (n % 4) (fld c 55 3) true == some q then
      (fd.gens.getD n Gen.reset).reads.length
    else 0))

/-- Entries of a queue that are free, not counting reserved ones. -/
def qFree (cfg : Table) (fd : Field) (q : QId) : Nat :=
  let r : Nat := match q with
    | .op n => groupReserved cfg fd (n / 2) q
    | .wq n => groupReserved cfg fd (n / 4) q
    | .rq _ => genReserved cfg fd q
    | .agOut _ => genReserved cfg fd q
    | _ => 0
  qCap q - (qGet fd q).length - r

/-- A queue of floe f has room for n words. -/
def qRoom (d : Data) (f : Nat) (q : QId) (n : Nat) : Bool :=
  decide (n ≤ qFree (getFloe d f).cfg.cur (getFloe d f).field q)

/-- An entry joins a queue of floe f. -/
def qEnter (d : Data) (f : Nat) (q : QId) (e : QEnt) : Data :=
  modFloe d f (fun fl => { fl with field := qSet fl.field q (qGet fl.field q ++ [e]), active := true })

/-- A word enters a queue ahead of those that have entered it in the same advance cycle (R399). -/
def qEnterFirst (d : Data) (f : Nat) (q : QId) (e : QEnt) : Data :=
  modFloe d f (fun fl =>
    let l := qGet fl.field q
    let n := l.length - (l.reverse.takeWhile (fun x => x.ready == e.ready)).length
    { fl with field := qSet fl.field q (l.take n ++ e :: l.drop n), active := true })

/-- A word enters a queue of floe f; it can leave in the cycle given. -/
def qPush (d : Data) (f : Nat) (q : QId) (w : FWord) (ready : Nat) : Data :=
  qEnter d f q { word := w, ready := ready, par := 0, mc := false }

/-- A word as it is taken: bad parity on its data poisons it, bad parity on its sideband makes it a PARITY token (R281). -/
def entWord (e : QEnt) : FWord :=
  match e.par with
  | 0 => e.word
  | 1 => { e.word with psn := true }
  | _ => errTok 8 0 0 0 0 0 0 0 e.word.gen

/-- The head of a queue of floe f that can leave in the advance cycle in progress. -/
def qHead (d : Data) (f : Nat) (q : QId) : Option FWord :=
  match qGet (getFloe d f).field q with
  | [] => none
  | e :: _ => if e.ready ≤ (getFloe d f).cyc then some (entWord e) else none

/-- The ECCU record of a sideband parity error (R281). -/
def parityRec (d : Data) (f : Nat) : Data :=
  emitRec d (dieOf f) (getFloe d f).advc
    { recZero with kind := 6, cls := 0x0C, cause := 7, utype := 1, unit := f, mid := f }

/-- The head of a queue of floe f leaves it. -/
def qPop (d : Data) (f : Nat) (q : QId) : Data :=
  match qGet (getFloe d f).field q with
  | [] => d
  | e :: es =>
    let d := if 2 ≤ e.par then parityRec d f else d
    modFloe d f (fun fl => { fl with field := qSet fl.field q es })

/-! ## The error sink (R108) -/

/-- An error token without a data path has somewhere to go: ESINK is not valid, or has room for n. -/
def sinkRoom (d : Data) (f n : Nat) : Bool :=
  match esink (getFloe d f).cfg.cur with
  | none => true
  | some p => qRoom d f (.op p) n

/-- An error token goes to ESINK, where it leaves as an ordinary word; or it is counted. -/
def sinkPush (d : Data) (f : Nat) (w : FWord) : Data :=
  match esink (getFloe d f).cfg.cur with
  | none => modFloe d f (fun fl => { fl with cfg := { fl.cfg with errors := min (2 ^ 32 - 1) (fl.cfg.errors + 1) } })
  | some p => qPush d f (.op p) { w with psn := false, mask := 0 } ((getFloe d f).cyc + 1)

/-- Several tokens go to ESINK. -/
def sinkAll (d : Data) (f : Nat) (l : List FWord) : Data := l.foldl (fun d w => sinkPush d f w) d

/-- What a stream sees at op port p: at ESINK an error token is an ordinary word. -/
def opWord (cfg : Table) (p : Nat) (w : FWord) : FWord :=
  if esink cfg == some p && isErr w then { w with psn := false, mask := 0 } else w

/-! ## Switch boxes: where a switch word takes from and passes to (R110, R111, log entry 15) -/

/-- The queue that holds the words arriving at input code of box b: none for an SMCS replication port, whose words no
queue holds. An edge of the field has the slots of the words that arrive there over the die mesh. -/
def hopIn (b code : Nat) : Option QId :=
  if code < 4 then
    (match boxStep b code with
      | some b' => some (.link (4 * b' + opposite code))
      | none => some (.link (4 * b + code)))
  else
    let n := (boxCell b).2
    if (boxCell b).1 then (if code < 6 then none else some (.op (2 * n + (code - 6))))
    else some (.agOut (4 * n + (code - 4)))

/-- The floe and queue that output code of box b of floe f leads to. -/
def hopOut (f b code : Nat) : Option (Nat × QId) :=
  if code < 4 then
    (match boxStep b code with
      | some _ => some (f, .link (4 * b + code))
      | none => match meshStep f b code with
        | some (f', b') => some (f', .link (4 * b' + opposite code))
        | none => none)
  else
    let n := (boxCell b).2
    if (boxCell b).1 then (if code < 6 then some (f, .ip (2 * n + (code - 4))) else none)
    else some (f, .agIn (4 * n + (code - 4)))

/-- The outputs of switch words all have room. -/
def hopsRoom (d : Data) (f b : Nat) (ws : List Nat) (n : Nat) : Bool :=
  ws.all (fun w => match hopOut f b (swOut w) with
    | some (f', q) => qRoom d f' q n
    | none => true)

/-- The first advance cycle in which a word that crosses into a queue or channel slot of floe f' can leave it, but for converters. -/
def hopReady (d : Data) (f' : Nat) (q : QId) : Nat :=
  match q with
  | .link _ => (getFloe d f').cyc + 1
  | _ => (getFloe d f').cyc + 2

/-- A word crosses box b by one switch word: it enters a channel slot one cycle later and may leave it in that cycle; a
queue it enters one cycle later holds it for one more (R97, R111). Extra is what a converter adds; mc marks a word of a
floe-local multicast. A word that comes from another floe is stamped with its new floe's generation (R133). -/
def hopPush (d : Data) (f b sw extra : Nat) (mc : Bool) (w : FWord) : Data :=
  match hopOut f b (swOut sw) with
  | none => d
  | some (f', q) =>
    let at' := hopReady d f' q + extra
    let w := if f' = f then w else { w with gen := (getFloe d f').cfg.gen }
    match q with
    | .link _ => qEnter d f' q { word := w, ready := at', par := 0, mc := mc && f' == f }
    | _ => qPush d f' q w at'

/-- A word of a floe-local multicast could leave a channel slot of the floe in the cycle in progress and has not (R115). -/
def mcStuck (fl : Floe) : Bool := fl.field.links.any (fun l => l.any (fun e => e.mc && decide (e.ready ≤ fl.cyc)))

end Sys2Proof.Machine
end

