-- ==== Sys2Proof/Machine/FieldPlan.lean ====
section
/-!
DEFINITION. What a configuration says: operator blocks as slots, ports and targets, the loader's figures and every check of
a configuration (R99-R113, R118-R126, R169, R317, R357-R359, R405).
-/

namespace Sys2Proof.Machine

/-! ## Targets, slots and ports of a block (R103) -/

/-- A target in use: POS (0 left, 1 right, 2 predicate, 3 block port), SLOT, E. -/
structure Tgt where
  pos : Nat
  slot : Nat
  e : Bool
  deriving DecidableEq, Repr

/-- A target field. -/
def tgtOf (t : Nat) : Option Tgt :=
  if t.testBit 8 then some { pos := fld t 6 2, slot := fld t 1 5, e := t.testBit 0 } else none

/-- A target field that breaks R103 or R317. -/
def tgtBad (t : Nat) : Bool := if t.testBit 8 then fld t 6 2 == 3 && decide (7 < fld t 1 5) else t % 512 != 0

/-- A slot in use. -/
structure SlotPlan where
  n : Nat
  opc : Nat
  mod : Nat
  ct : Nat
  tgts : List (Option Tgt)
  lc : Bool
  lci : Nat
  rc : Bool
  rci : Nat
  deriving DecidableEq, Repr

/-- An input port in use. -/
structure PortPlan where
  j : Nat
  q : Option QId
  rate : Nat
  pad : Bool
  padc : Nat
  tgts : List Tgt
  deriving DecidableEq, Repr

/-- An output port in use. -/
structure OutPlan where
  o : Nat
  q : Option QId
  rate : Nat
  ctc : Nat
  deriving DecidableEq, Repr

/-- A block: its cell, slots, ports and constants. -/
structure Plan where
  k : Nat
  slots : List SlotPlan
  ports : List PortPlan
  outs : List OutPlan
  ctab : List Nat
  deriving DecidableEq, Repr

/-- The slot n of an operator block with control word s and operation word w. -/
def slotPlan (n s w : Nat) : SlotPlan :=
  { n := n, opc := fld w 26 6, mod := fld w 21 5, ct := w % 8, tgts := [tgtOf (fld w 12 9), tgtOf (fld w 3 9)],
    lc := s.testBit 10, lci := fld s 7 3, rc := s.testBit 6, rci := fld s 3 3 }

/-- The block of compute cell k. -/
def planOf (t : Table) (k : Nat) : Plan :=
  { k := k,
    slots := (List.range 32).filterMap (fun n => if (sct t k n).testBit 11 then some (slotPlan n (sct t k n) (opw t k n)) else none),
    ports := (List.range 8).filterMap (fun j =>
      let v := ipm t k j
      if v.testBit 31 then
        some { j := j, q := ipmQueue k v, rate := fld v 22 4, pad := v.testBit 21, padc := fld v 18 3,
               tgts := [tgtOf (fld v 9 9), tgtOf (v % 512)].filterMap id }
      else none),
    outs := (List.range 8).filterMap (fun o =>
      let v := opm t k o
      if v.testBit 15 then some { o := o, q := opmQueue k v, rate := fld v 6 4, ctc := fld v 3 3 } else none),
    ctab := (List.range 8).map (fun i => ctab t k i) }

/-- Slot n of a block, if in use. -/
def Plan.slot (p : Plan) (n : Nat) : Option SlotPlan := p.slots.find? (fun s => s.n == n)

/-- Input port j of a block, if in use. -/
def Plan.port (p : Plan) (j : Nat) : Option PortPlan := p.ports.find? (fun x => x.j == j)

/-- Constant entry i. -/
def Plan.const (p : Plan) (i : Nat) : Nat := p.ctab.getD i 0

/-- What feeds an operand position. -/
inductive Feed where
  | port (j : Nat)
  | slot (n : Nat)
  | const
  deriving DecidableEq, Repr

/-- Everything that feeds position pos (0 left, 1 right, 2 predicate) of slot n. -/
def Plan.feeds (p : Plan) (n pos : Nat) : List Feed :=
  let hit : Tgt → Bool := fun t => t.pos == pos && t.slot == n
  p.ports.flatMap (fun x => (x.tgts.filter hit).map (fun _ => Feed.port x.j)) ++
  p.slots.flatMap (fun s => ((s.tgts.filterMap id).filter hit).map (fun _ => Feed.slot s.n)) ++
  (match p.slot n with
    | some s => if (pos = 0 ∧ s.lc = true) ∨ (pos = 1 ∧ s.rc = true) then [Feed.const] else []
    | none => [])

/-- A position is fed. -/
def Plan.fed (p : Plan) (n pos : Nat) : Bool := ! (p.feeds n pos).isEmpty

/-- What feeds slot n, leaving out the back edge of an LCAR (R121). -/
def Plan.sources (p : Plan) (s : SlotPlan) : List Feed :=
  [0, 1, 2].flatMap (fun pos => if s.opc = 5 ∧ pos = 1 then [] else p.feeds s.n pos)

/-- The slots among them. -/
def Plan.producers (p : Plan) (s : SlotPlan) : List Nat :=
  (p.sources s).filterMap (fun f =>
    match f with
    | .slot m => some m
    | _ => none)

/-- Slots in an order in which each stands behind its producers; slots on a cycle are left out. -/
def Plan.orderFrom (p : Plan) : Nat → List Nat → List SlotPlan → List SlotPlan
  | 0, _, _ => []
  | fuel + 1, done, left =>
    let ready := left.filter (fun s => (p.producers s).all (fun m => done.contains m))
    if ready.isEmpty then []
    else ready ++ p.orderFrom fuel (done ++ ready.map (fun s => s.n))
      (left.filter (fun s => ! ready.any (fun r => r.n == s.n)))

/-- Execution order of a firing. -/
def Plan.order (p : Plan) : List SlotPlan := p.orderFrom 33 [] p.slots

/-! ## Operators (R118, R317, R357, R405) -/

/-- Static facts of an operator: latency, rules for left, right and predicate (0 unfed, 1 fed, 2 optional), MOD bits that
must be zero, and class of its CT entry (0 any, 1 floating point, 2 integer, 3 conversion, 4 INT32, 5 by reduction). -/
structure OpFacts where
  lat : Nat
  l : Nat
  r : Nat
  p : Nat
  zero : Nat
  cls : Nat
  deriving DecidableEq, Repr

/-- The assigned operators; FSFN is 0x16 (log entry 186). -/
def opFacts (opc : Nat) : Option OpFacts :=
  match opc with
  | 0x00 => some ⟨1, 1, 0, 0, 0x1F, 0⟩
  | 0x01 => some ⟨1, 1, 0, 0, 0x18, 0⟩
  | 0x02 => some ⟨1, 1, 0, 2, 0x00, 0⟩
  | 0x03 => some ⟨1, 1, 0, 1, 0x1F, 0⟩
  | 0x04 => some ⟨1, 1, 1, 1, 0x1F, 0⟩
  | 0x05 => some ⟨1, 1, 1, 0, 0x18, 0⟩
  | 0x06 => some ⟨1, 1, 1, 0, 0x00, 0⟩
  | 0x07 => some ⟨1, 1, 0, 0, 0x10, 4⟩
  | 0x08 => some ⟨1, 1, 0, 0, 0x18, 4⟩
  | 0x09 => some ⟨1, 1, 0, 1, 0x1C, 0⟩
  | 0x0A => some ⟨1, 1, 1, 0, 0x1C, 0⟩
  | 0x0B => some ⟨1, 1, 0, 0, 0x00, 0⟩
  | 0x0C => some ⟨1, 1, 1, 0, 0x1C, 0⟩
  | 0x0D => some ⟨1, 1, 1, 2, 0x1E, 0⟩
  | 0x10 => some ⟨3, 1, 1, 2, 0x1E, 1⟩
  | 0x11 => some ⟨3, 1, 1, 2, 0x1F, 1⟩
  | 0x12 => some ⟨4, 1, 1, 2, 0x00, 1⟩
  | 0x13 => some ⟨1, 1, 1, 2, 0x1E, 1⟩
  | 0x14 => some ⟨1, 1, 1, 2, 0x18, 1⟩
  | 0x15 => some ⟨2, 1, 0, 2, 0x10, 3⟩
  | 0x16 => some ⟨6, 1, 0, 2, 0x18, 1⟩
  | 0x17 => some ⟨1, 1, 1, 2, 0x1E, 1⟩
  | 0x18 => some ⟨1, 1, 1, 2, 0x1C, 2⟩
  | 0x19 => some ⟨2, 1, 1, 2, 0x1E, 2⟩
  | 0x1A => some ⟨1, 1, 1, 2, 0x1C, 2⟩
  | 0x1B => some ⟨1, 1, 1, 2, 0x1C, 2⟩
  | 0x1C => some ⟨1, 1, 1, 2, 0x18, 2⟩
  | 0x1D => some ⟨1, 1, 1, 2, 0x1C, 2⟩
  | 0x1E => some ⟨1, 1, 0, 2, 0x10, 3⟩
  | 0x20 => some ⟨4, 1, 0, 0, 0x00, 5⟩
  | 0x21 => some ⟨2, 1, 0, 0, 0x01, 5⟩
  | 0x22 => some ⟨6, 1, 2, 0, 0x00, 5⟩
  | _ => none

/-- MOD values beyond the bits that must be zero (R317). -/
def modOk (opc m : Nat) : Bool :=
  match opc with
  | 0x05 => m % 8 != 0
  | 0x07 => m % 8 != 0
  | 0x0B => decide (m / 8 ≤ 2) && m % 8 != 0
  | 0x15 => decide (m % 16 ≤ 6)
  | 0x16 => decide (m % 8 ≤ 5)
  | 0x1A => decide (m % 4 ≤ 2)
  | 0x1B => decide (m % 4 ≤ 2)
  | 0x1C => decide (m % 8 ≤ 5)
  | 0x1E => isInt (m % 16)
  | 0x20 => decide (m / 4 ≤ 5)
  | 0x21 => decide (m / 4 ≤ 5)
  | _ => true

/-- The rule of a position, with the operators whose MOD decides it: MASK.clr and RDOC. -/
def posRule (s : SlotPlan) (o : OpFacts) (pos : Nat) : Nat :=
  match pos with
  | 0 => o.l
  | 1 => if s.opc = 0x0C ∧ s.mod.testBit 1 then 0 else if s.opc = 0x22 then (if s.mod % 8 = 0 then 1 else 0) else o.r
  | _ => o.p

/-- Executions a slot makes for each input word: widening FCVT and ICVT make m (R362, R373). -/
def ownExecs (t : Table) (s : SlotPlan) : Nat :=
  if s.opc = 0x15 ∨ s.opc = 0x1E then max 1 (fieldElems (s.mod % 16) / max 1 (fieldElems (fld (ctt t s.ct) 28 4))) else 1

/-- Words a feed brings in a firing: an input port its RATE, a slot one for each of its executions (acc), a constant one
(R105, R359). -/
def feedWords (p : Plan) (acc : List (Nat × Nat)) : Feed → Nat
  | .port j => ((p.port j).map (fun x => x.rate)).getD 1
  | .slot n => (assocGet acc n).getD 1
  | .const => 1

/-- Executions per firing of every slot, in execution order: one for each word of what feeds it (R104, R105, R359). -/
def execsFrom (t : Table) (p : Plan) : List SlotPlan → List (Nat × Nat) → List (Nat × Nat)
  | [], acc => acc
  | s :: ss, acc => execsFrom t p ss (acc ++ [(s.n, ((p.sources s).map (feedWords p acc)).foldl max 1 * ownExecs t s)])

/-- See execsFrom. -/
def Plan.execs (t : Table) (p : Plan) : List (Nat × Nat) := execsFrom t p p.order []

/-- Longest latency from an input port to each slot's results (R104). -/
def latFrom (p : Plan) : List SlotPlan → List (Nat × Nat) → List (Nat × Nat)
  | [], acc => acc
  | s :: ss, acc =>
    let m := ((p.producers s).map (fun n => (assocGet acc n).getD 0)).foldl max 0
    latFrom p ss (acc ++ [(s.n, m + ((opFacts s.opc).map (fun o => o.lat)).getD 1)])

/-- L of a block: the longest path to an output port, at least 1 (R104). -/
def Plan.latency (p : Plan) : Nat :=
  let l := latFrom p p.order []
  (p.slots.map (fun s => if (s.tgts.filterMap id).any (fun t => t.pos == 3) then (assocGet l s.n).getD 1 else 1)).foldl max 1

/-- II of a block (R104). -/
def Plan.interval (t : Table) (p : Plan) : Nat := ((p.execs t).map (fun e => e.2)).foldl max 1

/-! ## Joined and gated ports (R109, R118, R119) -/

/-- Input ports whose words reach a slot's result, for every slot in execution order. -/
def reachFrom (p : Plan) : List SlotPlan → List (Nat × List Nat) → List (Nat × List Nat)
  | [], acc => acc
  | s :: ss, acc =>
    let l := [0, 1, 2].flatMap (fun pos => (p.feeds s.n pos).flatMap (fun f =>
      match f with
      | .port j => [j]
      | .slot m => (assocGet acc m).getD []
      | .const => []))
    reachFrom p ss (acc ++ [(s.n, dedup l)])

/-- The same with the words that go round a loop: LCAR stands in the order before the slot that feeds its right operand (R121). Each
pass takes them round once more. -/
def reachLoops (p : Plan) : List (Nat × List Nat) :=
  (List.range p.order.length).foldl (fun acc _ => p.order.foldl (fun acc s =>
    assocSet acc s.n (dedup ([0, 1, 2].flatMap (fun pos => (p.feeds s.n pos).flatMap (fun f =>
      match f with
      | .port j => [j]
      | .slot m => (assocGet acc m).getD []
      | .const => []))))) acc) []

/-- Input ports that feed a position, directly or through operators. -/
def Plan.reach (p : Plan) (acc : List (Nat × List Nat)) (n pos : Nat) : List Nat :=
  dedup ((p.feeds n pos).flatMap (fun f =>
    match f with
    | .port j => [j]
    | .slot m => (assocGet acc m).getD []
    | .const => []))

/-- The element-wise operators (R109). -/
def elementWise (opc : Nat) : Bool := [0x10, 0x11, 0x13, 0x14, 0x17, 0x18, 0x19, 0x1A, 0x1B, 0x1C, 0x1D].contains opc

/-- The second joined position of an operator: the right operand, or the control of STEER and CMPT (R118). -/
def joinPos (opc : Nat) : Option Nat :=
  if elementWise opc then some 1 else if opc = 3 ∨ opc = 9 then some 2 else none

/-- Merge a set of ports with the classes it meets. -/
def joinMerge (s : List Nat) (cs : List (List Nat)) : List (List Nat) :=
  let meet := cs.filter (fun c => c.any (fun j => s.contains j))
  (cs.filter (fun c => ! c.any (fun j => s.contains j))) ++ [dedup (s ++ meet.flatten)]

/-- Classes of joined input ports, each in rising order (R109). -/
def Plan.joins (p : Plan) : List (List Nat) :=
  let acc := reachFrom p p.order []
  let sets := p.slots.filterMap (fun s =>
    match joinPos s.opc with
    | none => none
    | some pos =>
      let a := p.reach acc s.n 0
      let b := p.reach acc s.n pos
      if a.isEmpty || b.isEmpty then none else some (dedup (a ++ b)))
  ((sets.foldl (fun cs s => joinMerge s cs) []).map (fun c => (List.range 8).filter (fun j => c.contains j))).filter
    (fun c => decide (2 ≤ c.length))

/-- The gated positions of an operator (R119). -/
def gatedPos (opc : Nat) : List Nat :=
  match opc with
  | 0x04 => [0, 1, 2]
  | 0x05 => [0]
  | 0x06 => [0]
  | 0x0A => [0, 1]
  | _ => []

/-- Gated ports: port, slot and position. -/
def Plan.gated (p : Plan) : List (Nat × Nat × Nat) :=
  p.slots.flatMap (fun s => (gatedPos s.opc).flatMap (fun pos =>
    (p.feeds s.n pos).filterMap (fun f =>
      match f with
      | .port j => some (j, s.n, pos)
      | _ => none)))

/-! ## Checks of a block (R103, R104, R118-R121, R343, R357-R359, R405, R409, R416, R436) -/

/-- A check of a configuration: none, or the CFGCHK cause. -/
abbrev CfgCheck := Option Nat

/-- Cause c when a test holds. -/
def causeIf (c : Nat) (b : Bool) : CfgCheck := if b then some c else none

/-- The first cause of a list of checks. -/
def firstCause : List CfgCheck → CfgCheck
  | [] => none
  | some x :: _ => some x
  | none :: cs => firstCause cs

/-- No two elements are equal. -/
def distinct {α : Type} [BEq α] : List α → Bool
  | [] => true
  | x :: xs => ! xs.contains x && distinct xs

/-- A port code of an input or output map that names no queue: a value above 5, or a side with no memory cell. -/
def portCodeBad (k code : Nat) : Bool := decide (5 < code) || (decide (2 ≤ code) && (boxStep (ccBox k) (code - 2)).isNone)

/-- The words of a block that break a rule of their tables, used or not (R103, R317). A RATE of 0 is out of its range in a port
in use alone: the word of an unused port is zero. -/
def blockWordsBad (t : Table) (k : Nat) : Bool :=
  (List.range 8).any (fun j =>
    let v := ipm t k j
    let o := opm t k j
    portCodeBad k (fld v 26 5) || tgtBad (fld v 9 9) || tgtBad (v % 512) || (v.testBit 31 && fld v 22 4 == 0) ||
    o % 8 != 0 || portCodeBad k (fld o 10 5) || (o.testBit 15 && fld o 6 4 == 0)) ||
  (List.range 32).any (fun n =>
    let s := sct t k n
    fld s 12 4 != 0 || s % 8 != 0 || tgtBad (fld (opw t k n) 12 9) || tgtBad (fld (opw t k n) 3 9))

/-- The slot's operator is unassigned or its MOD undefined; PICK's element position is beyond the word (R412). -/
def slotModBad (t : Table) (s : SlotPlan) : Bool :=
  match opFacts s.opc with
  | none => true
  | some o =>
    (s.mod &&& o.zero) != 0 || ! modOk s.opc s.mod ||
      (s.opc == 2 && decide (fieldElems (fld (ctt t s.ct) 28 4) ≤ s.mod))

/-- The format class of a slot's CT entry is wrong (R169, R358, R405). -/
def slotFmtBad (t : Table) (s : SlotPlan) (o : OpFacts) : Bool :=
  let f := fld (ctt t s.ct) 28 4
  match o.cls with
  | 1 => ! isFloat f
  | 2 => ! isInt f
  | 3 => ! (isFloat f || isInt f)
  | 4 => f != 10
  | 5 =>
    let op := if s.opc = 0x22 then s.mod / 8 else s.mod / 4
    if op < 3 then ! isFloat f else ! isInt f
  | _ => false

/-- A target of the block names an unused slot or port, or an output port of another channel type. -/
def tgtUseBad (p : Plan) (ct : Option Nat) (t : Tgt) : Bool :=
  if t.pos = 3 then
    (match p.outs.find? (fun o => o.o == t.slot) with
      | none => true
      | some o => match ct with
        | some c => o.ctc != c
        | none => false)
  else (p.slot t.slot).isNone

/-- The fed positions of a slot break its operator's rules: unfed, wrongly fed, fed twice, or data from constants only. -/
def slotFeedBad (p : Plan) (s : SlotPlan) (o : OpFacts) : Bool :=
  [0, 1, 2].any (fun pos =>
    let n := (p.feeds s.n pos).length
    decide (1 < n) || (posRule s o pos == 1 && n == 0) || (posRule s o pos == 0 && n != 0)) ||
  ((p.feeds s.n 0 ++ p.feeds s.n 1).all (fun f => f == Feed.const))

/-- A gated position is not fed as R119 demands. -/
def gateBad (p : Plan) (s : SlotPlan) : Bool :=
  (gatedPos s.opc).any (fun pos => (p.feeds s.n pos).any (fun f =>
    match f with
    | .port j => (match p.port j with
      | some x => x.rate != 1 || x.tgts.length != 1
      | none => true)
    | _ => true))

/-- Both targets of STEER and CMPT are block ports, CMPT's with E = 1 (R118, R343, R436); MERGE, LCAR, LCTL and ORDM have a
first target (R118); IDXG and CONST take no constant on the left. -/
def slotShapeBad (s : SlotPlan) : Bool :=
  ((s.opc == 3 || s.opc == 9) && s.tgts.any (fun t => (t.map (fun t => t.pos)) != some 3)) ||
  (s.opc == 9 && (s.tgts.filterMap id).any (fun t => ! t.e)) ||
  ([4, 5, 6, 0x0A].contains s.opc && (s.tgts.headD none).isNone) ||
  ((s.opc == 1 || s.opc == 8) && s.lc)

/-- Feeds of a slot whose words per firing differ and both exceed 1 (R359). -/
def execsBad (t : Table) (p : Plan) (s : SlotPlan) : Bool :=
  let xs := ((p.sources s).map (feedWords p (p.execs t))).filter (fun x => decide (1 < x))
  xs.any (fun a => xs.any (fun b => a != b))

/-- Words an output port receives in a firing (R104). -/
def outWords (t : Table) (p : Plan) (o : Nat) : Nat :=
  let xs := p.execs t
  sumNat (p.slots.map (fun s =>
    ((s.tgts.filterMap id).filter (fun g => g.pos == 3 && g.slot == o)).length * (assocGet xs s.n).getD 1)) +
  sumNat (p.ports.map (fun x => (x.tgts.filter (fun g => g.pos == 3 && g.slot == o)).length * x.rate))

/-- The checks of one slot. -/
def slotCheck (t : Table) (p : Plan) (s : SlotPlan) : CfgCheck :=
  match opFacts s.opc with
  | none => some 6
  | some o =>
    firstCause
      [causeIf 6 (slotModBad t s),
       causeIf 4 ((s.tgts.filterMap id).any (tgtUseBad p (some s.ct)) || slotFeedBad p s o || slotFmtBad t s o ||
         gateBad p s || slotShapeBad s)]

/-- The checks of the block of compute cell k. -/
def blockCheck (t : Table) (k : Nat) : CfgCheck :=
  let p := planOf t k
  firstCause
    ([causeIf 4 (blockWordsBad t k),
      causeIf 6 ((List.range 32).any (fun n => slotModBad t (slotPlan n (sct t k n) (opw t k n))))] ++
     p.slots.map (slotCheck t p) ++
     [causeIf 4 (p.ports.any (fun x => x.tgts.any (tgtUseBad p none)) ||
        ! distinct (p.ports.map (fun x => x.q)) || ! distinct (p.outs.map (fun x => x.q)) ||
        p.order.length != p.slots.length ||
        p.joins.any (fun c => c.any (fun j => ((p.port j).map (fun x => x.rate)).getD 0 != 1)) ||
        p.slots.any (execsBad t p) || p.outs.any (fun o => decide (o.rate < outWords t p o.o)))])

/-! ## Checks of memory cells (R99-R102) -/

/-- MODE of a memory cell. -/
def mccMode (w : Nat) : Nat := w % 4
/-- Buffers. -/
def mccBufs (w : Nat) : Nat := fld w 2 2 + 1
/-- BLVL. -/
def mccBlvl (w : Nat) : Nat := fld w 4 3
/-- Line buffer lines. -/
def mccLines (w : Nat) : Nat := fld w 7 4 + 1
/-- Line length. -/
def mccLine (w : Nat) : Nat := fld w 11 11

/-- Generator words: use, write, indexed, DEST, ISRC, TYPE, RBASE, RLEN, START. -/
def agV (c : Nat) : Bool := c.testBit 60
/-- DIR is write. -/
def agWrite (c : Nat) : Bool := c.testBit 59
/-- Indexed. -/
def agIdx (c : Nat) : Bool := c.testBit 58
/-- DEST. -/
def agDest (c : Nat) : Nat := fld c 55 3
/-- ISRC. -/
def agIsrc (c : Nat) : Nat := fld c 52 3
/-- TYPE. -/
def agType (c : Nat) : Nat := fld c 48 4
/-- RBASE. -/
def agBase (c : Nat) : Nat := fld c 30 15
/-- RLEN. -/
def agLen (c : Nat) : Nat := fld c 15 15 + 1
/-- START. -/
def agStart (c : Nat) : Nat := c % 2 ^ 15
/-- Passes of loops 0 and 1. -/
def agCnt (l i : Nat) : Nat := if i = 0 then fld l 20 12 + 1 else fld l 52 12 + 1
/-- Word steps of loops 0 and 1. -/
def agStep (l i : Nat) : Int := if i = 0 then sextN 20 (l % 2 ^ 20) else sextN 20 (fld l 32 20)

/-- The offset at loop counters c0 and c1 (R102). -/
def agOffset (c l c0 c1 : Nat) : Int := (agStart c : Int) + c0 * agStep l 0 + c1 * agStep l 1

/-- A side code with no compute cell (R101). -/
def sideBad (m code : Nat) : Bool := decide (4 < code) || (code != 4 && (cellAt m code).isNone)

/-- A generator's words break R101 or R102. -/
def genBad (w m c l : Nat) : Bool :=
  let b := agLen c / mccBufs w
  let offs := [agOffset c l 0 0, agOffset c l (agCnt l 0 - 1) 0, agOffset c l 0 (agCnt l 1 - 1),
    agOffset c l (agCnt l 0 - 1) (agCnt l 1 - 1)]
  if agV c then
    fld c 61 3 != 0 || fld c 45 3 != 0 || (agIdx c && mccMode w != 0) || sideBad m (agDest c) ||
      (if agIdx c then sideBad m (agIsrc c) else agIsrc c != 0) || decide (32768 < agBase c + agLen c) ||
      agLen c % mccBufs w != 0 || (mccMode w != 0 && (agStart c != 0 || l != 0)) ||
      (mccMode w == 0 && ! agIdx c && offs.any (fun x => decide (x < 0) || decide ((b : Int) ≤ x)))
  else c != 0 || l != 0

/-- The generators in use of memory cell m: number, control and loop words. -/
def gensOf (t : Table) (m : Nat) : List (Nat × Nat × Nat) :=
  ((List.range 4).map (fun g => (g, agc t m g, agl t m g))).filter (fun x => agV x.2.1)

/-- FIFO and line buffer take one write and one read generator on one region (R100). -/
def pairBad (gs : List (Nat × Nat × Nat)) : Bool :=
  match gs with
  | [a, b] => agWrite a.2.1 == agWrite b.2.1 || agBase a.2.1 != agBase b.2.1 || agLen a.2.1 != agLen b.2.1
  | _ => true

/-- The checks of memory cell m. -/
def cellCheck (t : Table) (m : Nat) : CfgCheck :=
  let w := mcc t m
  causeIf 4 (decide (2 ^ 22 ≤ w) || mccMode w == 3 ||
    (if mccMode w = 2 then mccLine w == 0 else fld w 7 15 != 0) ||
    (mccBlvl w == 0 && mccBufs w != 1) ||
    (List.range 4).any (fun g => genBad w m (agc t m g) (agl t m g)) ||
    (mccMode w != 0 && pairBad (gensOf t m)))

/-! ## Checks of switch boxes (R110, R113, R169) -/

/-- Input code c of box b is an SMCS replication port: an ip of a compute cell. -/
def isRepl (b c : Nat) : Bool := (boxCell b).1 && (c == 4 || c == 5)

/-- The upstream switch word of direction dir at box b. -/
def upstream (t : Table) (b dir : Nat) : Option (Nat × Nat) :=
  match boxStep b dir with
  | none => none
  | some b' => (boxFind t b' (fun w => swOut w == opposite dir)).map (fun w => (b', w))

/-- The CTC of the output port map that feeds op port p: none when no block does. -/
def opCtc (t : Table) (p : Nat) : Option Nat :=
  (planOf t (p / 2)).outs.findSome? (fun o => if o.q == some (QId.op p) then some o.ctc else none)

/-- The channel type of the words arriving at input code c of box b (R113): none when the configuration does not say. -/
def arrType (t : Table) (b c : Nat) : Option Nat :=
  if c < 4 then (upstream t b c).map (fun x => swType x.2)
  else
    let n := (boxCell b).2
    if (boxCell b).1 then (if c < 6 then none else opCtc t (2 * n + (c - 6)))
    else some (agType (agc t n (c - 4)))

/-- The words at input c of box b come from an SMCS replication port, within n boxes. -/
def fromRepl (t : Table) : Nat → Nat → Nat → Bool
  | 0, _, _ => false
  | n + 1, b, c =>
    if isRepl b c then true
    else if c < 4 then
      (match upstream t b c with
        | some (b', w) => fromRepl t n b' (swIn w)
        | none => false)
    else false

/-- A local port used against its direction, or a route at an exposed port (R110). -/
def localBad (t : Table) (b w : Nat) : Bool :=
  let n := (boxCell b).2
  if (boxCell b).1 then
    (decide (4 ≤ swOut w) && (decide (6 ≤ swOut w) || exposed t (2 * n + (swOut w - 4)))) ||
    (decide (6 ≤ swIn w) && exposed t (16 + 2 * n + (swIn w - 6)))
  else
    (decide (4 ≤ swOut w) && ! (agV (agc t n (swOut w - 4)) && agWrite (agc t n (swOut w - 4)))) ||
    (decide (4 ≤ swIn w) && ! (agV (agc t n (swIn w - 4)) && ! agWrite (agc t n (swIn w - 4))))

/-- A direction code at box b of floe f that leads nowhere. -/
def edgeBad (f b c : Nat) : Bool := decide (c < 4) && (boxStep b c).isNone && (meshStep f b c).isNone

/-- A converter the loader rejects (R113, R169). -/
def convBad (t : Table) (b w : Nat) : Bool :=
  match arrType t b (swIn w) with
  | none => false
  | some a =>
    a != swType w &&
      (fromRepl t 16 b (swIn w) ||
       (let x := fld (ctt t a) 28 4
        let y := fld (ctt t (swType w)) 28 4
        (x == 7) != (y == 7) || (x == 7 && y == 7 && cttScl (ctt t a) != cttScl (ctt t (swType w)))))

/-- A switch word in use breaks R110, R113 or R169. -/
def switchBad (t : Table) (f b w : Nat) : Bool :=
  w % 4 != 0 || swOut w == swIn w || localBad t b w || edgeBad f b (swOut w) || edgeBad f b (swIn w) ||
    (swMcg w != 0 && ! isRepl b (swIn w)) || convBad t b w

/-- The checks of box b of floe f. -/
def boxCheck (t : Table) (f b : Nat) : CfgCheck :=
  let ws := (boxWords t b).map (fun e => e.2)
  causeIf 4 (ws.any (switchBad t f b) || ! distinct (ws.map swOut))

/-! ## Reorder pairs (R125, R126) -/

/-- A reorder-pair word's fields. -/
def rptV (w : Nat) : Bool := w.testBit 63
/-- CCELL and CSLOT. -/
def rptC (w : Nat) : Nat × Nat := (fld w 57 3, fld w 52 5)
/-- OCELL and OSLOT. -/
def rptO (w : Nat) : Nat × Nat := (fld w 49 3, fld w 44 5)
/-- ELV. -/
def rptElv (w : Nat) : Nat := fld w 41 3
/-- RL. -/
def rptRl (w : Nat) : Nat := fld w 34 7 + 1
/-- W. -/
def rptWin (w : Nat) : Nat := fld w 24 10

/-- A place on the way from CMPT to ORDM: a queue, or arrival at an input code of a box. -/
inductive Trace where
  | queue (q : QId)
  | box (b c : Nat)
  deriving DecidableEq, Repr

/-- Output ports of a block that words of input port j reach, through operators. -/
def portOuts (p : Plan) (j : Nat) : List Nat :=
  let acc := reachLoops p
  dedup ((((p.port j).map (fun x => (x.tgts.filter (fun g => g.pos == 3)).map (fun g => g.slot))).getD []) ++
    p.slots.flatMap (fun s =>
      if ((assocGet acc s.n).getD []).contains j then
        ((s.tgts.filterMap id).filter (fun g => g.pos == 3)).map (fun g => g.slot)
      else []))

/-- The places that follow a place, with the capacity of the place itself; found when the place is the port that feeds the
ORDM's arm. -/
def traceNext (t : Table) (cell slot pos : Nat) : Trace → Nat × Bool × List Trace
  | .queue (.op n) =>
    (16, false, if exposed t (16 + n) then [] else [.box (ccBox (n / 2)) (6 + n % 2)])
  | .queue (.wq n) =>
    match boxStep (ccBox (n / 4)) (n % 4) with
    | none => (8, false, [])
    | some b =>
      let m := (boxCell b).2
      (8, false, cellOut m (fun c => agDest c == opposite (n % 4)))
  | .queue (.agIn n) => (0, false, cellOut (n / 4) (fun c => agDest c == 4))
  | .queue (.ip n) => blockIn (n / 2) 16 (.ip n)
  | .queue (.rq n) => blockIn (n / 4) 8 (.rq n)
  | .queue _ => (0, false, [])
  | .box b c =>
    ((if c < 4 then 2 else 0), false,
      ((boxWords t b).filter (fun e => swIn e.2 == c)).filterMap (fun e =>
        let o := swOut e.2
        if o < 4 then (boxStep b o).map (fun b' => Trace.box b' (opposite o))
        else (hopOut 0 b o).map (fun x => Trace.queue x.2)))
where
  /-- Words written by a FIFO's write generator come out at its read generator; its region's length is counted there. -/
  cellOut (m : Nat) (h : Nat → Bool) : List Trace :=
    if mccMode (mcc t m) = 1 ∧ (gensOf t m).any (fun g => agWrite g.2.1 && h g.2.1) then
      (gensOf t m).filterMap (fun g =>
        if agWrite g.2.1 then none
        else if agDest g.2.1 = 4 then some (Trace.box (mcBox m) (4 + g.1))
        else (genQueue m g.1 (agDest g.2.1) true).map Trace.queue)
    else []
  /-- A queue that a block reads. -/
  blockIn (k cap : Nat) (q : QId) : Nat × Bool × List Trace :=
    let p := planOf t k
    match p.ports.find? (fun x => x.q == some q) with
    | none => (cap, false, [])
    | some x =>
      if k = cell ∧ x.tgts.any (fun g => g.pos == pos && g.slot == slot) then (cap, true, [])
      else (cap, false, (portOuts p x.j).filterMap (fun o =>
        (p.outs.find? (fun y => y.o == o)).bind (fun y => y.q.map Trace.queue)))

/-- RLEN of the FIFO that a read generator's queue or box output comes from. -/
def fifoLen (t : Table) : Trace → Nat
  | .queue (.rq n) =>
    match boxStep (ccBox (n / 4)) (n % 4) with
    | some b => regionOf (boxCell b).2
    | none => 0
  | .box b c => if (boxCell b).1 || decide (c < 4) then 0 else regionOf (boxCell b).2
  | _ => 0
where
  /-- RLEN of a FIFO cell. -/
  regionOf (m : Nat) : Nat :=
    if mccMode (mcc t m) = 1 then (((gensOf t m).headD (0, 0, 0)).2.1 |> agLen) else 0

/-- Capacities of the paths from a place to the ORDM's arm (R126), through none of the places behind. A floe has 352 places, so
n = 352 shuts no path out. -/
def traceCaps (t : Table) (cell slot pos : Nat) : Nat → List Trace → Trace → List Nat
  | 0, _, _ => []
  | n + 1, behind, x =>
    if behind.contains x then []
    else
      let r := traceNext t cell slot pos x
      let here := r.1 + fifoLen t x
      if r.2.1 then [here] else (r.2.2.flatMap (traceCaps t cell slot pos n (x :: behind))).map (fun c => c + here)

/-- C of an arm: none when it cannot be traced inside the floe; of several paths the least (log entry 182). -/
def armCap (t : Table) (w arm : Nat) : Option Nat :=
  let p := planOf t (rptC w).1
  match p.slot (rptC w).2 with
  | none => none
  | some s =>
    match (s.tgts.getD (1 - arm) none) with
    | none => none
    | some g =>
      match (p.outs.find? (fun o => o.o == g.slot)).bind (fun o => o.q) with
      | none => none
      | some q =>
        match traceCaps t (rptO w).1 (rptO w).2 (1 - arm) 352 [] (.queue q) with
        | [] => none
        | c :: cs => some (cs.foldl min c)

/-- A slot holds an operator with a pair number. -/
def slotIs (t : Table) (x : Nat × Nat) (opc p : Nat) : Bool :=
  match (planOf t x.1).slot x.2 with
  | none => false
  | some s => s.opc == opc && s.mod % 4 == p

/-- The checks of reorder pair p. -/
def pairCheck (t : Table) (p : Nat) : CfgCheck :=
  let w := rpt t p
  if rptV w then
    firstCause
      [causeIf 4 (fld w 60 3 != 0 || w % 2 ^ 24 != 0 || rptWin w == 0 || rptElv w == 0 ||
         ! slotIs t (rptC w) 9 p || ! slotIs t (rptO w) 0x0A p),
       (match armCap t w 0, armCap t w 1 with
         | some a, some b => causeIf 5 (decide (min a b < rptWin w * rptRl w))
         | _, _ => some 5)]
  else causeIf 4 (w != 0)

/-- A CMPT or ORDM names a pair that is not valid or does not name it (R125, R409). -/
def pairUseBad (t : Table) : Bool :=
  (List.range 8).any (fun k => (planOf t k).slots.any (fun s =>
    let w := rpt t (s.mod % 4)
    (s.opc == 9 && (! rptV w || rptC w != (k, s.n))) || (s.opc == 0x0A && (! rptV w || rptO w != (k, s.n)))))

/-! ## The whole check (R132) -/

/-- Words of the floe: channel types (R112) and the sink (R108). -/
def floeWordsBad (t : Table) : Bool :=
  (List.range 16).any (fun i => decide (10 < fld (ctt t i) 28 4) || decide (4 < fld (ctt t i) 25 3)) ||
  (match esink t with
    | some p => ! exposed t (16 + p)
    | none => false)

/-- The check of a whole configuration on floe f: none, or the CFGCHK cause found. -/
def cfgCheck (t : Table) (f : Nat) : CfgCheck :=
  firstCause
    ([causeIf 4 (floeWordsBad t)] ++ (List.range 8).map (blockCheck t) ++ (List.range 8).map (cellCheck t) ++
     (List.range 16).map (boxCheck t f) ++ (List.range 4).map (pairCheck t) ++ [causeIf 4 (pairUseBad t)])

end Sys2Proof.Machine
end

