-- ==== Sys2Proof/Machine/FieldOps.lean ====
section
/-!
DEFINITION. The operators of the field: one execution of a slot on the words of its operand positions (R106, R117-R124,
R151-R153, R343-R397, R405-R421, R436).
-/

namespace Sys2Proof.Machine

/-- What an execution gives: the slot's state, result words with the targets they go to (1 T0, 2 T1, 3 both), and error
tokens for ESINK. -/
structure OpOut where
  st : OpSt
  outs : List (Nat × FWord)
  sink : List FWord
  deriving DecidableEq, Repr

/-- What an execution works in: channel types, cell, constants, the slot, the generation, and the advance cycle. -/
structure OpCtx where
  t : Table
  k : Nat
  ctab : List Nat
  s : SlotPlan
  gen : Bool
  now : Nat
  deriving DecidableEq, Repr

/-- The channel type entry of the slot. -/
def OpCtx.ctt (c : OpCtx) : Nat := Machine.ctt c.t c.s.ct

/-- Its format. -/
def OpCtx.fmt (c : OpCtx) : Nat := fld c.ctt 28 4

/-- A constant operand (R106). -/
def constWord (x : Nat) : FWord := { data := BitVec.ofNat 128 x, ridx := 0, fin := 0, gen := false, psn := false, mask := 0 }

/-- Nothing comes out. -/
def outNone (st : OpSt) : OpOut := { st := st, outs := [], sink := [] }

/-- One word to both targets. -/
def outBoth (st : OpSt) (w : FWord) : OpOut := { st := st, outs := [(3, w)], sink := [] }

/-- An error token made by an operator of the cell (R107). -/
def opTok (c : OpCtx) (cls a b ridx level : Nat) : FWord := errTok cls 0 0 (atBit c.k 4 3) a b ridx level c.gen

/-- The words of a list that are there. -/
def present (l : List (Option FWord)) : List FWord := l.filterMap id

/-! ## Elements (R358) -/

/-- The element at i of a mask's quarter is masked. -/
def elemMasked (f : Nat) (m : BitVec 4) (i : Nat) : Bool := m.getLsbD (elemQuarter f i)

/-- Element by element; masked quarters give 0. -/
def elementwise (f : Nat) (m : BitVec 4) (h : Nat → Nat → Nat → Nat) (a b : Quad) : Nat :=
  packElems f ((List.range (fieldElems f)).map (fun i =>
    if elemMasked f m i then 0 else h i (quadElem f a i) (quadElem f b i)))

/-- All ones of an element. -/
def elemOnes (f : Nat) (b : Bool) : Nat := if b then 2 ^ fmtBits f - 1 else 0

/-- FCMP's condition (R361). -/
def fcmpHolds (cond : Nat) (r : Option Int) : Bool :=
  match cond, r with
  | 0, some x => x == 0
  | 1, some x => x != 0
  | 1, none => true
  | 2, some x => decide (x < 0)
  | 3, some x => decide (x ≤ 0)
  | 4, some x => decide (0 < x)
  | 5, some x => decide (0 ≤ x)
  | 6, none => true
  | 7, some _ => true
  | _, _ => false

/-- ICMP's condition on w-bit elements (R312, R372). -/
def icmpHolds (f cond a b : Nat) : Bool :=
  match cond with
  | 0 => a == b
  | 1 => a != b
  | 2 => decide (intVal f a < intVal f b)
  | 3 => decide (intVal f b ≤ intVal f a)
  | 4 => decide (a < b)
  | _ => decide (b ≤ a)

/-- An exact integer result stored, wrapping or clamped (R371, R377). -/
def intStore (f : Nat) (sat : Bool) (v : Int) : Nat :=
  intBits (fmtBits f) (if sat then intClamp (fmtBits f) v else v)

/-- ISH (R379). -/
def shiftElem (f kind a b : Nat) : Nat :=
  let w := fmtBits f
  let c := b % w
  match kind with
  | 0 => a * 2 ^ c % 2 ^ w
  | 1 => a / 2 ^ c
  | _ => intBits w (intVal f a / (2 : Int) ^ c)

/-- The element result of a two-operand element-wise operator: m its MOD, r the rounding for the element. -/
def binElem (opc m : Nat) (r : Rnd) (a b : Nat) : Nat :=
  let f := r.fmt
  match opc with
  | 0x10 =>
    let y := fpDecode f b
    fpEncode r (fpAdd r.mode (fpDecode f a) (if m.testBit 0 then fpNeg y else y))
  | 0x11 => fpEncode r (fpMul (fpDecode f a) (fpDecode f b))
  | 0x13 => fpEncode r (fpMax (m.testBit 0) (fpDecode f a) (fpDecode f b))
  | 0x14 => elemOnes f (fcmpHolds (m % 8) (fpCmp (fpDecode f a) (fpDecode f b)))
  | 0x18 => intStore f (m.testBit 1) (if m.testBit 0 then intVal f a - intVal f b else intVal f a + intVal f b)
  | 0x19 => intStore f (m.testBit 0) (intVal f a * intVal f b)
  | 0x1A => (match m % 4 with
      | 0 => a &&& b
      | 1 => a ||| b
      | _ => a ^^^ b)
  | 0x1B => shiftElem f (m % 4) a b
  | 0x1C => elemOnes f (icmpHolds f (m % 8) a b)
  | 0x1D =>
    let below := if m.testBit 1 then decide (a < b) else decide (intVal f a < intVal f b)
    if m.testBit 0 then (if below then a else b) else (if below then b else a)
  | _ => a

/-- FSCL's factor for an element: its exponent clamped (R368). -/
def fsclK (perq : Bool) (f : Nat) (r : Quad) (i : Nat) : Int :=
  max (-1024) (min 1023 (sextN 32 (fld r.toNat (32 * (if perq then elemQuarter f i else 0)) 32)))

/-- Mask of an FCVT or ICVT result word: a quarter is masked when every element in it came from masked quarters, or it
holds none (R362). first is the first source element, n how many the word holds. -/
def cvtMask (src dst first n : Nat) (m : BitVec 4) : BitVec 4 :=
  BitVec.ofNat 4 (sumNat ((List.range 4).map (fun q =>
    if (List.range n).any (fun j => elemQuarter dst j == q && ! elemMasked src m (first + j)) then 0 else 2 ^ q)))

/-- FCVT and ICVT: the m result words of an input word (R362, R373). Position q of R165 counts source elements. -/
def convertWords (c : OpCtx) (wc ridx : Nat) (l : FWord) : List (Nat × BitVec 4) :=
  let src := c.s.mod % 16
  let dst := c.fmt
  let m := ownExecs c.t c.s
  let n := fieldElems src / m
  (List.range m).map (fun e =>
    (packElems dst ((List.range n).map (fun j =>
       let i := e * n + j
       if elemMasked src l.mask i then 0
       else convElem src 0 (cttRnd c.ctt ridx (16 * wc + i)) (quadElem src l.data i))),
     cvtMask src dst (e * n) n l.mask))

/-- PICK (R412). -/
def pickWord (c : OpCtx) (l : FWord) : Nat × BitVec 4 :=
  let f := c.fmt
  if elemMasked f l.mask c.s.mod then (0, 15)
  else (packElems f (List.replicate (fieldElems f) (quadElem f l.data c.s.mod)), l.mask)

/-- MASK (R393). -/
def maskWord (c : OpCtx) (psn : Bool) (l : FWord) (r : Quad) : Nat × BitVec 4 :=
  if c.s.mod.testBit 1 then (l.data.toNat, 0)
  else
    let m := l.mask.toNat ||| sumNat ((List.range 4).map (fun q =>
      if (r.getLsbD (32 * q) != c.s.mod.testBit 0) then 0 else 2 ^ q))
    if m = 15 ∧ psn = true then (0, 7) else (l.data.toNat, BitVec.ofNat 4 m)

/-! ## Operators under R106 -/

/-- FMAC's addends: CTAB[I], or the running values (R365). -/
def fmacAddend (c : OpCtx) (st : OpSt) (i : Nat) : Nat :=
  let base := quadElem c.fmt (BitVec.ofNat 128 (c.ctab.getD (c.s.mod % 8) 0)) i
  if c.s.mod.testBit 3 then (st.acc.getD i none).getD base else base

/-- FMAC's results. -/
def fmacWord (c : OpCtx) (st : OpSt) (ridx : Nat) (m : BitVec 4) (l r : Quad) : Nat :=
  elementwise c.fmt m (fun i a b =>
    let p := fpMul (fpDecode c.fmt a) (fpDecode c.fmt b)
    let p := if c.s.mod.testBit 4 then fpNeg p else p
    let rd := cttRnd c.ctt ridx (16 * st.wc + i)
    fpEncode rd (fpAdd rd.mode p (fpDecode c.fmt (fmacAddend c st i)))) l r

/-- FMAC's running values after a word: those of unmasked quarters take the results. -/
def fmacNext (c : OpCtx) (st : OpSt) (m : BitVec 4) (y : Nat) : OpSt :=
  if c.s.mod.testBit 3 then
    { st with acc := (List.range (fieldElems c.fmt)).map (fun i =>
        some (if elemMasked c.fmt m i then fmacAddend c st i else quadElem c.fmt (BitVec.ofNat 128 y) i)) }
  else st

/-- The results of an operator on data words l and r: data and mask of each execution, and the slot's state. -/
def computeOp (c : OpCtx) (st : OpSt) (l r : FWord) (ridx : Nat) (psn : Bool) : OpSt × List (Nat × BitVec 4) :=
  let f := c.fmt
  let m := l.mask ||| r.mask
  let rd : Nat → Rnd := fun i => cttRnd c.ctt ridx (16 * st.wc + i)
  match c.s.opc with
  | 0x01 => (st, [(c.ctab.getD (c.s.mod % 8) 0, l.mask)])
  | 0x02 => (st, [pickWord c l])
  | 0x0C => (st, [maskWord c psn l r.data])
  | 0x12 =>
    let y := fmacWord c st ridx m l.data r.data
    (fmacNext c st m y, [(y, m)])
  | 0x15 => (st, convertWords c st.wc ridx l)
  | 0x1E => (st, convertWords c st.wc ridx l)
  | 0x16 => (st, [(elementwise f l.mask (fun i a _ => sfn (rd i) (c.s.mod % 8) a) l.data l.data, l.mask)])
  | 0x17 =>
    (st, [(elementwise f l.mask (fun i a _ => fpEncode (rd i) (fpScale (fsclK (c.s.mod.testBit 0) f r.data i) (fpDecode f a)))
      l.data l.data, l.mask)])
  | opc => (st, [(elementwise f m (fun i a b => binElem opc c.s.mod (rd i) a b) l.data r.data, m)])

/-- Result data with the left operand's quarters where the predicate's bit is 0 (R106). -/
def selectQuarters (p l : Quad) (x : Nat) : Nat :=
  sumNat ((List.range 4).map (fun q =>
    fld (if p.getLsbD (32 * q) then x else l.toNat) (32 * q) 32 * 2 ^ (32 * q)))

/-- A bare end token beside a data word is taken as a fully masked word (R106). -/
def asMasked (w : FWord) : FWord := if isBare w then { w with data := 0, mask := 15 } else w

/-- The running values of an FMAC go back after a word of END 1 or more (R365). -/
def fmacClose (c : OpCtx) (st : OpSt) (w : FWord) : OpSt :=
  if c.s.opc = 0x12 ∧ 1 ≤ wEnd w then { st with acc := [] } else st

/-- An operator under the rules of R106. A constant operand is no bare end token, so a bare end token beside one gives a fully
masked word (log entry 34). A fully masked result whose poison is 1 stays a data word in MASK (R393); from another operator it has
the form of an error token (R107): the spec does not say what it is, and it goes on as that form has it (DESIGN CHOICE, log entry
145). -/
def stdOp (c : OpCtx) (st : OpSt) (l : FWord) (r p : Option FWord) : OpOut :=
  let errs := (present [some l, r, p]).filter isErr
  let data := present [some l, r]
  let src := if c.s.lc then r.getD l else l
  match errs with
  | e :: es => { st := fmacClose c st l, outs := [(3, e)], sink := es }
  | [] =>
    if data.all isBare then outBoth (fmacClose c st l) (bareEnd (wEnd l) l.ridx.toNat c.gen)
    else
      let masked := data.any isBare
      let psn := (present [some l, r, p]).any (fun w => w.psn)
      let keeps := masked && psn && c.s.opc == 0x0C
      let l' := asMasked l
      let r' := asMasked (r.getD (constWord 0))
      let x := computeOp c st l' r' src.ridx.toNat psn
      let n := x.2.length
      { st := fmacClose c x.1 l,
        outs := (List.range n).map (fun i =>
          let y := x.2.getD i (0, 0)
          let m : BitVec 4 := if keeps then 7 else if masked then 15 else y.2
          let d := if keeps then 0 else match p with
            | some pw => selectQuarters pw.data l'.data y.1
            | none => y.1
          (3, dataWord d src.ridx.toNat (if i + 1 = n then wEnd src else 0) c.gen psn m)),
        sink := [] }

/-! ## Counting, indices, ends and error makers -/

/-- CNTR (R345). -/
def cntrOp (c : OpCtx) (st : OpSt) (x : FWord) : OpOut :=
  if isErr x then outBoth st x
  else
    let index := c.s.mod / 8 == 1
    let data := isData x
    let r1 : Option FWord :=
      if data && index then some (dataWord st.cnt x.ridx.toNat (wEnd x) c.gen x.psn 0) else none
    let st1 := if data then { st with cnt := min (st.cnt + 1) (2 ^ 32 - 1), psn := st.psn || x.psn } else st
    if c.s.mod % 8 ≤ wEnd x then
      let r2 := if index then r1 else some (dataWord st1.cnt x.ridx.toNat (wEnd x) c.gen st1.psn 0)
      { st := { st1 with cnt := 0, psn := false }, outs := (r2.toList).map (fun w => (3, w)), sink := [] }
    else
      let r2 := if isBare x && index then some x else r1
      { st := st1, outs := (r2.toList).map (fun w => (3, w)), sink := [] }

/-- IDXG (R374). -/
def idxgOp (c : OpCtx) (st : OpSt) (x : FWord) : OpOut :=
  if isErr x then outBoth st x
  else
    let cv := c.ctab.getD (c.s.mod % 8) 0
    let s := sextN 32 (fld cv 32 32)
    let w := if isData x then
        dataWord (packElems 10 ((List.range 4).map (fun e =>
          intBits 32 ((fld cv 0 32 : Int) + ((4 * st.cnt + e : Nat) : Int) * s)))) x.ridx.toNat (wEnd x) c.gen x.psn 0
      else x
    outBoth { st with cnt := if 1 ≤ wEnd x then 0 else if isData x then st.cnt + 1 else st.cnt } w

/-- ENDT (R352). -/
def endtOp (c : OpCtx) (st : OpSt) (x : FWord) : OpOut :=
  let v := c.s.mod % 8
  let g := wEnd x
  let g' := match c.s.mod / 8 with
    | 0 => if 1 ≤ g then max g v else 0
    | 1 => if 1 ≤ g then min g v else 0
    | _ => g - v
  if isBare x && g' == 0 then outNone st else outBoth st (withEnd x g')

/-- ERRS (R354): with an error token or a bare end token for x or c the result is that of R106, an error token of the predicate
included. -/
def errsOp (c : OpCtx) (st : OpSt) (x cw : FWord) (p : Option FWord) : OpOut :=
  match [x, cw].filter isErr with
  | e :: es => { st := st, outs := [(3, e)], sink := es ++ (p.toList).filter isErr }
  | [] =>
    let src := if c.s.lc then cw else x
    if isBare x && isBare cw then outBoth st (bareEnd (wEnd x) x.ridx.toNat c.gen)
    else if isBare x || isBare cw then
      match p.filter isErr with
      | some e => { st := st, outs := [(3, e)], sink := [] }
      | none => outBoth st (dataWord 0 src.ridx.toNat (wEnd src) c.gen ((present [some x, some cw, p]).any (fun w => w.psn)) 15)
    else if (match p with
      | some w => ! w.data.getLsbD 0
      | none => false) then outBoth st x
    else
      let e := opTok c (128 + fld cw.data.toNat 0 7) (fld x.data.toNat 0 32) (fld cw.data.toNat 32 32) x.ridx.toNat (wEnd x)
      if c.s.mod.testBit 0 then
        { st := st, outs := if 1 ≤ wEnd x then [(3, bareEnd (wEnd x) x.ridx.toNat c.gen)] else [], sink := [e] }
      else outBoth st e

/-! ## Reductions (R151-R153, R416, R417, R421) -/

/-- How a reduction with a channel type entry rounds: RNE; SAT and FTZ are the entry's, for FMAX and FMIN alone (R405). -/
def redRnd (ctt : Nat) : Rnd := { rne (fld ctt 28 4) with sat := ctt.testBit 24, ftz := ctt.testBit 23 }

/-- The side that is there, where the other is absent: a NaN leaves as the produced NaN (R151, R160). -/
def redLone (op f x : Nat) : Nat :=
  if op < 3 then (match fpDecode f x with
    | .nan => fpNan f
    | _ => x)
  else x

/-- a ⊕ b on elements of a format: 0 FADD (RNE), 1 FMAX, 2 FMIN, 3 IADD, 4 IMAX, 5 IMIN; an absent side gives the other. -/
def redElem (op : Nat) (r : Rnd) (a b : Option Nat) : Option Nat :=
  let f := r.fmt
  match a, b with
  | none, y => y.map (redLone op f)
  | x, none => x.map (redLone op f)
  | some x, some y => some (match op with
    | 0 => fpEncode (rne f) (fpAdd 0 (fpDecode f x) (fpDecode f y))
    | 1 => fpEncode r (fpMax false (fpDecode f x) (fpDecode f y))
    | 2 => fpEncode r (fpMax true (fpDecode f x) (fpDecode f y))
    | 3 => (x + y) % 2 ^ fmtBits f
    | 4 => if intVal f x < intVal f y then y else x
    | _ => if intVal f y < intVal f x then y else x)

/-- Element by element. -/
def redVec (op : Nat) (r : Rnd) (a b : List (Option Nat)) : List (Option Nat) :=
  (List.range (fieldElems r.fmt)).map (fun i => redElem op r (a.getD i none) (b.getD i none))

/-- A word's elements; those of masked quarters are absent. -/
def wordVec (f : Nat) (w : FWord) : List (Option Nat) :=
  (List.range (fieldElems f)).map (fun i => if elemMasked f w.mask i then none else some (quadElem f w.data i))

/-- The word of a vector: quarters whose every element is absent are masked. -/
def vecWord (f : Nat) (v : List (Option Nat)) (ridx level : Nat) (gen psn : Bool) : FWord :=
  dataWord (packElems f ((List.range (fieldElems f)).map (fun i => (v.getD i none).getD 0))) ridx level gen psn
    (BitVec.ofNat 4 (sumNat ((List.range 4).map (fun q =>
      if (List.range (fieldElems f)).any (fun i => elemQuarter f i == q && (v.getD i none).isSome) then 0 else 2 ^ q))))

/-- Partial q of REDS. -/
def redsPart (f : Nat) (st : OpSt) (q : Nat) : List (Option Nat) :=
  (st.acc.drop (q * fieldElems f)).take (fieldElems f)

/-- REDS after a data word of the run. -/
def redsTake (op : Nat) (r : Rnd) (st : OpSt) (x : FWord) : OpSt :=
  let q := st.words % 4
  let f := r.fmt
  let part : Nat → List (Option Nat) := fun i =>
    if i = q then redVec op r (redsPart f st i) (wordVec f x)
    else (List.range (fieldElems f)).map (fun j => (redsPart f st i).getD j none)
  { st with acc := part 0 ++ part 1 ++ part 2 ++ part 3, words := st.words + 1, psn := st.psn || x.psn }

/-- REDS (R151, R417). -/
def redsOp (c : OpCtx) (st : OpSt) (x : FWord) : OpOut :=
  let op := c.s.mod / 4
  let f := c.fmt
  let rd := redRnd c.ctt
  let st1 :=
    if isErr x then (if st.err.isNone then { st with err := some x } else st)
    else if isBare x || st.err.isSome then st
    else redsTake op rd st x
  if wEnd x < c.s.mod % 4 + 1 then outNone st1
  else
    let p := redsPart f st1
    let w := match st1.err with
      | some e => { withEnd e (wEnd x) with ridx := x.ridx }
      | none =>
        if st1.words = 0 then bareEnd (wEnd x) x.ridx.toNat c.gen
        else vecWord f (redVec op rd (redVec op rd (p 0) (p 1)) (redVec op rd (p 2) (p 3))) x.ridx.toNat (wEnd x) c.gen st1.psn
    outBoth { st1 with acc := [], words := 0, psn := false, err := none } w

/-- The identity of an operation (R152), as the format writes it (R161). -/
def redIdentity (op : Nat) (r : Rnd) : Nat :=
  match op with
  | 0 => 0
  | 1 => fpInfBits r.fmt r.sat true
  | 2 => fpInfBits r.fmt r.sat false
  | 3 => 0
  | 4 => 2 ^ (fmtBits r.fmt - 1)
  | _ => 2 ^ (fmtBits r.fmt - 1) - 1

/-- SCNS (R152, R421): an accumulator that has taken nothing holds the identity. -/
def scnsOp (c : OpCtx) (st : OpSt) (x : FWord) : OpOut :=
  if isErr x then outBoth st x
  else if isBare x then outBoth { st with acc := [] } x
  else
    let op := c.s.mod / 4
    let f := c.fmt
    let rd := redRnd c.ctt
    let v := wordVec f x
    let el : Nat → Option Nat × Option Nat := fun i =>
      let before := (st.acc.getD i none).getD (redIdentity op rd)
      match v.getD i none with
      | none => (some before, none)
      | some e =>
        let y := redElem op rd (some before) (some e)
        (y, if c.s.mod.testBit 1 then some before else y)
    let is := List.range (fieldElems f)
    outBoth { st with acc := if 1 ≤ wEnd x then [] else is.map (fun i => (el i).1) }
      (dataWord (packElems f (is.map (fun i => ((el i).2).getD 0))) x.ridx.toNat (wEnd x) x.gen x.psn x.mask)

/-- A keyed vector put in its place in rising order of keys. -/
def keyPut (k : Nat) (v : List (Option Nat)) : List (Nat × List (Option Nat)) → List (Nat × List (Option Nat))
  | [] => [(k, v)]
  | (a, x) :: l => if k < a then (k, v) :: (a, x) :: l else (a, x) :: keyPut k v l

/-- One level of the tree of keys (R153): keys 2i and 2i + 1 meet at i. -/
def treeLevel (op : Nat) (r : Rnd) : List (Nat × List (Option Nat)) → List (Nat × List (Option Nat))
  | [] => []
  | [(a, x)] => [(a / 2, x)]
  | (a, x) :: (b, y) :: l =>
    if a / 2 = b / 2 then (a / 2, redVec op r x y) :: treeLevel op r l
    else (a / 2, x) :: treeLevel op r ((b, y) :: l)

/-- The tree after n levels. -/
def treeUp (op : Nat) (r : Rnd) : Nat → List (Nat × List (Option Nat)) → List (Nat × List (Option Nat))
  | 0, l => l
  | n + 1, l => treeUp op r n (treeLevel op r l)

/-- RdocTree (R153). -/
def rdocTree (op : Nat) (r : Rnd) (l : List (Nat × List (Option Nat))) : List (Option Nat) :=
  ((treeUp op r 24 l).headD (0, [])).2

/-- An empty set. -/
def rset0 (pos count : Nat) : RSet := { pos := pos, count := count, got := 0, keys := [], err := none, psn := false }

/-- A word joins a set: the set, and a DUPKEY token for a repeated key (R153, R416). -/
def rsetAdd (c : OpCtx) (s : RSet) (key b : Nat) (x : FWord) : RSet × List FWord :=
  let seen := s.keys.any (fun e => e.1 == key)
  if isErr x then
    ({ s with got := s.got + 1, err := if s.err.isSome then s.err else some x,
              keys := if seen then s.keys else keyPut key [] s.keys }, [])
  else if seen then (s, [opTok c 6 key b x.ridx.toNat 0])
  else ({ s with got := s.got + 1, keys := keyPut key (wordVec c.fmt x) s.keys, psn := s.psn || x.psn }, [])

/-- The result of a set. -/
def rsetWord (c : OpCtx) (op : Nat) (s : RSet) (ridx level : Nat) : FWord :=
  match s.err with
  | some e => { withEnd e level with ridx := BitVec.ofNat 24 ridx }
  | none =>
    if s.keys.isEmpty then bareEnd level ridx c.gen
    else vecWord c.fmt (redVec op (redRnd c.ctt) (rdocTree op (redRnd c.ctt) s.keys) []) ridx level c.gen s.psn

/-- RDOC in stream mode: the key is the word's RIDX (R153). -/
def rdocStream (c : OpCtx) (st : OpSt) (op : Nat) (x : FWord) : OpOut :=
  let s := st.sets.headD (rset0 0 0)
  let r := if isBare x then (s, []) else rsetAdd c s x.ridx.toNat x.ridx.toNat x
  if wEnd x < c.s.mod % 8 then { st := { st with sets := [r.1] }, outs := [], sink := r.2 }
  else { st := { st with sets := [] }, outs := [(3, rsetWord c op r.1 x.ridx.toNat (wEnd x))], sink := r.2 }

/-- RDOC in keyed mode (R153, R416); a CNT above 64 makes a KEYFMT token (log entry 185). -/
def rdocKeyed (c : OpCtx) (st : OpSt) (op : Nat) (x kw : FWord) : OpOut :=
  let kd := kw.data.toNat
  let key := fld kd 0 24
  let pos := fld kd 24 8
  let cnt := fld kd 40 8
  let old := st.sets.find? (fun s => s.pos == pos)
  if isBare x then { st := st, outs := [(3, x)], sink := if isErr kw then [kw] else [] }
  else if isErr kw then { st := st, outs := [], sink := [kw] }
  else if isBare kw || cnt == 0 || fld kd 32 8 != 0 || fld kd 48 16 != 0 ||
      (match old with
        | some s => s.count != cnt
        | none => false) || decide (64 < cnt) then
    { st := st, outs := [], sink := [opTok c 7 (fld kd 0 32) (fld kd 32 32) x.ridx.toNat 0] }
  else if old.isNone && decide (256 ≤ st.sets.length) then
    { st := st, outs := [], sink := [opTok c 9 key pos x.ridx.toNat 0] }
  else
    let r := rsetAdd c (old.getD (rset0 pos cnt)) key pos x
    let rest := st.sets.filter (fun s => s.pos != pos)
    if r.1.got < cnt then { st := { st with sets := rest ++ [r.1] }, outs := [], sink := r.2 }
    else { st := { st with sets := rest }, outs := [(3, rsetWord c op r.1 pos 1)], sink := r.2 }

/-! ## Routing and loops (R118-R124) -/

/-- STEER (R120). -/
def steerOp (st : OpSt) (x p : FWord) : OpOut :=
  if isErr x then { st := st, outs := [(1, x)], sink := if isErr p then [p] else [] }
  else if isErr p then { st := st, outs := [(1, p)], sink := [] }
  else if isBare x then outBoth st x
  else if isBare p then outBoth st p
  else { st := st, outs := [(if p.data.getLsbD 0 then 1 else 2, x)], sink := [] }

/-- MERGE (R120): the control passes when it is a token, else the word taken. -/
def mergeOp (st : OpSt) (l r : Option FWord) (p : FWord) : OpOut :=
  if isErr p || isBare p then outBoth st p
  else match (if p.data.getLsbD 0 then l else r) with
    | some w => outBoth st w
    | none => outNone st

/-- LCAR's output (R121, R384). -/
def lcarOut (st : OpSt) (l : Option FWord) : OpOut :=
  if st.first then (match l with
    | some w => outBoth st w
    | none => outNone st)
  else match st.held with
    | some h => outBoth st h
    | none => outNone st

/-- LCAR at the end of a firing: H takes the back edge. -/
def lcarTake (m : Nat) (st : OpSt) (r : FWord) : OpSt := { st with held := some r, first := decide (m % 8 ≤ wEnd r) }

/-- LCTL (R122, R385): an iteration word passes, a done word counts. -/
def lctlOp (m : Nat) (st : OpSt) (l r : Option FWord) : OpOut :=
  let st1 := match l with
    | some w => if 1 ≤ wEnd w then { st with credit := st.credit - 1 } else st
    | none => st
  let st2 := match r with
    | some _ => if m % 32 + 1 ≤ st1.cnt + 1 then { st1 with cnt := 0, credit := st1.credit + 1 }
                else { st1 with cnt := st1.cnt + 1 }
    | none => st1
  { st := st2, outs := (l.toList).map (fun w => (3, w)), sink := (r.toList).filter isErr }

/-- CMPT (R123, R344): rl the longest record, x the data word and p its selector. -/
def cmptOp (c : OpCtx) (rl : Nat) (st : OpSt) (x p : FWord) : OpOut :=
  let recLen : Nat → List FWord := fun n =>
    if rl < n then [opTok c 4 x.ridx.toNat (min n (2 ^ 32 - 1)) x.ridx.toNat 0] else []
  if isBare x then
    { st := { st with inRun := false, cnt := 0 }, outs := [(3, x)],
      sink := (if isErr p then [p] else []) ++ (if st.inRun then recLen st.cnt else []) }
  else
    let arm := if st.inRun then st.arm else ! isErr p && p.data.getLsbD 0
    let sink1 := if ! st.inRun && isErr p then [p] else []
    let n := st.cnt + 1
    let here := if arm then 1 else 2
    let g := wEnd x
    let passed : List (Nat × FWord) := if n ≤ rl then [(here, if n = rl then withEnd x (max 1 g) else x)] else []
    if g = 0 then { st := { st with inRun := true, arm := arm, cnt := min n (2 ^ 32 - 1) }, outs := passed, sink := sink1 }
    else
      { st := { st with inRun := false, cnt := 0 },
        outs := passed ++ (if 2 ≤ g then [(3 - here, bareEnd g x.ridx.toNat c.gen)] else []),
        sink := sink1 ++ recLen n }

/-- E changes. What it was before the advance cycle in progress stands for that cycle (R123). -/
def setExp (c : OpCtx) (st : OpSt) (e : Nat) : OpSt :=
  { st with exp := e % 2 ^ 24, expOld := if st.expAt = c.now then st.expOld else st.exp, expAt := c.now }

/-- The level an arm is closed at: by its last record, or by the bare end token at its head (R124). -/
def armClosed (closed : Option Nat) (head : Option FWord) : Option Nat :=
  match closed with
  | some g => some g
  | none => match head with
    | some w => if isBare w then some (wEnd w) else none
    | none => none

/-- What ORDM takes in its next firing (R124). -/
inductive OrdmTake where
  | wait
  | arm (one : Bool)
  | close (g : Nat) (take1 take0 : Bool)
  deriving DecidableEq, Repr

/-- Distance of a record index ahead of E. -/
def ahead (e : Nat) (w : FWord) : Nat := (w.ridx.toNat + 2 ^ 24 - e) % 2 ^ 24

/-- A bare end token at the head of the arm whose record is in progress belongs to no record and closes the arm (R117, R124): the
record ends with the word held, and E stays, for its last word has not come (DESIGN CHOICE, log entry 170). -/
def ordmCut (st : OpSt) (h1 h0 : Option FWord) : OpSt :=
  if st.inRun && ((if st.arm then h1 else h0).any isBare) then
    { st with inRun := false, drop := false,
              held := if st.drop then st.held else st.held.map (fun w => withEnd w (max 1 (wEnd w))) }
  else st

/-- ORDM's choice from its state, with no cut record in progress, and the heads of its arms. Where both begin a record with RIDX = E
it takes arm 1 (DESIGN CHOICE, log entry 170). A head behind E goes before a record with RIDX = E at the other arm, and of two heads at one
distance from E arm 1 goes first (log entry 181). -/
def ordmPick (st : OpSt) (h1 h0 : Option FWord) : OrdmTake :=
  if st.inRun then (if ((if st.arm then h1 else h0).isSome) then .arm st.arm else .wait)
  else
    let c1 := armClosed st.close1 h1
    let c0 := armClosed st.close0 h0
    match c1, c0 with
    | some a, some b => .close (max a b) st.close1.isNone st.close0.isNone
    | _, _ =>
      let w1 := if c1.isSome then none else h1
      let w0 := if c0.isSome then none else h0
      let behind : Option FWord → Bool := fun w => match w with
        | some w => decide (2 ^ 23 ≤ ahead st.exp w)
        | none => false
      let isE : Option FWord → Bool := fun w => match w with
        | some w => ahead st.exp w == 0
        | none => false
      if behind w1 then .arm true
      else if behind w0 then .arm false
      else if isE w1 then .arm true
      else if isE w0 then .arm false
      else match w1, w0 with
        | some a, some b => .arm (decide (ahead st.exp a ≤ ahead st.exp b))
        | some _, none => if c0.isSome then .arm true else .wait
        | none, some _ => if c1.isSome then .arm false else .wait
        | none, none => .wait

/-- ORDM's choice from its state and the heads of its arms. -/
def ordmChoose (st : OpSt) (h1 h0 : Option FWord) : OrdmTake := ordmPick (ordmCut st h1 h0) h1 h0

/-- The held word as it leaves inside a group: END 1 for the last word of its record, else 0. -/
def heldOut (st : OpSt) : List (Nat × FWord) := (st.held.toList).map (fun w => (3, withEnd w (min 1 (wEnd w))))

/-- An arm's word is taken. -/
def ordmWord (c : OpCtx) (st : OpSt) (one : Bool) (w : FWord) : OpOut :=
  let ends := decide (1 ≤ wEnd w)
  let closeLvl := if 2 ≤ wEnd w then some (wEnd w) else none
  let setClose : OpSt → OpSt := fun s => if one then { s with close1 := closeLvl } else { s with close0 := closeLvl }
  if st.inRun && st.drop then
    { st := if ends then setClose { st with inRun := false, drop := false } else st, outs := [], sink := [] }
  else if ! st.inRun && decide (2 ^ 23 ≤ ahead st.exp w) then
    { st := if ends then setClose st else { st with inRun := true, arm := one, drop := true }, outs := [],
      sink := [opTok c 5 w.ridx.toNat st.exp w.ridx.toNat 0] }
  else
    let st1 := if st.inRun then st else if st.exp = w.ridx.toNat then st else setExp c st w.ridx.toNat
    let st2 := { st1 with held := some w, arm := one, inRun := ! ends }
    { st := if ends then setClose (setExp c st2 (st2.exp + 1)) else st2, outs := heldOut st, sink := [] }

/-- ORDM (R124, R409): elv the close level of its pair; heads as the firing took them. A bare end token that it makes carries E
(DESIGN CHOICE, log entry 170). -/
def ordmOp (c : OpCtx) (elv : Nat) (st : OpSt) (h1 h0 : Option FWord) : OpOut :=
  let take := ordmChoose st h1 h0
  let st := ordmCut st h1 h0
  match take with
  | .wait => outNone st
  | .arm one =>
    (match (if one then h1 else h0) with
      | some w => ordmWord c st one w
      | none => outNone st)
  | .close g _ _ =>
    let w := match st.held with
      | some h => withEnd h g
      | none => bareEnd g st.exp c.gen
    let st1 := { st with held := none, close1 := none, close0 := none }
    { st := if elv ≤ g then setExp c st1 0 else st1, outs := [(3, w)], sink := [] }

/-! ## One execution -/

/-- The count of input words since the last END (R165): one an execution, by its left word, or by the right one beside a left constant
(log entry 187). -/
def stepWc (c : OpCtx) (st : OpSt) (l r : Option FWord) : OpSt :=
  match (if c.s.lc then r else l) with
  | some w => { st with wc := if 1 ≤ wEnd w then 0 else st.wc + 1 }
  | none => st

/-- The operand of a position: the constant table where SCT says so (R106). -/
def operand (c : OpCtx) (isConst : Bool) (i : Nat) (w : Option FWord) : Option FWord :=
  if isConst then some (constWord (c.ctab.getD i 0)) else w

/-- One execution of the slot on the words l, r and p. -/
def opExec (c : OpCtx) (st : OpSt) (l r p : Option FWord) : OpOut :=
  let l := operand c c.s.lc c.s.lci l
  let r := operand c c.s.rc c.s.rci r
  let out := match c.s.opc, l, r, p with
    | 0x00, some x, _, _ => outBoth st x
    | 0x03, some x, _, some q => steerOp st x q
    | 0x04, _, _, some q => mergeOp st l r q
    | 0x05, _, _, _ => lcarOut st l
    | 0x06, _, _, _ => lctlOp c.s.mod st l r
    | 0x07, some x, _, _ => cntrOp c st x
    | 0x08, some x, _, _ => idxgOp c st x
    | 0x09, some x, _, some q => cmptOp c (rptRl (rpt c.t (c.s.mod % 4))) st x q
    | 0x0A, _, _, _ => ordmOp c (rptElv (rpt c.t (c.s.mod % 4))) st l r
    | 0x0B, some x, _, _ => endtOp c st x
    | 0x0D, some x, some y, _ => errsOp c st x y p
    | 0x20, some x, _, _ => redsOp c st x
    | 0x21, some x, _, _ => scnsOp c st x
    | 0x22, some x, _, _ =>
      if c.s.mod % 8 = 0 then (match r with
        | some kw => rdocKeyed c st (c.s.mod / 8) x kw
        | none => outNone st)
      else rdocStream c st (c.s.mod / 8) x
    | _, some x, _, _ => stdOp c st x r p
    | _, _, _, _ => outNone st
  { out with st := stepWc c out.st l r }

end Sys2Proof.Machine
end

