-- ==== Sys2Proof/Machine/FieldFire.lean ====
section
/-!
DEFINITION. Firing of an operator group and the commit of its words (R105, R106, R109, R119, R133).
-/

namespace Sys2Proof.Machine

/-! ## Joined ports (R109) -/

/-- No end matching in progress. -/
def joinIdle : JoinSt := { mode := 0, hi := 0, short := [], closed := [], shortCount := 0, ridx := 0 }

/-- The state of a class, kept by its lowest port. -/
def joinOf (g : Group) (c : List Nat) : JoinSt := (assocGet g.joins (c.headD 0)).getD joinIdle

/-- Counts of a port with one more word. -/
def countsSeen (g : Group) (j : Nat) : List Nat := (g.counts.getD j (List.replicate 7 0)).map (fun x => x + 1)

/-- Counts after a word: those of the levels it closes start again. -/
def countsNext (seen : List Nat) (w : FWord) : List Nat :=
  (List.range 7).map (fun i => if i + 1 ≤ wEnd w then 0 else seen.getD i 0)

/-- The count since the last word of a level or above. -/
def countAt (counts : List Nat) (level : Nat) : Nat := counts.getD (level - 1) 0

/-- A word lowered to a level: a bare end token lowered to 0 is a fully masked word (R106). -/
def lowered (w : FWord) (l : Nat) : FWord :=
  if l = 0 ∧ isBare w = true then { w with fin := 0, data := 0 } else withEnd w l

/-- Largest and smallest END of words. -/
def endMax (l : List FWord) : Nat := l.foldl (fun m w => max m (wEnd w)) 0
/-- See endMax. -/
def endMin (l : List FWord) : Nat := l.foldl (fun m w => min m (wEnd w)) 7

/-- PAD of an input port. -/
def padOf (p : Plan) (j : Nat) : Bool := ((p.port j).map (fun x => x.pad)).getD false

/-- The pad constant of an input port. -/
def padConst (p : Plan) (j : Nat) : Nat := p.const (((p.port j).map (fun x => x.padc)).getD 0)

/-- A port has given its closing word. -/
def joinDone (js : JoinSt) (j : Nat) : Bool := js.closed.any (fun x => x.port == j)

/-- Whether a firing will not execute for a class: the ports it then takes, and whether it ends the check. Judged from the
heads of the ports. In check mode every long port gives a word in each firing, one that has closed too. The first firing of
check mode takes the words of unequal levels themselves, a short port's bare end token among them, though the text has a
firing that does not execute take words from the long ports alone (DESIGN CHOICE, log entry 146). -/
def joinJudge (p : Plan) (js : JoinSt) (c : List Nat) (head : Nat → Option FWord) : Option (List Nat × Bool) :=
  match js.mode with
  | 1 => none
  | 2 =>
    let l := c.filter (fun j => ! js.short.contains j)
    some (l, l.all (fun j => joinDone js j || (match head j with
      | some w => decide (js.hi ≤ wEnd w)
      | none => false)))
  | _ =>
    let ws := c.filterMap head
    if ws.length < c.length ∨ endMin ws = endMax ws then none
    else
      let short := c.filter (fun j => (head j).any (fun w => wEnd w == endMax ws))
      if short.all (padOf p) || short.all (fun j => (head j).any isData) then none else some (c, false)

/-- Ports of a class held out of a firing: the short ports, and in pad mode the long ports that have closed. -/
def joinHeld (js : JoinSt) : List Nat :=
  match js.mode with
  | 0 => []
  | 1 => js.short ++ js.closed.map (fun x => x.port)
  | _ => js.short

/-- Matching starts with the given short ports at level hi. -/
def joinStart (p : Plan) (short : List Nat) (hi count : Nat) (ridx : BitVec 24) : JoinSt :=
  { mode := if short.all (padOf p) then 1 else 2, hi := hi, short := short, closed := [], shortCount := count, ridx := ridx }

/-- What a class does with the words a firing takes: its state, whether the firing executes, the words the ports give, bare
end tokens for every output port, and the LENGTH token. -/
structure JoinOut where
  js : JoinSt
  exec : Bool
  words : List (Nat × FWord)
  ends : List FWord
  toks : List FWord
  deriving DecidableEq, Repr

/-- The LENGTH token of a class. -/
def lengthTok (p : Plan) (js : JoinSt) (c : List Nat) (closed : List JoinClosed) (gen : Bool) : FWord :=
  let s := js.short.headD 0
  let l := (c.filter (fun j => ! js.short.contains j)).headD 0
  let long := ((closed.find? (fun x => x.port == l)).map (fun x => countAt x.counts js.hi)).getD 0
  errTok 2 js.hi (s + 16 * l) (16 * p.k + s) js.shortCount long js.ridx.toNat 0 gen

/-- The long ports that close with the words taken. -/
def joinClosing (g : Group) (js : JoinSt) (ws : List (Nat × FWord)) : List JoinClosed :=
  ws.filterMap (fun e =>
    if ! js.short.contains e.1 && ! joinDone js e.1 && decide (js.hi ≤ wEnd e.2) then
      some { port := e.1, level := wEnd e.2, ridx := e.2.ridx, counts := countsSeen g e.1 }
    else none)

/-- A firing of pad mode: held-out ports supply their pads. -/
def joinPad (p : Plan) (js : JoinSt) (c : List Nat) (closed : List JoinClosed) (ws : List (Nat × FWord)) (gen : Bool) : JoinOut :=
  let done := c.all (fun j => js.short.contains j || closed.any (fun x => x.port == j))
  let own := ws.map (fun e => (e.1, if ! done && decide (js.hi ≤ wEnd e.2) then lowered e.2 0 else e.2))
  let r := ((own.map (fun e => e.2)).headD (constWord 0))
  let pads := (c.filter (fun j => ! ws.any (fun e => e.1 == j))).map (fun j =>
    (j, { constWord (padConst p j) with ridx := r.ridx, fin := r.fin, gen := gen }))
  let lvl := max js.hi (endMax (ws.map (fun e => e.2)))
  let out := own ++ pads
  { js := if done then joinIdle else { js with closed := closed }, exec := true,
    words := if done then out.map (fun e => (e.1, lowered e.2 lvl)) else out, ends := [], toks := [] }

/-- A firing of check mode: nothing executes; the last one sends the token and the ends. The bare end token carries the RIDX of the
short end word, as the LENGTH token does (DESIGN CHOICE, log entry 168). -/
def joinCheck (p : Plan) (js : JoinSt) (c : List Nat) (closed : List JoinClosed) (gen : Bool) : JoinOut :=
  let done := c.all (fun j => js.short.contains j || closed.any (fun x => x.port == j))
  if done then
    let g := closed.foldl (fun m x => max m x.level) 0
    let top := closed.filter (fun x => x.level == g)
    let low := (c.filterMap (fun j => top.find? (fun x => x.port == j))).head?
    { js := if js.hi < g then joinStart p (c.filter (fun j => top.any (fun x => x.port == j))) g
              ((low.map (fun x => countAt x.counts g)).getD 0) ((low.map (fun x => x.ridx)).getD 0)
            else joinIdle,
      exec := false, words := [], ends := [bareEnd js.hi js.ridx.toNat gen], toks := [lengthTok p js c closed gen] }
  else { js := { js with closed := closed }, exec := false, words := [], ends := [], toks := [] }

/-- A class takes the words ws, in rising order of ports. -/
def joinStep (p : Plan) (g : Group) (js : JoinSt) (c : List Nat) (ws : List (Nat × FWord)) (gen : Bool) : JoinOut :=
  match js.mode with
  | 1 => joinPad p js c (js.closed ++ joinClosing g js ws) ws gen
  | 2 => joinCheck p js c (js.closed ++ joinClosing g js ws) gen
  | _ =>
    let hi := endMax (ws.map (fun e => e.2))
    let lo := endMin (ws.map (fun e => e.2))
    if ws.isEmpty || lo == hi then { js := joinIdle, exec := true, words := ws, ends := [], toks := [] }
    else
      let short := (ws.filter (fun e => wEnd e.2 == hi)).map (fun e => e.1)
      let s := short.headD 0
      let js1 := joinStart p short hi (countAt (countsSeen g s) hi)
        (((ws.find? (fun e => e.1 == s)).map (fun e => e.2.ridx)).getD 0)
      { js := js1, exec := js1.mode == 1 || (ws.filter (fun e => wEnd e.2 == hi)).all (fun e => isData e.2),
        words := ws.map (fun e => (e.1, if wEnd e.2 = hi then lowered e.2 lo else e.2)), ends := [], toks := [] }

/-! ## Words of a firing -/

/-- What a firing has computed so far: words at operand positions (position code 3 × slot + position), words for output
ports, error tokens, slot states, and whether a CMPT is held by its window. -/
structure Firing where
  ins : List (Nat × FWord)
  outs : List (Nat × FWord)
  sink : List FWord
  ops : List OpSt
  blocked : Bool
  deriving DecidableEq, Repr

/-- Words at a position, in order. -/
def Firing.at (x : Firing) (n pos : Nat) : List FWord :=
  (x.ins.filter (fun e => e.1 == 3 * n + pos)).map (fun e => e.2)

/-- A word reaches a target (R106: E = 0 strips END and drops bare end tokens). -/
def giveTo (t : Tgt) (w : FWord) (x : Firing) : Firing :=
  if ! t.e && isBare w then x
  else
    let w := if t.e then w else withEnd w 0
    if t.pos = 3 then { x with outs := x.outs ++ [(t.slot, w)] } else { x with ins := x.ins ++ [(3 * t.slot + t.pos, w)] }

/-- A result word reaches the targets its mask names. -/
def giveOut (s : SlotPlan) (x : Firing) (e : Nat × FWord) : Firing :=
  let put : Nat → Firing → Firing := fun i x => match s.tgts.getD i none with
    | some t => giveTo t e.2 x
    | none => x
  let x := if e.1 % 2 = 1 then put 0 x else x
  if e.1 / 2 % 2 = 1 then put 1 x else x

/-- A position of a slot is fed by words. -/
def wordFed (p : Plan) (n pos : Nat) : Bool := (p.feeds n pos).any (fun f => f != Feed.const)

/-- Item e of a list, the last item after its end. -/
def itemOrLast (l : List FWord) (e : Nat) : Option FWord := match l[e]? with
  | some w => some w
  | none => l.getLast?

/-- The operands of each execution of slot s (R105, R119, R359, R384, R385, R397). -/
def execInputs (p : Plan) (s : SlotPlan) (st : OpSt) (x : Firing) (head : Nat → Option FWord) :
    List (Option FWord × Option FWord × Option FWord) :=
  let l := x.at s.n 0
  let r := x.at s.n 1
  let q := x.at s.n 2
  let portHead : Nat → Option FWord := fun pos => (p.feeds s.n pos).findSome? (fun f => match f with
    | .port j => head j
    | _ => none)
  match s.opc with
  | 0x05 => if st.first && l.isEmpty then [] else [(l.head?, none, none)]
  | 0x04 => if q.isEmpty then [] else [(l.head?, r.head?, q.head?)]
  | 0x06 => (List.range (max l.length r.length)).map (fun e => (l[e]?, r[e]?, none))
  | 0x0A => [(portHead 0, portHead 1, none)]
  | _ =>
    let fed := [0, 1, 2].filter (wordFed p s.n)
    if fed.any (fun pos => (x.at s.n pos).isEmpty) then []
    else (List.range (fed.foldl (fun m pos => max m (x.at s.n pos).length) 0)).map (fun e =>
      (itemOrLast l e, itemOrLast r e, itemOrLast q e))

/-- The E of the ORDM of reorder pair w as CMPT sees it (R123). -/
def pairE (fl : Floe) (w : Nat) : Nat :=
  let o := rptO w
  let st := ((fl.field.groups.getD o.1 Group.reset).ops).getD o.2 OpSt.reset
  if st.expAt + 1 ≤ fl.cyc then st.exp else st.expOld

/-- A CMPT may not take this word yet (R123). -/
def cmptHeld (fl : Floe) (s : SlotPlan) (st : OpSt) (l : Option FWord) : Bool :=
  match l with
  | some w =>
    let v := rpt fl.cfg.cur (s.mod % 4)
    s.opc == 9 && ! st.inRun && ! isBare w && decide (rptWin v ≤ ahead (pairE fl v) w)
  | none => false

/-- One execution of slot s in a firing. -/
def execOne (fl : Floe) (p : Plan) (s : SlotPlan) (x : Firing) (a : Option FWord × Option FWord × Option FWord) : Firing :=
  let st := x.ops.getD s.n OpSt.reset
  let c : OpCtx := { t := fl.cfg.cur, k := p.k, ctab := p.ctab, s := s, gen := fl.cfg.gen, now := fl.cyc }
  let o := opExec c st a.1 a.2.1 a.2.2
  o.outs.foldl (giveOut s)
    { x with ops := x.ops.set s.n o.st, sink := x.sink ++ o.sink, blocked := x.blocked || cmptHeld fl s st a.1 }

/-- Every execution of slot s in a firing. -/
def execSlot (fl : Floe) (p : Plan) (head : Nat → Option FWord) (x : Firing) (s : SlotPlan) : Firing :=
  (execInputs p s (x.ops.getD s.n OpSt.reset) x head).foldl (execOne fl p s) x

/-- The back edge of an LCAR at the end of a firing (R384). -/
def takeBack (p : Plan) (x : Firing) (s : SlotPlan) : Firing :=
  if s.opc = 5 then
    match (if s.rc then [constWord (p.const s.rci)] else x.at s.n 1).getLast? with
    | some r => { x with ops := x.ops.set s.n (lcarTake s.mod (x.ops.getD s.n OpSt.reset) r) }
    | none => x
  else x

/-- The words of a port go to its targets. -/
def givePort (x : Firing) (e : PortPlan × List FWord) : Firing :=
  e.1.tgts.foldl (fun x t => e.2.foldl (fun x w => giveTo t w x) x) x

/-- A whole firing on the words given at the ports. -/
def runFiring (fl : Floe) (p : Plan) (ops : List OpSt) (given : List (PortPlan × List FWord)) (head : Nat → Option FWord) : Firing :=
  let x := given.foldl givePort { ins := [], outs := [], sink := [], ops := ops, blocked := false }
  p.order.foldl (takeBack p) (p.order.foldl (execSlot fl p head) x)

/-! ## The firing rule (R105, R119) -/

/-- The first n words of a queue that can leave now and have the active generation. -/
def readyWords (fl : Floe) (q : Option QId) (n : Nat) : Option (List FWord) :=
  match q with
  | none => none
  | some q =>
    let l := (qGet fl.field q).take n
    if l.length = n ∧ l.all (fun e => decide (e.ready ≤ fl.cyc) && e.word.gen == fl.cfg.gen) = true then some (l.map entWord)
    else none

/-- The head word of an input port. -/
def portHead (fl : Floe) (p : Plan) (j : Nat) : Option FWord :=
  match p.port j with
  | none => none
  | some x => match readyWords fl x.q 1 with
    | some (w :: _) => some w
    | _ => none

/-- The head word of the port that feeds a position directly. -/
def posHead (p : Plan) (head : Nat → Option FWord) (n pos : Nat) : Option FWord :=
  (p.feeds n pos).findSome? (fun f => match f with
    | .port j => head j
    | _ => none)

/-- MERGE takes its data port at a position (R119). -/
def mergeTakes (ctrl data : Option FWord) (left : Bool) : Bool :=
  match ctrl with
  | none => false
  | some c =>
    if isErr c then false
    else if isBare c then (match data with
      | some w => isBare w && wEnd w == wEnd c
      | none => false)
    else c.data.getLsbD 0 == left

/-- A gated port is taken in the next firing (R119). -/
def gateTakes (p : Plan) (g : Group) (head : Nat → Option FWord) (x : Nat × Nat × Nat) : Bool :=
  let st := g.ops.getD x.2.1 OpSt.reset
  let h : Nat → Option FWord := fun pos => posHead p head x.2.1 pos
  match (p.slot x.2.1).map (fun s => s.opc) with
  | some 0x04 => x.2.2 == 2 || mergeTakes (h 2) (h x.2.2) (x.2.2 == 0)
  | some 0x05 => st.first
  | some 0x06 => decide (0 < st.credit)
  | some 0x0A => (match ordmChoose st (h 0) (h 1) with
      | .wait => false
      | .arm one => one == (x.2.2 == 0)
      | .close _ t1 t0 => if x.2.2 = 0 then t1 else t0)
  | _ => true

/-- Some operator of the block executes in a firing that takes no word: an ORDM that closes (R124), or an LCAR that gives the
word it holds (R384). -/
def firesAlone (p : Plan) (g : Group) (head : Nat → Option FWord) : Bool :=
  p.slots.any (fun s =>
    (s.opc == 5 && ! (g.ops.getD s.n OpSt.reset).first) ||
    (s.opc == 0x0A && (match ordmChoose (g.ops.getD s.n OpSt.reset) (posHead p head s.n 0) (posHead p head s.n 1) with
      | .close _ _ _ => true
      | _ => false)))

/-- What a group would fire: ports taken, entries wanted on each output port, and the classes that do not execute. -/
structure FirePlan where
  take : List Nat
  want : List (OutPlan × Nat)
  skip : List (List Nat)
  deriving DecidableEq, Repr

/-- What the group would take now, by the heads of its ports. A port held out under R119 gives no word to match. -/
def firePlan (p : Plan) (g : Group) (head : Nat → Option FWord) : FirePlan :=
  let gates := (p.gated.filter (fun x => ! gateTakes p g head x)).map (fun x => x.1)
  let held := gates ++ p.joins.flatMap (fun c => joinHeld (joinOf g c))
  let judged := p.joins.filterMap (fun c =>
    (joinJudge p (joinOf g c) (c.filter (fun j => ! gates.contains j)) head).map (fun r => (c, r)))
  if judged.isEmpty then
    { take := (p.ports.map (fun x => x.j)).filter (fun j => ! held.contains j), want := p.outs.map (fun o => (o, o.rate)),
      skip := [] }
  else
    { take := (p.ports.map (fun x => x.j)).filter (fun j => judged.any (fun r => r.2.1.contains j) && ! held.contains j),
      want := p.outs.map (fun o => (o, (judged.filter (fun r => r.2.2)).length)), skip := judged.map (fun r => r.1) }

/-- The words of the ports taken, when every one of them holds its RATE. -/
def fireWords (fl : Floe) (p : Plan) (take : List Nat) : Option (List (PortPlan × List FWord)) :=
  let ps := p.ports.filter (fun x => take.contains x.j)
  let ws := ps.map (fun x => readyWords fl x.q x.rate)
  if ws.all Option.isSome then some ((ps.zip ws).map (fun e => (e.1, e.2.getD []))) else none

/-- The end matching of the classes of a firing: all of them, or those that do not execute. -/
def joinAll (p : Plan) (g : Group) (skip : List (List Nat)) (given : List (PortPlan × List FWord)) (gen : Bool) :
    List (List Nat × JoinOut) :=
  (if skip.isEmpty then p.joins else skip).map (fun c =>
    (c, joinStep p g (joinOf g c) c
      (c.filterMap (fun j => (given.find? (fun e => e.1.j == j)).bind (fun e => e.2.head?.map (fun w => (j, w))))) gen))

/-- The words the ports give after end matching, pads included. -/
def givenAfter (p : Plan) (js : List (List Nat × JoinOut)) (given : List (PortPlan × List FWord)) : List (PortPlan × List FWord) :=
  let joined := js.flatMap (fun e => e.2.words)
  p.ports.filterMap (fun x =>
    match joined.find? (fun e => e.1 == x.j) with
    | some e => some (x, [e.2])
    | none => (given.find? (fun e => e.1.j == x.j)))

/-- The group after a firing. -/
def groupAfter (p : Plan) (g : Group) (now : Nat) (js : List (List Nat × JoinOut)) (given : List (PortPlan × List FWord))
    (ops : List OpSt) (outs : List (Nat × FWord)) (want : List (OutPlan × Nat)) : Group :=
  { g with
    lastFire := some now,
    ops := ops,
    joins := js.foldl (fun l e => assocSet l (e.1.headD 0) e.2.js) g.joins,
    counts := (List.range 8).map (fun j =>
      match given.find? (fun e => e.1.j == j) with
      | some e => e.2.foldl (fun c w => countsNext (c.map (fun x => x + 1)) w) (g.counts.getD j (List.replicate 7 0))
      | none => g.counts.getD j (List.replicate 7 0)),
    commits := g.commits ++ [Commit.mk (now + p.latency) outs
      ((List.range 8).map (fun o => ((want.find? (fun e => e.1.o == o)).map (fun e => e.2)).getD 0))] }

/-- n heads of a queue leave it. -/
def qPopN (d : Data) (f : Nat) (q : QId) : Nat → Data
  | 0 => d
  | n + 1 => qPopN (qPop d f q) f q n

/-- II has passed since the group's last firing (R105). -/
def intervalPassed (t : Table) (p : Plan) (g : Group) (now : Nat) : Bool :=
  match g.lastFire with
  | none => true
  | some l => decide (l + p.interval t ≤ now)

/-- The group of compute cell k fires, when R105 lets it. -/
def groupFire (d : Data) (f k : Nat) : Data :=
  let fl := getFloe d f
  let t := fl.cfg.cur
  let p := planOf t k
  let g := fl.field.groups.getD k Group.reset
  let head : Nat → Option FWord := portHead fl p
  let fp := firePlan p g head
  if p.ports.isEmpty || fl.frozen || fl.halted || ! intervalPassed t p g fl.cyc then d
  else if fp.take.isEmpty && ! firesAlone p g head then d
  else match fireWords fl p fp.take with
    | none => d
    | some given =>
      if fp.want.all (fun e => match e.1.q with
          | some q => decide (e.2 ≤ qFree t fl.field q)
          | none => true) then
        let js := joinAll p g fp.skip given fl.cfg.gen
        let x := if fp.skip.isEmpty then runFiring fl p g.ops (givenAfter p js given) head
          else { ins := [], outs := [], sink := [], ops := g.ops, blocked := false }
        let ends := js.flatMap (fun e => e.2.ends)
        let outs := x.outs ++ p.outs.flatMap (fun o => ends.map (fun w => (o.o, w)))
        let toks := js.flatMap (fun e => e.2.toks) ++ x.sink
        let d1 := modFloe d f (fun fl => { fl with
          field := { fl.field with groups := fl.field.groups.set k (groupAfter p g fl.cyc js given x.ops outs fp.want) },
          active := true })
        if x.blocked || ! sinkRoom d1 f toks.length then d
        else given.foldl (fun d e => match e.1.q with
          | some q => qPopN d f q e.2.length
          | none => d) (sinkAll d1 f toks)
      else d

/-- GROUP_FIRE (R105). -/
def execGroupFire (f c : Nat) (s : State) : Host.Outcome State Fault Refusal := nextD s (fun d => groupFire d f c)

/-! ## Commits (R105) -/

/-- The words of a commit enter the queues of their output ports; they take the active generation (R133). -/
def commitWords (d : Data) (f k : Nat) (outs : List (Nat × FWord)) : Data :=
  let p := planOf (getFloe d f).cfg.cur k
  outs.foldl (fun d e => match (p.outs.find? (fun o => o.o == e.1)).bind (fun o => o.q) with
    | some q => qPush d f q { e.2 with gen := (getFloe d f).cfg.gen } ((getFloe d f).cyc + 1)
    | none => d) d

/-- The commits of the group of compute cell k that are due in the advance cycle in progress. -/
def groupCommit (d : Data) (f k : Nat) : Data :=
  let fl := getFloe d f
  if fl.frozen || fl.halted then d
  else
    let g := fl.field.groups.getD k Group.reset
    let due := g.commits.filter (fun c => decide (c.due ≤ fl.cyc))
    let d := modFloe d f (fun fl => { fl with
      field := { fl.field with groups := fl.field.groups.set k { g with commits := g.commits.filter (fun c => decide (fl.cyc < c.due)) } } })
    due.foldl (fun d c => commitWords d f k c.outs) d

/-- GROUP_COMMIT (R105). -/
def execGroupCommit (f c : Nat) (s : State) : Host.Outcome State Fault Refusal := nextD s (fun d => groupCommit d f c)

end Sys2Proof.Machine
end

