-- ==== Sys2Proof/Machine/Mem.lean ====
section
/-!
DEFINITION. The scalar memory instructions LDS, STS, ATOM and FENCE, the versioned words of VLD, VST and VRCL, and the
events that perform their accesses (R171-R195, R333, R334, R363, R386, R437, R445).
-/

namespace Sys2Proof.Machine

/-! ## Pending accesses -/

/-- A pending memory access, not a late scalar result. -/
def isMem (p : Pend) : Bool :=
  match p.kind with
  | .div => false
  | .mul => false
  | _ => true

/-- A pending access that reads (R181). -/
def isRead (p : Pend) : Bool :=
  match p.kind with
  | .lds => true
  | .atom _ _ _ => true
  | _ => false

/-- Bytes a piece lies in overlap those of another. -/
def piecesMeet (a b : Piece) : Bool :=
  decide (a.loc < b.loc + pieceBytes b) && decide (b.loc < a.loc + pieceBytes a)

/-- Two accesses touch a common byte (R178). -/
def pendsMeet (p q : Pend) : Bool :=
  p.peer == q.peer && p.pieces.any (fun a => q.pieces.any (piecesMeet a))

/-- Access p of the TP may perform: what it waits for has performed, and no earlier access of the TP to a common byte is
pending (R178, R188). -/
def mayPerform (t : Tp) (p : Pend) : Bool :=
  ! t.pends.any (fun q => p.after.contains q.id || (isMem q && decide (q.id < p.id) && pendsMeet p q))

/-- The first advance cycle an access to FLOE performs in (R177): the one after cycle cyc, which is in progress at issue or,
when the floe is frozen, the next. -/
def floeDue (fl : Floe) : Nat := fl.cyc + 1

/-- The access enters the TP's pending list, a counted write with its number (R201), a FLOE access with its place in the
floe's issue order (R177). -/
def addPend (d : Data) (p : Pend) (counted : Bool) : Data :=
  let fl := getFloe d d.curF
  let d := modCur d (fun t =>
    let q := { p with id := t.nextId, wno := if counted then t.wi + 1 else 0, order := fl.issueNo,
                      due := if p.floeLocal then floeDue fl else 0 }
    { t with pends := t.pends ++ [q], nextId := t.nextId + 1,
             wi := if counted then t.wi + 1 else t.wi,
             undone := if counted then t.undone ++ [t.wi + 1] else t.undone })
  modFloe d d.curF (fun fl => { fl with issueNo := fl.issueNo + 1 })

/-- Pieces of an element at machine addresses the requester forms without translation: FLOE and L2. -/
def localPieces (f : Nat) (e : List Word) (x : List Int) : List Piece :=
  (elemParts e x).map (fun p =>
    { loc := (if lteSpace e = 0 then locFloe f (spaceAddr e p.1.toNat) else locL2 p.1.toNat), off := p.2.1, n := p.2.2.1,
      sh := p.2.2.2 })

/-- A pending access with nothing filled in. -/
def pend0 (d : Data) (kind : PendKind) : Pend :=
  { id := 0, kind := kind, d := 0, value := 0, due := 0, floeLocal := false, pieces := [], signed := false, addr := 0,
    word := d.curW, wno := 0, after := [], peer := none, order := 0 }

/-! ## LDS and STS (R175, R386, R437) -/

/-- The issue checks of LDS and STS on element (i, j) of a tile, in the order of R386. -/
def elemCheck (d : Data) (v : View) (i j : Nat) : Check :=
  firstFault
    [if lteSpace v.lte = 0 ∨ lteSpace v.lte = 1 then none else some (3, 1),
     badSpace d v, bindCheck v,
     tileIf 0x17 (decide (shRows v.shape ≤ i) || decide (shCols v.shape ≤ j)),
     tileIf 0x13 (shPol v.shape == 2 && ! inRange v.lte (winCoords v i j)),
     extentCheck v]

/-- LDS sign-extends INT4, INT8 and INT32 (R175). -/
def ldsSigned (fmt : Nat) : Bool := fmt == 8 || fmt == 9 || fmt == 10

/-- The tile of the issuing TP is in FLOE space. -/
def tileLocal (d : Data) (n : BitVec 4) : Bool :=
  match curView d n with
  | some v => vLocal v
  | none => false

/-- LDS's effect once it may issue. -/
def ldsIssue (d : Data) (r : BitVec 5) (n : BitVec 4) (i j : Nat) : Data :=
  match curView d n with
  | none => trap d 4 0x10
  | some v =>
    match elemCheck d v i j with
    | some (cls, cause) => trap d cls cause
    | none =>
      let x := winCoords v i j
      if ! inRange v.lte x then retire (modCur d (fun t => sput t r 0))
      else retire (addPend d { pend0 d .lds with
        d := r, floeLocal := vLocal v, pieces := localPieces d.curF v.lte x, signed := ldsSigned (lteFmt v.lte),
        value := w64 (fmtBits (lteFmt v.lte)), addr := elemAddr v.lte x } false)

/-- LDS (R386). -/
def execLds (g : Guard) (d : BitVec 5) (t : BitVec 4) (a b : BitVec 5) (s : State) : Host.Outcome State Fault Refusal :=
  nextD s (fun dd => issueS dd g [d, a, b] (viewRegs (curTp dd) t) (fun dd =>
    whenFree dd true false (tileLocal dd t) (fun dd => ldsIssue dd d t (rn dd a) (rn dd b))))

/-- STS's effect once it may issue: an out-of-range element is not written (R63). -/
def stsIssue (d : Data) (v64 : Word) (n : BitVec 4) (i j : Nat) : Data :=
  match curView d n with
  | none => trap d 4 0x10
  | some v =>
    match elemCheck d v i j with
    | some (cls, cause) => trap d cls cause
    | none =>
      let x := winCoords v i j
      if ! inRange v.lte x then retire d
      else retire (addPend d { pend0 d .sts with
        floeLocal := vLocal v, pieces := localPieces d.curF v.lte x,
        value := w64 (v64.toNat % 2 ^ fmtBits (lteFmt v.lte)), addr := elemAddr v.lte x } (! vLocal v))

/-- STS (R437). -/
def execSts (g : Guard) (d : BitVec 5) (t : BitVec 4) (a b : BitVec 5) (s : State) : Host.Outcome State Fault Refusal :=
  nextD s (fun dd => issueS dd g [d, a, b] (viewRegs (curTp dd) t) (fun dd =>
    whenFree dd false true (tileLocal dd t) (fun dd => stsIssue dd (rs dd d) t (rn dd a) (rn dd b))))

/-- The element's value as LDS writes it (R175): p.value holds the storage width. -/
def ldsValue (signed : Bool) (w x : Nat) : Word := if signed then wi64 (sextN w x) else w64 x

/-- A pending access of slot k has performed: it leaves the list, and a counted write is done (R201). -/
def donePend (d : Data) (f k : Nat) (p : Pend) : Data :=
  modTp d f k (fun t => { t with pends := t.pends.filter (fun q => q.id != p.id),
                                 undone := t.undone.filter (fun n => n != p.wno) })

/-- A pending access that writes (R268). -/
def isWrite (p : Pend) : Bool :=
  match p.kind with
  | .sts => true
  | .atom _ _ _ => true
  | .vrcl _ => true
  | _ => false

/-- Entries of a producer that cover counted write n become poisoned with a cause (R208). -/
def poisonCovering (o : Owner) (n cause : Nat) (q : Hwq) : Hwq :=
  let mark : HwqEnt → HwqEnt := fun e =>
    if e.prod == some o && e.sc != 0 && decide (n ≤ e.stamp) && ! e.psn then { e with psn := true, cause := cause } else e
  { q with hw := q.hw.map mark, ring := q.ring.map mark }

/-- Counted write n of the TP never performs (R208): WD passes it, and the entries that cover it are poisoned. -/
def loseWrite (d : Data) (f k : Nat) (n cause : Nat) : Data :=
  if n = 0 then d
  else
    let o := (getTp d f k).owner
    let d := modTp d f k (fun t => { t with undone := t.undone.filter (fun x => x != n), lost := t.lost ++ [(n, cause)] })
    { d with dies := d.dies.map (fun c => { c with queues := c.queues.map (poisonCovering o n cause) }) }

/-- The TP in slot k of floe f traps when a refusal of access p returns (R334): a counted write never performs (R208; the cause
is log entry 162's choice). -/
def pendTrap (d : Data) (f k : Nat) (p : Pend) (fc : Nat × Nat) : Data :=
  trapWr (isWrite p) (donePend (loseWrite d f k p.wno 2) f k p) f k fc.1 fc.2 p.addr p.word 0

/-- The first refusal of a list of pieces at their targets. -/
def piecesFault (d : Data) (m right : Nat) (ps : List Piece) : Option (Nat × Nat) :=
  ps.findSome? (fun p => physFault d m right p.loc (pieceBytes p))

/-- Memory as a scalar read of FLOE with place n in the issue order sees it: the cycle's STS before it (R177). -/
def withSts (d : Data) (ws : List FloeWrite) (n : Nat) : Data :=
  (ws.filter (fun w => w.src == 2 && decide (w.key < n))).foldl
    (fun d w => w.elems.foldl (fun d e => pieceWrite d e.1 e.2 false) d) d

/-- A FLOE access's turn has come: its cycle, the floe not frozen (R115), and no earlier scalar access of the floe due in it
is pending (R177). -/
def floeTurn (fl : Floe) (p : Pend) : Bool :=
  decide (p.due ≤ fl.cyc) && ! fl.frozen &&
    ! fl.slots.any (fun s => s.tp.pends.any (fun q => q.floeLocal && isMem q && decide (q.order < p.order)))

/-- A bank of the floe's memory cells serves one more access in the cycle (R98). -/
def bankUse (fl : Floe) (loc : Nat) : Floe :=
  let key := loc / 2 ^ 19 % 8 * 16 + loc / 16 % 16
  { fl with banks := assocSet fl.banks key ((assocGet fl.banks key).getD 0 + 1) }

/-- The LDS p performs on memory as m holds it: its value is written, or the TP traps (R175, R282, R334, R386). -/
def ldsFrom (m d : Data) (f k : Nat) (p : Pend) : Data :=
  match piecesFault d f 1 p.pieces with
  | some fc => pendTrap d f k p fc
  | none =>
    if piecePoisoned d p.pieces then pendTrap d f k p (0x0C, if p.floeLocal then 1 else 2)
    else modTp (donePend d f k p) f k (fun t => sput t p.d (ldsValue p.signed p.value.toNat (pieceRead m p.pieces)))

/-- The LDS p performs: in FLOE it uses its banks, and sees the cycle's STS before it (R98, R177). -/
def ldsPerform (d : Data) (f k : Nat) (p : Pend) : Data :=
  if p.floeLocal then
    ldsFrom (withSts d (getFloe d f).writes p.order) (modFloe d f (fun fl => p.pieces.foldl (fun fl q => bankUse fl q.loc) fl))
      f k p
  else ldsFrom d d f k p

/-- The STS p performs (R175, R176, R437): uncorrectable data of its element in L2 traps; in FLOE its write belongs to the cycle in
progress (R177). -/
def stsPerform (d : Data) (f k : Nat) (p : Pend) : Data :=
  match piecesFault d f 2 p.pieces with
  | some fc => pendTrap d f k p fc
  | none =>
    if ! p.floeLocal && piecePoisoned d p.pieces then pendTrap d f k p (0x0C, 2)
    else if p.floeLocal then
      donePend (modFloe d f (fun fl =>
        { p.pieces.foldl (fun fl q => bankUse fl q.loc) fl with
          writes := fl.writes ++ [{ src := 2, key := p.order, elems := [(p.pieces, p.value.toNat)], psn := false, mode := 0,
                                    fmt := 0, part := false }] })) f k p
    else donePend (pieceWrite d p.pieces p.value.toNat false) f k p

/-! ## ATOM (R187, R188, R333, R334) -/

/-- The issue checks of ATOM in the order of R333. -/
def atomCheck (d : Data) (v : View) : Check :=
  firstFault
    [if lteSpace v.lte = 1 ∨ (lteSpace v.lte = 6 ∧ ltePsp v.lte = 1) then none else some (3, 1),
     spaceForm d (ltePlace v.lte) (lteBase v.lte) (lteBase v.lte),
     (if inRange v.lte (winCoords v 0 0) then
        let a := elemInt v.lte (winCoords v 0 0)
        spaceFormI d (ltePlace v.lte) a (a + (ceilDiv (fmtBits (lteFmt v.lte)) 8 : Nat) - 1)
      else none),
     tileIf 0x1E (lteFmt v.lte != 10),
     tileIf 0x13 (! inRange v.lte (winCoords v 0 0))]

/-- The hold of a FENCE or an acquire (R181, R188): nothing when it waits for nothing. -/
def addHold (d : Data) (h : Hold) : Data :=
  if h.pends.isEmpty && h.cmds.isEmpty then d else modCur d (fun t => { t with holds := t.holds ++ [h] })

/-- Identities of the TP's pending memory accesses that satisfy a test. -/
def pendIds (t : Tp) (h : Pend → Bool) : List Nat := (t.pends.filter (fun p => isMem p && h p)).map (fun p => p.id)

/-- ATOM's effect once it may issue: ord 1 acquires, 2 releases, 3 both (R188). -/
def atomIssue (d : Data) (op : BitVec 3) (r : BitVec 5) (n : BitVec 4) (a : BitVec 5) (ord : BitVec 2) (scope : BitVec 3) :
    Data :=
  match curView d n with
  | none => trap d 4 0x10
  | some v =>
    match atomCheck d v with
    | some (cls, cause) => trap d cls cause
    | none =>
      let x := winCoords v 0 0
      let t := curTp d
      let remote := lteSpace v.lte = 6 && ltePmod v.lte != d.modid.toNat
      let d' := addPend d { pend0 d (.atom op ((rs d a).truncate 32) ((rs d r).truncate 32)) with
        d := r, addr := elemAddr v.lte x, after := if ord.toNat < 2 then [] else pendIds t (fun _ => true),
        pieces := [{ loc := (if remote then locPeer (ltePmod v.lte) 1 (elemAddr v.lte x) else locL2 (elemAddr v.lte x)),
                     off := 0, n := 32, sh := 0 }],
        peer := if remote then some (ltePmod v.lte, 1) else none } true
      let d' := if ord.toNat = 1 ∨ ord.toNat = 3 then
          addHold d' { reads := true, writes := true, floeToo := scope.toNat ≠ 0, pends := [t.nextId], cmds := [] }
        else d'
      retire d'

/-- ATOM of an operation. -/
def atomStep (op : BitVec 3) (g : Guard) (r : BitVec 5) (t : BitVec 4) (a : BitVec 5) (ord : BitVec 2) (scope : BitVec 3)
    (d : Data) : Data :=
  issueS d g [r, a] (viewRegs (curTp d) t) (fun d => whenFree d true true false (fun d => atomIssue d op r t a ord scope))

/-- ATOM.swp (R187). -/
def execAtomSwp (g : Guard) (d : BitVec 5) (t : BitVec 4) (a : BitVec 5) (ord : BitVec 2) (scope : BitVec 3) (s : State) :
    Host.Outcome State Fault Refusal := nextD s (atomStep 0 g d t a ord scope)
/-- ATOM.cas (R187). -/
def execAtomCas (g : Guard) (d : BitVec 5) (t : BitVec 4) (a : BitVec 5) (ord : BitVec 2) (scope : BitVec 3) (s : State) :
    Host.Outcome State Fault Refusal := nextD s (atomStep 1 g d t a ord scope)
/-- ATOM.add (R187). -/
def execAtomAdd (g : Guard) (d : BitVec 5) (t : BitVec 4) (a : BitVec 5) (ord : BitVec 2) (scope : BitVec 3) (s : State) :
    Host.Outcome State Fault Refusal := nextD s (atomStep 2 g d t a ord scope)
/-- ATOM.and (R187). -/
def execAtomAnd (g : Guard) (d : BitVec 5) (t : BitVec 4) (a : BitVec 5) (ord : BitVec 2) (scope : BitVec 3) (s : State) :
    Host.Outcome State Fault Refusal := nextD s (atomStep 3 g d t a ord scope)
/-- ATOM.or (R187). -/
def execAtomOr (g : Guard) (d : BitVec 5) (t : BitVec 4) (a : BitVec 5) (ord : BitVec 2) (scope : BitVec 3) (s : State) :
    Host.Outcome State Fault Refusal := nextD s (atomStep 4 g d t a ord scope)
/-- ATOM.xor (R187). -/
def execAtomXor (g : Guard) (d : BitVec 5) (t : BitVec 4) (a : BitVec 5) (ord : BitVec 2) (scope : BitVec 3) (s : State) :
    Host.Outcome State Fault Refusal := nextD s (atomStep 5 g d t a ord scope)
/-- ATOM.max (R187). -/
def execAtomMax (g : Guard) (d : BitVec 5) (t : BitVec 4) (a : BitVec 5) (ord : BitVec 2) (scope : BitVec 3) (s : State) :
    Host.Outcome State Fault Refusal := nextD s (atomStep 6 g d t a ord scope)
/-- ATOM.min (R187). -/
def execAtomMin (g : Guard) (d : BitVec 5) (t : BitVec 4) (a : BitVec 5) (ord : BitVec 2) (scope : BitVec 3) (s : State) :
    Host.Outcome State Fault Refusal := nextD s (atomStep 7 g d t a ord scope)

/-- The word an ATOM is refused or reached at its home (R187, R288, R334). -/
def atomReach (d : Data) (f : Nat) (p : Pend) : Data × Acc Nat :=
  match p.peer with
  | some (m, psp) => reachPeer d (reqFloe f) psp m p.addr 4 .readWrite
  | none =>
    match physFault d f 3 (locL2 p.addr) 4 with
    | some fc => (d, .error fc)
    | none => (d, .ok (locL2 p.addr))

/-- The ATOM p performs at its home: one indivisible read-modify-write (R187). -/
def atomPerform (d : Data) (f k : Nat) (p : Pend) (op : BitVec 3) (v cmp : BitVec 32) : Data :=
  match atomReach d f p with
  | (d, .error fc) => pendTrap d f k p fc
  | (d, .ok loc) =>
    if poisoned d loc 4 then pendTrap d f k p (0x0C, 2)
    else
      let old := BitVec.ofNat 32 (memRead d loc 4)
      modTp (donePend (memWrite d loc 4 (atomNew op old v cmp).toNat false) f k p) f k (fun t => sput t p.d (old.signExtend 64))

/-- ATOM_PERFORM: the ATOM with identity i of the TP performs (R188, R334). -/
def execAtomPerform (f k i : Nat) (s : State) : Host.Outcome State Fault Refusal :=
  nextD s (fun d =>
    match (getTp d f k).pends.find? (fun p => p.id == i) with
    | none => d
    | some p =>
      match p.kind with
      | .atom op v cmp => if mayPerform (getTp d f k) p then atomPerform d f k p op v cmp else d
      | _ => d)

/-! ## FENCE (R181, R363) -/

/-- Issue numbers of the TP's floe-local commands that have not performed all their elements; a barrier has none. -/
def localCmds (d : Data) : List Nat :=
  (getFloe d d.curF).streams.filterMap (fun e =>
    match e with
    | some c => if c.floeLocal && c.st != .barrier && c.owner == (curTp d).owner then some c.no else none
    | none => none)

/-- FENCE of a kind (0 acq, 1 rel, 2 full) at a scope. -/
def fenceStep (kind : Nat) (g : Guard) (scope : BitVec 3) (d : Data) : Data :=
  issue d g [] (fun d => retire (addHold d
    { reads := kind != 1, writes := true, floeToo := scope != 0,
      pends := pendIds (curTp d) (fun p => kind != 0 || isRead p),
      cmds := if scope = 0 then [] else localCmds d }))

/-- FENCE.acq (R181). -/
def execFenceAcq (g : Guard) (scope : BitVec 3) (s : State) : Host.Outcome State Fault Refusal := nextD s (fenceStep 0 g scope)
/-- FENCE.rel (R181). -/
def execFenceRel (g : Guard) (scope : BitVec 3) (s : State) : Host.Outcome State Fault Refusal := nextD s (fenceStep 1 g scope)
/-- FENCE.full (R181, R182). -/
def execFenceFull (g : Guard) (scope : BitVec 3) (s : State) : Host.Outcome State Fault Refusal := nextD s (fenceStep 2 g scope)

/-! ## Versioned words (R189-R195, R445) -/

/-- A versioned word as it stands when LVSZ is set: version 0 with value 0. -/
def lvZero : LvWord := { latest := 0, vals := [0] }

/-- The word at an LV address. -/
def lvGet (d : Data) (a : Nat) : LvWord := spGet lvZero (getDie d (a / 2 ^ 21)).lv (a % 2 ^ 21 / 8)

/-- That word changed. -/
def lvSet (d : Data) (a : Nat) (w : LvWord) : Data :=
  modDie d (a / 2 ^ 21) (fun c => { c with lv := spSet lvZero c.lv (a % 2 ^ 21 / 8) w })

/-- An LV address has the form of R172, no bit outside [22:3], and names a word of its window (R187, R189). -/
def lvOk (d : Data) (a : Nat) : Bool :=
  a % 8 == 0 && decide (a < 2 ^ 23) && decide (a % 2 ^ 21 / 8 < (getDie d (a / 2 ^ 21)).lvsz * 16384)

/-- The L2 address a versioned word takes (R189). -/
def lvL2 (d : Data) (a : Nat) : Nat :=
  a / 2 ^ 21 * 2 ^ 27 + (Config.l2Size - (getDie d (a / 2 ^ 21)).lvsz * 2 ^ 20) + 64 * (a % 2 ^ 21 / 8)

/-- The checks of VLD, VST and VRCL in the order of R445; log entry 16 on SPACE 0x03 and TILE 0x1F. -/
def lvCheck (d : Data) (ver : Word) (v : Option View) : Check :=
  if wb ver 16 48 ≠ 0 then some (1, 5)
  else match v with
    | none => some (4, 0x10)
    | some v =>
      let a := elemInt v.lte (winCoords v 0 0)
      firstFault
        [if lteSpace v.lte = 2 then none else some (3, 1),
         if 0 ≤ a ∧ lvOk d a.toNat = true then none else some (3, 3),
         tileIf 0x1F (lteFmt v.lte != 10),
         tileIf 0x13 (! inRange v.lte (winCoords v 0 0))]

/-- The LV address of a view's element (0, 0). -/
def lvAddr (v : Option View) : Nat :=
  match v with
  | some v => elemAddr v.lte (winCoords v 0 0)
  | none => 0

/-- Version v is ahead of the word's latest (R190). -/
def lvAhead (w : LvWord) (v : Nat) : Bool :=
  let x := (v + 2 ^ 16 - w.latest) % 2 ^ 16
  decide (1 ≤ x) && decide (x < 2 ^ 15)

/-- What a home does to a versioned access that its bank refuses: class and cause (R293, R445). -/
def lvFault (d : Data) (f a right : Nat) : Option (Nat × Nat) :=
  match physFault d f right (locL2 (lvL2 d a)) 8 with
  | some fc => some fc
  | none => if poisoned d (locL2 (lvL2 d a)) 64 then some (0x0C, 2) else none

/-- VLD at the home (R192): the slot goes on with the value and the reclaim flag. -/
def vldPerform (d : Data) (f k : Nat) (r : BitVec 5) (p : BitVec 3) (a v : Nat) : Data :=
  let w := lvGet d a
  let j := (w.latest + 2 ^ 16 - v) % 2 ^ 16
  let d := modTp d f k (fun t =>
    if j < w.vals.length then pput (sput t r (w.vals.getD j 0)) p false
    else pput (sput t r (w.vals.getLastD 0)) p true)
  retireAt d f k

/-- A slot begins to wait at a versioned word (R195). -/
def lvWait (d : Data) (f k : Nat) (b : Block) : Data :=
  modSlot d f k (fun s => { s with block := b, since := (getFloe d f).advc, hung := false })

/-- A VRCL of the TP on the word at LV address a has not performed: a later VLD of the TP keeps its place behind it (R178). -/
def lvBusy (t : Tp) (a : Nat) : Bool :=
  t.pends.any (fun p => match p.kind with
    | .vrcl _ => p.addr == a
    | _ => false)

/-- VLD's request (R192). -/
def vldTry (d : Data) (f k : Nat) (r : BitVec 5) (p : BitVec 3) (a v : Nat) (first : Bool) : Data :=
  match lvFault d f a 1 with
  | some fc => trapAt d f k fc.1 fc.2 (getTp d f k).pc.toNat (getSlot d f k).word 0
  | none =>
    if lvAhead (lvGet d a) v || lvBusy (getTp d f k) a then (if first then lvWait d f k (.vld r p a v) else d)
    else vldPerform d f k r p a v

/-- VLD (R192, R445). -/
def execVld (g : Guard) (d : BitVec 5) (t : BitVec 4) (a : BitVec 5) (k : BitVec 3) (scope : BitVec 3) (s : State) :
    Host.Outcome State Fault Refusal :=
  nextD s (fun dd => issueS dd g [d, a] (predRegs [k] ++ viewRegs (curTp dd) t) (fun dd => whenFree dd true false false (fun dd =>
    match lvCheck dd (rs dd a) (curView dd t) with
    | some (cls, cause) => trap dd cls cause
    | none => let _ := scope; vldTry dd dd.curF dd.curK d k (lvAddr (curView dd t)) (wb (rs dd a) 0 16) true)))

/-- A counted write that performs at once (R201). -/
def countNow (t : Tp) : Tp := { t with wi := t.wi + 1 }

/-- VST's request at the home (R191): VSEQ, the new version, or the wait of a full word. -/
def vstTry (d : Data) (f k : Nat) (r : BitVec 5) (a v : Nat) (first : Bool) : Data :=
  match lvFault d f a 2 with
  | some fc => trapWr true d f k fc.1 fc.2 (getTp d f k).pc.toNat (getSlot d f k).word 0
  | none =>
    let w := lvGet d a
    if v ≠ (w.latest + 1) % 2 ^ 16 then trapWr true d f k 0x0B 0 (getTp d f k).pc.toNat (getSlot d f k).word 0
    else if w.vals.length < 4 then
      retireAt (modTp (lvSet d a { latest := v, vals := sget (getTp d f k) r :: w.vals }) f k countNow) f k
    else if first then lvWait d f k (.vst r a v) else d

/-- Accesses of the TP that a release waits for (R179, R188, R191). -/
def earlierPending (t : Tp) : Bool := t.pends.any isMem

/-- VST once its TP's earlier accesses have performed; until then its issue has not completed, and it holds its copy of the
binding as the address it names (R66, R179, R191). -/
def vstRelease (d : Data) (r : BitVec 5) (x v : Nat) : Data :=
  if earlierPending (curTp d) then blockCur d (.vstRel r x v)
  else vstTry d d.curF d.curK r x v true

/-- VST (R191, R445). -/
def execVst (g : Guard) (d : BitVec 5) (t : BitVec 4) (a : BitVec 5) (scope : BitVec 3) (s : State) :
    Host.Outcome State Fault Refusal :=
  nextD s (fun dd => issueS dd g [d, a] (viewRegs (curTp dd) t) (fun dd => whenFree dd false true false (fun dd =>
    match lvCheck dd (rs dd a) (curView dd t) with
    | some (cls, cause) => trap dd cls cause
    | none => let _ := scope; vstRelease dd d (lvAddr (curView dd t)) (wb (rs dd a) 0 16))))

/-- The word after VRCL of version v (R193). -/
def lvReclaim (w : LvWord) (v : Nat) : LvWord :=
  let n := w.vals.length
  let o := (w.latest + 1 + 2 ^ 16 - n) % 2 ^ 16
  let dd := (v + 2 ^ 16 - o) % 2 ^ 16
  if 1 ≤ dd ∧ dd < 2 ^ 15 then { w with vals := w.vals.take (n - min dd (n - 1)) } else w

/-- VRCL's effect once it may issue (R193): it does not block; with earlier accesses of its TP pending it performs after
them, and holds its copy of the binding as the address it names (R66). -/
def vrclRelease (d : Data) (x v : Nat) : Data :=
  if earlierPending (curTp d) then
    retire (addPend d { pend0 d (.vrcl v) with addr := x, after := pendIds (curTp d) (fun _ => true) } true)
  else
    match lvFault d d.curF x 2 with
    | some fc => trapWr true d d.curF d.curK fc.1 fc.2 (curTp d).pc.toNat d.curW 0
    | none => retireAt (modCur (lvSet d x (lvReclaim (lvGet d x) v)) countNow) d.curF d.curK

/-- A VRCL that its TP's earlier accesses held back performs at the home (R193). -/
def vrclPerform (d : Data) (f k : Nat) (p : Pend) (v : Nat) : Data :=
  match lvFault d f p.addr 2 with
  | some fc => pendTrap d f k p fc
  | none => donePend (lvSet d p.addr (lvReclaim (lvGet d p.addr) v)) f k p

/-- VRCL (R193, R445). -/
def execVrcl (g : Guard) (t : BitVec 4) (a : BitVec 5) (scope : BitVec 3) (s : State) : Host.Outcome State Fault Refusal :=
  nextD s (fun dd => issueS dd g [a] (viewRegs (curTp dd) t) (fun dd => whenFree dd false true false (fun dd =>
    match lvCheck dd (rs dd a) (curView dd t) with
    | some (cls, cause) => trap dd cls cause
    | none => let _ := scope; vrclRelease dd (lvAddr (curView dd t)) (wb (rs dd a) 0 16))))

/-- VLD_WAKE: a waiting VLD takes its test again (R192). -/
def execVldWake (f k : Nat) (s : State) : Host.Outcome State Fault Refusal :=
  nextD s (fun d =>
    match (getSlot d f k).block with
    | .vld r p a v => vldTry d f k r p a v false
    | _ => d)

/-- VST_RETRY: a full VST takes its test again (R191, R193). -/
def execVstRetry (f k : Nat) (s : State) : Host.Outcome State Fault Refusal :=
  nextD s (fun d =>
    match (getSlot d f k).block with
    | .vst r a v => vstTry d f k r a v false
    | _ => d)

/-- SLIM of the floe's region (R273). -/
def floeSlim (d : Data) (fl : Floe) : Nat :=
  match fl.lid with
  | none => 2 ^ 24
  | some l => match getRegion d l with
    | none => 2 ^ 24
    | some r => r.slim

/-- The HANG record of a versioned wait past the limit (R195): written once, and the wait goes on. -/
def lvHang (d : Data) (f k cause a : Nat) : Data :=
  let w := lvGet d a
  let t := getTp d f k
  let c := a / 2 ^ 21
  let r := { recZero with kind := 3, cls := 0x0D, cause := cause, utype := 10, unit := c, slot := k, mid := f, wid := t.wid,
                          addr := a, d1 := w64 (w.latest + w.vals.length * 2 ^ 16), wr := cause == 2 }
  modSlot (modTp (emitRec d c ((getDie d c).counts.getD 13 0) r) f k (fun t => { t with flt := fltCount t.flt 0x0D })) f k
    (fun s => { s with hung := true })

/-- A VST of version v finds its word full (R191, R195). -/
def lvFull (w : LvWord) (v : Nat) : Bool := v == (w.latest + 1) % 2 ^ 16 && decide (4 ≤ w.vals.length)

/-- LV_WAIT_LIMIT: a full VST or a VLD ahead of L has waited past SLIM advance cycles of its floe (R195). -/
def execLvWaitLimit (f k : Nat) (s : State) : Host.Outcome State Fault Refusal :=
  nextD s (fun d =>
    let sl := getSlot d f k
    let fl := getFloe d f
    if sl.hung || decide (fl.advc ≤ sl.since + floeSlim d fl) then d
    else match sl.block with
      | .vld _ _ a v => if lvAhead (lvGet d a) v then lvHang d f k 3 a else d
      | .vst _ a v => if lvFull (lvGet d a) v then lvHang d f k 2 a else d
      | _ => d)

/-! ## Accesses that perform later -/

/-- LDS_RETURN: access i of the TP performs, an LDS, an STS or a VRCL (R177, R193, R386, R387, R437). -/
def execLdsReturn (f k i : Nat) (s : State) : Host.Outcome State Fault Refusal :=
  nextD s (fun d =>
    match (getTp d f k).pends.find? (fun p => p.id == i) with
    | none => d
    | some p =>
      if mayPerform (getTp d f k) p && (! p.floeLocal || floeTurn (getFloe d f) p) then
        match p.kind with
        | .lds => ldsPerform d f k p
        | .sts => stsPerform d f k p
        | .vrcl v => vrclPerform d f k p v
        | _ => d
      else d)

end Sys2Proof.Machine
end

