-- ==== Sys2Proof/Machine/Queues.lean ====
section
/-!
DEFINITION. Hardware queues: QPSH, QPOP and QCTL, the drain counts that make entries poppable, spilling, refill and
poisoned entries (R196-R208, R415).
-/

namespace Sys2Proof.Machine

/-- Queue with handle h (R196): compute die [8:7], index [6:0]. -/
def getQ (d : Data) (h : Nat) : Hwq := (getDie d (h / 128)).queues.getD (h % 128) Hwq.reset

/-- That queue changed. -/
def modQ (d : Data) (h : Nat) (k : Hwq → Hwq) : Data :=
  modDie d (h / 128) (fun c => { c with queues := c.queues.set (h % 128) (k (c.queues.getD (h % 128) Hwq.reset)) })

/-- WD of a TP (R201): the first n counted writes have performed. One figure serves every scope (log entry 17). -/
def drained (t : Tp) : Nat :=
  match t.undone with
  | [] => t.wi
  | n :: ns => ns.foldl min n - 1

/-- Counted writes of a TP that are commands of Firn or of an embedding engine, in progress or queued there; 0: not counted. -/
def engineWrites (d : Data) (o : Owner) : List Nat :=
  d.dies.flatMap (fun c =>
    ((c.firnQ ++ c.firn.filterMap id).filter (fun x => x.owner == o)).map (fun x => x.wno) ++
    (c.emb.cmds.filter (fun x => x.owner == o)).map (fun x => x.wno))

/-- The producer's drain count has reached a stamp; a TP that is no longer placed has drained (R44, R45), but for the commands of
engines that go on after its region has failed. -/
def stampReached (d : Data) (prod : Option Owner) (stamp : Nat) : Bool :=
  match prod with
  | none => true
  | some o => match ownerTp d o with
    | none => (engineWrites d o).all (fun n => n == 0 || decide (stamp < n))
    | some (_, t) => decide (stamp ≤ drained t)

/-- The entry is poppable (R201). -/
def poppable (d : Data) (e : HwqEnt) : Bool := e.sc == 0 || stampReached d e.prod e.stamp

/-- The poison cause of a write the first n counted writes cover, 0 for none (R208). -/
def lostCause (t : Tp) (n : Nat) : Nat :=
  match t.lost.find? (fun e => decide (e.1 ≤ n)) with
  | some e => e.2
  | none => 0

/-- The role identity of a TP (R208). -/
def tpRole (s : Slot) (k : Nat) : Nat := k * 8 + roleCode s.role

/-- The entry a QPSH makes (R200, R201, R208). -/
def pushEntry (d : Data) (f k : Nat) (r : BitVec 5) (sc : Nat) : HwqEnt :=
  let s := getSlot d f k
  let t := s.tp
  let c := if sc = 0 then 0 else lostCause t t.wi
  { data := (List.range 4).map (fun i => sget t (BitVec.ofNat 5 (r.toNat + i))), stamp := t.wi, sc := sc, mid := f,
    role := tpRole s k, psn := c != 0, cause := c, prod := some t.owner }

/-- The requester of a die's refill engine (R291). -/
def reqRefill (c : Nat) : Req := { mid := 0xC4 + c, floe := none, die := c }

/-- The place of a spill ring (R197). -/
def ringPlace (q : Hwq) : Place := { space := q.ssp, psp := 0, pmod := 0 }

/-- The doublewords of a spill ring entry (R206). -/
def ringWords (e : HwqEnt) : List Word :=
  e.data ++ [w64 (atBit e.sc 48 3 + e.stamp % 2 ^ 48),
    w64 (atBit e.cause 32 8 + atBit (bnat e.psn) 24 1 + atBit e.role 16 8 + atBit e.mid 0 8), 0, 0]

/-- A record of hardware queue h (R207, R268). -/
def queueRec (d : Data) (h kind cls cause : Nat) : Data :=
  emitRec d (h / 128) ((getDie d (h / 128)).counts.getD 13 0)
    { recZero with kind := kind, cls := cls, cause := cause, utype := 6, unit := h / 128,
                   mid := 0xC4 + h / 128, addr := h }

/-- A fault on the spill ring (R207): a translation fault stalls the queue with a STOP record, any other puts it in
FAULTED with a QFAULT record of cause 0x05. -/
def ringFault (d : Data) (h : Nat) (fc : Nat × Nat) : Data :=
  if fc.1 = 5 ∨ fc.1 = 6 then queueRec (modQ d h (fun q => { q with stalled := true })) h 1 fc.1 fc.2
  else queueRec (modQ d h (fun q => { q with st := .faulted })) h 2 0x0E 5

/-- An entry goes to the tail of the spill ring (R205, R206). -/
def ringPush (d : Data) (h : Nat) (e : HwqEnt) : Data :=
  let q := getQ d h
  let c := h / 128
  match writeWordsAt d (reqRefill c) (ringPlace q) (q.sbase + 64 + 64 * (q.tail % 2 ^ q.sre)) (ringWords e) with
  | (d, .error fc) => ringFault d h fc
  | (d, .ok _) =>
    match writeAt d (reqRefill c) (ringPlace q) (q.sbase + 8) 8 ((q.tail + 1) % 2 ^ 48) false with
    | (d, .error fc) => ringFault d h fc
    | (d, .ok _) => modQ d h (fun q => { q with ring := q.ring ++ [e], tail := (q.tail + 1) % 2 ^ 48, st := .spilling })

/-- What a push meets (R200). -/
inductive PushPath where
  | direct
  | ring
  | waits
  | fault (cause : Nat)
  deriving DecidableEq, Repr

/-- The test of R200 on a queue: where a push goes. -/
def pushPath (q : Hwq) : PushPath :=
  match q.st with
  | .disabled => .fault 1
  | .faulted => .fault 5
  | .spilling => if q.stalled || decide (2 ^ q.sre ≤ q.ring.length) then .waits else .ring
  | .direct => if q.stalled then .waits else if q.hw.length < 32 then .direct else if q.spe then .ring else .waits

/-- An entry pushed by an engine, a pipe or a TP along its path. -/
def pushDo (d : Data) (h : Nat) (e : HwqEnt) : Data :=
  match pushPath (getQ d h) with
  | .direct => modQ d h (fun q => { q with hw := q.hw ++ [e] })
  | .ring => ringPush d h e
  | _ => d

/-- The queue holds the entry after pushDo: a ring write that faulted has not pushed. -/
def pushTook (d d' : Data) (h : Nat) : Bool :=
  decide ((getQ d h).hw.length + (getQ d h).ring.length < (getQ d' h).hw.length + (getQ d' h).ring.length)

/-- A handle's form: bits above [8:0] are zero; every die number 0-3 is present (R196, R200). -/
def handleBad (v : Word) : Bool := wb v 9 55 != 0

/-- The first checks of a queue instruction (R200, R415): QFAULT 0x02, then ACCESS. -/
def queueCheck (d : Data) (v : Word) (right : Nat) : Check :=
  if handleBad v then some (0x0E, 2)
  else if aclOk d (42 + v.toNat / 128) d.curF right (v.toNat % 128 * 4096) 1 then none
  else some (7, right)

/-- Slot e of a floe still waits to push to queue h: a TP that has trapped or ended, or a slot of a failed region, waits for
nothing. -/
def stillPushes (d : Data) (h : Nat) (e : Nat × Nat) : Bool :=
  match (getSlot d e.1 e.2).block with
  | .qpsh _ _ h' => h' == h && (getSlot d e.1 e.2).st == .live
  | _ => false

/-- The same for a pop. -/
def stillPops (d : Data) (h : Nat) (e : Nat × Nat) : Bool :=
  match (getSlot d e.1 e.2).block with
  | .qpop _ _ h' => h' == h && (getSlot d e.1 e.2).st == .live
  | _ => false

/-- The slots that wait to push to queue h, in arrival order. -/
def pushWaiters (d : Data) (h : Nat) : List (Nat × Nat) := (getQ d h).waitPush.filter (stillPushes d h)

/-- The slots that wait to pop from queue h, in arrival order. -/
def popWaiters (d : Data) (h : Nat) : List (Nat × Nat) := (getQ d h).waitPop.filter (stillPops d h)

/-- A request joins a queue's waiting list. -/
def joinWait (l : List (Nat × Nat)) (f k : Nat) : List (Nat × Nat) := if l.contains (f, k) then l else l ++ [(f, k)]

/-- QPSH's request of slot k at the home (R200); first when it arrives. Earlier waiting pushes go before it. -/
def qpshTry (d : Data) (f k : Nat) (r : BitVec 5) (scope : BitVec 3) (h : Nat) (first : Bool) : Data :=
  let q := getQ d h
  let wait := fun d =>
    if first then modSlot (modQ d h (fun q => { q with waitPush := joinWait (pushWaiters d h) f k })) f k
      (fun s => { s with block := .qpsh r scope h })
    else d
  match pushPath q with
  | .fault c =>
    trapAt (modQ d h (fun q => { q with waitPush := (pushWaiters d h).filter (fun e => e != (f, k)) })) f k 0x0E c
      (getTp d f k).pc.toNat (getSlot d f k).word 0
  | .waits => wait d
  | _ =>
    if ! ((pushWaiters d h).isEmpty || (pushWaiters d h).head? == some (f, k)) then wait d
    else
      let d' := pushDo d h (pushEntry d f k r scope.toNat)
      if pushTook d d' h then
        retireAt (modQ d' h (fun q => { q with waitPush := (pushWaiters d h).filter (fun e => e != (f, k)) })) f k
      else wait d'

/-- QPSH (R200, R415). -/
def execQpsh (g : Guard) (d a : BitVec 5) (scope : BitVec 3) (s : State) : Host.Outcome State Fault Refusal :=
  nextD s (fun dd => issue dd g [a, d, d + 1, d + 2, d + 3] (fun dd =>
    match queueCheck dd (rs dd a) 2 with
    | some (cls, cause) => trap dd cls cause
    | none => qpshTry dd dd.curF dd.curK d scope (rn dd a) true))

/-- QPSH_RETRY: a waiting QPSH takes its test again (R200). -/
def execQpshRetry (f k : Nat) (s : State) : Host.Outcome State Fault Refusal :=
  nextD s (fun d =>
    match (getSlot d f k).block with
    | .qpsh r sc h => qpshTry d f k r sc h false
    | _ => d)

/-- What QPOP writes from an entry (R202): registers s[r]… and p[k]. -/
def popRegs (t : Tp) (r : BitVec 5) (k : BitVec 3) (e : HwqEnt) : Tp :=
  let w0 := e.data.getD 0 0
  let first : Word := if e.psn then w64 (e.cause + e.role * 256 + wb w0 0 32 * 2 ^ 32) else w0
  let rest : List Word :=
    if e.psn then [w64 (wb (e.data.getD 1 0) 0 64), e.data.getD 2 0, e.data.getD 3 0]
    else [e.data.getD 1 0, e.data.getD 2 0, e.data.getD 3 0]
  let t := sput t r first
  let t := sput t (r + 1) (rest.getD 0 0)
  let t := sput t (r + 2) (rest.getD 1 0)
  let t := sput t (r + 3) (rest.getD 2 0)
  pput t k e.psn

/-- QPOP's request of slot k at the home (R202). Waiting pops are served in arrival order. -/
def qpopTry (d : Data) (f k : Nat) (r : BitVec 5) (p : BitVec 3) (h : Nat) (first : Bool) : Data :=
  let q := getQ d h
  let wait := fun d =>
    if first then modSlot (modQ d h (fun q => { q with waitPop := joinWait (popWaiters d h) f k })) f k
      (fun s => { s with block := .qpop r p h })
    else d
  if q.st = .disabled then
    trapAt (modQ d h (fun q => { q with waitPop := (popWaiters d h).filter (fun e => e != (f, k)) })) f k 0x0E 1
      (getTp d f k).pc.toNat (getSlot d f k).word 0
  else match q.hw with
    | [] => wait d
    | e :: es =>
      if poppable d e && ((popWaiters d h).isEmpty || (popWaiters d h).head? == some (f, k)) then
        retireAt (modTp (modQ d h (fun q =>
          { q with hw := es, waitPop := (popWaiters d h).filter (fun x => x != (f, k)) })) f k (fun t => popRegs t r p e)) f k
      else wait d

/-- QPOP (R202, R415). -/
def execQpop (g : Guard) (d a : BitVec 5) (k : BitVec 3) (s : State) : Host.Outcome State Fault Refusal :=
  nextD s (fun dd => issueS dd g [a, d, d + 1, d + 2, d + 3] (predRegs [k]) (fun dd =>
    match queueCheck dd (rs dd a) 1 with
    | some (cls, cause) => trap dd cls cause
    | none => qpopTry dd dd.curF dd.curK d k (rn dd a) true))

/-- QPOP_WAKE: a waiting QPOP takes the head entry once it is poppable (R201, R202). -/
def execQpopWake (f k : Nat) (s : State) : Host.Outcome State Fault Refusal :=
  nextD s (fun d =>
    match (getSlot d f k).block with
    | .qpop r p h => qpopTry d f k r p h false
    | _ => d)

/-- The status word of QCTL.stat (R203). -/
def queueStat (q : Hwq) : Word :=
  w64 (q.hw.length + atBit (bnat q.spe) 6 1 + atBit (bnat q.v) 7 1 + atBit (bnat (q.st == .spilling)) 8 1
    + atBit (bnat (q.st == .faulted)) 9 1 + atBit q.ring.length 16 25)

/-- QCTL.stat (R203). -/
def execQctlStat (g : Guard) (d a : BitVec 5) (s : State) : Host.Outcome State Fault Refusal :=
  nextD s (fun dd => issue dd g [d, a] (fun dd =>
    match queueCheck dd (rs dd a) 4 with
    | some (cls, cause) => trap dd cls cause
    | none => retire (modCur dd (fun t => sput t d (queueStat (getQ dd (rn dd a)))))))

/-- A queue descriptor breaks R197. Whether SBASE has the form of an L2 address shows at the first access of the ring (log entry 189). -/
def queueDescBad (w : List Word) : Bool :=
  let w0 := w.getD 0 0
  let spe := w0.getLsbD 1
  wb w0 16 48 != 0 || wb w0 2 2 != 0 ||
  (if spe then decide (wb w0 8 8 < 4) || decide (20 < wb w0 8 8) || ! (wb w0 4 4 == 1 || wb w0 4 4 == 3 || wb w0 4 4 == 4)
   else wb w0 4 12 != 0) ||
  wb (w.getD 1 0) 52 12 != 0 || wb (w.getD 1 0) 0 6 != 0 || (w.drop 2).any (fun x => x != 0)

/-- The L2 tile element a descriptor is read from must lie 64-byte aligned (R203): TILE 0x10, 0x1F, then SPACE. -/
def descCheck (d : Data) (v : Option View) : Check :=
  match v with
  | none => some (4, 0x10)
  | some v =>
    let a := elemInt v.lte (winCoords v 0 0)
    firstFault [tileIf 0x1F (lteSpace v.lte != 1 || a % 64 != 0), spaceFormI d (ltePlace v.lte) a (a + 63)]

/-- QCTL.cfg's read and its effect (R197, R203): the issue completes. Head and tail start at 0, and the ring's control block is left alone
(log entry 188). -/
def qctlCfgRead (d : Data) (a : BitVec 5) (n : BitVec 4) : Data :=
  match readWordsAt d (reqFloe d.curF) { space := 1, psp := 0, pmod := 0 } (lvAddr (curView d n)) 8 with
  | (d, .error (cls, cause)) => trap d cls cause
  | (d, .ok w) =>
    let h := rn d a
    if (getQ d h).st ≠ .disabled then trap d 0x0E 4
    else if queueDescBad w then trap d 0x0E 3
    else
      let w0 := w.getD 0 0
      let q := if w0.getLsbD 0 then
          { Hwq.reset with st := .direct, v := true, spe := w0.getLsbD 1, ssp := wb w0 4 4, sre := wb w0 8 8,
                           sbase := wb (w.getD 1 0) 6 46 * 64 }
        else getQ d h
      retireAt (modQ d h (fun _ => q)) d.curF d.curK

/-- QCTL.cfg (R203, R415). -/
def execQctlCfg (g : Guard) (a : BitVec 5) (t : BitVec 4) (s : State) : Host.Outcome State Fault Refusal :=
  nextD s (fun dd => issueS dd g [a] (viewRegs (curTp dd) t) (fun dd => whenFree dd true false false (fun dd =>
    match firstFault [queueCheck dd (rs dd a) 4,
        (if handleBad (rs dd a) || (getQ dd (rn dd a)).st == .disabled then none else some (0x0E, 4)),
        descCheck dd (curView dd t)] with
    | some (cls, cause) => trap dd cls cause
    | none => blockCur dd (.issue (.qctlCfg g a t)))))

/-- QCTL.off may disable queue h (R203): it is FAULTED, or holds no entry and no push or pop waits. -/
def queueIdle (d : Data) (h : Nat) : Bool :=
  (getQ d h).st == .faulted ||
    ((getQ d h).hw.isEmpty && (getQ d h).ring.isEmpty && (pushWaiters d h).isEmpty && (popWaiters d h).isEmpty)

/-- QCTL.off (R203): its remaining entries are discarded. -/
def execQctlOff (g : Guard) (a : BitVec 5) (s : State) : Host.Outcome State Fault Refusal :=
  nextD s (fun dd => issue dd g [a] (fun dd =>
    match firstFault [queueCheck dd (rs dd a) 4,
        (if handleBad (rs dd a) || queueIdle dd (rn dd a) then none else some (0x0E, 4))] with
    | some (cls, cause) => trap dd cls cause
    | none => retire (modQ dd (rn dd a) (fun q =>
        { Hwq.reset with waitPush := q.waitPush, waitPop := q.waitPop }))))

/-- The home finds an uncorrectable error in entry pos of a hardware queue (R208): the entry keeps its place and its data, with
poison cause 0x03 and the refill engine's role. -/
def hwqUpset (d : Data) (h pos : Nat) : Data :=
  modQ d h (fun q => { q with hw := q.hw.modify pos (fun e => { e with psn := true, cause := 3, role := 0xC0 }) })

/-- QUEUE_REFILL: the head of the spill ring moves into a free place of the hardware queue (R205). -/
def execQueueRefill (h : Nat) (s : State) : Host.Outcome State Fault Refusal :=
  nextD s (fun d =>
    let q := getQ d h
    match q.ring with
    | [] => d
    | e :: es =>
      if q.stalled || decide (32 ≤ q.hw.length) || q.st != .spilling then d
      else
        match readWordsAt d (reqRefill (h / 128)) (ringPlace q) (q.sbase + 64 + 64 * (q.head % 2 ^ q.sre)) 8 with
        | (d, .error fc) => ringFault d h fc
        | (d, .ok _) =>
          match writeAt d (reqRefill (h / 128)) (ringPlace q) q.sbase 8 ((q.head + 1) % 2 ^ 48) false with
          | (d, .error fc) => ringFault d h fc
          | (d, .ok _) => modQ d h (fun q =>
              { q with hw := q.hw ++ [e], ring := es, head := (q.head + 1) % 2 ^ 48,
                       st := if es.isEmpty then .direct else .spilling }))

end Sys2Proof.Machine
end

