-- ==== Sys2Proof/Machine/StreamRun.lean ====
section
/-!
DEFINITION. Streams at work: start, elements, stops, completion and barriers (R67, R68, R80-R95, R271, R406, R407).
-/

namespace Sys2Proof.Machine

/-! ## What a command's words hold (R80, R82) -/

/-- Consecutive loops from loop 1 upwards whose pass ends with record r. -/
def loopsClosed : List Nat → Nat → Nat
  | [], _ => 0
  | c :: cs, r => if r % max 1 c = c - 1 then 1 + loopsClosed cs (r / max 1 c) else 0

/-- The place of a word in a pattern: its first point, its points, its record, and its END (R80). -/
structure WordPlace where
  first : Nat
  points : Nat
  recNo : Nat
  level : Nat
  deriving DecidableEq, Repr

/-- Words of a record of n elements at e elements a word. -/
def recWordCount (n e : Nat) : Nat := max 1 (ceilDiv n e)

/-- Word k of a nest with the given counts, e elements a word. -/
def wordPlace (counts : List Nat) (e k : Nat) : WordPlace :=
  let n0 := counts.headD 1
  let wpr := recWordCount n0 e
  let wi := k % wpr
  { first := k / wpr * n0 + wi * e, points := min e (n0 - wi * e), recNo := k / wpr,
    level := if wi + 1 = wpr then 1 + loopsClosed (counts.drop 1) (k / wpr) else 0 }

/-- Words of a nest. -/
def nestWords (counts : List Nat) (e : Nat) : Nat :=
  recWordCount (counts.headD 1) e * prodNat (counts.drop 1)

/-- The pattern that walks a window row by row (R78). -/
def rowPattern : List Word := [1, 0x0001000000000000, 0x0000000100000000, 0, 0, 0, 0, 0, 0]

/-- A view with nothing in it. -/
def noView : View := { lte := [], shape := 0, bind := { entry := 0, shape := 0, rdim := 0, cdim := 1, origin := [] } }

/-- The first tile of a command. -/
def cmdTile (c : Cmd) : View := c.tile.getD noView
/-- Its second tile. -/
def cmdTile2 (c : Cmd) : View := c.tile2.getD noView

/-- The pattern of a command's walk: SMOV walks its windows (R86). -/
def cmdPat (c : Cmd) : List Word :=
  match c.kind with
  | .smov => rowPattern
  | _ => c.pat

/-- The loop counts of a command's walk. -/
def cmdCounts (c : Cmd) : List Nat :=
  patCounts (cmdPat c) (shRows (cmdTile c).shape) (shCols (cmdTile c).shape)

/-- Elements in a word of a view's format. -/
def viewElems (v : View) : Nat := fieldElems (lteFmt v.lte)

/-- Words, records or points a command moves in all. -/
def cmdTotal (c : Cmd) : Nat :=
  match c.kind with
  | .sgth => shCols (cmdTile2 c).shape
  | .ssct _ => shCols (cmdTile2 c).shape
  | .srec => prodNat (cmdCounts c)
  | .sconC => prodNat (cmdCounts c)
  | .sconI => prodNat (cmdCounts c)
  | .sbar _ => 0
  | _ => nestWords (cmdCounts c) (viewElems (cmdTile c))

/-- Coordinates of window element (i, j) for a row index of any sign (R62, R82). -/
def rowCoords (v : View) (i : Int) (j : Nat) : List Int :=
  (List.range (vRank v)).map (fun d =>
    vOrg v d + (if 2 ≤ vRank v ∧ d = v.bind.rdim.toNat then i else 0) + (if d = v.bind.cdim.toNat then (j : Int) else 0))

/-- Coordinates of the elements of word k of a command in a view. -/
def wordCoords (c : Cmd) (v : View) (k : Nat) : List (List Int) :=
  let counts := cmdCounts c
  let p := wordPlace counts (viewElems (cmdTile c)) k
  (List.range p.points).map (fun i =>
    let x := patPoint (cmdPat c) (pointOf counts (p.first + i))
    winCoords v x.1.toNat x.2.toNat)

/-- Words of a gathered or scattered record. -/
def rowWords (v : View) : Nat := recWordCount (shCols v.shape) (viewElems v)

/-- Coordinates of the elements of word w of the row with index i. -/
def rowWordCoords (v : View) (i : Int) (w : Nat) : List (List Int) :=
  let e := viewElems v
  (List.range (min e (shCols v.shape - w * e))).map (fun n => rowCoords v i (w * e + n))

/-! ## Reading and writing words -/

/-- A fault of an access with the address it names. -/
abbrev At (α : Type) := Except ((Nat × Nat) × Nat) α

/-- An element as read: none out of range, else value and poison, with the pieces reached. -/
abbrev ReadElem := Option (Nat × Bool × List Piece)

/-- Read elements one after another; the first fault ends the read. -/
def readElems (d : Data) (q : Req) (v : View) : List (List Int) → Data × At (List ReadElem)
  | [] => (d, .ok [])
  | x :: xs =>
    if inRange v.lte x then
      match reachElem d q v.lte x .read with
      | (d, .error fc) => (d, .error (fc, elemAddr v.lte x))
      | (d, .ok ps) =>
        match readElems d q v xs with
        | (d, .error fc) => (d, .error fc)
        | (d, .ok l) => (d, .ok (some (pieceRead d ps, piecePoisoned d ps, ps) :: l))
    else
      match readElems d q v xs with
      | (d, .error fc) => (d, .error fc)
      | (d, .ok l) => (d, .ok (none :: l))

/-- The 16-byte granules of FLOE that pieces touch. -/
def granules (ps : List Piece) : List Nat :=
  dedup (ps.flatMap (fun p => if locTag p.loc = 1 then [p.loc / 16, (p.loc + pieceBytes p - 1) / 16] else []))

/-- Each granule of FLOE touched is one access to its bank (R98). -/
def useBanks (d : Data) (f : Nat) (ps : List Piece) : Data :=
  modFloe d f (fun fl => (granules ps).foldl (fun fl g => bankUse fl (16 * g)) fl)

/-- Mask nibble of a word read under a ragged policy (R63, R65, R80). -/
def readMask (v : View) (l : List ReadElem) : BitVec 4 :=
  if shPol v.shape = 0 then
    BitVec.ofNat 4 (sumNat ((List.range 4).map (fun q =>
      if (List.range l.length).any (fun i => elemQuarter (lteFmt v.lte) i == q && (l.getD i none).isSome) then 0 else 2 ^ q)))
  else 0

/-- The field word of elements read. -/
def elemsWord (v : View) (l : List ReadElem) (rec level : Nat) (gen : Bool) : FWord :=
  dataWord (packElems (lteFmt v.lte) (l.map (fun e => (e.map (fun x => x.1)).getD 0))) rec level gen
    (l.any (fun e => (e.map (fun x => x.2.1)).getD false)) (readMask v l)

/-- Read the word at a list of coordinates. -/
def readWord (d : Data) (f : Nat) (v : View) (xs : List (List Int)) (rec level : Nat) (gen : Bool) : Data × At FWord :=
  match readElems d (reqFloe f) v xs with
  | (d, .error fc) => (d, .error fc)
  | (d, .ok l) =>
    (useBanks d f (l.flatMap (fun e => (e.map (fun x => x.2.2)).getD [])), .ok (elemsWord v l rec level gen))

/-- Bits of a granule that pieces write, each piece once. -/
def granuleBits (ps : List Piece) (g : Nat) : Nat :=
  sumNat ((ps.foldr (fun p acc => if acc.contains p then acc else p :: acc) []).map (fun p =>
    if p.loc / 16 = g then p.n else 0))

/-- One element is stored or combined in memory, with its poison (R83, R281). -/
def elemWrite (psn : Bool) (mode fmt : Nat) (d : Data) (e : List Piece × Nat) : Data :=
  pieceWrite d e.1 (if mode = 0 then e.2 else combine mode fmt (pieceRead d e.1) e.2)
    (psn || (mode != 0 && piecePoisoned d e.1))

/-- Elements are written in order; clean data clears the granules they cover whole (R281). -/
def wordWrite (d : Data) (elems : List (List Piece × Nat)) (psn : Bool) (mode fmt : Nat) : Data :=
  let d := elems.foldl (elemWrite psn mode fmt) d
  if psn || mode != 0 then d
  else
    let ps := elems.flatMap (fun e => e.1)
    { d with poison := d.poison.filter (fun g => decide (granuleBits ps g < 128)) }

/-- Write elements of a view: in FLOE as a write of the cycle in progress, elsewhere at once. part: a word of a record of SSCT
that is not its last. -/
def viewWrite (d : Data) (f : Nat) (v : View) (key : Nat) (elems : List (List Piece × Nat)) (psn : Bool) (mode : Nat)
    (part : Bool) : Data :=
  if elems.isEmpty then d
  else if vLocal v then
    modFloe (useBanks d f (elems.flatMap (fun e => e.1))) f (fun fl =>
      { fl with writes := fl.writes ++ [{ src := 1, key := key, elems := elems, psn := psn, mode := mode,
                                          fmt := lteFmt v.lte, part := part }] })
  else wordWrite d elems psn mode (lteFmt v.lte)

/-- Reach the elements of a word that are to be written, until the first fault: the elements reached, and the fault with the
number of the element it hit. Masked quarters and elements out of range are passed over. -/
def reachWrites (d : Data) (q : Req) (v : View) (w : FWord) (need : Need) :
    Nat → List (List Int) → Data × List (List Piece × Nat) × Option (((Nat × Nat) × Nat) × Nat)
  | _, [] => (d, [], none)
  | i, x :: xs =>
    if inRange v.lte x && ! w.mask.getLsbD (elemQuarter (lteFmt v.lte) i) then
      match reachElem d q v.lte x need with
      | (d, .error fc) => (d, [], some ((fc, elemAddr v.lte x), i))
      | (d, .ok ps) =>
        let r := reachWrites d q v w need (i + 1) xs
        (r.1, (ps, quadElem (lteFmt v.lte) w.data i) :: r.2.1, r.2.2)
    else reachWrites d q v w need (i + 1) xs

/-! ## Stops (R68, R271) -/

/-- The restart point of a word number in elements. -/
def wordPos (c : Cmd) (k : Nat) : Nat := (wordPlace (cmdCounts c) (viewElems (cmdTile c)) k).first

/-- The four multicast points in DW3-DW5 (R268). -/
def mcWords (c : Cmd) : List Word :=
  let b : Nat → Nat := fun i => wordPos c (c.points.getD i 0)
  [w64 (fld (b 0) 0 48 + fld (b 1) 0 16 * 2 ^ 48), w64 (fld (b 1) 16 32 + fld (b 2) 0 32 * 2 ^ 32),
   w64 (fld (b 2) 32 16 + fld (b 3) 0 48 * 2 ^ 16)]

/-- The command in entry e of floe f. -/
def getCmd (d : Data) (f e : Nat) : Option Cmd := (getFloe d f).streams.getD e none

/-- That entry changed. -/
def setCmd (d : Data) (f e : Nat) (c : Option Cmd) : Data :=
  modFloe d f (fun fl => { fl with streams := fl.streams.set e c })

/-- The command stops at its restart point with one STOP record (R271). -/
def streamStop (d : Data) (f e : Nat) (c : Cmd) (wr : Bool) (x : (Nat × Nat) × Nat) : Data :=
  let mc : Bool := match c.kind with
    | .smcs => true
    | _ => false
  let ws := if mc then mcWords c else [w64 c.pos, 0, 0]
  emitTpRec (setCmd d f e (some { c with st := .stopped })) f c.slot
    { recZero with kind := 1, cls := x.1.1, cause := x.1.2, utype := 1, entry := e, tag := c.tag.toNat, wr := wr, mc := mc,
                   addr := x.2, d0 := ws.getD 0 0, d1 := ws.getD 1 0, d2 := ws.getD 2 0 }

/-! ## Delivery -/

/-- The floe's active mark for an element performed (R278). -/
def markActive (d : Data) (f : Nat) : Data := modFloe d f (fun fl => { fl with active := true })

/-- The ip port of a command. -/
def cmdIp (c : Cmd) : Nat := (c.ip.getD 0).toNat
/-- Its op port. -/
def cmdOp (c : Cmd) : Nat := (c.op.getD 0).toNat

/-- A word enters the command's ip port. -/
def toIp (d : Data) (f : Nat) (c : Cmd) (w : FWord) : Data := qPush d f (.ip (cmdIp c)) w ((getFloe d f).cyc + 1)

/-- The ip port has room. -/
def ipRoom (d : Data) (f : Nat) (c : Cmd) : Bool := qRoom d f (.ip (cmdIp c)) 1

/-- The switch words of branch b of a multicast: those of the active configuration, under which its words move (R133). -/
def mcBranch (d : Data) (f : Nat) (c : Cmd) (b : Nat) : List Nat := branchWords (getFloe d f).cfg.cur (cmdIp c) b

/-- The box of a multicast's replication point. -/
def mcBox' (c : Cmd) : Nat := ccBox (cmdIp c / 2)

/-- Branch b of a multicast can take the word in hand: it has not had it, its channel has room (R85), and the multicast is of
the active generation: words of the next one wait at the replication point until the switch (R133). -/
def mcOpen (d : Data) (f : Nat) (c : Cmd) (b : Nat) : Bool :=
  c.branches.getLsbD b && c.points.getD b 0 == c.words && c.gen == (getFloe d f).cfg.gen &&
    hopsRoom d f (mcBox' c) (mcBranch d f c b) 1

/-- The word in hand enters branch b where the branch can take it (R85). -/
def mcPass (f : Nat) (w : FWord) (dc : Data × Cmd) (b : Nat) : Data × Cmd :=
  let d := dc.1
  let c := dc.2
  if mcOpen d f c b then
    ((mcBranch d f c b).foldl (fun d s => hopPush d f (mcBox' c) s 0 c.floeLocal w) d,
      { c with points := c.points.set b (c.words + 1) })
  else (d, c)

/-- Every selected branch has the word in hand. -/
def mcDone (c : Cmd) : Bool := (List.range 4).all (fun b => ! c.branches.getLsbD b || decide (c.words < c.points.getD b 0))

/-- A multicast passes its word in hand to every branch with room; when all have it, the word is done. -/
def mcDeliver (d : Data) (f e : Nat) (c : Cmd) (x : Flight) (rest : List Flight) : Data :=
  let r := (List.range 4).foldl (mcPass f x.word) (d, c)
  if mcDone r.2 then
    markActive (setCmd r.1 f e (some { r.2 with words := c.words + 1, pos := wordPos c (c.words + 1), inflight := rest })) f
  else if r.2 = c then d else setCmd r.1 f e (some r.2)

/-- A multicast whose word in hand can be delivered somewhere. -/
def mcCan (d : Data) (f : Nat) (c : Cmd) : Bool :=
  (List.range 4).any (mcOpen d f c)

/-- The restart point after the word in hand x has passed: elements, indices or words (R67). -/
def posAfter (c : Cmd) (x : Flight) : Nat :=
  match c.kind with
  | .sgth => x.place + bnat x.last
  | .srd => if c.words + 1 = cmdTotal c then prodNat (cmdCounts c) else wordPos c (c.words + 1)
  | .smov => if c.words + 1 = cmdTotal c then prodNat (cmdCounts c) else wordPos c (c.words + 1)
  | _ => c.words + 1

/-- The word in hand x enters the ip port: the element is performed. -/
def ipDeliver (d : Data) (f e : Nat) (c : Cmd) (x : Flight) (rest : List Flight) : Data :=
  setCmd (toIp d f c x.word) f e (some { c with words := c.words + 1, pos := posAfter c x, inflight := rest })

/-! ## Indirect streams (R82) -/

/-- Read index k of a command: value and poison. An element out of range of the index tile is carried as zero (R63). -/
def readIndex (d : Data) (f : Nat) (c : Cmd) (k : Nat) : Data × At (BitVec 32 × Bool) :=
  match readElems d (reqFloe f) (cmdTile2 c) [winCoords (cmdTile2 c) 0 k] with
  | (d, .error fc) => (d, .error fc)
  | (d, .ok l) =>
    let x : Nat × Bool × List Piece := (l.headD none).getD (0, false, [])
    (useBanks d f x.2.2, .ok (BitVec.ofNat 32 x.1, x.2.1))

/-- The row an index names is in range of the data tile (R82). -/
def rowOk (v : View) (i : BitVec 32) : Bool :=
  let x := vOrg v v.bind.rdim.toNat + i.toInt
  decide (0 ≤ x) && decide (x < (lteExt v.lte v.bind.rdim.toNat : Int))

/-- END of record k's last word: 1, and 2 for the last record (R82). -/
def rowLevel (c : Cmd) (k : Nat) : Nat := if k + 1 = cmdTotal c then 2 else 1

/-- An INDEX error token; its origin is the pair of the port. -/
def indexTok (port k : Nat) (i : BitVec 32) (level : Nat) (gen : Bool) : FWord :=
  errTok 1 0 0 (atBit (port / 2) 4 3) k i.toNat k level gen

/-- The words of record k of SGTH for index i: its row, or one INDEX token. -/
def rowRead (d : Data) (f : Nat) (c : Cmd) (k : Nat) (i : BitVec 32 × Bool) (w : Nat) : Data × At FWord :=
  let v := cmdTile c
  if rowOk v i.1 then
    match readWord d f v (rowWordCoords v i.1.toInt w) k (if w + 1 = rowWords v then rowLevel c k else 0) c.gen with
    | (d, .ok x) => (d, .ok { x with psn := x.psn || i.2 })
    | (d, .error fc) => (d, .error fc)
  else (d, .ok (indexTok (cmdIp c) k i.1 (rowLevel c k) c.gen))

/-- Words record k has for index i. -/
def rowCount (v : View) (i : BitVec 32) : Nat := if rowOk v i then rowWords v else 1

/-- All words of record k, from word w on, n of them. -/
def rowReadAll (d : Data) (f : Nat) (c : Cmd) (k : Nat) (i : BitVec 32 × Bool) : Nat → Nat → Data × At (List Flight)
  | _, 0 => (d, .ok [])
  | w, n + 1 =>
    match rowRead d f c k i w with
    | (d, .error fc) => (d, .error fc)
    | (d, .ok x) =>
      match rowReadAll d f c k i (w + 1) n with
      | (d, .error fc) => (d, .error fc)
      | (d, .ok l) => (d, .ok ({ due := 0, place := k, sub := w, last := n == 0, word := x } :: l))

/-! ## Records of SSCT that have not ended (R67, R83, R434, log entry 141) -/

/-- Poison of one granule. -/
def granuleSet (d : Data) (g : Nat) (psn : Bool) : Data :=
  { d with poison := if psn then keyIns g d.poison else d.poison.filter (fun x => x != g) }

/-- The granules that elements lie in. -/
def elemGranules (elems : List (List Piece × Nat)) : List Nat :=
  dedup (elems.flatMap (fun e => e.1.flatMap (fun p => (keysFrom p.loc (pieceBytes p)).map (fun a => a / 16))))

/-- A write that meets a record in progress is noted, with what its granules held before. -/
def partNote (d : Data) (f : Nat) (w : FloeWrite) : Data :=
  let fl := getFloe d f
  if ! w.part && fl.partBase.isEmpty then d
  else
    let gs := elemGranules w.elems
    if w.part || gs.any (fun g => fl.partBase.any (fun e => e.1 == g)) then
      let more := gs.filter (fun g => ! fl.partBase.any (fun e => e.1 == g))
      modFloe d f (fun fl => { fl with
        partBase := fl.partBase ++ more.map (fun g => (g, memRead d (16 * g) 16, poisoned d (16 * g) 16)),
        partLog := fl.partLog ++ [w] })
    else d

/-- A write of the cycle takes effect. -/
def floeWrite (f : Nat) (d : Data) (w : FloeWrite) : Data := wordWrite (partNote d f w) w.elems w.psn w.mode w.fmt

/-- A noted write takes effect again. -/
def partAgain (d : Data) (w : FloeWrite) : Data :=
  if w.src = 4 then granuleSet d w.key true else wordWrite d w.elems w.psn w.mode w.fmt

/-- Notes are kept while some record is in progress. -/
def partPrune (fl : Floe) : Floe :=
  if fl.partLog.any (fun w => w.part) then fl else { fl with partBase := [], partLog := [] }

/-- A word of the unfinished record of command c. -/
def partOf (c : Cmd) (w : FloeWrite) : Bool := w.part && w.key == c.no

/-- The command's unfinished record is taken back: its words of the cycle in progress, and what stands in memory, where every other
write to the same granules takes effect as it would have without it (R67, R83). -/
def undoCmd (d : Data) (f : Nat) (c : Cmd) : Data :=
  let d := modFloe d f (fun fl => { fl with writes := fl.writes.filter (fun w => ! partOf c w) })
  let fl := getFloe d f
  if fl.partLog.any (partOf c) then
    let log := fl.partLog.filter (fun w => ! partOf c w)
    let base := fl.partBase.foldl (fun d e => granuleSet (memWriteBytes d (16 * e.1) (numBytes 16 e.2.1) false) e.1 e.2.2) d
    modFloe (log.foldl partAgain base) f (fun fl => partPrune { fl with partLog := log })
  else d

/-- The command's record ends: its words stay (R67). -/
def recordDone (d : Data) (f : Nat) (c : Cmd) : Data :=
  let whole : FloeWrite → FloeWrite := fun w => if w.key = c.no then { w with part := false } else w
  modFloe d f (fun fl => if fl.partBase.isEmpty then fl
    else partPrune { fl with partLog := fl.partLog.map whole })

/-! ## Floe-local elements (R90) -/

/-- A word read joins those in hand. -/
def inHand (c : Cmd) (due place sub : Nat) (last : Bool) (w : FWord) : Cmd :=
  { c with inflight := c.inflight ++ [{ due := due, place := place, sub := sub, last := last, word := w }] }

/-- The word in hand that is due. -/
def dueHead (now : Nat) (c : Cmd) : Option (Flight × List Flight) :=
  match c.inflight with
  | x :: rest => if x.due ≤ now then some (x, rest) else none
  | [] => none

/-- Words of SRD, SMCS and SMOV read so far. -/
def readSoFar (c : Cmd) : Nat := c.words + c.inflight.length

/-- Read word k of the command's source tile, to be used in the cycle due. -/
def localRead (d : Data) (f e : Nat) (c : Cmd) (v : View) (due : Nat) : Data :=
  let k := readSoFar c
  let p := wordPlace (cmdCounts c) (viewElems (cmdTile c)) k
  match readWord d f v (wordCoords c v k) p.recNo p.level c.gen with
  | (d, .error fc) => streamStop d f e c false fc
  | (d, .ok w) => setCmd d f e (some (inHand c due k 0 false w))

/-- Write the elements of a word at coordinates: everything reached is written (R176). -/
def writeWord (d : Data) (f : Nat) (v : View) (key : Nat) (w : FWord) (xs : List (List Int)) (mode : Nat) (part : Bool) :
    Data × Option (((Nat × Nat) × Nat) × Nat) :=
  let need := if mode = 0 then Need.write else Need.readWrite
  let r := reachWrites d (reqFloe f) v w need 0 xs
  (viewWrite r.1 f v key r.2.1 w.psn mode part, r.2.2)

/-- The words of SWR or SSCT taken from the op port that count: a bare end token is no word (R438). -/
def takenWords (c : Cmd) : Nat := (c.inflight.filter (fun x => ! isBare x.word)).length

/-- One word leaves the op port in a cycle: the command may take one now. -/
def mayTake (now delay : Nat) (c : Cmd) : Bool := c.inflight.all (fun x => decide (x.due < now + delay))

/-- The head of the command's op port. -/
def opHead (d : Data) (f : Nat) (c : Cmd) : Option FWord :=
  (qHead d f (.op (cmdOp c))).map (opWord (getFloe d f).cfg.cur (cmdOp c))

/-- Take the head of the op port when an error token has a sink to go to (R108): the word in hand is kept; the token goes
to ESINK at once, but between queues of a frozen floe it does not move (R115). -/
def takeOp (d : Data) (f : Nat) (c : Cmd) : Option (Data × FWord) :=
  match opHead d f c with
  | none => none
  | some w =>
    if isErr w then (if sinkRoom d f 1 && ! (getFloe d f).frozen then some (sinkPush (qPop d f (.op (cmdOp c))) f w, w) else none)
    else some (qPop d f (.op (cmdOp c)), w)

/-- SWR in FLOE: a word in hand is written when due, else one word is taken. -/
def swrLocal (d : Data) (f e : Nat) (c : Cmd) : Data :=
  let now := (getFloe d f).cyc
  match dueHead now c with
  | some (x, rest) =>
    if isBare x.word then setCmd d f e (some { c with inflight := rest })
    else
      let k := c.words
      let d := if isErr x.word then d else (writeWord d f (cmdTile c) c.no x.word (wordCoords c (cmdTile c) k) 0 false).1
      markActive (setCmd d f e (some { c with words := k + 1, pos := posAfter { c with kind := .srd } x, inflight := rest })) f
  | none =>
    if mayTake now 4 c && decide (c.words + takenWords c < cmdTotal c) then
      match takeOp d f c with
      | none => d
      | some (d, w) => setCmd d f e (some (inHand c (now + 4) 0 0 false w))
    else d

/-- A record of SSCT ends with its last word, a word of END 1 or more, or an error token (R434). -/
def recEnds (c : Cmd) (sub : Nat) (w : FWord) : Bool := isErr w || decide (1 ≤ wEnd w) || decide (rowWords (cmdTile c) ≤ sub + 1)

/-- The word in hand with its record and word number joins; a bare end token counts only as the end of a record begun. -/
def takeRecWord (c : Cmd) (due : Nat) (w : FWord) : Cmd :=
  if isBare w then
    (if c.sub = 0 then inHand c due c.idxNext 0 false w
     else { inHand c due c.idxNext c.sub true w with idxNext := c.idxNext + 1, sub := 0 })
  else
    let l := recEnds c c.sub w
    { inHand c due c.idxNext c.sub l w with
      idxNext := if l then c.idxNext + 1 else c.idxNext, sub := if l then 0 else c.sub + 1 }

/-- The mode of a scatter. -/
def cmdMode (c : Cmd) : Nat :=
  match c.kind with
  | .ssct m => m.toNat
  | _ => 0

/-- Combine one word of record x.place into the row of index i; an index out of range sends its INDEX token to ESINK with
the record's last word. part: the record is still in progress. -/
def scatterWord (part : Bool) (d : Data) (f : Nat) (c : Cmd) (i : BitVec 32 × Bool) (x : Flight) :
    Data × Option (((Nat × Nat) × Nat) × Nat) :=
  let v := cmdTile c
  if isErr x.word then (d, none)
  else if rowOk v i.1 then
    if isBare x.word then (d, none)
    else writeWord d f v c.no { x.word with psn := x.word.psn || i.2 } (rowWordCoords v i.1.toInt x.sub) (cmdMode c) part
  else (if x.last then sinkPush d f (indexTok (cmdOp c) x.place i.1 0 (getFloe d f).cfg.gen) else d, none)

/-- SSCT in FLOE: a word leaving the op port in cycle c is combined in c + 4 (R90). R90 gives no cycle for the read of an index:
the model reads it with its record's first word, in c + 4 (DESIGN CHOICE, log entry 138). An error token in a record leaves the row
as it would be without the record (R434). -/
def ssctLocal (d : Data) (f e : Nat) (c : Cmd) : Data :=
  let now := (getFloe d f).cyc
  match dueHead now c with
  | some (x, rest) =>
    match (if x.sub = 0 then readIndex d f c x.place else (d, .ok (c.idxs.headD (0, false)))) with
    | (d, .error fc) => streamStop d f e c true fc
    | (d, .ok i) =>
      if x.last && ! isErr x.word && ! rowOk (cmdTile c) i.1 && ! sinkRoom d f 1 then d
      else
        let c' := { c with inflight := rest, words := c.words + 1, idxs := [i], pos := x.place + bnat x.last }
        let d := if isErr x.word then undoCmd d f c else (scatterWord (! x.last) d f c i x).1
        markActive (setCmd (if x.last then recordDone d f c else d) f e (some c')) f
  | none =>
    if mayTake now 4 c && decide (c.idxNext < cmdTotal c) then
      match takeOp d f c with
      | none => d
      | some (d, w) => setCmd d f e (some (takeRecWord c (now + 4) w))
    else d

/-- SRD in FLOE. -/
def srdLocal (d : Data) (f e : Nat) (c : Cmd) : Data :=
  let now := (getFloe d f).cyc
  match dueHead now c with
  | some (x, rest) => if ipRoom d f c then ipDeliver d f e c x rest else d
  | none =>
    if readSoFar c < cmdTotal c ∧ c.start + 5 + readSoFar c ≤ now then localRead d f e c (cmdTile c) (now + 1) else d

/-- SMCS from FLOE with local branches. -/
def smcsLocal (d : Data) (f e : Nat) (c : Cmd) : Data :=
  let now := (getFloe d f).cyc
  match dueHead now c with
  | some (x, rest) => mcDeliver d f e c x rest
  | none =>
    if readSoFar c < cmdTotal c ∧ c.start + 5 + readSoFar c ≤ now then localRead d f e c (cmdTile c) (now + 1) else d

/-- SMOV from FLOE to FLOE: word k read in S + 5 + k is written in S + 10 + k. A quarter that the source's policy masks stays
unwritten, as in every stream write (R63, R65, R86, R102; log entry 139). -/
def smovLocal (d : Data) (f e : Nat) (c : Cmd) : Data :=
  let now := (getFloe d f).cyc
  match dueHead now c with
  | some (x, rest) =>
    let r := writeWord d f (cmdTile c) c.no x.word (wordCoords c (cmdTile c) c.words) 0 false
    markActive (setCmd r.1 f e (some { c with words := c.words + 1, pos := posAfter c x, inflight := rest })) f
  | none =>
    if readSoFar c < cmdTotal c ∧ c.start + 5 + readSoFar c ≤ now then localRead d f e c (cmdTile2 c) (now + 5) else d

/-- SGTH from FLOE: index k in S + 5 + wk, data word w in S + 11 + w, at the port one cycle later. -/
def sgthLocal (d : Data) (f e : Nat) (c : Cmd) : Data :=
  let now := (getFloe d f).cyc
  if c.idxNext < cmdTotal c ∧ c.start + 5 + c.idxWord ≤ now then
    match readIndex d f c c.idxNext with
    | (d, .error fc) => streamStop d f e c false fc
    | (d, .ok i) =>
      setCmd d f e (some { c with idxs := c.idxs ++ [i], idxNext := c.idxNext + 1,
                                  idxWord := c.idxWord + rowCount (cmdTile c) i.1 })
  else match dueHead now c with
    | some (x, rest) => if ipRoom d f c then ipDeliver d f e c x rest else d
    | none =>
      match c.idxs with
      | [] => d
      | i :: is =>
        if c.start + 11 + readSoFar c ≤ now then
          let k := c.idxNext - c.idxs.length
          let l := c.sub + 1 = rowCount (cmdTile c) i.1
          match rowRead d f c k i c.sub with
          | (d, .error fc) => streamStop d f e c false fc
          | (d, .ok w) =>
            setCmd d f e (some { inHand c (now + 1) k c.sub l w with
              idxs := if l then is else c.idxs, sub := if l then 0 else c.sub + 1 })
        else d

/-- The word SCON emits at point n (R84). -/
def sconWord (c : Cmd) (n : Nat) : FWord :=
  let counts := cmdCounts c
  let p := wordPlace counts 1 n
  let x := patPoint c.pat (pointOf counts n)
  let cv := (patW c.pat 8).toNat
  let data := match c.kind with
    | .sconI => fld n 0 32 + (intBits 32 x.1) * 2 ^ 32 + (intBits 32 x.2) * 2 ^ 64
    | _ => cv + cv * 2 ^ 64
  dataWord data p.recNo p.level c.gen false 0

/-- SCON: word k at the port in S + 1 + k. -/
def sconLocal (d : Data) (f e : Nat) (c : Cmd) : Data :=
  if c.words < cmdTotal c ∧ c.start + 1 + c.words ≤ (getFloe d f).cyc ∧ ipRoom d f c = true then
    setCmd (toIp d f c (sconWord c c.words)) f e (some { c with words := c.words + 1, pos := c.words + 1 })
  else d

/-- SREC: a word that leaves the op port in cycle c is accepted at the ip port in c + 2. An error token at an op port that is
not ESINK goes to ESINK, as at every op port a stream drains (R108), and takes the place of one of its words (log entry 140). -/
def srecLocal (d : Data) (f e : Nat) (c : Cmd) : Data :=
  let now := (getFloe d f).cyc
  match dueHead now c with
  | some (x, rest) =>
    if isErr x.word then
      markActive (setCmd d f e (some { c with words := c.words + 1, pos := posAfter c x, inflight := rest })) f
    else if ipRoom d f c then ipDeliver d f e c x rest else d
  | none =>
    if mayTake now 2 c && decide (readSoFar c < cmdTotal c) then
      match takeOp d f c with
      | none => d
      | some (d, w) => setCmd d f e (some (inHand c (now + 2) 0 0 false w))
    else d

/-- One step of a floe-local command in the advance cycle in progress. -/
def localStep (d : Data) (f e : Nat) (c : Cmd) : Data :=
  match c.kind with
  | .srd => srdLocal d f e c
  | .swr => swrLocal d f e c
  | .sgth => sgthLocal d f e c
  | .ssct _ => ssctLocal d f e c
  | .srec => srecLocal d f e c
  | .sconC => sconLocal d f e c
  | .sconI => sconLocal d f e c
  | .smcs => smcsLocal d f e c
  | .smov => smovLocal d f e c
  | .sbar _ => d

/-- A word of the command is due in the advance cycle in progress and has not moved: the floe freezes (R90, R115). -/
def cmdHeldUp (now : Nat) (c : Cmd) : Bool :=
  c.floeLocal && c.killed.isNone && c.st == .active &&
    ((dueHead now c).isSome || (match c.kind with
      | .sconC => decide (c.words < cmdTotal c) && decide (c.start + 1 + c.words ≤ now)
      | .sconI => decide (c.words < cmdTotal c) && decide (c.start + 1 + c.words ≤ now)
      | _ => false))

/-! ## Elements of other commands -/

/-- SRD: one word is read and enters the port. -/
def srdFar (d : Data) (f e : Nat) (c : Cmd) : Data :=
  if c.words < cmdTotal c ∧ ipRoom d f c = true then
    let p := wordPlace (cmdCounts c) (viewElems (cmdTile c)) c.words
    match readWord d f (cmdTile c) (wordCoords c (cmdTile c) c.words) p.recNo p.level c.gen with
    | (d, .error fc) => streamStop d f e c false fc
    | (d, .ok w) => ipDeliver d f e c { due := 0, place := c.words, sub := 0, last := false, word := w } []
  else d

/-- The word in hand of SWR or SMOV is written from its restart point on: the elements before a fault stay written, and SMOV
reads the rest again (R67). -/
def farWrite (d : Data) (f e : Nat) (c : Cmd) (w : FWord) : Data :=
  let first := wordPos c c.words
  let done := c.pos - first
  let xs := (wordCoords c (cmdTile c) c.words).drop done
  let r := reachWrites d (reqFloe f) (cmdTile c) w .write done xs
  let d := viewWrite r.1 f (cmdTile c) c.no r.2.1 w.psn 0 false
  match r.2.2 with
  | some (fc, i) =>
    let c' := { c with inflight := [], pos := first + i }
    let d := if r.2.1.isEmpty then d else markActive d f
    streamStop d f e (if c.op.isSome then inHand c' 0 c.words 0 false w else c') true fc
  | none =>
    let c' := { c with inflight := [] }
    markActive (setCmd d f e (some { c' with
      words := c.words + 1,
      pos := if c.words + 1 = cmdTotal c then prodNat (cmdCounts c) else wordPos c (c.words + 1) })) f

/-- SWR: the word in hand, or the next one taken, is written. -/
def swrFar (d : Data) (f e : Nat) (c : Cmd) : Data :=
  match c.inflight with
  | x :: _ => farWrite d f e c x.word
  | [] =>
    if c.words < cmdTotal c then
      match takeOp d f c with
      | none => d
      | some (d, w) =>
        if isBare w then d
        else if isErr w then
          markActive (setCmd d f e (some { c with
            words := c.words + 1,
            pos := if c.words + 1 = cmdTotal c then prodNat (cmdCounts c) else wordPos c (c.words + 1) })) f
        else farWrite d f e c w
    else d

/-- SMOV: one word is read, then written. -/
def smovFar (d : Data) (f e : Nat) (c : Cmd) : Data :=
  match c.inflight with
  | x :: _ => farWrite d f e c x.word
  | [] =>
    if c.words < cmdTotal c then
      match readWord d f (cmdTile2 c) (wordCoords c (cmdTile2 c) c.words) 0 0 false with
      | (d, .error fc) => streamStop d f e c false fc
      | (d, .ok w) => farWrite d f e c w
    else d

/-- A word of a gathered record enters the port; the command keeps how many words of the record have, and its index. -/
def sgthDeliver (d : Data) (f e : Nat) (c : Cmd) (i : List (BitVec 32 × Bool)) (x : Flight) (rest : List Flight) : Data :=
  ipDeliver d f e { c with sub := if x.last then 0 else x.sub + 1, idxs := if x.last then [] else i } x rest

/-- SGTH: the words in hand enter the port; else the next record is read whole, so that a fault stops the command before it
(R425). A record whose words were dropped part way is read again from its first word not accepted (R67, R274). -/
def sgthFar (d : Data) (f e : Nat) (c : Cmd) : Data :=
  match c.inflight with
  | x :: rest => if ipRoom d f c then sgthDeliver d f e c c.idxs x rest else d
  | [] =>
    if c.pos < cmdTotal c ∧ ipRoom d f c = true then
      match (match c.idxs with
        | i :: _ => (d, .ok i)
        | [] => readIndex d f c c.pos : Data × At (BitVec 32 × Bool)) with
      | (d, .error fc) => streamStop d f e c false fc
      | (d, .ok i) =>
        match rowReadAll d f c c.pos i c.sub (rowCount (cmdTile c) i.1 - c.sub) with
        | (d, .error fc) => streamStop d f e c false fc
        | (d, .ok []) => d
        | (d, .ok (x :: rest)) => sgthDeliver d f e c [i] x rest
    else d

/-- Reach every element of the words of a record for the row of an index: a fault stops the command before the record. -/
def scatterReach (d : Data) (f : Nat) (c : Cmd) (i : BitVec 32) : List Flight → Data × Option ((Nat × Nat) × Nat)
  | [] => (d, none)
  | x :: xs =>
    if isErr x.word || isBare x.word || ! rowOk (cmdTile c) i then scatterReach d f c i xs
    else
      let need := if cmdMode c = 0 then Need.write else Need.readWrite
      match reachWrites d (reqFloe f) (cmdTile c) x.word need 0 (rowWordCoords (cmdTile c) i.toInt x.sub) with
      | (d, _, some (fc, _)) => (d, some fc)
      | (d, _, none) => scatterReach d f c i xs

/-- Record c.pos of SSCT is whole: it is written or combined as one element (R67). An error token in it leaves the row
unwritten (R434). -/
def scatterRecord (d : Data) (f e : Nat) (c : Cmd) : Data :=
  match readIndex d f c c.pos with
  | (d, .error fc) => streamStop d f e c false fc
  | (d, .ok i) =>
    let bad := c.inflight.any (fun x => isErr x.word)
    if ! bad && ! rowOk (cmdTile c) i.1 && ! sinkRoom d f 1 then d
    else match (if bad then (d, none) else scatterReach d f c i.1 c.inflight) with
      | (d, some fc) => streamStop d f e c true fc
      | (d, none) =>
        let d := if bad then d else c.inflight.foldl (fun d x => (scatterWord false d f c i x).1) d
        markActive (setCmd d f e (some { c with pos := c.pos + 1, words := c.words + c.inflight.length, inflight := [],
                                                sub := 0 })) f

/-- SSCT: a word joins the record in hand; the whole record is performed. -/
def ssctFar (d : Data) (f e : Nat) (c : Cmd) : Data :=
  match c.inflight.getLast? with
  | some x =>
    if x.last then scatterRecord d f e c
    else match takeOp d f c with
      | none => d
      | some (d, w) => setCmd d f e (some (takeRecWord c 0 w))
  | none =>
    if c.pos < cmdTotal c then
      match takeOp d f c with
      | none => d
      | some (d, w) => if isBare w then d else setCmd d f e (some (takeRecWord c 0 w))
    else d

/-- SMCS: the word in hand goes to every branch with room, or the next word is read. -/
def smcsFar (d : Data) (f e : Nat) (c : Cmd) : Data :=
  match c.inflight with
  | x :: rest => mcDeliver d f e c x rest
  | [] =>
    if c.words < cmdTotal c then
      let p := wordPlace (cmdCounts c) (viewElems (cmdTile c)) c.words
      match readWord d f (cmdTile c) (wordCoords c (cmdTile c) c.words) p.recNo p.level c.gen with
      | (d, .error fc) => streamStop d f e c false fc
      | (d, .ok w) => mcDeliver d f e (inHand c 0 c.words 0 false w) { due := 0, place := c.words, sub := 0, last := false, word := w } []
    else d

/-- One element step of a command that is not floe-local. -/
def farStep (d : Data) (f e : Nat) (c : Cmd) : Data :=
  match c.kind with
  | .srd => srdFar d f e c
  | .swr => swrFar d f e c
  | .sgth => sgthFar d f e c
  | .ssct _ => ssctFar d f e c
  | .smcs => smcsFar d f e c
  | .smov => smovFar d f e c
  | _ => d

/-- The command has a tile in FLOE. -/
def cmdFloe (c : Cmd) : Bool := (c.tile.toList ++ c.tile2.toList).any vLocal

/-- What a freeze stops of a command that is not floe-local: all of one that starts in the next advance cycle, and every access to
the memory cells; words in hand still enter their port (R16, R88, R115). -/
def farFrozen (fl : Floe) (c : Cmd) : Bool :=
  fl.frozen && (c.start == fl.cyc || (cmdFloe c && (c.ip.isNone || c.inflight.isEmpty)))

/-- An element step of entry e of floe f: an ACTIVE command that no SKIL has ended. A floe-local one moves only while the
floe is not frozen (R115). -/
def streamStep (d : Data) (f e : Nat) : Data :=
  match getCmd d f e with
  | none => d
  | some c =>
    if c.st = .active ∧ c.killed = none then
      let fl := getFloe d f
      if fl.halted then d
      else if c.floeLocal then (if fl.frozen then d else localStep d f e c)
      else if farFrozen fl c then d
      else farStep d f e c
    else d

/-! ## Start, completion and barriers -/

/-- The ports of a command, ip 0-15 and op 16-31. -/
def cmdPorts (c : Cmd) : List Nat :=
  (c.ip.map (fun p => p.toNat)).toList ++ (c.op.map (fun p => 16 + p.toNat)).toList

/-- Key of a view's space for range tests (R74): local spaces of this module by their code. -/
def spaceKey (d : Data) (f : Nat) (e : List Word) : Nat × Nat × Nat :=
  if lteSpace e = 6 then (if ltePmod e = d.modid.toNat then (ltePsp e, 0, 0) else (6, ltePsp e, ltePmod e))
  else if lteSpace e = 0 then (0, f, 0) else (lteSpace e, 0, 0)

/-- Byte ranges a command touches, each from the lowest to the highest byte of a view (R74), with their spaces. -/
def cmdRanges (d : Data) (f : Nat) (c : Cmd) : List ((Nat × Nat × Nat) × (Int × Int)) :=
  let one : Option View → Bool → List ((Nat × Nat × Nat) × (Int × Int)) := fun v gather =>
    match v with
    | none => []
    | some v => match (if gather then gatherBox v else winBox v) with
      | none => []
      | some b => [(spaceKey d f v.lte, rangesSpan (boxRanges v.lte b))]
  one c.tile (isGather c.kind) ++ one c.tile2 false

/-- Space codes a command's tiles name. -/
def cmdSpaces (c : Cmd) : List Nat := (c.tile.toList ++ c.tile2.toList).map (fun v => lteSpace v.lte)

/-- A barrier covers a command (R95). -/
def covers (d : Data) (f : Nat) (b c : Cmd) : Bool :=
  match b.kind with
  | .sbar mode =>
    if mode = 2 then true
    else if mode = 1 then (cmdSpaces c).contains b.space.toNat
    else (cmdRanges d f b).any (fun x => (cmdRanges d f c).any (fun y => x.1 == y.1 && spansMeet x.2 y.2))
  | _ => false

/-- An entry is a barrier. -/
def isBarrier (c : Cmd) : Bool := c.st == .barrier

/-- The commands of a floe's stream table. -/
def liveCmds (fl : Floe) : List Cmd := fl.streams.filterMap id

/-- Entries that count as active (R87). -/
def activeCount (fl : Floe) : Nat := ((liveCmds fl).filter (fun c => c.st == .active || c.st == .stopped)).length

/-- A port of the floe is held by the token feed against a later command (R143). -/
def feedHolds (fl : Floe) (c : Cmd) : Bool :=
  match fl.feed with
  | none => false
  | some p => (cmdPorts c).contains (16 + p.toNat) && decide (fl.feedNo ≤ c.no)

/-- A move or release of a matrix node holds an ip port (R144, R145, R147). -/
def moveHolds (fl : Floe) (port : Nat) : Bool :=
  fl.nodes.any (fun n => n.moves.any (fun m => m.holdsPort && m.port.toNat == port))

/-- A running solver holds a port of graph floe f (R240), its GIP or GOP, where the floe holds the region of the run (R246). -/
def solverHolds (d : Data) (f port : Nat) : Bool :=
  (getDie d (dieOf f)).solvers.any (fun s =>
    s.goTag.isSome && s.graph == (getFloe d f).lid && wb (s.block.getD 3 0) 0 8 == f &&
      (port == wb (s.block.getD 0 0) 22 4 || port == 16 + wb (s.block.getD 0 0) 26 4))

/-- Apart from the limit of 16, the QUEUED command c may start (R88, R133). One that is not floe-local reads FLOE between the
floe's cycles, and starts once the STS before it are in memory (R89). -/
def mayStart (d : Data) (f : Nat) (c : Cmd) : Bool :=
  let fl := getFloe d f
  c.st == .queued && c.killed.isNone &&
    ! (liveCmds fl).any (fun x => decide (x.no < c.no) &&
        (if isBarrier x then covers d f x c else (cmdPorts c).any (fun p => (cmdPorts x).contains p))) &&
    ! feedHolds fl c && ! (cmdPorts c).any (fun p => moveHolds fl p || solverHolds d f p) &&
    ! (c.floeLocal && fl.cfg.state == .draining && decide (fl.cfg.mark ≤ c.no)) &&
    (c.floeLocal || ! fl.writes.any (fun w => w.src == 2 && decide (w.key < c.no))) &&
    ! ((getTp d f c.slot).owner == c.owner && (getTp d f c.slot).pends.any (fun p => c.after.contains p.id))

/-- The command starts now: fewer than 16 are active, counting those that are ready before it (R88). -/
def startsNow (d : Data) (f : Nat) (c : Cmd) : Bool :=
  let fl := getFloe d f
  mayStart d f c &&
    decide (activeCount fl + ((liveCmds fl).filter (fun x => decide (x.no < c.no) && mayStart d f x)).length < 16)

/-- The command in entry e starts (R88): in advance cycle cyc, the one in progress or, when the floe is frozen, the next: until then
it moves nothing (R115). -/
def startStep (d : Data) (f e : Nat) : Data :=
  match getCmd d f e with
  | none => d
  | some c =>
    let fl := getFloe d f
    if startsNow d f c && ! fl.halted then
      setCmd d f e (some { c with st := .active, start := fl.cyc })
    else d

/-- STREAM_START (R88). -/
def execStreamStart (f e : Nat) (s : State) : Host.Outcome State Fault Refusal := nextD s (fun d => startStep d f e)

/-- A command is complete: all its elements have performed (R92). -/
def cmdComplete (c : Cmd) : Bool :=
  c.st == .active && c.inflight.isEmpty && (match c.kind with
    | .sgth => decide (cmdTotal c ≤ c.pos)
    | .ssct _ => decide (cmdTotal c ≤ c.pos)
    | .sbar _ => false
    | _ => decide (cmdTotal c ≤ c.words))

/-- The TP that issued a command sees it end: its tag is set, and its counted write has performed or is lost (R91, R201,
R208). -/
def endCmd (d : Data) (f : Nat) (c : Cmd) (lost : Option Nat) : Data :=
  let d := modTp d f c.slot (fun t => if t.owner = c.owner then
      { setTag t c.tag with busy := t.busy.erase c.tag, undone := if lost.isSome then t.undone else t.undone.filter (fun n => n != c.wno) }
    else t)
  match lost with
  | none => d
  | some cause => if c.wno = 0 ∨ (getTp d f c.slot).owner ≠ c.owner then d else loseWrite d f c.slot c.wno cause

/-- The entry of a command that SKIL ended is freed in the advance cycle in progress (R428). -/
def killDue (fl : Floe) (c : Cmd) : Bool :=
  match c.killed with
  | some n => decide (n ≤ fl.cyc)
  | none => false

/-- Writes of the command wait for the end of the advance cycle in progress. -/
def cmdWriting (fl : Floe) (c : Cmd) : Bool := fl.writes.any (fun w => w.src == 1 && w.key == c.no)

/-- Entry e is freed, and its tag set, where SKIL has ended its command (R428). -/
def killedStep (d : Data) (f e : Nat) : Data :=
  match getCmd d f e with
  | none => d
  | some c => if killDue (getFloe d f) c then endCmd (setCmd d f e none) f c (some 1) else d

/-- The command of entry e completes when its writes to FLOE are in memory (R92, R95). -/
def completeStep (d : Data) (f e : Nat) : Data :=
  match getCmd d f e with
  | none => d
  | some c =>
    if c.killed.isNone && cmdComplete c && ! cmdWriting (getFloe d f) c then
      endCmd (setCmd d f e none) f c none
    else d

/-- STREAM_COMPLETE (R87, R91, R92). -/
def execStreamComplete (f e : Nat) (s : State) : Host.Outcome State Fault Refusal := nextD s (fun d => completeStep d f e)

/-- A barrier entry may release: no covered command issued before it is left (R95, R420). -/
def barrierStep (d : Data) (f e : Nat) : Data :=
  match getCmd d f e with
  | none => d
  | some b =>
    if isBarrier b && ! (liveCmds (getFloe d f)).any (fun c => ! isBarrier c && decide (c.no < b.no) && covers d f b c) then
      setCmd d f e none
    else d

/-- BARRIER_RELEASE (R87, R95). -/
def execBarrierRelease (f e : Nat) (s : State) : Host.Outcome State Fault Refusal := nextD s (fun d => barrierStep d f e)

/-! ## SKIL (R94, R428) -/

/-- A SKIL of the issuing TP matches a command: one that has performed its last element is complete and is not matched
(R407). -/
def skilMatches (o : Owner) (h : Cmd → Bool) (c : Cmd) : Bool := c.owner == o && c.killed.isNone && ! cmdComplete c && h c

/-- The commands of the issuing TP that match are ended from this cycle on (R94, R428). -/
def killWhere (d : Data) (h : Cmd → Bool) : Data :=
  let o := (curTp d).owner
  let cs := (liveCmds (getFloe d d.curF)).filter (skilMatches o h)
  modFloe (cs.foldl (fun d c => undoCmd d d.curF c) d) d.curF (fun fl => { fl with streams := fl.streams.map (fun e =>
    match e with
    | some c => if skilMatches o h c then some { c with killed := some (fl.cyc + 1) } else some c
    | none => none) })

/-- SKIL.tag (R94): tag 0 matches nothing. -/
def execSkilTag (g : Guard) (tag : BitVec 6) (s : State) : Host.Outcome State Fault Refusal :=
  nextD s (fun d => issue d g [] (fun d => retire (killWhere d (fun c => tag != 0 && c.tag == tag))))

/-- SKIL.ip (R94). -/
def execSkilIp (g : Guard) (port : BitVec 4) (s : State) : Host.Outcome State Fault Refusal :=
  nextD s (fun d => issue d g [] (fun d => retire (killWhere d (fun c => c.ip == some port))))

/-- A command is queued on its op port or holds it: its last word has not left the port, or it is STOPPED (R88, R94, R271). -/
def opHeld (c : Cmd) : Bool :=
  c.st != .active || (match c.kind with
    | .swr => decide (c.words + takenWords c < cmdTotal c)
    | .ssct _ => decide (c.idxNext < cmdTotal c)
    | .srec => decide (readSoFar c < cmdTotal c)
    | _ => true)

/-- SKIL.op (R94). -/
def execSkilOp (g : Guard) (port : BitVec 4) (s : State) : Host.Outcome State Fault Refusal :=
  nextD s (fun d => issue d g [] (fun d => retire (killWhere d (fun c => c.op == some port && opHeld c))))

end Sys2Proof.Machine
end

