-- ==== Sys2Proof/Machine/FieldRun.lean ====
section
/-!
DEFINITION. Address generators of the memory cells (R98-R102), words crossing switch boxes and their converters
(R110-R113), and a floe's configuration: deltas, CFGL, CFGW, CFGG, CFGQ and the switch (R128-R135, R340, R341).
-/

namespace Sys2Proof.Machine

/-! ## Address generators (R98-R102) -/

/-- Generator g of memory cell m. -/
def genAt (fl : Floe) (m g : Nat) : Gen := fl.field.gens.getD (4 * m + g) Gen.reset

/-- That generator changed: an access of it is an event of R278. -/
def modGen (d : Data) (f m g : Nat) (h : Gen → Gen) : Data :=
  modFloe d f (fun fl => { fl with
    field := { fl.field with gens := fl.field.gens.set (4 * m + g) (h (genAt fl m g)) },
    active := fl.active || (h (genAt fl m g)).accesses != (genAt fl m g).accesses })

/-- Machine address of word w of memory cell m of floe f (R56). -/
def cellLoc (f m w : Nat) : Nat := locFloe f (m * 2 ^ 19 + 16 * (w % 32768))

/-- A word is read from a memory cell: its data and poison, with its bank used (R98). -/
def cellRead (d : Data) (f m w : Nat) : Data × Nat × Bool :=
  let loc := cellLoc f m w
  (modFloe d f (fun fl => bankUse fl loc), memRead d loc 16, poisoned d loc 16)

/-- Words read that are due enter their queue. -/
def genDeliver (d : Data) (f m g : Nat) : Data :=
  let fl := getFloe d f
  let due := (genAt fl m g).reads.filter (fun e => decide (e.1 ≤ fl.cyc))
  match due, genQueue m g (agDest (agc fl.cfg.cur m g)) true with
  | _ :: _, some q =>
    let ready := match q with
      | .agOut _ => fl.cyc
      | _ => fl.cyc + 1
    due.foldl (fun d e => qPush d f q e.2 ready)
      (modGen d f m g (fun x => { x with reads := x.reads.filter (fun e => decide (fl.cyc < e.1)) }))
  | _, _ => d

/-- BLVL closes buffers: a plain store has none to close (R99, R100). -/
def cellSyncs (w : Nat) : Bool := mccBlvl w != 0

/-- Generators of the region of generator g that go the other way (R100). -/
def genPeers (t : Table) (m g : Nat) : List Nat :=
  let c := agc t m g
  ((gensOf t m).filter (fun x => agWrite x.2.1 != agWrite c && agBase x.2.1 == agBase c && agLen x.2.1 == agLen c)).map (fun x => x.1)

/-- In a tile store the generator may use its buffer now (R100). -/
def genMay (fl : Floe) (m g : Nat) : Bool :=
  let t := fl.cfg.cur
  let w := mcc t m
  let x := genAt fl m g
  ! cellSyncs w ||
    (genPeers t m g).all (fun o => if agWrite (agc t m g) then decide (x.buf < (genAt fl m o).buf + mccBufs w)
                                   else decide (x.buf < (genAt fl m o).closed))

/-- First word of the buffer in use (R102). -/
def genBase (t : Table) (m g : Nat) (x : Gen) : Nat :=
  let w := mcc t m
  agBase (agc t m g) + x.buf % mccBufs w * (agLen (agc t m g) / mccBufs w)

/-- END of the affine point at loop counters c0 and c1 (R80, R102). -/
def genLevel (l c0 c1 : Nat) : Nat := if c0 + 1 = agCnt l 0 then (if c1 + 1 = agCnt l 1 then 2 else 1) else 0

/-- The generator after an affine point. -/
def genStep (l : Nat) (x : Gen) : Gen :=
  let last0 := x.c0 + 1 = agCnt l 0
  { x with c0 := if last0 then 0 else x.c0 + 1,
           c1 := if last0 then (if x.c1 + 1 = agCnt l 1 then 0 else x.c1 + 1) else x.c1,
           recNo := if last0 then x.recNo + 1 else x.recNo }

/-- Word offset of an affine point. -/
def genOff (c l : Nat) (x : Gen) : Nat := (agOffset c l x.c0 x.c1).toNat

/-- A buffer closes with a word of END at least BLVL (R100), a bare end token too (R102). Of a token that an indexed read puts on
in place of a word R100 does not say whether it moves the reader's buffer: a bare end token does, as it does at a writer, and
an error token does not, as it takes no point at a writer (DESIGN CHOICE, log entry 142). -/
def closes (w : Nat) (x : FWord) : Bool := cellSyncs w && decide (mccBlvl w ≤ wEnd x) && ! isErr x

/-- A read's word is on its way: it reaches its queue two cycles later; one access a cycle. -/
def genSend (x : Gen) (now : Nat) (w : FWord) : Gen := { x with reads := x.reads ++ [(now + 2, w)], lastCycle := some now }

/-- RANGE token of a generator (R102, R107). A write's keeps END of the index word, as a read's does (DESIGN CHOICE, log entry 30). -/
def rangeTok (m : Nat) (x : Gen) (off : Int) (i : FWord) (gen : Bool) : FWord :=
  errTok 3 0 0 (128 + 16 * m) (x.accesses % 2 ^ 32) (intBits 32 off) i.ridx.toNat (wEnd i) gen

/-- The offset an index word gives (R102). -/
def indexOff (i : FWord) : Int := sextN 32 (fld i.data.toNat 0 32)

/-- The offset lies in the buffer. -/
def offOk (t : Table) (m g : Nat) (off : Int) : Bool :=
  decide (0 ≤ off) && decide (off < ((agLen (agc t m g) / mccBufs (mcc t m) : Nat) : Int))

/-- The read of a tile store generator by an affine pattern (R102, R133). -/
def genReadAffine (d : Data) (f m g : Nat) : Data :=
  let fl := getFloe d f
  let t := fl.cfg.cur
  let x := genAt fl m g
  let l := agl t m g
  if fl.cfg.state = .draining ∧ x.c0 = 0 then d
  else
    let r := cellRead d f m (genBase t m g x + genOff (agc t m g) l x)
    let w := dataWord r.2.1 x.recNo (genLevel l x.c0 x.c1) fl.cfg.gen r.2.2 0
    modGen r.1 f m g (fun x => { genSend (genStep l x) fl.cyc w with
      accesses := x.accesses + 1, buf := if closes (mcc t m) w then x.buf + 1 else x.buf })

/-- The read of a tile store generator by index words (R102). -/
def genReadIndexed (d : Data) (f m g : Nat) : Data :=
  let fl := getFloe d f
  let t := fl.cfg.cur
  let x := genAt fl m g
  match genQueue m g (agIsrc (agc t m g)) false with
  | none => d
  | some iq =>
    match qHead d f iq with
    | none => d
    | some i =>
      let r : Data × FWord × Nat :=
        if isErr i || isBare i then (d, { i with gen := fl.cfg.gen }, 0)
        else if offOk t m g (indexOff i) then
          let r := cellRead d f m (genBase t m g x + (indexOff i).toNat)
          (r.1, dataWord r.2.1 i.ridx.toNat (wEnd i) fl.cfg.gen (r.2.2 || i.psn) 0, 1)
        else (d, rangeTok m x (indexOff i) i fl.cfg.gen, 0)
      modGen (qPop r.1 f iq) f m g (fun x => { genSend x fl.cyc r.2.1 with
        accesses := x.accesses + r.2.2, buf := if closes (mcc t m) r.2.1 then x.buf + 1 else x.buf })

/-- The read of a FIFO (R100, R102): tokens are delivered from their sidebands. -/
def genReadFifo (d : Data) (f m g : Nat) : Data :=
  let fl := getFloe d f
  let c := agc fl.cfg.cur m g
  match fl.field.fifo.getD m [] with
  | [] => d
  | e :: es =>
    if e.ready ≤ fl.cyc then
      let x := genAt fl m g
      let word := entWord e
      let r : Data × FWord :=
        if isErr word || isBare word then (d, { word with gen := fl.cfg.gen })
        else
          let r := cellRead d f m (agBase c + x.moved % agLen c)
          (r.1, dataWord r.2.1 word.ridx.toNat (wEnd word) fl.cfg.gen (word.psn || r.2.2) word.mask)
      let d := if 2 ≤ e.par then parityRec r.1 f else r.1
      let d := modFloe d f (fun fl => { fl with field := { fl.field with fifo := fl.field.fifo.set m es } })
      modGen d f m g (fun x => { genSend x fl.cyc r.2 with moved := x.moved + 1, accesses := x.accesses + 1 })
    else d

/-- The other generator of a line buffer. -/
def lineMate (fl : Floe) (m g : Nat) : Gen :=
  genAt fl m ((((gensOf fl.cfg.cur m).filter (fun x => x.1 != g)).map (fun x => x.1)).headD g)

/-- The read of a line buffer (R100): window v covers lines v to v + LH - 1, delivered column by column; loop counter c0 is
the line of the column and c1 the column. -/
def genReadLine (d : Data) (f m g : Nat) : Data :=
  let fl := getFloe d f
  let w := mcc fl.cfg.cur m
  let x := genAt fl m g
  if (lineMate fl m g).closed < (x.closed + mccLines w) * mccLine w then d
  else
    let r := cellRead d f m (agBase (agc fl.cfg.cur m g) + (x.closed + x.c0) % mccLines w * mccLine w + x.c1)
    let lastLine := x.c0 + 1 = mccLines w
    let lastCol := x.c1 + 1 = mccLine w
    let word := dataWord r.2.1 x.recNo (if lastLine then 1 else 0) fl.cfg.gen r.2.2 0
    modGen r.1 f m g (fun x => { genSend x fl.cyc word with
      accesses := x.accesses + 1,
      c0 := if lastLine then 0 else x.c0 + 1,
      c1 := if lastLine then (if lastCol then 0 else x.c1 + 1) else x.c1,
      recNo := if lastLine then x.recNo + 1 else x.recNo,
      closed := if lastLine ∧ lastCol then x.closed + 1 else x.closed })

/-- A read generator's access, when its queue has room. -/
def genRead (d : Data) (f m g : Nat) : Data :=
  let fl := getFloe d f
  let t := fl.cfg.cur
  match genQueue m g (agDest (agc t m g)) true with
  | none => d
  | some q =>
    if qRoom d f q 1 then
      (match mccMode (mcc t m) with
        | 1 => genReadFifo d f m g
        | 2 => genReadLine d f m g
        | _ => if genMay fl m g then (if agIdx (agc t m g) then genReadIndexed d f m g else genReadAffine d f m g) else d)
    else d

/-- A write's word is taken: it performs in the next cycle at a word of the cell, or writes nothing. -/
def genTake (x : Gen) (now : Nat) (at' : Option Nat) (w : FWord) : Gen :=
  { x with writes := x.writes ++ [(now + 1, at', w)], lastCycle := some now }

/-- Entry n of a queue leaves it. -/
def qDropAt (d : Data) (f : Nat) (q : QId) (n : Nat) : Data :=
  if n = 0 then qPop d f q
  else
    let d := if ((qGet (getFloe d f).field q)[n]?).any (fun e => decide (2 ≤ e.par)) then parityRec d f else d
    modFloe d f (fun fl => { fl with field := qSet fl.field q (dropIdx (qGet fl.field q) n) })

/-- Entry n of a queue, when it can leave now. -/
def qAt (d : Data) (f : Nat) (q : QId) (n : Nat) : Option FWord :=
  match (qGet (getFloe d f).field q)[n]? with
  | some e => if e.ready ≤ (getFloe d f).cyc then some (entWord e) else none
  | none => none

/-- An error token a generator takes goes to ESINK, when the path has room (R108). -/
def genToken (d : Data) (f m g : Nat) (q : QId) (n : Nat) (w : FWord) (h : Gen → Gen) : Data :=
  if isErr w then (if sinkRoom d f 1 then modGen (sinkPush (qDropAt d f q n) f w) f m g h else d)
  else modGen (qDropAt d f q n) f m g h

/-- A token taken as data by a tile store: a bare end token closes the buffer of its level and writes nothing (R100, R102). -/
def genDataToken (d : Data) (f m g : Nat) (q : QId) (n : Nat) (w : FWord) : Data :=
  let fl := getFloe d f
  genToken d f m g q n w (fun x =>
    if closes (mcc fl.cfg.cur m) w then { genTake x fl.cyc none w with buf := x.buf + 1 } else { x with lastCycle := some fl.cyc })

/-- The write of a tile store generator by an affine pattern. -/
def genWriteAffine (d : Data) (f m g : Nat) (q : QId) : Data :=
  let fl := getFloe d f
  let t := fl.cfg.cur
  match qHead d f q with
  | none => d
  | some w =>
    if isErr w || isBare w then genDataToken d f m g q 0 w
    else modGen (qPop d f q) f m g (fun x =>
      { genTake (genStep (agl t m g) x) fl.cyc (some (genBase t m g x + genOff (agc t m g) (agl t m g) x)) w with
        accesses := x.accesses + 1, buf := if closes (mcc t m) w then x.buf + 1 else x.buf })

/-- The write of a tile store generator by index words: an index pairs with one data word; a token taken as an index makes
no access and takes no data word, and a token taken as data takes no index. -/
def genWriteIndexed (d : Data) (f m g : Nat) (q : QId) : Data :=
  let fl := getFloe d f
  let t := fl.cfg.cur
  let x := genAt fl m g
  match genQueue m g (agIsrc (agc t m g)) false with
  | none => d
  | some iq =>
    let n := if iq = q then 1 else 0
    match qHead d f iq, qAt d f q n with
    | some i, dw =>
      if isErr i || isBare i then genToken d f m g iq 0 i (fun x => { x with lastCycle := some fl.cyc })
      else match dw with
        | none => d
        | some w =>
          if isErr w || isBare w then genDataToken d f m g q n w
          else
            let off := indexOff i
            let done : Data → Data := fun d => qPop (qPop d f q) f iq
            let next : Option Nat → Gen → Gen := fun a x =>
              { genTake x fl.cyc a { w with psn := w.psn || i.psn } with
                accesses := x.accesses + bnat a.isSome, buf := if closes (mcc t m) w then x.buf + 1 else x.buf }
            if offOk t m g off then modGen (done d) f m g (next (some (genBase t m g x + off.toNat)))
            else if sinkRoom d f 1 then
              modGen (sinkPush (done d) f (rangeTok m x off i fl.cfg.gen)) f m g (next none)
            else d
    | none, some w => if n = 0 ∧ (isErr w || isBare w) = true then genDataToken d f m g q 0 w else d
    | none, none => d

/-- The write of a FIFO: every word takes an entry with its sideband. -/
def genWriteFifo (d : Data) (f m g : Nat) (q : QId) : Data :=
  let fl := getFloe d f
  let c := agc fl.cfg.cur m g
  match qHead d f q with
  | none => d
  | some w =>
    if (fl.field.fifo.getD m []).length < agLen c then
      let d := modFloe (qPop d f q) f (fun fl => { fl with field := { fl.field with
        fifo := fl.field.fifo.set m (fl.field.fifo.getD m [] ++ [{ word := w, ready := fl.cyc + 2, par := 0, mc := false }]) } })
      modGen d f m g (fun x =>
        { genTake x fl.cyc (if isErr w || isBare w then none else some (agBase c + x.moved % agLen c)) w with
          moved := x.moved + 1, accesses := x.accesses + 1 })
    else d

/-- The write of a line buffer: line n waits until window n - LH has been delivered. -/
def genWriteLine (d : Data) (f m g : Nat) (q : QId) : Data :=
  let fl := getFloe d f
  let w := mcc fl.cfg.cur m
  let x := genAt fl m g
  match qHead d f q with
  | none => d
  | some word =>
    if isErr word || isBare word then genToken d f m g q 0 word (fun x => { x with lastCycle := some fl.cyc })
    else
      let line := x.moved / mccLine w
      if line < (lineMate fl m g).closed + mccLines w then
        modGen (qPop d f q) f m g (fun x =>
          { genTake x fl.cyc (some (agBase (agc fl.cfg.cur m g) + line % mccLines w * mccLine w + x.moved % mccLine w)) word with
            moved := x.moved + 1, accesses := x.accesses + 1 })
      else d

/-- A write generator takes its words. -/
def genWrite (d : Data) (f m g : Nat) : Data :=
  let fl := getFloe d f
  let t := fl.cfg.cur
  match genQueue m g (agDest (agc t m g)) false with
  | none => d
  | some q =>
    (match mccMode (mcc t m) with
      | 1 => genWriteFifo d f m g q
      | 2 => genWriteLine d f m g q
      | _ => if genMay fl m g then (if agIdx (agc t m g) then genWriteIndexed d f m g q else genWriteAffine d f m g q) else d)

/-- The access of generator g of memory cell m in the advance cycle in progress: at most one a cycle (R102). -/
def genAccess (d : Data) (f m g : Nat) : Data :=
  let fl := getFloe d f
  let c := agc fl.cfg.cur m g
  if ! agV c || fl.frozen || fl.halted then d
  else
    let d := genDeliver d f m g
    if (genAt (getFloe d f) m g).lastCycle = some fl.cyc then d
    else if agWrite c then genWrite d f m g else genRead d f m g

/-- GENERATOR_ACCESS (R102). -/
def execGeneratorAccess (f m g : Nat) (s : State) : Host.Outcome State Fault Refusal := nextD s (fun d => genAccess d f m g)

/-- The quarters of a word that a generator writes, as pieces at a machine address with their values. -/
def quarterElems (loc : Nat) (w : FWord) : List (List Piece × Nat) :=
  (List.range 4).filterMap (fun q =>
    if w.mask.getLsbD q then none
    else some ([{ loc := loc + 4 * q, off := 0, n := 32, sh := 0 }], fld w.data.toNat (32 * q) 32))

/-- A write that is due performs as the cycle ends: first in the order of R98. -/
def genPerformOne (f m g : Nat) (d : Data) (e : Nat × Option Nat × FWord) : Data :=
  let w := mcc (getFloe d f).cfg.cur m
  let shut : Gen → Gen := fun x =>
    if mccMode w = 2 then (if e.2.1.isSome then { x with closed := x.closed + 1 } else x)
    else if mccMode w = 0 ∧ closes w e.2.2 = true then { x with closed := x.closed + 1 } else x
  let d := modGen d f m g shut
  match e.2.1 with
  | none => d
  | some a =>
    let loc := cellLoc f m a
    modFloe d f (fun fl => bankUse { fl with
      writes := { src := 0, key := 4 * m + g, elems := quarterElems loc e.2.2, psn := e.2.2.psn, mode := 0, fmt := 0,
                  part := false } :: fl.writes } loc)

/-- The writes of generator g of cell m that are due become writes of the cycle. -/
def genPerform (d : Data) (f m g : Nat) : Data :=
  let fl := getFloe d f
  let x := genAt fl m g
  let due := x.writes.filter (fun e => decide (e.1 ≤ fl.cyc))
  if due.isEmpty then d
  else due.foldl (genPerformOne f m g) (modGen d f m g (fun x => { x with writes := x.writes.filter (fun e => decide (fl.cyc < e.1)) }))

/-! ## Switch boxes and converters (R110-R113) -/

/-- Words that come out of a converter for one of format src. -/
def convOuts (src dst : Nat) : Nat := max 1 (fieldElems src / max 1 (fieldElems dst))

/-- The words a converter makes of a word: from channel type entry a to entry b, wc words since the last END (R113, R165). -/
def convWords (a b wc : Nat) (w : FWord) : List FWord :=
  if isErr w || isBare w then [w]
  else
    let src := fld a 28 4
    let dst := fld b 28 4
    let m := convOuts src dst
    let n := fieldElems src / m
    (List.range m).map (fun e =>
      dataWord (packElems dst ((List.range n).map (fun j =>
          let i := e * n + j
          if elemMasked src w.mask i then 0
          else convElem src (cttScl a - cttScl b) (cttRnd b w.ridx.toNat (16 * wc + i)) (quadElem src w.data i))))
        w.ridx.toNat (if e + 1 = m then wEnd w else 0) w.gen w.psn (cvtMask src dst (e * n) n w.mask))

/-- The type, and its entry, of the words arriving at input code p of box b of floe f (R113): at an edge of the field, what the
upstream switch word of the neighbouring floe says in that floe's active configuration (log entry 143). -/
def arrEntry (d : Data) (f b p : Nat) : Option (Nat × Nat) :=
  let t := (getFloe d f).cfg.cur
  if p < 4 ∧ boxStep b p = none then
    match meshStep f b p with
    | none => none
    | some (f', b') =>
      let t' := (getFloe d f').cfg.cur
      (boxFind t' b' (fun w => swOut w == opposite p)).map (fun w => (swType w, ctt t' (swType w)))
  else (arrType t b p).map (fun a => (a, ctt t a))

/-- The converter of a switch word at box b: the entries it converts between, none when there is none. Where a route crosses into a
floe whose switch word has another TYPE, an SMCS route too, the words are converted at the edge, which no loader check sees; codebook
words, or words that would become such, go on unchanged (R113, R169; DESIGN CHOICE, log entry 169). -/
def convTypes (d : Data) (f b w : Nat) : Option (Nat × Nat) :=
  let c := ctt (getFloe d f).cfg.cur (swType w)
  match arrEntry d f b (swIn w) with
  | none => none
  | some (a, e) => if (a = swType w ∧ e = c) ∨ fld e 28 4 = 7 ∨ fld c 28 4 = 7 then none else some (e, c)

/-- Words a switch word needs room for when it passes one word: all that its converter makes of it, or as many as the slot
holds; the others stand in the converter, which sends one a cycle, and leave no room behind them until they have gone
(R113). -/
def hopNeed (d : Data) (f b w : Nat) (x : FWord) : Nat :=
  let cap := (hopOut f b (swOut w)).elim 1 (fun o => qCap o.2)
  match convTypes d f b w with
  | none => 1
  | some (a, c) => if isErr x || isBare x then 1 else min cap (convOuts (fld a 28 4) (fld c 28 4))

/-- The converter of a switch word can take a word: it sends one word a cycle, so its last one has left before the next one's first
(R113, log entry 43). -/
def convFree (d : Data) (f b w : Nat) : Bool :=
  match convTypes d f b w, hopOut f b (swOut w) with
  | some _, some (f', q) => ((qGet (getFloe d f').field q).getLast?).all (fun e => decide (e.ready ≤ hopReady d f' q))
  | _, _ => true

/-- A word passes by one switch word, through its converter when it has one. -/
def hopOne (f b : Nat) (mc : Bool) (x : FWord) (d : Data) (w : Nat) : Data :=
  let fl := getFloe d f
  match convTypes d f b w with
  | none => hopPush d f b w 0 mc x
  | some (a, c) =>
    let i := 8 * b + swOut w
    let ws := convWords a c (fl.field.conv.getD i 0) x
    let d := (List.range ws.length).foldl (fun d e => hopPush d f b w (1 + e) mc (ws.getD e x)) d
    modFloe d f (fun fl => { fl with field := { fl.field with
      conv := fl.field.conv.set i (if 1 ≤ wEnd x then 0 else fl.field.conv.getD i 0 + 1) } })

/-- The switch words that replicate what arrives at input code p of box b. -/
def hopWords (t : Table) (b p : Nat) : List Nat :=
  if isRepl b p then [] else ((boxWords t b).map (fun e => e.2)).filter (fun w => swIn w == p)

/-- A word at input code p of box b of floe f crosses the box, when every output has room (R111). -/
def switchHop (d : Data) (f b p : Nat) : Data :=
  let fl := getFloe d f
  let ws := hopWords fl.cfg.cur b p
  if fl.frozen || fl.halted || ws.isEmpty then d
  else match hopIn b p with
    | none => d
    | some q =>
      match qHead d f q with
      | none => d
      | some x =>
        let mc := ((qGet fl.field q).head?).any (fun e => e.mc)
        if ws.all (fun w => hopsRoom d f b [w] (hopNeed d f b w x) && convFree d f b w) then ws.foldl (hopOne f b mc x) (qPop d f q) else d

/-- SWITCH_BOX_HOP (R111): p is an input code of the box. -/
def execSwitchBoxHop (f b p : Nat) (s : State) : Host.Outcome State Fault Refusal := nextD s (fun d => switchHop d f b p)

/-! ## Configuration fields and deltas (R128, R129) -/

/-- Width of a field: none when the identifier is malformed (R128). -/
def fidWidth (fid : Nat) : Option Nat :=
  let u := fid / 256 % 16
  let i := fid % 256
  match fid / 4096 with
  | 0 =>
    if u ≠ 0 then none
    else if i = 0 then some 32
    else if i = 1 then some 5
    else if 0x10 ≤ i ∧ i < 0x20 then some 32
    else if 0x20 ≤ i ∧ i < 0x24 then some 64
    else none
  | 1 =>
    if 8 ≤ u then none
    else if i < 0x20 then some 32
    else if i < 0x40 then some 16
    else if i < 0x48 then some 128
    else if i < 0x50 then some 32
    else if i < 0x58 then some 16
    else none
  | 2 => if u < 8 ∧ i < 9 then some 64 else none
  | 3 => if i < 8 then some 16 else none
  | _ => none

/-- A masked write of a field is malformed: its identifier, HI on a field that is not CTAB, or a bit beyond the field. -/
def fidWriteBad (fid hi mask : Nat) : Bool :=
  match fidWidth fid with
  | none => true
  | some w => (hi == 1 && w != 128) || decide (2 ^ min 64 w ≤ mask)

/-- A masked write of a field. -/
def cfgPut (t : Table) (fid hi mask value : Nat) : Table :=
  let v := cfgGet t fid
  let half := fld v (64 * hi) 64
  let new := (half &&& (2 ^ 64 - 1 - mask)) ||| (value &&& mask)
  spSet 0 t fid (v - half * 2 ^ (64 * hi) + new * 2 ^ (64 * hi))

/-- A delta's header (R129): none when malformed, else entries, BASEID and NEWID. -/
def deltaHead (w : List Word) : Option (Nat × Word × Word) :=
  let h := w.getD 0 0
  let n := wb h 16 16
  if wb h 32 32 = 0 ∧ wb h 8 8 = 0 ∧ wb h 0 8 = 1 ∧ 1 ≤ n ∧ n ≤ 4096 ∧ w.getD 2 0 ≠ 0 ∧ (w.drop 3).all (fun x => x == 0) = true then
    some (n, w.getD 1 0, w.getD 2 0)
  else none

/-- A delta entry applied: none when malformed. -/
def deltaEntry (t : Table) (w : List Word) : Option Table :=
  let h := w.getD 0 0
  let fid := wb h 0 16
  let hi := wb h 16 1
  let mask := (w.getD 1 0).toNat
  if wb h 17 47 ≠ 0 ∨ w.getD 3 0 ≠ 0 ∨ fidWriteBad fid hi mask = true then none
  else some (cfgPut t fid hi mask (w.getD 2 0).toNat)

/-- The outcome of applying a delta. -/
inductive DeltaEnd where
  /-- an access fault at entry n -/
  | stop (n : Nat) (fc : Nat × Nat)
  /-- CFGCHK cause and failing entry -/
  | fail (cause entry : Nat)
  | done
  deriving DecidableEq, Repr

/-- Apply the entries from number i on, n of them. -/
def deltaEntries (d : Data) (q : Req) (p : Place) (a : Nat) (t : Table) (i : Nat) : Nat → Data × Table × DeltaEnd
  | 0 => (d, t, .done)
  | n + 1 =>
    match readWordsAt d q p (a + 64 + 32 * i) 4 with
    | (d, .error fc) => (d, t, .stop i fc)
    | (d, .ok w) =>
      match deltaEntry t w with
      | none => (d, t, .fail 3 i)
      | some t => deltaEntries d q p a t (i + 1) n

/-! ## CFGL, CFGW, CFGG and CFGQ (R130-R132, R340, R341) -/

/-- The issuing TP's floe with its configuration state changed. -/
def modCfg (d : Data) (f : Nat) (h : CfgSt → CfgSt) : Data := modFloe d f (fun fl => { fl with cfg := h fl.cfg })

/-- CFGCHK raised by an instruction: the TP traps; the cause is kept for CFGQ. -/
def cfgTrap (d : Data) (cause : Nat) : Data := trap (noteCause d 0x0A cause) 0x0A cause

/-- A floe takes new configuration only when every record of its own has been written (R26): until then the instruction waits
at issue. -/
def cfgMay (d : Data) (k : Data → Data) : Data := if recHeldFor d d.curF then blockCur d (.stall .record) else k d

/-- The pending configuration is busy. -/
def cfgBusy (c : CfgSt) : Bool := c.state == .loading || c.state == .draining

/-- An instruction that names tag g stalls while an incomplete command of the TP names it (R91). -/
def tagFree (d : Data) (g : BitVec 6) (k : Data → Data) : Data :=
  if g != 0 && (curTp d).busy.contains g then blockCur d (.stall (.tag g)) else k d

/-- CFGL (R132, R340). -/
def cfglIssue (d : Data) (v : Word) (tag : BitVec 6) : Data :=
  let sp := wb v 52 4
  if ! (sp == 1 || sp == 3 || sp == 4 || sp == 5) then trap d 3 1
  else if sp = 1 ∧ l2Ok d (wb v 0 52) 64 = false then trap d 3 2
  else if wb v 56 8 ≠ 0 ∨ wb v 0 6 ≠ 0 then cfgTrap d 3
  else if cfgBusy (getFloe d d.curF).cfg then cfgTrap d 1
  else
    let o := (curTp d).owner
    retire (modCur (modCfg d d.curF (fun c => { c with state := .loading, pend := [], pendId := 0, checked := false, owner := o,
                                                       tag := tag, delta := v, count := 0, next := 0, stopped := false,
                                                       after := pendAccesses (curTp d) }))
      (fun t => beginCmd t tag false))

/-- CFGL (R130). -/
def execCfgl (g : Guard) (a : BitVec 5) (tag : BitVec 6) (s : State) : Host.Outcome State Fault Refusal :=
  nextD s (fun d => issue d g [a] (fun d => tagFree d tag (fun d => whenFree d true false false (fun d => cfgMay d (fun d => cfglIssue d (rs d a) tag)))))

/-- A failed load: the state becomes FAILED, a REPORT is written and the tag is set; the TP does not trap. -/
def cfglFail (d : Data) (f k cause entry : Nat) : Data :=
  let c := (getFloe d f).cfg
  emitTpRec (modCfg d f (fun c => { c with state := .failed, pend := [], pendId := 0, checked := false,
                                           lastCause := BitVec.ofNat 8 cause, failEntry := BitVec.ofNat 16 entry })) f k
    { recZero with cls := 0x0A, cause := cause, kind := 6, tag := c.tag.toNat }

/-- The slot of a floe that holds a TP. -/
def slotOfOwner (d : Data) (f : Nat) (o : Owner) : Nat :=
  ((List.range 8).find? (fun k => (getSlot d f k).st != .empty && (getSlot d f k).tp.owner == o)).getD 0

/-- A command of a TP on floe f ends: its tag is set. -/
def tagDone (d : Data) (f : Nat) (o : Owner) (tag : BitVec 6) : Data :=
  modTp d f (slotOfOwner d f o) (fun t => if t.owner = o then { setTag t tag with busy := t.busy.erase tag } else t)

/-- CFGL's load reads the delta on from where it stands, and ends or stops (R132). A load that fails by its header or by BASEID has no
failing entry: CFGQ gives 0xFFFF, as for a check of the whole configuration (DESIGN CHOICE, log entry 171). All entries are read at one
moment (log entry 183). -/
def cfglRun (d : Data) (f : Nat) : Data :=
  let c := (getFloe d f).cfg
  let p := placeOf c.delta
  let k := slotOfOwner d f c.owner
  let stop : Data → Nat → Nat × Nat → Data := fun d n fc =>
    emitTpRec (modCfg d f (fun c => { c with stopped := true, next := n })) f k
      { recZero with kind := 1, cls := fc.1, cause := fc.2, tag := c.tag.toNat, addr := p.2 + (if c.count = 0 then 0 else 64 + 32 * n),
                     d0 := w64 n }
  let fail : Data → Nat → Nat → Data := fun d cause e => tagDone (cfglFail d f k cause e) f c.owner c.tag
  match (if c.count = 0 then
      (match readWordsAt d (reqFloe f) p.1 p.2 8 with
        | (d, .error fc) => (d, Sum.inr (Sum.inl fc))
        | (d, .ok w) => match deltaHead w with
          | none => (d, Sum.inr (Sum.inr 3))
          | some (n, b, id) => if b = c.curId then (d, Sum.inl (n, id, c.cur)) else (d, Sum.inr (Sum.inr 2)))
    else (d, Sum.inl (c.count, c.pendId, c.pend)) : Data × (Nat × Word × Table ⊕ (Nat × Nat) ⊕ Nat)) with
  | (d, .inr (.inl fc)) => stop d 0 fc
  | (d, .inr (.inr cause)) => fail d cause 0xFFFF
  | (d, .inl (n, id, t)) =>
    match deltaEntries d (reqFloe f) p.1 p.2 t c.next (n - c.next) with
    | (d, t, .stop i fc) =>
      let d := modCfg d f (fun c => { c with count := n, pendId := id, pend := t, stopped := true, next := i })
      emitTpRec d f k { recZero with kind := 1, cls := fc.1, cause := fc.2, tag := c.tag.toNat, addr := p.2 + 64 + 32 * i, d0 := w64 i }
    | (d, _, .fail cause e) => fail d cause e
    | (d, t, .done) =>
      match cfgCheck t f with
      | some cause => fail d cause 0xFFFF
      | none => tagDone (modCfg d f (fun c => { c with state := .ready, pend := t, pendId := id, checked := true })) f c.owner c.tag

/-- The load goes on unless it is stopped (R132): its reads are ordered after the TP's accesses before it (R179), and the floe
takes configuration only with no record of its own unwritten (R26) and while its core has not halted (R274). -/
def cfglLoadEnd (d : Data) (f : Nat) : Data :=
  let c := (getFloe d f).cfg
  if c.state = .loading ∧ c.stopped = false ∧ (getFloe d f).halted = false ∧ recHeldFor d f = false ∧
      (getTp d f (slotOfOwner d f c.owner)).pends.any (fun p => c.after.contains p.id) = false then cfglRun d f
  else d

/-- CFGL_LOAD_END (R132). -/
def execCfglLoadEnd (f : Nat) (s : State) : Host.Outcome State Fault Refusal := nextD s (fun d => cfglLoadEnd d f)

/-- CFGW (R132, R340). -/
def cfgwIssue (d : Data) (name value mask : Word) : Data :=
  let c := (getFloe d d.curF).cfg
  let fid := wb name 0 16
  let hi := wb name 16 1
  if cfgBusy c then cfgTrap d 1
  else if wb name 17 47 ≠ 0 ∨ fidWriteBad fid hi mask.toNat = true then cfgTrap d 3
  else if c.state = .failed then cfgTrap d 7
  else retire (modCfg d d.curF (fun c =>
    { c with state := .ready, checked := false, pendId := c.curId + 1,
             pend := cfgPut (if c.state = .ready then c.pend else c.cur) fid hi mask.toNat value.toNat }))

/-- CFGW (R130): s[f] names the field, s[a] the value and s[b] the mask. -/
def execCfgw (g : Guard) (fr a b : BitVec 5) (s : State) : Host.Outcome State Fault Refusal :=
  nextD s (fun d => issue d g [fr, a, b] (fun d => cfgMay d (fun d => cfgwIssue d (rs d fr) (rs d a) (rs d b))))

/-- The commit begins (R133 step 1). -/
def cfggCommit (d : Data) (tag : BitVec 6) : Data :=
  let o := (curTp d).owner
  modCur (modFloe d d.curF (fun fl => { fl with
    cfg := { fl.cfg with state := .draining, checked := true, igen := ! fl.cfg.gen, owner := o, tag := tag,
                         mark := fl.issueNo } })) (fun t => beginCmd t tag false)

/-- CFGG (R131, R132): an unchecked configuration is checked first, and the issue completes when the check ends. -/
def cfggIssue (d : Data) (i : Instr) (tag : BitVec 6) : Data :=
  let c := (getFloe d d.curF).cfg
  if cfgBusy c then cfgTrap d 1
  else if c.state ≠ .ready then cfgTrap d 7
  else if c.checked then retire (cfggCommit d tag)
  else match cfgCheck c.pend d.curF with
    | some cause =>
      cfgTrap (modCfg d d.curF (fun c => { c with state := .failed, pend := [], pendId := 0, failEntry := 0xFFFF })) cause
    | none => blockCur (cfggCommit d tag) (.issue i)

/-- CFGG (R130). -/
def execCfgg (g : Guard) (tag : BitVec 6) (s : State) : Host.Outcome State Fault Refusal :=
  nextD s (fun d => issue d g [] (fun d => tagFree d tag (fun d => cfgMay d (fun d => cfggIssue d (.cfgg g tag) tag))))

/-- Code of a state (R132). -/
def cfgStateCode : CfgState → Nat
  | .idle => 0
  | .loading => 1
  | .ready => 2
  | .failed => 3
  | .draining => 4

/-- L and II of a block of a configuration (R104). -/
def blockFigures (t : Table) (k : Nat) : Nat :=
  let p := planOf t k
  atBit p.latency 0 16 + atBit (p.interval t) 16 16

/-- The value CFGQ gives for a selector (R132). -/
def cfgqValue (c : CfgSt) (sel : Nat) : Word :=
  if sel = 0 then
    w64 (cfgStateCode c.state + atBit (bnat c.gen) 3 1 + atBit (bnat c.igen) 4 1 + atBit c.lastCause.toNat 8 8
      + atBit c.failEntry.toNat 16 16)
  else if sel = 1 then w64 c.errors
  else if sel = 2 then c.curId
  else if sel = 3 then c.pendId
  else if sel < 16 then w64 (blockFigures c.cur (sel - 8))
  else if c.checked && (c.state == .ready || c.state == .draining) then w64 (blockFigures c.pend (sel - 16))
  else 0

/-- CFGQ (R130): the decoder has refused every other selector. -/
def execCfgq (g : Guard) (d : BitVec 5) (sel : BitVec 8) (s : State) : Host.Outcome State Fault Refusal :=
  nextD s (fun dd => issueWrite dd g [] d (fun dd => cfgqValue (getFloe dd dd.curF).cfg sel.toNat))

/-! ## The switch (R133-R135) -/

/-- Some entry of a list of queues has a generation. -/
def holdsGen (g : Bool) (l : List (List QEnt)) : Bool := l.any (fun q => q.any (fun e => e.word.gen == g))

/-- No queue, channel slot or firing of the field holds a word of the active generation. -/
def fieldDrained (fl : Floe) : Bool :=
  let g := fl.cfg.gen
  let x := fl.field
  ! holdsGen g x.ipq && ! holdsGen g x.opq && ! holdsGen g x.rq && ! holdsGen g x.wq && ! holdsGen g x.links &&
    ! holdsGen g x.agIn && ! holdsGen g x.agOut && x.groups.all (fun y => y.commits.all (fun c => c.outs.isEmpty)) &&
    x.gens.all (fun y => y.reads.isEmpty && y.writes.isEmpty)

/-- Commands that name a port and were issued before the CFGG are done, and so are the holds that count as commands (R133,
R143, R246, R400), an MMOV's accepted after the CFGG among them (log entry 184). -/
def portsDone (d : Data) (f : Nat) : Bool :=
  let fl := getFloe d f
  ! fl.nodes.any (fun n => n.moves.any (fun m => m.holdsPort)) &&
  ! (liveCmds fl).any (fun c => decide (c.no < fl.cfg.mark) && (c.ip.isSome || c.op.isSome)) &&
    ! (fl.feed.isSome && decide (fl.feedNo < fl.cfg.mark)) &&
    ! (List.range 32).any (fun p => solverHolds d f p)

/-- A block's fields differ between two configurations, or a reorder pair of the block does (R134). -/
def blockChanged (a b : Table) (k : Nat) : Bool :=
  (List.range 0x58).any (fun i => cfgGet a (fidBlock k i) != cfgGet b (fidBlock k i)) ||
  (List.range 4).any (fun p => rpt a p != rpt b p &&
    [rpt a p, rpt b p].any (fun w => rptV w && ((rptC w).1 == k || (rptO w).1 == k)))

/-- A memory cell's fields differ. -/
def cellChanged (a b : Table) (m : Nat) : Bool := (List.range 9).any (fun i => cfgGet a (fidCell m i) != cfgGet b (fidCell m i))

/-- What a configuration says of converter n, output n mod 8 of box n / 8: its switch word, the type of the words that arrive
there and the entries of both types; none where no switch word names the output. -/
def convFields (t : Table) (n : Nat) : Option (Nat × Option (Nat × Nat) × Nat) :=
  (boxFind t (n / 8) (fun w => swOut w == n % 8)).map (fun w =>
    (w, (arrType t (n / 8) (swIn w)).map (fun x => (x, ctt t x)), ctt t (swType w)))

/-- The fields of a converter differ: its own switch word, or an entry it uses (R134). -/
def convChanged (a b : Table) (n : Nat) : Bool := convFields a n != convFields b n

/-- Changed units start from their load state; the data in memory cells stays (R134). -/
def fieldSwitch (x : Field) (a b : Table) : Field :=
  { x with
    groups := x.groups.mapIdx (fun k g => if blockChanged a b k then Group.reset else g),
    gens := x.gens.mapIdx (fun n g => if cellChanged a b (n / 4) then Gen.reset else g),
    fifo := x.fifo.mapIdx (fun m l => if cellChanged a b m then [] else l),
    conv := x.conv.mapIdx (fun n c => if convChanged a b n then 0 else c) }

/-- The pending configuration becomes active (R133 step 6). -/
def switchCfg (fl : Floe) : Floe :=
  let c := fl.cfg
  { fl with
    field := fieldSwitch fl.field c.cur c.pend,
    cfg := { c with cur := c.pend, curId := c.pendId, pend := [], pendId := 0, state := .idle, checked := false, gen := ! c.gen,
                    errors := 0 } }

/-- The switch happens in an advance cycle, when the drain is over and no record of the floe is unwritten (R26, R133). -/
def configSwitch (d : Data) (f : Nat) : Data :=
  let fl := getFloe d f
  if fl.cfg.state = .draining ∧ fl.halted = false ∧ fl.frozen = false ∧ recHeldFor d f = false ∧ portsDone d f = true ∧
      fieldDrained fl = true then
    tagDone (modFloe d f switchCfg) f fl.cfg.owner fl.cfg.tag
  else d

/-- CONFIG_SWITCH (R133). -/
def execConfigSwitch (f : Nat) (s : State) : Host.Outcome State Fault Refusal := nextD s (fun d => configSwitch d f)

end Sys2Proof.Machine
end

