-- ==== Sys2Proof/Machine/Matrix.lean ====
section
/-!
DEFINITION. Matrix nodes and accumulator nodes: MXT and the token feed, acceptance, operand reads, MatSum, moves, releases
and tables (R136-R150, R283, R395-R404).
-/

namespace Sys2Proof.Machine

/-! ## Token and operand word (R137-R140) -/

/-- MOP. -/
def mtMop (t : Word) : Nat := wb t 60 4
/-- M. -/
def mtM (t : Word) : Nat := wb t 53 7 + 1
/-- N. -/
def mtN (t : Word) : Nat := wb t 46 7 + 1
/-- K. -/
def mtK (t : Word) : Nat := wb t 32 14
/-- ACC. -/
def mtAcc (t : Word) : Bool := t.getLsbD 31
/-- CA. -/
def mtCa (t : Word) : Nat := wb t 28 3
/-- CB. -/
def mtCb (t : Word) : Nat := wb t 25 3
/-- Port of MMOV. -/
def mtPort (t : Word) : Nat := wb t 25 4
/-- AN. -/
def mtAn (t : Word) : Nat := wb t 21 4
/-- EXP. -/
def mtExp (t : Word) : Nat := wb t 9 12
/-- FA. -/
def mtFa (t : Word) : Nat := wb t 5 4
/-- FB. -/
def mtFb (t : Word) : Nat := wb t 1 4
/-- RV of an operand word. -/
def mwRv (w : Word) : Bool := w.getLsbD 63
/-- RPORT. -/
def mwRport (w : Word) : Nat := wb w 59 4
/-- SB. -/
def mwSb (w : Word) : Bool := w.getLsbD 55
/-- SA. -/
def mwSa (w : Word) : Bool := w.getLsbD 54
/-- BSO. -/
def mwBso (w : Word) : Nat := wb w 42 12
/-- ASO. -/
def mwAso (w : Word) : Nat := wb w 30 12
/-- BOFF. -/
def mwBoff (w : Word) : Nat := wb w 15 15
/-- AOFF. -/
def mwAoff (w : Word) : Nat := wb w 0 15

/-- Operand class of a format code and its K-steps per advance cycle (R137): 0 floating, 1 integer. -/
def mxFmt (f : Nat) : Option (Nat × Nat) :=
  match f with
  | 1 => some (0, 1)
  | 2 => some (0, 1)
  | 3 => some (0, 2)
  | 4 => some (0, 2)
  | 5 => some (0, 4)
  | 6 => some (0, 4)
  | 7 => some (0, 4)
  | 8 => some (1, 2)
  | 9 => some (1, 2)
  | _ => none

/-- K-steps of a format. -/
def mxRate (f : Nat) : Nat := ((mxFmt f).map (fun x => x.2)).getD 1

/-- k of a token. -/
def mtRate (t : Word) : Nat := min (mxRate (mtFa t)) (mxRate (mtFb t))

/-- T, the step cycles of a token. -/
def mtSteps (t : Word) : Nat := ceilDiv (mtK t) (mtRate t)

/-- FP8 and FP6 formats, which take scales. -/
def mxScaled (f : Nat) : Bool := decide (3 ≤ f) && decide (f ≤ 6)

/-- Integer class. -/
def mtInt (t : Word) : Bool := (mxFmt (mtFa t)).any (fun x => x.1 == 1)

/-- A reserved or unused field is non-zero, or a rule of R139, R140 or R146 0x03 is broken. -/
def mxFieldBad (cfg : Table) (t w : Word) : Bool :=
  t.getLsbD 0 || wb w 56 3 != 0 ||
  (match mtMop t with
    | 2 => wb t 29 2 != 0 || mtK t != 0 || mtExp t != 0 || mtFa t != 0 || mtFb t != 0 || w != 0 || ! exposed cfg (mtPort t)
    | 3 => wb t 25 35 != 0 || wb t 0 21 != 0 || w != 0
    | 4 => wb t 31 29 != 0 || wb t 0 21 != 0 || wb w 30 34 != 0
    | _ => mtK t == 0 || (mwSa w && ! mxScaled (mtFa t)) || (mwSb w && ! mxScaled (mtFb t)))

/-- The checks of a token (R146), in their order: none, or class and cause. -/
def mxCheck (cfg : Table) (t w : Word) : Option (Nat × Nat) :=
  if 5 ≤ mtMop t then some (9, 1)
  else if mxFieldBad cfg t w then some (9, 3)
  else if mtMop t < 2 then
    (match mxFmt (mtFa t), mxFmt (mtFb t) with
      | some a, some b => if a.1 ≠ b.1 then some (9, 2) else if mtCa t = mtCb t then some (8, 0) else none
      | _, _ => some (9, 2))
  else none

/-! ## Nodes -/

/-- Matrix node q. -/
def nodeAt (fl : Floe) (q : Nat) : MNode := fl.nodes.getD q MNode.reset
/-- Accumulator node n. -/
def accAt (fl : Floe) (n : Nat) : Accum := fl.accums.getD n Accum.reset

/-- Matrix node q changed. -/
def modNode (d : Data) (f q : Nat) (h : MNode → MNode) : Data :=
  modFloe d f (fun fl => { fl with nodes := fl.nodes.set q (h (nodeAt fl q)) })

/-- Accumulator node n changed. -/
def modAcc (d : Data) (f n : Nat) (h : Accum → Accum) : Data :=
  modFloe d f (fun fl => { fl with accums := fl.accums.set n (h (accAt fl n)) })

/-- A cleared node (R147, R283): the counts at acceptance stay. -/
def accClear (a : Accum) : Accum := { a with c := [], cnt := 0, tgt := 0, poison := false }

/-- The node that executes a token (R136). -/
def tokNode (t : Word) : Nat := wb t 23 2

/-- A token of a TP has performed or is discarded (R44). -/
def tokenDone (d : Data) (f : Nat) (o : Option Owner) : Data :=
  match o with
  | none => d
  | some o => modTp d f (slotOfOwner d f o) (fun t => if t.owner = o then { t with tokens := t.tokens - 1 } else t)

/-- A refused token is recorded (R146, R395, R456). -/
def mxReject (d : Data) (f : Nat) (o : Option Owner) (fc : Nat × Nat) (t w : Word) : Data :=
  let r : Rec := { recZero with cls := fc.1, cause := fc.2, kind := 4, utype := 2, entry := mtAn t, d0 := t, d1 := w }
  match o with
  | none => emitRec d (dieOf f) (getFloe d f).advc { r with unit := f, mid := f }
  | some o => emitTpRec d f (slotOfOwner d f o) r

/-- Matrix node q holds a record of a check at acceptance or of an MTAB that the mailbox has not accepted: it accepts no token
(R23; log entry 179). -/
def nodeHeld (d : Data) (f q : Nat) : Bool :=
  d.ios.any (fun io => io.heldRecs.any (fun ws =>
    let h := ws.getD 0 0
    wb h 19 5 == 2 && wb h 24 8 == f && wb h 51 2 == q && wb h 0 8 == 9 && (wb h 8 8 == 4 || wb h 8 8 == 6)))

/-- The token feed holds a record of a token it refused: it takes no word (R23; log entry 179). -/
def feedHeld (d : Data) (f : Nat) : Bool :=
  d.ios.any (fun io => io.heldRecs.any (fun ws =>
    let h := ws.getD 0 0
    wb h 19 5 == 2 && wb h 24 8 == f && ! (wb h 0 8 == 9 && (wb h 8 8 == 4 || wb h 8 8 == 6))))

/-! ## MXT and the feed (R142, R143, R403) -/

/-- A token joins its node's queue; an MXT token goes before feed tokens of its cycle (R143). -/
def mxAppend (d : Data) (f : Nat) (t w : Word) (o : Option Owner) : Data :=
  let now := (getFloe d f).cyc
  modNode (markActive d f) f (tokNode t) (fun n =>
    let late := if o.isSome then n.queue.reverse.takeWhile (fun x => x.owner.isNone && x.arrived == now) else []
    { n with queue := n.queue.take (n.queue.length - late.length) ++ [{ tok := t, mow := w, owner := o, arrived := now }] ++ late.reverse })

/-- MXT mode 0 (R142, R403). -/
def mxtIssue (d : Data) (t w : Word) : Data :=
  let fl := getFloe d d.curF
  match mxCheck (issueCfg fl.cfg) t w with
  | some (cls, cause) => trap d cls cause
  | none =>
    if (nodeAt fl (tokNode t)).queue.length < tokenQueueSize then
      retire (mxAppend (modCur d (fun tp => { tp with tokens := tp.tokens + 1 })) d.curF t w (some (curTp d).owner))
    else blockCur d (.stall (.tokenQueue (tokNode t)))

/-- MXT (R142). -/
def execMxt (g : Guard) (a b : BitVec 5) (s : State) : Host.Outcome State Fault Refusal :=
  nextD s (fun d => issue d g [a, b] (fun d => mxtIssue d (rs d a) (rs d b)))

/-- MXT mode 1 (R142, R403): the binding is ordered after the commands issued before it. -/
def feedBind (d : Data) (port : BitVec 4) : Data :=
  let fl := getFloe d d.curF
  if fl.feed.isSome then trapIllegal d 5
  else if ! exposed (issueCfg fl.cfg) (16 + port.toNat) then trap (noteCause d 0x0A 8) 0x0A 8
  else retire (modFloe d d.curF (fun fl => { fl with feed := some port, feedNo := fl.issueNo }))

/-- MXT.p (R142). -/
def execMxtP (g : Guard) (port : BitVec 4) (s : State) : Host.Outcome State Fault Refusal :=
  nextD s (fun d => issue d g [] (fun d => feedBind d port))

/-- MXT.u (R142, R403). -/
def execMxtU (g : Guard) (s : State) : Host.Outcome State Fault Refusal :=
  nextD s (fun d => issue d g [] (fun d => retire (modFloe d d.curF (fun fl => { fl with feed := none }))))

/-- A command on the feed's port issued before the binding is not done, or a running solver holds the port as a command does (R143,
R240). -/
def feedBehind (d : Data) (f : Nat) (p : BitVec 4) : Bool :=
  (liveCmds (getFloe d f)).any (fun c => decide (c.no < (getFloe d f).feedNo) && c.op == some p) ||
    solverHolds d f (16 + p.toNat)

/-- The feed takes the head w of its port (R143). -/
def feedWord (d : Data) (f : Nat) (q : QId) (w : FWord) : Data :=
  let t := w64 (fld w.data.toNat 0 64)
  let o := w64 (fld w.data.toNat 64 64)
  if isBare w then qPop d f q
  else if isErr w then (if sinkRoom d f 1 then sinkPush (qPop d f q) f w else d)
  else if w.psn || w.mask != 0 then mxReject (qPop d f q) f none (9, 5) t o
  else match mxCheck (getFloe d f).cfg.cur t o with
    | some fc => mxReject (qPop d f q) f none fc t o
    | none => if (nodeAt (getFloe d f) (tokNode t)).queue.length < tokenQueueSize then mxAppend (qPop d f q) f t o none else d

/-- The feed takes one word of its port. -/
def feedStep (d : Data) (f : Nat) : Data :=
  let fl := getFloe d f
  match fl.feed with
  | none => d
  | some p =>
    if feedBehind d f p || fl.frozen || fl.halted || feedHeld d f then d
    else match qHead d f (.op p.toNat) with
      | none => d
      | some w => feedWord d f (.op p.toNat) (opWord fl.cfg.cur p.toNat w)

/-- MATRIX_TOKEN_FEED (R143). -/
def execMatrixTokenFeed (f : Nat) (s : State) : Host.Outcome State Fault Refusal := nextD s (fun d => feedStep d f)

/-! ## Acceptance (R144, R146, R147, R395) -/

/-- The head of node q's queue that may be accepted by its time and its node. -/
def headReady (d : Data) (f q : Nat) : Option MTok :=
  let fl := getFloe d f
  match (nodeAt fl q).queue with
  | [] => none
  | t :: _ => if t.arrived < fl.cyc ∧ (nodeAt fl q).freeAt ≤ fl.cyc ∧ nodeHeld d f q = false then some t else none

/-- The cells an MTAB of the node that was accepted in the cycle has read (R401). -/
def tabCells (fl : Floe) (q : Nat) : List Nat :=
  match (nodeAt fl q).mtab with
  | some (due, t, _, _) => if due = fl.cyc + 8 then [mtCa t.tok, mtCb t.tok] else []
  | none => []

/-- Memory cells read in the cycle by tokens of nodes other than q: by multiply tokens in their step cycles, and by an MTAB
accepted in the cycle at a lower-numbered node, which wins a tie (R144). -/
def cellsRead (fl : Floe) (q : Nat) : List Nat :=
  ((List.range 4).filter (fun i => i != q)).flatMap (fun i => (nodeAt fl i).flight.flatMap (fun x =>
    if x.accepted ≤ fl.cyc ∧ fl.cyc < x.accepted + mtSteps x.t.tok then [mtCa x.t.tok, mtCb x.t.tok] else [])) ++
  (List.range q).flatMap (tabCells fl)

/-- An EXP token is discarded at acceptance (R146). -/
def expBad (fl : Floe) (t : MTok) : Bool :=
  let a := accAt fl (mtAn t.tok)
  mtExp t.tok != 0 && (! mwRv t.mow || (a.ptgt != 0 && mtExp t.tok != a.ptgt))

/-- The multiply tokens accepted in the cycle, lower-numbered nodes first: node and cells taken so far, an MTAB's among them. -/
def mulStep (d : Data) (f : Nat) (acc : List Nat × List Nat) (q : Nat) : List Nat × List Nat :=
  let fl := getFloe d f
  match headReady d f q with
  | none => acc
  | some t =>
    let cs := [mtCa t.tok, mtCb t.tok]
    if mtMop t.tok < 2 ∧ cs.all (fun c => ! (acc.2 ++ cellsRead fl q).contains c) = true then
      (acc.1 ++ [q], if expBad fl t then acc.2 else acc.2 ++ cs)
    else if mtMop t.tok = 4 then (acc.1, acc.2 ++ cs)
    else acc

/-- Nodes whose multiply token is accepted in the cycle (R144). -/
def mulAccepted (d : Data) (f : Nat) : List Nat := ([0, 1, 2, 3].foldl (mulStep d f) ([], [])).1

/-- The head of node q is accepted and leaves its queue; the node accepts no other token in the cycle. -/
def dropHead (d : Data) (f q : Nat) : Data :=
  modNode (markActive d f) f q (fun n => { n with queue := n.queue.drop 1, freeAt := (getFloe d f).cyc + 1 })

/-- An accumulator node's SRAM is found uncorrectable (R283). -/
def accUpset (d : Data) (f n : Nat) : Data := modAcc d f n (fun a => { a with poison := true })

/-- The accepted count of an EXP token (R147). -/
def accAccept (exp : Nat) (a : Accum) : Accum :=
  if exp = 0 then a
  else
    let p := if a.ptgt = 0 then exp else a.ptgt
    if a.acnt + 1 = p then { a with ptgt := 0, acnt := 0 } else { a with ptgt := p, acnt := a.acnt + 1 }

/-- A matrix unit of the floe may move. -/
def matrixOn (fl : Floe) : Bool := ! fl.frozen && ! fl.halted

/-- A multiply token with the given MOP at node q is accepted. -/
def mulAccept (d : Data) (f q mop : Nat) : Data :=
  let fl := getFloe d f
  match headReady d f q with
  | none => d
  | some t =>
    if matrixOn fl && mtMop t.tok == mop && (mulAccepted d f).contains q then
      if expBad fl t then tokenDone (mxReject (dropHead d f q) f t.owner (9, 4) t.tok t.mow) f t.owner
      else
        modNode (modAcc (dropHead d f q) f (mtAn t.tok) (accAccept (mtExp t.tok))) f q (fun n =>
          { n with freeAt := fl.cyc + mtSteps t.tok,
                   flight := n.flight ++ [{ t := t, accepted := fl.cyc, slabs := [], scales := [], psn := false, ta := n.ta, tb := n.tb }] })
    else d

/-- MMA (R398). -/
def execMma (f q : Nat) (s : State) : Host.Outcome State Fault Refusal := nextD s (fun d => mulAccept d f q 0)

/-- MMAT (R398). -/
def execMmat (f q : Nat) (s : State) : Host.Outcome State Fault Refusal := nextD s (fun d => mulAccept d f q 1)

/-- Every earlier token to accumulator node an has made its contribution visible (R144). -/
def accQuiet (n : MNode) (an : Nat) : Bool :=
  ! n.flight.any (fun x => mtAn x.t.tok == an) && ! n.clears.any (fun x => x.2.1 == an)

/-- Word w of row r of a move of n columns: quarters past the last column are masked (R145). -/
def moveWord (c : Table) (rows cols : Nat) (psn gen : Bool) (r w : Nat) : FWord :=
  let nw := ceilDiv cols 4
  let cell : Nat → Nat := fun q => if 4 * w + q < cols then spGet 0 c (128 * r + 4 * w + q) else 0
  dataWord (sumNat ((List.range 4).map (fun q => cell q * 2 ^ (32 * q)))) r
    (if w + 1 < nw then 0 else if r + 1 < rows then 1 else 2) gen psn
    (BitVec.ofNat 4 (sumNat ((List.range 4).map (fun q => if 4 * w + q < cols then 0 else 2 ^ q))))

/-- The words of a move of rows × cols. -/
def moveWords (a : Accum) (rows cols : Nat) (gen : Bool) : List FWord :=
  (List.range rows).flatMap (fun r => (List.range (ceilDiv cols 4)).map (moveWord a.c rows cols a.poison gen r))

/-- No command and no other holder has an ip port (R144, R400). -/
def ipFree (d : Data) (f port : Nat) : Bool :=
  let fl := getFloe d f
  ! (liveCmds fl).any (fun c => c.ip.any (fun p => p.toNat == port) && c.st != .queued) && ! moveHolds fl port && ! solverHolds d f port

/-- MMOV at node q is accepted. -/
def movAccept (d : Data) (f q : Nat) : Data :=
  let fl := getFloe d f
  let n := nodeAt fl q
  match headReady d f q with
  | none => d
  | some t =>
    let an := mtAn t.tok
    if matrixOn fl && mtMop t.tok == 2 && accQuiet n an && n.moves.isEmpty && ipFree d f (mtPort t.tok) then
      let ws := moveWords (accAt fl an) (mtM t.tok) (mtN t.tok) fl.cfg.gen
      let d := modNode (dropHead d f q) f q (fun n =>
        { n with freeAt := fl.cyc + 1,
                 moves := n.moves ++ [{ owner := t.owner, start := fl.cyc, port := BitVec.ofNat 4 (mtPort t.tok), words := ws, next := 0,
                                        holdsPort := true }] })
      if mtAcc t.tok then modAcc d f an (fun a => { accClear a with ptgt := 0, acnt := 0 }) else d
    else d

/-- MMOV (R400). -/
def execMmov (f q : Nat) (s : State) : Host.Outcome State Fault Refusal := nextD s (fun d => movAccept d f q)

/-- MCLR at node q is accepted. -/
def clrAccept (d : Data) (f q : Nat) : Data :=
  let fl := getFloe d f
  let n := nodeAt fl q
  match headReady d f q with
  | none => d
  | some t =>
    let an := mtAn t.tok
    if matrixOn fl && mtMop t.tok == 3 && accQuiet n an then
      modNode (modAcc (dropHead d f q) f an (fun a => { a with ptgt := 0, acnt := 0 })) f q (fun n =>
        { n with freeAt := fl.cyc + 1, clears := n.clears ++ [(fl.cyc + 1, an, t.owner)] })
    else d

/-- MCLR (R396). -/
def execMclr (f q : Nat) (s : State) : Host.Outcome State Fault Refusal := nextD s (fun d => clrAccept d f q)

/-- C, CNT and TGT are cleared one cycle after an MCLR was accepted. -/
def clrPerform (d : Data) (f q : Nat) : Data :=
  let fl := getFloe d f
  let due := (nodeAt fl q).clears.filter (fun x => decide (x.1 ≤ fl.cyc))
  if due.isEmpty then d
  else due.foldl (fun d x => tokenDone (modAcc d f x.2.1 accClear) f x.2.2)
    (modNode d f q (fun n => { n with clears := n.clears.filter (fun x => decide (fl.cyc < x.1)) }))

/-- A table of 16 BF16 entries at a word of a memory cell (R149). -/
def tableAt (d : Data) (f cell off : Nat) : List (BitVec 16) :=
  (List.range 16).map (fun i => BitVec.ofNat 16 (memRead d (cellLoc f cell (off + i / 8) + 2 * (i % 8)) 2))

/-- MTAB at node q is accepted: its tables are read (R401). -/
def tabAccept (d : Data) (f q : Nat) : Data :=
  let fl := getFloe d f
  match headReady d f q with
  | none => d
  | some t =>
    if matrixOn fl && mtMop t.tok == 4 then
      modNode (dropHead d f q) f q (fun n =>
        { n with freeAt := fl.cyc + 8,
                 mtab := some (fl.cyc + 8, t, tableAt d f (mtCa t.tok) (mwAoff t.mow), tableAt d f (mtCb t.tok) (mwBoff t.mow)) })
    else d

/-- MTAB (R401). -/
def execMtab (f q : Nat) (s : State) : Host.Outcome State Fault Refusal := nextD s (fun d => tabAccept d f q)

/-- A product is finite and no FP32 value. -/
def prodInexact (a b : BitVec 16) : Bool :=
  match fpMul (fpDecode 1 a.toNat) (fpDecode 1 b.toNat) with
  | .fin s m e => fpCmp (.fin s m e) (fpDecode 0 (fpEncode (rne 0) (.fin s m e))) != some 0
  | _ => false

/-- MTAB ends eight cycles after its acceptance (R149, R401). -/
def tabComplete (d : Data) (f q : Nat) : Data :=
  let fl := getFloe d f
  match (nodeAt fl q).mtab with
  | none => d
  | some (due, t, ta, tb) =>
    if matrixOn fl && decide (due ≤ fl.cyc) then
      let bad := ta.any (fun a => tb.any (prodInexact a))
      let d := modNode d f q (fun n => if bad then { n with mtab := none } else { n with mtab := none, ta := ta, tb := tb })
      tokenDone (if bad then mxReject d f t.owner (9, 6) t.tok t.mow else d) f t.owner
    else d

/-- MTAB_COMPLETE (R401). -/
def execMtabComplete (f q : Nat) (s : State) : Host.Outcome State Fault Refusal := nextD s (fun d => tabComplete d f q)

/-! ## Operand reads (R141, R145) -/

/-- n consecutive words of a memory cell as one number, with their poison. -/
def cellWords (d : Data) (f cell off : Nat) : Nat → Nat × Bool
  | 0 => (0, false)
  | n + 1 =>
    let r := cellWords d f cell (off + 1) n
    let loc := cellLoc f cell off
    (memRead d loc 16 + r.1 * 2 ^ 128, r.2 || poisoned d loc 16)

/-- Slab k of an operand of format fmt at word off of a cell: its first n elements (R141). -/
def slabAt (d : Data) (f cell off fmt kk k n : Nat) : List Nat × Bool :=
  if fmt = 5 ∨ fmt = 6 then
    let hi := cellWords d f cell (off + 4 * k) 4
    let lo := cellWords d f cell (off + 4 * kk + 2 * k) 2
    ((List.range n).map (fun m => fld hi.1 (4 * m) 4 * 4 + fld lo.1 (2 * m) 2), hi.2 || lo.2)
  else
    let w := fmtBits fmt
    let x := cellWords d f cell (off + k * w) w
    ((List.range n).map (fun m => fld x.1 (w * m) w), x.2)

/-- The scale slab of chunk c (R141). -/
def scaleAt (d : Data) (f cell off c n : Nat) : List Nat × Bool :=
  let x := cellWords d f cell (8 * off + 8 * c) 8
  ((List.range n).map (fun m => fld x.1 (8 * m) 8), x.2)

/-- Slab k of both operands is read, with the scales of its chunk when it begins one. -/
def readSlab (d : Data) (f : Nat) (x : MFlight) (k : Nat) : MFlight :=
  let t := x.t.tok
  let w := x.t.mow
  let a := slabAt d f (mtCa t) (mwAoff w) (mtFa t) (mtK t) k (mtM t)
  let b := slabAt d f (mtCb t) (mwBoff w) (mtFb t) (mtK t) k (mtN t)
  let x := { x with slabs := x.slabs ++ [(a.1, b.1)], psn := x.psn || a.2 || b.2 }
  if k % 32 = 0 ∧ (mwSa w || mwSb w) = true then
    let sa := if mwSa w then scaleAt d f (mtCa t) (mwAso w) (k / 32) (mtM t) else ([], false)
    let sb := if mwSb w then scaleAt d f (mtCb t) (mwBso w) (k / 32) (mtN t) else ([], false)
    { x with scales := x.scales ++ [(sa.1, sb.1)], psn := x.psn || sa.2 || sb.2 }
  else x

/-- The slabs of the step that falls in cycle now are read (R145). -/
def readStep (d : Data) (f now : Nat) (x : MFlight) : MFlight :=
  let r := mtRate x.t.tok
  let s := now - x.accepted
  if x.accepted ≤ now ∧ x.slabs.length = s * r then
    ((List.range (min r (mtK x.t.tok - s * r))).map (fun i => s * r + i)).foldl (readSlab d f) x
  else x

/-- Every matrix node reads the slabs of the cycle. -/
def matrixReads (d : Data) (f : Nat) : Data :=
  modFloe d f (fun fl => { fl with nodes := fl.nodes.map (fun n => { n with flight := n.flight.map (readStep d f fl.cyc) }) })

/-! ## Sums and contributions (R147, R149, R150) -/

/-- The value of an operand element: codebook elements through their table. -/
def mxValue (fmt : Nat) (tab : List (BitVec 16)) (x : Nat) : Fp :=
  if fmt = 7 then fpDecode 1 (tab.getD x 0).toNat else fpDecode fmt x

/-- The exact sum of terms. -/
def exactSum : List Fp → Fp
  | [] => .fin false 0 0
  | x :: xs => xs.foldl (fpAdd 0) x

/-- A value rounded to FP32. -/
def roundFp32 (x : Fp) : Fp := fpDecode 0 (fpEncode (rne 0) x)

/-- Chunk c of a sum added to acc. -/
def chunkStep (terms : List Fp) (scale : Nat → Fp → Fp) (acc : Fp) (c : Nat) : Fp :=
  roundFp32 (fpAdd 0 acc (roundFp32 (scale c (exactSum ((terms.drop (32 * c)).take 32)))))

/-- The scale of chunk c for element (m, n). -/
def mxScale (x : MFlight) (m n c : Nat) (s : Fp) : Fp :=
  let e := x.scales.getD c ([], [])
  let s := if mwSa x.t.mow then fpMul s (e8m0Decode (e.1.getD m 0)) else s
  if mwSb x.t.mow then fpMul s (e8m0Decode (e.2.getD n 0)) else s

/-- MatSum (R150): the stored 32 bits of element (m, n) from the stored initial value. -/
def matSum (x : MFlight) (m n init : Nat) : Nat :=
  let t := x.t.tok
  if mtInt t then
    intBits 32 (x.slabs.foldl (fun s e => s + intVal (mtFa t) (e.1.getD m 0) * intVal (mtFb t) (e.2.getD n 0)) (init : Int))
  else
    let terms := x.slabs.map (fun e => fpMul (mxValue (mtFa t) x.ta (e.1.getD m 0)) (mxValue (mtFb t) x.tb (e.2.getD n 0)))
    fpEncode (rne 0) ((List.range (ceilDiv (mtK t) 32)).foldl (chunkStep terms (mxScale x m n)) (fpDecode 0 init))

/-- C after a contribution. -/
def contribute (x : MFlight) (c : Table) : Table :=
  let t := x.t.tok
  (List.range (mtM t)).foldl (fun c m => (List.range (mtN t)).foldl (fun c n =>
    let key := if mtMop t = 0 then 128 * m + n else 128 * n + m
    spSet 0 c key (matSum x m n (if mtAcc t then spGet 0 c key else 0))) c) c

/-- The node's counts after a contribution, and whether it releases (R147). -/
def accCount (exp : Nat) (a : Accum) : Accum × Bool :=
  if exp = 0 then (a, false)
  else
    let tgt := if a.cnt = 0 then exp else a.tgt
    ({ a with tgt := tgt, cnt := a.cnt + 1 }, a.cnt + 1 == tgt)

/-- V of a token in flight. -/
def landsAt (x : MFlight) : Nat := x.accepted + mtSteps x.t.tok + 12

/-- A token's contribution becomes visible, with the release it completes (R147, R399). -/
def landOne (f q : Nat) (d : Data) (x : MFlight) : Data :=
  let t := x.t.tok
  let a := accAt (getFloe d f) (mtAn t)
  let r := accCount (mtExp t) { a with c := contribute x a.c, poison := a.poison || x.psn }
  let d := tokenDone (modAcc d f (mtAn t) (fun _ => if r.2 then accClear r.1 else r.1)) f x.t.owner
  if r.2 then
    modNode d f q (fun n => { n with
      moves := n.moves ++ [{ owner := none, start := landsAt x, port := BitVec.ofNat 4 (mwRport x.t.mow),
                             words := moveWords r.1 (mtM t) (mtN t) (getFloe d f).cfg.gen, next := 0, holdsPort := false }] })
  else d

/-- The contributions of node q that are due. -/
def matrixLand (d : Data) (f q : Nat) : Data :=
  let fl := getFloe d f
  if matrixOn fl then
    let due := (nodeAt fl q).flight.filter (fun x => decide (landsAt x ≤ fl.cyc))
    if due.isEmpty then d
    else due.foldl (landOne f q)
      (modNode d f q (fun n => { n with flight := n.flight.filter (fun x => decide (fl.cyc < landsAt x)) }))
  else d

/-- MATRIX_CONTRIBUTION (R147). -/
def execMatrixContribution (f q : Nat) (s : State) : Host.Outcome State Fault Refusal := nextD s (fun d => matrixLand d f q)

/-! ## Moves at their ports (R145) -/

/-- The next word of a move is due in the cycle. -/
def moveDue (now : Nat) (m : Move) : Bool := decide (m.next < m.words.length) && decide (m.start + 20 + m.next ≤ now)

/-- Deliver the due word of move i of node q, when the port has room; a move that is over leaves. -/
def moveDeliver (f q : Nat) (d : Data) (i : Nat) : Data :=
  let fl := getFloe d f
  match (nodeAt fl q).moves[i]? with
  | none => d
  | some m =>
    if moveDue fl.cyc m && qRoom d f (.ip m.port.toNat) 1 then
      let w := { m.words.getD m.next (constWord 0) with gen := fl.cfg.gen }
      let d := if m.holdsPort then qPush d f (.ip m.port.toNat) w (fl.cyc + 1)
        else qEnterFirst d f (.ip m.port.toNat) { word := w, ready := fl.cyc + 1, par := 0, mc := false }
      modNode d f q (fun n => { n with moves := n.moves.set i { m with next := m.next + 1 } })
    else d

/-- The moves of node q deliver what is due, the last ones first: so of several releases at one port the first stands first, ahead of
what streams have put there in the cycle (R399). Those that are over leave the node. -/
def movesDeliver (d : Data) (f q : Nat) : Data :=
  let n := (nodeAt (getFloe d f) q).moves.length
  if n = 0 then d
  else
    let d := (List.range n).reverse.foldl (moveDeliver f q) d
    let gone := (nodeAt (getFloe d f) q).moves.filter (fun m => decide (m.words.length ≤ m.next))
    if gone.isEmpty then d
    else gone.foldl (fun d m => tokenDone d f m.owner)
      (modNode d f q (fun n => { n with moves := n.moves.filter (fun m => decide (m.next < m.words.length)) }))

/-- A move word is due and has not moved: the floe freezes (R145). -/
def moveHeldUp (fl : Floe) : Bool := fl.nodes.any (fun n => n.moves.any (moveDue fl.cyc))

end Sys2Proof.Machine
end

