-- ==== Sys2Proof/Machine/Regions.lean ====
section
/-!
DEFINITION. What the front end keeps of launches: software queue states, mailboxes, dead-letter rings, delivery of token
words, the end of TPs and launches, and failed regions (R25, R30-R34, R36, R44-R50, R248-R253, R257, R269, R290, R410, R455).
-/

namespace Sys2Proof.Machine

/-- A Rook core of I/O die x as a requester (R264, R291). -/
def reqRook (x : Nat) : Req := { mid := 0xD8 + 4 * x, floe := none, die := x }

/-! ## Software queues (R248-R251) -/

/-- State code of R249. -/
def swqCode : SwqState → Nat
  | .disabled => 0
  | .empty => 1
  | .pending => 2
  | .active => 3
  | .waiting => 4
  | .faulted => 5

/-- A record of software queue q (R251, R268). -/
def swqRec (d : Data) (x q kind cls cause : Nat) (d0 d1 : Word) : Data :=
  emitRec d (4 + x) (getIo d x).feCount
    { recZero with kind := kind, cls := cls, cause := cause, utype := 8, unit := 4 + x, mid := 0xD8 + 4 * x, addr := q,
                   d0 := d0, d1 := d1 }

/-- A queue holds a record of its own that the mailbox of I/O die x has not accepted: it stays in the state the record describes
(R23). -/
def queueHeld (d : Data) (x q : Nat) : Bool :=
  (getIo d x).heldRecs.any (fun ws =>
    let h := ws.getD 0 0
    wb h 19 5 == 8 && wb h 24 8 == 4 + x && wb h 16 3 != 6 && ws.getD 2 0 == w64 q)

/-- The state of a queue that takes a fault: a DISABLED one stays so until an ENABLE (R249). -/
def faultState (s : Swq) : SwqState := if s.st = .disabled then .disabled else .faulted

/-- Give up the hardware slot queue q holds (R249). -/
def dropHwSlot (d : Data) (x q : Nat) : Data :=
  modIo d x (fun io => { io with hwSlots := io.hwSlots.map (fun h => if h == some q then none else h) })

/-- The descriptor of queue q: place and address (R248). -/
def swqDesc (d : Data) (x q : Nat) : Place × Nat :=
  ((placeOf (getIo d x).qtbase).1, (placeOf (getIo d x).qtbase).2 + 64 * q)

/-- The front end writes CIDX, CAUSE and STATE of its copy to the descriptor (R248, R251). A write that fails leaves a
queue that is not DISABLED FAULTED with cause 0x01 and one QFAULT record; the copy is kept, and a queue that is FAULTED already has its record. -/
def swqPublish (d : Data) (q : Nat) : Data :=
  match getSwq d q with
  | none => d
  | some s =>
    let p := swqDesc d s.x q
    match writeWordsAt d (reqRook s.x) p.1 (p.2 + 32) [w64 s.cidx, w64 (s.cause * 256 + swqCode s.st)] with
    | (d, .ok _) => d
    | (d, .error _) =>
      if s.st = .faulted then d
      else swqRec (dropHwSlot (modSwq d q (fun s => { s with st := faultState s, cause := 1 })) s.x q) s.x q 1 0x0E 1 0 0

/-- Queue q changed, and its descriptor with it. -/
def swqSet (d : Data) (q : Nat) (h : Swq → Swq) : Data := swqPublish (modSwq d q h) q

/-- A TP of a co-resident launch is masked until all are placed (R51). -/
def coWaits (d : Data) (lid : Nat) : Bool :=
  match getRegion d lid with
  | none => false
  | some r => coResident (some r) && r.tps.any (fun s => s == .waiting)

/-- The launch whose region holds a floe waits for the placement of a TP (R51). -/
def floeWaits (d : Data) (fl : Floe) : Bool := (fl.lid.map (coWaits d)).getD false

/-- The masks of a floe's slots are set or cleared for a DELTA (R256). -/
def deltaMaskSet (d : Data) (on : Bool) (f : Nat) : Data :=
  modFloe d f (fun fl => { fl with
    deltaMask := on, slots := fl.slots.map (fun s => { s with mask := on || fl.halting || floeWaits d fl }) })

/-- LID of a packet in hand. -/
def packetLid (s : Swq) : Nat := wb ((s.packet.getD []).getD 0 0) 48 16

/-- The mask that queue q's DELTA holds on floe f clears: of its region's floe, or of that floe's saved context, unless a DELTA of
another queue holds it too (R256). -/
def deltaUnmask (d : Data) (q lid f : Nat) : Data :=
  if d.swqs.any (fun e => e.1 != q && e.2.todo.contains f && packetLid e.2 == lid) then d
  else
    let d := if (getFloe d f).lid == some lid then deltaMaskSet d false f else d
    modRegion d lid (fun r => { r with savedFloes := r.savedFloes.map (fun x =>
      if r.floes.getD x.entry 144 == f then { x with deltaMask := false } else x) })

/-- The queue gives up the packet in hand: the masks a DELTA still holds clear. -/
def dropPacket (d : Data) (q : Nat) : Data :=
  match getSwq d q with
  | none => d
  | some s =>
    modSwq (s.todo.foldl (fun d f => deltaUnmask d q (packetLid s) f) d) q (fun s => { s with packet := none, blockedAt := none, todo := [] })

/-- Queue q takes a fault (R251): FAULTED, but for a DISABLED one, its slot and the packet in hand given up, one QFAULT record with the
reason in DETAIL0. -/
def swqFault (d : Data) (q kind cause : Nat) (detail : Word) : Data :=
  match getSwq d q with
  | none => d
  | some s =>
    swqRec (dropHwSlot (swqSet (dropPacket d q) q (fun s => { s with st := faultState s, cause := cause })) s.x q)
      s.x q kind 0x0E cause detail 0

/-- The packet in hand completes (R250): CIDX rises, and the queue is EMPTY when nothing is left. -/
def swqComplete (d : Data) (q : Nat) : Data :=
  match getSwq d q with
  | none => d
  | some s =>
    let c := (s.cidx + 1) % 2 ^ 48
    let left := c != s.pidx
    let held := s.st == .active
    let st : SwqState := if s.st = .faulted ∨ s.st = .disabled then s.st else if ! left then .empty else if held then .active else .pending
    let d := swqSet d q (fun s => { s with cidx := c, st := st, packet := none, blockedAt := none, timedOut := false,
                                           todo := [], since := (getIo d s.x).feCount })
    if held && ! left then dropHwSlot d s.x q else d

/-- The packet in hand of queue q is the LAUNCH of a launch identity. -/
def launchHeld (d : Data) (q lid : Nat) : Bool :=
  match getSwq d q with
  | none => false
  | some s => s.packet.any (fun p => wb (p.getD 0 0) 0 8 == 1) && packetLid s == lid

/-- A LAUNCH packet completes (R253); a queue that has given the packet up, after a reset of its die or a fault, does nothing. -/
def launchEnds (d : Data) (q lid : Nat) : Data := if launchHeld d q lid then swqComplete d q else d

/-! ## Launch headers (R30-R34) -/

/-- The level values of a WID in a work set, none when it is outside (R32). -/
def widLevels (h : List Word) (wid : Word) : Option (List Nat) :=
  let nf := hdrNf h
  let vs := (List.range nf).map (fun i => fld wid.toNat (levelPos h i) (hdrWidth h i))
  let s := sumNat ((List.range nf).map (hdrWidth h))
  if wid.toNat / 2 ^ s = (h.getD 2 0).toNat / 2 ^ s ∧ (List.range nf).all (fun i => decide (vs.getD i 0 < hdrExt h i))
  then some vs else none

/-- Mixed-radix number of level values with the given levels, level 0 most significant (R33). -/
def mixed (h : List Word) (vs : List Nat) (levels : List Nat) : Nat :=
  levels.foldl (fun acc i => acc * hdrExt h i + vs.getD i 0) 0

/-- Linear index of level values (R33). -/
def linearIndex (h : List Word) (vs : List Nat) : Nat := mixed h vs (List.range (hdrNf h))

/-- Level values of a linear index. -/
def levelsOf (h : List Word) (n : Nat) : List Nat :=
  ((List.range (hdrNf h)).reverse.foldl (fun (acc : List Nat × Nat) i =>
    (acc.2 % max 1 (hdrExt h i) :: acc.1, acc.2 / max 1 (hdrExt h i))) ([], n)).1

/-- The WID of level values (R32). -/
def widOf (h : List Word) (vs : List Nat) : Word :=
  w64 ((h.getD 2 0).toNat + sumNat ((List.range (hdrNf h)).map (fun i => vs.getD i 0 * 2 ^ levelPos h i)))

/-- Floe key of level values (R33). -/
def floeKey (h : List Word) (vs : List Nat) : Nat :=
  mixed h vs ((List.range (hdrNf h)).filter (fun i => (h.getD 5 0).getLsbD (8 + i)))

/-- Home floe of TP n of a launch (R33). -/
def homeFloe (r : Region) (n : Nat) : Nat :=
  r.floes.getD (floeKey r.hdr (levelsOf r.hdr n) % max 1 r.floes.length) 0

/-- Program entry of level values (R34): PE0 when RLEV is 7. -/
def programEntry (h : List Word) (vs : List Nat) : Word :=
  let rlev := wb (h.getD 5 0) 0 3
  let j := if rlev = 7 then 0 else wb (h.getD 6 0) (4 * (vs.getD rlev 0 % 16)) 4
  h.getD (7 + j % 4) 0

/-- PRIO of a program entry. -/
def peePrio (e : Word) : Nat := wb e 53 5
/-- ROLE. -/
def peeRole (e : Word) : Role :=
  match wb e 51 2 with
  | 0 => .loader
  | 1 => .arithmetic
  | _ => .epilogue
/-- CODE: the byte address. -/
def peeCode (e : Word) : Nat := wb e 0 50 * 4

/-- MBXE. -/
def regMbxe (r : Region) : Nat := wb (hdrW r 11) 56 8
/-- MBOX. -/
def regMbox (r : Region) : Nat := wb (hdrW r 11) 12 40 * 4096
/-- DLRE. -/
def regDlre (r : Region) : Nat := wb (hdrW r 12) 56 8
/-- DLR. -/
def regDlr (r : Region) : Nat := wb (hdrW r 12) 12 40 * 4096
/-- CTX. -/
def regCtx (r : Region) : Nat := wb (hdrW r 13) 12 40 * 4096

/-- A launch is live: its region is neither DONE nor FAILED (R253). -/
def regionLive (r : Region) : Bool := r.st != .done && r.st != .failed

/-- Some launch is live. -/
def anyLive (d : Data) : Bool := d.regions.any regionLive

/-! ## Failed regions (R25) -/

/-- A floe is released: nothing placed, queued or in flight on it; its counts, cells and TLB stay (R25, R253). -/
def clearFloe (fl : Floe) : Floe :=
  { Floe.reset with seqc := fl.seqc, advc := fl.advc, cyc := fl.cyc, utlb := fl.utlb, accums := fl.accums }

/-- Counted writes of a TP of a failed region that never perform: not the commands of engines, which go on. -/
def abandoned (d : Data) (t : Tp) : List Nat :=
  let goOn := engineWrites d t.owner
  t.undone.filter (fun n => ! goOn.contains n)

/-- Every counted write of the floe's TPs that has not performed never will (R208), but for commands of engines. -/
def abandonWrites (d : Data) (f : Nat) : Data :=
  (List.range 8).foldl (fun d k =>
    match abandoned d (getTp d f k) with
    | [] => d
    | n :: ns => if (getSlot d f k).st == .empty then d else loseWrite d f k (ns.foldl min n) 2) d

/-- The same for the TPs of a saved region. -/
def abandonSaved (d : Data) (r : Region) : Data :=
  (r.savedFloes.flatMap (fun fl => fl.slots)).foldl (fun d s =>
    match abandoned d s.tp with
    | [] => d
    | n :: ns => { d with dies := d.dies.map (fun c => { c with queues := c.queues.map (poisonCovering s.tp.owner (ns.foldl min n) 2) }) }) d

/-- The floes of a region are free (R253, R257). -/
def releaseFloes (d : Data) (lid : Nat) : Data :=
  { d with floes := d.floes.map (fun fl => if fl.lid == some lid then clearFloe fl else fl) }

/-- LAY commands that touch FLOE space of a failed region end with it. -/
def dropLays (d : Data) (lid : Nat) : Data :=
  let gone : LayCmd → Bool := fun c => c.owner.lid == lid && (wb (c.src.getD 0 0) 0 4 == 0 || wb (c.dst.getD 0 0) 0 4 == 0)
  { d with dies := d.dies.map (fun x => { x with
      firnQ := x.firnQ.filter (fun c => ! gone c),
      firn := x.firn.map (fun e => match e with
        | some c => if gone c then none else some c
        | none => none) }) }

/-- The record of discarded dead letters of a launch, and cause 0x08 in its queue's descriptor (R50). A fault that the launch's
completion then takes writes its own cause over it (DESIGN CHOICE, log entry 147). -/
def discardReport (d : Data) (r : Region) : Data :=
  if r.discards = 0 then d
  else
    let d := emitRec d (4 + r.x) (getIo d r.x).feCount
      { recZero with kind := 6, cls := 0x0E, cause := 8, utype := 8, unit := 4 + r.x, mid := 0xD8 + 4 * r.x,
                     addr := regDlr r, d0 := w64 (min r.discards (2 ^ 64 - 1)), d1 := w64 r.lid }
    swqSet d r.queue (fun s => { s with cause := 8 })

/-- A region becomes FAILED (R25): its LAUNCH completes, with the report of its discards (R50), cause 0x07 and one QFAULT record,
and writes no signal (R253). Log entry 18 on what stays of it. -/
def failRegion (d : Data) (lid : Nat) : Data :=
  match getRegion d lid with
  | none => d
  | some r =>
    if ! regionLive r then d
    else
      let d := r.floes.foldl (fun d f => if (getFloe d f).lid == some lid then abandonWrites d f else d) (dropLays d lid)
      let d := releaseFloes (abandonSaved d r) lid
      let d := modRegion d lid (fun r => { r with st := .failed, parkedTps := [], savedFloes := [], savedCells := [] })
      let d := discardReport d r
      match getSwq d r.queue with
      | none => d
      | some _ =>
        swqFault (if launchHeld d r.queue lid then modSwq d r.queue (fun s => { s with cidx := (s.cidx + 1) % 2 ^ 48 }) else d)
          r.queue 2 7 0

/-- A device access to an area of the launch failed (R277, R455): one END record of the fault's class, and the region is
FAILED. A region that is FAILED already gets no further record (log entry 131). -/
def areaFault (d : Data) (r : Region) (fc : Nat × Nat) (addr : Nat) : Data :=
  if ((getRegion d r.lid).map (fun x => x.st != .failed)).getD false then
    failRegion (emitRec d (4 + r.x) (getIo d r.x).feCount
      { recZero with kind := 2, cls := fc.1, cause := fc.2, utype := 8, unit := 4 + r.x, mid := 0xD8 + 4 * r.x, addr := addr })
      r.lid
  else d

/-! ## Dead letters (R50) -/

/-- A word goes to the dead-letter ring of a launch with a reason, or is discarded and counted. -/
def deadLetter (d : Data) (lid : Nat) (m : TokMsg) (reason : Nat) : Data :=
  match getRegion d lid with
  | none => d
  | some r =>
    let lost := fun d => modRegion d lid (fun r => { r with discards := r.discards + 1 })
    match readAt d (reqRook r.x) vaPlace (regDlr r + 8) 8 with
    | (d, .error fc) => areaFault (lost d) r fc (regDlr r + 8)
    | (d, .ok cons) =>
      if 2 ^ regDlre r ≤ r.dlProd - cons then lost d
      else
        let a := regDlr r + 64 + 32 * (r.dlProd % 2 ^ regDlre r)
        match writeWordsAt d (reqRook r.x) vaPlace a [m.word, m.dst, m.src, w64 (reason + m.c.toNat * 256)] with
        | (d, .error fc) => areaFault (lost d) r fc a
        | (d, .ok _) =>
          match writeAt d (reqRook r.x) vaPlace (regDlr r) 8 (r.dlProd + 1) false with
          | (d, .error fc) => areaFault (lost d) r fc (regDlr r)
          | (d, .ok _) => modRegion d lid (fun r => { r with dlProd := r.dlProd + 1 })

/-! ## Mailboxes (R46, R48) -/

/-- The mailbox of TP n: producer count, consumer count, words. -/
def mailOf (r : Region) (n : Nat) : Nat × Nat × List TokMsg := (assocGet r.mail n).getD (0, 0, [])

/-- Words a TP's mailbox holds for channel c. -/
def mailFor (r : Region) (n : Nat) (c : Nat) : List TokMsg := (mailOf r n).2.2.filter (fun m => m.c.toNat == c)

/-- The requester that writes a TP's mailbox: its floe when resident, else the front end (R47, R455). -/
def mailReq (r : Region) (n : Nat) : Req := if r.st = .resident then reqFloe (homeFloe r n) else reqRook r.x

/-- The mailbox indices of TP n are written to its context record (R46). -/
def mailIndices (d : Data) (q : Req) (r : Region) (n prod cons : Nat) : Data × Acc Unit :=
  writeWordsAt d q vaPlace (regCtx r + 1024 * n + 0x3F0) [w64 prod, w64 cons]

/-- A word enters the mailbox of TP n: its entry and the indices (R46, R48). One that cannot be stored is discarded and counted
(R455). -/
def mailPut (d : Data) (r : Region) (n : Nat) (m : TokMsg) : Data :=
  let b := mailOf r n
  let a := regMbox r + 16 * 2 ^ regMbxe r * n + 16 * (b.1 % 2 ^ regMbxe r)
  let q := mailReq r n
  let lost : Data → Data := fun d => modRegion d r.lid (fun r => { r with discards := r.discards + 1 })
  match writeWordsAt d q vaPlace a [m.word, w64 m.c.toNat] with
  | (d, .error fc) => areaFault (lost d) r fc a
  | (d, .ok _) =>
    match mailIndices d q r n (b.1 + 1) b.2.1 with
    | (d, .error fc) => areaFault (lost d) r fc (regCtx r + 1024 * n + 0x3F0)
    | (d, .ok _) => modRegion d r.lid (fun r => { r with mail := assocSet r.mail n (b.1 + 1, b.2.1, b.2.2 ++ [m]) })

/-- Index of a mailbox's oldest word for channel c among the words it holds. -/
def mailIdx (l : List TokMsg) (c : Nat) : Nat := l.findIdx (fun m => m.c.toNat == c)

/-- The reads of a move out of the mailbox of TP n: its indices, then the entry of word i of those it holds (R46, R48, R455). The
entry is counted back from the producer index (DESIGN CHOICE, log entry 148). -/
def mailReads (d : Data) (r : Region) (n i : Nat) : Data × Except ((Nat × Nat) × Nat) Unit :=
  let b := mailOf r n
  let x := regCtx r + 1024 * n + 0x3F0
  let a := regMbox r + 16 * 2 ^ regMbxe r * n + 16 * ((b.1 - b.2.2.length + i) % 2 ^ regMbxe r)
  match readWordsAt d (mailReq r n) vaPlace x 2 with
  | (d, .error fc) => (d, .error (fc, x))
  | (d, .ok _) =>
    match readWordsAt d (mailReq r n) vaPlace a 2 with
    | (d, .error fc) => (d, .error (fc, a))
    | (d, .ok _) => (d, .ok ())

/-- The consumer index of TP n's mailbox becomes n' (R46). -/
def mailCons (d : Data) (r : Region) (n n' : Nat) : Data × Except ((Nat × Nat) × Nat) Unit :=
  let a := regCtx r + 1024 * n + 0x3F8
  match writeAt d (mailReq r n) vaPlace a 8 n' false with
  | (d, .error fc) => (d, .error (fc, a))
  | (d, .ok _) => (d, .ok ())

/-- The oldest word for channel c leaves the mailbox of TP n: the consumer index (R46, R48). It may leave from behind an older
word of another channel: the one index counts words taken, whichever they are; room is counted by the words held; and the
entry of an older word that is still held may be written again, for the device keeps the words themselves (DESIGN CHOICE, log
entry 148). -/
def mailTake (d : Data) (r : Region) (n c : Nat) : Data × Except ((Nat × Nat) × Nat) Unit :=
  let b := mailOf r n
  match mailReads d r n (mailIdx b.2.2 c) with
  | (d, .error e) => (d, .error e)
  | (d, .ok _) =>
    match mailCons d r n (b.2.1 + 1) with
    | (d, .error e) => (d, .error e)
    | (d, .ok _) => (modRegion d r.lid (fun r => { r with
        mail := assocSet r.mail n (b.1, b.2.1 + 1, b.2.2.eraseIdx (mailIdx b.2.2 c)) }), .ok ())

/-! ## Delivery (R47, R290) -/

/-- Status of TP n of a launch. -/
def tpStatus (r : Region) (n : Nat) : TpStatus := r.tps.getD n .waiting

/-- TP n of a launch has a status from now on. -/
def setStatus (d : Data) (lid n : Nat) (st : TpStatus) : Data :=
  modRegion d lid (fun r => { r with tps := r.tps.set n st })

/-- The word enters channel buffer c of the TP in slot k of floe f; a TP waiting in its slot after PARK goes on when the
channel is bound (R44, R47). -/
def bufPut (d : Data) (f k : Nat) (m : TokMsg) : Data :=
  modSlot d f k (fun s =>
    let t := { s.tp with bufs := s.tp.bufs.set m.c.toNat (s.tp.bufs.getD m.c.toNat [] ++ [m]) }
    { s with tp := t, block := if s.block == .parkedInSlot && t.bound.getD m.c.toNat false then .none else s.block })

/-- The oldest mailbox word for channel c enters the buffer of the TP in slot k, when there is one and room (R48); an access that
fails ends the launch (R455). -/
def mailToBuf (d : Data) (f k c : Nat) : Data :=
  let t := getTp d f k
  match getRegion d t.owner.lid with
  | none => d
  | some r =>
    match mailFor r t.owner.n c with
    | [] => d
    | m :: _ =>
      if (t.bufs.getD c []).length < 4 then
        match mailTake d r t.owner.n c with
        | (d, .error e) => areaFault d r e.1 e.2
        | (d, .ok _) => bufPut d f k m
      else d

/-- A word goes to the mailbox, or to the dead-letter ring when it is full (R47). -/
def toMailbox (d : Data) (r : Region) (n : Nat) (m : TokMsg) : Data :=
  if (mailOf r n).2.2.length < 2 ^ regMbxe r then mailPut d r n m else deadLetter d r.lid m 3

/-- Delivery of a word to TP n of a launch of this module (R47). The table has two rows for an EXITING TP of a region that is
not RESIDENT: such a word goes to the mailbox (DESIGN CHOICE, log entry 149). -/
def deliverTp (d : Data) (r : Region) (n : Nat) (m : TokMsg) : Data :=
  if r.st = .failed then deadLetter d r.lid m 4
  else match tpStatus r n with
    | .exited => deadLetter d r.lid m 1
    | .trapped => deadLetter d r.lid m 1
    | .placed =>
      if r.st ≠ .resident then toMailbox d r n m
      else match findTp d ⟨r.lid, n⟩ with
        | none => toMailbox d r n m
        | some (f, k) =>
          let s := getSlot d f k
          if s.st = .exiting then deadLetter d r.lid m 1
          else if (s.tp.bufs.getD m.c.toNat []).length < 4 ∧ (mailFor r n m.c.toNat).isEmpty then bufPut d f k m
          else toMailbox d r n m
    | _ => toMailbox d r n m

/-- The launch of this module whose work set holds a WID: a live one, the older first, else a failed one (R47, R290). -/
def launchOf (d : Data) (wid : Word) : Option Region :=
  let has := fun r => (widLevels r.hdr wid).isSome
  match (d.regions.filter (fun r => regionLive r && has r)) with
  | r :: rs => some (rs.foldl (fun a b => if b.age < a.age then b else a) r)
  | [] => d.regions.find? (fun r => r.st == .failed && has r)

/-- The module a WID's route table entry names (R290): the lowest-numbered match. -/
def widRoute (d : Data) (wid : Word) : Option Nat :=
  (List.range 64).findSome? (fun i =>
    let v := spGet 0 d.widRoutes (2 * i)
    let w := w64 (spGet 0 d.widRoutes (2 * i + 1))
    let n := wb w 16 48
    if n ≠ 0 ∧ (wid.toNat / 2 ^ 16 &&& n) = (v / 2 ^ 16 &&& n) then some (wb w 0 10) else none)

/-- The station a word for module p leaves by, chosen by a hash of its destination (R290). -/
def wordStation (d : Data) (p : Nat) (dst : Word) : Option Nat :=
  match maskStations (routeMask d p) with
  | [] => none
  | [s] => some s
  | l => l[Config.stationHash dst.toNat % l.length]?

/-- A token word arrives (R47, R50, R290): one that no launch here holds leaves for the module its route names, if a station
reaches that module. -/
def deliver (d : Data) (m : TokMsg) : Data :=
  match launchOf d m.dst with
  | some r =>
    (match widLevels r.hdr m.dst with
      | some vs => deliverTp d r (linearIndex r.hdr vs) m
      | none => d)
  | none =>
    match (widRoute d m.dst).bind (fun p => (wordStation d p m.dst).map (fun s => (p, s))) with
    | some x => { d with sent := (x.1, x.2, m) :: d.sent }
    | none => deadLetter d m.srcOwner.lid m 2

/-- The i-th word sent to another module comes back: no launch there holds its destination (R290). -/
def sentReturns (d : Data) (i : Nat) : Data :=
  match d.sent[i]? with
  | none => d
  | some x => deadLetter { d with sent := dropIdx d.sent i } x.2.2.srcOwner.lid x.2.2 2

/-! ## TSEND, TRECV, CBIND (R442) -/

/-- Two words of one TP to the same channel of the same WID (R49). -/
def sameRoute (a b : TokMsg) : Bool := a.srcOwner == b.srcOwner && a.dst == b.dst && a.c == b.c

/-- TSEND's effect (R442): sent at once at scope 0 or when the TP has drained, unless an earlier word of its route is held. -/
def tsendEffect (d : Data) (w dst : Word) (c : BitVec 2) (scope : BitVec 3) : Data :=
  let t := curTp d
  let m : TokMsg := { word := w, dst := dst, src := t.wid, srcOwner := t.owner, c := c }
  let stamp := if scope = 0 then 0 else t.wi
  if (getFloe d d.curF).heldTok.any (fun h => sameRoute h.msg m) || ! decide (stamp ≤ drained t) then
    modFloe d d.curF (fun fl => { fl with heldTok := fl.heldTok ++ [{ msg := m, stamp := stamp }] })
  else { d with net := d.net ++ [m] }

/-- TSEND (R442). -/
def execTsend (g : Guard) (d a : BitVec 5) (c : BitVec 2) (scope : BitVec 3) (s : State) :
    Host.Outcome State Fault Refusal :=
  nextD s (fun dd => issue dd g [d, a] (fun dd => retire (tsendEffect dd (rs dd d) (rs dd a) c scope)))

/-- The oldest word of channel c, taken by the TP in slot k (R442). -/
def takeWord (d : Data) (f k : Nat) (r : BitVec 5) (c : BitVec 2) : Data :=
  modTp d f k (fun t =>
    match t.bufs.getD c.toNat [] with
    | [] => t
    | m :: ms => sput { t with bufs := t.bufs.set c.toNat ms } r m.word)

/-- TRECV (R442): ILLEGAL 0x05 when the channel is not bound, else the oldest word or the wait for one. -/
def execTrecv (g : Guard) (d : BitVec 5) (c : BitVec 2) (s : State) : Host.Outcome State Fault Refusal :=
  nextD s (fun dd => issue dd g [d] (fun dd =>
    if ! (curTp dd).bound.getD c.toNat false then trapIllegal dd 5
    else if ((curTp dd).bufs.getD c.toNat []).isEmpty then blockCur dd (.trecv d c)
    else retire (takeWord dd dd.curF dd.curK d c)))

/-- A TRECV waiting in slot k takes the word that has arrived. -/
def trecvWake (d : Data) (f k : Nat) : Data :=
  match (getSlot d f k).block with
  | .trecv r c => if ((getTp d f k).bufs.getD c.toNat []).isEmpty then d else retireAt (takeWord d f k r c) f k
  | _ => d

/-- TRECV_WAKE (R442, R47). -/
def execTrecvWake (f k : Nat) (s : State) : Host.Outcome State Fault Refusal := nextD s (fun d => trecvWake d f k)

/-- As a sequencer cycle of floe f begins, every TWAIT whose tags are set and every TRECV whose word has come has ended, so that
its slot is runnable in this cycle's selection (R37). -/
def wakeSlots (d : Data) (f : Nat) : Data :=
  if (getFloe d f).halted then d
  else (List.range 8).foldl (fun d k => trecvWake (twaitWake d f k) f k) d

/-- CBIND.on (R442). -/
def execCbindOn (g : Guard) (c : BitVec 2) (s : State) : Host.Outcome State Fault Refusal :=
  nextD s (fun d => issue d g [] (fun d => retire (modCur d (fun t => { t with bound := t.bound.set c.toNat true }))))

/-- CBIND.off (R442): buffered words stay. -/
def execCbindOff (g : Guard) (c : BitVec 2) (s : State) : Host.Outcome State Fault Refusal :=
  nextD s (fun d => issue d g [] (fun d => retire (modCur d (fun t => { t with bound := t.bound.set c.toNat false }))))

/-- The words a floe's TSENDs hold that may go now, in order, and those that stay (R442): a held word holds back later
ones of its route. -/
def releasable (d : Data) : List HeldTok → List TokMsg × List HeldTok
  | [] => ([], [])
  | h :: hs =>
    let r := releasable d hs
    if stampReached d (some h.msg.srcOwner) h.stamp then (h.msg :: r.1, r.2)
    else (r.1.filter (fun m => ! sameRoute m h.msg),
          h :: (hs.filter (fun x => sameRoute x.msg h.msg || r.2.contains x)))

/-- The context of floe f has been saved: what happens to it from now on is in its region's saved copy (R274). -/
def floeSaved (d : Data) (f : Nat) : Bool :=
  let fl := getFloe d f
  match fl.lid.bind (getRegion d) with
  | none => false
  | some r => r.savedFloes.any (fun x => x.entry == fl.entry)

/-- Held words whose stamp is reached are on their way (R442); those of a floe whose context has been saved are in that (R274). -/
def releaseTokens (d : Data) : Data :=
  (List.range 144).foldl (fun d f =>
    match (getFloe d f).heldTok with
    | [] => d
    | hs =>
      if floeSaved d f then d
      else
      let r := releasable d hs
      modFloe { d with net := d.net ++ r.1 } f (fun fl => { fl with heldTok := r.2 })) d

/-- TOKEN_WORD_ARRIVAL: word i on its way arrives, behind none of its own route (R47, R49). -/
def execTokenWordArrival (i : Nat) (s : State) : Host.Outcome State Fault Refusal :=
  nextD s (fun d =>
    let d := releaseTokens d
    match d.net[i]? with
    | none => d
    | some m =>
      if (d.net.take i).any (sameRoute m) then d
      else deliver { d with net := dropIdx d.net i } m)

/-- MAILBOX_MOVE: the oldest mailbox word for channel c enters the buffer of a LIVE TP with room (R48). -/
def execMailboxMove (f k c : Nat) (s : State) : Host.Outcome State Fault Refusal :=
  nextD s (fun d => if (getSlot d f k).st = .live ∧ floeSaved d f = false then mailToBuf d f k c else d)

/-! ## The end of a TP and of a launch (R44, R45, R50, R253, R269) -/

/-- Everything a TP has issued has completed or performed (R44, R45, R356). -/
def tpDrained (t : Tp) : Bool := t.busy.isEmpty && t.pends.isEmpty && t.tokens == 0

/-- The unread words of a TP, in the order of R45. -/
def unreadWords (r : Region) (t : Tp) : List TokMsg :=
  (t.bufs.flatMap id) ++ (mailOf r t.owner.n).2.2

/-- Device-format bytes of the context record of TP n (R46). -/
def writeContext (d : Data) (f : Nat) (r : Region) (n : Nat) : Data :=
  match reach d (reqFloe f) vaPlace (regCtx r + 1024 * n) 0x3F0 .write with
  | (d, .ok loc) => devWrite d loc 0x3F0
  | (d, .error fc) => areaFault d r fc (regCtx r + 1024 * n)

/-- Every TP of the launch has retired. -/
def allRetired (r : Region) : Bool := r.tps.all (fun s => s == .exited || s == .trapped)

/-- The signal operation SET, ADD or OR (R255) of a requester at an address of R225's form: the old value, or the fault. -/
def signalOp (d : Data) (q : Req) (op : Nat) (place : Place × Nat) (v : Nat) : Data × Acc Nat :=
  match reach d q place.1 place.2 4 .readWrite with
  | (d, .error fc) => (d, .error fc)
  | (d, .ok loc) =>
    if poisoned d loc 4 then (d, .error (0x0C, eccuCause loc))
    else
      let s := memRead d loc 4
      let n := match op with
        | 0 => v
        | 1 => (s + v) % 2 ^ 32
        | _ => s ||| v
      (memWrite d loc 4 n false, .ok s)

/-- A LAUNCH completes (R50, R253): the signal, the report of discards, the packet, and the floes are free. -/
def completeLaunch (d : Data) (lid : Nat) : Data :=
  match getRegion d lid with
  | none => d
  | some r =>
    if ! regionLive r || ! allRetired r then d
    else
      let d := releaseFloes (modRegion d lid (fun r => { r with st := .done })) lid
      let d := discardReport d r
      let none' : Bool := r.signal == (0, 0)
      if none' then launchEnds d r.queue lid
      else
        match signalOp d (reqRook r.x) 0 ({ space := r.signal.1, psp := 0, pmod := 0 }, r.signal.2) r.sigVal.toNat with
        | (d, .ok _) => launchEnds d r.queue lid
        | (d, .error fc) => swqFault d r.queue 1 5 (w64 (fc.1 * 256 + fc.2))

/-- The words of the mailbox of TP n are read from word i on, k of them (R46, R48, R455). -/
def mailReadsFrom (d : Data) (r : Region) (n : Nat) : Nat → Nat → Data × Except ((Nat × Nat) × Nat) Unit
  | 0, _ => (d, .ok ())
  | k + 1, i =>
    match mailReads d r n i with
    | (d, .error e) => (d, .error e)
    | (d, .ok _) => mailReadsFrom d r n k (i + 1)

/-- The words left in the mailbox of TP n leave it: the consumer index meets the producer index (R45, R46). -/
def mailEmpty (d : Data) (r : Region) (n : Nat) : Data :=
  let b := mailOf r n
  if b.2.2.isEmpty then d
  else match mailReadsFrom d r n b.2.2.length 0 with
    | (d, .error e) => areaFault d r e.1 e.2
    | (d, .ok _) =>
      match mailCons d r n b.1 with
      | (d, .error e) => areaFault d r e.1 e.2
      | (d, .ok _) => d

/-- A TP ends with a status; its slot is free and its unread words go to the dead-letter ring (R45, R269). The words its floe
holds for it have been released: it has drained (R442). -/
def endTp (d : Data) (f k : Nat) (st : TpStatus) : Data :=
  let d := releaseTokens d
  let t := getTp d f k
  match getRegion d t.owner.lid with
  | none => modSlot d f k (fun _ => Slot.reset)
  | some r =>
    let ws := unreadWords r t
    let d := mailEmpty d r t.owner.n
    let d := setStatus (modSlot d f k (fun _ => Slot.reset)) r.lid t.owner.n st
    let d := modRegion d r.lid (fun r => { r with mail := assocDel r.mail t.owner.n })
    completeLaunch (ws.foldl (fun d m => deadLetter d r.lid m 5) d) r.lid

/-- TP_RETIRE: the EXIT drain ends (R45, R356). -/
def execTpRetire (f k : Nat) (s : State) : Host.Outcome State Fault Refusal :=
  nextD s (fun d =>
    let sl := getSlot d f k
    if sl.st = .exiting ∧ sl.trapped = false ∧ tpDrained sl.tp ∧ (getFloe d f).halted = false then endTp d f k .exited else d)

/-- TP_TRAPPED: the drain of a trapped TP ends: its context record is written and it is TRAPPED (R269); its record has
been written (R23). -/
def execTpTrapped (f k : Nat) (s : State) : Host.Outcome State Fault Refusal :=
  nextD s (fun d =>
    let sl := getSlot d f k
    if sl.st = .exiting ∧ sl.trapped = true ∧ tpDrained sl.tp ∧ recHeldFor d f = false ∧ (getFloe d f).halted = false then
      let d := match getRegion d sl.tp.owner.lid with
        | some r => writeContext d f r sl.tp.owner.n
        | none => d
      if (getSlot d f k).st = .exiting then endTp d f k .trapped else d
    else d)

/-- PARK_DRAIN_END: the context is written, the slot is free and the TP is PARKED (R44, R410). -/
def execParkDrainEnd (f k : Nat) (s : State) : Host.Outcome State Fault Refusal :=
  nextD s (fun d =>
    let sl := getSlot d f k
    if sl.st = .parking ∧ tpDrained sl.tp ∧ (getFloe d f).halted = false then
      match getRegion d sl.tp.owner.lid with
      | none => modSlot d f k (fun _ => Slot.reset)
      | some r =>
        let d := writeContext d f r sl.tp.owner.n
        if (getSlot d f k).st = .parking then
          let d := setStatus (modSlot d f k (fun _ => Slot.reset)) r.lid sl.tp.owner.n .parked
          modRegion d r.lid (fun r => { r with parkedTps := r.parkedTps ++ [(sl.tp.owner.n, sl)] })
        else d
    else d)

/-- SLOT_AGED: a candidate whose wait has reached AGE is aged (R39). -/
def execSlotAged (f k : Nat) (s : State) : Host.Outcome State Fault Refusal :=
  nextD s (fun d =>
    let fl := getFloe d f
    if runnable d fl f k && ! (slotOf fl k).mask then modSlot d f k (ageSlot (floeAge d fl)) else d)

end Sys2Proof.Machine
end

