-- ==== Sys2Proof/Machine/Engine.lean ====
section
/-!
DEFINITION. What the engines of a die share: the TP that issued a command, its tag and counted write at the end (R91, R183,
R201, R208), the records of engines (R268, R271), and the Firn layout engines (R70-R75, R382, R383).
-/

namespace Sys2Proof.Machine

/-- A command's tag is set and its counted write has performed (R91, R92, R201). -/
def engineEnd (d : Data) (o : Owner) (tag : BitVec 6) (wno : Nat) : Data :=
  modOwner d o (fun t => { setTag t tag with busy := t.busy.erase tag, undone := t.undone.filter (fun n => n != wno) })

/-- A record of an engine of a die that concerns the TP of an owner (R268). -/
def engineRec (d : Data) (die lcnt : Nat) (o : Owner) (r : Rec) : Data :=
  let t := ownerTp d o
  modOwner (emitRec d die lcnt { r with unit := die, wid := (t.map (fun x => x.2.wid)).getD 0, slot := (t.map (fun x => x.1)).getD 0 })
    o (fun t => { t with flt := fltCount t.flt r.cls })

/-- Local count n of a die: Firn 0-7, embedding 8, solvers 9-12, queue home 13 (R17). -/
def dieCount (d : Data) (die n : Nat) : Nat := (getDie d die).counts.getD n 0

/-- Accesses of the issuer that a command waits for have performed (R183). -/
def afterDone (d : Data) (o : Owner) (after : List Nat) : Bool :=
  match ownerTp d o with
  | some (_, t) => ! t.pends.any (fun p => after.contains p.id)
  | none => true

/-! ## The dimension-mapping word (R70-R72) -/

/-- Factor and dimension of split i. -/
def dmSplit (w : Word) (i : Nat) : Nat × Nat := if i = 0 then (wb w 41 10, wb w 38 3) else (wb w 54 10, wb w 51 3)
/-- VR. -/
def dmVr (w : Word) : Nat := wb w 35 3 + 1
/-- REV bit i. -/
def dmRev (w : Word) (i : Nat) : Bool := w.getLsbD (28 + i)
/-- MRG bit i. -/
def dmMrg (w : Word) (i : Nat) : Bool := w.getLsbD (21 + i)
/-- SEL[i]. -/
def dmSel (w : Word) (i : Nat) : Nat := wb w (3 * i) 3

/-- Extents after a split; none when it breaks R72. -/
def splitExt (s : Nat × Nat) (ext : List Nat) : Option (List Nat) :=
  if s.1 = 0 then (if s.2 = 0 then some ext else none)
  else if s.2 < ext.length ∧ ext.getD s.2 0 % s.1 = 0 then
    some (ext.take s.2 ++ [s.1, ext.getD s.2 0 / s.1] ++ ext.drop (s.2 + 1))
  else none

/-- The intermediate extents of a rearrangement; none when the word breaks R72. -/
def dmExt (w : Word) (e : List Word) : Option (List Nat) :=
  match splitExt (dmSplit w 0) ((List.range (lteRank e)).map (lteExt e)) with
  | none => none
  | some x =>
    match splitExt (dmSplit w 1) x with
    | none => none
    | some y =>
      let vr := dmVr w
      let sel := (List.range vr).map (dmSel w)
      if y.length = vr ∧ vr ≤ 7 ∧ (List.range vr).all (fun i => sel.contains i) = true ∧
          (List.range 7).all (fun i => (decide (i < vr) || (dmSel w i == 0 && ! dmRev w i)) && (decide (i + 1 < vr) || ! dmMrg w i)) = true
      then some y else none

/-- Extents along the permuted dimensions. -/
def dmDims (w : Word) (ext : List Nat) : List Nat := (List.range (dmVr w)).map (fun i => ext.getD (dmSel w i) 0)

/-- Merge runs of dimensions from dimension i on: the product of the extents of each run (R71). -/
def mergeExt (w : Word) : Nat → List Nat → List Nat
  | _, [] => []
  | i, e :: es =>
    match mergeExt w (i + 1) es with
    | [] => [e]
    | x :: xs => if dmMrg w i then (e * x) :: xs else e :: x :: xs

/-- Extents of the rearranged view. -/
def dmDest (w : Word) (ext : List Nat) : List Nat := mergeExt w 0 (dmDims w ext)

/-- The digits of a linear index over extents, lowest dimension fastest. -/
def digits : List Nat → Nat → List Nat
  | [], _ => []
  | e :: es, n => n % max 1 e :: digits es (n / max 1 e)

/-- Undo a split in coordinates. -/
def unsplit (s : Nat × Nat) (x : List Nat) : List Nat :=
  if s.1 = 0 then x else x.take s.2 ++ [x.getD s.2 0 + s.1 * x.getD (s.2 + 1) 0] ++ x.drop (s.2 + 2)

/-- Source coordinates of destination element idx (R71): merged dimensions have their lowest fastest, so the linear index
splits over the permuted dimensions. -/
def dmSource (w : Word) (ext : List Nat) (idx : Nat) : List Nat :=
  let k := digits (dmDims w ext) idx
  let at' : Nat → Nat := fun dim => sumNat ((List.range (dmVr w)).map (fun i =>
    if dmSel w i = dim then (if dmRev w i then ext.getD dim 0 - 1 - k.getD i 0 else k.getD i 0) else 0))
  unsplit (dmSplit w 0) (unsplit (dmSplit w 1) ((List.range ext.length).map at'))

/-! ## LAY (R73-R75, R382) -/

/-- Elements of the destination. -/
def layTotal (c : LayCmd) : Nat := prodNat ((List.range (lteRank c.dst)).map (lteExt c.dst))

/-- A view leaves its address range or its memory cell: 0x15, then 0x14. -/
def laySpanBad (e : List Word) : Bool := decide ((viewSpan e).1 < 0) || decide (2 ^ 52 ≤ (viewSpan e).2)
/-- See laySpanBad. -/
def layCellBad (e : List Word) : Bool :=
  lteSpace e == 0 && (decide ((viewSpan e).1 / 2 ^ 19 ≠ ((lteBase e / 2 ^ 19 : Nat) : Int)) ||
    decide ((viewSpan e).2 / 2 ^ 19 ≠ ((lteBase e / 2 ^ 19 : Nat) : Int)))

/-- SPACE of an entry over its whole view (R172, R288). -/
def laySpace (d : Data) (e : List Word) : Check :=
  match spaceForm d (ltePlace e) (lteBase e) (lteBase e) with
  | some fc => some fc
  | none =>
    let r := viewSpan e
    spaceFormI d (ltePlace e) r.1 r.2

/-- The issue checks of LAY, in the order of R382. -/
def layCheck (d : Data) (dmw b : Word) (src dst : Option (List Word)) : Check :=
  if wb b 14 50 ≠ 0 ∨ wb b 6 2 ≠ 0 then some (1, 5)
  else match src, dst with
    | some s, some t =>
      let ext := dmExt dmw s
      firstFault
        [(if lteSpace s = 2 ∨ lteSpace t = 2 then some (3, 1) else none), laySpace d s, laySpace d t,
         tileIf 0x20 ext.isNone,
         tileIf 0x21 (dmDest dmw (ext.getD []) != (List.range (lteRank t)).map (lteExt t) || lteFmt s != lteFmt t),
         tileIf 0x15 (laySpanBad s || laySpanBad t), tileIf 0x14 (layCellBad s || layCellBad t),
         tileIf 0x22 (spaceKey d d.curF s == spaceKey d d.curF t && decide ((viewSpan s).1 ≤ (viewSpan t).2) &&
           decide ((viewSpan t).1 ≤ (viewSpan s).2))]
    | _, _ => some (4, 0x10)

/-- LAY joins the die's Firn queue (R382). -/
def layQueue (d : Data) (tag : BitVec 6) (dmw : Word) (src dst : List Word) : Data :=
  let t := curTp d
  let counted := lteSpace dst != 0
  let c : LayCmd := { owner := t.owner, floe := d.curF, tag := tag, src := src, dst := dst, dmw := dmw, pos := 0, stopped := false,
                      wno := if counted then t.wi + 1 else 0, after := pendAccesses t }
  modCur (modDie d (dieOf d.curF) (fun x => { x with firnQ := x.firnQ ++ [c] })) (fun t => beginCmd t tag counted)

/-- LAY at issue. -/
def layIssue (d : Data) (tag : BitVec 6) (dmw b : Word) : Data :=
  let fl := getFloe d d.curF
  let src := fl.lcache.getD (wb b 0 6) none
  let dst := fl.lcache.getD (wb b 8 6) none
  match layCheck d dmw b src dst with
  | some (cls, cause) => trap d cls cause
  | none =>
    if (getDie d (dieOf d.curF)).firnQ.length < firnQueueSize then retire (layQueue d tag dmw (src.getD []) (dst.getD []))
    else blockCur d (.stall .firn)

/-- LAY (R382): s[a] is the dimension-mapping word, s[b] names source and destination entry. -/
def execLay (g : Guard) (tag : BitVec 6) (a b : BitVec 5) (s : State) : Host.Outcome State Fault Refusal :=
  nextD s (fun d => issue d g [a, b] (fun d => tagFree d tag (fun d => whenFree d true true false (fun d =>
    layIssue d tag (rs d a) (rs d b)))))

/-- The lowest-numbered idle Firn engine of a die takes the oldest command of the queue, once the accesses it is ordered
after have performed (R183, R382). An engine whose LAY has stopped is not idle: R75 lets it start other commands, and the model
keeps it occupied (DESIGN CHOICE, log entry 152). -/
def layStart (d : Data) (die : Nat) : Data :=
  let x := getDie d die
  match x.firnQ, x.firn.findIdx? Option.isNone with
  | c :: cs, some n =>
    if afterDone d c.owner c.after then modDie d die (fun x => { x with firnQ := cs, firn := x.firn.set n (some c) }) else d
  | _, _ => d

/-- LAY_START (R382). -/
def execLayStart (die : Nat) (s : State) : Host.Outcome State Fault Refusal := nextD s (fun d => layStart d die)

/-- The command in Firn engine n. -/
def firnCmd (d : Data) (die n : Nat) : Option LayCmd := (getDie d die).firn.getD n none

/-- That engine's command changed. -/
def setFirn (d : Data) (die n : Nat) (c : Option LayCmd) : Data := modDie d die (fun x => { x with firn := x.firn.set n c })

/-- A LAY stops at its restart point with one STOP record (R271, R383). -/
def layStop (d : Data) (die n : Nat) (c : LayCmd) (wr : Bool) (addr : Nat) (fc : Nat × Nat) : Data :=
  engineRec (setFirn d die n (some { c with stopped := true })) die (dieCount d die n) c.owner
    { recZero with kind := 1, cls := fc.1, cause := fc.2, utype := 3, entry := n, tag := c.tag.toNat, mid := 0x90 + 8 * die + n, wr := wr,
                   addr := addr, d0 := w64 c.pos }

/-- A LAY touches FLOE space of a floe. -/
def layTouches (c : LayCmd) (f : Nat) : Bool := c.floe == f && (lteSpace c.src == 0 || lteSpace c.dst == 0)

/-- One element of a LAY is written: in FLOE as a write of the cycle in progress. -/
def layWrite (d : Data) (die n : Nat) (c : LayCmd) (ps : List Piece) (v : Nat) (psn : Bool) : Data :=
  if lteSpace c.dst = 0 then
    let w : FloeWrite :=
      { src := 3, key := 8 * die + n, elems := [(ps, v)], psn := psn, mode := 0, fmt := lteFmt c.dst, part := false }
    modFloe (useBanks d c.floe ps) c.floe (fun fl => { fl with writes := fl.writes ++ [w] })
  else wordWrite d [(ps, v)] psn 0 (lteFmt c.dst)

/-- A LAY that touches FLOE space waits while its floe is halted and while its region is not resident (R274, R383). -/
def layHalted (d : Data) (c : LayCmd) : Bool :=
  layTouches c c.floe && ((getFloe d c.floe).halted || (match getRegion d c.owner.lid with
    | none => false
    | some r => match r.st with
      | .candidate => true
      | .saved => true
      | .restoring => true
      | _ => false))

/-- The LAY in Firn engine n moves nothing: it is stopped or done, its record is held (R23), or the floe whose memory cells it
touches is halted or frozen (R115; log entry 177). -/
def layStill (d : Data) (die n : Nat) (c : LayCmd) : Bool :=
  c.stopped || decide (layTotal c ≤ c.pos) || unitHeld d 3 die n || layHalted d c ||
    (layTouches c c.floe && (getFloe d c.floe).frozen)

/-- The source element a LAY is at. -/
def laySrc (c : LayCmd) : List Int := (dmSource c.dmw ((dmExt c.dmw c.src).getD []) c.pos).map (fun (i : Nat) => (i : Int))

/-- The destination element a LAY is at. -/
def layDst (c : LayCmd) : List Int := (digits ((List.range (lteRank c.dst)).map (lteExt c.dst)) c.pos).map (fun (i : Nat) => (i : Int))

/-- The next element of the LAY in Firn engine n is read and written bit for bit (R67, R71). -/
def layElement (d : Data) (die n : Nat) : Data :=
  match firnCmd d die n with
  | none => d
  | some c =>
    if layStill d die n c then d
    else
      let sx := laySrc c
      let dx := layDst c
      match reachElem d (reqFloe c.floe) c.src sx .read with
      | (d, .error fc) => layStop d die n c false (elemAddr c.src sx) fc
      | (d, .ok ps) =>
        match reachElem d (reqFloe c.floe) c.dst dx .write with
        | (d, .error fc) => layStop d die n c true (elemAddr c.dst dx) fc
        | (d, .ok qs) =>
          let d := if lteSpace c.src = 0 then useBanks d c.floe ps else d
          setFirn (layWrite d die n c qs (pieceRead d ps) (piecePoisoned d ps)) die n (some { c with pos := c.pos + 1 })

/-- STREAM_ELEMENT (R67, R90): the next element of a stream command or of a LAY. -/
def execStreamElement (u : StreamUnit) (s : State) : Host.Outcome State Fault Refusal :=
  nextD s (fun d => match u with
    | .floe f e => streamStep d f e
    | .firn die n => layElement d die n)

/-- A LAY is complete when every write has performed (R75). -/
def layComplete (d : Data) (die n : Nat) : Data :=
  match firnCmd d die n with
  | none => d
  | some c =>
    if decide (layTotal c ≤ c.pos) && ! (getFloe d c.floe).writes.any (fun w => w.src == 3 && w.key == 8 * die + n) then
      engineEnd (setFirn d die n none) c.owner c.tag c.wno
    else d

/-- LAY_COMPLETE (R75). -/
def execLayComplete (die n : Nat) (s : State) : Host.Outcome State Fault Refusal := nextD s (fun d => layComplete d die n)

end Sys2Proof.Machine
end

