-- ==== Sys2Proof/Machine/Embedding.lean ====
section
/-!
DEFINITION. The embedding engine: EGAT, EUPD and EPIN, the optimiser steps, the Moraine row cache and the migration of rows
(R220-R231, R350, R351, R353, R355).
-/

namespace Sys2Proof.Machine

/-! ## Tables (R220-R222) -/

/-- Doubleword i of a descriptor or command block. -/
def dwAt (l : List Word) (i : Nat) : Word := l.getD i 0

/-- BLKL. -/
def edBlkl (t : List Word) : Nat := wb (dwAt t 0) 34 5
/-- ROWB: the row stride in bytes. -/
def edRowb (t : List Word) : Nat := 16 * (if wb (dwAt t 0) 24 10 = 0 then 1024 else wb (dwAt t 0) 24 10)
/-- D. -/
def edD (t : List Word) : Nat := wb (dwAt t 0) 12 12
/-- OPT. -/
def edOpt (t : List Word) : Nat := wb (dwAt t 0) 8 3
/-- VFMT. -/
def edVfmt (t : List Word) : Nat := wb (dwAt t 0) 4 4
/-- SPACE. -/
def edSpace (t : List Word) : Nat := wb (dwAt t 0) 0 4
/-- BASE. -/
def edBase (t : List Word) : Nat := wb (dwAt t 1) 0 52
/-- HSEED. -/
def edHseed (t : List Word) : Nat := wb (dwAt t 2) 32 16
/-- NROWS. -/
def edNrows (t : List Word) : Nat := wb (dwAt t 2) 0 32
/-- TID. -/
def edTid (t : List Word) : Nat := wb (dwAt t 3) 32 16
/-- NMOD. -/
def edNmod (t : List Word) : Nat := wb (dwAt t 3) 16 16
/-- MBASE. -/
def edMbase (t : List Word) : Nat := wb (dwAt t 3) 0 16
/-- Bytes of a row value. -/
def edWidth (t : List Word) : Nat := if edVfmt t = 0 then 4 else 2
/-- VOFF (R221). -/
def edVoff (t : List Word) : Nat := 16 * ceilDiv (edD t * edWidth t) 16
/-- Words of a row's optimiser state (R221). -/
def edStateWords (t : List Word) : Nat :=
  match edOpt t with
  | 2 => edD t
  | 3 => 1
  | 4 => 2 * edD t
  | _ => 0

/-- A descriptor breaks R220 or R221. -/
def descBad (t : List Word) : Bool :=
  wb (dwAt t 0) 39 25 != 0 || wb (dwAt t 0) 11 1 != 0 || wb (dwAt t 1) 52 12 != 0 || wb (dwAt t 2) 48 16 != 0 ||
  wb (dwAt t 3) 48 16 != 0 || (List.range 4).any (fun i => dwAt t (4 + i) != 0) ||
  decide (20 < edBlkl t) || decide (edD t < 1) || decide (2048 < edD t) || decide (4096 < edD t * edWidth t) ||
  decide (4 < edOpt t) || decide (1 < edVfmt t) || ! (edSpace t == 1 || edSpace t == 3 || edSpace t == 4) ||
  edNrows t == 0 || edNmod t == 0 || decide (256 < edNmod t) || decide (edRowb t < edVoff t + 4 * edStateWords t)

/-- HomeHash(x, q) (R222). -/
def homeHash (t : List Word) (x q : Nat) : Nat := rshMix (edHseed t) (x % 2 ^ 32) q

/-- The engine 4 × module + die of the hash home of a row (R222). -/
def hashHome (t : List Word) (row : Nat) : Nat :=
  let hb := homeHash t (row / 2 ^ edBlkl t) 0
  4 * (edMbase t + hb % edNmod t) + hb / 2 ^ 24 % 4

/-- The number of the engine of die c of this module. -/
def engHere (d : Data) (c : Nat) : Nat := 4 * d.modid.toNat + c

/-- An engine is one of this module. -/
def engLocal (d : Data) (e : Nat) : Bool := e / 4 == d.modid.toNat

/-- The embedding engine of die c. -/
def getEmb (d : Data) (c : Nat) : Emb := (getDie d c).emb

/-- That engine changed. -/
def modEmb (d : Data) (c : Nat) (h : Emb → Emb) : Data := modDie d c (fun x => { x with emb := h x.emb })

/-- The requester of die c's embedding engine (R291). -/
def reqEmb (c : Nat) : Req := { mid := 0xB0 + c, floe := none, die := c }

/-- A row is migrated in at an engine of this module, and not its hash home. -/
def holdsIn (e : Emb) (tid row : Nat) : Bool := e.inRows.any (fun r => r.tid == tid && r.row == row && ! r.native)

/-- A row has been migrated to an engine of this module, its hash home or not. -/
def holdsRow (e : Emb) (tid row : Nat) : Bool := e.inRows.any (fun r => r.tid == tid && r.row == row)

/-- Where a row's hash home says it is. -/
def dirFind (e : Emb) (tid row : Nat) : Option Nat :=
  (e.dir.find? (fun x => x.1 == tid && x.2.1 == row)).map (fun x => x.2.2)

/-- The current home of a row (R222, R231). -/
def rowHome (d : Data) (t : List Word) (row : Nat) : Nat :=
  let h := hashHome t row
  if engLocal d h then (dirFind (getEmb d (h % 4)) (edTid t) row).getD h
  else match (List.range 4).find? (fun c => holdsIn (getEmb d c) (edTid t) row) with
    | some c => engHere d c
    | none => h

/-! ## Memory of an engine -/

/-- The part of n bytes at a that lies in one 4 KiB unit. -/
def unitLen (a n : Nat) : Nat := min n (4096 - a % 4096)

/-- The outcome of accesses of an engine: whether the one that failed was a write, its address, its class and cause; or a value. -/
abbrev RowAcc (α : Type) := Except (Bool × Nat × Nat × Nat) α

/-- Read n bytes, unit by unit, with whether any was poisoned. -/
def readBytesAt (d : Data) (q : Req) (p : Place) : Nat → Nat → Nat → Data × RowAcc (List Byte × Bool)
  | 0, _, _ => (d, .ok ([], false))
  | fuel + 1, a, n =>
    if n = 0 then (d, .ok ([], false))
    else match reach d q p a (unitLen a n) .read with
      | (d, .error fc) => (d, .error (false, a, fc))
      | (d, .ok loc) =>
        match readBytesAt d q p fuel (a + unitLen a n) (n - unitLen a n) with
        | (d, .error e) => (d, .error e)
        | (d, .ok (bs, psn)) => (d, .ok (numBytes (unitLen a n) (memRead d loc (unitLen a n)) ++ bs, psn || poisoned d loc (unitLen a n)))

/-- The parts of n bytes at a to be written: location and length of each. -/
def reachUnits (d : Data) (q : Req) (p : Place) : Nat → Nat → Nat → Data × RowAcc (List (Nat × Nat))
  | 0, _, _ => (d, .ok [])
  | fuel + 1, a, n =>
    if n = 0 then (d, .ok [])
    else match reach d q p a (unitLen a n) .write with
      | (d, .error fc) => (d, .error (true, a, fc))
      | (d, .ok loc) =>
        match reachUnits d q p fuel (a + unitLen a n) (n - unitLen a n) with
        | (d, .error e) => (d, .error e)
        | (d, .ok l) => (d, .ok ((loc, unitLen a n) :: l))

/-- Bytes stored in the parts they go to. -/
def writeUnits (psn : Bool) (d : Data) (bs : List Byte) : List (Nat × Nat) → Data
  | [] => d
  | (loc, n) :: l => writeUnits psn (memWriteBytes d loc (bs.take n) psn) (bs.drop n) l

/-- Write bytes, all of them or, where one of their units cannot be reached, none (R67, R222). -/
def writeBytesAt (d : Data) (q : Req) (p : Place) (psn : Bool) (fuel a : Nat) (bs : List Byte) : Data × RowAcc Unit :=
  match reachUnits d q p fuel a bs.length with
  | (d, .error e) => (d, .error e)
  | (d, .ok l) => (writeUnits psn d bs l, .ok ())

/-- The place of a table's rows. -/
def rowPlace (t : List Word) : Place := { space := edSpace t, psp := 0, pmod := 0 }

/-- The address of a row (R221). -/
def rowAddr (t : List Word) (row : Nat) : Nat := edBase t + row * edRowb t

/-- Read a row's bytes from storage by the engine of die c. -/
def storeRead (d : Data) (c : Nat) (t : List Word) (row : Nat) : Data × RowAcc (List Byte × Bool) :=
  readBytesAt d (reqEmb c) (rowPlace t) (edRowb t / 4096 + 2) (rowAddr t row) (edRowb t)

/-- Write a row's bytes to storage. -/
def storeWrite (d : Data) (c : Nat) (t : List Word) (row : Nat) (bs : List Byte) (psn : Bool) : Data × RowAcc Unit :=
  writeBytesAt d (reqEmb c) (rowPlace t) psn (bs.length / 4096 + 2) (rowAddr t row) bs

/-! ## The Moraine row cache (R230) -/

/-- The set of a row. -/
def morSet (t : List Word) (row : Nat) : Nat := homeHash t row 1 % 2048

/-- Ways a row takes. -/
def morWays (t : List Word) : Nat := ceilDiv (edRowb t) 1024

/-- A unit holds a row. -/
def unitIs (t : List Word) (row : Nat) (u : MorUnit) : Bool := edTid u.tab == edTid t && u.row == row

/-- The cached unit of a row. -/
def unitFind (e : Emb) (t : List Word) (row : Nat) : Option MorUnit := e.units.find? (unitIs t row)

/-- The cached unit of a row changed. -/
def unitMod (d : Data) (c : Nat) (t : List Word) (row : Nat) (h : MorUnit → MorUnit) : Data :=
  modEmb d c (fun e => { e with units := e.units.map (fun u => if unitIs t row u then h u else u) })

/-- The cached unit of a row dropped. -/
def unitDrop (d : Data) (c : Nat) (t : List Word) (row : Nat) : Data :=
  modEmb d c (fun e => { e with units := e.units.filter (fun u => ! unitIs t row u) })

/-- Ways in use in a set. -/
def waysUsed (e : Emb) (set : Nat) : List Nat := e.units.flatMap (fun u => if u.set = set then u.ways else [])

/-- Pinned ways of a set. -/
def waysPinned (e : Emb) (set : Nat) : Nat :=
  sumNat (e.units.map (fun u => if u.set = set ∧ u.pinned = true then u.ways.length else 0))

/-- A dirty unit is written back. -/
def writeBack (d : Data) (c : Nat) (u : MorUnit) : Data × RowAcc Unit :=
  if u.dirty then
    match storeWrite d c u.tab u.row u.bytes u.psn with
    | (d, .ok _) => (unitMod d c u.tab u.row (fun u => { u with dirty := false }), .ok ())
    | (d, .error e) => (d, .error e)
  else (d, .ok ())

/-- Unit a is evicted before unit b: lowest count first, lowest first way on a tie. -/
def evictBefore (a b : MorUnit) : Bool := decide (a.count < b.count) || (a.count == b.count && decide (a.ways.headD 0 < b.ways.headD 0))

/-- The unit evicted next from a set; one that waits for its ways (log entry 153) has none to give. -/
def evictNext (e : Emb) (set : Nat) : Option MorUnit :=
  (e.units.filter (fun u => u.set == set && ! u.pinned && ! u.ways.isEmpty)).foldl (fun b u =>
    match b with
    | none => some u
    | some v => if evictBefore u v then some u else some v) none

/-- Evict until n ways of a set are free; an unpinned unit leaves with each step. -/
def evictFor (d : Data) (c set n : Nat) : Nat → Data × RowAcc Unit
  | 0 => (d, .ok ())
  | fuel + 1 =>
    if n + (waysUsed (getEmb d c) set).length ≤ 16 then (d, .ok ())
    else match evictNext (getEmb d c) set with
      | none => (d, .ok ())
      | some u =>
        match writeBack d c u with
        | (d, .error e) => (d, .error e)
        | (d, .ok _) => evictFor (unitDrop d c u.tab u.row) c set n fuel

/-- A row enters the cache in the lowest free ways of its set. -/
def unitInsert (d : Data) (c : Nat) (t : List Word) (row : Nat) (bs : List Byte) (psn dirty pinned : Bool) : Data :=
  let used := waysUsed (getEmb d c) (morSet t row)
  let ways := ((List.range 16).filter (fun w => ! used.contains w)).take (morWays t)
  modEmb d c (fun e => { e with units := e.units ++ [{ set := morSet t row, tab := t, row := row, ways := ways, count := 1, dirty := dirty, pinned := pinned, bytes := bs, psn := psn }] })

/-- The ageing of a set: every count is halved. -/
def ageSet (d : Data) (c set : Nat) : Data :=
  modEmb d c (fun e =>
    if e.due.contains set then
      { e with due := e.due.erase set, units := e.units.map (fun u => if u.set = set then { u with count := u.count / 2 } else u) }
    else e)

/-- A row that is not cached: loaded with count 1, or read from storage where pinned units leave too few ways. Ageing that is
due has been done before. -/
def rowLoad (d : Data) (c : Nat) (t : List Word) (row : Nat) : Data × RowAcc (List Byte × Bool) :=
  let d := ageSet d c (morSet t row)
  if 16 < waysPinned (getEmb d c) (morSet t row) + morWays t then storeRead d c t row
  else match evictFor d c (morSet t row) (morWays t) 16 with
    | (d, .error e) => (d, .error e)
    | (d, .ok _) =>
      match storeRead d c t row with
      | (d, .error e) => (d, .error e)
      | (d, .ok (bs, psn)) => (unitInsert d c t row bs psn false false, .ok (bs, psn))

/-- One more access of a set; on every 2^K-th its ageing falls due. -/
def countAccess (d : Data) (c set : Nat) : Data :=
  modEmb d c (fun e =>
    let n := spGet 0 e.accesses set + 1
    { e with accesses := spSet 0 e.accesses set n, due := if n % 2 ^ e.k = 0 then set :: e.due else e.due })

/-- A look-up or update reads a row: from its unit, whose count rises, or on a miss. Ageing that is due has been done
before. -/
def rowGet (d : Data) (c : Nat) (t : List Word) (row : Nat) : Data × RowAcc (List Byte × Bool) :=
  let d := ageSet d c (morSet t row)
  match unitFind (getEmb d c) t row with
  | some u => (countAccess (unitMod d c t row (fun u => { u with count := min 255 (u.count + 1) })) c (morSet t row), .ok (u.bytes, u.psn))
  | none =>
    match rowLoad d c t row with
    | (d, .ok x) => (countAccess d c (morSet t row), .ok x)
    | (d, .error e) => (d, .error e)

/-- An update writes a row: into its unit, or to storage. -/
def rowPut (d : Data) (c : Nat) (t : List Word) (row : Nat) (bs : List Byte) (psn : Bool) : Data × RowAcc Unit :=
  match unitFind (getEmb d c) t row with
  | some _ => (unitMod d c t row (fun u => { u with bytes := bs, psn := psn, dirty := true }), .ok ())
  | none => storeWrite d c t row bs psn

/-- MORAINE_AGEING (R230). -/
def execMoraineAgeing (die set : Nat) (s : State) : Host.Outcome State Fault Refusal := nextD s (fun d => ageSet d die set)

/-! ## Row arithmetic (R227, R229) -/

/-- n bytes of a row from offset o on, as a number. -/
def rowNum (bs : List Byte) (o n : Nat) : Nat := bytesNum ((bs.drop o).take n)

/-- The values of a row, widened exactly to FP32 (R227). -/
def rowValues (t : List Word) (bs : List Byte) : List (BitVec 32) :=
  (List.range (edD t)).map (fun i => BitVec.ofNat 32 (if edVfmt t = 0 then rowNum bs (4 * i) 4 else rowNum bs (2 * i) 2 * 65536))

/-- FP32 word i of a row's optimiser state. -/
def rowState (t : List Word) (bs : List Byte) (i : Nat) : Fp := fpDecode 0 (rowNum bs (edVoff t + 4 * i) 4)

/-- An FP32 word's value. -/
def f32 (x : BitVec 32) : Fp := fpDecode 0 x.toNat

/-- The FP32 word of a value. -/
def to32 (x : Fp) : BitVec 32 := BitVec.ofNat 32 (fpEncode (rne 0) x)

/-- R(a + b). -/
def rAdd (a b : Fp) : Fp := roundFp32 (fpAdd 0 a b)
/-- R(a - b). -/
def rSub (a b : Fp) : Fp := roundFp32 (fpAdd 0 a (fpNeg b))
/-- R(a × b). -/
def rMul (a b : Fp) : Fp := roundFp32 (fpMul a b)

/-- R(a / b), correctly rounded (R229). -/
def rDiv (a b : Fp) : Fp :=
  match a, b with
  | .nan, _ => .nan
  | _, .nan => .nan
  | .inf s, .inf _ => let _ := s; .nan
  | .inf s, .fin t _ _ => .inf (s != t)
  | .fin s _ _, .inf t => .fin (s != t) 0 0
  | .fin s m e, .fin t n g =>
    if n = 0 then (if m = 0 then .nan else .inf (s != t))
    else if m = 0 then .fin (s != t) 0 0
    else fpDecode 0 (magRound (rne 0) (s != t) (divMag m e n g))

/-- Sqrt, correctly rounded (R229). -/
def rSqrt (a : Fp) : Fp :=
  match a with
  | .nan => .nan
  | .inf s => if s then .nan else .inf false
  | .fin s m e => if m = 0 then .fin s 0 0 else if s then .nan else fpDecode 0 (magRound (rne 0) false (sqrtMag m e))

/-- Rsqrt of an FP32 value, correctly rounded (R170). -/
def rRsqrt (a : Fp) : Fp := fpDecode 0 (sfn (rne 0) 3 (fpEncode (rne 0) a))

/-- The FP32 value 1. -/
def fpOne : Fp := .fin false 1 0

/-- A row's bytes with its values and its optimiser state replaced (R221, R229). -/
def rowBytes (t : List Word) (bs : List Byte) (w : List Fp) (st : List Fp) : List Byte :=
  let vals := w.flatMap (fun x => numBytes (edWidth t) (fpEncode (rne (edVfmt t)) x))
  let sts := st.flatMap (fun x => numBytes 4 (fpEncode (rne 0) x))
  vals ++ (bs.drop vals.length).take (edVoff t - vals.length) ++ sts ++ bs.drop (edVoff t + sts.length)

/-- The sum of Adagrad: the tree of R153 over the squares. -/
def squareSum (g : List Fp) : Fp :=
  let sq := g.map (fun x => fpEncode (rne 0) (rMul x x))
  match rdocTree 0 (rne 0) (sq.zipIdx.map (fun e => (e.2, [some e.1]))) with
  | some x :: _ => fpDecode 0 x
  | _ => .nan

/-- One optimiser step on a row: parameters lr, p1, p2, eps, c1, c2 and the summed gradient (R229). -/
def optStep (t : List Word) (p : List (BitVec 32)) (bs : List Byte) (g : List Fp) : List Byte :=
  let n := edD t
  let par : Nat → Fp := fun i => f32 (p.getD i 0)
  let w := (rowValues t bs).map f32
  let gi : Nat → Fp := fun i => g.getD i .nan
  let wi : Nat → Fp := fun i => w.getD i .nan
  let idx := List.range n
  match edOpt t with
  | 1 => rowBytes t bs (idx.map (fun i => rSub (wi i) (rMul (par 0) (gi i)))) []
  | 2 =>
    let m := idx.map (fun i => rAdd (rMul (par 1) (rowState t bs i)) (gi i))
    rowBytes t bs (idx.map (fun i => rSub (wi i) (rMul (par 0) (m.getD i .nan)))) m
  | 3 =>
    let a := rAdd (rowState t bs 0) (rDiv (squareSum (idx.map gi)) (roundFp32 (.fin false n 0)))
    let q := rRsqrt (rAdd a (par 3))
    rowBytes t bs (idx.map (fun i => rSub (wi i) (rMul (rMul (par 0) (gi i)) q))) [a]
  | 4 =>
    let m := idx.map (fun i => rAdd (rMul (par 1) (rowState t bs i)) (rMul (rSub fpOne (par 1)) (gi i)))
    let v := idx.map (fun i => rAdd (rMul (par 2) (rowState t bs (n + i))) (rMul (rMul (rSub fpOne (par 2)) (gi i)) (gi i)))
    rowBytes t bs (idx.map (fun i =>
      rSub (wi i) (rMul (par 0) (rDiv (rMul (m.getD i .nan) (par 4)) (rAdd (rSqrt (rMul (v.getD i .nan) (par 5))) (par 3)))))) (m ++ v)
  | _ => bs

/-! ## Commands: faults, ends and answers (R226) -/

/-- Command with number id at the engine of die c changed. -/
def modEmbId (d : Data) (c id : Nat) (h : EmbCmd → EmbCmd) : Data :=
  modEmb d c (fun e => { e with cmds := e.cmds.map (fun x => if x.id = id then h x else x) })

/-- Command number id of the engine of die c. -/
def embById (d : Data) (c id : Nat) : Option EmbCmd := (getEmb d c).cmds.find? (fun x => x.id == id)

/-- Command at index i. -/
def embAt (d : Data) (c i : Nat) : Option EmbCmd := (getEmb d c).cmds[i]?

/-- An item is bad; it is counted once (R226). -/
def markBad (x : EmbCmd) (pos : Nat) : EmbCmd := if x.bad.contains pos then x else { x with bad := pos :: x.bad }

/-- A fault after which a command stops, to go on after service: of translation (R226), or of UALink (R289). -/
def embStops (fc : Nat × Nat) : Bool := fc.1 == 5 || fc.1 == 6 || fc == (0x10, 0x50) || fc == (0x10, 0x51)

/-- A fault of the engine of die h meets command x of die c at a position (R226): it stops the command with a STOP record, or
writes one END record and ends it. A command that an earlier refusal has ended gets no further record. -/
def embFault (d : Data) (c h : Nat) (x : EmbCmd) (pos : Nat) (e : Bool × Nat × Nat × Nat) : Data :=
  if ((embById d c x.id).bind (fun y => y.failAt)).isSome then d
  else
    let stops := embStops e.2.2
    let r := { recZero with kind := if stops then 1 else 2, cls := e.2.2.1, cause := e.2.2.2, utype := 4, tag := x.tag.toNat,
                            mid := 0xB0 + h, wr := e.1, addr := e.2.1, d0 := if stops then w64 pos else 0 }
    engineRec (modEmbId d c x.id (fun x => if stops then { x with stopped := some h } else { x with failAt := some pos }))
      h (dieCount d h 8) x.owner r

/-! ## Messages between engines (R228, R288, R289) -/

/-- The request of a message to the engine of number e from the engine of die c needs right: none, or its refusal. One to
another die of this module is checked at that engine's table, one to another module at its station (R288, R289, R293). -/
def embLink (d : Data) (c e right : Nat) : Option (Nat × Nat) :=
  if engLocal d e then
    if e % 4 = c ∨ aclOk d (34 + e % 4) (0xB0 + c) right 0 1 = true then none else some (7, right)
  else
    match stationFor d (e / 4) 0 with
    | none => some (0x10, 0x50)
    | some s =>
      if ! stationUp d s then some (0x10, 0x51)
      else if aclOk d (48 + s) (0xB0 + c) right (e / 4 * 4096) 1 then none
      else some (7, right)

/-- The station a message to the engine of number e leaves by; 12, no station's number, while none reaches its module (log
entry 174). -/
def embStation (d : Data) (e : Nat) : Nat := (stationFor d (e / 4) 0).getD 12

/-- A message to another module's engine. -/
def embSend (d : Data) (e : Nat) (m : EmbMsg) : Data := { d with embSent := (e, embStation d e, m) :: d.embSent }

/-- A message to an engine's inbox, here or at another module. -/
def embPost (d : Data) (e : Nat) (m : EmbMsg) : Data :=
  if engLocal d e then modEmb d (e % 4) (fun x => { x with inbox := x.inbox ++ [m] }) else embSend d e m

/-- What was refused to a command elsewhere: whether the access was a write, its address, and the fault's class and cause
(R268). -/
abbrev Refused := Option (Bool × Nat × Nat × Nat)

/-- An item of command id at die c has come to its end: bad, refused, or done. An EPIN's item whose request has stopped the
command is done again when it goes on; the contribution of an EUPD stays at its row's home. -/
def itemEnd (d : Data) (c id row pos : Nat) (bad : Bool) (refused : Refused) : Data :=
  match embById d c id with
  | none => d
  | some x =>
    let y := { (if bad then markBad x pos else x) with waiting := x.waiting.erase (row, pos) }
    match refused with
    | none => modEmbId d c id (fun _ => y)
    | some e =>
      let z := if ! embStops e.2.2 then y
        else if x.op = 2 then x
        else { y with redo := y.redo ++ [(row, pos)] }
      embFault (modEmbId d c id (fun _ => z)) c c z (if x.n = 0 then 0 else pos) e

/-- A contribution's end reaches the engine that sent it (R228). -/
def contribEnd (d : Data) (e id row : Nat) (bad : Bool) (refused : Refused) : Data :=
  if engLocal d e then
    match (embById d (e % 4) id).bind (fun x => x.waiting.find? (fun w => w.1 == row)) with
    | none => d
    | some w => itemEnd d (e % 4) id row w.2 bad refused
  else embSend d e (.outcome id row bad refused)

/-! ## Steps at a home (R228, R229, R231) -/

/-- A step of a table at the engine of die c. -/
def stepFind (e : Emb) (tid step : Nat) : Option StepSt := e.steps.find? (fun s => edTid s.tab == tid && s.step == step)

/-- A step put among the steps, in ascending order of step number. -/
def stepIns (x : StepSt) : List StepSt → List StepSt
  | [] => [x]
  | y :: l => if x.step < y.step then x :: y :: l else y :: stepIns x l

/-- A step of a table changed; it exists from its first message on. -/
def stepMod (d : Data) (c : Nat) (t : List Word) (step : Nat) (h : StepSt → StepSt) : Data :=
  modEmb d c (fun e =>
    match stepFind e (edTid t) step with
    | some _ => { e with steps := e.steps.map (fun s => if edTid s.tab == edTid t && s.step == step then h s else s) }
    | none => { e with steps := stepIns (h { step := step, tab := t, closes := [], contribs := [], applied := [] }) e.steps })

/-- The migration in progress of a row. -/
def migrFind (e : Emb) (tid row : Nat) : Option Migr := e.migrating.find? (fun m => edTid m.tab == tid && m.row == row)

/-- The source of the closes that count for a row: its module itself, or the hash home that relays (R229). -/
def closeVia (e : Emb) (t : List Word) (row : Nat) : Nat := if holdsIn e (edTid t) row then 1 + hashHome t row else 0

/-- The step holds closes from all modules of the table, as they count for a row (R229). -/
def stepClosed (e : Emb) (s : StepSt) (row : Nat) : Bool :=
  (List.range (edNmod s.tab)).all (fun i => s.closes.contains (edMbase s.tab + i, closeVia e s.tab row))

/-- A row still waits for the marker behind its relayed contributions (R231). -/
def awaitsMarker (e : Emb) (tid row : Nat) : Bool := e.inRows.any (fun r => r.tid == tid && r.row == row && ! r.marker)

/-- A row's update in a step may be applied. -/
def rowReady (e : Emb) (s : StepSt) (row : Nat) : Bool :=
  ! s.applied.contains row && ! awaitsMarker e (edTid s.tab) row && stepClosed e s row

/-- The contributions of a step to a row, in ascending module number. -/
def contribsOf (s : StepSt) (row : Nat) : List Contrib :=
  sortBy (fun a b => decide (a.module ≤ b.module)) (s.contribs.filter (fun x => x.row == row))

/-- The sum of contributions, starting from the lowest module (R229). -/
def gradSum (n : Nat) : List Contrib → List Fp
  | [] => []
  | x :: l => l.foldl (fun acc y => (List.range n).map (fun i => rAdd (acc.getD i .nan) (f32 (y.g.getD i 0))))
      ((List.range n).map (fun i => f32 (x.g.getD i 0)))

/-- The step's end reaches every contributor to a row. -/
def stepEnds (d : Data) (xs : List Contrib) (bad : Bool) (refused : Refused) : Data :=
  xs.foldl (fun d x => contribEnd d x.engine x.id x.row bad refused) d

/-- A record of the engine of die c for its own work on a row, for the TP of a contributing command of this module where there
is one. -/
def homeRec (d : Data) (c : Nat) (xs : List Contrib) (row kind : Nat) (e : Bool × Nat × Nat × Nat) : Data :=
  let x := xs.findSome? (fun x => if engLocal d x.engine then embById d (x.engine % 4) x.id else none)
  let pos := (x.bind (fun x => x.waiting.find? (fun w => w.1 == row))).elim 0 (fun w => w.2)
  engineRec d c (dieCount d c 8) ((x.map (fun x => x.owner)).getD ⟨2 ^ 16, 0⟩)
    { recZero with kind := kind, cls := e.2.2.1, cause := e.2.2.2, utype := 4, tag := (x.map (fun x => x.tag.toNat)).getD 0,
                   mid := 0xB0 + c, wr := e.1, addr := e.2.1, d0 := if kind = 1 then w64 pos else 0 }

/-- Updates at the engine of die c meet a translation fault: it stops them with a STOP record. -/
def stepFault (d : Data) (c : Nat) (xs : List Contrib) (row : Nat) (e : Bool × Nat × Nat × Nat) : Data :=
  homeRec (modEmb d c (fun m => { m with stopped := true })) c xs row 1 e

/-- Apply a step to a row (R229): poisoned row data stays poisoned and the item is bad (R282). -/
def stepApply (d : Data) (c : Nat) (s : StepSt) (row : Nat) : Data :=
  let xs := contribsOf s row
  let done : Data → Data := fun d => stepMod d c s.tab s.step (fun s => { s with applied := row :: s.applied })
  let fail : Data → Bool × Nat × Nat × Nat → Data := fun d e =>
    if embStops e.2.2 then stepFault d c xs row e else stepEnds (done d) xs false (some e)
  match rowGet d c s.tab row with
  | (d, .error e) => fail d e
  | (d, .ok (bs, psn)) =>
    match rowPut d c s.tab row (optStep s.tab ((xs.map (fun x => x.p)).headD []) bs (gradSum (edD s.tab) xs)) psn with
    | (d, .error e) => fail d e
    | (d, .ok _) => stepEnds (done d) xs psn none

/-- Rows of a step with contributions, ascending. -/
def stepRows (s : StepSt) : List Nat := (s.contribs.map (fun x => x.row)).foldl (fun l x => keyIns x l) []

/-- The engine of die c does no update: a fault has stopped it, or it holds a record the mailbox has not accepted (R23). -/
def engStill (d : Data) (c : Nat) : Bool := (getEmb d c).stopped || unitHeld d 4 c 0

/-- Apply what the closes allow, steps in ascending number (R229); nothing while the engine's updates stand still. -/
def applyReady (d : Data) (c tid : Nat) : Data :=
  ((getEmb d c).steps.filter (fun s => edTid s.tab == tid)).foldl (fun d s =>
    (stepRows s).foldl (fun d row =>
      match stepFind (getEmb d c) tid s.step with
      | none => d
      | some s => if ! engStill d c && rowReady (getEmb d c) s row then stepApply d c s row else d) d) d

/-- Tables with steps at an engine. -/
def stepTables (e : Emb) : List Nat := (e.steps.map (fun s => edTid s.tab)).foldl (fun l x => keyIns x l) []

/-- A TP of a launch waits for updates of the engine of die c. -/
def stepServes (d : Data) (c lid : Nat) : Bool :=
  (getEmb d c).steps.any (fun s => s.contribs.any (fun x => ! s.applied.contains x.row && engLocal d x.engine &&
    (embById d (x.engine % 4) x.id).any (fun y => y.owner.lid == lid)))

/-- A contribution enters its step at the row's home; a second one of a module to a row, or one to a row the step has been
applied to, is discarded and bad (R228, R229). -/
def contribEnter (d : Data) (c : Nat) (t : List Word) (step : Nat) (x : Contrib) : Data :=
  let dup := (stepFind (getEmb d c) (edTid t) step).any (fun s =>
    s.applied.contains x.row || s.contribs.any (fun y => y.module == x.module && y.row == x.row))
  if dup then contribEnd d x.engine x.id x.row true none
  else applyReady (stepMod d c t step (fun s => { s with contribs := s.contribs ++ [x] })) c (edTid t)

/-- A contribution reaches the engine of die c: relayed where the row has its home elsewhere, held while the row migrates
and the step holds none for it, else entered (R228, R231). -/
def contribArrive (d : Data) (c : Nat) (t : List Word) (step : Nat) (x : Contrib) : Data :=
  let here := engHere d c
  let e := getEmb d c
  let msg : EmbMsg := .contribution here t step x.module x.row x.g x.p x.engine x.id
  match dirFind e (edTid t) x.row with
  | some far => embPost d far msg
  | none =>
    if hashHome t x.row ≠ here ∧ holdsIn e (edTid t) x.row = false then embPost d (hashHome t x.row) msg
    else if (migrFind e (edTid t) x.row).isSome &&
        ! (stepFind e (edTid t) step).any (fun s => s.contribs.any (fun y => y.row == x.row)) then
      modEmb d c (fun e => { e with migrating := e.migrating.map (fun m =>
        if edTid m.tab == edTid t && m.row == x.row then { m with heldMsgs := m.heldMsgs ++ [msg] } else m) })
    else contribEnter d c t step x

/-- The engine a message comes from. -/
def msgSrc : EmbMsg → Nat
  | .contribution src _ _ _ _ _ _ _ _ => src
  | .close src _ _ _ _ => src
  | .relayEnd src _ _ => src
  | .outcome _ _ _ _ => 0
  | .lookUp _ _ _ _ _ => 0
  | .rowValue _ _ _ _ _ => 0
  | .action _ _ _ _ _ _ _ => 0
  | .acted _ _ _ _ => 0
  | .rowCopy src _ _ _ _ _ => src
  | .rowTaken _ _ => 0

/-- Message i of an inbox, where no earlier message of the same engine is in front of it. -/
def inboxAt (e : Emb) (i : Nat) : Option EmbMsg :=
  match e.inbox[i]? with
  | none => none
  | some m => if (e.inbox.take i).any (fun x => msgSrc x == msgSrc m) then none else some m

/-- Message i leaves the inbox. -/
def inboxDrop (d : Data) (c i : Nat) : Data := modEmb d c (fun e => { e with inbox := dropIdx e.inbox i })

/-- EUPD_CONTRIBUTION (R228, R231). -/
def execEupdContribution (die i : Nat) (s : State) : Host.Outcome State Fault Refusal :=
  nextD s (fun d =>
    match inboxAt (getEmb d die) i with
    | some (.contribution _ t step module row g p engine id) =>
      contribArrive (inboxDrop d die i) die t step { module := module, row := row, g := g, p := p, engine := engine, id := id }
    | _ => d)

/-- A close reaches the engine of die c; one that its module sent is relayed to each engine that holds rows of the table
migrated out of here (R231). -/
def closeArrive (d : Data) (c : Nat) (src : Nat) (t : List Word) (step module : Nat) (relayed : Bool) : Data :=
  let key := (module, if relayed then 1 + src else 0)
  let d := stepMod d c t step (fun s => if s.closes.contains key then s else { s with closes := key :: s.closes })
  let far := if relayed then [] else
    (((getEmb d c).dir.filter (fun x => x.1 == edTid t)).map (fun x => x.2.2)).eraseDups
  applyReady (far.foldl (fun d e => embPost d e (.close (engHere d c) t step module true)) d) c (edTid t)

/-- EUPD_CLOSE (R228, R229). -/
def execEupdClose (die i : Nat) (s : State) : Host.Outcome State Fault Refusal :=
  nextD s (fun d =>
    match inboxAt (getEmb d die) i with
    | some (.close src t step module relayed) => closeArrive (inboxDrop d die i) die src t step module relayed
    | _ => d)

/-- The marker reaches a row's new home (R231). -/
def markerArrive (d : Data) (c tid row : Nat) : Data :=
  let marked : List InRow → List InRow := fun l =>
    (l.map (fun r => if r.tid = tid ∧ r.row = row then { r with marker := true } else r)).filter
      (fun r => ! (r.tid == tid && r.row == row && r.native))
  applyReady (modEmb d c (fun e => { e with inRows := marked e.inRows })) c tid

/-- RELAY_END (R231). -/
def execRelayEnd (die i : Nat) (s : State) : Host.Outcome State Fault Refusal :=
  nextD s (fun d =>
    match inboxAt (getEmb d die) i with
    | some (.relayEnd _ tid row) => markerArrive (inboxDrop d die i) die tid row
    | _ => d)

/-! ## Migration (R231) -/

/-- Steps applied to a row at an engine: with the row goes the record of what has been contributed to it (R228). -/
def stepsApplied (e : Emb) (tid row : Nat) : List Nat :=
  (e.steps.filter (fun s => edTid s.tab == tid && s.applied.contains row)).map (fun s => s.step)

/-- That record at the row's new home. -/
def appliedIn (d : Data) (c : Nat) (t : List Word) (row : Nat) (steps : List Nat) : Data :=
  steps.foldl (fun d n => stepMod d c t n (fun s => if s.applied.contains row then s else { s with applied := row :: s.applied })) d

/-- The copy takes ways of its set; a set whose pinned ways are used up takes it in storage. -/
def copyKeep (d : Data) (c : Nat) (t : List Word) (row : Nat) (bs : List Byte) (psn dirty pinned : Bool) : Data × RowAcc Unit :=
  if (if pinned then 12 else 16) < waysPinned (getEmb d c) (morSet t row) + morWays t then
    if dirty then storeWrite d c t row bs psn else (d, .ok ())
  else match evictFor (ageSet d c (morSet t row)) c (morSet t row) (morWays t) 16 with
    | (d, .ok _) => (unitInsert d c t row bs psn dirty pinned, .ok ())
    | (d, .error e) => (d, .error e)

/-- The copy's place: where its new home is its hash home the row goes to storage first (R231). -/
def copyPlace (d : Data) (c : Nat) (t : List Word) (row : Nat) (bs : List Byte) (psn dirty pinned : Bool) : Data × RowAcc Unit :=
  if hashHome t row = engHere d c ∧ dirty = true then
    match storeWrite d c t row bs psn with
    | (d, .ok _) => copyKeep d c t row bs psn false pinned
    | (d, .error e) => (d, .error e)
  else copyKeep d c t row bs psn dirty pinned

/-- A copy that could not be placed waits at its new home as a unit that has no ways yet, and the engine's updates stop with a
STOP record until a RETRY (log entry 153). -/
def copyWait (d : Data) (c : Nat) (t : List Word) (row : Nat) (bs : List Byte) (psn dirty pinned : Bool) (e : Bool × Nat × Nat × Nat) : Data :=
  stepFault (modEmb (unitDrop d c t row) c (fun x => { x with units := x.units ++
    [{ set := morSet t row, tab := t, row := row, ways := [], count := 1, dirty := dirty, pinned := pinned, bytes := bs, psn := psn }] })) c [] row e

/-- The copy is placed, or waits. -/
def copyPut (d : Data) (c : Nat) (t : List Word) (row : Nat) (bs : List Byte) (psn dirty pinned : Bool) : Data :=
  match copyPlace (unitDrop d c t row) c t row bs psn dirty pinned with
  | (d, .ok _) => d
  | (d, .error e) => copyWait d c t row bs psn dirty pinned e

/-- A row's copy enters its new home, and the steps applied to it are noted; where that is its hash home the directory entry
turns native (R231). A home of another module is told. -/
def copyIn (d : Data) (c src : Nat) (t : List Word) (row : Nat) (bs : List Byte) (psn : Bool) (steps : List Nat) : Data :=
  let native := hashHome t row == engHere d c
  let same : InRow → Bool := fun r => r.tid == edTid t && r.row == row
  let d := modEmb (appliedIn d c t row steps) c (fun e => { e with
    inRows := e.inRows.filter (fun r => ! same r) ++ [{ tid := edTid t, row := row, marker := false, native := native }],
    dir := if native then e.dir.filter (fun x => ! (x.1 == edTid t && x.2.1 == row)) else e.dir })
  let d := copyPut d c t row bs psn true true
  if engLocal d src then d else embSend d src (.rowTaken (edTid t) row)

/-- Copies that wait at the engine of die c take their places, up to one that meets a fault. -/
def copiesRetry (d : Data) (c : Nat) : Data :=
  ((getEmb d c).units.filter (fun u => u.ways.isEmpty)).foldl (fun d u =>
    if (getEmb d c).stopped then d else copyPut d c u.tab u.row u.bytes u.psn u.dirty u.pinned) d

/-- The waiting copies and the updates of the engine of die c go on, unless it stands still. -/
def stepsGo (d : Data) (c : Nat) : Data :=
  if engStill d c then d
  else
    let d := copiesRetry d c
    (stepTables (getEmb d c)).foldl (fun d t => applyReady d c t) d

/-- The engine of die c, which a fault had stopped, goes on (R271). -/
def stepRetry (d : Data) (c : Nat) : Data :=
  if (getEmb d c).stopped then stepsGo (modEmb d c (fun e => { e with stopped := false })) c else d

/-- No step with a contribution for the row is still to be applied at the engine. -/
def rowQuiet (e : Emb) (tid row : Nat) : Bool :=
  ! e.steps.any (fun s => edTid s.tab == tid && s.contribs.any (fun x => x.row == row) && ! s.applied.contains row)

/-- An action's end reaches the engine that asked. -/
def actionEnd (d : Data) (e id row pos : Nat) (bad : Bool) (refused : Refused) : Data :=
  if engLocal d e then itemEnd d (e % 4) id row pos bad refused else embSend d e (.acted id pos bad refused)

/-- What a row's old home sends its new one behind the copy: the closes its hash home holds, the contributions it has held,
and the marker. -/
def relayAll (d : Data) (c : Nat) (m : Migr) : Data :=
  let here := engHere d c
  let e := getEmb d c
  let closes := if hashHome m.tab m.row ≠ here then [] else
    (e.steps.filter (fun s => edTid s.tab == edTid m.tab)).flatMap (fun s =>
      (s.closes.filter (fun x => x.2 == 0)).map (fun x => EmbMsg.close here s.tab s.step x.1 true))
  (closes ++ m.heldMsgs ++ [EmbMsg.relayEnd here (edTid m.tab) m.row]).foldl (fun d x => embPost d m.target x) d

/-- Contributions to a row that stand in its old home's inbox, as that engine sends them on. -/
def inboxRow (here : Nat) (t : List Word) (row : Nat) (l : List EmbMsg) : List EmbMsg :=
  l.filterMap (fun m =>
    match m with
    | .contribution _ u step module r g p engine id =>
      if edTid u = edTid t ∧ r = row then some (.contribution here u step module r g p engine id) else none
    | _ => none)

/-- A contribution to that row. -/
def msgOfRow (t : List Word) (row : Nat) : EmbMsg → Bool
  | .contribution _ u _ _ r _ _ _ _ => edTid u == edTid t && r == row
  | _ => false

/-- The commit at a row's old home, whose copy its new home has: the hash home's directory flips, and the held contributions
follow, with those its hash home relayed that still stand in the inbox, and the marker (R231). -/
def commitMigr (d : Data) (c : Nat) (m : Migr) : Data :=
  let here := engHere d c
  let native := hashHome m.tab m.row == here
  let m := if native then m else { m with heldMsgs := m.heldMsgs ++ inboxRow here m.tab m.row (getEmb d c).inbox }
  let d := modEmb (unitDrop d c m.tab m.row) c (fun e => { e with
    migrating := e.migrating.filter (fun x => ! (edTid x.tab == edTid m.tab && x.row == m.row)),
    inbox := if native then e.inbox else e.inbox.filter (fun x => ! msgOfRow m.tab m.row x),
    inRows := e.inRows.filter (fun r => ! (r.tid == edTid m.tab && r.row == m.row)),
    dir := if native then e.dir ++ [(edTid m.tab, m.row, m.target)] else e.dir })
  actionEnd (relayAll d c m) m.engine m.id m.row m.pos false none

/-! ## EPIN actions at a home (R230, R231) -/

/-- The end of an action: bad or not, or a fault; none: the row is migrating and the action waits. -/
abbrev ActEnd := Option (RowAcc Bool)

/-- An action that writes back, and drops unpinned rows where it is INVAL. -/
def flushUnit (c act : Nat) (r : Data × RowAcc Unit) (u : MorUnit) : Data × RowAcc Unit :=
  match r with
  | (d, .error fc) => (d, .error fc)
  | (d, .ok _) =>
    match writeBack d c u with
    | (d, .error fc) => (d, .error fc)
    | (d, .ok _) => (if act = 5 ∧ u.pinned = false then unitDrop d c u.tab u.row else d, .ok ())

/-- FLUSH or INVAL of one row, or of every cached row of the table. -/
def flushRows (d : Data) (c act : Nat) (t : List Word) (row : Option Nat) : Data × RowAcc Unit :=
  ((getEmb d c).units.filter (fun u => edTid u.tab == edTid t && (row.isNone || row == some u.row))).foldl (flushUnit c act)
    (d, .ok ())

/-- PIN: load the row if absent, then pin it; bad when the set's pinned ways would exceed 12. -/
def pinRow (d : Data) (c : Nat) (t : List Word) (row : Nat) : Data × RowAcc Bool :=
  let pin : Data → Data := fun d => unitMod d c t row (fun u => { u with pinned := true })
  match unitFind (getEmb d c) t row with
  | some u =>
    if u.pinned then (d, .ok false)
    else if 12 < waysPinned (getEmb d c) u.set + (if u.ways.isEmpty then morWays t else u.ways.length) then (d, .ok true)
    else (pin d, .ok false)
  | none =>
    if 12 < waysPinned (getEmb d c) (morSet t row) + morWays t then (d, .ok true)
    else match rowLoad d c t row with
      | (d, .error fc) => (d, .error fc)
      | (d, .ok _) => (pin d, .ok false)

/-- MIGRATE of a row whose current home is the engine of die c: bad items, a row already there, or marked MIGRATING. Rows in
migration count towards the 4,096 (log entry 191). -/
def migrateStart (d : Data) (c : Nat) (t : List Word) (row target engine id pos : Nat) : Data × ActEnd :=
  let e := getEmb d c
  let here := engHere d c
  let home := hashHome t row
  if target / 4 < edMbase t ∨ edMbase t + edNmod t ≤ target / 4 then (d, some (.ok true))
  else if home ≠ here ∧ target ≠ home then (d, some (.ok true))
  else if target = here then (d, some (.ok false))
  else if home = here ∧ 4096 ≤ e.dir.length + (e.migrating.filter (fun m => hashHome m.tab m.row == here)).length then (d, some (.ok true))
  else (modEmb d c (fun e => { e with migrating := e.migrating ++
    [{ tab := t, row := row, target := target, engine := engine, id := id, pos := pos, heldMsgs := [], heldActs := [], sent := false }] }), none)

/-- A MIGRATE of a row waits at its home: the row is migrating, or an earlier row of the same command is (R231, R353). -/
def migrWaits (e : Emb) (tid row engine id : Nat) : Bool :=
  (migrFind e tid row).isSome || e.migrating.any (fun m => m.engine == engine && m.id == id)

/-- An EPIN action on a row at its current home, the engine of die c. -/
def rowAct (d : Data) (c act : Nat) (t : List Word) (row target engine id pos : Nat) : Data × ActEnd :=
  match act with
  | 0 => ((pinRow d c t row).1, some (pinRow d c t row).2)
  | 1 =>
    if holdsIn (getEmb d c) (edTid t) row then (d, some (.ok true))
    else (unitMod d c t row (fun u => { u with pinned := false }), some (.ok false))
  | 2 =>
    (match unitFind (getEmb d c) t row with
      | some _ => (d, some (.ok false))
      | none =>
        match rowLoad d c t row with
        | (d, .ok _) => (d, some (.ok false))
        | (d, .error fc) => (d, some (.error fc)))
  | 3 => migrateStart d c t row target engine id pos
  | _ =>
    match flushRows d c act t (some row) with
    | (d, .ok _) => (d, some (.ok false))
    | (d, .error fc) => (d, some (.error fc))

/-- ACT of an EPIN. -/
def epAct (x : EmbCmd) : Nat := wb (dwAt x.block 2) 0 3
/-- K of an EPIN. -/
def epK (x : EmbCmd) : Nat := wb (dwAt x.block 2) 8 5
/-- The target engine of a MIGRATE. -/
def epTarget (x : EmbCmd) : Nat := 4 * wb (dwAt x.block 2) 16 16 + wb (dwAt x.block 2) 32 2

/-- A command of the engine of die c is running: it waits for nothing issued before it, nothing has stopped it, and the engine
holds no record the mailbox has not accepted (R23). -/
def embRuns (d : Data) (c : Nat) (x : EmbCmd) : Bool :=
  x.stopped.isNone && x.failAt.isNone && afterDone d x.owner x.after && ! unitHeld d 4 c 0

/-- Entry p of an index array (R225). -/
def readIdx (d : Data) (c : Nat) (w : Word) (p : Nat) : Data × Acc Nat := readAt d (reqEmb c) (placeOf w).1 ((placeOf w).2 + 4 * p) 4

/-- The next item is behind the command. -/
def itemNext (d : Data) (c id : Nat) (h : EmbCmd → EmbCmd) : Data := modEmbId d c id (fun x => h { x with pos := x.pos + 1 })

/-- The right an action's message needs at the engine it goes to: R for a prefetch, else W. -/
def actRight (act : Nat) : Nat := if act = 2 then 1 else 2

/-- The action of item pos on a row goes to its current home, here or at another module; next puts the item behind the
command. -/
def itemAct (d : Data) (c : Nat) (x : EmbCmd) (row pos : Nat) (next : Data → (EmbCmd → EmbCmd) → Data) : Data :=
  let home := rowHome d x.tab row
  match embLink d c home (actRight (epAct x)) with
  | some fc => embFault d c c x pos (epAct x != 2, rowAddr x.tab row, fc)
  | none =>
    if ! engLocal d home then
      next (embSend d home (.action (engHere d c) x.id pos x.tab (epAct x) (some row) (epTarget x)))
        (fun y => { y with waiting := y.waiting ++ [(row, pos)] })
    else if epAct x = 3 ∧ migrWaits (getEmb d (home % 4)) (edTid x.tab) row (engHere d c) x.id = true then d
    else
      match rowAct d (home % 4) (epAct x) x.tab row (epTarget x) (engHere d c) x.id pos with
      | (d, none) => next d (fun y => { y with waiting := y.waiting ++ [(row, pos)] })
      | (d, some (.ok bad)) => next d (fun y => if bad then markBad y pos else y)
      | (d, some (.error e)) => embFault d c (home % 4) x pos e

/-- The next item of an EPIN with IDX. -/
def epinItem (d : Data) (c : Nat) (x : EmbCmd) : Data :=
  match readIdx d c (dwAt x.block 1) x.pos with
  | (d, .error fc) => embFault d c c x x.pos (false, (placeOf (dwAt x.block 1)).2 + 4 * x.pos, fc)
  | (d, .ok row) =>
    if edNrows x.tab ≤ row then itemNext d c x.id (fun y => markBad y x.pos)
    else itemAct d c x row x.pos (fun d h => itemNext d c x.id h)

/-- An item whose request had stopped the command is done again (R226). -/
def epinRedo (d : Data) (c : Nat) (x : EmbCmd) (row pos : Nat) : Data :=
  itemAct d c x row pos (fun d h => modEmbId d c x.id (fun y => h { y with redo := y.redo.drop 1 }))

/-- The engines of a table's modules. -/
def tabEngines (t : List Word) : List Nat :=
  (List.range (edNmod t)).flatMap (fun i => (List.range 4).map (fun k => 4 * (edMbase t + i) + k))

/-- Those of other modules. -/
def farEngines (d : Data) (t : List Word) : List Nat := (tabEngines t).filter (fun e => ! engLocal d e)

/-- A FLUSH or INVAL of the whole table, at engine e of another module; its answer names place i of that engine. -/
def wholeSend (c : Nat) (x : EmbCmd) (d : Data) (e i : Nat) : Data :=
  embSend d e (.action (engHere d c) x.id i x.tab (epAct x) none 0)

/-- That request goes again after it had stopped the command (R226, R289). -/
def wholeRedo (d : Data) (c : Nat) (x : EmbCmd) (i : Nat) : Data :=
  let e := (farEngines d x.tab).getD i 0
  match embLink d c e 2 with
  | some fc => embFault d c c x 0 (true, edBase x.tab, fc)
  | none =>
    modEmbId (wholeSend c x d e i) c x.id (fun y => { y with redo := y.redo.drop 1, waiting := y.waiting ++ [(0, i)] })

/-- FLUSH or INVAL of the whole table at every engine of its modules (R231, R353). -/
def epinWhole (d : Data) (c : Nat) (x : EmbCmd) : Data :=
  let far := farEngines d x.tab
  match ((List.range 4).map (fun k => 4 * d.modid.toNat + k) ++ far).findSome? (fun e => embLink d c e 2) with
  | some fc => embFault d c c x x.pos (true, edBase x.tab, fc)
  | none =>
  match (List.range 4).foldl (fun r k =>
      match r with
      | (d, .error e) => (d, .error e)
      | (d, .ok _) =>
        match flushRows d k (epAct x) x.tab none with
        | (d, .ok _) => (d, .ok ())
        | (d, .error e) => (d, Except.error (k, e))) (d, (Except.ok () : Except (Nat × Bool × Nat × Nat × Nat) Unit)) with
  | (d, .error (k, e)) => embFault d c k x x.pos e
  | (d, .ok _) =>
    itemNext (far.zipIdx.foldl (fun d e => wholeSend c x d e.1 e.2) d) c x.id
      (fun y => { y with waiting := far.zipIdx.map (fun e => (0, e.2)) })

/-- The next step of the EPIN at index i of die c, where its action is act. -/
def epinStep (d : Data) (c i act : Nat) : Data :=
  match embAt d c i with
  | none => d
  | some x =>
    if x.op == 3 && epAct x == act && embRuns d c x then
      match x.redo with
      | (row, pos) :: _ => if x.n = 0 then wholeRedo d c x pos else epinRedo d c x row pos
      | [] =>
      if x.pos < x.n then epinItem d c x
      else if x.n = 0 ∧ x.pos = 0 then
        (if act = 6 then itemNext (modEmb d c (fun e => { e with k := epK x })) c x.id id
         else if act = 4 ∨ act = 5 then epinWhole d c x
         else itemNext d c x.id id)
      else d
    else d

/-- EPIN_PIN (R231). -/
def execEpinPin (die c : Nat) (s : State) : Host.Outcome State Fault Refusal := nextD s (fun d => epinStep d die c 0)
/-- EPIN_UNPIN (R231). -/
def execEpinUnpin (die c : Nat) (s : State) : Host.Outcome State Fault Refusal := nextD s (fun d => epinStep d die c 1)
/-- EPIN_PREFETCH (R231). -/
def execEpinPrefetch (die c : Nat) (s : State) : Host.Outcome State Fault Refusal := nextD s (fun d => epinStep d die c 2)
/-- EPIN_MIGRATE (R231). -/
def execEpinMigrate (die c : Nat) (s : State) : Host.Outcome State Fault Refusal := nextD s (fun d => epinStep d die c 3)
/-- EPIN_FLUSH (R231). -/
def execEpinFlush (die c : Nat) (s : State) : Host.Outcome State Fault Refusal := nextD s (fun d => epinStep d die c 4)
/-- EPIN_INVAL (R231). -/
def execEpinInval (die c : Nat) (s : State) : Host.Outcome State Fault Refusal := nextD s (fun d => epinStep d die c 5)
/-- EPIN_SETK (R231). -/
def execEpinSetk (die c : Nat) (s : State) : Host.Outcome State Fault Refusal := nextD s (fun d => epinStep d die c 6)

/-! ## EGAT (R227, R351) -/

/-- A bag's bounds, read with no other effect. -/
def bagPeek (d : Data) (c : Nat) (x : EmbCmd) (b : Nat) : Option (Nat × Nat) :=
  match (readIdx d c (dwAt x.block 3) b).2, (readIdx d c (dwAt x.block 3) (b + 1)).2 with
  | .ok lo, .ok hi => some (lo, hi)
  | _, _ => none

/-- A bag is malformed. -/
def bagBad (lo hi : Nat) : Bool := decide (hi < lo) || decide (1024 < hi - lo)

/-- Position p lies in a bag of the command that has not been pooled. -/
def posWanted (d : Data) (c : Nat) (x : EmbCmd) (p : Nat) : Option Nat :=
  (List.range x.n).find? (fun b => ! x.bags.contains b &&
    (bagPeek d c x b).any (fun r => ! bagBad r.1 r.2 && decide (r.1 ≤ p) && decide (p < r.2)))

/-- A look-up of the row at position p reaches its home (R222, R227). -/
def lookUpAt (d : Data) (c : Nat) (x : EmbCmd) (b p row : Nat) : Data :=
  let home := rowHome d x.tab row
  match embLink d c home 1 with
  | some fc => embFault d c c x b (false, rowAddr x.tab row, fc)
  | none =>
  if engLocal d home then
    match rowGet d (home % 4) x.tab row with
    | (d, .ok (bs, psn)) => modEmbId d c x.id (fun y => { y with rows := (p, rowValues y.tab bs, psn) :: y.rows })
    | (d, .error e) => embFault d c (home % 4) x b e
  else modEmbId (embSend d home (.lookUp (engHere d c) x.id p x.tab row)) c x.id (fun y => { y with asked := p :: y.asked })

/-- ROW_LOOK_UP (R222, R227, R230): the row at position p of the EGAT at index c of a die. -/
def execRowLookUp (die c p : Nat) (s : State) : Host.Outcome State Fault Refusal :=
  nextD s (fun d =>
    match embAt d die c with
    | none => d
    | some x =>
      if x.op == 1 && embRuns d die x && ! x.rows.any (fun r => r.1 == p) && ! x.asked.contains p then
        match posWanted d die x p with
        | none => d
        | some b =>
          match readIdx d die (dwAt x.block 1) p with
          | (d, .error fc) => embFault d die die x b (false, (placeOf (dwAt x.block 1)).2 + 4 * p, fc)
          | (d, .ok row) => if edNrows x.tab ≤ row then d else lookUpAt d die x b p row
      else d)

/-- The term of one position: none where its row has not been looked up; an absent term for a row the table lacks. -/
inductive Term where
  | missing
  | absent
  | row (w : Fp) (v : List (BitVec 32)) (psn : Bool)
  deriving DecidableEq, Repr

/-- Read the term of position p. -/
def bagTerm (d : Data) (c : Nat) (x : EmbCmd) (p : Nat) : Data × RowAcc Term :=
  match readIdx d c (dwAt x.block 1) p with
  | (d, .error fc) => (d, .error (false, (placeOf (dwAt x.block 1)).2 + 4 * p, fc))
  | (d, .ok row) =>
    if edNrows x.tab ≤ row then (d, .ok .absent)
    else match x.rows.find? (fun r => r.1 == p) with
      | none => (d, .ok .missing)
      | some r =>
        if dwAt x.block 2 = 0 then (d, .ok (.row fpOne r.2.1 r.2.2))
        else match readIdx d c (dwAt x.block 2) p with
          | (d, .error fc) => (d, .error (false, (placeOf (dwAt x.block 2)).2 + 4 * p, fc))
          | (d, .ok w) => (d, .ok (.row (fpDecode 0 w) r.2.1 r.2.2))

/-- Read the terms of n positions from p on. -/
def bagTerms (d : Data) (c : Nat) (x : EmbCmd) (p : Nat) : Nat → Data × RowAcc (List Term)
  | 0 => (d, .ok [])
  | n + 1 =>
    match bagTerm d c x p with
    | (d, .error e) => (d, .error e)
    | (d, .ok t) =>
      match bagTerms d c x (p + 1) n with
      | (d, .error e) => (d, .error e)
      | (d, .ok ts) => (d, .ok (t :: ts))

/-- The pooled sum, one rounding per term (R227). -/
def poolSum (n : Nat) (ts : List Term) : List Fp :=
  ts.foldl (fun acc t =>
    match t with
    | .row w v _ => (List.range n).map (fun i => roundFp32 (fpAdd 0 (acc.getD i .nan) (fpMul w (f32 (v.getD i 0)))))
    | _ => acc) (List.replicate n (.fin false 0 0))

/-- OFMT of an EGAT. -/
def egOfmt (x : EmbCmd) : Nat := wb (dwAt x.block 5) 20 4

/-- The bytes of an output row. -/
def outBytes (x : EmbCmd) (v : List Fp) : List Byte :=
  v.flatMap (fun a => numBytes (fmtBits (egOfmt x) / 8) (fpEncode (rne (egOfmt x)) a))

/-- Bag b is done: its row is written, and the rows it used are let go. -/
def bagWrite (d : Data) (c : Nat) (x : EmbCmd) (b : Nat) (v : List Fp) (bad psn : Bool) (used : Nat → Bool) : Data :=
  let a := (placeOf (dwAt x.block 4)).2 + 16 * wb (dwAt x.block 5) 0 20 * b
  let bs := outBytes x v
  match writeBytesAt d (reqEmb c) (placeOf (dwAt x.block 4)).1 psn (bs.length / 4096 + 2) a bs with
  | (d, .error e) => embFault d c c x b e
  | (d, .ok _) => modEmbId d c x.id (fun y =>
      { (if bad then markBad y b else y) with bags := b :: y.bags, rows := y.rows.filter (fun r => ! used r.1),
                                               asked := y.asked.filter (fun p => ! used p) })

/-- Bag b is formed once its rows have been looked up. -/
def bagForm (d : Data) (c : Nat) (x : EmbCmd) (b lo hi : Nat) : Data :=
  let n := edD x.tab
  if bagBad lo hi then bagWrite d c x b (List.replicate n .nan) true false (fun _ => false)
  else match bagTerms d c x lo (hi - lo) with
    | (d, .error e) => embFault d c c x b e
    | (d, .ok ts) =>
      if ts.any (fun t => t == .missing) then d
      else
        let psn := ts.any (fun t => match t with | .row _ _ p => p | _ => false)
        bagWrite d c x b (poolSum n ts) (psn || ts.any (fun t => t == .absent)) psn (fun p => decide (lo ≤ p) && decide (p < hi))

/-- EGAT_BAG (R227). -/
def execEgatBag (die c b : Nat) (s : State) : Host.Outcome State Fault Refusal :=
  nextD s (fun d =>
    match embAt d die c with
    | none => d
    | some x =>
      if x.op == 1 && embRuns d die x && decide (b < x.n) && ! x.bags.contains b then
        let ofs := dwAt x.block 3
        match readIdx d die ofs b with
        | (d, .error fc) => embFault d die die x b (false, (placeOf ofs).2 + 4 * b, fc)
        | (d, .ok lo) =>
          match readIdx d die ofs (b + 1) with
          | (d, .error fc) => embFault d die die x b (false, (placeOf ofs).2 + 4 * (b + 1), fc)
          | (d, .ok hi) => bagForm d die x b lo hi
      else d)

/-! ## EUPD (R228, R355) -/

/-- The vector of n FP32 words at an address. -/
def readVec (d : Data) (c : Nat) (p : Place) (a : Nat) : Nat → Data × Acc (List Fp)
  | 0 => (d, .ok [])
  | n + 1 =>
    match readAt d (reqEmb c) p a 4 with
    | (d, .error fc) => (d, .error fc)
    | (d, .ok x) =>
      match readVec d c p (a + 4) n with
      | (d, .error fc) => (d, .error fc)
      | (d, .ok xs) => (d, .ok (fpDecode 0 x :: xs))

/-- The pairs (row, position) of a batch from position p on; a fault names its position and address. -/
def batchRows (d : Data) (c : Nat) (x : EmbCmd) (p : Nat) : Nat → Data × Except (Nat × Nat × Nat × Nat) (List (Nat × Nat))
  | 0 => (d, .ok [])
  | n + 1 =>
    match readIdx d c (dwAt x.block 1) p with
    | (d, .error fc) => (d, .error (p, (placeOf (dwAt x.block 1)).2 + 4 * p, fc))
    | (d, .ok row) =>
      match batchRows d c x (p + 1) n with
      | (d, .error e) => (d, .error e)
      | (d, .ok l) => (d, .ok ((row, p) :: l))

/-- Gradients summed over a sorted batch, row by row in order of position: row, first position, sum (R228). A bad sum counts once in STATUS, at the
first position of its row (log entry 192). -/
def batchSums (d : Data) (c : Nat) (x : EmbCmd) (done : List (Nat × Nat × List Fp)) :
    List (Nat × Nat) → Data × Except (Nat × Nat × Nat × Nat) (List (Nat × Nat × List Fp))
  | [] => (d, .ok done.reverse)
  | (row, p) :: l =>
    let n := edD x.tab
    let a := (placeOf (dwAt x.block 2)).2 + 4 * n * p
    match readVec d c (placeOf (dwAt x.block 2)).1 a n with
    | (d, .error fc) => (d, .error (p, a, fc))
    | (d, .ok g) =>
      match done with
      | (r, q, s) :: ds =>
        if r = row then batchSums d c x ((r, q, (s.zip g).map (fun e => rAdd e.1 e.2)) :: ds) l
        else batchSums d c x ((row, p, g) :: done) l
      | [] => batchSums d c x [(row, p, g)] l

/-- The step parameters of a command block: lr, p1, p2, eps, c1, c2. -/
def upParams (x : EmbCmd) : List (BitVec 32) :=
  [3, 4, 5].flatMap (fun i => [BitVec.ofNat 32 (wb (dwAt x.block i) 0 32), BitVec.ofNat 32 (wb (dwAt x.block i) 32 32)])

/-- The step number T. -/
def upStep (x : EmbCmd) : Nat := wb (dwAt x.block 6) 0 32

/-- Row sums go to their hash homes, then a close to every engine of the table's modules (R228). -/
def sendSums (d : Data) (c : Nat) (x : EmbCmd) (sums : List (Nat × Nat × List Fp)) : Data :=
  let here := engHere d c
  let d := sums.foldl (fun d s => embPost d (hashHome x.tab s.1)
    (.contribution here x.tab (upStep x) d.modid.toNat s.1 (s.2.2.map to32) (upParams x) here x.id)) d
  (tabEngines x.tab).foldl (fun d e =>
    embPost d e (.close here x.tab (upStep x) d.modid.toNat false)) d

/-- EUPD_COALESCE (R228). -/
def execEupdCoalesce (die c : Nat) (s : State) : Host.Outcome State Fault Refusal :=
  nextD s (fun d =>
    match embAt d die c with
    | none => d
    | some x =>
      if x.op == 2 && embRuns d die x && ! x.coalesced then
        match batchRows d die x 0 x.n with
        | (d, .error (p, a, fc)) => embFault d die die x p (false, a, fc)
        | (d, .ok l) =>
          let good := sortBy (fun a b => decide (a.1 < b.1) || (a.1 == b.1 && decide (a.2 ≤ b.2)))
            (l.filter (fun e => decide (e.1 < edNrows x.tab)))
          match batchSums d die x [] good with
          | (d, .error (p, a, fc)) => embFault d die die x p (false, a, fc)
          | (d, .ok sums) =>
            match (tabEngines x.tab).findSome? (fun e => embLink d die e 3) with
            | some fc => embFault d die die x 0 (true, edBase x.tab, fc)
            | none =>
            let bad := (l.filter (fun e => decide (edNrows x.tab ≤ e.1))).map (fun e => e.2)
            sendSums (modEmbId d die x.id (fun y => { y with coalesced := true, bad := bad, waiting := sums.map (fun s => (s.1, s.2.1)) })) die x sums
      else d)

/-! ## Messages of other modules' engines -/

/-- A fault as it reaches another module: one of translation is a remote one (R264). -/
def farFault (e : Bool × Nat × Nat × Nat) : Bool × Nat × Nat × Nat :=
  if e.2.2.1 = 5 ∨ e.2.2.1 = 6 then (e.1, e.2.1, 5, 6) else e

/-- A look-up of another module reaches this one: served, or forwarded after a migration. -/
def farLookUp (d : Data) (engine id pos : Nat) (t : List Word) (row : Nat) : Data :=
  let home := rowHome d t row
  if ! engLocal d home then embSend d home (.lookUp engine id pos t row)
  else match rowGet d (home % 4) t row with
    | (d, .ok (bs, psn)) => embSend d engine (.rowValue id pos (rowValues t bs) psn none)
    | (d, .error e) => embSend d engine (.rowValue id pos [] false (some (farFault e)))

/-- The answer to an EPIN action of another module. -/
def farReply (d : Data) (engine id pos : Nat) (r : RowAcc Bool) : Data :=
  match r with
  | .ok bad => embSend d engine (.acted id pos bad none)
  | .error e => embSend d engine (.acted id pos false (some (farFault e)))

/-- An EPIN action of another module. One that migrates a row which is migrating already waits for that migration (R231), and
one behind an earlier row of its command for that row's (R353). -/
def farAction (d : Data) (c engine id pos : Nat) (t : List Word) (act : Nat) (row : Option Nat) (target : Nat) : Data :=
  match row with
  | none =>
    (match flushRows d c act t none with
      | (d, .ok _) => farReply d engine id pos (.ok false)
      | (d, .error e) => farReply d engine id pos (.error e))
  | some r =>
    let home := rowHome d t r
    if ! engLocal d home then embSend d home (.action engine id pos t act row target)
    else if act = 3 ∧ migrWaits (getEmb d (home % 4)) (edTid t) r engine id = true then
      modEmb d (home % 4) (fun e => { e with migrating := e.migrating.map (fun m =>
        if (edTid m.tab == edTid t && m.row == r) ||
            ((migrFind e (edTid t) r).isNone && m.engine == engine && m.id == id) then { m with heldActs := m.heldActs ++ [.action engine id pos t act row target] } else m) })
    else match rowAct d (home % 4) act t r target engine id pos with
      | (d, none) => d
      | (d, some x) => farReply d engine id pos x

/-- Actions that waited for a migration go on. -/
def actsResume (d : Data) (c : Nat) (l : List EmbMsg) : Data :=
  l.foldl (fun d m =>
    match m with
    | .action engine id pos t act row target => farAction d c engine id pos t act row target
    | _ => d) d

/-- Contributions held for a row that stays where it is enter there. -/
def heldResume (d : Data) (c : Nat) (l : List EmbMsg) : Data :=
  l.foldl (fun d m =>
    match m with
    | .contribution _ t step module row g p engine id =>
      contribArrive d c t step { module := module, row := row, g := g, p := p, engine := engine, id := id }
    | _ => d) d

/-- A migration ends with the row still here, as its copy could not be read or does not reach the new home: the action is
refused, and what the migration held goes on (R226, R231). -/
def migrFails (d : Data) (c : Nat) (m : Migr) (e : Bool × Nat × Nat × Nat) : Data :=
  let d := modEmb d c (fun x => { x with
    migrating := x.migrating.filter (fun y => ! (edTid y.tab == edTid m.tab && y.row == m.row)) })
  actsResume (heldResume (actionEnd d m.engine m.id m.row m.pos false (some e)) c m.heldMsgs) c m.heldActs

/-- The row's new home has its copy: the commit, and the actions that waited go on. -/
def migrDone (d : Data) (c : Nat) (m : Migr) : Data := actsResume (commitMigr d c m) c m.heldActs

/-- The copy of a migrating row goes to its new home: at an engine of this module the commit is part of the same step; another
module's answers first (log entry 178). -/
def migrSend (d : Data) (c : Nat) (m : Migr) (bs : List Byte) (psn : Bool) : Data :=
  let here := engHere d c
  let steps := stepsApplied (getEmb d c) (edTid m.tab) m.row
  match embLink d c m.target 2 with
  | some fc => migrFails d c m (true, rowAddr m.tab m.row, fc)
  | none =>
    if engLocal d m.target then migrDone (copyIn d (m.target % 4) here m.tab m.row bs psn steps) c m
    else
      modEmb (embSend d m.target (.rowCopy here m.tab m.row bs psn steps)) c (fun e => { e with
        migrating := e.migrating.map (fun x => if edTid x.tab == edTid m.tab && x.row == m.row then { x with sent := true } else x) })

/-- The answer of a row's new home reaches the engine that sent the copy: it is there, or has been refused (R293). -/
def migrAnswer (d : Data) (c tid row : Nat) (taken : Bool) : Data :=
  match migrFind (getEmb d c) tid row with
  | none => d
  | some m =>
    if ! m.sent then d
    else if taken then migrDone d c m
    else migrFails d c m (true, rowAddr m.tab row, 7, 2)

/-- MIGRATE_COMMIT (R231): the row's copy leaves its old home once no step of the row is pending there, and no marker awaited. -/
def execMigrateCommit (die tid row : Nat) (s : State) : Host.Outcome State Fault Refusal :=
  nextD s (fun d =>
    match migrFind (getEmb d die) tid row with
    | none => d
    | some m =>
      if rowQuiet (getEmb d die) tid row && ! awaitsMarker (getEmb d die) tid row && ! engStill d die && ! m.sent then
        match unitFind (getEmb d die) m.tab row with
        | some u => migrSend d die m u.bytes u.psn
        | none =>
          match storeRead d die m.tab row with
          | (d, .ok (bs, psn)) => migrSend d die m bs psn
          | (d, .error e) =>
            if embStops e.2.2 then stepFault d die [] row e else migrFails d die m e
      else d)

/-- The row at position pos of an EGAT, read with no other effect. -/
def askedRow (d : Data) (c : Nat) (x : EmbCmd) (pos : Nat) : Nat :=
  match (readIdx d c (dwAt x.block 1) pos).2 with
  | .ok row => row
  | .error _ => 0

/-- The row asked for at position pos of an EGAT is refused by another module: the command takes the fault, and asks again where
it goes on (R226). -/
def askFails (d : Data) (c : Nat) (x : EmbCmd) (pos : Nat) (e : Bool × Nat × Nat × Nat) : Data :=
  embFault (modEmbId d c x.id (fun y => { y with asked := y.asked.erase pos })) c c x ((posWanted d c x pos).getD 0) e

/-- A message from another module reaches the engine of die c (R228, R231, R286). -/
def embArrive (d : Data) (c : Nat) (m : EmbMsg) : Data :=
  match m with
  | .contribution _ _ _ _ _ _ _ _ _ => modEmb d c (fun e => { e with inbox := e.inbox ++ [m] })
  | .close _ _ _ _ _ => modEmb d c (fun e => { e with inbox := e.inbox ++ [m] })
  | .relayEnd _ _ _ => modEmb d c (fun e => { e with inbox := e.inbox ++ [m] })
  | .outcome id row bad refused => contribEnd d (engHere d c) id row bad refused
  | .lookUp engine id pos t row => farLookUp d engine id pos t row
  | .rowValue id pos v psn refused =>
    (match embById d c id with
      | none => d
      | some x =>
        if x.asked.contains pos then
          match refused with
          | none => modEmbId d c id (fun y => { y with asked := y.asked.erase pos, rows := (pos, v, psn) :: y.rows })
          | some e => askFails d c x pos e
        else d)
  | .action engine id pos t act row target => farAction d c engine id pos t act row target
  | .acted id pos bad refused =>
    (match (embById d c id).bind (fun x => x.waiting.find? (fun w => w.2 == pos)) with
      | none => d
      | some w => itemEnd d c id w.1 pos bad refused)
  | .rowCopy src t row bs psn steps =>
    if src = engHere d c then migrAnswer d c (edTid t) row false else copyIn d c src t row bs psn steps
  | .rowTaken tid row => migrAnswer d c tid row true

/-- The right a message needs at the engine it reaches (log entry 155): A for what adds to a step, R for a look-up, W for a row, an
action's own right; none for an answer, nor for the marker behind a copy that has been taken. -/
def msgRight : EmbMsg → Option Nat
  | .contribution _ _ _ _ _ _ _ _ _ => some 3
  | .close _ _ _ _ _ => some 3
  | .relayEnd _ _ _ => none
  | .outcome _ _ _ _ => none
  | .lookUp _ _ _ _ _ => some 1
  | .rowValue _ _ _ _ _ => none
  | .action _ _ _ _ act _ _ => some (actRight act)
  | .acted _ _ _ _ => none
  | .rowCopy _ _ _ _ _ _ => some 2
  | .rowTaken _ _ => none

/-- A message refused at the engine it reaches changes nothing there, and its sender is told where it waits (R293). A row's copy
goes back to the engine that sent it, which still has the row (log entry 176). -/
def embRefused (d : Data) (m : EmbMsg) (right : Nat) : Data :=
  match m with
  | .contribution _ t _ _ row _ _ engine id => contribEnd d engine id row false (some (true, rowAddr t row, 7, right))
  | .lookUp engine id pos t row => embSend d engine (.rowValue id pos [] false (some (false, rowAddr t row, 7, right)))
  | .action engine id pos t _ row _ =>
    embSend d engine (.acted id pos false (some (right != 1, row.elim (edBase t) (rowAddr t), 7, right)))
  | .rowCopy src _ _ _ _ _ => embSend d src m
  | _ => d

/-- A copy that this engine sent comes back to it. -/
def msgReturns (e : Nat) : EmbMsg → Bool
  | .rowCopy src _ _ _ _ _ => src == e
  | _ => false

/-- A message from another module by station s reaches the engine of die c, which checks the station's right to it (R288, R293);
what comes back to its sender is an answer, and needs none. -/
def embInbound (d : Data) (s c : Nat) (m : EmbMsg) : Data :=
  match if msgReturns (engHere d c) m then none else msgRight m with
  | none => embArrive d c m
  | some right => if aclOk d (34 + c) (0xE0 + s) right 0 1 then embArrive d c m else embRefused d m right

/-! ## Requests UALink cannot deliver (R289) -/

/-- The row number that stands for a command's closes among the items to be done again. -/
def closeRow : Nat := 2 ^ 32

/-- The command stops at position pos for a request of UALink, and item w is done again where it goes on. -/
def engineStop (d : Data) (c : Nat) (x : EmbCmd) (w : Nat × Nat) (pos : Nat) (fc : Nat × Nat) : Data :=
  embFault (modEmbId d c x.id (fun y => { y with redo := y.redo ++ [w] })) c c x pos (true, edBase x.tab, fc)

/-- The copy of a row that the migration m of die c has sent does not arrive: the row stays (R226, R289). -/
def copyLost (d : Data) (c : Nat) (m : Migr) (fc : Nat × Nat) : Data := migrFails d c m (true, rowAddr m.tab m.row, fc)

/-- The migration, at a die of this module, that item p of command id of engine e waits for and whose copy has been sent. -/
def sentMigr (d : Data) (e id p : Nat) : Option (Nat × Migr) :=
  (List.range 4).findSome? (fun k =>
    ((getEmb d k).migrating.find? (fun m => m.sent && m.engine == e && m.id == id && m.pos == p)).map (fun m => (k, m)))

/-- The request for item p of command x of die c ends with a fault of UALink: the command stops, and where it goes on the request
is made again. An EUPD's item is a contribution to a row of another module, or else its closes; a MIGRATE's may be the row's copy. -/
def engineLost (d : Data) (c : Nat) (x : EmbCmd) (p : Nat) (fc : Nat × Nat) : Data :=
  match x.op with
  | 1 => if x.asked.contains p then askFails d c x p (false, rowAddr x.tab (askedRow d c x p), fc) else d
  | 2 =>
    (match x.waiting.find? (fun w => w.2 == p && ! engLocal d (hashHome x.tab w.1)) with
      | some w => engineStop d c x w p fc
      | none => if x.coalesced && ! (farEngines d x.tab).isEmpty then engineStop d c x (closeRow, p) 0 fc else d)
  | _ =>
    match x.waiting.find? (fun w => w.2 == p && (x.n == 0 || ! engLocal d (rowHome d x.tab w.1))) with
    | some w => itemEnd d c x.id w.1 p false (some (epAct x != 2, if x.n = 0 then edBase x.tab else rowAddr x.tab w.1, fc))
    | none =>
      match sentMigr d (engHere d c) x.id p with
      | some (k, m) => copyLost d k m fc
      | none => d

/-- The module an item of a command has its request at; an EUPD's closes go to every module of its table. -/
def itemModule (d : Data) (c : Nat) (x : EmbCmd) (w : Nat × Nat) : Nat :=
  (match x.op with
    | 1 => rowHome d x.tab (askedRow d c x w.2)
    | 2 => hashHome x.tab w.1
    | _ => if x.n = 0 then (farEngines d x.tab).getD w.2 0 else rowHome d x.tab w.1) / 4

/-- The items of a command whose requests are at module m. -/
def itemsAt (d : Data) (c m : Nat) (x : EmbCmd) : List (Nat × Nat) :=
  let l := (if x.op = 1 then x.asked.map (fun p => (0, p)) else x.waiting).filter (fun w => itemModule d c x w == m)
  let closes := x.op == 2 && x.coalesced && ! x.waiting.isEmpty && (farEngines d x.tab).any (fun e => e / 4 == m)
  if l.isEmpty && closes then [(closeRow, 0)] else l

/-- No station reaches module m any more: a command of die c with requests there stops with ENGINE 0x50 at the first of them, and
makes them again where it goes on (R289). -/
def moduleLost (c m : Nat) (d : Data) (x : EmbCmd) : Data :=
  match itemsAt d c m x with
  | [] => d
  | w :: l =>
    if x.stopped.isSome || x.failAt.isSome then d
    else
      let all := w :: l
      let y := if x.op = 1 then { x with asked := x.asked.filter (fun p => ! all.contains (0, p)) }
        else if x.op = 2 then { x with redo := x.redo ++ all }
        else { x with redo := x.redo ++ all, waiting := x.waiting.filter (fun v => ! all.contains v) }
      let pos := if x.op = 1 then (posWanted d c x w.2).getD 0 else if x.n = 0 then 0 else w.2
      embFault (modEmbId d c x.id (fun _ => y)) c c y pos (x.op == 2 || (x.op == 3 && epAct x != 2), edBase x.tab, (0x10, 0x50))

/-- No station reaches module m any more: the copies sent there by die c do not arrive. -/
def copiesLost (c m : Nat) (d : Data) : Data :=
  ((getEmb d c).migrating.filter (fun x => x.sent && x.target / 4 == m)).foldl (fun d x => copyLost d c x (0x10, 0x50)) d

/-- Messages of an EUPD that did not arrive. -/
def lostMsgs (d : Data) (c : Nat) (x : EmbCmd) (w : Nat × Nat) : List (Nat × EmbMsg) :=
  ((d.embSent.filter (fun m =>
    match m.2.2 with
    | .contribution _ _ _ _ row _ _ engine id => engine == engHere d c && id == x.id && row == w.1
    | .close src t step _ relayed => w.1 == closeRow && src == engHere d c && ! relayed && step == upStep x && edTid t == edTid x.tab
    | _ => false)).map (fun m => (m.1, m.2.2))).eraseDups

/-- An EUPD that goes on sends them again. -/
def resendLost (c : Nat) (d : Data) (x : EmbCmd) : Data :=
  (x.redo.flatMap (lostMsgs d c x)).foldl (fun d m => embSend d m.1 m.2) (modEmbId d c x.id (fun y => { y with redo := [] }))

/-! ## Issue and completion (R223-R226, R350) -/

/-- An address field of a command block has the form of R225. -/
def blkAddrOk (w : Word) : Bool :=
  wb w 56 8 == 0 && (wb w 52 4 == 1 || wb w 52 4 == 3 || wb w 52 4 == 4 || wb w 52 4 == 5)

/-- A command block breaks R225 for its OP with n items. -/
def blockBad (op n : Nat) (b : List Word) : Bool :=
  let w := dwAt b
  ! blkAddrOk (w 0) || ! blkAddrOk (w 1) || ! blkAddrOk (w 7) ||
  (match op with
    | 1 => (w 2 != 0 && ! blkAddrOk (w 2)) || ! blkAddrOk (w 3) || ! blkAddrOk (w 4) || wb (w 5) 0 20 == 0 ||
           decide (1 < wb (w 5) 20 4) || wb (w 5) 24 40 != 0 || w 6 != 0
    | 2 => ! blkAddrOk (w 2) || wb (w 6) 32 32 != 0
    | _ =>
      wb (w 2) 3 5 != 0 || wb (w 2) 13 3 != 0 || wb (w 2) 34 30 != 0 || w 3 != 0 || w 4 != 0 || w 5 != 0 || w 6 != 0 ||
      wb (w 2) 0 3 == 7 || (wb (w 2) 0 3 == 6 && (n != 0 || decide (wb (w 2) 8 5 < 4) || decide (16 < wb (w 2) 8 5))))

/-- The element's address is a multiple of 64. -/
def elemAligned64 (e : List Word) (x : List Int) : Bool :=
  ((elemParts e x).headD (1, 0, 0, 0)).1 % 64 == 0 && ((elemParts e x).headD (1, 0, 0, 0)).2.1 == 0

/-- Element (0, 0) of a tile: the tile's entry and the element's address, or the fault of R350's first two checks, or the SPACE
fault of an L2 address outside its form (R172). -/
def blockTile (d : Data) (n : BitVec 4) : Except (Nat × Nat) (List Word × Nat) :=
  match curView d n with
  | none => .error (4, 0x10)
  | some v =>
    let x := winCoords v 0 0
    if lteSpace v.lte = 1 ∧ elemAligned64 v.lte x = true then
      match spaceFormI d (ltePlace v.lte) (elemInt v.lte x) (elemInt v.lte x + 63) with
      | some fc => .error fc
      | none => .ok (v.lte, elemAddr v.lte x)
    else .error (4, 0x1F)

/-- The command joins its die's engine: its tag is cleared, its writes are one counted write (R91, R201). -/
def embBegin (d : Data) (op : Nat) (tag : BitVec 6) (n : Nat) (b t : List Word) : Data :=
  let tp := curTp d
  let d := modEmb d (dieOf d.curF) (fun e => { e with nextId := e.nextId + 1, cmds := e.cmds ++
    [{ op := op, id := e.nextId, owner := tp.owner, tag := tag, n := n, block := b, tab := t, pos := 0, bad := [], rows := [],
       asked := [], bags := [], coalesced := false, waiting := [], redo := [], stopped := none, failAt := none, wno := tp.wi + 1,
       after := pendAccesses tp }] })
  retireAt (modCur d (fun t => beginCmd t tag true)) d.curF d.curK

/-- A command will ask the modules of its table: an EUPD, one with items, or a FLUSH or INVAL of the whole table. -/
def asksModules (op n : Nat) (b : List Word) : Bool :=
  op == 2 || n != 0 || (op == 3 && (wb (dwAt b 2) 0 3 == 4 || wb (dwAt b 2) 0 3 == 5))

/-- A module of a table is absent from the pod (R287): a command that will ask it raises SPACE 0x04 at issue (R288, log entry
154). -/
def tabAbsent (d : Data) (t : List Word) : Bool :=
  (List.range (edNmod t)).any (fun i => edMbase t + i != d.modid.toNat &&
    (decide (1023 < edMbase t + i) || routeMask d (edMbase t + i) == 0))

/-- The reads of an engine command's issue have performed: the checks from the descriptor on, and the command begins
(R224, R350). -/
def embIssued (d : Data) (op : Nat) (tag : BitVec 6) (n : Nat) (b : List Word) : Data :=
  let tda := dwAt b 0
  if ! blkAddrOk tda then trap d 0x10 0x30
  else if wb tda 52 4 = 5 ∨ wb tda 0 6 ≠ 0 then trap d 0x10 0x31
  else match readWordsAt d (reqFloe d.curF) (placeOf tda).1 (placeOf tda).2 8 with
    | (d, .error fc) => trap d fc.1 fc.2
    | (d, .ok t) =>
      if descBad t then trap d 0x10 0x31
      else if blockBad op n b then trap d 0x10 0x30
      else if op = 2 ∧ edOpt t = 0 then trap d 0x10 0x33
      else if asksModules op n b && tabAbsent d t then trap d 3 4
      else embBegin d op tag n b t

/-- An engine command's issue completes (ISSUE_COMPLETION): the command block and the descriptor are read (R224). -/
def embRead (d : Data) (op : Nat) (tag : BitVec 6) (n : BitVec 4) (a : BitVec 5) : Data :=
  match blockTile d n with
  | .error fc => trap d fc.1 fc.2
  | .ok (e, ad) =>
    match readWordsAt d (reqFloe d.curF) (ltePlace e) ad 8 with
    | (d, .error fc) => trap d fc.1 fc.2
    | (d, .ok b) => embIssued d op tag (rn d a) b

/-- The checks of an engine command before its reads; then its issue waits for them. -/
def embCheck (d : Data) (n : BitVec 4) (count : Word) (i : Instr) : Data :=
  match blockTile d n with
  | .error fc => trap d fc.1 fc.2
  | .ok _ => if 2 ^ 24 < count.toNat then trap d 0x10 0x32 else blockCur d (.issue i)

/-- An engine command at issue (R223, R350). -/
def embIssue (d : Data) (g : Guard) (tag : BitVec 6) (n : BitVec 4) (a : BitVec 5) (i : Instr) : Data :=
  issueS d g [a] (viewRegs (curTp d) n) (fun d => tagFree d tag (fun d => whenFree d true true false (fun d => embCheck d n (rs d a) i)))

/-- EGAT (R350, R351). -/
def execEgat (g : Guard) (tag : BitVec 6) (t : BitVec 4) (a : BitVec 5) (s : State) : Host.Outcome State Fault Refusal :=
  nextD s (fun d => embIssue d g tag t a (.egat g tag t a))

/-- EUPD (R350, R355). -/
def execEupd (g : Guard) (tag : BitVec 6) (t : BitVec 4) (a : BitVec 5) (s : State) : Host.Outcome State Fault Refusal :=
  nextD s (fun d => embIssue d g tag t a (.eupd g tag t a))

/-- EPIN (R350, R353). -/
def execEpin (g : Guard) (tag : BitVec 6) (t : BitVec 4) (a : BitVec 5) (s : State) : Host.Outcome State Fault Refusal :=
  nextD s (fun d => embIssue d g tag t a (.epin g tag t a))

/-- A command's work is done. -/
def embDone (x : EmbCmd) : Bool :=
  match x.op with
  | 1 => decide (x.n ≤ x.bags.length)
  | 2 => x.coalesced && x.waiting.isEmpty
  | _ => decide (max 1 x.n ≤ x.pos) && x.waiting.isEmpty && x.redo.isEmpty

/-- STATUS (R226): BADCNT and FIRST, or the failing position. -/
def embStatus (x : EmbCmd) : Nat :=
  match x.failAt with
  | some p => 0xFFFFFFFF + p % 2 ^ 32 * 2 ^ 32
  | none => x.bad.length % 2 ^ 32 + (x.bad.foldl min 0xFFFFFFFF) * 2 ^ 32

/-- A counted write of a command that a fault ended never performs (R208; the cause is log entry 162's choice). -/
def engineLoses (d : Data) (o : Owner) (n : Nat) : Data :=
  let d := modOwner d o (fun t => { t with lost := t.lost ++ [(n, 2)] })
  { d with dies := d.dies.map (fun c => { c with queues := c.queues.map (poisonCovering o n 2) }) }

/-- The command at index i leaves its engine with its tag set. -/
def embEnd (d : Data) (c : Nat) (x : EmbCmd) : Data :=
  let d := modEmb d c (fun e => { e with cmds := e.cmds.filter (fun y => y.id != x.id) })
  engineEnd (if x.failAt.isSome then engineLoses d x.owner x.wno else d) x.owner x.tag x.wno

/-- STATUS is written and the command completes (R226). One that a fault of this write ends has its record, and completes once
the mailbox has accepted that. -/
def embComplete (d : Data) (c i : Nat) : Data :=
  match embAt d c i with
  | none => d
  | some x =>
    if x.stopped.isNone && (x.failAt.isSome || embDone x) && afterDone d x.owner x.after && ! unitHeld d 4 c 0 then
      let st := placeOf (dwAt x.block 7)
      match writeAt d (reqEmb c) st.1 st.2 8 (embStatus x) false with
      | (d, .ok _) => embEnd d c x
      | (d, .error fc) =>
        if embStops fc then
          modEmbId (embFault (modEmbId d c x.id (fun y => { y with failAt := none })) c c x
            (if x.op = 1 then x.bags.length else x.pos) (true, st.2, fc)) c x.id (fun y => { y with failAt := x.failAt })
        else if x.failAt.isNone then
          embFault d c c x (if x.op = 1 then x.bags.length else x.pos) (true, st.2, fc)
        else embEnd d c x
    else d

/-- ENGINE_COMPLETE (R226). -/
def execEngineComplete (die c : Nat) (s : State) : Host.Outcome State Fault Refusal := nextD s (fun d => embComplete d die c)

end Sys2Proof.Machine
end

