-- ==== Sys2Proof/Machine/Solver.lean ====
section
/-!
DEFINITION. The solver sequencers: SSQ, the configuration, the rounds and their records, the decisions and the end of a run
(R232-R246, R435).
-/

namespace Sys2Proof.Machine

/-- Solver n of die c. -/
def getSol (d : Data) (c n : Nat) : Solver := (getDie d c).solvers.getD n Solver.reset

/-- That solver changed. -/
def modSol (d : Data) (c n : Nat) (h : Solver → Solver) : Data :=
  modDie d c (fun x => { x with solvers := x.solvers.set n (h (x.solvers.getD n Solver.reset)) })

/-- The requester of solver n of die c (R291). -/
def reqSol (c n : Nat) : Req := { mid := 0xB4 + 4 * c + n, floe := none, die := c }

/-! ## The configuration block (R236) -/

/-- MAXREJ. -/
def sbMaxrej (b : List Word) : Nat := wb (dwAt b 0) 40 8
/-- HD: the depth of the history ring. -/
def sbHd (b : List Word) : Nat := wb (dwAt b 0) 34 3 + 1
/-- NMETH; 0 encodes 16. -/
def sbNmeth (b : List Word) : Nat := if wb (dwAt b 0) 30 4 = 0 then 16 else wb (dwAt b 0) 30 4
/-- GOP. -/
def sbGop (b : List Word) : Nat := wb (dwAt b 0) 26 4
/-- GIP. -/
def sbGip (b : List Word) : Nat := wb (dwAt b 0) 22 4
/-- NS. -/
def sbNs (b : List Word) : Nat := wb (dwAt b 0) 0 11
/-- GFLOE. -/
def sbFloe (b : List Word) : Nat := wb (dwAt b 3) 0 8
/-- The low and the high FP32 word of a doubleword. -/
def dwLo (w : Word) : BitVec 32 := BitVec.ofNat 32 (wb w 0 32)
/-- See dwLo. -/
def dwHi (w : Word) : BitVec 32 := BitVec.ofNat 32 (wb w 32 32)

/-- A finite FP32 word. -/
def isFin32 (x : BitVec 32) : Bool := x.toNat / 2 ^ 23 % 256 != 255

/-- A value is below, at or above another. -/
def fpLt (a b : Fp) : Bool := fpCmp a b == some (-1)
/-- See fpLt. -/
def fpLe (a b : Fp) : Bool := fpCmp a b == some (-1) || fpCmp a b == some 0

/-- An address field for arrays of the solver: space 1, 3 or 4 and an alignment. -/
def solAddrOk (w : Word) (align : Nat) : Bool :=
  wb w 56 8 == 0 && (wb w 52 4 == 1 || wb w 52 4 == 3 || wb w 52 4 == 4) && wb w 0 52 % align == 0

/-- A configuration block breaks its table, on a solver of die c (R236). -/
def solBlockBad (c : Nat) (b : List Word) : Bool :=
  let z : Fp := .fin false 0 0
  wb (dwAt b 0) 48 16 != 0 || wb (dwAt b 0) 37 3 != 0 || wb (dwAt b 0) 11 11 != 0 || sbMaxrej b == 0 || sbNs b == 0 || decide (1024 < sbNs b) ||
  ! solAddrOk (dwAt b 1) 64 || ! solAddrOk (dwAt b 2) 256 || wb (dwAt b 3) 8 56 != 0 || decide (144 ≤ sbFloe b) ||
  dieOf (sbFloe b) != c || ! isFin32 (dwLo (dwAt b 4)) || ! isFin32 (dwHi (dwAt b 4)) || ! isFin32 (dwLo (dwAt b 5)) ||
  ! fpLt z (f32 (dwLo (dwAt b 4))) || ! fpLe (f32 (dwLo (dwAt b 4))) fpOne || ! fpLe fpOne (f32 (dwHi (dwAt b 4))) ||
  ! fpLt z (f32 (dwLo (dwAt b 5))) || wb (dwAt b 5) 32 32 != 0 || dwAt b 6 != 0

/-! ## Methods and slots (R237, R239) -/

/-- Word i of a method entry. -/
def mwAt (m : List (BitVec 32)) (i : Nat) : BitVec 32 := m.getD i 0
/-- KIND. -/
def mwKind (m : List (BitVec 32)) : Nat := (mwAt m 0).toNat % 4
/-- S as the table has it. -/
def mwS (m : List (BitVec 32)) : Nat := fld (mwAt m 0).toNat 2 4
/-- Q. -/
def mwQ (m : List (BitVec 32)) : Nat := fld (mwAt m 0).toNat 6 4
/-- Stages of a round: a multistep method counts as one (R242). -/
def mwStages (m : List (BitVec 32)) : Nat := if mwKind m = 0 then mwS m else 1
/-- Coefficient a(i, j), 0 for j ≥ i. -/
def mwA (m : List (BitVec 32)) (i j : Nat) : BitVec 32 := if j < i then mwAt m (25 + i * (i - 1) / 2 + j) else 0
/-- MSA. -/
def mwMsa (m : List (BitVec 32)) : Word := w64 ((mwAt m 1).toNat + (mwAt m 2).toNat * 2 ^ 32)
/-- A word holds a zero of either sign. -/
def isZero32 (x : BitVec 32) : Bool := x.toNat % 2 ^ 31 == 0

/-- A method entry breaks its table, with a history ring of depth hd (R237). -/
def methodBad (hd : Nat) (m : List (BitVec 32)) : Bool :=
  let w0 := (mwAt m 0).toNat
  let s := mwS m
  w0 / 1024 != 0 || (List.range 11).any (fun i => mwAt m (53 + i) != 0) || mwQ m == 0 ||
  (match mwKind m with
    | 0 =>
      decide (8 < mwQ m) || s == 0 || decide (8 < s) || decide (hd < s) ||
      (List.range 52).any (fun i => ! isFin32 (mwAt m (1 + i))) || ! isZero32 (mwAt m 1) ||
      (List.range 8).any (fun i => decide (s ≤ i) && ! isZero32 (mwAt m (1 + i))) ||
      (List.range 8).any (fun i => decide (s ≤ i) && (List.range i).any (fun j => ! isZero32 (mwA m i j)))
    | 1 => decide (4 < mwQ m) || s != 0 || decide (hd < mwQ m + 1) || ! blkAddrOk (mwMsa m)
    | _ => true)

/-- A slot record from its doublewords. -/
def slotRec (w : List Word) : Sample :=
  let d4 := dwAt w 4
  { t := dwLo (dwAt w 0), tend := dwHi (dwAt w 0), h := dwLo (dwAt w 1), err := dwHi (dwAt w 1), atol := dwLo (dwAt w 2),
    rtol := dwHi (dwAt w 2), nacc := dwLo (dwAt w 3), nrej := dwHi (dwAt w 3), hprev := dwHi d4, head := wb d4 20 4,
    meth := wb d4 16 4, crej := wb d4 8 8, st := wb d4 0 8, raw := w, active := false, hs := 0, last := false, k := 0,
    back := none }

/-- Two FP32 words as a doubleword. -/
def dwPair (lo hi : BitVec 32) : Word := w64 (lo.toNat + hi.toNat * 2 ^ 32)

/-- The doublewords of a slot record; its reserved fields are zero (R7). -/
def slotWords (s : Sample) : List Word :=
  [dwPair s.t s.tend, dwPair s.h s.err, dwPair s.atol s.rtol, dwPair s.nacc s.nrej,
   w64 (atBit s.st 0 8 + atBit s.crej 8 8 + atBit s.meth 16 4 + atBit s.head 20 4 + s.hprev.toNat * 2 ^ 32), 0, 0, 0]

/-- A slot record breaks its table (R239). -/
def slotBad (b : List Word) (s : Sample) : Bool :=
  let z : Fp := .fin false 0 0
  decide (5 < s.st) ||
  (s.st == 1 &&
    (! [s.t, s.tend, s.h, s.err, s.atol, s.rtol, s.hprev].all isFin32 || ! fpLt z (f32 s.h) || ! fpLt (f32 s.t) (f32 s.tend) ||
     fpLt (f32 s.atol) z || fpLt (f32 s.rtol) z || wb (dwAt s.raw 4) 24 8 != 0 ||
     [5, 6, 7].any (fun i => dwAt s.raw i != 0) || decide (sbHd b ≤ s.head) || decide (sbNmeth b ≤ s.meth)))

/-! ## SSQ at issue (R232-R235, R240, R435) -/

/-- The first checks of SSQ on a handle: ENGINE 0x40, then ACCESS with the right. -/
def solCheck (d : Data) (v : Word) (right : Nat) : Check :=
  if wb v 4 60 ≠ 0 then some (0x10, 0x40)
  else if aclOk d (38 + v.toNat / 4) d.curF right (v.toNat % 4 * 4096) 1 then none
  else some (7, right)

/-- The solver a handle names. -/
def solOf (d : Data) (v : Word) : Solver := getSol d (v.toNat / 4) (v.toNat % 4)

/-- That solver changed. -/
def modSolOf (d : Data) (v : Word) (h : Solver → Solver) : Data := modSol d (v.toNat / 4) (v.toNat % 4) h

/-- A run is in progress. -/
def solBusy (s : Solver) : Bool := s.st == .running || s.st == .stopping

/-- State checks of .cfg and .go (R234). -/
def solStateBad (go : Bool) (s : Solver) : Check :=
  if solBusy s then some (0x10, 0x41) else if go ∧ s.st = .idle then some (0x10, 0x42) else none

/-- The checks of .cfg and .go before the block is read. -/
def solIssueCheck (d : Data) (go : Bool) (v : Word) (n : BitVec 4) : Check :=
  match solCheck d v 4 with
  | some fc => some fc
  | none =>
    match blockTile d n with
    | .error fc => some fc
    | .ok _ => solStateBad go (solOf d v)

/-- SSQ traps with a cause; an ENGINE cause that names the solver's own state is its last one (R245). -/
def solTrap (d : Data) (v : Word) (fc : Nat × Nat) : Data :=
  trap (if fc.1 = 0x10 ∧ 0x41 ≤ fc.2 ∧ fc.2 ≤ 0x46 then modSolOf d v (fun s => { s with cause := fc.2 }) else d) fc.1 fc.2

/-- SSQ.cfg or SSQ.go waits for the read of its block. -/
def solIssue (d : Data) (g : Guard) (a : BitVec 5) (n : BitVec 4) (tag : BitVec 6) (go : Bool) (i : Instr) : Data :=
  issueS d g [a] (viewRegs (curTp d) n) (fun d => tagFree d tag (fun d => whenFree d true go false (fun d =>
    match solIssueCheck d go (rs d a) n with
    | some fc => solTrap d (rs d a) fc
    | none => blockCur d (.issue i))))

/-- SSQ.cfg (R235, R435). -/
def execSsqCfg (g : Guard) (a : BitVec 5) (t : BitVec 4) (tag : BitVec 6) (s : State) : Host.Outcome State Fault Refusal :=
  nextD s (fun d => solIssue d g a t tag false (.ssqCfg g a t tag))

/-- SSQ.go (R240, R435). -/
def execSsqGo (g : Guard) (a : BitVec 5) (t : BitVec 4) (tag : BitVec 6) (s : State) : Host.Outcome State Fault Refusal :=
  nextD s (fun d => solIssue d g a t tag true (.ssqGo g a t tag))

/-- Port p of a floe, op ports from 16 on, is held by a command, a move, the token feed or a run (R240). -/
def portHeld (d : Data) (f p : Nat) : Bool :=
  let fl := getFloe d f
  (liveCmds fl).any (fun c => c.st != .queued && (cmdPorts c).contains p) || moveHolds fl p || solverHolds d f p ||
    (fl.feed.map (fun q => 16 + q.toNat) == some p)

/-- GIP and GOP are not both exposed and free (R240). -/
def graphPortsBad (d : Data) (b : List Word) : Bool :=
  let f := sbFloe b
  let t := (getFloe d f).cfg.cur
  ! exposed t (sbGip b) || ! exposed t (16 + sbGop b) || portHeld d f (sbGip b) || portHeld d f (16 + sbGop b)

/-- RUNNING slots. -/
def solRunning (s : Solver) : Nat := (s.samples.filter (fun x => x.st == 1)).length

/-- A tag of a command that sets no counted write is set. -/
def solTag (d : Data) (o : Owner) (tag : BitVec 6) : Data := engineEnd d o tag 0

/-- A record of solver n of die c for the TP of an owner. -/
def solRec (d : Data) (c n : Nat) (o : Owner) (r : Rec) : Data :=
  engineRec d c (dieCount d c (9 + n)) o { r with utype := 5, entry := n, mid := 0xB4 + 4 * c + n }

/-- The run is over: ports are free, and its tags are set (R240). -/
def solRelease (d : Data) (c n : Nat) : Data :=
  let s := getSol d c n
  let d := modSol d c n (fun s => { s with st := .ready, inRound := false, out := [], goTag := none, graph := none, stopTags := [], ending := none })
  (s.goTag.toList ++ s.stopTags).foldl (fun d e => solTag d e.1 e.2) d

/-- The STATUS doubleword (R236). -/
def solStatus (s : Solver) : Nat := s.rounds % 2 ^ 32 + solRunning s * 2 ^ 32

/-- Write the slot records from record i on; the number written and the first fault with its address. -/
def writeSlots (d : Data) (c n : Nat) (p : Place) (a : Nat) : Nat → List Sample → Data × Except (Nat × Nat × Nat × Nat) Unit
  | _, [] => (d, .ok ())
  | i, s :: l =>
    match writeWordsAt d (reqSol c n) p (a + 64 * i) (slotWords s) with
    | (d, .error fc) => (d, .error (i, a + 64 * i, fc))
    | (d, .ok _) => writeSlots d c n p a (i + 1) l

/-- The solver stands still: its die is in reset, a fault has stalled it, or it holds a record the mailbox has not accepted (R23, R234,
R246). -/
def solStill (d : Data) (c n : Nat) : Bool := (getDie d c).inReset || (getSol d c n).stopped || unitHeld d 5 c n

/-- A load is over: its tag is set. -/
def loadDone (d : Data) (c n : Nat) (o : Owner × BitVec 6) : Data :=
  solTag (modSol d c n (fun s => { s with loads := s.loads.drop 1, gotM := [], gotS := [] })) o.1 o.2

/-- What a fault has ended is over once the mailbox has accepted its record: the run's ports and tags, or the load's tag (R23). -/
def solFinish (d : Data) (c n : Nat) : Data :=
  let s := getSol d c n
  if solStill d c n then d
  else
    let d := if s.loadEnded then
        (match s.loads with
          | [] => d
          | (_, o) :: _ => loadDone (modSol d c n (fun s => { s with loadEnded := false })) c n o)
      else d
    if s.ended then solRelease (modSol d c n (fun s => { s with ended := false })) c n else d

/-- What solver n does, a run where it is busy and else its oldest load, has been ended by a fault; an ENGINE cause is its last one
(R245). -/
def solEnds (cause : Option Nat) (s : Solver) : Solver :=
  { s with ended := s.ended || solBusy s, loadEnded := s.loadEnded || ! solBusy s, cause := cause.getD s.cause }

/-- A fault ends or stalls what the solver does (R246): a translation fault stalls it at a record, any other writes one
record and ends it. An ENGINE cause is its last one (R245). -/
def solFault (d : Data) (c n : Nat) (o : Owner × BitVec 6) (i a : Nat) (wr : Bool) (fc : Nat × Nat) : Data :=
  let r := { recZero with kind := 1, cls := fc.1, cause := fc.2, tag := o.2.toNat, wr := wr, addr := a, d0 := w64 i }
  if fc.1 = 5 ∨ fc.1 = 6 then solRec (modSol d c n (fun s => { s with stopped := true })) c n o.1 r
  else solFinish (solRec (modSol d c n (solEnds (if fc.1 = 0x10 then some fc.2 else none))) c n o.1
    { r with kind := 2, d0 := 0 }) c n

/-- The end of a run: the state array, DW7, then the ports and the tags (R240). -/
def solEnd (d : Data) (c n : Nat) : Data :=
  let s := getSol d c n
  let o := s.goTag.getD (⟨2 ^ 16, 0⟩, 0)
  let st := placeOf (dwAt s.block 1)
  let i := s.ending.getD 0
  let d := modSol d c n (fun s => { s with ending := some i, inRound := false })
  match writeSlots d c n st.1 st.2 i (s.samples.drop i) with
  | (d, .error (j, a, fc)) =>
    solFault (modSol d c n (fun s => { s with ending := some j })) c n o j a true fc
  | (d, .ok _) =>
    match writeAt d (reqSol c n) { space := 1, psp := 0, pmod := 0 } (s.blockAt + 56) 8 (solStatus s) false with
    | (d, .error fc) =>
      solFault (modSol d c n (fun s => { s with ending := some s.samples.length })) c n o s.samples.length (s.blockAt + 56) true fc
    | (d, .ok _) => solRelease d c n

/-- A run begins; with no slot RUNNING it ends at once, or when the solver no longer stands still (R240). -/
def solStart (d : Data) (v : Word) (tag : BitVec 6) (a : Nat) : Data :=
  let o := (curTp d).owner
  let d := modSolOf d v (fun s => { s with st := .running, rounds := 0, inRound := false, out := [], blockAt := a,
                                           goTag := some (o, tag), graph := (getFloe d (sbFloe s.block)).lid, ending := none })
  let d := retireAt (modCur d (fun t => beginCmd t tag false)) d.curF d.curK
  if solRunning (solOf d v) = 0 ∧ solStill d (v.toNat / 4) (v.toNat % 4) = false then solEnd d (v.toNat / 4) (v.toNat % 4) else d

/-- .go with its block read: equal to the loaded one but for DW7, ports exposed and free (R240). -/
def solGo (d : Data) (v : Word) (tag : BitVec 6) (a : Nat) (b : List Word) : Data :=
  if b.take 7 ≠ (solOf d v).block.take 7 then solTrap d v (0x10, 0x42)
  else if graphPortsBad d (solOf d v).block then solTrap d v (0x10, 0x46)
  else solStart d v tag a

/-- .cfg with its block read: the load of the tables begins (R235). -/
def solLoad (d : Data) (v : Word) (tag : BitVec 6) (b : List Word) : Data :=
  if solBlockBad (v.toNat / 4) b then solTrap d v (0x10, 0x43)
  else
    let o := (curTp d).owner
    retireAt (modCur (modSolOf d v (fun s => { s with loads := s.loads ++ [(b, o, tag)] })) (fun t => beginCmd t tag false))
      d.curF d.curK

/-- The issue of SSQ.cfg or SSQ.go completes (ISSUE_COMPLETION): its block is read and checked. -/
def solRead (d : Data) (a : BitVec 5) (n : BitVec 4) (tag : BitVec 6) (go : Bool) : Data :=
  let v := rs d a
  match solIssueCheck d go v n with
  | some fc => solTrap d v fc
  | none =>
    match blockTile d n with
    | .error fc => trap d fc.1 fc.2
    | .ok (e, ad) =>
      match readWordsAt d (reqFloe d.curF) (ltePlace e) ad 8 with
      | (d, .error fc) => trap d fc.1 fc.2
      | (d, .ok b) => if go then solGo d v tag ad b else solLoad d v tag b

/-- SSQ.stat's result (R245). -/
def solStatWord (s : Solver) : Word :=
  let code := match s.st with
    | .idle => 0
    | .ready => 1
    | .running => 2
    | .stopping => 3
  w64 (code + atBit s.cause 8 8 + atBit (solRunning s) 16 11 + s.rounds % 2 ^ 32 * 2 ^ 32)

/-- SSQ.stat (R245). -/
def execSsqStat (g : Guard) (d a : BitVec 5) (s : State) : Host.Outcome State Fault Refusal :=
  nextD s (fun dd => issue dd g [d, a] (fun dd =>
    match solCheck dd (rs dd a) 1 with
    | some (cls, cause) => trap dd cls cause
    | none => retire (modCur dd (fun t => sput t d (solStatWord (solOf dd (rs dd a)))))))

/-- .stop reaches its solver: no effect on an idle one; a run ends after its round (R234). -/
def solStop (d : Data) (v : Word) (tag : BitVec 6) : Data :=
  let o := (curTp d).owner
  let d := retire (modCur d (fun t => beginCmd t tag false))
  if solBusy (solOf d v) then modSolOf d v (fun s => { s with st := .stopping, stopTags := s.stopTags ++ [(o, tag)] })
  else solTag d o tag

/-- SSQ.stop (R234, R435). -/
def execSsqStop (g : Guard) (a : BitVec 5) (tag : BitVec 6) (s : State) : Host.Outcome State Fault Refusal :=
  nextD s (fun d => issue d g [a] (fun d => tagFree d tag (fun d => whenFree d true false false (fun d =>
    match solCheck d (rs d a) 4 with
    | some (cls, cause) => trap d cls cause
    | none => solStop d (rs d a) tag))))

/-! ## The load (R235, R246) -/

/-- Read n records of w doublewords; a fault names its record and address. -/
def readRecs (d : Data) (q : Req) (p : Place) (a w : Nat) : Nat → Nat → Data × Except (Nat × Nat × Nat × Nat) (List (List Word))
  | _, 0 => (d, .ok [])
  | i, n + 1 =>
    match readWordsAt d q p (a + 8 * w * i) w with
    | (d, .error fc) => (d, .error (i, a + 8 * w * i, fc))
    | (d, .ok ws) =>
      match readRecs d q p a w (i + 1) n with
      | (d, .error e) => (d, .error e)
      | (d, .ok l) => (d, .ok (ws :: l))

/-- Doublewords as 32-bit words. -/
def halves (ws : List Word) : List (BitVec 32) := ws.flatMap (fun w => [dwLo w, dwHi w])

/-- Read n more records of w doublewords behind those read: all that have been read, and the fault that ended it with its record
and address. -/
def readMore (d : Data) (q : Req) (p : Place) (a w : Nat) :
    Nat → List (List Word) → Data × List (List Word) × Option (Nat × Nat × Nat × Nat)
  | 0, got => (d, got, none)
  | n + 1, got =>
    let at' := a + 8 * w * got.length
    match readWordsAt d q p at' w with
    | (d, .error fc) => (d, got, some (got.length, at', fc))
    | (d, .ok ws) => readMore d q p a w n (got ++ [ws])

/-- A load fails its checks: one record, and the solver keeps its earlier contents (R235). -/
def loadFail (d : Data) (c n : Nat) (o : Owner × BitVec 6) (cause : Nat) : Data :=
  solFinish (solRec (modSol d c n (solEnds (some cause))) c n o.1
    { recZero with kind := 6, cls := 0x10, cause := cause, tag := o.2.toNat }) c n

/-- A coefficient set of a multistep method is bad: a value that is not finite, or one of its four zero words is not zero (R237). -/
def setBad (ws : List Word) : Bool :=
  (halves ws).any (fun x => ! isFin32 x) || ((halves ws).drop 12).any (fun x => ! isZero32 x)

/-- The coefficient sets of the methods from method i on are read and checked: whether one is bad, or the fault with the method's
record and the address. -/
def setsCheck (d : Data) (c n : Nat) : Nat → List (List (BitVec 32)) → Data × Except (Nat × Nat × Nat × Nat) Bool
  | _, [] => (d, .ok false)
  | i, m :: ms =>
    match (if mwKind m = 1 then readRecs d (reqSol c n) (placeOf (mwMsa m)).1 (placeOf (mwMsa m)).2 8 0 128 else (d, .ok [])) with
    | (d, .error e) => (d, .error (i, e.2))
    | (d, .ok l) =>
      if l.any setBad then (d, .ok true) else setsCheck d c n (i + 1) ms

/-- The state array of the oldest load is read on and checked, and the solver takes its configuration. -/
def loadState (d : Data) (c n : Nat) (b : List Word) (o : Owner × BitVec 6) (ms : List (List (BitVec 32))) : Data :=
  let s := getSol d c n
  match readMore d (reqSol c n) (placeOf (dwAt b 1)).1 (placeOf (dwAt b 1)).2 8 (sbNs b - s.gotS.length) s.gotS with
  | (d, got, some e) =>
    solFault (modSol d c n (fun s => { s with gotS := got })) c n o e.1 e.2.1 false e.2.2
  | (d, got, none) =>
    if (got.map slotRec).any (slotBad b) then loadFail d c n o 0x45
    else loadDone (modSol d c n (fun s => { s with st := .ready, block := b, methods := ms, samples := got.map slotRec })) c n o

/-- The oldest load of solver n of die c: the method table with its coefficient sets, then the state array, are read and checked
(R235, R237). A load that a fault has stalled goes on at the record it stalled at (R246), and one that a fault has ended is over. -/
def solLoadStep (d : Data) (c n : Nat) : Data :=
  let s := getSol d c n
  match s.loads with
  | [] => d
  | (b, o) :: _ =>
    if solBusy s || solStill d c n then d
    else if s.loadEnded then solFinish d c n
    else
      match readMore d (reqSol c n) (placeOf (dwAt b 2)).1 (placeOf (dwAt b 2)).2 32 (sbNmeth b - s.gotM.length) s.gotM with
      | (d, got, some e) =>
        solFault (modSol d c n (fun s => { s with gotM := got })) c n o e.1 e.2.1 false e.2.2
      | (d, got, none) =>
        let d := modSol d c n (fun s => { s with gotM := got })
        let ms := got.map halves
        if ms.any (methodBad (sbHd b)) then loadFail d c n o 0x44
        else match setsCheck d c n 0 ms with
          | (d, .error e) => solFault d c n o e.1 e.2.1 false e.2.2
          | (d, .ok bad) => if bad then loadFail d c n o 0x44 else loadState d c n b o ms

/-- SSQ_CFG_DONE (R235). -/
def execSsqCfgDone (die n : Nat) (s : State) : Host.Outcome State Fault Refusal := nextD s (fun d => solLoadStep d die n)

/-! ## Rounds (R241, R242) -/

/-- floor(4 × x) of a finite value. -/
def floor4 (x : Fp) : Int :=
  match x with
  | .fin s m e =>
    let v : Int := if s then -(m : Int) else m
    if 0 ≤ e + 2 then v * 2 ^ (e + 2).toNat else v / 2 ^ (-(e + 2)).toNat
  | _ => 0

/-- Log2 and Exp2 of R170 on FP32 values. -/
def fpLog2 (x : Fp) : Fp := fpDecode 0 (sfn (rne 0) 1 (fpEncode (rne 0) x))
/-- See fpLog2. -/
def fpExp2 (x : Fp) : Fp := fpDecode 0 (sfn (rne 0) 0 (fpEncode (rne 0) x))

/-- The coefficient bin of a multistep step (R241). -/
def stepBin (hs hprev : BitVec 32) : Nat :=
  if isZero32 hprev then 16
  else match fpLog2 (rDiv (f32 hs) (f32 hprev)) with
    | .nan => Config.solverBin hs.toNat hprev.toNat % 32
    | .inf s => if s then 0 else 31
    | x => (min (max (floor4 x + 16) 0) 31).toNat

/-- A slot at the start of a round. -/
def roundSlot (ms : List (List (BitVec 32))) (s : Sample) : Sample :=
  if s.st ≠ 1 then { s with active := false, back := none }
  else
    let last := fpLe (f32 s.tend) (rAdd (f32 s.t) (f32 s.h))
    { s with active := true, back := none, last := last, hs := if last then to32 (rSub (f32 s.tend) (f32 s.t)) else s.h,
             k := min (mwQ (ms.getD s.meth [])) (s.nacc.toNat + 1) }

/-- Four FP32 words as the data of a field word. -/
def quadOf (l : List (BitVec 32)) : Nat := packElems 0 ((List.range 4).map (fun i => (l.getD i 0).toNat))

/-- The header of a record: word 0 (R242). -/
def recHead0 (ts : BitVec 32) (s : Sample) (slot stage round : Nat) (comb : Bool) : Nat :=
  ts.toNat + s.hs.toNat * 2 ^ 32 + atBit slot 64 10 + atBit stage 74 3 + atBit (bnat comb) 77 1 + atBit s.head 78 4 + atBit round 96 32

/-- The data of stage record i of a slot. -/
def stageRec (m : List (BitVec 32)) (s : Sample) (slot i round : Nat) : List Nat :=
  let hs := f32 s.hs
  let ci := if mwKind m = 0 then mwAt m (1 + i) else 0
  let ts := to32 (rAdd (f32 s.t) (rMul (f32 ci) hs))
  let a : Nat → BitVec 32 := fun j => if mwKind m = 0 ∧ j < i then to32 (rMul hs (f32 (mwA m i j))) else 0
  [recHead0 ts s slot i round false, quadOf ((List.range 4).map a), quadOf ((List.range 4).map (fun j => a (4 + j))), 0, 0, 0]

/-- The data of the combination record of a slot; cf is the coefficient set of a multistep step. -/
def combRec (m cf : List (BitVec 32)) (s : Sample) (slot round : Nat) : List Nat :=
  let hs := f32 s.hs
  let b : Nat → BitVec 32 := fun j => to32 (rMul hs (f32 (mwAt m (9 + j))))
  let e : Nat → BitVec 32 := fun j => to32 (rMul hs (rSub (f32 (mwAt m (9 + j))) (f32 (mwAt m (17 + j)))))
  let x : Nat → BitVec 32 := fun j => to32 (rMul hs (f32 (cf.getD j 0)))
  let r4 := List.range 4
  let tail := s.atol.toNat + s.rtol.toNat * 2 ^ 32
  if mwKind m = 0 then
    [recHead0 s.t s slot (mwS m % 8) round true, quadOf (r4.map b), quadOf (r4.map (fun j => b (4 + j))), quadOf (r4.map e),
     quadOf (r4.map (fun j => e (4 + j))), tail]
  else
    [recHead0 s.t s slot 1 round true, quadOf (r4.map (fun j => cf.getD j 0)), quadOf (r4.map (fun j => x (4 + j))),
     quadOf (r4.map (fun j => x (8 + j))), 0, tail]

/-- The words of a record: END 0 but for the last. -/
def recWordsOf (slot level : Nat) (ws : List Nat) : List FWord :=
  ws.zipIdx.map (fun e => dataWord e.1 slot (if e.2 = 5 then level else 0) false false 0)

/-- The words of a group of records; the last record ends with the group's level. -/
def groupWords (level : Nat) (l : List (Nat × List Nat)) : List FWord :=
  l.zipIdx.flatMap (fun e => recWordsOf e.1.1 (if e.2 + 1 = l.length then level else 1) e.1.2)

/-- The active slots, with their numbers. -/
def activeSlots (s : Solver) : List (Nat × Sample) := (s.samples.zipIdx.filter (fun e => e.1.active)).map (fun e => (e.2, e.1))

/-- The method of a slot. -/
def methodOf (s : Solver) (x : Sample) : List (BitVec 32) := s.methods.getD x.meth []

/-- All words of a round (R242); cfs are the coefficient sets of its multistep slots. -/
def roundWords (s : Solver) (cfs : List (Nat × List (BitVec 32))) : List FWord :=
  let act := activeSlots s
  let stages := (List.range 8).flatMap (fun i =>
    groupWords 2 ((act.filter (fun e => decide (i < mwStages (methodOf s e.2)))).map (fun e =>
      (e.1, stageRec (methodOf s e.2) e.2 e.1 i s.rounds))))
  stages ++ groupWords 3 (act.map (fun e =>
    (e.1, combRec (methodOf s e.2) ((cfs.find? (fun x => x.1 == e.1)).elim [] (fun x => x.2)) e.2 e.1 s.rounds)))

/-- The coefficient sets of the multistep slots of a round are read (R237). -/
def readSets (d : Data) (c n : Nat) (s : Solver) :
    List (Nat × Sample) → Data × Except (Nat × Nat × Nat × Nat) (List (Nat × List (BitVec 32)))
  | [] => (d, .ok [])
  | (i, x) :: l =>
    let m := methodOf s x
    let p := placeOf (mwMsa m)
    let a := p.2 + 64 * (32 * (x.k - 1) + stepBin x.hs x.hprev)
    match (if mwKind m = 1 then readWordsAt d (reqSol c n) p.1 a 8 else (d, Except.ok [])) with
    | (d, .error fc) => (d, .error (i, a, fc))
    | (d, .ok ws) =>
      match readSets d c n s l with
      | (d, .error e) => (d, .error e)
      | (d, .ok r) => (d, .ok ((i, halves ws) :: r))

/-- A round begins (R241). -/
def roundStart (d : Data) (c n : Nat) : Data :=
  let s := getSol d c n
  if s.st == .running && ! s.inRound && ! solStill d c n && ! s.ended && s.ending.isNone && decide (0 < solRunning s) then
    let s := { s with samples := s.samples.map (roundSlot s.methods), rounds := s.rounds + 1, inRound := true }
    match readSets d c n s (activeSlots s) with
    | (d, .error (i, a, fc)) => solFault d c n (s.goTag.getD (⟨2 ^ 16, 0⟩, 0)) i a false fc
    | (d, .ok cfs) => modSol d c n (fun _ => { s with out := roundWords s cfs })
  else d

/-- SOLVER_ROUND_START (R241, R242). -/
def execSolverRoundStart (die n : Nat) (s : State) : Host.Outcome State Fault Refusal := nextD s (fun d => roundStart d die n)

/-- The run of solver n of die c has its graph floe: the floe holds the region of the run (R246). -/
def solHasGraph (d : Data) (c n : Nat) : Bool :=
  (getSol d c n).graph == (getFloe d (sbFloe (getSol d c n).block)).lid

/-- In a cycle of the graph floe the solver sends its next word, where ipGIP has room; it takes the floe's generation
(R242, R133). -/
def solSend (d : Data) (c n : Nat) : Data :=
  let s := getSol d c n
  let f := sbFloe s.block
  match s.out with
  | [] => d
  | w :: ws =>
    if s.goTag.isSome && solHasGraph d c n && ! solStill d c n && qRoom d f (.ip (sbGip s.block)) 1 then
      modSol (qPush d f (.ip (sbGip s.block)) { w with gen := (getFloe d f).cfg.gen } ((getFloe d f).cyc + 1)) c n
        (fun s => { s with out := ws })
    else d

/-- The solvers of its die send their words to floe f. -/
def solSends (d : Data) (f : Nat) : Data :=
  (List.range 4).foldl (fun d n => if sbFloe (getSol d (dieOf f) n).block = f then solSend d (dieOf f) n else d) d

/-- A word returns (R243): the slot it names and its error, where it counts. -/
def errorWord (w : FWord) : Option (Nat × BitVec 32) :=
  if isBare w then none
  else if isErr w || w.psn then some (w.ridx.toNat, BitVec.ofNat 32 (fpNan 0))
  else some (fld w.data.toNat 32 10, BitVec.ofNat 32 (fld w.data.toNat 0 32))

/-- SOLVER_ERROR_WORD (R243). -/
def execSolverErrorWord (die n : Nat) (s : State) : Host.Outcome State Fault Refusal :=
  nextD s (fun d =>
    let x := getSol d die n
    let f := sbFloe x.block
    if x.inRound && solHasGraph d die n && ! solStill d die n && ! (getFloe d f).halted && ! (getFloe d f).frozen then
      match qHead d f (.op (sbGop x.block)) with
      | none => d
      | some w =>
        let d := qPop d f (.op (sbGop x.block))
        match errorWord w with
        | none => d
        | some (slot, e) => modSol d die n (fun x => { x with samples := x.samples.zipIdx.map (fun p =>
            if p.2 = slot ∧ p.1.active = true ∧ p.1.back.isNone then { p.1 with back := some e } else p.1) })
    else d)

/-! ## Decisions (R244) -/

/-- What a decision takes from the configuration block and the slot's method. -/
structure DecideCtx where
  maxrej : Nat
  hd : Nat
  facmin : Fp
  facmax : Fp
  hmin : Fp
  /-- Q' of R244 -/
  q : Nat
  deriving DecidableEq, Repr

/-- The factor of a decision before it is held to 1 on a rejection. -/
def decideFac (c : DecideCtx) (err : Fp) : Fp :=
  let x := rDiv (fpNeg (fpLog2 err)) (roundFp32 (.fin false (c.q + 1) 0))
  let fac := rMul (f32 0x3F666666) (fpExp2 x)
  fpMax true (fpMax false fac c.facmin) c.facmax

/-- The step size after a decision, and HMIN. -/
def decideStep (c : DecideCtx) (s : Sample) (fac : Fp) : Sample :=
  let h := rMul (f32 s.hs) fac
  { s with h := to32 h, st := if s.st = 1 ∧ fpLt h c.hmin = true then 3 else s.st }

/-- The decision for an active slot (R244). -/
def decideSlot (c : DecideCtx) (s : Sample) : Sample :=
  let e := s.back.getD (BitVec.ofNat 32 (fpNan 0))
  let err := f32 e
  let s := { s with err := e, active := false, back := none }
  if err = .nan ∨ fpLt err (.fin false 0 0) = true then { s with st := 5 }
  else
    let fac := decideFac c err
    if fpLe err fpOne then
      let s := { s with t := if s.last then s.tend else to32 (rAdd (f32 s.t) (f32 s.hs)), nacc := s.nacc + 1, crej := 0,
                        hprev := s.hs, head := (s.head + 1) % c.hd }
      if s.last then { s with st := 2, h := s.hs } else decideStep c s fac
    else
      let n := min (s.crej + 1) 255
      decideStep c { s with nrej := s.nrej + 1, crej := n, st := if c.maxrej < n then 4 else s.st } (fpMax true fac fpOne)

/-- The context of a slot's decision. -/
def decideCtx (s : Solver) (x : Sample) : DecideCtx :=
  let b := s.block
  { maxrej := sbMaxrej b, hd := sbHd b, facmin := f32 (dwLo (dwAt b 4)), facmax := f32 (dwHi (dwAt b 4)), hmin := f32 (dwLo (dwAt b 5)),
    q := if mwKind (methodOf s x) = 1 then x.k else mwQ (methodOf s x) }

/-- The decisions of a round, once every word has been sent and every active slot has its error; then the run ends where a
stop is pending or no slot is RUNNING (R234, R240, R244). A run whose end a fault has stalled goes on with it, and one that a
fault has ended is over. -/
def solDecide (d : Data) (c n : Nat) : Data :=
  let s := getSol d c n
  if solStill d c n || ! solBusy s then d
  else if s.ended || s.loadEnded then solFinish d c n
  else if s.ending.isSome then solEnd d c n
  else if s.inRound then
    (if s.out.isEmpty && s.samples.all (fun x => ! x.active || x.back.isSome) then
      let d := modSol d c n (fun s => { s with inRound := false,
                                               samples := s.samples.map (fun x => if x.active then decideSlot (decideCtx s x) x else x) })
      if s.st == .stopping || solRunning (getSol d c n) == 0 then solEnd d c n else d
    else d)
  else if s.st == .stopping || solRunning s == 0 then solEnd d c n
  else d

/-- SOLVER_DECISION (R244). -/
def execSolverDecision (die n : Nat) (s : State) : Host.Outcome State Fault Refusal := nextD s (fun d => solDecide d die n)

end Sys2Proof.Machine
end

