-- ==== Sys2Proof/Machine/CharTables.lean ====
section
/-!
DEFINITION. The tables of the character sets that R212 names (ISO-8859, Windows-125n, KOI8, JIS X 0208 and 0212, KS X 1001, GB
18030, Big5), as their published mapping tables to Unicode give them, and simple case folding (log entry 7). A table row is a
number of 16-bit cells, cell 0 lowest; a cell of 0 is unassigned.
-/

namespace Sys2Proof.Machine

/-- Cell c of a row. -/
def cell16 (row c : Nat) : Nat := (row >>> (16 * c)) % 65536

/-- The upper half, bytes 0x80 to 0xFF, of each single-byte charset of R212 but ISO-8859-1. -/
def upperHalf : Nat → Nat
  | 0x12 => 0x2D9016300FD00FC017100FA016F015900F700F6015100F400F3014801440111010F00EE00ED011B00EB011900E9010D00E70107013A00E4010300E200E1015500DF016200DD00DC017000DA016E015800D700D6015000D400D3014701430110010E00CE00CD011A00CB011800C9010C00C70106013900C4010200C200C10154017C017E02DD017A0165015F016100B802C7015B013E00B4014202DB010500B0017B017D00AD01790164015E016000A800A7015A013D00A4014102D8010400A0009F009E009D009C009B009A0099009800970096009500940093009200910090008F008E008D008C008B008A0089008800870086008500840083008200810080
  | 0x13 => 0x2D9015D016D00FC00FB00FA00F9011D00F700F6012100F400F300F200F1000000EF00EE00ED00EC00EB00EA00E900E800E70109010B00E4000000E200E100E000DF015C016C00DC00DB00DA00D9011C00D700D6012000D400D300D200D1000000CF00CE00CD00CC00CB00CA00C900C800C70108010A00C4000000C200C100C0017C000000BD0135011F015F013100B800B7012500B500B400B300B2012700B0017B000000AD0134011E015E013000A800A70124000000A400A302D8012600A0009F009E009D009C009B009A0099009800970096009500940093009200910090008F008E008D008C008B008A0089008800870086008500840083008200810080
  | 0x14 => 0x2D9016B016900FC00FB00FA017300F800F700F600F500F40137014D01460111012B00EE00ED011700EB011900E9010D012F00E600E500E400E300E200E1010100DF016A016800DC00DB00DA017200D800D700D600D500D40136014C01450110012A00CE00CD011600CB011800C9010C012E00C600C500C400C300C200C10100014B017E014A016701230113016100B802C7013C012900B4015702DB010500B000AF017D00AD016601220112016000A800A7013B012800A401560138010400A0009F009E009D009C009B009A0099009800970096009500940093009200910090008F008E008D008C008B008A0089008800870086008500840083008200810080
  | 0x15 => 0x45F045E00A7045C045B045A0459045804570456045504540453045204512116044F044E044D044C044B044A0449044804470446044504440443044204410440043F043E043D043C043B043A0439043804370436043504340433043204310430042F042E042D042C042B042A0429042804270426042504240423042204210420041F041E041D041C041B041A0419041804170416041504140413041204110410040F040E00AD040C040B040A04090408040704060405040404030402040100A0009F009E009D009C009B009A0099009800970096009500940093009200910090008F008E008D008C008B008A0089008800870086008500840083008200810080
  | 0x16 => 0x65206510650064F064E064D064C064B064A064906480647064606450644064306420641064000000000000000000000063A0639063806370636063506340633063206310630062F062E062D062C062B062A0629062806270626062506240623062206210000061F000000000000061B000000000000000000000000000000000000000000000000000000AD060C000000000000000000000000000000A400000000000000A0009F009E009D009C009B009A0099009800970096009500940093009200910090008F008E008D008C008B008A0089008800870086008500840083008200810080
  | 0x17 => 0x3CE03CD03CC03CB03CA03C903C803C703C603C503C403C303C203C103C003BF03BE03BD03BC03BB03BA03B903B803B703B603B503B403B303B203B103B003AF03AE03AD03AC03AB03AA03A903A803A703A603A503A403A3000003A103A0039F039E039D039C039B039A0399039803970396039503940393039203910390038F038E00BD038C00BB038A0389038800B703860385038400B300B200B100B02015000000AD00AC00AB037A00A900A800A700A620AF20AC00A32019201800A0009F009E009D009C009B009A0099009800970096009500940093009200910090008F008E008D008C008B008A0089008800870086008500840083008200810080
  | 0x18 => 0x200F200E0000000005EA05E905E805E705E605E505E405E305E205E105E005DF05DE05DD05DC05DB05DA05D905D805D705D605D505D405D305D205D105D020170000000000000000000000000000000000000000000000000000000000000000000000000000000000000000000000000000000000000000000000000000000000BE00BD00BC00BB00F700B900B800B700B600B500B400B300B200B100B000AF00AE00AD00AC00AB00D700A900A800A700A600A500A400A300A2000000A0009F009E009D009C009B009A0099009800970096009500940093009200910090008F008E008D008C008B008A0089008800870086008500840083008200810080
  | 0x19 => 0xFF015F013100FC00FB00FA00F900F800F700F600F500F400F300F200F1011F00EF00EE00ED00EC00EB00EA00E900E800E700E600E500E400E300E200E100E000DF015E013000DC00DB00DA00D900D800D700D600D500D400D300D200D1011E00CF00CE00CD00CC00CB00CA00C900C800C700C600C500C400C300C200C100C000BF00BE00BD00BC00BB00BA00B900B800B700B600B500B400B300B200B100B000AF00AE00AD00AC00AB00AA00A900A800A700A600A500A400A300A200A100A0009F009E009D009C009B009A0099009800970096009500940093009200910090008F008E008D008C008B008A0089008800870086008500840083008200810080
  | 0x1A => 0x13800FE00FD00FC00FB00FA017300F8016900F600F500F400F3014D014600F000EF00EE00ED011700EB011900E9010D012F00E600E500E400E300E200E1010100DF00DE00DD00DC00DB00DA017200D8016800D600D500D400D3014C014500D000CF00CE00CD011600CB011800C9010C012E00C600C500C400C300C200C10100014B016B2015017E016701610111013C00B701370129012B01230113010500B0014A016A00AD017D016601600110013B00A701360128012A01220112010400A0009F009E009D009C009B009A0099009800970096009500940093009200910090008F008E008D008C008B008A0089008800870086008500840083008200810080
  | 0x1B => 0xE5B0E5A0E590E580E570E560E550E540E530E520E510E500E4F0E4E0E4D0E4C0E4B0E4A0E490E480E470E460E450E440E430E420E410E400E3F00000000000000000E3A0E390E380E370E360E350E340E330E320E310E300E2F0E2E0E2D0E2C0E2B0E2A0E290E280E270E260E250E240E230E220E210E200E1F0E1E0E1D0E1C0E1B0E1A0E190E180E170E160E150E140E130E120E110E100E0F0E0E0E0D0E0C0E0B0E0A0E090E080E070E060E050E040E030E020E0100A0009F009E009D009C009B009A0099009800970096009500940093009200910090008F008E008D008C008B008A0089008800870086008500840083008200810080
  | 0x1D => 0x2019017E017C00FC016B015B0142017300F700F600F5014D00F3014601440161013C012B013701230117017A00E9010D0113011900E500E401070101012F010500DF017D017B00DC016A015A0141017200D700D600D5014C00D3014501430160013B012A013601220116017900C9010C0112011800C500C401060100012E010400E600BE00BD00BC00BB015700B900F800B700B600B5201C00B300B200B100B000C600AE00AD00AC00AB015600A900D800A700A6201E00A400A300A2201D00A0009F009E009D009C009B009A0099009800970096009500940093009200910090008F008E008D008C008B008A0089008800870086008500840083008200810080
  | 0x1E => 0xFF017700FD00FC00FB00FA00F900F81E6B00F600F500F400F300F200F1017500EF00EE00ED00EC00EB00EA00E900E800E700E600E500E400E300E200E100E000DF017600DD00DC00DB00DA00D900D81E6A00D600D500D400D300D200D1017400CF00CE00CD00CC00CB00CA00C900C800C700C600C500C400C300C200C100C01E611E851E841EF31E601E831E571E811E5600B61E411E40012101201E1F1E1E017800AE00AD1EF21E0B1E8200A91E8000A71E0A010B010A00A31E031E0200A0009F009E009D009C009B009A0099009800970096009500940093009200910090008F008E008D008C008B008A0089008800870086008500840083008200810080
  | 0x1F => 0xFF00FE00FD00FC00FB00FA00F900F800F700F600F500F400F300F200F100F000EF00EE00ED00EC00EB00EA00E900E800E700E600E500E400E300E200E100E000DF00DE00DD00DC00DB00DA00D900D800D700D600D500D400D300D200D100D000CF00CE00CD00CC00CB00CA00C900C800C700C600C500C400C300C200C100C000BF01780153015200BB00BA00B9017E00B700B600B5017D00B300B200B100B000AF00AE00AD00AC00AB00AA00A9016100A7016000A520AC00A300A200A100A0009F009E009D009C009B009A0099009800970096009500940093009200910090008F008E008D008C008B008A0089008800870086008500840083008200810080
  | 0x20 => 0xFF021B011900FC00FB00FA00F90171015B00F6015100F400F300F20144011100EF00EE00ED00EC00EB00EA00E900E800E700E6010700E4010300E200E100E000DF021A011800DC00DB00DA00D90170015A00D6015000D400D300D20143011000CF00CE00CD00CC00CB00CA00C900C800C700C6010600C4010200C200C100C0017C01780153015200BB0219010D017E00B700B6201D017D0142010C00B100B0017B017A00AD017900AB021800A9016100A70160201E20AC01410105010400A0009F009E009D009C009B009A0099009800970096009500940093009200910090008F008E008D008C008B008A0089008800870086008500840083008200810080
  | 0x30 => 0x2D9016300FD00FC017100FA016F015900F700F6015100F400F3014801440111010F00EE00ED011B00EB011900E9010D00E70107013A00E4010300E200E1015500DF016200DD00DC017000DA016E015800D700D6015000D400D3014701430110010E00CE00CD011A00CB011800C9010C00C70106013900C4010200C200C10154017C013E02DD013D00BB015F010500B800B700B600B500B4014202DB00B100B0017B00AE00AD00AC00AB015E00A900A800A700A6010400A4014102D802C700A0017A017E0165015B203A016121220000201420132022201D201C2019201800000179017D0164015A2039016020300000202120202026201E0000201A000020AC
  | 0x31 => 0x44F044E044D044C044B044A0449044804470446044504440443044204410440043F043E043D043C043B043A0439043804370436043504340433043204310430042F042E042D042C042B042A0429042804270426042504240423042204210420041F041E041D041C041B041A0419041804170416041504140413041204110410045704550405045800BB04542116045100B700B600B504910456040600B100B0040700AE00AD00AC00AB040400A9040100A700A6049000A40408045E040E00A0045F045B045C045A203A045921220000201420132022201D201C201920180452040F040B040C040A20390409203020AC202120202026201E0453201A04030402
  | 0x32 => 0xFF00FE00FD00FC00FB00FA00F900F800F700F600F500F400F300F200F100F000EF00EE00ED00EC00EB00EA00E900E800E700E600E500E400E300E200E100E000DF00DE00DD00DC00DB00DA00D900D800D700D600D500D400D300D200D100D000CF00CE00CD00CC00CB00CA00C900C800C700C600C500C400C300C200C100C000BF00BE00BD00BC00BB00BA00B900B800B700B600B500B400B300B200B100B000AF00AE00AD00AC00AB00AA00A900A800A700A600A500A400A300A200A100A00178017E00000153203A0161212202DC201420132022201D201C2019201800000000017D0000015220390160203002C6202120202026201E0192201A000020AC
  | 0x33 => 0x3CE03CD03CC03CB03CA03C903C803C703C603C503C403C303C203C103C003BF03BE03BD03BC03BB03BA03B903B803B703B603B503B403B303B203B103B003AF03AE03AD03AC03AB03AA03A903A803A703A603A503A403A3000003A103A0039F039E039D039C039B039A0399039803970396039503940393039203910390038F038E00BD038C00BB038A0389038800B700B600B5038400B300B200B100B0201500AE00AD00AC00AB000000A900A800A700A600A500A400A30386038500A00000000000000000203A000021220000201420132022201D201C20192018000000000000000000002039000020300000202120202026201E0192201A000020AC
  | 0x34 => 0xFF015F013100FC00FB00FA00F900F800F700F600F500F400F300F200F1011F00EF00EE00ED00EC00EB00EA00E900E800E700E600E500E400E300E200E100E000DF015E013000DC00DB00DA00D900D800D700D600D500D400D300D200D1011E00CF00CE00CD00CC00CB00CA00C900C800C700C600C500C400C300C200C100C000BF00BE00BD00BC00BB00BA00B900B800B700B600B500B400B300B200B100B000AF00AE00AD00AC00AB00AA00A900A800A700A600A500A400A300A200A100A00178000000000153203A0161212202DC201420132022201D201C201920180000000000000000015220390160203002C6202120202026201E0192201A000020AC
  | 0x35 => 0x200F200E0000000005EA05E905E805E705E605E505E405E305E205E105E005DF05DE05DD05DC05DB05DA05D905D805D705D605D505D405D305D205D105D0000000000000000000000000000005F405F305F205F105F005C305C205C105C005BF05BE05BD05BC05BB000005B905B805B705B605B505B405B305B205B105B000BF00BE00BD00BC00BB00F700B900B800B700B600B500B400B300B200B100B000AF00AE00AD00AC00AB00D700A900A800A700A600A520AA00A300A200A100A00000000000000000203A0000212202DC201420132022201D201C201920180000000000000000000020390000203002C6202120202026201E0192201A000020AC
  | 0x36 => 0x6D2200F200E00FC00FB065200F9065100F70650064F00F4064E064D064C064B00EF00EE064A064900EB00EA00E900E800E7064806470646064500E2064400E00643064206410640063A06390638063700D70636063506340633063206310630062F062E062D062C062B062A06290628062706260625062406230622062106C1061F00BE00BD00BC00BB061B00B900B800B700B600B500B400B300B200B100B000AF00AE00AD00AC00AB06BE00A900A800A700A600A500A400A300A2060C00A006BA200D200C0153203A0691212206A9201420132022201D201C2019201806AF068806980686015220390679203002C6202120202026201E0192201A067E20AC
  | 0x37 => 0x2D9017E017C00FC016B015B0142017300F700F600F5014D00F3014601440161013C012B013701230117017A00E9010D0113011900E500E401070101012F010500DF017D017B00DC016A015A0141017200D700D600D5014C00D3014501430160013B012A013601220116017900C9010C0112011800C500C401060100012E010400E600BE00BD00BC00BB015700B900F800B700B600B500B400B300B200B100B000C600AE00AD00AC00AB015600A900D800A700A6000000A400A300A2000000A0000002DB00AF0000203A000021220000201420132022201D201C20192018000000B802C700A800002039000020300000202120202026201E0000201A000020AC
  | 0x38 => 0xFF20AB01B000FC00FB00FA00F900F800F700F601A100F400F3032300F1011100EF00EE00ED030100EB00EA00E900E800E700E600E500E4010300E200E100E000DF030301AF00DC00DB00DA00D900D800D700D601A000D400D3030900D1011000CF00CE00CD030000CB00CA00C900C800C700C600C500C4010200C200C100C000BF00BE00BD00BC00BB00BA00B900B800B700B600B500B400B300B200B100B000AF00AE00AD00AC00AB00AA00A900A800A700A600A500A400A300A200A100A00178000000000153203A0000212202DC201420132022201D201C201920180000000000000000015220390000203002C6202120202026201E0192201A000020AC
  | 0x40 => 0x42A04270429042D04280417042B042C041204160423042204210420042F041F041E041D041C041B041A0419041804250413042404150414042604110410042E044A04470449044D04480437044B044C043204360443044204410440044F043F043E043D043C043B043A0439043804450433044404350434044604310430044E00A9256C256B256A25692568256725662565256425632562040125612560255F255E255D255C255B255A2559255825572556255525542553045125522551255000F700B700B200B0232100A0226522642248221A221925A023202593259225912590258C258825842580253C2534252C2524251C251825142510250C25022500
  | 0x41 => 0x42A04270429042D04280417042B042C041204160423042204210420042F041F041E041D041C041B041A0419041804250413042404150414042604110410042E044A04470449044D04480437044B044C043204360443044204410440044F043F043E043D043C043B043A0439043804450433044404350434044604310430044E00A9256C0490256A25692568256725660407040625630404040125612560255F255E255D0491255B255A2559255825570457045625540454045125522551255000F700B700B200B0232100A0226522642248221A221925A023202593259225912590258C258825842580253C2534252C2524251C251825142510250C25022500
  | _ => 0

/-- Rows 0 to 11 of jis0208. -/
def jis02080 : List Nat :=
  [0x25C725CE25CF25CB2605260600A7FF20FF0AFF06FF03FF0500A300A2FF04FFE521032033203200B0264026422234221E22672266FF1EFF1C2260FF1D00F700D700B12212FF0B30113010300F300E300D300C300B300A30093008FF5DFF5BFF3DFF3B30153014FF09FF08201D201C2019201820252026FF5C2016301CFF3CFF0F2010201530FC3007300630054EDD3003309E309D30FE30FDFF3FFFE3FF3E00A8FF4000B4309C309BFF01FF1FFF1BFF1A30FBFF0EFF0C300230013000,
   0x25EF000000000000000000B620212020266A266D266F2030212B0000000000000000000000000000222C222B2235221D223D221A226B226A2252226122072202231222A52220000000000000000000000000000000000000000000002203220021D421D200AC22282227000000000000000000000000000000002229222A2283228222872286220B220800000000000000000000000000000000000000000000301321932191219021923012203B25BC25BD25B225B325A025A125C6,
   0xFF5AFF59FF58FF57FF56FF55FF54FF53FF52FF51FF50FF4FFF4EFF4DFF4CFF4BFF4AFF49FF48FF47FF46FF45FF44FF43FF42FF41000000000000000000000000FF3AFF39FF38FF37FF36FF35FF34FF33FF32FF31FF30FF2FFF2EFF2DFF2CFF2BFF2AFF29FF28FF27FF26FF25FF24FF23FF22FF210000000000000000000000000000FF19FF18FF17FF16FF15FF14FF13FF12FF11FF10000000000000000000000000000000000000000000000000000000000000,
   0x3093309230913090308F308E308D308C308B308A3089308830873086308530843083308230813080307F307E307D307C307B307A3079307830773076307530743073307230713070306F306E306D306C306B306A3069306830673066306530643063306230613060305F305E305D305C305B305A3059305830573056305530543053305230513050304F304E304D304C304B304A304930483047304630453044304330423041,
   0x30F630F530F430F330F230F130F030EF30EE30ED30EC30EB30EA30E930E830E730E630E530E430E330E230E130E030DF30DE30DD30DC30DB30DA30D930D830D730D630D530D430D330D230D130D030CF30CE30CD30CC30CB30CA30C930C830C730C630C530C430C330C230C130C030BF30BE30BD30BC30BB30BA30B930B830B730B630B530B430B330B230B130B030AF30AE30AD30AC30AB30AA30A930A830A730A630A530A430A330A230A1,
   0x3C903C803C703C603C503C403C303C103C003BF03BE03BD03BC03BB03BA03B903B803B703B603B503B403B303B203B10000000000000000000000000000000003A903A803A703A603A503A403A303A103A0039F039E039D039C039B039A039903980397039603950394039303920391,
   0x44F044E044D044C044B044A0449044804470446044504440443044204410440043F043E043D043C043B043A04390438043704360451043504340433043204310430000000000000000000000000000000000000000000000000000000000000042F042E042D042C042B042A0429042804270426042504240423042204210420041F041E041D041C041B041A04190418041704160401041504140413041204110410,
   0x2542253825252530251D253F25372528252F2520254B253B252B253325232517251B2513250F25032501253C25342524252C251C251425182510250C25022500,
   0,
   0,
   0,
   0]

/-- Rows 12 to 23 of jis0208. -/
def jis02081 : List Nat :=
  [0,
   0,
   0,
   0x852D80E46DEB98F25F1559FB56E054E154BD537051419C2F828B83287A3290386EA258F14E0078EF90C180B257DF4EA54E95533B907A90558B028863840E80C37DEF7DAD79FB7570754F70BA690566136170610F60DF5C095A0159D4593756F250494F9D4F4D4F0A4EE5674F978D95C76848669763095EB55B8988B77C9F62169B8E7DBE7D6298F4867B59D05B9B627165A1572768939BF582A6846665ED6E2563E160AA7A50831C8475902259F66328611B54C0963F5A0355164E9C,
   0x5FDC5F805965592E51F975256C5A65BC58699D1B925B9060859782D182767E01733F71D571597114708E6F146CBF63F463A960285EF65BB4594458305712518653AD698E95B28D8A8B0160A699C576CA75AB6DB292ED8A60885B82F198347A4E76C8745B6D296CF36C38680466F366205F715B3055B653E1990C834F96F2904B4E915642958F74DC6D6653A959E59C3B851A6B1D550456186E2681FC78934E117ABA9D5C536F96E88FC27FBD70CF5B8753F3540B97FB96A096709662,
   0x653962D0621261D060626094602A5FEB5EFB58CA584A56DE89E34F1A4ECB99D5991396C58CC086FE82BD81E5753B725962115CE84FC4868A971E904E8FE68CA856298AB2876683D383EF8377830482DB82B17B877A3C79BE798D73C2706B6CB36B4C67B6679C668779D15BE15BB65AC1590F560953EF52A04F734FA14F3D4F554EEE53164E0B97F37A4F6E29606953784FFA4E597261687681C661B65C4B5104837B6C965CA19EC49D0E9D2C89567FC1738B6BB46B276A2A65FA62BC,
   0x8431830568229D28565B938C91DC84B27AC3515C682A97846A3A691B53F69C394E148F448910845B6ED16E076D3B62EC6070559D52726F5F9C0D68B66A7F6A2B7B20639B984E984D697D5CB35B669769969495A390ED8F038D6B89D2899A7A6B78BA73726BBB6838683C64B962E15ED3540456875283920E86CE67FF57A386D999A86D6C9AB893A78A72885784CB788D6DAF698261685D165BB354B3591652BE51F18C9D968E958B87F982A57D757686754C70706D7768B066669B41,
   0x68C468CB671F65E265D7673A63EE5FCC5E7E5E0C5C905BC45B09594757FA5668559C53714F0E4F0198589854981196C18D0B7FEB5CA9773C764C73A95DCC5CB8542B4E388218992897D3966595A295919593945190848CAB8ACC89B3839E8266809D7FF07F367DE97C217BA17AFF770B76E3751874B06F456F976F226C576B536B3E68FA685367D1656263DB61BE6163611F60A35E795E725BDB5B985B8C59E6582A559A5DFB52E752D8520A5BD251A04F834E7E74E682C552087CA5,
   0x4EAC4EAB4EA89B5A79A66F0192F88DDD8A31865A6E20631962E062D25DE85C4553BB725B65E77D667CFE7D1A7B087AAE7A76740370786CE36C726C42673D655160255F135BAE543853CA4F114EC74E454E1890068650811A5BA253749ECD677578278A706A58685455AB5403540997A083CA63AC8B708ABC87FB7FA97947759172A06B3A64EC6280622F5B9C59935100507D4E809B3C9A0E98E28F1D8ECC8D778CB48A18898F5FBD7D007A005B637948757F6C7D6C176BC55E306A5F,
   0x5C485C5191E76ADB4E32968590475BD350767A7A55B0865E611A517799D299C899C68EAF82E677E9739672D7533A53E550364E5D9280541F91D18FD18B39895F887F83CC82B97DCA7B4B79BD798174346B3D6B2365A493265DFE574752E450C57C8168507389697566F25C40696D66815C2D51DD4EF09A5A995797FF93E190F7854E8208810580F877EF72ED72C26CC16A4B6559631F606D6050602F5F4A5F375CE1588355AC53EB537F5321535451F651717AF6514750D14FA04F9B,
   0x637262F361F861B25EFA5ACC5805570F55A752635238517C5065502650394EF667088A2388407D507A746F546C7A6B205091684196996FC06483621F52879BE88FCE82B89D8F981A8EFD8B668A638A0886CD834A830E7F6B7E4B7D997D4C7CFB7A3D75666E136842666F656C643A63B261A96167617660755F845F625951578B73EA572D55535144521150BE4FC279418888536690E18ECD7FA48A1385AB541B52F2936C68517E7068177C829688718A7AAA8F6197746C937A9F6398,
   0x541153E3539A52FE52B9529F516C5149501650194FAF4F7C4EA49BC94E5E91908B778AA48A9E7881745A6A8E68A7609F5FA15F8C5A2F543E544953484F0D4E924E949F13986796C792378DE88A87864E83F080E180A188B47CCA72D06E5667AF654562385F275EAB5DF15B6459D156FA547C53E4500B4E4E96508AFA8A0082377D4373FE73846E906E1B5F265E7B53B3539F51439E789A139855967A937590638ED28CE28B19898B80A9770C7D79786F7814732E72AC727D6A29691C]

/-- Rows 24 to 35 of jis0208. -/
def jis02082 : List Nat :=
  [0x8FBC72DB9AA860DA5FFD751181706F0973449ED29D6091777A4056FD544A523B514B9EB98F5F8C6A6FE062F758D5540853F752AB525B9D3B9AD899999805964D95A492FC783F9271917590CA8CFC8CA28B1B8861884C8352822A818F815480B180AF800380157DB17D5E7D187D057CE07A3F786C768775326E9D6E2F6D696D2A6C5F69CB68976821676D66F466436602653B63A762D86297614C60525F185EB75E9A5E835E785DF75DE75DE55B8F5B5D5B54597D57A257515589540E,
   0x5237518A53197B399BAD685C932F7D227B567A8467F567146628643E548B524A4F5C9DFA789557FC5D0E54B280B4698A583A962A574251B48CA17F6A675057285264969B8F0988C183DC7D30658E796D78267815728091C7707D6E086B73683D63A1624D5F695BB059BB585E54C96700518D50AC50B5632B5EA7575088DF93968A50780274736C9967FB5DEE5DE65D6F550653C94F504E9B9B42826E7D3A75D56DF768B168396606660F61C760685A5A58BE576456F04ECA98036B64,
   0x6642630161485BFA5B5751504F8D4F3C4E8B6B6F98FC96CC8CDC8CC78AEE8A8C8A668A698A5E899681F3810280A27D2B7D197CF879C1794973456C0F6B7B6B62679D65E865BD65AF5B5C652F6307601D5FD75E2B5E025C4D5B5059FF59C959CB58EB56DB55E353F253F8523A4F7F4F3A4ED44ED56B8B66AB65AC991091788CDB8B8386957E827B97752373CA71E6685F6563649260E85C7153C250984E09665276BF9BAB9306634C9BD6769096D185A96BBA672D64E664AE62F65BDF,
   0x546853CE56DA97007DAC6A3963885BFF546A53D75112999691528DA3816B7A2E73E072E96B8A6731624B5B8853D64E3B60F95F315BC282E5932B91C8914C7235707C67535C3A52FA501F90AA86C7906E8ECA8B1D80057D17793E716E659C8D6663685C045199820E7E1E854A5C61829D67F450727BE085005B9F8CEA75BE6F066E7F60895BA45AC9593157F753F14E0396EB5B8D8EF87AFA9D2B8B585F0F9E7F6C508F9E849481EA8033800C793A78C175D474BD723E6CBB6ECB6B21,
   0x511F50B7966492E460555F905E8F597353D952A98AF885F785AF66F87F727DD25EB66E1A66D966916240521D51E69806918790755DE17D1476FE6F646E966DF36B89696F65EC5FAA51C699FF821C7AE377AC66255CFB4FCA8FF0885351FA719F587E7C9B7E2E795D6DD15BBF591953D4928391CD7E2673636E0B6C4167D4620E5F93534151454F4F4EC0919C96C6916C914B90318F2F8E748B90897288468490821F81ED7FD27E4D7D4279CB79C06D3262FE61014FEE5DDE5C315B97,
   0x98FE57F45631932091B88B7284B87A63757372B66D446756676164FE60C55E385B2258CC583457CE527051974E574E1E4E084E0A9798969C9418937E926691A48CDE8C618A738A548A3C8A1F88F3885D8549848B83D680967D397CA77B117AE079F079657901785D770175C771677126713C6E586E096D886CBC6A356A1F68A2677E6676662D660C66076377638C62DB6284627F5F705EE05E8A5E845C1A5C115C0F5C065BB55A3C59BE596856175531554654E853EC5347532052DD,
   0x88FE96C0981783C569196749636E96DB8DA867A265705D695D079AC4745E968F931893109154904288707FE07C8B7761708A6C3463A85E2557825439901753A856F3916298088ACF7B25976D96638FC58A0A814E5C3D751A5C0B58EC587552034EC14EBA970791DD90328F9B8EAB8A3A89AA85AA82AF81E37D3379E6795E771F75B975336DF16D78699B68EE664B65B0632F614E5FC35BE95BDD5A2055074FB54FE14F385C3B8FB1875598DF89E6827280777E5471ED6B96690D62ED,
   0x7DDA7BAD7A7F65CB717D714E6F5C67D36D176D456CC96834681364B0624762265DDD5C165C025BA35360534351484ED98749820C7D7696EA8AAC7BC07A838A2D6298644263A562D9520778A98E5F8DE18D648CAC810A7E3E7C4D7A4D77F36790661465A5621A60DC5E2D96BB81067A0E6589975997529192901D8ACB8A938AA0897F88FD58F080567CBE76DB751F72726E056B63681668F26674661F6574653F621060275F8159D352E2523651C4662F755D702C4E165BF8647A6F84,
   0x618E589750CF9A12971C9397906D90018D7088C585FB84BC846C8358834980617D9C7DCF7CDF7A9376F875E94E8971E56F1569FD69CD5DE366F965E964CD63BB633F6383635C60F360E3531D5C645B8B723D594F58EE55AA500953E253CC527550E79F209061963B8A3486077D447D207C9779DF7956790E758E758F72D9695A66FD66FE63AA5CA85851564C7CCE81B37E557985516871366F385584524D9BAE9583929192AD907790788DF58CCE8A6E85A68239821B817A7FA87E4A,
   0x53EA86F851E783388AFE6FC194388A1774226FEF6CA262D3629E62585B855544535370276EDD9DF9984C918D7B2C592753F04EE39BDB9EDB968A902E90008CB8888B82D4817F80CE6EDE6CF066FF6234614B60205F855E2F5CB180105BFE58064F539A2899C496406955823567C1625360F059A55815553E8A516C70592A591A4ED6905C6751640D5C0A5B6B5B5863C35176889653527D9A65CF8CCA5C5E4FD7901F8DB36E2C675F6349606F5373524750744FC390208D08853581D3,
   0x5BF5558B51CB51464E018CAF845782E7732A70266A1799D092F3914E8A3B8877866B6CE867F1663C62BD5FE05B994EF24E2D77405AE183367A9279E9901084C47B517AF9755C7BC999B39045871881F47F6E7A1A75F46C60667A60655F1B573077E550248AC775376BB56A80669665AD5F3E58C756E3935B8A9586CB80C6803D7DBB7BAA7AEF77ED70AD6E5B6DE16B4E65E663A262C55766560653584E398AB06A3D9C4872F88C3768DA8FBF7AEA5DFD8131596A8FB090544F4653E9,
   0x90138E448AE68A0282477DE07A0B798E78876C4068AF63D0633A62B5608C5F1F5EF75EAD5E955E1D5B9A582454488C9E52435075505C4F4E4EAD9DB491E3540A722A7D2C5B2C58F7576A6F70693F93547DB485268FBB67D86F2C4F4369FB63B46802585A901A75DB939A8FFD69CC690E589C6D25967393AE8CC373CD6C88671576F4635752C59CE598029577929A8DF38D858ADC8ABF8776817881398074773A753A72526F6E671D66A2631161F25FB45F6B5F355F145E815E335E16]

/-- Rows 36 to 47 of jis0208. -/
def jis02083 : List Nat :=
  [0x52307D717CD67B527B547B49797775D85F5371C8706F6D9B6E6F6DD876D768DF68BC68436771642D629560BC5D8B5CF65B955957585858545510520051CD51AC515A501260125974571F5EA652AA783A7825934D90FD90148CED83DF767B6E21675C65975F925C6059AC585758355410514E96FB75306FB16BBF4F1D70B9985B8EE28CBC751C7E8F6DFB5E975C555929586B517892448FED8F4D64A45FB954F26EBA93D190697B1B76846EF4657564E264586CE59F0E91D8912D90B8,
   0x51654E7365E55EFF867980898CD153028FE95F105C3C4E8C6C5D96E38EDF6960535775777E0499B46962934B637A70588B0E859951EA4E4D518590A35948920D66C75451981390418C5A6C8C656660C75C6F5678701E91495BC582EB9CF65C4A69347A8151F86A6168038AAD72EC6BD27BE479BF776372796D9C5FB35F97533F9D075CE092859053840480F47AE577B36D1E649E61A75C0E5802540C52D550CD95D89A30982D96769419900F90038E0F8C468B048A0E85E485698463,
   0x9EA699C183AB7E1B72066F2066DD8FEB858482367C957B94767D6CCA67CF62CD535A52654F2F842977E779E4877F9019966A8CE058F28CB772FD7164697368855A9257F9500D914D8F2980BA80CC724C76C3676F6557639262DD5EC34FF399AC82AD7F755A46783474366D3E6CE26777898764AD628A5DF486A489978FB281BF813380FD7D0D6FC360A956A257DC4E4B5EFC4E437C9871C3649A637B5FF55E7471B1732B84715BE7796279B06FE18A8D5FCD598A4EFB97EE5C3F5982,
   0x7F8E770974356BD867875FAE5C3E50997C386A0B98DB975E907F8CBB8AB988AB80A57F777DCB79D8789176AE75B26CCC6BD4659062AB6279624960B25F7C5E87598354265351532A86EE854378D076E4756A6669633D98EF9812716991C67BC48CA985E9822C7E41755473ED72AF72486C4E6C3E677F6591642C5E0653DB53CD534A52244F3496BC86E45859567A9CE995A57B4F629C7F704F109AEA9197767A6E8C9262516B75607551808C5E616AE87B4880877BB878727BB151FD,
   0x670D5E455FA9526F4F0F8557847A98A869535C0190E8856A8461821E6B6664AB4FAE9644961C8D748CE68CA08B5C8299819A81507B2672366D6E666E65A76577627660165E9C5E0351A85BCC5A66592B57E04ED84E0D74F6654F983B8CD38CA770156D5C658C5F6C54C19C2D86ED849C92F2932882D779D275C563CF5EDF8C798A558868796874E26F026C376A195F6A4FF58B2C767E7D105A9B59EB6867903C7B4675625FC55F3C809883F1819D5F669AED758B53397A1767CA9F3B,
   0x670B65B9653E636762B15E965D295CEF5CF05B9D59495831544653054FF8502383E97C3F6BCD66AE620A6155589352DF7A428F1488DC752B6B696355570392EA82174FDD97AD5F015A2952C94FBF904D8FD48FBA7DE87BC772475909504F7B86851177A5522578A7765658C150FB98017C73965B9589853D4E2667C45F0A5E735E63584051754F754E19805E658796F07D1B7CDE7C89596E711A626E61A458B35674543B52069B9272694ECF6CB862555F176DF5898689078179798F,
   0x6E8061624E079EBF7E6D4FAD8FC46CAB672B62B953C84FE34EA6685D9C5267FE9BAA6795819C5E5569D954E96BCE679A662759B957CB9EBB9B5478E8646976C651E17FFB672C59545E4C58006B866CA152C391E67A4677667267673464B258A8535C50D55317982C54209632927E8CBF8C8C8B0081A880AA7D21519268D267D0671B66B4623F5FD95FD85E3D59A8574A5256508D4EA14E4F9D6C9CF398FD92D290A68C4A8A2A8912870284EC840C82B380DE7E2B783270F96CE16CD5,
   0x76526CB961086109945385AE67F397568E8D8A3385AC7D045F79538477E25F2591CE8036723A591C51B64E5F530195807D0B60B6554F8CB07C7E623B5C24990552FF676276EE9ED967285132849980177DB276F2731B6BDB5B5F598483026A2164789EBA97627DEC7DBF68C9514D6EC5725D59EA9CF492988FF776DF660E547D540D51A55A185A7F690B9D61972777DB725F7121592252D977206C117C8D599981087A1484D16E4A871C5BC65CAC7B955DF39B45672A547385136F2B,
   0x7483740668A8674E5C65540F522989A7862D85CD6FEB6B045D5053754E71916A843D7D616D1B96F7983C83B1676588F887BA7F856DC07FFC7FCC6D746C836B326291617E990A967D90658E0A8B21898184C9844980007F8A7AAF752871946EB66D0B69D8694A66DC64C163FA63DA5EB85BB959965E7C50AD98108F3F8A894E0E4F594E885915878D96C490F59091904A8A9888D579507531733773366D8C6E6767DA670963D6618260A05E7D5BA553CB52C7512A4F51552F8F388AED,
   0x806F7DF47C3E71496F236190604B5EC988C270C852A352176B7466A69F629E97970A96F696B7923482D3793C73B2601C5DBA52B151B74F8B4F364EE4985E7D2F6D99584174609E9F9C5796A38F2A81E8743371D06DCB67975398502B7DD1529B9818967591CF907C8AD2826F7CE77A1C77AD7642731F6DBC688165995BEE51CC4E2150DA4EAE4E86865C65C5616E4FB69F8D7ADC96867C92786B755974096E9C6D415289756563A0844E7ACB73875F8B967896E291CC88E188CF75E2,
   0x815578976E7E6900856885C18A6B9C104E984E999DF267A060D181078CC46B6A8A71548C502D8AD69332808B79849E93516D90CE874B807E80017BED72FC72626F0F6D6A6994697C67175F045ECA5A4152B497328DEF8CC270896AD39B6F5442932C902384EE,
   0x50B250B45085509A50805078506C5056505A504850505055670350475043500650114FEF4FFE502C502950214FF64F1C50055025502A50145028501A4FE54FE44FD04FDA4FD14FDB4FD84FCE4FDF4FD451184F964F864F6F4F914F704F694F7B4F984F8F4F884F764F474F574F5D4F5B4F304F5A4F094EF74EDF4EED4EDE4ED74EC24EC64EC44ECD4ECE4EB64EB34EB04EA24EA04E9F4E9E4E8E5F0D82124E8A8C6B4E854E824E584E564E424E3F4E3C4E364E314E2A4E154E105F0C]

/-- Rows 48 to 59 of jis0208. -/
def jis02084 : List Nat :=
  [0x8FA852915288527152925294528D527D527F527352695274526A5254525E524C524B5244524F52395233522E522A5227520E5214520B520451FE51F551F051ED51E9865551E051DB51C951C551BD51B551B051B251B151B351AB51AA51A951A251A651A45196519551935191518F5189518C56D851825180516E516A51697AF851625154514C51525140513F513B513C5137513A5121511A51145115511651025101510950F550F950EE50E350ED50E550DE50D650C250B350CA50C9,
   0x54A854C854C454AC54A554B854A254C754865490548454765480547B5492547054775471545F548E5475548F544E541D54295436542E543C542D542C5440543D540153FA53ED53E853EE71EE66FC53DF96D97C1253C353B653B053AE53A553A653A0539653825377537B5918536E5369535E51D6534D53494E17534553465340533853335331532F5323531A5315530F5310530D75385308530652F952F852F552F352E098ED52E652E352DE52D752CD52C152B552BC52AD52AC8FA7,
   0x5709570456FF570056F956EE56D756D356D156CE56C856C056C356C156BC56C256B456B656AE56A5568F569456A0568A56805686566A566C562F5664566B563856325636563471DF5650564E55F9561B55FD55FE561655F7561455D455E455DC55C455DF55C555DA55A8558755A95583557C55AE559E5598557E557B559F558A54AF55805599555D55335538555755565545555C552E554C55635540553954E254FA54ED54EE54FD5514550F54E654E554D854BC54BE54A454C254AB,
   0x5969596C5967596059625958595A594E595059557AD2593E59385932592D592C592568A6591B5910590A590258FD58FC58FB58F958FA58EF58DF58E458DC58E558D858D958D758D158D358C558AE58B858BB58DE58BA58AB589F58B958855879583D58526BC05870584B586258215872581D5819580B57E357D6580A57D357D257D457C657C357B057AA57A457B357A057935789577F5761578857C05769574F5740573B574E573857375726571C55C7571657185713570D570B5708,
   0x5C535C4E5C465C415C395C385C285C225C205C135C0D5C085C075C055BF35BF65BF05BEB5BE55BDE5BE25BE65BE45BD05BD45BC95BC75BC35BB85BA65B835B805B7A65885B785B755B735B705B695B655B5B5B5A5B555B515B405B455B435B3E5B365B2A5AD05B325B165B0B5B0C5AFB5AFA5AD65AE95AE65AD75AE35ABD5AC25ACB5ABE5ABC5A9A5A6A5A625A365A355A495A6C5A405A1A5A095A1C5A115A1F5A2559DA59D9598D59DC59E859C659B259A34FAB4F5E599D59815978,
   0x5ECF5ED05EC85EC25EC15EA05E7F9EBC5E7A5E765E755E475E645E625E5F5E545E575E4E5E405E435E445E375E365E1B5E115E195E1A5E0B5DF55DF25DEB5DDB5DD65DD25DD35DCD5DC95DBC5DB75D905DBD5DAE5DAC5D9D5DA25D825D845D875D765D735D6C5D4B5D4E5D525D4C5D185D195D1A5D225D145D115D1B5D1F5D5C5D175D155D0B5CEA5D8C5CED5CFA5CFD5CE95CD95CC75CBE5CC55CB75CBC5CB65CBB5CAB599B5C945C915C8C5C795C764E625C6E5C6C5B715C4F5C50,
   0x609A608360E7608D60816059606B606C6042606460436063604D6046604A605F6077606A6041605A603A600F6026602B6015601B6031600E602960106019606060215FFF60B35FDD5FF15FF85FE45FFB5FD65FBC5FAD5FA85FA05F985F995F9E5F875F915F885F8A5F7F5F825F835F775F735F6D5F615F595F575F565F515F2F5F4E5F4C5F485F415F385F2D5F295F165F115F0B5F5C5F5D5F095F035EFE5EF85EF45EF05EF35EF15EEC5EE95EE85EE15EE25EDB5EDA5EDD5EE35ED6,
   0x621B6214620C620D62096208620061FE61FC61FD61FF61F461FA61F661E361E661CD7F7961CB61BA61C661C361C861F761C961CA61CC61AE61AB6191618A619A619461AC61876196619961756153615D615F61716165616F6174616B615A615961586177617361446142613D6134612C613C613F614A61276128613E6147610E610D60F160FB6121610360FA60F4610060F760F661066115614D60D860B560C660BD5FF060B460D360E060B860E1608B60A7609260976096609B6084,
   0x64BC648864A964A564936495652A644E6476646F6467640F64286417651D64366426641364066434641663C463F663D263C963E363C663C063E963BE6369636B63B5639F6389638F63A3637663AB6380638E6396634F641C634D633E635062F562EF63086302632762F162EE630C62C9629B62C762C262CA62CC62DC62C864D462C662FF62CF62BB62D162D76294628362D4629662936292627E62896282627C62686260625B6263625E624E6241623362326230622E622A6221621E,
   0x66BC66BE66C966B966C1669D669866846689668E6688668366706662665F666866676664665D665E664166496644664F661C663466366635677365FB6603660A677265F165E165E065D965DB65D265CC65C465C165C665C365B765AB659F659B8B8A6583658265786572655D655E6558654D655565566548754B65386536653765356534652B652365246505651C651864FD650064FA64F264F464F6652C64EF64E362AC64E164E0820964E764F164C264D864BB64C764C564D264DA,
   0x68CD690C68E16926692268D8690868CA6901687E688D690F68BA68A068B5687468B96AAE6883689B689D689468AD688F689F687F687768636859682B68B3684E6832684D684068296846681E6A9C67E767C667CE67B967EE67E267DD67DE67E467B867E967B367EC67B467EF67B7678567A167A6678B678C676A677C67A9677067896764676367596760675E67466737673867416736673F672E973867276726671E6716670F66F766F566F066E966E6663F66E066DA66D666B866C4,
   0x6AA36AA26A846AA06A8D6A906A226A386A486A666A596A626A476A786A366A726A0C6A446A136A236AC16A126A0A69EB6A1469ED6A1E69B16A0569E769F269F96B0A69FF6A1B6A0269E869DE69B46995699C69A069916A2E69A769C369BB69DD69CA5BE869CE69BE69D369C169BF69D069AE69B2696A6981695D695E696169306959693D69746939696E697E6954696B6978695C6977697968C669216923691A692A692868EF68E068F9692568E368D769046912693668D568E768D4]

/-- Rows 60 to 71 of jis0208. -/
def jis02085 : List Nat :=
  [0x6CBE6CB16CAE6CDD6CC56CD76CBD6CD36CF16CC46C906C926C736C686C7E6C9B6C816C9A6C8D6C826C6A6C626C556C5E6C236C246C1B6C146C136C089EBE6BEF6BF36BEB6BEC6BDF6BD36BCB6BC66BBC6BB76BB36BB16BB26BAF6BAB6BAA6BA46B9E6B956B986B8D6B836B846B806B7F6B796B786B616B5F6B5B6B546B596B506B496B436B4798EE6B3976DC6B376B386B1F9B316B166B126AFA86166B056AFB6AEA6ADA6AAA6ADF6AD16ADE6AAC6AB36AB86AC26AC36ABB86176A97,
   0x6ECC6F326EEF6F316EF26F3F6EFE6EF86EEC704C6F116F416E9F6EC26EA56E8F6ED56ED46EB26EC46EAF6EBD6ED36EB76EC96E986EAA6E826E386E1D6EFF6E246E4E6E3A6E436E1F6E4D6E766E2B6E6B6E236E3E6E5F6E726E196E2E6E6E6E2D6DEE6DEA6DD56DE46DD96DFA6DC56DD26DE86DCC6DDE6DEC6DC66DB86DE66DC76DB56E0A6E156DF96D856FE46D956D8E6D596D796D5A6D646D936D636D0C6D126D336D356D196D386D3D6D2B6D36884D6D1F6CEA6CD96CEF6CDB6CBA,
   0x71FC71F571E771EC71E071CE71D471C971D271BE71B971D771AC71A87195718471FB718F716C7156714C716271667188715571657119711C70FD710970D970DD70CB70DF70AE70B370B870AC70F170AF70927099706370517032703E7030701F7018701D6F74701A701B6FFE700F700170116FFA700B70096FDB6FEE6FF16FD86FD46FEC6FD56FDF6FAA6FC66FB96FA46FA16FA36FB36F666FC26F916F8E6F586F7C6F826F6D6FF36F5B6F6F6F806F816F786F7A6F866EF76F136F3E,
   0x73F174D474CF74CA74A7749E748B747E7476746A746374707469745C74417459745F743F7455743A743273F87425746F740574A273DE73EE73E573C073BB73CE73B373C8737A737B7375737873707368736A73579ED8734F734E733E73257329732F7334731D7316731C730A7317500F72F772F972E172E072E272D272CE72C472C672C372B272B972A772A272967292728772817282727E72747258724B72467240723F723C723B72327230722C722D7228721B7210720D71FF71F9,
   0x7670766C7667766A76697668766276617658765C764676487647763B7630763476247622762176207627761F7609760D760B75F375F275FA75F0760175FC75FF75FE75DE75E375D975D275CA75CD75B175BC75B875BD75B575C375B375C275A375A5759D759A759475827589758A75747587758675767578756D756B756775647569755A7546755B7549754A754D7544753C752C7526751E75137515750D750E750C75057503750474F774F874F174F074F274EE74E974E774E374E0,
   0x78EC78CA78C578BC78BE78D478CB78C678D178AF78AA78B578A3788C789A787C78867874788E7845792A782079267812780C77FC77EE77E377DC77DA77D777CD77C777BB77BD77BC77BF77B977B677B0779E77A07791778B778E7779777E777F7765775B776B7768775A774777387737771B77267725771E7724772977047707770876FB862F76EA76E776E576E176DE76D276D676CD76C276BA76B976B876B476B0769A769976937696768E768B768876837680767C767876767672,
   0x7B507B367B287B357B1E7B197B187B337B067B0A7B0F7B027AF07AED7AE67AE27AE17ADD7ADA7AD97AD37AD57ACF7ACD7ACA7AC790837ABF7AC47AC57AB67AB07AC87AA97A967A987A957A977A887A7D7A797A709F9D7A697A627A617A497A577A437A377A3E7A3B7A3179807A1F7A207A197A187A0D7A0879E379E179EC79E779D579C979BA79B979B379AE79AA9F4B79A7799D798A797F797A79537955795A795F795779607940792B792C791979117912790778F478FD78DA78E7,
   0x7D067CFA7CF67CF47CF27CEF9B3B7CE27CDC7CD27CD87CC27CC57CC07CBD7CB97CAE7CB17CB27CB37CA87CA17CAB7CA27CAD7CA47C907C837C757C6C7C657C567C647C5F7C587C507C407C4F7C547C437C4C7C3D7C2B7C377C1F7C2A7C277C237BF67C0D7C177BF77BF37C137C077C007C607BE57BE67C147C117BE97BDD7BC67BB47BCF7BCC7BC17BCB7B997B5D7B8F7B927B8B7B9A7B9C7B8D7B9F7B987B9D7B6E7B6C7B717B707B677B747B657B757B457B4C7B0B7B4D7B047B7A,
   0x7F3A7F387E9C7E9B7E8E7E967E947E937E907E927E8C7E897E887E7F8FAE7E7D7DD57E837E7B7E7C7E697E6A7E797E5A7E597E5E7E567E5D7E677E3A7E327E377E437E397E357E3B7E667E467E227E0B7E097E1F7E317E127E217E237E0A7E057DE17DF27DFB7DDE7DE47DDD7DD87DB07D9F7DB87DDC7DAF7DA27E3D7DAB7DBD7DC77DB57DA37DAE7DBA7D9B7D7D7D8F7D5B7D897D937D637D4F7D6E7D687D727D4E7D567D737D467D357D3F7D327D2E7D4B7D457D0A7D157D1C7D02,
   0x814B812F81238129811B80F180EF810980D680DA80C480DD80D980E580DB80AC519080AD809A8093809B808580868084807F807D8079807680708072807380688062805F805A805880528046804A803B803F80288021801C801980188012800B8004800698DC7FF97FF37FE97FE67FE17FD47FD57FCA7FC67FC58B717FB87FB67FAE7FB97FB27FAF7FA37F9A7F9D7F9E7F947F8C7F877F887F837F867F827F787F677F697F687F607F5F7F587F547F557F517F507F4E7F4D7F4C7F45,
   0x82D9830982DC830682DE82F982FB8303839382FA82F382F482D282DF82E382E182AC82BB829F82AB8292828D827E827882778271822E826B826A826882628264825F825A825D82588259824082338238822B822982168210820D820A820782058202820181FE81FB81FA81E781E081DF81DA81C881D881D981D181CD81C981BA81C281C081BD81B881BE81B581B081A98193815F81A381A4819581A081828180818A81888183817481668165816E817180FC81518153813E8146968B,
   0x854885588563854084FC85148515851F852C8518851784F484FF852184A184D684C684C184D084DA84BB84CD84D9849F84BF84B9846284CA84358479846F842C844684698482846E84AD846B84778484855A843C842A846D83FB8506843883BD84208422840D83F283E0840783F783C1840B83D8840383FD83CE83EB841383F483A8838983A08375837383B5837C838A8387838E8323839683A2839F83AA839A838583188317832B832F834583508339834083318332831683348335]

/-- Rows 72 to 83 of jis0208. -/
def jis02086 : List Nat :=
  [0x8759876E876887578774874E874C8778875F8760871A87298725873B8737873F8734870A86F9870D8709871186FB8703870087088706871286EF86DB86DF86EC86E986DE86D486AB882386C986B086C686C486AF86B6868C868B86AA86A986A3869386718667865F86544E55864D863F8630861A8622860685FA85FE860B8613860A85F985DC85E585DD85D585D085B985CF85BA85C98590857E8577859C858785EA859B8594856D85A8858A8591858885A485808555854B86028541,
   0x895E8960891D894C89388936893B89448941892B892A8925891E89438913890A890C890488F288E888F488FC890288F988DD88D988D888D488C488C388B188BF88B088A4888D88A2889988AE889288978882887288B5887D8875889E887E8881886B8862885E8859885288428844883B88278839883688318821882288158816881187D2880E87F787F687FE880D880F87E087F287EF87BB87C687C787B387C487AB96D687D087C087BD87CB87AF8782879F87A28805876A87638753,
   0x8B6B8B5A8B5B8B568B498B4E8B4F8B4C8B418B288B3E8B2B8B2697AB8B338B208B178B108B168AE18B1A8B078B0C8ADB8ADE8AF78AE28AE08B148AF18AE48AE78AF38AEB8ADA8AC28ACD8AC48AA38A9A8AA68AA58A918AA18AA88A848A828A858A628A6C8A6D8A7C8A488A468A528A5B8A418A368A258A1D8A1B8A0C8A108A168A0389F889F489E789DD89DC89DA89C089BF89BD89BA89B289AF89AC89A689A989A189988993898A89888983897E89778974896F896A896D89648966,
   0x8E4A8E348E308E358E428E1F8E108E1E8E1D8DFF8E098E088DFC8DE38DDF8DEB8DEA8DCB8DDB8DCC8DD68DDA8DCF8DBA8DBE8DC28D998D818D738D718D6D8D678D168D148CCD8D139F4E8D108D0D8D0F8D078D0A8D058D048CFB8CFA8CFD8CDA8CE38CE48CC18CC88CB68CAE8CB38CB28CBD8CAA8CAD621D8C988C7C8C948C8E8C8D8C8A8C858C898C828C7A8C788C6C8C628C558C508C4E8C4C8C488C3F8C418C3A8B9A8B998B968B938B928B8E8B8C8B808B7D8B748B6F8B6C8B5F,
   0x8FF89039903590369027900B9016901E900D9021901590118FFA8FF990058FF490878FEF8FEA8FE28FE58FDA8FB78FAF8FAD8FA38F9F8F9C8F648F638F628F5C8F578F4E8F468F498F4C8F3E8F428F458F398F3B8F338F268F0C8F1B8F1F8F1C8F138F198F128F158F058F0A8EFE8EEB8EFB8EFC8EE38EDB8ECB8EC88EC58EBE8EB18EC68EB08EAC8EA18EAA8E998E948E918E938E8A8E8B8E848E858E878E818E7C8E728E768E558E638E2A8E608E648E598E488E508E4C8E498E47,
   0x932E934492FA930F92E992B792B992CF925A929B92939296929C9250924B923F929592489264924992459257925E92119215922C921491FF921E91F691F591FC91DB91E191DF91D691D091CB91C991C191C091BA91B491B591AA91AF91AB91A291829189918B9172917391699165916391589156914A9130913291199112910290DB624890E490E290B590B190AF90A8908F9089908A90809081907D9082907296A89076906F9068905E90589056903E9049900E905290519050904F,
   0x965E965C9677964B964F964C9642962F962E9628962195E295E595E195DC95D695D495D595CC95CD95C36FF695CA95BE95B995BB95BC95AD95A795A895A09599959895969594958A95879582947F9481947E947C945A947D9477947594709229946A945E94629460945B944494529441943A94219435942B943694109407940394139414941A93E493C893D093DD93C393D893E593E893D793D693B9939493AD93AC93B09356936E937C9360935C933B9335933A9323931A93229319,
   0x9870986F986B984B984F9846983D9837982198249838980C980F97F597F67ADF97F29F4F97ED97DC97CB97C897C697C397B497B397A397A697A8979C9790978F978B9786977A9781977C978597799771976B52D29768976697649760975C97499742974897469744973E973D97399730972A972497199716970F9711970E971397089706970496F996D5970D96DC894D96CD96C996CB96CE96B996B896B696B496B096B296B196A796AA969796959698968D966C96729666965F965D,
   0x9AF79AF19AF49AEE9AEB9AEF9AE69AE39AE29ADF9ADE9AD49AD39AD19ACF9AC09ABC9AB09AAD9A6A9A6B9A699A649A659A629A5F9A579A5B9A4D9A559A3E9A439A409A429A459A379A2B9A1999E29A059A0F9A0199F899FB99F299F199EE99ED99D199D899DD99DB99DF99BC99AE99AD99A5999899979955994C99529951994B9950994599499942993E993D992E992C99209924991E991D99219918991499129909990398EB98E998C698C398C498B698B198AF98AA987398749871,
   0x9D489D469D3E9D3F9D419D129D159D449D1F9D239DAF9D269D2A9D069D039CEB9D089D099CF09CEC9CE79C789C769C679C609C5A9C3E9C469C329C479C309C219C249C259C1B9C2E9C049C0A9C129C089C069C0C9C139C099C149C159BF09BF19BF29C3A9BE19BD49BE49BE29BE39BD29BD19BCF9BC69BB99BCA9BC09BB49BA89BA09B9F9B979B969B919B839B939B749B589B519B4E9B4D9B4F9B439B449B329B2F9B2E9B2A9B299B289B279B259B239B229B1F9B1A9B189B069AFB,
   0x9FA09F9C9F959F769F729F779F6A9F6C9F679F669F619F609F5F9F639F549F529F4A9F3E9F2C9F219F1576B79F089F079EFD9EFC9EFB9EF99EF79EF69EF49EEF9EE89EE59EE09EDD9EDE9EDC9ED49ED09ECF9ECE9ECC97619EAD9EAA9EB89EA99EA59E9D9E919E959E929E8C9E8B9E889E819E7D9E799E759E1E9E1B9E1A9DFD9DEF9DED9DE69DF89DD39DD99DC29DCF9DC69DBA9DB89DBB9DC19DC49DB29DA99DA49D9A9D7A9D6F9DAB9D879D899D729D599D509D519D649D5E9D5D,
   0x719951DC7464905969C7582F]

/-- JIS X 0208: 84 rows of 94 cells. -/
def jis0208 : List Nat := jis02080 ++ jis02081 ++ jis02082 ++ jis02083 ++ jis02084 ++ jis02085 ++ jis02086

/-- Rows 0 to 11 of jis0212. -/
def jis02120 : List Nat :=
  [0,
   0x211600A4212200AE00A900AA00BA0000000000000000000000000000000000000000000000000000000000000000000000000000000000000000000000000000000000000000000000000000000000000000000000000000000000BF00A600A10000000000000000000000000000000003850384007E02DA02DB00AF02DD02D900B802C702D800000000000000000000000000000000000000000000000000000000,
   0,
   0,
   0,
   0x3CE03B003CB03CD03C203CC039003CA03AF03AE03AD03AC0000000000000000038F000003AB038E0000038C000003AA038A0389038803860000000000000000000000000000000000000000000000000000000000000000000000000000000000000000000000000000000000000000000000000000000000000000000000000000000000000000000000000000000000000000000000000000000000000000000000000000000000000000000000000000000000000000,
   0x45F045E045C045B045A0459045804570456045504540453045200000000000000000000000000000000000000000000000000000000000000000000000000000000000000000000000000000000000000000000000000000000000000000000040F040E040C040B040A04090408040704060405040404030402000000000000000000000000000000000000000000000000000000000000000000000000000000000000000000000000000000000000000000000000000000000000,
   0,
   0xFE016700DF015300F8014B014901400142013801330131012700F0011100E6000000000000000000000000000000000000000000000000000000000000000000DE01660000015200D8014A0000013F014100000132000001260000011000C6,
   0x17B017D01790176017800DD017401D501D901DB01D70168016E0172016A017001D3016C00DB00DC00D900DA01620164015E0160015C015A01560158015400D5014C015001D100D400D600D200D300D1014501470143013B013D0139013601340128012E012A013001CF00CE00CF00CC00CD012401200122011E011C0000011801120116011A00CA00CB00C800C9010E010A00C7010C0108010600C300C50104010001CD010200C200C400C000C1,
   0x17C017E017A017700FF00FD017501D601DA01DC01D80169016F0173016B017101D4016D00FB00FC00F900FA01630165015F0161015D015B01570159015500F5014D015101D200F400F600F200F300F1014601480144013C013E013A013701350129012F012B000001D000EE00EF00EC00ED012501210000011F011D01F5011901130117011B00EA00EB00E800E9010F010B00E7010D0109010700E300E50105010101CE010300E200E400E000E1,
   0]

/-- Rows 12 to 23 of jis0212. -/
def jis02121 : List Nat :=
  [0,
   0,
   0,
   0x4F844F824F814F7E4F7D4F7A4F794F784F774F714F6E4F6C4F6A4F634F5F4F584F564F544F524F4C4F4B4F494F484F424F404F3E4F3B4F394F374F354F334F604F314F2E4F194F174F164F154F124F0C4F0B4F084F034F024F004EFF4EFE4EFD4EF54EF34EF14EEF4EE84EE24EE14EE04EDB4EDA4ED04EC34EB94EAF4E9D4E974E964E8D4E7F4E794E754E744E694E684E634E5C4E5A4E514E474E444E414E404E354E304E2F4E2E4E2B4E284E244E234E1F4E124E0C4E054E044E02,
   0x5090508F508E508A5086508450835081503B50715070506D506A50675066506350625060505F50595057505350525051504E504C504A504650455042504150405035503350325030502E50275022501E501D501C501B5018501750135010500E500C500A50075004500150004FFF4FFD4FFC4FF24FF04FE24FE04FDC4FD24FCF4FCD4FCC4FCB4FC94FC84FC64FC54FC14FC04FBE4FBD4FBC4FBB4FB94FB74FB24F9F4F9E4F9A4F994F974F944F934F924F904F8E4F8C4F8A4F894F85,
   0x51C251BF51BE51BC51BA51B851AD51A351A1519D5198518E518B51845183517E51665164515F5158515751555153514F514A5142513951385135513451335131512F512D512C512851275123511E511D511C511B51195117511050F2510E510D510C510B510851075106510350FE50FA50F650F150EF50E950E850E650E450E250DF50DD50DC50D850D450D350D050CE50CC50C750C450C350C050BD50BA50B950B050AF50AA50A250A150A0509F509E509C509B5096509450935092,
   0x530B530A5303530052F752F652F452F152F052EC52EA52E952E852E552E152DC52DB52D652D452D152CF52CC52C852C652C452C052BD52BB52BA52B852B752B652B052AF52A752A652A552A4529C529A52985297529652955293528C528A528552825280527952785277526E526652615260525F525C525A52585257525552495245523C523552325231522852225218521652155213521252055202520151F751F451F351F251EE51E551E251DE51D851D551D351D251D151CF51C8,
   0x547F5474546E546D546B54695467546654645462545E544F544D544754445443543554345431542F542A542854275421541A5413540253F553E753E653E053DE53DD53DA53D553D353D253CF53C553C053BD53BA53B853B753B553B453B253AF53AB53AA53A453A1539D539953945393538E538853875383537E53795372536D536C536553635361535B5359534B534C5342533E533D533C533553325330532D532C532B5329532853275325531F531E531C531B531853135311530C,
   0x55D255D155CE55CC55CB55C955C655C355C155BF55B255AD55A455A355975594559355925591558F558E5588558655825581557F5566556455615560555E555B555A555855515550554D554A554955475541553D553C553B553655355532552B552A5515550E550D550C5509550855055501550054FF54FE54FC54F654EF54EC54EA54E054CE54CD54CA54C654BF54BB54BA54B954B754B154AE54AD54AA54A954A754A654A1549F549C549654955491548D54895488548554835481,
   0x56ED56EB56F156E856E756E656E556E456E156DF56DD56DC56D956CD56CC56D056CF56CB56CA56C956C556BE56B756B356B156AD56AC56AB56A956A856A756A6569F569E569D569A56995695568C568B568856855684567556725671566F566D566956665663566256615660565E5654564F564D564B564956465644564356415640563F563D563C563B56395637563556335630562C5619561256115610560F560E560D560A5608560555FF55F655E955E255DE55DB55D855D755D3,
   0x57E1580958085804580357FF57FE57FD57F857F657F557F057ED57E957E757E657E457DE57DD57D557CF57CC57C857C757BD57B857AC57A957A857A7579557A1579F579E579D579C579A579957975794578C57835781577E577C577B577A5779577757755774577357715770576F576E576D576B57685767576557625752574D574C57465745573F573E573D57345733572F572E572C572A572957255724572357225720571D571B571A57155711570C570A57075702570156F756F6,
   0x596D596B59635961595F595E595D595B59595953595259465943593F5936593559335930592F5928592459235921591D8641591459135912590C590B5906590558F358E958E258E158DD58DA58D658D458D258D058CE58CD58C858C258BC58C458B258B158A958A658A258A158A0589D589658945890588F588D588C588A58895888588758815880587F587C58785868586758645861585F58555850584F584D584C5849583F58395832582D582758265820581F581E581B580D580C]

/-- Rows 24 to 35 of jis0212. -/
def jis02122 : List Nat :=
  [0x5ABF5ABB5ABA5AB85AB55AB35AB25AB15AAC5AA75AA25AA05A9F5A9E5A9C5A995A965A935A905A8B5A7E5A7B5A7A5A775A6D5A675A655A635A5E5A555A505A4C5A485A475A455A445A305A2D5A2A5A285A275A245A235A1E5A135A125A0E5A0D5A0C5A045A0059F759F459F259F159EF59EE59E759E459E359DF59DE59DD59D259CD59CA59C859C459C359C159BC59BA59B759B359B059AF59AE59AD59A759A4599F599759955992598E598C598B597C597B5979597659755972596F,
   0x5C695C685C675C635C625C5C5C5A5C595C365C355C325C305C2E5C2C5C2B5C295C265C235C1F5C1E5C175C0C5BFD5BF45BF15BEF5BE05BDA5BD95BD85BD75BD65BCF5BCD5BC15BC05BBC5BBA5BB75BB25BB15BAF5BAD5BAC5BA95BA85B965B945B935B915B905B8E5B8A5B865B845B815B7F5B7E5B7D5B7C5B6F5B6E5B685B5E5B565B525B4C5B4B5B415B385B2D5B255B215B1D5B1B5B195B345B175B085B015B005AFD5AF65AF55AEE5AEA5AE55AE05ADC5ADA5ACF5AC85AC65AC4,
   0x5DE45DE05DD95DD85DCE5DD05DCB5DC75DC35DB95DB85DB45DB05DAB5DA75DA05D9F5D9B5D995D955D945D935D925D8A5D885D835D815D7F5D7E5D7A5D795D705D6D5D6A5D645D625D615D605D5F5D4A5D595D515D555D485D465D435D425D3F5D3D5D395D345D315D275D265D245D235D2B5D125D0D5D065D015CF45CF25CF15CEE5CD75CDD5CD25CCB5CC95CBA5CB55CB45CB25CAA5CA65CA35CA25CA05C9F5C9D5C925C8F5C8A5C885C875C7D5C7C5C7B5C7A5C755C745C705C6D,
   0x5F675F645F635F605F5B5F585F545F505F4D5F475F455F445F405F3F5F3D5F3B5F365F345F305F2E5F2C5F2B5F285F245F235F225F215F1D5F1C5F195F0E5F085F075F065F025EEB5EE55EDE5EDC5ED55ED45ED25ED15ECE5ECB5ECC5EC65EBF5EBE5EBD5EB35EB15EAC5EAA5EA85EA55EA45EA25E8E5E8B5E805E705E6E5E6D5E6C5E6B5E6A5E685E5E5E5C5E5B5E585E565E515E495E505E4B5E3E5E355E325E285E2E5E205E1F5E185E155E145E125E0D5E075E005DF95DF85DE9,
   0x60B760B160B060A860A560A460A2609E609D6098609560936091608E608A608860866082607F607E607160676061605D6057605660546051604C604960486047604060356033602D6024601F601A6018601760146013600D600A60075FFC5FFA5FF65FF35FF25FEF5FEE5FED5FEC5FEA5FE95FE85FE25FE15FDE5FD45FD35FD25FD15FD05FCB5FC95FC85FC75FC45FB85FB15FB05FAF5FAC5FA45FAB5FA75FA25F9D5F9C5F965F8F5F8D5F895F7E5F7D5F7A5F785F755F745F725F6F,
   0x61E561E961E761E261E161DF61DE61DD61DC61D561CF61CE61C261C161C061BC61B961B861AD61AA61A861A561A0619F619D619C6198619761936192618D618B6184618361816180617F617C617B61786172616C6160615E6149614661456141613961376136613561316130612B612A6122611E611C61196117611661146113611261116110610C610A6107610260FD60FC60F860F560F260E560E260DE60DD60DB60D960D560D460CF60CE60CB60CA60C960C860C460C260BE60BB,
   0x637563746371636D636C63666365635B6358635463536352634E634B634A63466344634363426341633C633963366335632D632A63296318631663136310630D630B630A6304630362FD62FC62F462F262EA62DA62D662D562CE62C462BF62BE62BA62B762B662B362A862A66290628F628E628D627D627A6273626F626D6264625C625A62566254625262516250624C6246624462436242623D6239622B62296227622362226220621C62156213620762046203620161EF61ED61EC,
   0x64BF64BE64BD64B364AC64A864A664A364A1649F649D649B6499649864916490648F64876485647D647B64746473646D646364616460645F645D645C645B645A6454645364526451644F644B643F643D64356430642F642A64296425642464226420641E6418641464126410640A640963F963F863F563F363F263EC63EA63E563E063DC63D563D463D363D163CE63C863C563C163BD63AF63AE63AD63A663A4639E639A6399639563946390638A638763846382637F637D637C6378,
   0x661D6616661566126611660D660966086604660065FF65FE65F965F565F465F265F065DF65D865D665D465D065CE65C965C865C265BF65B465B365B265AE65A665A365A0659D659865956592658A65856581657D657A656B65676560655F655465526550654965476543653D653C653A6531652E652965266522651F651E651B6519651665146513650F650A650965086504650164FF64FB64F764F564F064ED64EA64E964E564E464D764D564D164D064CE64CC64CB64CA64C964C4,
   0x675D67556754674C674867476745673E673367226720671C67196713670E6707670566FA66EE66EC66EB66E866DF66DB66D466CF66CE66CC66C866C366C266C066BF66BB66B566B266B166AD66A466A0669F669C669B669A669966926690668D668C668B667C6680667B667966786677667F66756673667E666C666B666A66FB66616660665C665B665966586657664E6651664C664A66466645664066376639663366316630662E662C662B662A662966266624662366226621661E,
   0x68CF68CC68C868C568BB68B268AE68AA68A968A568A368A1689C689A689868966888688668846882687C687B687A68796875687268716870686F686E686B685B685868576855684C684A68456844683F683B683368316830682F682D682C68276828681F681D68196814685267F767F667F267F067E667E167DC67D967D767D267C967C867C567C367C267C067F967BD67BC67BB67B567B267B167B0679B67996798679667936791678F678E67846781677B67766774676E676C6766,
   0x6A326A306A286A246A206A1D6A1A6A156A116A0F6A036A016A0069FE69F569F369F169EF69EE69E569E269D769D669D169C869C569BC69BA69B869B769AF69AD69AB69A869A669A569A1699869966992698D6980697F697B697A697269716970696C696969686966696569646963695B6957694E694969456942693B693869356933693169176916691369116910690A6909690668FD68FC68FB68F668F568F168F068ED68EC68EB68EA68E868E568DD68DC68D968D668D368D168D0]

/-- Rows 36 to 47 of jis0212. -/
def jis02123 : List Nat :=
  [0x6B7D6B756B706B6E6B6B6B676B606B5D6B586B566B526B4D6B4A6B466B3F6B3B6B366B356B2F6B2C6B2B6B286B246B1E6B1B6B176B116B106B0F6B096B076B066B036B026AFD6AFC6AF26AF16AF06AEC6AE76AE46ADD6ADC6AD66AD56AD46AD06ACC6AC86AC96AC66ABF6ABE6ABD6AB46AB16AB06AAF6AAB6AA56A9F6A9E6A9D6A9B6A916A8B6A896A876A866A836A816A7E6A736A716A6A6A676A646A5B6A566A556A526A516A506A4E6A4A6A496A466A456A3F6A3E6A3B6A376A34,
   0x6CD66CD46CD26CD16CD06CCF6CCD6CC66CC26CB46CB26CB06C9F6C9C6C986C976C956C946C896C876C866C856C7B6C796C786C766C746C6F6C6D6C6B6C5C6C5B6C596C546C526C4F6C4D6C4B6C4A6C3F6C3B6C3A6C366C356C336C2E6C2C6C286C276C266C1F6C196C126C106C0E6C0D6C096C056C046C026BFF6BF96BF76BF16BEE6BE76BE66BE36BE16BDA6BD66BCC6BC96BC46BC36BBE6BBD6BB96BB86BB06BAE6BAD6BAC6BA96BA86BA36BA26BA06B9F6B9B6B976B856B826B7E,
   0x6E5E6E5D6E5C6E576E546E536E526E516E4F6E4B6E496E486E456E446E3C6E3B6E396E366E326E276E226E1E6E046E006DFC6DF66DF46DF06DEF6DE96DE56DE26DE06DDF6DDD6DDB6DD66DCF6DCE6DCA6DC86DC46DBF6DBD6DB96DB76DB46DAC6DAA6D986D976D966D946D926D916D876D826D7C6D706D6F6D676D656D616D5F6D5E6D576D3F6D3C6D396D316D2F6D2E6C676D286D276D266D1A6D136D116D0F6D0E6D0A6D076D046CF46CF26CEE6CEC6CEB6CE96CE76CE06CDC6CDA,
   0x6FCA6FC86FC76FC56FBC6FB66FB56FB06FAF6FAE6FA86FA76FA66FA56FA06F9F6F9A6F966F946F936F926F906F8D6F8C6F8B6F886F876F836F7E6F7D6F6C6F686F626F616F5E6F5D6F5A6F596F576F536F526F516F4F6F2D6F3C6F3B6F366F336F306F2F6F2A6F296F266F1B6F1A6F186F166F0D6F0C6F0A6F086F046EFD6EFB6EF96EEE6EED6EEB6ECF6ECE6ECD6ECA6EC86EC76EC36EC16EC06EBF6EBB6EB36EB16EAE6EAD6EA76EA06E996E936E8D6E7D6E7B6E736E686E636E62,
   0x7160715E715C715A715771527150714B714A7147714671457141713871317130712F712D712B7120711E710F710C710B7107710671057104710370FA70E470DC70D870D670D570D470D370D170CA70B770B470B170B070AB70A4709B70987097709670957094708670857081707E70767075706E706C70657064704E705E705D70557054704B704A7049704870447043703C703970377034702F702370207017700D70077006700570006FFD6FFC6FF96FF56FF06FE96FE86FDE6FDA,
   0x72FB72FA72F472F372E572DF72D872D672D572CC72C972C772C172BE72B472B172AE72AD72A8729B7293728E728D72897284727F727C727B727872777271726F726E726B726872637260725E725C725A7256725572537250724F724E7245724372427241723972387234722F722B7224721F721D721A72177213720972087207720071FE71F871DC71DA71D971D671D371CC71CB71C471C171C071BF71BA71B371B271B071AF71A271A0719B719A7192718C71877185718071797168,
   0x73FD73FB73FA73F973F773F573F473E973E773E673E373E173DD73D973D673D373D273CF73CC73CB73C973C673C573BF73BD73BC73B973B773B573AD73AB73AA73A673A573A273A0739F739E739C73987397739573937390738E73867385738373817380737C737973777371736F736E736C736B7369736773667360735F735E735D7358735673527350734D7343733D733B733A733573327331732C7328732773247322731E7319731873137312730D730B730773057304730272FE,
   0x750674FF74FC74FB74FA74F474EF74EB74EA74E874E474DF74DE74DB74DA74D874D374D074CC74C974C874BF74BB74B974B574B274B174AF74AE74AB74AA74A974A874A674A374A174A0749F749C749A74997498749274917490748F74897487748674857481748074727471746E746D746B7468746774667462745D745774527451744D744B74477446744474437440743974317430742F742E742D742C742B742A7429742874267424741B741A7411740A740774047401740073FF,
   0x76397638763576337632762D7629762676257623761E761D761C761B76197616761576137612760F760C760A76087607760476037602760075F975F175EF75EE75EC75E775E475E175E075DF75DC75D775CF75CE75CC75C675C475C175C075BF75BA75B475A475A2759C7599759575937592759075857581757E757D757C757B757A75797571756F7561755F755E755775527550754E7548754775437540753F753E753D75397536752F752A75297527752475217520751775167512,
   0x77627760775F775E775C775777567752774F774E774D774A774677457742773E773D7739773677357734772F772E772D77287722771C771A77197717771577147712770E770A7706770076FC76F976F676F176F076EC76E876E676E076D976D476CE76CC76CB76C976C576C176BD76AD76AA76A876A776A676A576A476A376A276A0769F769D769C769B7695768D768C7685768176747671766F766E766D76657664765F76597655764B764976457644764376417640764A763C763A,
   0x78B378B278B178B078AD78AC78A878A4789F789E789D78A178987894788F788A787E787A786E786A78687864786378617860785E785C7852784E784C7848784778447843783778357830782E782D782378227821781D7811780E780D78097806780577FB77F877F477F177F077EC77EA77E677E477E077DF77DE77D977D577D277D177C977C377BE77B577B177AF77AE77AA77A777A2779F779A779677957794778D778C77847780777D777A7774777377727770776C776A77677764,
   0x79DE79DD79DA79D679D479CF79CA79C879C779C479C279BB79B879B479B179AF79AB79A979A879A1799C799B799879967995799479937991798C798B797E797C797B79797972796B79697967795C795B795879547951794F794B794A794679457944793F793D793B793579347931792D7929792779257920791F791E791C791A7910790C790678FF78FB78FA78F778F6790078F378F278EA78E678E178E078DF78DB78E478D678D578D378D278CE78CC78C978C878C778BF78BD78BB]

/-- Rows 48 to 59 of jis0212. -/
def jis02124 : List Nat :=
  [0x7B307B2F7B2E7B2D7B2B7B2A7B297B277B237B1F7B147B077AFE7AFD7AFB7AF47AF17AEC7AEB7AE97AE87ADB7AD17ACE7ACC7AC97AC67ABC7ABB7AB97AB57AB37AAC7AA37AA07A9E7A947A917A907A8B7A8A7A867A857A827A807A7E7A787A757A6D7A6A7A677A657A607A5F7A5D7A5C7A597A567A557A4C7A487A477A457A447A3A7A397A387A357A347A307A2F7A2D7A2B7A277A217A1E7A1B7A157A117A0C7A0A7A097A077A037A0279FC79F879F179ED79EB79EA79E579E279E0,
   0x7C5E7C5D7C5C7C5B7C5A7C597C537C527C517C557C4A7C467C3A7C397C367C347C337C317C2C7C287C267C257C207C1B7C197C0F7C0E7C0C7C0B7C097C067C047C037C027C017BFE7BFC7BFA7BF97BF87BF57BF47BF27BEA7BE87BDB7BDA7BD97BD77BD67BD47BCA7BC87BC57BC27BBD7BBC7BBB7BBA7BB67BB57BB27BB07BAF7BAC7BA57BA07B9E7B9B7B967B917B907B8E7B897B847B777B737B727B6F7B6D7B6A7B697B667B647B607B557B4E7B477B417B407B3F7B3D7B347B31,
   0x7D9D7D977D967D917D8D7D8C7D8B7D887D867D857D837D827D817D7F7D7B7D7A7D787D707D6A7D677D657D5D7D5C7D5A7D597D577D537D517D4D7D487D477D417D407D3E7D3D7D3C7D317D2D7D2A7D267D237D1E7D1D7D167D137D127D117D0F7D097D087D077D037CF57CEB7CE97CE67CDD7CDA7CD97CD77CD57CD47CD37CCF7CCD7CC97CC87CC77CC47CBF7CBC7CBB7CBA7CB77CB67CB07CA67CA07C9E7C947C8F7C877C867C7D7C7C7C797C727C707C6E7C6D7C697C677C637C61,
   0x7F6D7F667F657F647F637F617F5D7F5C7F5B7F537F527F4F7F477F447F437F3F7F3E7F3D7F3B7F3C7E9E7E9D7E9A7E987E957E917E8D7E8A7E877E867E817E7E7E787E737E6F7E6E7E6B7E657E627E617E5F7E587E527E507E4E7E477E457E447E3F7E367E337E2F7E2D7E2C7E287E277E207E1D7E1C7E177E157E117E107E087DFA7DF97DF67DF57DF17DED7DEB7DEA7DE67DE57DE27E007DD97DD77DCE7DCD7DCC7DC67DC57DC47DC37DC27DB97DB77DB67DB37DAA7DA77DA67D9E,
   0x80EE80ED80E080D880D780D580D480D280CF80CD80C880B980B880AB80A780A6809E809C808E8088808180758071806D80668064806080448040803E803C803A80398037803580348030802E802C802680248020801F801E801D8016801480138011800F800E800D800A800880077FFF7FFE7FFD7FFA7FF27FEF7FEE7FEC7FE87FE57FE37FDF7FDB7FCF7FCE7FC87FC37FC07FBF7FBC7FB47FAD7FAA7FA67FA27FA17F9C7F977F967F917F907F8F7F8D7F8B7F807F7F7F7E7F7D7F71,
   0x8246824582448243823A82348232822882228221821D821A821982148213820F8203820081FF81FD81F981F881F681F581F281F181F081EC81EB81E481E181DE81DD81DB81D781D581CF81CE81CA81C581C381CB81BB81B481B281AE81A2819E819B81988196818E818B818681858184819081818177816F816D8169816881678161816081578152814C814A81478145813C813A81358130812C812781248120811E811C811881178116810B810380FE80FA80F980F680F380F280F0,
   0x837883708357835683558351834E834D8347834483438342833D833C833A833783338330832E832D832C83228321831F831E831D831B8354830B830A830883078301830082FE82FD82F782F682EF82ED82EA82E882E482E282E082DA82D582D082C682BF82BE82BC82BA82B782B482B282B082AE82AA82A982A882A782A482A382A182A0829B829A8298829682948291828E828A828982878284828382818280827F827D827B8274826D826782638260825C82568251824F824E824B,
   0x84D384CF84CC84C884C784C284C084BE84BD84BA84B484B184AF84AA84A984A884A6849E84958493849284858481847D847C84788476847484738470846A8467846584648460845C845A84598458845684528451844F844D844A8448844784458439842F83AD841984158411840F840A8406840183FC83F983F883F683EA83E8835383DD83D483D183D083CF83C983C783C083BF83BE83AC83A983A783A6839D839C839B83998398839583948392838D8386838483828380837F837D,
   0x85FC85F685F385ED85E885E685E085DF85DA85D885AD85CE85CB85CA85C785C285BF85BE85BD85BC85B885B785B685B485A785A585A285A0859F859D85988593858F858C858B8589858685858581857F857D857B857A8579856F856B8564856285618560855F855E855D855C855985568553855285518550854F8546853F853685348533852F852B852A85278525852485238522851E851C8510850E850C85078503850284FD84FB84FA853284F784F284F184F084EF84EA84E784DC,
   0x87238721871F871E8719871487138710870F870E870B87078705870486FD86FC86FA868886E786E586E386E086DC86DA86D786D586D286D186C586C386C186C086BF86B986B886B786B586B486B386B186AD86A886A786A686A1869C869A869886968691868D867A867786768675866F866C866986648663866286618660865D865986588657865686538652864686428640863D863C863A86388636862986278621861E861B86198618861286118610860E860D86058604860085FF,
   0x883588328830882E882D8828881F881E881C881B881A881888148813881288198810880B880A880988068803880187FF87FA87F887F387F187ED87EB87EA87E487E387E287DF87DC87DA87D987D687D587CE87CA87C987C887C187BF87BE87B587B187AE87AD87AC87A787A387A0879E879987988797879587938790878C878B8789878887878786878587848783877B87728771876F876587648761875D8758874D874587438740873E873D873C873A873987328731872F872E8728,
   0x897A897589738970896E896B896389628961895C895B895A89578952894F89498946894589428940893E893A893989358932893189308928892789268920891C891A8919891889168915890F890E890D8906890188F788F588F188F088EF88E788DE88DB88D388D288D188CE88CD88CC88CB88CA88C088BE88BD88BA88AA88A888A0889F889C889B889A88988880887B88798871886988648860885F885C885A8858885688558851884E884B884A88498848884588438841883C883A]

/-- Rows 60 to 71 of jis0212. -/
def jis02125 : List Nat :=
  [0x8AB38AAF8AAE8AA98AA78A9F8A998A978A968A928A908A8F8A8B8A868A838A808A7F8A7E8A7B8A7A8A798A778A768A758A678A658A618A5D8A5C8A588A578A568A538A4E8A4D8A498A478A458A438A408A3E8A3D8A378A358A2F8A2C8A2B8A268A248A228A208A1E8A158A148A128A118A0F8A078A058A0489FF89FD89F989F689F389F189ED89EB89E989E589D889D789D689D589D489BC89B789B689B589B489B089A589A0899F899C899B899589948990898D8989897D897C897B,
   0x8C868C7E8C7B8C768C758C738C6D8C698C688C668C648C638C598C5D8C5B8C588C578C548C538C518C4F8C4B8C498C478C458C3E8C3D8C398C388B9F8B9E8B9C8B958B948B8F8B8D8B8B8B858B848B818B7E8B7C8B798B788B768B6D8B638B5E8B4D8B598B548B538B528B488B468B458B448B438B428B3C8B378B308B2D8B0A8B1F8B1E8B1C8B118B0B8B068B058AFF8AFC8AF68AF58AF48AF08AEC8ADF8ADD8AD78AD58AD48AD38AD18ACA8AC98AC88AC68AC38ABE8ABB8AB78AB6,
   0x8E228E218E208E168E148E118E0B8E068E058E048E018DFD8DF48DF28DF18DBC8DF08DEC8DE78DE58DE48DD98DD78DD58DD48DD18DCE8DCA8DC88DC78DC68DC58DC08DBB8DB98DB78DB58DB28DAF8DAC8DAB8DA68DA08D9F8D9E8D958D918D908D8D8D888D848D828D7F8D6E8D6C8D698D658D1B8D178D128D098D038D018CFF8CFE8CF88CF78CF58CF28CF08CEF8CEC8CE88CE18CDD8CD98CD58CD68CCF8CCB8CC98CC68CC58CBA8CB98CA48C9C8C9B8C998C938C928C908C8B8C87,
   0x8F418F408F3A8F378F368F358F348F2E8F2D8F2C8F288F278F258F238F218F208F1E8F188F178F168F108F0F8F088F078F028F008EED8EFA8EF98EF78EF18EF08EEE8EE88EDC8ED48ED18ECF8EC78EC48EC38EC18EC08EBB8EBA8EB58EB38EAE8EAD8EA98EA78EA28E9E8E9D8E9B8E9A8E958E928E908E898E838E828E7B8E7A8E798E718E708E6F8E6D8E6C8E698E628E618E5E8E5D8E5C8E5B8E548E4F8E4E8E4D8E4B8E418E408E3D8E398E388E378E368E338E318E278E268E23,
   0x90C390BE90CC90BD90B690B490B390B290B090A590A290A190A0909B90999098909790959090908E908C908B90889085907990749070906C906790669062905D905B904C90449043903F903790349033902D902C902A902F90299028901B9018900C9008900490028FFE8FFB8FF68FF58FF18FEE8FE88FE48FE38FE08FD58FD38FD28FD08FCD8FCB8FCA8FC68FC18FC08FBE8FB88FB68FB58FA68FA58FA48FA18FA08F9D8F658F5E8F5D8F588F558F548F538F528F518F4F8F478F43,
   0x91BF91BD91BC91BB91B691B391B291B191B091AE91AD91AC91A891A691A1919E91989195919491939191918E918A9186918591839181917B917A91799174916D916791649161915B915A915991579153914F914891479143913D913C913A91399137913691349131912F912E912991279123912291259120911E911C911A91189117911691149110910D9108910691059104910090FF90FE90F490F090EF90EB90F690D290E590DF90DD90DC90D990D890D790D590C890C790C590C4,
   0x92979292928E928D928A92899288927F927D927C927B927992789277927692759270926F926E926992689267926592619260925D925C925992589251924F924E924D924A92479246924392429240923E923C923A923992389236923592339230922F922E92289226922592249223921D921C92189216921392129210920C920A920992079206920592049201920091FD91FB91F991F791F191F091EF91EE91ED91EC91EA91E991E591E491DE91DA91D991D791D491D391C591C391C2,
   0x93769374937393719370936F936D936A9369936793659364935E935A9358935793559352935193509349934893479337933693349333932A93299327932593249321931F931E931D931C931593149311930D93089302930092FF92FB92F992F092EE92EC92E892E792E592E392E192E092DF92DD92DC92D992D892D792D592D392D092CE92CD92CC92CB92C892C792C692C592C392C292C192C092BF92BD92BC92BB92BA92B892B692B292AF92AB92A892A792A592A492A0929F9299,
   0x957995789483948494729471946F946E946D946B946894639461945F945C94599455944C944A944894459443943D943F943B9434943394329431942F942E941F941794169415940F940E940D9409940894049402940193FD93FB93FA93F893F793F993E793E693E293DF93DE93DC93D993D393CD93CC93CB93CA93C993C793C693C593C493C193A993BA93B693B593B493AB93A893A693A493A393A1939E939B939893959392938F938D938B938A9388938293819380937F937D937A,
   0x970296FA96F196EF96E996DF96DE96DD96DA96D85DB296D296CA96BA96B396AF96AE96A996A696A596A4969F969D969A9696969196899684968396829681967F967E967C967B9674966E9661965896579656965496529641963D963C963A96399638963796339631962C9626962596249622961E961D95E695E495E095DF95DE95DD95DA95D995D395D295D195D095CB95C995C895C695BF95BD95BA95B695B495AC95AB95A995A695A1959F959E959D958E958D958C95889584957E,
   0x982698239820981E981C98169814980E980D9819980A980797FA97F897F797F497F197EF97E497E197DB97E097DE97DD97D997D897D797D497D197D097CE97CD97CC97CA97C997C797C597C497C197BF97BE97BC97BA97B997B897B697B597B297B197AE97AC97A2979F979E979A979997979796979597899780977F977D977B9778977797769773976E976A97679763975B975A975897579755974F974E974A97439741973397319728972397229721971D971B971A970997059703,
   0x99B599B299B199B099A6999F999D999B9960995F995E995C995B995999589954994E994D99489947994699419940993C993B993A993999359934993399329931992B992799269922991F991C991B991A991799169915991199089907990298F698F398EA98E798E698E598E398E198CC98C898C598C298BF98BB98BA98B898B798B498B098AE98AD98AB986C986A9866986598639862985A985998579856985398529851984A98479844983E98259835983398329830982F982E982B]

/-- Rows 72 to 76 of jis0212. -/
def jis02126 : List Nat :=
  [0x9B039B029B019B009AFF9AFD9AFA9AF99AF59AF39AF29AEC9AE99AE79AE59AE49AE09ADC9ADB9AD79AD69AD59AD29AD09ACE9AC89AC69AC39AC19ABF9ABE9ABB9AB99AB69AB59AB49AB29AAF9AAE9AAC9AAA9A5D9A569A549A519A4E9A4C9A4B9A4A9A449A419A479A389A369A359A339A2E9A2D9A279A249A239A229A209A1E9A169A119A109A0C9A0B9A049A039A0299FE99FD99F999F599F499F099EC99EB99EA99E799DE99DC99DA99D999D499D399C999C399BF99BD99BA99B9,
   0x9BF89BF79BF39BEF9BEB9BEA9BE79BE59BDF9BDD9BD89BD79BD09BCE9BC89BC79BC19BBF9BBE9BBC9BBB9BB89BB79BB29BB19BB09BAC9BA99BA79BA69B9E9B9D9B9A9B949B909B8F9B8D9B8B9B8A9B899B879B869B859B849B809B7F9B799B789B779B759B739B6E9B6D9B6C9B6B9B6A9B689B669B659B639B619B5E9B5B9B579B569B559B4C9B4B9B489B3D9B3A9B399B379B359B349B339B2D9B2B9B269B209B1C9B1B9B199B169B129B109B0E9B0D9B0C9B0B9B099B089B059B04,
   0x9D7B9D779D769D709D6B9D6A9D699D659D629D639D5F9D549D539D4A9D479D439D429D3D9D459D3C9D3A9D349D339D329D309D2F9D1E9D1D9D1C9D189D179D119D029D0B9CF99CF79CF29CE69C7B9C779C759C729C709C6E9C689C6B9C5C9C6A9C699C639C5F9C5E9C5D9C5B9C589C569C549C539C509C4F9C4E9C4A9C499C459C449C439C419C3D9C379C369C359C319C2A9C299C289C279C269C239C229C1E9C1C9C1A9C199C189C169C119C0F9C0B9C029C009BFF9BFD9BFA9BF9,
   0x9EF59EF29EF19EF09EEE9EED9EEC9EE79EE49EDF9ED59ECB9EC89EC69EB59EB49EB39EB09EAF9EAE9EAC9EA89EA49E9E9E9B9E989E969E8F9E8E9E879E859E849E839E829E809E7C9E7B9E7A9E1D9E1C9E199E169E159E129E119E109E0E9E079E029E0A9DFE9DF49DF39DF09DEE9DEB9DE99DE79DE59DE09DDF9DDE9DDA9DD79DD69DD59DD49DCA9DC99DC79DC39DBF9DBC9DB99DB59DB19DAE9DAC9DAA9DA19D989D979D969D959D939D929D8E9D8D9D8A9D869D849D839D7E9D7C,
   0x9FA59FA39FA29FA19F9E9F979F969F949F929F919F909F8F9F7D9F7A9F759F739F719F709F6F9F6E9F6D9F699F689F5E9F5D9F5A9F589F579F569F559F539F479F469F459F449F439F419F3F9F3D9F3C9F3A9F399F379F349F329F319F2F9F2B9F2A9F269F229F1F9F1B9F1A9F199F179F169F149F129F119F109F0F9F099F039F029EFF9EF8]

/-- JIS X 0212: 77 rows of 94 cells. -/
def jis0212 : List Nat := jis02120 ++ jis02121 ++ jis02122 ++ jis02123 ++ jis02124 ++ jis02125 ++ jis02126

/-- Rows 0 to 11 of ksx1001. -/
def ksx10010 : List Nat :=
  [0xFFE2222822272229222A2283228222872286220B2208222C222B2235221D223D221A226B226A30132194219321912190219225BC25BD25B225B325A025A125C625C725CE25CF25CB26052606203B00A72252226122072202231222A5222026402642FFE5FFE1FFE0212B21032033203200B02234221E22652264226000F700D700B130113010300F300E300D300C300B300A3009300830153014201D201C20192018223CFF3C2225201500AD300300A82026202500B7300230013000,
   0xAE20AC212133D833C2212233C72116321C327F266C266A2669266D219821962199219721952021202000B6261E261C260E260F266825A925A625A725A825A525A4259225D125D025A325C8229926632667266526612660266425B625B725C025C12030210900A4220F2211222E02D000BF00A102DB00B802D902DA02DD02D802C7FF5E00B42203220021D421D2,
   0xFFE3FF5DFF5CFF5BFF5AFF59FF58FF57FF56FF55FF54FF53FF52FF51FF50FF4FFF4EFF4DFF4CFF4BFF4AFF49FF48FF47FF46FF45FF44FF43FF42FF41FF40FF3FFF3EFF3DFFE6FF3BFF3AFF39FF38FF37FF36FF35FF34FF33FF32FF31FF30FF2FFF2EFF2DFF2CFF2BFF2AFF29FF28FF27FF26FF25FF24FF23FF22FF21FF20FF1FFF1EFF1DFF1CFF1BFF1AFF19FF18FF17FF16FF15FF14FF13FF12FF11FF10FF0FFF0EFF0DFF0CFF0BFF0AFF09FF08FF07FF06FF05FF04FF03FF02FF01,
   0x318E318D318C318B318A3189318831873186318531843183318231813180317F317E317D317C317B317A3179317831773176317531743173317231713170316F316E316D316C316B316A3169316831673166316531643163316231613160315F315E315D315C315B315A3159315831573156315531543153315231513150314F314E314D314C314B314A3149314831473146314531443143314231413140313F313E313D313C313B313A313931383137313631353134313331323131,
   0x3C903C803C703C603C503C403C303C103C003BF03BE03BD03BC03BB03BA03B903B803B703B603B503B403B303B203B10000000000000000000000000000000003A903A803A703A603A503A403A303A103A0039F039E039D039C039B039A03990398039703960395039403930392039100000000000000000000000000002169216821672166216521642163216221612160000000000000000000002179217821772176217521742173217221712170,
   0x254A254925482547254625452544254325412540253E253D253A25392536253525322531252E252D252A25292527252625222521251F251E250D250E251525162519251A251125122542253825252530251D253F25372528252F2520254B253B252B253325232517251B2513250F25032501253C25342524252C251C251425182510250C25022500,
   0x33C633DC33C933C333D333D033DD33AC33AB33AA33A933DB33AF33AE33AD33C533D6338C338B338A33C133C021263394339333923391339033BF33BE33BD33BC33BB33BA3384338333823381338033B933B833B733B633B533B433B333B233B133B033A833A733C83389338833CF338F338E338D33CA33A233A133A0339F339E339D339C339B339A339933A633A533A433A333C433982113339733963395,
   0x215E215D215C215B00BE00BC2154215300BD246E246D246C246B246A246924682467246624652464246324622461246024E924E824E724E624E524E424E324E224E124E024DF24DE24DD24DC24DB24DA24D924D824D724D624D524D424D324D224D124D0327B327A3279327832773276327532743273327232713270326F326E326D326C326B326A32693268326732663265326432633262326132600000014A016600DE00BA015200D80141013F000001320000012600AA00D000C6,
   0x2084208320822081207F207400B300B200B9248224812480247F247E247D247C247B247A24792478247724762475247424B524B424B324B224B124B024AF24AE24AD24AC24AB24AA24A924A824A724A624A524A424A324A224A124A0249F249E249D249C321B321A3219321832173216321532143213321232113210320F320E320D320C320B320A32093208320732063205320432033202320132000149014B016700FE00DF015300F801420140013801330131012700F0011100E6,
   0x3093309230913090308F308E308D308C308B308A3089308830873086308530843083308230813080307F307E307D307C307B307A3079307830773076307530743073307230713070306F306E306D306C306B306A3069306830673066306530643063306230613060305F305E305D305C305B305A3059305830573056305530543053305230513050304F304E304D304C304B304A304930483047304630453044304330423041,
   0x30F630F530F430F330F230F130F030EF30EE30ED30EC30EB30EA30E930E830E730E630E530E430E330E230E130E030DF30DE30DD30DC30DB30DA30D930D830D730D630D530D430D330D230D130D030CF30CE30CD30CC30CB30CA30C930C830C730C630C530C430C330C230C130C030BF30BE30BD30BC30BB30BA30B930B830B730B630B530B430B330B230B130B030AF30AE30AD30AC30AB30AA30A930A830A730A630A530A430A330A230A1,
   0x44F044E044D044C044B044A0449044804470446044504440443044204410440043F043E043D043C043B043A04390438043704360451043504340433043204310430000000000000000000000000000000000000000000000000000000000000042F042E042D042C042B042A0429042804270426042504240423042204210420041F041E041D041C041B041A04190418041704160401041504140413041204110410]

/-- Rows 12 to 23 of ksx1001. -/
def ksx10011 : List Nat :=
  [0,
   0,
   0,
   0xAD06AD04AD00ACFDACFCACF6ACF5ACF3ACF1ACF0ACEFACECACEAACE8ACE7ACE4ACE1ACE0ACD7ACD5ACCCACC8ACC4ACC1ACBDACBCACBBACB9ACB8ACB0ACAFACACACAAACA9ACA8ACA1ACA0AC9FAC9DAC9CAC94AC90AC8CAC8BAC8AAC89AC86AC85AC84AC83AC81AC80AC7AAC78AC77AC74AC71AC70AC5CAC58AC54AC4DAC4BAC40AC3CAC39AC38AC31AC30AC2FAC2DAC2CAC24AC20AC1DAC1CAC1BAC1AAC19AC17AC16AC15AC14AC13AC12AC11AC10AC0AAC09AC08AC07AC04AC01AC00,
   0xAE78AE70AE6CAE69AE68AE65AE61AE60AE5FAE5DAE5CAE56AE54AE50AE4EAE4DAE4CAE4AAE46AE45AE43AE41AE40AE3AAE38AE37AE34AE31AE30AE14AE0DAE0BAE09AE08AE01AE00ADFFADFCADF9ADF8ADE4ADE0ADDCADD3ADD1ADD0ADC8ADC4ADC1ADC0ADB7ADA4AD9DAD9CAD90AD8CAD89AD88AD82AD81AD7FAD7DAD7CAD7BAD76AD75AD74AD73AD70AD6DAD6CAD63AD61AD58AD54AD50AD49AD47AD45AD44AD3CAD38AD35AD34AD2DAD2CAD29AD20AD1CAD18AD11AD0FAD0DAD0C,
   0xB059B057B055B054B053B04EB04CB04AB048B045B044B028B01DB01CB014B010B00CB004B001B000AFF8AFF4AFF1AFF0AFE9AFE8AFDCAFD4AFCEAFCDAFCBAFC9AFC8AFC7AFC0AFBCAFB9AFB8AF9CAF95AF91AF90AF88AF84AF80AF79AF65AF64AF5DAF5CAF50AF49AF48AF43AF42AF41AF3FAF3DAF3CAF34AF32AF30AF2DAF2CAF10AF0DAF08AF07AEFCAEF8AEF4AEEDAEEBAEE8AEDCAED9AED8AED1AED0AECFAECDAECCAEC4AEC0AEBEAEBDAEBCAE8CAE85AE84AE7DAE7CAE7BAE79,
   0xB1DDB1DCB1D4B1D0B1CCB1A8B19CB198B194B193B192B18DB18BB189B188B182B180B17CB179B178B160B15CB158B155B154B151B150B148B144B141B140B139B138B137B135B134B12CB128B125B124B123B11DB11CB11BB119B118B113B112B110B10CB10BB109B108B0E5B0E0B0D8B0D4B0D1B0D0B0C9B0C8B0C7B0C5B0C4B0BCB0B8B0B5B0B4B0B3B0B1B0AFB0AEB0ADB0ACB0ABB0A9B0A8B0A2B0A1B0A0B09FB09CB09AB099B098B091B08FB08DB08CB084B080B07DB07CB05D,
   0xB365B364B35FB35EB35CB35BB358B356B355B354B31CB315B314B313B311B310B308B304B301B300B2FFB2FBB2FAB2F9B2F8B2F7B2F5B2F4B2F3B2EFB2EEB2EDB2ECB2EBB2E8B2E6B2E5B2E4B2E2B2DDB2DBB2D9B2D8B2D2B2D0B2CCB2C9B2C8B2B4B2B0B2ACB2AAB2A6B2A5B2A3B2A1B2A0B29AB299B298B294B291B290B289B285B284B27CB275B274B269B268B260B25CB258B23CB234B220B219B217B215B214B20CB20BB208B205B204B1FDB1FBB1F9B1F0B1ECB1E9B1E8B1DF,
   0xB538B534B531B530B52AB529B528B527B525B524B51CB51BB518B515B514B4F8B4F1B4EFB4EDB4ECB4E6B4E4B4E3B4E0B4DDB4DCB4D5B4D0B4C8B4C4B4C0B4B9B4B7B4B5B4ACB4A8B4A4B49DB488B480B46CB465B463B461B460B458B454B451B450B434B42BB429B428B420B41CB418B410B3FCB3E8B3E4B3E0B3DDB3DBB3D9B3D7B3D5B3D4B3D0B3CEB3CCB3CBB3C8B3C5B3C4B3ACB3A8B3A1B3A0B394B390B38CB385B384B383B381B380B378B374B371B370B36EB36BB369B367,
   0xB797B796B792B791B790B78FB78DB78CB784B780B77DB77CB775B773B771B770B768B764B760B755B754B74CB748B744B73BB739B738B730B72FB72CB729B728B705B701B700B6F8B6F4B6F0B6D4B6B1B6ACB6ABB6A4B6A0B69DB69CB668B664B648B634B62CB625B618B614B611B610B5ECB5D8B5D1B5D0B5CFB5CDB5CCB5C4B5C0B5BDB5BCB5BBB5B5B5B4B5B3B5B1B5B0B5ABB5AAB5A8B5A4B5A1B5A0B561B560B55FB55DB55CB554B550B54DB54CB54BB545B544B543B541B540,
   0xB969B968B960B95CB959B958B951B94FB94CB944B940B93DB93CB920B918B904B8FDB8FBB8F9B8F8B8F0B8ECB8E9B8E8B8E1B8DFB8DDB8D4B8D0B8CCB8C5B8C3B8C1B8C0B8B8B8B4B8B0B8A8B88DB87CB878B871B86FB86DB86CB864B860B85DB85CB853B851B844B840B839B838B837B835B834B82CB828B825B824B81DB81BB819B818B810B80CB809B808B807B801B800B7FFB7FDB7FCB7F4B7F0B7EDB7ECB7C9B7C7B7B8B7B5B7B4B7ADB7ACB7ABB7A9B7A8B7A0B79CB799B798,
   0xBAFCBAD9BAD8BAC8BAC4BABDBABBBAB9BAB8BAB2BAB0BAACBAABBAA9BAA8BA8CBA87BA85BA84BA83BA78BA74BA71BA70BA69BA68BA67BA65BA64BA5CBA58BA55BA54BA53BA4EBA4DBA4BBA49BA48BA42BA40BA3CBA39BA38BA15BA08BA01BA00B9FAB9F9B9F8B9F7B9F5B9F4B9ECB9E8B9E5B9E4B9E3B9E1B9DEB9DDB9DBB9D9B9D8B9D2B9D1B9D0B9CFB9CEB9CCB9C9B9C8B9C1B9BFB9BDB9BCB9B4B9B0B9ADB9ACB98EB98DB98AB989B987B985B984B97CB978B975B974B96DB96B]

/-- Rows 24 to 35 of ksx1001. -/
def ksx10012 : List Nat :=
  [0xBC97BC95BC94BC8EBC8CBC8BBC88BC85BC84BC5DBC50BC4DBC4CBC49BC45BC44BC43BC41BC40BC38BC34BC31BC30BC2DBC29BC27BC25BC24BC1FBC1EBC1DBC1CBC1BBC18BC17BC16BC15BC14BC11BC0FBC0DBC0CBC0BBC09BC08BC02BC00BBFFBBFCBBF9BBF8BBD3BBD0BBC8BBC4BBC0BBB7BBB4BBACBBA8BBA4BB90BB8CBB88BB6CBB63BB61BB58BB54BB50BB4FBB4DBB49BB47BB45BB44BB3EBB3DBB3CBB3BBB38BB36BB35BB34BB2BBB29BB20BB1CBB18BB11BB0FBB0DBB04BB00,
   0xBE64BE61BE60BE5BBE5ABE59BE57BE55BE54BE4EBE4CBE48BE45BE44BE1FBE1DBE1CBE14BE10BE0DBE0CBE05BE03BE00BDF8BDF4BDF0BDE9BDDCBDD8BDD5BDD4BDB8BDB0BDA4BD9CBD9ABD99BD95BD93BD91BD90BD8ABD89BD88BD87BD84BD81BD80BD68BD64BD59BD58BD50BD4CBD49BD48BD40BD2CBD24BD14BD10BD09BD07BD05BD04BCFCBCF8BCF6BCF5BCF4BCDCBCD8BCD5BCD1BCD0BCCFBCCDBCC4BCC0BCBDBCBCBCB5BCB4BCB3BCB1BCB0BCA8BCA7BCA4BCA1BCA0BC9ABC99,
   0xC0E4C0DDC0DCC0DBC0D9C0D8C0D0C0CCC0C9C0C8C0C5C0C1C0C0C0BFC0BDC0BCC0B6C0B5C0B4C0B3C0B0C0AFC0ADC0ACC0A5C0A3C0A1C0A0C098C094C091C090C069C068C060C05CC058C051C03CBFE1BFDFBFDCBFD4BFD0BFCDBFCCBFC5BFB0BF94BF55BF51BF50BF48BF44BF41BF40BF1DBF1CBF1BBF19BF18BF09BF08BF01BEECBEE5BEE4BEE3BEE0BED8BED7BED4BED1BED0BEA8BE99BE98BE91BE90BE8FBE8DBE8CBE84BE80BE7DBE7CBE7BBE75BE74BE73BE71BE70BE6ABE68,
   0xC22DC22BC229C228C220C21FC21CC219C218C211C20FC20DC20CC204C200C1FDC1FCC1F3C1F1C1F0C1E8C1E4C1E0C1D8C1D7C1D4C1CCC1C8C1C4C1BDC1B0C1ACC1A9C1A8C1A5C1A1C19FC19DC19CC196C194C190C18EC18DC18CC185C178C174C170C169C168C167C165C164C15CC158C155C154C14DC14CC14BC149C148C140C13CC139C138C136C131C130C12FC12DC12CC127C126C124C123C120C11FC11EC11DC11CC115C110C108C104C100C0F9C0F7C0F5C0F4C0ECC0E8C0E5,
   0xC430C42CC424C410C408C3F8C3F5C3F4C3EDC3E9C3E8C3E2C3E0C3DFC3DCC3D9C3D8C3C0C38CC388C384C37DC37CC379C378C372C370C36CC369C368C345C329C328C325C324C31CC318C315C314C313C30DC30CC309C308C300C2FCC2FBC2F9C2F8C2F6C2F1C2EFC2EDC2ECC2EBC2E4C2E3C2E0C2DDC2DCC2B9C2B7C2B5C2B4C2ADC2ACC2A8C2A5C2A4C29DC29BC298C290C289C288C281C27FC27DC27CC274C270C26DC26CC265C260C258C254C251C250C248C234C232C231C22F,
   0xC5CEC5CCC5CAC5C9C5C8C5C7C5C6C5C5C5C4C5BEC5BDC5BCC5BBC5B9C5B8C5B5C5B4C5A9C5A0C59CC598C597C595C591C58FC58DC58CC587C584C580C57DC57CC575C574C573C571C570C568C564C561C560C55EC55DC559C558C557C555C554C553C54EC54DC54CC54AC549C548C545C544C53DC53BC539C538C530C52CC529C528C51CC514C510C50CC501C500C4FFC4FAC4F8C4F4C4F1C4F0C4E9C4BCC4B8C49CC494C480C479C475C474C46CC468C465C464C448C43DC43CC434,
   0xC6E8C6E1C6E0C6DDC6DCC6D4C6D0C6CDC6CCC6C5C6C3C6C1C6C0C6BAC6B9C6B8C6B4C6B1C6B0C6A9C6A7C6A5C6A4C69CC698C695C694C68DC68BC689C688C680C67CC679C678C671C66FC66CC660C65DC65CC655C654C653C651C650C648C644C641C640C63BC639C637C635C634C633C630C62EC62DC62CC628C625C624C61CC61BC619C618C610C60CC608C607C606C605C601C600C5FFC5FEC5FDC5FCC5F7C5F6C5F4C5F0C5EEC5EDC5ECC5E5C5E3C5E1C5E0C5D8C5D4C5D1C5D0,
   0xC80AC808C804C801C800C7ECC7E8C7E4C7DDC7D8C7D0C7CEC7CCC7C9C7C8C7C1C7C0C7BFC7BDC7BCC7B4C7B0C7ADC7ACC7A6C7A5C7A4C7A3C7A1C7A0C79AC798C797C796C794C791C790C78EC78AC789C788C787C785C784C783C77EC77DC77CC778C775C774C76BC768C760C75CC758C757C756C755C754C753C752C751C74FC74DC74CC74AC744C740C73DC73CC737C735C733C731C730C728C724C721C720C719C717C715C714C70CC708C705C704C6FDC6F9C6F8C6F0C6ECC6E9,
   0xC9D3C9D1C9D0C9CAC9C8C9C7C9C4C9C1C9C0C99DC99BC999C998C990C98CC989C988C97CC974C970C96CC963C961C960C958C954C951C950C934C92CC918C911C90FC90DC90CC906C905C904C900C8FDC8FCC8F5C8E4C8E1C8E0C8D9C8D7C8D5C8D4C8CCC8C8C8C4C8BDC8BCC8A8C8A1C89FC89DC894C88DC88CC88BC887C886C885C883C881C880C87AC878C874C871C870C854C84DC84CC849C848C840C83CC838C831C82FC82DC82CC824C820C81DC81CC816C815C813C811C810,
   0xCC3BCC39CC38CC30CC2ECC2CCC29CC28CC27CC22CC21CC1DCC1CCC14CC10CC0DCC0CCBE9CBE7CBE4CBD4CBB8CB9CCB79CB78CB64CB5DCB59CB58CB50CB4CCB49CB48CB41CB21CB20CB18CB14CB10CB08CAF4CAECCAE0CAD9CAD8CAD3CAD1CACFCACDCACCCAC4CAC0CABDCABCCA98CA84CA7DCA68CA61CA60CA5FCA5DCA5CCA54CA50CA4DCA4CCA29CA18CA14CA0DCA0CCA0BCA09CA08CA00C9FCC9F9C9F8C9F1C9F0C9EFC9EDC9ECC9E7C9E4C9E2C9E0C9DDC9DCC9DAC9D9C9D6C9D5,
   0xCE35CE33CE31CE30CE28CE24CE21CE20CE19CE14CE0CCE08CE04CDFDCDFBCDF9CDF8CDF0CDECCDE8CDD0CDCCCDC4CDB0CDA9CDA7CDA5CDA4CD9CCD98CD95CD94CD88CD78CD71CD6FCD6DCD6CCD64CD60CD5CCD39CD2CCD28CD24CD1DCD1BCD19CD18CD10CD0CCD09CD08CD01CCF0CCECCCE4CCD4CCD0CCC9CCC7CCC5CCC4CCBCCCB8CCB5CCB4CCADCCACCCABCCA9CCA8CCA0CC9CCC99CC98CC75CC70CC68CC66CC64CC60CC59CC58CC57CC55CC54CC4CCC48CC45CC44CC3ECC3DCC3C,
   0xD03CD038D035D034D02DD018D011D004D000CFFCCFF5CFF3CFF1CFF0CFE8CFE4CFE1CFE0CFC4CFB0CFA8CFA1CF8CCF85CF80CF78CF74CF71CF70CF69CF67CF65CF64CF5CCF58CF55CF54CF38CF31CF30CF2FCF2DCF2CCF24CF20CF1CCF15CF13CF11CF10CF08CF04CF01CF00CEF9CEF8CEF7CEF5CEF4CEECCEEBCEE8CEE5CEE4CEC1CEADCEACCEA5CEA4CEA3CEA1CEA0CE98CE94CE91CE90CE89CE87CE85CE84CE7CCE78CE75CE74CE6DCE6BCE69CE68CE61CE60CE5FCE5CCE59CE58]

/-- Rows 36 to 47 of ksx1001. -/
def ksx10013 : List Nat :=
  [0xD25CD248D241D23FD23DD23CD234D230D22DD22CD210D209D207D1F8D1F4D1D8D1C0D1BCD1BAD1B5D1B3D1B1D1B0D1A8D1A4D1A1D1A0D188D184D17CD16CD168D161D15FD15DD15CD154D150D14DD14CD145D144D143D141D140D13AD138D134D131D130D10DD0F8D0F1D0F0D0EFD0EDD0ECD0E4D0E0D0DDD0DCD0D5D0D4D0D3D0D1D0D0D0C9D0C8D0C4D0C1D0C0D0B9D0B7D0B5D0B4D0ACD0A8D0A5D0A4D081D07DD07CD074D070D06DD06CD060D058D054D050D049D047D045D044,
   0xD401D3FFD3FDD3FCD3F4D3F0D3EDD3ECD3E3D3E1D3D8D3D0D3C9D3C8D3C5D3C4D3BCD3B8D3B4D3ADD3ABD3A9D3A8D3A0D39CD399D398D391D390D38FD38DD38CD384D380D37DD37CD345D344D33DD33CD33BD339D338D330D32CD329D328D325D321D320D31FD31DD31CD316D314D310D30ED30DD30CD305D303D301D300D2F8D2F4D2F1D2F0D2E5D2E4D2DCD2D8D2D4D2CBD2C9D2C8D2C2D2C0D2BFD2BCD2B9D2B8D2B1D2ACD2A4D2A0D29CD295D291D290D288D284D281D280D264,
   0xD620D61CD615D614D613D611D610D608D604D601D600D5F9D5F7D5F5D5F4D5ECD5E8D5E5D5E4D5DDD5DBD5D9D5D8D5D2D5D0D5CCD5C9D5C8D5A5D590D589D588D587D585D584D57CD578D575D574D56DD56BD569D568D565D560D55CD559D558D551D54FD54DD54CD544D540D53DD53CD517D515D514D50CD508D504D4FDD4FBD4F8D4F0D4ECD4E8D4DFD4DCD4D4D4D0D4CCD4A9D494D48DD48BD489D488D482D480D47FD47CD479D478D46FD46DD464D460D45CD444D440D41DD408,
   0xD79DD79BD799D798D790D78CD789D788D781D77DD77CD774D770D76CD769D765D763D761D760D759D758D757D756D754D751D750D749D747D744D73CD738D735D734D72DD72BD729D728D720D71CD719D718D711D704D700D6FDD6FCD6F5D6F0D6E8D6E4D6E0D6D9D6D7D6D4D6D1D6CCD6C8D6C5D6C4D6BBD6B9D6B0D6ACD6A8D6A1D69FD69DD694D690D68DD68CD685D683D674D671D670D669D667D65CD658D655D654D651D64DD64BD649D648D645D640D63CD639D638D62DD624,
   0,
   0x9F959452945190AF7D3A77B076E375B375186E1B6A4467D16562622161BE611F5D4C582A574E52D897A8874E8910845B7AED78A36E3466F7559D4E6B95938AEB8271826E809D7C217AFF7A0878F5770B764E6F97687F67EC674663C061C75E795E7259E6597858BE520A4F8395A389D289BA811A73CF6BBC6164606A54045374523B99D58FE68EFB8DCF8CC88A3688888857830482DB7A3C75C273C26B4C67EF67B767B666875BB65AC1560954E5547553EF52A050F950474F734F3D,
   0x6AA25292528D51096840677050914E5E9A2B93758E4786548171695761065EFA5DFE50654EF64E7E92F89245907DF9028E1E8DDD795B70AC6E2064E764DA636E62D25DE85C4553BB502891B57FB97CB3F90157515BA25580958B93A7F90084CB82A57B8776D6768675A56F1169EA65396168613E6137584F51F1500B4EF74ECB9C47964D92FC8B1B89418591822181547F8C7DB17D737CE07586757A6C5F61775F4A5F3A5EB75D175CA159DC5808525B9598924080DB75325CAC5323,
   0x68B06842621260B85C465B635951583A55534FC29BE89A5A9838980393E190158F158B668396811B803F80157D937D457AF67ADF78EC786C75D974CA74A5749F70F170856D87689766F466BB666F656C64CE61AC61765F915E9A58835770537F52CD52C1510650BE501E4FD34EAC938C92578B197B9D614A517C8A237F3A7D506F546C7A62899D5190638B74898B80A97E6D7D79750472AC727D5805969489A181886FC06A84683C64CA63ED61A950488FF2602F52AB9ED4921077BC,
   0x74DC679C62085BE14E32978F8CA286A37A7A73D9653B63A762F1606D60505DE55B54529F5171516C4F9B9AA8F9046C689BE4889E74286EFE68CD68B166065D11576456F09D608C377A40688F66F2659B54ED9F139AD8986796C7932E8F9CF9038AA588B4883185C183F082FD82E6818F80A180037F947A3F777E769075FC6CBD69C167AF66A065726545653762F75EAB5C3B5B6459D156FA5471544A53E953E49DC4968E8C3F8AA18A087E7C7E6B7CFB7A3D78CE7678754C6EAA68E8,
   0x52FE51774FF14EC74E5D4E454E189BAB9A55990390CA8F4E8F0386DF854E81A07FF97D5E77EF768E72E16A4B6821654E652A5DE75DA05B0C55AC54AC50D14EA48F5F80B17D185B8F9B4169D062D06127602A58DE584A50804E567F6B639B5366945B80F17B5073D672C2709A6D3866E05EE358D9532151494F8A900262EC605D522E992895DC8CAB89C083C57F507BA174D8742F704C6B3E68FA61635BEC5B9851A0F90590ED85FF69E85ED39846934B904E8DE88AB28A8783D379D1,
   0x8CB46B786677F906994B8ECC8A6D6F706AC3673A95D58E768568735753A577376DC36B0A637262F35708537752F8523850268EAC828E7AAE7A795F135BAE7A9F63985C48580090E18ECD88D97FA47A98541B9EB497AB97A083CA5C40570B9F9C9DD79CE99A4599D292B6926490B190118EC08CFC8B33886282DF820A820581FC80097D7F7A7677E977BF7403739672D770786E9D6C426BEC6BC66B5069CB67E967B8655162D861FC5ED05D875BC757A257755614548E53E553E35340,
   0x65E365D762805FCC5E7E5DF15D0E5C905BC459935947591457FC57FA573B566855DC518051764F0E4F0180AF77DC51624E987D667D1A6C726271602553CA4F0B9326F90A895F887F887E82A979BD798174346A8E661164D259974ECAF90999498FD18B3989B283EB82B97B4B747E69FF683965A461C352E452A450C59699697568D8621F5287524B514B6A58F908921E83CC7B607547574752FB95A890358D73898F84757CFE7AC57ABA784573EA69FB63C6594E572D53EBF9079B3C]

/-- Rows 48 to 59 of ksx1001. -/
def ksx10014 : List Nat :=
  [0xF925F924F9237537F9226E736960678FF9215357637A634FF92096E3F91FF91E7156F91D6696F91CF91BF91AF9198AFEF918F917F916F915F91490A3F913F912F911F910F90FF90E62FF62CFF90D61E65A1CF90CF90B513A55AB91D1685462EE54094F767DCA9E929A659A0F9A0E995198E2932493218D778C488B4F8A18808C802D80067F887DBA7D007B95797A79487947794178EF7881757F757874A37482742A742673986DC76C826C7D6C236B3A6A5F68C468CB675E671F671E,
   0x8336591A6EBA533F6CE55C3CF959F95880FDF957F956F955F954F953F9527D10677B8A255AE9F951F950F94FF94EF94DF94CF94BF94A5C3FF949F9488166F947F94660F18FB281BFF945F9446FC3F943F942F941F940F93FF93EF93DF93CF93BF93AF93999D1F938F937F936F935F934F9337459F932F931F93060125F295974F92F52AA5BD75BE7637B62C8606C5FF579CA649A5E745973F92E801067F059485167F92D4E43F92CF92BF92AF929F9285A1856CA8872F927F9267D0D,
   0x684364176389631160BC5F925EA65D8B5CF65C605C0E58575835571652305200501260B35FB75B859EDB968A8CB8888B81FA73B364E162345F855E365CB15C0D5927576E57884EE39EE887B37CD6757668E0649E62075E62585858025510905D8E0F7B5475536C93931F8B5A8AC78983854181BD804375F06FB96F6D6E5B6DE166C764D461BA574D5556905475B8737A6FBE64BB935B9132889286CB7DDE7C1E7AEF77ED6E4D6BB56A8065E665B75F5658C7571855AE4F464EB64E39,
   0x7F857669F95B61F655879A3091278B0485E47B49767B71C86A595D9D5F97920D906F9041829A81C05C6F982D90178C46F95A83737AC775D86793675C6597515C9285846380F47AE577B375BC6F7C6D1E68DF6850677161A7540C52D551CD51AC4EDD7A814E6D98138C5A71C9711E6C8C66BE65FD656660C758A98B807E9B7BE479BF7763736872A2725870066BD297DC9676934D90FD9053901490038E488DF38CED89A984047A3B79B1777976DC71FE6FE46ED46E216DD86AC268F9,
   0x6F2365236200619097428F62792B701D6B7766C6529B9ECE9E979A6A9A6295AD882385DC792A6FFE6ADA65C5623E616E5EEC544252F551374FB691CF8F1B8AD2826F7CE77CB17CAE6A11688151C9516950064EAE756563A051B7840A5FA05D0D4F8690DE8782746F740572FC6D6A67175ECA881F81D862C989BD896485CD7E9C7C436FEB6B16652C64E55D508FA3524C9E1E862D721B703E6B126B0453754E82F95E99F1916AF95D843D7D6173DE70D96D1BF95C908F88F887BA863F,
   0x84FC804A77AD764271CE65995ED65BEE50DA4E8696F78CF48CDA8CC278CA726270285121807E7C6074CF702767275F0458DF8AD69E939E7F930483C97DA0797F788C9E759DFA9B6F97328F058DEF865C8606800176E7721070186F5E6AD364C46488F96052DE96B791B479AE6FA74F8B9F619818974896F69234901E80467FCE7F9A7B2D73B2601C5DBA5CBAF95F56F94F364EE473757C3E6FC26BAE65825EC988C270C86D0C52A3521751BD934A90238F2684EE806F7DF474897149,
   0x782C971681E874336DCB67979E9F9C5796A38EAA85FA749871D06F7E541D9BC996E291D091CC88E188CF83897FB87F797C6C75E2F9627483740672F872816D6C68A8674E60A75C65550E540F539852294FDA967583F17DBE7A1C695E51CC51DC808B52D29686F961681761445F8B8F2A7DB86DEA5D19502B4F969678622E516D985E8B2C786B7624755974607409700F6E9C6D4169B467F365D25289964B93E48938851E7E377D2F763B6F0F6DDA6A135C625A4158D89F8D9B27907C,
   0x6EC59EB597627DEC7DBF772077046C9468C952C95195514D899351AA840C76DF76F2731B6C135B5F9EA59A40964C8C8A81089B4590818CE38CB77F7571646BCF6885679A66275BD05A9259B957CB90998F1E83BD832B82927F547DB2671B5FD95FD859844EA1977A896A83096CAB672B62B9551C9C3B99458F13883B8513842C779E70636F2B6EFF66FC6669633D61625F4E5DD25A29534D4E07908883AB819C6F205E555BDE9EBB9B5499AC78E878BC75F2746A64697C927B207ACB,
   0x6587554F543B520E50119ED858A89D6197278CBF8AA3856A8302821E7E46755D73F771216BCB6B66695965E064AB62C7620A61CB61AE5DEB52D9932882D77AD7732B6E3A6773663463CF5EDF59995893536F8499672659226C926B7F9DA97A46776676EE72676C9067288C8C8B288B00830582BC801777DB773874417261725F6BDB6BCD6A2167D066AE6479647861555E3D59C652DF51924FAE88829CF492989169879F84C28317779176BF6E9F6927669D660E547D540D51A58511,
   0x6F516E2464A562D452C398EF98128FD487E0822C7D46792C78FB78D076FC76E47622755473ED6F586CEE69C365916500642C62CC53DB53CD534A4F3499C196F98FEB85848236818A7E1B7C957B94749E73C06CCA6A38673464B2640F62CD535A525D8B10871C5BC695947DE173C9739F6CEF6C1165FC65FB654F61AB610D60B65CB79EF497618FF78B0E85877F8E7C7377096E446E3C696368B6672A5FAE5F4C5D4B5C3E5A9A547372696C9552FF96EF9580868A805E7D0B7D0A6C76,
   0x765674A76A9764D858C1528850FB743A6CD583037BC472AF6CDB6C4E6C3E68B55E0651E195A57F707B4F4F1098DC85E985437E41F964756A71D471696A0A5E619B44767E767D682267CF5E1B4F704F2F966A914D8F298CE0891988F588F480DA80CC76C371196E43676F639262DC5F9857F9F9634FF3500D9F90963290A68B178A2A868C84A182B3822B818080AA7D2178C56EC2699C678B660965C165B9653E623F5F775E475C2859A8574A508D50239B439AEE926291B18DCB767C,
   0x5A66592B57E054905426526F525650854FEF4ED84E0D9CF392D29022870284EC7E2B742B71A270FD68D263675CF05CEF5C0159494FF84E76672C9C1299A58F3B8F39898689078514832F8179798F670D5FA95B93535C531050D54F0F8F148B5C891388DC83E9752B73E46F7D6E7A6D116B65666E5BF6583158214FDD9A0899208F277ADD79C975C5750170B368C567C4663A661E5E775C5B517550024E199F089C4977A55225908A8FAF8FA88B8A5F01535EF965973995E2861778A7]

/-- Rows 60 to 71 of ksx1001. -/
def ksx10015 : List Nat :=
  [0x80A57FE17DCB7C8379D879D57891781275FA7435F9686CB86BD86BD76BD66BD469A76787659062796249618A60B25E875A6259835351532A531550994E159D6C7E43787C68DA670B5D2962C25F7F5F174F5BF96796F08CC182AC7D1B7CDE7C8976C6711A6C7E6610626E61A45FFF596E595458B356745429520653179CE799D99644961C91DC90E88DBA8D748CFB8CE68CA08A0383A982998240819A815181507F367C3F7B2672366EA56D6E65A765776276F9665E9C5BCC5B755B5A,
   0xF96A6714F969524A9E9D99DF98FC90AA8FAD8D668CDC8B1D8A5E8A5088DF86C784D1838E820D80867D727D177BE979C179607940793E7802734570096E236CD76C996B7B68AD67FB67F665AF659C6368601D5F995E2B5DF35C045BFA5BEB5A11596258EB56DB55E3550653F853F250FF4FDF4F7F4F3C4F3A4ED54E9B4E8B4E4D9A0180586C376191983B8CD38CA773AD725D70156FF16D5C6BAF6AB3658C5F6C5B2A56AC9F3B98DB975E91198CBB8B6C8AB988E8871A83F281C2813E,
   0x7F727DD67D6E7B6E745E728068F2681666F866D96691654D637F629260555F905EB65E8F5DBC58FB58857B19F96D7525751F727282727D227A61F96C55C78CFD74BD585E971C8CDE8C618A7389F488F37FD47BB1796576F872C07240723D6E586A61685160F35EC25EA05E8A5E385CE05C195B40561755AA5546511F50CF50B74E0A98AF92126F8163F7886B8518829F6E1768EE6749F96B4E0985A9715E6BBA64924E7797309178849C7B97759D752373CA6C5565635C71522A5098,
   0x7B6C770176DB73F97329665F661F621060FA60275BAC59D357CEF96E71EE6D89651D965D95838D0D87FE7E966BB266B952619F6796EA8AAA8A2D893B859B820C6E2B6D296CC469545C5153689BAE994D9425929190788DE38A7587EC861A823981B3817A7FA87E557DDA79AA766C74BF748774447401717D6E3265CB657E62475BA35B0B5584514850CA4ED9932B91CB84C678A977F36F5F6DC56C5067906673661460DC5E2D596D59159F209ECD92E4901D8A93897F85AF821280E5,
   0x61015E255CC05CAB5B885AC258FD578256DA55FD53D74FEE91D788709396788E7051F9705237980C90018AA68A1F6DDE677E609A5B8B738798E1905C84C0640D5DFD5B6B901F8D168B167E8C7C9F6D91675F5C6C4FD79A3797F692B790B59061900D8A348607856D852C7D397D207C2B7BE07B117619758E758F752671D270A4701F6EAF6D886CBC68B3662D6414638362405DE25C115C0F5BB55851562F53EC8CB0F96F7D307B397A056D176B7252E24E1691928AA0816580728056,
   0x5D275D0792658FF08853620C99B49806931E91878AC48A62856384F48340821C81237D147B4D77AC76FE73E36DF36D356B896A53696F681265EC60425FAA5F875DE183FD808574B97421719F6F5A6DD15BBF5B705919587E53D49B1A9AD399969808970096D696A896A7968B92B99296916C908390428F388B908AB0889685EA84DA8490833181297F9E7E617DAC7D8F7CB97AEA7A5779C07761762674B27407737872E971E76F316D196C346B8A6A3965786536641C6388624B620D,
   0x6C815FC35C0B5BE960895BE65BA459318FC5F9718F9B8EAB8A0A870385CE85AA839881E3814E7D33795E753371FC666865B0613C5BB85A20547B4FE14F814F3898FE98DF8EFE8B5887557BD271846E5C6B96690D62ED606F5F0F5BD457F48C7A8C558AE18A698A66899684CD84947FC5793A77E2731C67F467BE6642662F65BD60435F115E025C4D5C4E5C385AA459CB563653194F8D965E88057E696607627F534752DD50E74E584E1E897289367FD262FE6FD58768819D745F5D69,
   0x984D814B7E0A6DB26396627C538497449698827E788D6DAF66D6611B5D1657C354C053939D2679E76B83663B600F592E4EF09D2872CE62BC58D395C783F4764C66975EB55DD65CA9553595BC8ECB8B0165A19B9F9854978D96C1773C6848664F63095CB85B899F779C10984E935491026E256A0263E1611560E15E445DBD5CB3580A9D5D9D09991396C5963F8A1D885986FE83AA82BD725962115CE85A25555E51524FC44E9E6C0F96D9F97353414EC08AF682AF751A700B6DF1F972,
   0xF9825982F981F980F97F4F594E885186696D5DAA6DF963A9594456B4513C4FFA86165B7C8AFA8A0071095F665830504381C66A8D629161B651049F6C9B5A99AD8A9E79A676006F0165BC5FA15704990AF97E967D91C08B93F97D8944F97C7F8AF97B7A7079B3760D75D2716C70016D0B6A23694AF97A6698656D651863DA60595B4358E4F979F9784F6FF9778E8D85E584BB846F82E57D04F976F9755F3191CEF9748036723A693063F660F9591C51B6503B4E5F9E1A9DAF7F4C6AFB,
   0x82D2827674307130708EF9A567D3F9A4F9A3F9A253AD95B1F9A1F9A071B1F99F6D856085F99EF99DF99C9CF6F99B925BF99AF999F9988EDF884DF9977E2FF9967DE37B75F995786F784FF99471D571C3F9937159713670DFF9926F146DF56D936D8E6CBF6C87693DF991633B6350F990F98F5EF6F98E5BB45A1F59F8582756A59A5B9006F98D8B6F7E7975ABF98CF98B66135F7957DFF98A4EA6F989F988F9879918F9868F5D8F3F833982458207F985791674B5F9846C5D6B5FF983,
   0x6FB36C5A68A7666465FF655661CAF9B9609F5BE45A1B596758BA586255DA5433543E534850B24FC94F0D4E9498109713F9B892B3F9B78C6B8B7D8A6388D4F9B6860285DD82AE7A62777F730A6FCA6C6D66F353E15208F9B5502A4E42F9B4F9B39719F9B29348F9B18FCE8A6082F1F9B0F9AF7E937A4E76C874D4F9AE745BF9AD737071DF7150702F701B6FDA6F416E366CF36C3869AE6979668E6620F9AC5F715DB8F9ABF9AA584BF9A9F9A8844971C1F9A766C49E7D9AE595BBF9A6,
   0xF9C1746471FFF9C06A48F9BF66DCF9BE64FE6493641662D75DA2F9BDF9BC5BE559DA5996592D582F51F950E5F9BBF9BA754F73255DCD5D6C591677EE6B6A5A03502D738B6C6A678965FA5F8066F09811962E8C4C839E815581187FEB7DE97897742C741373A96D63690068A15B9B5B8C5A498A1B877886D981E57AAA7AA974E66E26995496CD90957FC17670751574EE64C158C55140860A7E157A69761F74656EAB923A738973446C835C4B9F079C328AA487087B7D735271AC70CF]

/-- Rows 72 to 83 of ksx1001. -/
def ksx10016 : List Nat :=
  [0x855382B8801871896F906B9E6A52F9C54E91980A90C17A36715C682F663165ED5F6752D696E996E8968591EA90F590478FC2865E85D5828B7FBD7D0679B97991795076C274407397725B65F46182611A5C245BD35B8753F353CB53C8512A50764F514E8EF9C493DE93948E0A84C983388073752C7528746271946EB66E676D8C699561425EB85BB9588957C752C7519750AD4FD18FB189257E1F6D746B32617E99529080F9C390598B20898187EFF9C2817080007E5E7E477AAF7A88,
   0xF9CB6E38F9CA6D276CB969626961F9C967DA67D4F9C86709653863C46109610860DF60A05EBE5E7D5E7C5BA55B7A55A9552FF9C7516A51124F914E739B4F97CB90558B028918885B875F853F8466840E80C37DEF744B72326E2D669061705C095A0159D4570D537150DE50494F4D925E8D8A67089D1B98589662F9C690608F45888182D17457733F72306E906E726D396C8563F4613F60285BC35AC45A9B57A35712571354E1539F514396C4718A4E909B31851A97FB96F29695904B,
   0x8ABC886387FB858F82647FA977E375916BC5690564EC61FF610F5B9C5100501A4F9D9DF981BA61C951DD90916CE363D698EE97F39670852D6DEB541F4E5996B192808ABE6BB76147606957A0F9DC878D7D68701C620E807FF9DBF9DAF9D9F9D8958F9217F9D78D0780E473A76F64F9D6F9D55C39596B5141F9D4F9D380B280896BD3F9D25809F9D1F9D0936E91C99149907A903E904A8E428E308AED8ADB8A9888D5843881FE7DADF9CFF9CE7652F9CD7531745CF9CC733773366FE1,
   0x534451658CC3834FF9F67A14F9F5F9F4604159D9598A58EC4EFB99B993B090386EA265E558F94F7E4F5A4E00F9F3F9F29777976DF9F18A8D8693F9F083357D6AF9EFF9EE6E6E5FCD5F155BC559FB56E054BDF9ED537052034EC14EBA8B1A7FFC7FCC7FCA76CA7037F9ECF9EB990C98F4F9EAF9E990878CB38CBDF9E8F9E7835182E180848033800CF9E679FBF9E575CD7570F9E473E5723EF9E3F9E2F9E1F9E060215F5B5F1B5DF2F9DF59E85937F9DEF9DD4F0A4EE54E8C91AB8B70,
   0x957791AC8D1388DD85CF85948523846C838A81E781DF81787CA77AE0748B7350F9FA72466F3F6B0C6AA36A1F675666B2638C5F355E845E335C07596C58EF58BB583453204ED74E0896DC88367C2A7BB46F5B66AB5C9176DE6F7A6B9868E75B719D7296C0914C828D7DBD723570B8707C662865AB56BC52FA4F5C96CC8CC78AEE85C98517832881EA80057D2B78C175B574F77386716E70996ECB614860635B5C5B575B5059FF59C954A8523A4ED482BF5B5552694ECDF9F9F9F8F9F7,
   0x6FB16C086BBF68136230609B5EDB5C555C085960587C5861526A524D5178516850B34F7A4F4393D190698FF98FEA8E5F8DE18D648CCA8B2B837B7FDF7E3E7C4D7B1B7A4D7684F9FB72C46EF4657564585BC25AE1540A52E39F5F96CE90B890198E878CAF8A5B85F7845783F982E77D357BB875BD732A72D96E1A6CAE6A17696E677562B55E9559D0548051324F4E4F47931A8ACD7B8F722D9F4E9F4B8F098CA188C17E21707D6ED36E3D6893683D6750624D5BB0572854C9518D969C,
   0x97569706932092CC926691D8914A912D8C9E8AEA8A0282477D8E7CBE7A7D7A0B798E7887775B753A73FD738E70A1701E6E5E6E1F6DE86DC06C406B636A89696867FE6678667665CC6574653F633A60C55F815EF75EAD5E405B9A59C354485075505C4EAD4E954E018776647A63A59EDE9B8E97117C9870B96F385E975CBE53607D767BC07ACA76646D596298622A5207991E986B985A96FB942B93229293923F8F498F3E8A6E7E8F7BC67BAD7B8B7B4C76727551753875307420714E,
   0x816B7E317D9C7D427A2E742E6DD968D5616B60B05F9E5B975027731D62D953525C0A5B5893C38DB37C0765CF9CE596D5963B91E3906D90208E818D998ABF8A5486A485FB80877E707D447CDF7C977A957A2079DF795A7956773A74AA722A71E571676F6E6F1569FD68D7689D671D66F966FA664165E964CD63AA5F6B5F14563252A951CB51464FCE9F4A984C973D969B9664918D8E448AF888FD85BA81CD7B2C796D6FDF68AF63D0608C5F1F5E1D5824557C529152369F0E9802975C,
   0x53EA4E4B8D088B4984B87E5275C7751170DD62EF66FE618E589E847A6C41696B6ADB537D91CD88464EF24E2D830199FF96CB9075902188227AE3756F710C6FEC6E966D5A6A3D66595CFB5BEF57C851C651014FCA7CA57AF999D094449152914E90318F338E8A8D708A858A3B86DB821F7DA27D2C7D027C4C758773E070B76F8D6E4A6D326CE8682A67F16731665D5EDA5DDE5B99594F55FE5468546A80C459DD505A4F8F4F4F4E3B7F6A632B5EA75DE657504F509418937E8E358E2A,
   0x8F2F7DDD6F5757F7F9FD6715659F8FED8DCC8CEA86ED81A37A9279E975BE74C6684E5E195AC959EA53F14F8497079673966393AD90328FB08EEB8CD18A3A8897852F81FB7E1D7E0979E6778B771E76E175B9755B74A1746873CD6EB16D256B84699B686D664B66496422632F587555D4550780777E547A377A1976F490728DBE8D04F9FC8A8C871882B7829D81F3810280A27D1979577949782577E56F2C6C9A6C606B6267B3679D667A65E8652F646F630763015FD75740573054AB,
   0x7B5667F5518A91F591C7852183DC7DB5782663A15F695BE85BC057F050B584BC83D6825981397A93762173166F326EC469CD66A26636660C655E61345F705EE05A3C55315275502150098B968B927AD965AC61FA61596158587953C350ED7D2E672D64E65BDF5239994C9910947D8D0A8B9A7E987CB27E827C127AC474DA74A871E66FAF64B09F6A947F932F7A847740643E6349906E8ECA8E49F9FE7B9A78CB6B646B215DEE5D6F55DF53C9501F4F984E146F8461F25FB596C693F6,
   0x68A262DB6284619454E8527F521D9AD4905E902E8AE67DE06EEF6D9566FF5243FA009BD697518ACB83C1807D6DF866745EF38F128CBC8ADC776B758A725263775E1659BE581E8AC28A797C647C3D77BB751B6DFB6CBE5C1650C994358F4D8F1F7DB46F8864A45FB9558654F251F897C6962195E191E790778E108CE485A6821B7A7F73946DFA6CC964C55DDD5929559853434EDF96BB965F8E60810A76206ECC65A564F262D3621A617D5C3A5254F9FF501C865560BD59BB51C48CAC]

/-- Rows 84 to 92 of ksx1001. -/
def ksx10017 : List Nat :=
  [0x840381B560B48877885D87F26C965FE051459EDC672E51FA7443693F662590108EF88E748E5984C47E2E7BC97B517AFA795D755C4E119C0D9A3696DB939A93189310919C914B91128FFD8DA88ACF842982BB79CB76BA6E6B6A1E6978690E63A862BD589C67005D1450AC64AE9283852580707E3D6460618160A45BF5585A53E290A867515FD65BF889F8870077D771ED56D14FC391AE918B91628D858C828549834982D5827880967A0D79D2790E7901785D712670926A35695A6912,
   0x8A17743874226FEF6FC167DD666B64E2FA026258FA01577C55445353502C99DD99B1964082356955673662D6625360F059A558AE553E54A44ED65FEB7A3179E487C4937C91DD7827741B6D786C8867955BE24FB56F0667D24E0389AA98ED52C552479F5299B396C98F1C86A981F47F6E7DFB7DC77A497A1A766175F475D471BE6DC46CBB689460655E5F5CD955E450244F885C646E2C60FB53A04EC450749DF29A5F91898DA381ED8106805A7FE0708A5C315A365634543953D68D05,
   0x92118FA68CA974E37248677F5742522498178DDB82AD7F7778347436722C6D3E6CE2677764FA64AD628A5DF45A46576195D67279615D9B2A900F629559AC5957507898399000892A817F69CC5806901A7D717B5275DBFA056876615F8A0E571F5410514E650464916FA464C7FA0498B190B08DC682D480CE7B1E6CF06C706B86614B6020592A53F0514C8569FA036E6F5E115B9569BB642D58548CAA803D770863A2812B596A8A957DBB70AD70586B4E619A5F485766560654519438,
   0x9A4398C498C78C798868796874E26F026A19675361535F6A527D4FF5FA077206701166DD66B45E459B9198FD92EA900B8912888D84B2846182DE812F80DE783275B16D666CE1FA06635562B1629B60165E03570354FA5486530F530D53054F48965B9589853D80BA65835F0A5EE25E635B1654208A55840D67B05E73576A8CB69A1997AD904D7FE97DE87BC772476241504F4FBF610E81A870F96F8E5F6D8C9D89877A1772FD724C6D7F6C9B6557609655044F69634C53ED516B962A,
   0x822A809B7F386E2F6C866841676D629760525DF75AE659EE4F094EA2965C95D495A486E476D254C854089E799677929C82667DD86DB56ABB558A556354B8542B51FD8F44527297D39650959295917FF07F55701A6FA36F226C5765F1608D60685BD29DB48B1486505B7858D19C15971E90508CC08766837774556CB366305EC8590F53A64F554E0B903C4E4F999D82FE7B46758B756273CC6CCC5FC55F3C53399642907F88AB76AE75B262AB5F7C99AE98A88C4A8AF769537A1F54C1,
   0x578B521151444EA8983092CF83A28107810572F96D79633E5CFD593E53544FE05ACC980188407A745B51986F92498CE2FA0A885282377E237D627D43774D772973FE73B9738470AB6CEB665B61F85F265CF44FD497698D6B720059559A5796AA6B478ED2737B6AF661B28A31865B589F565399999957990997FF911573E656AE54114EAB884C8347674F5E785016683852BE9AB899ED90828AE78A7289E387F970236D77697761C85BB35B69595A579354B350554EA59805FA09FA08,
   0x7575706B6A3A5B05548C53169D3B8A0C86797D0570D86D2A6CD36C5E5F1854C47B0F60DA5FFD9B42743F6E3E6DF7660F5A5A9177621660D19865980093AC8C6A8B778774865F864E84BF846B82A680E17E1E7CCA795C769374E0745A742572D0705D6FE96FE06F946EF86E566DCF6D696BEB6667660A624862365F275CB5597D58FA58D5547C4E924E4E978B91AF8E4A855966B3616760E05F57516E99A893A390A29008886187A2834A746973E9719270AF705070056ECE6CC25F62,
   0x6DC66D8D689F66C9658565485B5D568654EE94046A6B5B96737252838CC48AA886D4833481BE7E6A736A70706FAE6DEE6A9C6703666661F7609460625F8A5EFB56DE532F9EC3968D9051875783527C277BC17687749C714C6F626EC96E5F6CC169A566446643614C613060F6604D5FA85E4C51F095CA8C41733E6ED16D3B9C259A6990847D0874B071656E19685366656B6163DB60A35E7B5BA65950559A4E387A6B78BB78BA652B64F4FA0B97748CA88B418A7183EF82B179BE798D,
   0x8A707FB27A0079A772A771BA71B9719966E6665E6231619861995E0C5B0959EC56CD566B559C51DE50D682087FD56D3D607054386B466B3D6B208A167D075C79540375D570986B2366159ED180F86D36530851F651479DF88B4E60648667756670CB643A4F119EBE8F1D8AF17147668963EE5FBD5F596BC1559953498431714A668455A785A866888A1385B071FB718F710458CE586452F352DB900573DD7166673D5F8C5E3F55C55589543C540E539A50194FAF9A4D917580B4723B]

/-- KS X 1001: 93 rows of 94 cells. -/
def ksx1001 : List Nat := ksx10010 ++ ksx10011 ++ ksx10012 ++ ksx10013 ++ ksx10014 ++ ksx10015 ++ ksx10016 ++ ksx10017

/-- Rows 0 to 11 of gb2byte. -/
def gb2byte0 : List Nat :=
  [0x4FA24FA14F9F4F9E4F9C4F9A4F994F984F964F954F934F924F904F8E4F8C4F8A4F874F864F854F824F814F804F7D4F7A4F794F784F774F754F724F714F6E4F6D4F6B4F6A4F684F664F624F614F564F544F524F4C4F4B4F4A4F494F484F474F454F444F424F414F404F3F4F3E4F3B4F394F374F354F334F314F2E4F2D4F2C4F294F284F234F214F1D4F1C4F164F154F144F134F124F0C4F0B4F084F074F064F054F044F034F024F004EFE4EFC4EFA4EF94EF84EF44EF14EEF4EEE4EED4EE94EE74EE64EE24EE04EDC4EDB4EDA4ED24ED04ECF4ECC4EC84EBE4EBD4EBC4EB94EB84EB74EB64EB44EB14EB04EAF4EAA4EA34E9E4E9D4E9C4E994E974E964E904E8A4E874E854E844E834E824E814E804E7F4E7D4E7C4E7B4E7A4E794E784E774E764E754E744E724E6F4E6E4E6D4E6C4E6B4E6A4E684E674E654E644E634E624E5B4E5A4E574E554E514E4A4E464E444E424E414E404E3C4E374E354E334E314E2F4E2E4E294E264E234E214E204E1F4E174E124E0F4E064E054E044E02,
   0x50BC50B950B850B750B650B550B450B350B150B050AF50AE50AD50AB50AA50A650A450A250A150A0509F509E509D509C509B509A5099509850975096509550945093509250915090508F508E508C508B508A5089508750865084508350825081507D507C507A50795078507550745073507250715070506F506E506D506B506A506950685067506650645063506250615060505F505E505D505B505950585057505650545053505250515050504D504B504A5049504650455044504250415040503F503D503B5039503850375036503550345033503250315030502F502B50275024502350225020501E501D501B501750165015501350115010500E500B500A50095008500750065005500450035002500150004FFF4FFD4FFC4FFB4FF94FF74FF64FF54FF44FF24FF04FEC4FEB4FE74FE54FE44FE24FE04FDB4FD94FD64FD54FD44FD34FD24FCD4FCC4FCB4FC94FC84FC74FC64FC24FC14FC04FBE4FBD4FBC4FBB4FBA4FB94FB84FB74FB64FB44FB34FB24FB14FB04FAD4FAB4FA4,
   0x51D751D651D551D451D351D251D051CE51CD51CA51C851C551C351C251C151BF51BE51BA51B951B851B451AE51AD51AA51A951A851A751A651A351A1519F519E519D519A51985194519351915190518F518E518B518A5187518651845183517F517E517A5172516F516A5169516751665164516351615160515F515E515D515B515951585157515351525150514F514E514C514A51475142513E513D513C513B513A5139513851375136513551345133513251315130512F512E512D512C512B512A512951285127512651255124512351225120511F511E511D511C511B511A511951185117511651155114511351115110510F510E510D510C510A5109510851055104510351025101510050FF50FE50FD50FC50FA50F950F850F750F650F450F250F150F050EF50EB50EA50E950E850E550E450E350E250E150E050DF50DE50DD50DC50DB50D950D850D750D550D450D350D250D150D050CE50CD50CC50CB50CA50C950C850C750C650C550C450C350C250C150C050BF50BE50BD,
   0x530E530C530B530A53095307530453035302530152FD52FC52FB52F852F752F652F552F452F352F252F152EF52EE52ED52EC52EB52EA52E952E852E752E652E552E352E252E152E052DE52DD52DC52DB52DA52D952D752D552D452D352D152CF52CE52CD52CC52CA52C852C652C552C452C252C152C052BD52BC52BB52BA52B952B852B752B652B552B452B052AF52AE52A752A652A552A4529C529A52995298529752965295529452925291528F528E528D528C528B528A5289528752865285528452835280527E527C527B527A527952785277527652755274527352715270526E526D526C526B526852665264526352625260525F525D525B525A525952585257525552535252524F524E524B524952485247524652455244523E523C5235523452325231522F522C522A522752265225522352225221521F521E521C5215521452135210520F520C520B52095205520451FE51F751F451F251F151EE51EC51EA51E951E851E751E651E551E351E251DF51DE51DC51DA51D951D8,
   0x54A154A0549F549E549C5498549754935491548D548A548954885487548554835481547F547E547A547954745470546F546E546D546C546B546A546954675465546354615460545F545E545D545A5451544F544E544D544C544954475445544454425441543F543D543A5437543654335430542A542554245422541C541A541954185414540B540754055402540053FF53FE53FA53F453E753E253E153DE53DD53DC53DA53D553D353D253D053CF53CE53C753C653C553C453C353C053BE53BD53BC53BA53B953B853B753B553B453B353B253B153B053AF53AD53AC53AB53AA53A753A453A153A0539E539C539B53995397539653945393539253915390538F538E538A53885387538353815380537E537D537C537B537953765372536D536C536A53685365535D535B5359535853545350534D534C534B5346534453425340533D533C533853375336533553345333533253315330532F532D532C532B532953285327532553245322531F531E531C531B53185314531353125311,
   0x560556045603560255FF55FC55FB55FA55F955F855F655F455F155F055EE55ED55E955E755E255E055DE55DB55DA55D955D855D755D555D055CF55CE55CB55CA55C855C755C655C355C255C155C055BF55BC55BA55B855B655B455B255B055AF55AE55AD55AC55AB55AA55A955A855A655A555A455A355A255A155A0559E559B559A559755965595559355925590558E558D558C55865585557F557D557A557955745573557255715570556F556B55695568556355625560555F555E555D555B555A5559555855575554555355525551554F554E554D554C554B55485547554555425540553D553B553A553955385536553555345532552D552B55295528552655255521551F551E551D551C551A5519551855175516551555135512550E550D550C550B550A55085505550455035502550054FE54FB54F954F854F754F654F554F454F154F054EF54EC54EB54E454E354E254E154E054DB54D854D654CB54CA54C554C354BE54BC54BA54B954B754B654B554B254B054AE54A554A2,
   0x57115710570F570E570D570C570B5707570557025701570056FC56FB56F856F756F656F356F256EF56EE56EC56EA56E956E856E756E656E556E356DC56D956D856D656D556D356D256D156D056CF56CE56CD56CC56CB56C956C856C756C656C556C456C356C256C156C056BF56BE56BD56BB56BA56B956B856B656B556B456B356B256B156B056AE56AD56AC56AB56AA56A956A856A756A656A556A456A256A156A0569F569E569D569C569B569A569956985697569656955694569256915690568D568C568B568A56895688568756845683568256815680567F567E567D567A56795678567756755674567356725670566F566E566D566756665665566356615660565F565E565D565B565A565656555653565256515650564F564B564A5649564856475646564556445643564256415640563E563D563C563A56385637563556335630562F562E562B562A5629562856265625562256215620561D561C561A561956175616561556145613561256115610560D560B560A56075606,
   0x583D583C583B583A58395838583758365834583358325831582F582E582D582C582B5829582858275826582558235822581F581D581C581B581A5818581758165814581358125810580F580E580C580A58095808580558045803580157FF57FE57FC57FB57F757F657F557F357F257F157F057EE57EC57EB57EA57E957E857E757E657E557E357E257E157DE57DC57DB57D757D657D357D157D057CD57CC57CA57C957C857C757C657C557C457C157C057BF57BE57BD57BC57BB57BA57B957B757B657B557B357B157B057AF57AC57AA57A857A5579F579E579D579C579A57995798579757965795579457915790578F578E578D578A57895788578757815780577F577E577D577A5779577857755774577257715770576E576C57675765576357625759575857565755575457535752574B5749574857465745574457435741573F573D573C5738573757365735573457325731572B5727572657255724572257215720571E571D571B571A57195718571757165715571457135712,
   0x593B59365935593359325930592C592859265923592259215920591E591D591B591859175913591259115910590E590C590B590A590959085906590559035901590058FF58FE58FD58FC58FB58FA58F858F758F558F458F258F158EF58ED58EA58E958E858E758E658E558E358E258E158E058DF58DE58DD58DC58DB58DA58D958D858D758D658D458D358D258D058CF58CE58CD58CC58CB58CA58C958C858C758C658C458C358C258C058BF58BE58BD58BB58BA58B958B858B758B658B558B458B358B258B158B058AF58AE58AD58AC58AB58AA58A758A658A558A458A358A258A158A0589D589C589B5898589758965895589458915890588F588E588D588C588B588A58885887588658845882587F587D587C587B587A5879587858775876587558745873587258715870586F586E586D586A586958685867586658645863586258615860585F585D585C585B585A5859585758565855585358525850584F584E584B584A584958485847584658455843584258415840583F583E,
   0x5A605A5F5A5E5A5D5A5C5A5B5A595A585A575A565A545A535A525A515A505A4F5A4E5A4D5A4C5A4B5A485A475A455A445A435A425A415A3F5A3E5A3D5A3B5A3A5A395A385A375A355A335A305A2F5A2E5A2D5A2C5A2B5A2A5A285A275A265A245A225A215A1E5A1D5A1B5A1A5A195A175A165A155A145A125A105A0F5A0E5A0D5A0B5A0A5A025A0059FE59FD59FC59FA59F859F759F659F559F459F359F259F159F059EF59EE59ED59EB59EA59E959E759E659E459E259E159E059DF59DE59DB59D959D659D559CF59CE59CD59CC59C959C859C759C559C459C359C259C159C059BF59BD59BC59BA59B859B759B659B559B459B359B159B059AD59AC59A759A659A259A159A0599F599D599C599B599A59985995599459915990598F598E598C598B598959855980597F597E597C597B597A59775975597259715970596F596E596D596C596B596A5969596859675966596459635961595F595E595D595C595B5959595359525950594D594C594A5946594559435940593F593E593D,
   0x5B475B465B455B445B435B425B415B3F5B3E5B3D5B3C5B3B5B3A5B395B385B365B355B335B315B305B2F5B2E5B2D5B2C5B2B5B2A5B295B285B275B265B255B245B235B225B215B205B1F5B1E5B1D5B1C5B1B5B1A5B195B185B155B145B135B125B115B105B0F5B0E5B0D5B0C5B0B5B0A5B085B075B065B055B045B035B025B015B005AFF5AFE5AFD5AFC5AFB5AFA5AF95AF85AF75AF65AF55AF45AF35AF25AF05AEF5AEE5AED5AEC5AEA5AE85AE75AE55AE45AE25ADF5ADE5ADD5ADB5ADA5AD95AD75AD55AD35AD15AD05ACF5ACE5ACD5ACB5ACA5AC85AC75AC65AC55AC45AC35AC05ABF5ABD5ABC5ABB5ABA5AB95AB75AB65AB45AB15AB05AAF5AAE5AAD5AAC5AAB5AA95AA85AA75AA65AA55AA45AA35AA25AA15AA05A9F5A9E5A9D5A9C5A995A985A975A965A955A945A935A915A905A8F5A8E5A8D5A8C5A8B5A8A5A895A885A875A865A855A845A835A825A815A805A7E5A7D5A7C5A7B5A795A785A735A725A715A705A6F5A6E5A6D5A6C5A6B5A695A685A665A655A645A635A61,
   0x5CA85CA75CA65CA55CA45CA15CA05C9F5C9E5C9D5C955C935C925C8F5C8E5C8B5C8A5C895C875C865C855C845C835C805C7E5C7D5C7C5C7B5C785C775C765C755C745C735C725C705C6D5C6C5C6B5C6A5C695C685C675C645C625C5F5C5D5C5C5C5B5C5A5C585C575C565C545C535C525C4D5C4C5C475C465C445C435C375C365C355C335C325C305C2F5C2E5C2D5C2B5C2A5C295C285C265C235C215C205C1F5C1E5C1B5C195C175C135C125C105C0E5C0D5C0C5C0B5C085C075C055C035C025C005BFE5BFD5BF75BF65BF55BF45BF35BF25BF15BEF5BED5BEC5BEB5BEA5BE95BE75BE65BE35BE25BE05BDC5BDB5BDA5BD95BD85BD75BD65BD55BD45BD15BCF5BCE5BCD5BCB5BCA5BC95BC85BC35BC15BC05BBC5BBB5BBA5BB75BB25BB15BAF5BAE5BAD5BAC5BA95BA85BA75B9F5B965B945B925B915B905B8E5B8D5B8A5B865B825B7F5B7E5B7C5B7B5B795B785B775B765B745B725B6F5B6E5B6D5B6B5B685B675B615B605B5E5B565B525B4F5B4E5B4D5B4C5B4B5B4A5B495B48]

/-- Rows 12 to 23 of gb2byte. -/
def gb2byte1 : List Nat :=
  [0x5DA05D9F5D9E5D9C5D9B5D9A5D985D975D965D955D945D935D925D915D905D8F5D8E5D8D5D8C5D8B5D8A5D895D885D875D865D855D845D835D815D805D7F5D7E5D7D5D7C5D7B5D7A5D795D785D775D765D755D735D725D715D705D6E5D6D5D6A5D685D675D665D655D645D635D625D615D605D5F5D5E5D5C5D5A5D595D575D565D555D545D535D525D515D505D4F5D4E5D4D5D495D485D465D455D445D435D425D415D405D3F5D3C5D3B5D3A5D395D385D375D365D355D335D325D315D305D2F5D2C5D2B5D2A5D285D255D235D225D215D205D1F5D1D5D1C5D1A5D195D185D175D155D135D125D115D105D0F5D0D5D0C5D0B5D0A5D095D085D055D045D015D005CFF5CFE5CFD5CFC5CFA5CF95CF85CF75CF65CF55CF45CF35CF25CF15CEF5CEE5CEC5CEB5CE95CE75CE35CE25CE05CDF5CDE5CDD5CDC5CDB5CDA5CD85CD75CD65CD55CD45CD35CD15CD05CCF5CCE5CCD5CCC5CCA5CC95CC85CC75CC65CC55CC35CC25CC05CBE5CBC5CBB5CBA5CB95CB65CB45CB25CB05CAF5CAE5CAA,
   0x5EC55EC45EC35EC25EC15EC05EBF5EBD5EBC5EBB5EBA5EB45EB25EB15EB05EAF5EAE5EAC5EAB5EAA5EA95EA85EA45EA35EA25EA15E9D5E9B5E985E925E8E5E8D5E8C5E895E885E855E835E825E815E7E5E795E775E755E715E705E6F5E6E5E6D5E6C5E6B5E6A5E695E685E675E665E655E645E635E605E5F5E5D5E5C5E5A5E595E585E575E565E535E525E515E505E4F5E4E5E4D5E4B5E4A5E495E485E475E465E435E415E405E3F5E3E5E3A5E395E365E355E345E335E325E305E2F5E2C5E2B5E2A5E295E285E255E245E235E225E215E205E1F5E1E5E175E135E125E0E5E0D5E0B5E0A5E095E075E045E005DFF5DFC5DFB5DFA5DF95DF85DF65DF55DF05DED5DEC5DEA5DE45DE35DE05DDF5DDC5DDA5DD95DD85DD75DD65DD55DD45DD35DD25DD15DD05DCF5DCE5DCC5DCB5DCA5DC95DC85DC75DC65DC45DC35DC25DC15DC05DBF5DBE5DBD5DBC5DBB5DBA5DB95DB85DB65DB55DB45DB35DB25DB15DB05DAF5DAE5DAD5DAC5DAB5DAA5DA95DA85DA75DA65DA55DA45DA35DA25DA1,
   0x60075FFC5FFA5FF95FF75FF65FF45FF35FF25FF05FEF5FEC5FE95FE85FE65FE55FE35FE25FDF5FDE5FDC5FDB5FDA5FD55FD45FD35FCE5FCB5FCA5FC85FC75FC25FC15FC05FBF5FBE5FBB5FBA5FB95FB85FB65FB45FB35FB25FB15FB05FAF5FAC5FAB5FA95FA75FA65FA55FA45FA35FA25FA05F9F5F9E5F9D5F9B5F9A5F965F945F935F915F8F5F8E5F8D5F865F835F7F5F7E5F7D5F7A5F785F765F755F745F725F6F5F6E5F6B5F685F675F655F635F605F5F5F5E5F5C5F5B5F5A5F595F545F515F4F5F4E5F4D5F4C5F4B5F4A5F495F485F475F465F455F445F435F425F415F3F5F3E5F3D5F3B5F385F375F365F355F345F335F325F305F2E5F2C5F2B5F285F245F235F225F215F1E5F1D5F1C5F1A5F195F165F145F125F105F0E5F0D5F0C5F095F075F065F055EFD5EFC5EFB5EF95EF85EF55EF35EF25EF15EF05EEF5EEE5EED5EEC5EEB5EE95EE75EE65EE55EE45EE35EE25EE15EE05EDF5EDE5EDD5EDC5EDA5ED95ED85ED75ED55ED45ED05ECF5ECE5ECD5ECC5ECB5EC85EC75EC6,
   0x6146614561446143614261416140613E613D613C613B613A6139613861376136613561346133613261316130612F612E612D612C612A61296128612561226121611E611D611C611B611961186117611661146113611261116110610C610B610A6107610561046103610260FF60FE60FD60FC60FB60F860F760F560F260F160EA60E560E460E360E260E160DE60DB60D960D760D660D460D360D260D060CF60CE60CD60CC60C960C860C760C460C360C260C160C060BF60BE60BD60BA60B960B760B660B560B360B060AE60AA60A960A760A560A460A260A1609E609C6099609860976095609360916090608F608E608B608A6088608760866085608260816080607E60776075607460726071606E6066606560616060605F605E605C605B605860576056605460536051604F604E604C604A6049604860476046604560446040603E603D603A603960386037603660346033603260316030602E602D602C602460236022601F601E601A60186017601360116010600C600B60096008,
   0x624A6246624562446242623C623B623A6239623862366235623262316230622F622D622B622962286227622662236220621E621D621C6219621462136209620762056204620362026201620061FE61FD61FC61FB61FA61F961F861F761F661F461F361F261F161F061EF61EE61ED61EC61EB61EA61E961E861E761E561E461E361E261E161E061DF61DE61DD61DC61DB61DA61D961D861D761D661D561D361D061CF61CE61CD61CC61C961C761C661C561C461C361C161C061BF61BD61BC61BB61BA61B961B861B661B561B461B361B261B161B061AF61AE61AD61AB61AA61A661A561A461A361A261A161A0619F619E619C619B619A619961986197619661956193619261916190618F618D618C618A6189618861876186618561846183618261816180617F617E617D617C617B617A6179617861766174617361726171616F616E616D616C616B616A6169616661656164616361616160615F615E615C615B615A61596158615761566154615361526150614F614D614B61496147,
   0x63C063BF63BD63BB63B963B663B563B263B163AF63AB63A663A463A1639F639E639D639C639B639A639963976395639463936391638D638B63866385638463836381637F637E637D637C6379637863756374637363726370636F636C636B636A63686366636563646360635D635C635B635A63596358635763566354635363526351634A63486347634463416340633F633E633C633B63386337633663356334633363316330632E632D632C632963276326631C63196318631763156314631363126310630F630D630C630B630A6306630563046303630062FB62FA62F962F862F562F262F062EB62EA62E462E162E062DE62DD62D562D162CF62CB62C362C162C062BE62BA62B862B762B662B462B362B262B062AF62AE62AD62AA62A962A762A662A3629E629D629C629962946290628F628E628D628C628B6288628762866285628362826281627D627B627A627862776275627462726271626862656264626262616260625F625E625D625C625A62596257625662556250624F,
   0x64DA64D964D664D564D464D364D164CF64CC64CB64CA64C964C864C764C664C464C364C164BF64BE64BD64BB64B964B664B464B364B264B164AF64AB64AA64A864A764A664A564A364A264A164A0649F649D649C649B649A64986497649464936490648F648E648D648C648B648A648964886486648364816480647F647E647D647C647B64776476647564746473647264716470646F646E646C646B646A64686466646564646463646264616460645F645D645C645B645A6459645764566455645364516450644F644E644D644C644B6449644364426440643E643C643B643964386437643664356433643264316430642F642E642B6429642864276425642464236422641F641D641A6419641864176416641564126411640E640D640A64096408640764066404640363FE63FC63FB63FA63F963F763F563F363F163F063EF63EE63EC63EB63E863E763E663E563E463E263DF63DD63DC63DB63DA63D963D863D763D563D463D363D163CC63CB63CA63C863C763C563C363C263C1,
   0x65EB65EA65E465E365E165DF65DE65DD65DC65DB65DA65D965D865D565D465D365D165D065CD65CA65C965C865C765C265C065BF65BE65BB65BA65B865B765B665B565B465B365B265B165AE65AC65AA65A865A665A365A265A0659E659D659A65986596659565946592658F658E658D658A658965886586658565846583658265816580657F657E657D657C657B657A657965786576657565736571656F656E656D656A6569656865676565656465616560655F655C655A655865576554655365526550654E654D654B654A6547654665446543654265416540653D653C653A65376533653265316530652D652C652A652965286527652665246523652265216520651F651E651D651C651B651A65196517651665156514651365116510650F650E650D650C650B650A6508650765066505650465036502650164FF64FE64FD64FC64FB64FA64F964F864F764F664F564F464F364F264F164F064EF64EE64ED64EC64EB64EA64E964E864E764E564E364E164E064DF64DD64DC64DB,
   0x67036702670166FD66FB66FA66F866F666F566F166EF66EE66ED66EC66EB66EA66E866E766E566E466E366E266E166E066DF66DE66DA66D866D766D666D566D466D366D266D166D066CF66CE66CD66CC66CB66CA66C966C866C766C666C566C466C366C266C166C066BF66BD66BC66BB66BA66B866B766B666B566B366B266B166B066AF66AD66AC66AB66AA66A966A666A566A466A366A266A166A0669F669E669C669B669A6699669866956694669366926690668F668E668D668B668A6689668866866685668366816680667F667D667C667B667966786675667366726671666D666C666B666A666966676665666366626660665E665D665C665B6659665866516650664E664D664A66496648664766466645664466426640663F663D663B663A663966386637663366326630662E662C662B662A662966266624662366226621661E661C661B661A661866176616661266116610660D660B66096608660766056604660165FF65FE65FD65FC65FB65F965F865F565F465F365F2,
   0x685B685A68596858685768566852684F684D684B6847683F683B683A68366835683468316830682F682E682D682C682B68286827682668256824682368226820681F681E681C681B681A681968186815681468126810680D6806680468036802680167FE67FC67FB67FA67F967F867F767F667F567F267EE67ED67EB67EA67E867E767E667E467E367E167DF67DB67D767D667D567CE67CD67CC67CB67CA67C967C867C767C667C567C267C067BF67BE67BD67BC67BB67BA67B967B467B267B167AE67AC67A967A667A467A167A0679F679B679967966794679367926791678F678E678D678C678A678867866785678367826780677D677B677A67796778677667746771676E676C676B67676766676467636762675D675B675A675967586757675567546752674D674B674A6747674567446741673F673E673C673B6739673867376736673367326730672E67296727672567246723672267216720671E671C671A671967186716671367126711670F670E670C6707670667056704,
   0x695F695C695B69596958695669556953695269516950694F694E694D694C694B694A694969486947694669456944694369416940693E693C693B693A6938693769366935693369326931692F692E692C692B692A69296928692769266925692369226921691E691D691C691B691A69196918691769166915691469136911690F690C690A6909690869076906690469036902690068FF68FE68FD68FB68F868F768F668F468F368F268EF68ED68EC68EB68EA68E968E868E768E668E568E468E268E168DF68DE68DD68DC68DB68D968D768D668D468D368D168D068CF68CE68CC68CA68C868C768C668C568C468C368C168BF68BE68BD68BC68BB68BA68B968B868B768B668B468B268B168AE68AC68AB68AA68A968A568A468A368A168A0689F689E689D689C689B689A68996898689668956894689268916890688E688D688C688B688A688968886887688468826880687F687E687D687C687B687A6879687868756873687268716870686F686E686D686C686A685F685E685D685C,
   0x6A5A6A576A566A556A546A536A526A516A4F6A4E6A4D6A4C6A4B6A4A6A496A486A466A456A436A426A416A406A3F6A3C6A3B6A3A6A396A386A376A366A346A336A326A306A2E6A2D6A2C6A2B6A296A276A266A256A246A236A226A206A1E6A1D6A1C6A1B6A1A6A196A166A156A146A136A126A116A106A0F6A0E6A0D6A0C6A0B6A096A086A076A066A056A046A036A026A016A0069FE69FC69FB69FA69F969F869F769F669F569F469F369F169F069EF69EE69EC69EB69EA69E969E869E769E669E569E469E369E269E169DE69DD69DC69DA69D969D869D769D669D569D369D269D169CF69CD69CB69C969C869C769C669C569C469C369C269C069BF69BE69BD69BC69BA69B969B869B669B569B369B269B069AF69AE69AC69AA69A969A669A569A469A369A269A169A0699F699E699D699A6999699769966993699269916990698F698E698C698B698A698569836981697F697E697D697B697A697669756974697369726970696F696D696C696A6969696869676965696469626961]

/-- Rows 24 to 35 of gb2byte. -/
def gb2byte2 : List Nat :=
  [0x6B2E6B2D6B2C6B2B6B2A6B296B286B266B256B1F6B1E6B1D6B1C6B1B6B1A6B196B186B176B166B156B146B136B126B116B106B0F6B0E6B0D6B0C6B0B6B0A6B096B086B076B066B056B046B036B026B016B006AFF6AFE6AFD6AFC6AFB6AFA6AF96AF86AF76AF66AF56AF46AF36AF26AF16AF06AEF6AEE6AED6AEC6AEB6AEA6AE96AE86AE76AE66AE56AE46AE36AE26AE16AE06ADF6ADE6ADD6ADC6ADB6ADA6AD96AD86AD76AD66AD56AD46AD36AD26AD16AD06ACF6ACE6ACD6ACC6ACB6ACA6AC96AC86AC76AC66AC56AC46AC36AC26AC16AC06ABF6ABE6ABD6ABC6ABB6ABA6AB96AB86AB76AB66AB56AB46AB36AB26AB16AB06AAF6AAE6AAD6AAA6AA86AA76AA66AA56AA46AA36AA26AA16A9F6A9E6A9D6A9C6A9B6A9A6A996A986A966A956A946A936A926A8F6A8D6A8C6A8B6A8A6A896A886A876A866A856A836A826A816A7F6A7E6A7D6A7B6A7A6A786A776A766A756A746A736A726A706A6F6A6E6A6D6A6C6A6B6A6A6A696A686A676A666A646A636A626A606A5F6A5E6A5D6A5C,
   0x6C586C566C536C526C516C4F6C4E6C4D6C4C6C4B6C486C456C446C436C3F6C3E6C3C6C3B6C3A6C396C376C366C336C316C2D6C2C6C2B6C256C236C206C1E6C1D6C1C6C176C126C0E6C0C6C0B6C0A6C096C086C046C036C026C016C006BFF6BFE6BFC6BFB6BFA6BF86BF76BF66BF46BF26BF16BF06BEE6BED6BEC6BE96BE86BE76BE66BE56BE46BE36BE26BE06BDF6BDE6BDD6BDC6BDA6BD86BD16BD06BCE6BCC6BCA6BC96BC86BC76BC66BC46BC36BC06BBE6BBD6BBC6BBB6BBA6BB96BB86BB66BB26BB16BB06BAF6BAE6BAD6BAC6BAB6BA96BA86BA76BA66BA56BA46BA36BA26BA06B9F6B9E6B9D6B9C6B996B986B976B956B946B916B906B8F6B8E6B8C6B886B856B806B7F6B7E6B7D6B7A6B786B776B766B756B746B736B726B716B706B6F6B6E6B6D6B6C6B6B6B696B686B616B606B5F6B5E6B5D6B5C6B5B6B5A6B586B576B566B556B546B536B526B516B506B4F6B4E6B4D6B4B6B4A6B486B456B446B426B416B406B3F6B3D6B3C6B3B6B386B366B356B346B336B316B306B2F,
   0x6DCA6DC96DC86DC36DC26DC16DBE6DBD6DBC6DBB6DBA6DB96DB76DB66DB46DB36DB16DB06DAD6DAC6DA56DA26D9C6D9A6D996D986D976D966D926D906D8F6D8D6D8B6D8A6D876D866D846D836D816D806D7F6D7E6D7D6D7B6D7A6D796D766D756D736D726D716D706D6D6D6C6D6B6D686D676D656D646D626D616D5F6D5D6D5B6D586D576D566D556D506D4C6D496D446D426D406D3F6D3A6D386D376D366D346D306D2F6D2D6D2C6D296D286D266D246D236D226D216D206D1F6D1D6D1C6D186D166D156D146D136D116D106D0F6D0D6D0A6D096D086D066D056D036D026D006CFF6CF96CF46CF26CED6CEC6CE96CE76CE66CE46CDF6CDD6CDC6CDA6CD96CD86CD26CD16CCF6CCE6CCD6CCB6CC86CC76CC66CC36CC26CC16CC06CBA6CB76CB66CB56CB46CB06CAF6CAC6CA86CA26CA06C9E6C9D6C9C6C9A6C986C976C966C956C926C916C8E6C8D6C8B6C8A6C876C846C806C7F6C7C6C7B6C7A6C786C776C756C736C716C6F6C6E6C6D6C6C6C6B6C676C666C656C636C626C5A6C59,
   0x6EEF6EEE6EED6EEC6EEB6EEA6EE76EE36EDD6EDC6EDB6ED96ED86ED66ED26ED06ECE6ECD6ECC6ECA6EC96EC86EC66EC56EC46EC36EC06EBF6EBE6EBC6EB96EB86EB56EB36EB06EAE6EAD6EAC6EAB6EA96EA86EA66EA46EA36EA16EA06E9E6E9D6E9B6E9A6E996E976E966E956E946E936E926E916E8E6E8D6E8C6E8B6E8A6E886E876E846E826E816E806E7D6E7C6E7B6E7A6E796E786E776E766E756E746E736E726E716E706E6F6E6D6E6C6E6A6E696E686E676E666E656E646E636E626E616E606E5E6E5D6E5C6E5A6E596E576E556E526E516E506E4F6E4C6E4B6E4A6E496E486E476E466E456E426E416E406E3F6E3E6E3D6E3C6E3B6E396E376E366E356E336E316E306E2E6E2C6E2A6E286E276E266E226E1F6E1E6E1C6E1B6E196E186E156E136E126E0F6E0B6E096E086E076E066E046E036E026E016E006DFF6DFE6DFD6DFA6DF86DF66DF56DF46DF26DF06DEF6DED6DEA6DE96DE86DE76DE56DE36DE26DDF6DDC6DDB6DDA6DD76DD56DD46DD36DD26DD06DCF6DCE6DCD,
   0x6FE56FE46FE36FE26FDF6FDD6FDC6FDB6FDA6FD96FD86FD76FD66FD56FD46FD36FD06FCF6FCE6FCD6FCC6FCB6FCA6FC86FC76FC66FC56FC46FC36FC16FBF6FBE6FBD6FBC6FBB6FBA6FB86FB76FB56FB46FB26FB16FB06FAF6FAE6FAD6FAC6FAB6FAA6FA96FA86FA66FA56FA46FA36FA26FA06F9F6F9E6F9D6F9B6F9A6F996F986F976F966F956F946F936F926F916F906F8F6F8B6F8A6F876F866F856F836F826F816F806F7F6F7E6F7D6F7B6F796F776F766F756F736F716F706F6F6F6C6F6B6F6A6F696F686F676F656F646F636F616F606F5F6F5D6F5B6F5A6F596F576F566F556F546F536F526F516F506F4F6F4E6F4C6F4A6F496F486F456F446F436F426F416F406F3F6F3D6F3C6F3B6F3A6F396F386F376F356F346F326F306F2E6F2C6F286F276F266F256F236F226F216F1F6F1E6F1D6F1C6F1B6F1A6F196F186F176F166F126F116F106F0E6F0D6F0C6F0B6F0A6F086F076F056F046F036F016F006EFF6EFE6EFD6EFC6EFB6EFA6EF86EF76EF66EF56EF36EF26EF16EF0,
   0x70DA70D770D670D570D470D370D270D170D070CF70CE70CD70CC70CB70C970C770C670C570C470BF70BE70BA70B670B570B470B270B070AA70A970A870A770A670A570A470A370A270A170A0709F709E709B709A70987097709370917090708F708D708C708B7088708770867084708370827081707D707B707A707970777074707370727071706E706A7069706870677066706570647063706270617060705F705D705C705B705A7059705870577056705570547053705270517050704E704D704B704A7049704870477046704570447043704270417040703F703E703D703C703B703A70387037703670347033703270317030702F702E702D702C702B702A702970287027702670257024702270217020701F701E701D701C701970187017701670157014701370127010700F700E700D700C700B700A70097008700770067005700470037002700170006FFF6FFE6FFD6FFC6FFB6FFA6FF96FF86FF76FF66FF56FF46FF36FF26FF16FF06FED6FEC6FEB6FEA6FE96FE86FE76FE6,
   0x71D371D271D171D071CF71CD71CC71CB71CA71C971C871C771C671C571C471C271C171C071BF71BE71BD71BC71BB71BA71B871B771B671B471B271B171B071AF71AE71AD71AB71AA71A971A771A671A571A471A371A271A1719E719D719C719B719A7197719671957193719271917190718E718D718C718B718971887187718671857183718271817180717F717E717C717B7179717771767175717471717170716F716D716C716B716A716971657163716271617160715F715D715B715A7159715871577156715571547153715271517150714F714D714B714971487147714671447143714271417140713F713E713D713C713B713A7139713871377135713471337132712E712D712C712B712A712971287127712571247123712271217120711F711E711D711C711B7117711471127111710F710E710D710C710B71087107710671057104710371027101710070FF70FE70FC70FB70FA70F870F670F570F470F370F270F170F070EE70EA70E570E370E270E170E070DE70DD70DC,
   0x72DB72DA72D872D672D572D472D372D172CF72CC72CB72CA72C972C772C672C572C072BF72BE72BD72BC72BB72BA72B572B372B272B172AE72AB72AA72A972A872A772A672A572A472A372A272A172A0729E729D729C729B729A729972987297729672957294729372917290728E728C7289728872877286728572837282727D727C727B7278727772767274727372717270726D726C726B726A72687265726472637260725E725C725A7258725772557254725372517250724F724E724B724A72497246724572447243724272417240723E723C723A723472337232722F722E722D722B722972277226722572247223722272217220721F721E721C721B721A7219721872177216721572147213721272117210720F720E720D720C720B720A72097208720772057204720372027201720071FF71FE71FD71FC71FB71FA71F871F771F671F571F471F371F271F171F071EF71ED71EC71EB71EA71E971E871E671E471E371E271E171DF71DE71DD71DC71DB71DA71D971D871D771D6,
   0x30132193219121902192203B25B225B325A025A125C625C725CE25CF25CB26052606211600A72030FFE1FFE000A4FF0421032033203200B02640264222342235221E22652264226F226E2260221D223D2248224C2261222E222B229923122220222522A5221A223722082229222A220F221122282227223600F700D700B13011301030173016300F300E300D300C300B300A3009300830153014201D201C2019201820262016FF5E20143005300300A802C702C900B7300230013000E525E524E523E522E521E520E51FE51EE51DE51CE51BE51AE519E518E517E516E515E514E513E512E511E510E50FE50EE50DE50CE50BE50AE509E508E507E506E505E504E503E502E501E500E4FFE4FEE4FDE4FCE4FBE4FAE4F9E4F8E4F7E4F6E4F5E4F4E4F3E4F2E4F1E4F0E4EFE4EEE4EDE4ECE4EBE4EAE4E9E4E8E4E7E4E6E4E5E4E4E4E3E4E2E4E1E4E0E4DFE4DEE4DDE4DCE4DBE4DAE4D9E4D8E4D7E4D6E4D5E4D4E4D3E4D2E4D1E4D0E4CFE4CEE4CDE4CCE4CBE4CAE4C9E4C8E4C7E4C6,
   0xE771E770216B216A2169216821672166216521642163216221612160E76FE76E3229322832273226322532243223322232213220E76D20AC246924682467246624652464246324622461246024872486248524842483248224812480247F247E247D247C247B247A247924782477247624752474249B249A2499249824972496249524942493249224912490248F248E248D248C248B248A24892488E76BE76AE769E768E767E7662179217821772176217521742173217221712170E585E584E583E582E581E580E57FE57EE57DE57CE57BE57AE579E578E577E576E575E574E573E572E571E570E56FE56EE56DE56CE56BE56AE569E568E567E566E565E564E563E562E561E560E55FE55EE55DE55CE55BE55AE559E558E557E556E555E554E553E552E551E550E54FE54EE54DE54CE54BE54AE549E548E547E546E545E544E543E542E541E540E53FE53EE53DE53CE53BE53AE539E538E537E536E535E534E533E532E531E530E52FE52EE52DE52CE52BE52AE529E528E527E526,
   0xFFE3FF5DFF5CFF5BFF5AFF59FF58FF57FF56FF55FF54FF53FF52FF51FF50FF4FFF4EFF4DFF4CFF4BFF4AFF49FF48FF47FF46FF45FF44FF43FF42FF41FF40FF3FFF3EFF3DFF3CFF3BFF3AFF39FF38FF37FF36FF35FF34FF33FF32FF31FF30FF2FFF2EFF2DFF2CFF2BFF2AFF29FF28FF27FF26FF25FF24FF23FF22FF21FF20FF1FFF1EFF1DFF1CFF1BFF1AFF19FF18FF17FF16FF15FF14FF13FF12FF11FF10FF0FFF0EFF0DFF0CFF0BFF0AFF09FF08FF07FF06FF05FFE5FF03FF02FF01E5E5E5E4E5E3E5E2E5E1E5E0E5DFE5DEE5DDE5DCE5DBE5DAE5D9E5D8E5D7E5D6E5D5E5D4E5D3E5D2E5D1E5D0E5CFE5CEE5CDE5CCE5CBE5CAE5C9E5C8E5C7E5C6E5C5E5C4E5C3E5C2E5C1E5C0E5BFE5BEE5BDE5BCE5BBE5BAE5B9E5B8E5B7E5B6E5B5E5B4E5B3E5B2E5B1E5B0E5AFE5AEE5ADE5ACE5ABE5AAE5A9E5A8E5A7E5A6E5A5E5A4E5A3E5A2E5A1E5A0E59FE59EE59DE59CE59BE59AE599E598E597E596E595E594E593E592E591E590E58FE58EE58DE58CE58BE58AE589E588E587E586,
   0xE77CE77BE77AE779E778E777E776E775E774E773E7723093309230913090308F308E308D308C308B308A3089308830873086308530843083308230813080307F307E307D307C307B307A3079307830773076307530743073307230713070306F306E306D306C306B306A3069306830673066306530643063306230613060305F305E305D305C305B305A3059305830573056305530543053305230513050304F304E304D304C304B304A304930483047304630453044304330423041E645E644E643E642E641E640E63FE63EE63DE63CE63BE63AE639E638E637E636E635E634E633E632E631E630E62FE62EE62DE62CE62BE62AE629E628E627E626E625E624E623E622E621E620E61FE61EE61DE61CE61BE61AE619E618E617E616E615E614E613E612E611E610E60FE60EE60DE60CE60BE60AE609E608E607E606E605E604E603E602E601E600E5FFE5FEE5FDE5FCE5FBE5FAE5F9E5F8E5F7E5F6E5F5E5F4E5F3E5F2E5F1E5F0E5EFE5EEE5EDE5ECE5EBE5EAE5E9E5E8E5E7E5E6]

/-- Rows 36 to 47 of gb2byte. -/
def gb2byte3 : List Nat :=
  [0xE784E783E782E781E780E77FE77EE77D30F630F530F430F330F230F130F030EF30EE30ED30EC30EB30EA30E930E830E730E630E530E430E330E230E130E030DF30DE30DD30DC30DB30DA30D930D830D730D630D530D430D330D230D130D030CF30CE30CD30CC30CB30CA30C930C830C730C630C530C430C330C230C130C030BF30BE30BD30BC30BB30BA30B930B830B730B630B530B430B330B230B130B030AF30AE30AD30AC30AB30AA30A930A830A730A630A530A430A330A230A1E6A5E6A4E6A3E6A2E6A1E6A0E69FE69EE69DE69CE69BE69AE699E698E697E696E695E694E693E692E691E690E68FE68EE68DE68CE68BE68AE689E688E687E686E685E684E683E682E681E680E67FE67EE67DE67CE67BE67AE679E678E677E676E675E674E673E672E671E670E66FE66EE66DE66CE66BE66AE669E668E667E666E665E664E663E662E661E660E65FE65EE65DE65CE65BE65AE659E658E657E656E655E654E653E652E651E650E64FE64EE64DE64CE64BE64AE649E648E647E646,
   0xE79FE79EE79DE79CE79BE79AE799E798E797FE34FE33E796FE31FE38FE37FE3CFE3BE795E794FE44FE43FE42FE41FE3EFE3DFE40FE3FFE3AFE39FE36FE35E793E792E791E790E78FE78EE78D03C903C803C703C603C503C403C303C103C003BF03BE03BD03BC03BB03BA03B903B803B703B603B503B403B303B203B1E78CE78BE78AE789E788E787E786E78503A903A803A703A603A503A403A303A103A0039F039E039D039C039B039A039903980397039603950394039303920391E705E704E703E702E701E700E6FFE6FEE6FDE6FCE6FBE6FAE6F9E6F8E6F7E6F6E6F5E6F4E6F3E6F2E6F1E6F0E6EFE6EEE6EDE6ECE6EBE6EAE6E9E6E8E6E7E6E6E6E5E6E4E6E3E6E2E6E1E6E0E6DFE6DEE6DDE6DCE6DBE6DAE6D9E6D8E6D7E6D6E6D5E6D4E6D3E6D2E6D1E6D0E6CFE6CEE6CDE6CCE6CBE6CAE6C9E6C8E6C7E6C6E6C5E6C4E6C3E6C2E6C1E6C0E6BFE6BEE6BDE6BCE6BBE6BAE6B9E6B8E6B7E6B6E6B5E6B4E6B3E6B2E6B1E6B0E6AFE6AEE6ADE6ACE6ABE6AAE6A9E6A8E6A7E6A6,
   0xE7BBE7BAE7B9E7B8E7B7E7B6E7B5E7B4E7B3E7B2E7B1E7B0E7AF044F044E044D044C044B044A0449044804470446044504440443044204410440043F043E043D043C043B043A04390438043704360451043504340433043204310430E7AEE7ADE7ACE7ABE7AAE7A9E7A8E7A7E7A6E7A5E7A4E7A3E7A2E7A1E7A0042F042E042D042C042B042A0429042804270426042504240423042204210420041F041E041D041C041B041A04190418041704160401041504140413041204110410E765E764E763E762E761E760E75FE75EE75DE75CE75BE75AE759E758E757E756E755E754E753E752E751E750E74FE74EE74DE74CE74BE74AE749E748E747E746E745E744E743E742E741E740E73FE73EE73DE73CE73BE73AE739E738E737E736E735E734E733E732E731E730E72FE72EE72DE72CE72BE72AE729E728E727E726E725E724E723E722E721E720E71FE71EE71DE71CE71BE71AE719E718E717E716E715E714E713E712E711E710E70FE70EE70DE70CE70BE70AE709E708E707E706,
   0xE7E1E7E0E7DFE7DEE7DDE7DCE7DBE7DAE7D9E7D8E7D7E7D6E7D5E7D4E7D3E7D2E7D1E7D0E7CFE7CEE7CD3129312831273126312531243123312231213120311F311E311D311C311B311A3119311831173116311531143113311231113110310F310E310D310C310B310A31093108310731063105E7CCE7CBE7CAE7C9026101F901480144E7C7025100EA00FC01DC01DA01D801D600F901D400FA016B00F201D200F3014D00EC01D000ED012B00E8011B00E9011300E001CE00E10101E7C6E7C5E7C4E7C3E7C2E7C1E7C0E7BFE7BEE7BDE7BC301E301D30122295260925E525E425E325E225BD25BC259525942593258F258E258D258C258B258A2589258825872586258525842583258225812573257225712570256F256E256D256C256B256A2569256825672566256525642563256225612560255F255E255D255C255B255A255925582557255625552554255325522551255022BF2267226622522223221F2215219921982197219621092105203520252015201302D902CB02CA,
   0xE80FE80EE80DE80CE80BE80AE809E808E807E806E805E804E803E802E801254B254A2549254825472546254525442543254225412540253F253E253D253C253B253A2539253825372536253525342533253225312530252F252E252D252C252B252A2529252825272526252525242523252225212520251F251E251D251C251B251A2519251825172516251525142513251225112510250F250E250D250C250B250A2509250825072506250525042503250225012500E800E7FFE7FEE7FDE7FCE7FBE7FAE7F9E7F8E7F7E7F6E7F5E7F430072FFB2FFA2FF92FF82FF72FF62FF52FF42FF32FF22FF12FF0303EFE6BFE6AFE69FE68FE66FE65FE64FE63FE62FE61FE60FE5FFE5EFE5DFE5CFE5BFE5AFE59FE57FE56FE55FE54FE52FE51FE50FE4FFE4EFE4DFE4CFE4BFE4AFE49309E309D300630FE30FD309C309B30FCE7E6E7E5E7E42010E7E332312121E7E2FFE4FFE2FE3033D533D233D133CE33C433A1339E339D339C338F338E32A3302930283027302630253024302330223021,
   0xE05DE05CE05BE05AE059E058E057E056E055E054E053E052E051E050E04FE04EE04DE04CE04BE04AE049E048E047E046E045E044E043E042E041E040E03FE03EE03DE03CE03BE03AE039E038E037E036E035E034E033E032E031E030E02FE02EE02DE02CE02BE02AE029E028E027E026E025E024E023E022E021E020E01FE01EE01DE01CE01BE01AE019E018E017E016E015E014E013E012E011E010E00FE00EE00DE00CE00BE00AE009E008E007E006E005E004E003E002E001E00073717370736E736B736A736973687367736673657364736373627361735F735E735D735C735B735A7359735873567355735473537351734F734E734C734B734A7349734873477346734573447343734273417340733D733C733B733A73367335733373327330732F732D732873277326732473237320731F731A731973187314731273117310730F730D730C730B7309730873077306730573047302730072FF72FE72FD72F972F672F572EB72EA72E772E672E572E472E372E272DF72DD72DC,
   0xE0BBE0BAE0B9E0B8E0B7E0B6E0B5E0B4E0B3E0B2E0B1E0B0E0AFE0AEE0ADE0ACE0ABE0AAE0A9E0A8E0A7E0A6E0A5E0A4E0A3E0A2E0A1E0A0E09FE09EE09DE09CE09BE09AE099E098E097E096E095E094E093E092E091E090E08FE08EE08DE08CE08BE08AE089E088E087E086E085E084E083E082E081E080E07FE07EE07DE07CE07BE07AE079E078E077E076E075E074E073E072E071E070E06FE06EE06DE06CE06BE06AE069E068E067E066E065E064E063E062E061E060E05FE05E73F773F673F573F473F373F173F073EF73EE73EC73EB73EA73E873E673E473E373E273E173DF73DD73DC73DB73DA73D873D773D673D573D473D373D273CE73CC73CB73C773C673C573C473C373C173BF73BE73BD73BC73B973B873B673B573B473B173AD73AC73AA73A873A773A673A573A473A373A173A0739E739D739C739A73997398739773957394739373927390738F738D738C738A7388738673857383738273817380737F737D737C737B737A73797378737773767375737473737372,
   0xE119E118E117E116E115E114E113E112E111E110E10FE10EE10DE10CE10BE10AE109E108E107E106E105E104E103E102E101E100E0FFE0FEE0FDE0FCE0FBE0FAE0F9E0F8E0F7E0F6E0F5E0F4E0F3E0F2E0F1E0F0E0EFE0EEE0EDE0ECE0EBE0EAE0E9E0E8E0E7E0E6E0E5E0E4E0E3E0E2E0E1E0E0E0DFE0DEE0DDE0DCE0DBE0DAE0D9E0D8E0D7E0D6E0D5E0D4E0D3E0D2E0D1E0D0E0CFE0CEE0CDE0CCE0CBE0CAE0C9E0C8E0C7E0C6E0C5E0C4E0C3E0C2E0C1E0C0E0BFE0BEE0BDE0BC747A7479747874757474747374727471746F746E746C746B746A7469746874677466746574647463746274617460745D7458745674547453745274517450744F744E744D744C744B744A744974487447744674457444744374427440743F743E743D743B743A74397438743774327431742F742D742B742974277424742374217420741F741E741D741C741974187417741674157414741374127411740E740D740C740B74087407740474027401740073FF73FE73FD73FC73FB73FA73F973F8,
   0xE177E176E175E174E173E172E171E170E16FE16EE16DE16CE16BE16AE169E168E167E166E165E164E163E162E161E160E15FE15EE15DE15CE15BE15AE159E158E157E156E155E154E153E152E151E150E14FE14EE14DE14CE14BE14AE149E148E147E146E145E144E143E142E141E140E13FE13EE13DE13CE13BE13AE139E138E137E136E135E134E133E132E131E130E12FE12EE12DE12CE12BE12AE129E128E127E126E125E124E123E122E121E120E11FE11EE11DE11CE11BE11A74F274F174F074ED74EC74EB74EA74E974E874E774E574E174DF74DD74DB74DA74D974D874D774D674D574D474D374D174D074CF74CE74CD74CC74CB74CA74C974C874C774C674C574C474C374C274C174C074BF74BE74BD74BC74BB74B974B874B774B674B574B474B374B274B174B074AF74AE74AD74AC74AB74AA74A674A574A474A374A274A174A0749F749D749B749A749974987497749674957494749374927491748F748D748C748A748974887486748574847482747F747D747C747B,
   0xE1D5E1D4E1D3E1D2E1D1E1D0E1CFE1CEE1CDE1CCE1CBE1CAE1C9E1C8E1C7E1C6E1C5E1C4E1C3E1C2E1C1E1C0E1BFE1BEE1BDE1BCE1BBE1BAE1B9E1B8E1B7E1B6E1B5E1B4E1B3E1B2E1B1E1B0E1AFE1AEE1ADE1ACE1ABE1AAE1A9E1A8E1A7E1A6E1A5E1A4E1A3E1A2E1A1E1A0E19FE19EE19DE19CE19BE19AE199E198E197E196E195E194E193E192E191E190E18FE18EE18DE18CE18BE18AE189E188E187E186E185E184E183E182E181E180E17FE17EE17DE17CE17BE17AE179E178758775857584758275817580757E757D757C757B757A757775767575757375717570756F756E756D756C756B75697568756775647563756275617560755F755E755D75587557755675557553755275517550754D754A7549754775467544754375427541753F753D753C753975367534752E752A7527752675247523752275217520751E751D751B751775167515751475127510750E750C750B750A75097508750775067505750375027501750074FE74FD74FC74FB74FA74F974F874F574F3,
   0xE233E232E231E230E22FE22EE22DE22CE22BE22AE229E228E227E226E225E224E223E222E221E220E21FE21EE21DE21CE21BE21AE219E218E217E216E215E214E213E212E211E210E20FE20EE20DE20CE20BE20AE209E208E207E206E205E204E203E202E201E200E1FFE1FEE1FDE1FCE1FBE1FAE1F9E1F8E1F7E1F6E1F5E1F4E1F3E1F2E1F1E1F0E1EFE1EEE1EDE1ECE1EBE1EAE1E9E1E8E1E7E1E6E1E5E1E4E1E3E1E2E1E1E1E0E1DFE1DEE1DDE1DCE1DBE1DAE1D9E1D8E1D7E1D6764476427641763D763B763A76397637763676327631762F762E762C7628762776237621761E761D761C761A76167614761376127611760F760E760D760B76097608760776067604760275FE75FD75FB75FA75F875F775F675F575F375F275EF75EE75ED75EC75E975E575E175E075DF75DD75DC75DA75D975D775D375D175D075CF75CE75CC75CB75C675C175C075BF75BB75BA75B775B675AD75AA75A975A875A775A675A2759E759C759B7598759575937590758E758D758C758A75897588,
   0x52658912530580DE82DE8C24508D9551868C78C568D27ED18180699C68865E2E90A67ECA529E534A74E34F3462CC626E7248677F9881822C6273642C73ED65917A1762DC8D254F706446767E67CF767D72387F629738575D8019628A97768DCB62D45DF475A4516B7B06542753ED6252634C82AD6FB361CA596550B288847FF171AC655651F976CE660280AE684880FA5CB8669763094FFA5B896C28978D96987231788D827E77EE853C764C769154C0550954CE632857C3963F554A76C376C176C076BE76BD76BC76BB76BA76B976B876B776B676B576B376B076AF76AD76AC76AB76AA76A976A876A776A676A576A376A276A176A0769F769E769D769C769B769A769876977695769476927690768F768D768C768A76897685768376817680767F767C767A767976777676767576747673767276717670766E766D766C766A766976687667766676657664766276617660765F765D765B765A76597658765776557653765276517650764F764E764B764A76497648764776467645]

/-- Rows 48 to 59 of gb2byte. -/
def gb2byte4 : List Nat :=
  [0x70B3997C79C94E1967C451B0517564485BBE6EE86FD2658C5F6C762A522B618B9CD6886881985F6A6807904D8FAB8FA98FA8535E53D84FBF62418D2C7F168FB997AD965B907F81C258C18F9F5FC55F0A655D95ED75F95E875E016BD66BD96BD5853D84D678A75F7C7B1491196BD49F3B903C8FF88E666CF5752D7EF75D297B28672C82EF595488AB711960EB590772C8500D94A18D1D80CC8F885317535160B27891676F72069C8D8C7966B462A562B15B9D997158214FDD96F98584775C77597758775777567755775477537752774F774E774D774C774B774A774977487746774577447742773F773E773D773B773977347733773277317730772E772C772B772A77277725772477237721771E771D771C771B771877177716771577147713771277117710770F770E770C770A7706770577037702770076FF76FD76FB76FA76F776F676F576F376F076ED76EC76EB76EA76E976E876E776E676E476E376E276E176E076DE76DD76DC76DA76D976D576D376CC76CB76C976C776C4,
   0x7316660C98A496104EA794F27F208C17998B874963BA64008C7A67F462C68BE75DEE5C945BDF643D78B467E58336832C53C963D28E6D5C426D4B518C4FA77B565395834966F969FD7CD964CD85CF6CA74ED3823182CD707F60E860ED6B8B869553C29910852183DC5F6991C78E29776C8D22624D675088C1731C64E6601690E87C3F6B655E034E0D57E0886554FA535C63559A736CCA6E24818A811682365E1B4F2F7B9494C2640F52C3535A6CE294B562E864AD83E073BB5E7675C577E477E177E077DF77DE77DD77DA77D977D877D677D577D477D377D277D177D077CF77CE77CC77CB77CA77C977C877C777C677C577C477C377C277C177C077BE77BC77BA77B977B877B777B677B477B277B177AF77AE77AD77AB77A877A677A477A377A1779E779D779C779B779A77997798779777967795779477937790778F778B778A7789778877877786778377827781777C777B777A777877777776777577747773777277717770776F776E776D776A7769776777647760775F775E775D,
   0x695A96646EC196CF95048E8753A86A7151FA521D81ED4E1177857EF84EC77B7961017A208E0C7574916C62BD5BA05D07866B51B2514570BD65A57FC58D645C3A4F889F7F803B9A705F1B8FDF6C605319630175F4540379E49A8B901E627F8BDA6F8460E97A0B4E58544862106A5957CE79F06491886C8D8196486C895FF166685C188FB081E390F46F885F7B63A364A4626F8F66709254355DE26F6E5632671D949E62848D85502155317545655E538280A0507F957F5E385C1D573A7883788278817880787F787E787D787B787A787978787876787578747873787278717870786F7869786878677866786578647863786278617860785F785E785C785B785A78597858785478537851784F784D784B784A7849784878467844784378427841783F783D78367835783378327831782F782E782B782A78287824782278217820781E781B7819781578137810780F780E780B780A78087807780678057804780377FC77FB77FA77F977F777F577F477F277F177F077EF77EA77E877E6,
   0x902E5F85888B8D374EE36B865E26623450A36B7954465927625376297B548FBE642D9519632B63AA641364AE78CB5BF85B5867517FE06DEC7CB97601810650AC5D1464677A9C7BE18E7F4FC37C07918B7C9751D14E1B4ECE530656F18471806A6B218D50523A6B648BCD74F761488F9E96CC78C1832875B57EF0623388227EAF6DF355079187693F6625578295246376708A5439521B95EF5E8A5E627A9775AE4E32559882394F20693D7A7F5DDD63E3590489E6641077D750A87840790C790B790A7909790879077906790479037902790078FF78FE78FD78FC78FB78F978F878F678F578F378F178F078EF78EE78ED78EB78EA78E978E778E678E578E478E378E278E178E078DF78DE78DD78DC78DB78DA78D878D778D678D378D278D178CF78CE78CD78CC78C878C778C678C478C378C278C078BF78BD78BC78BB78BA78B878B778B678B578AF78AE78AD78AC78AB78AA78A978A878A678A478A278A0789E789D789978967895789478927890788F788B788A7888788678857884,
   0x53E08C0D8FED8776789F72398DCC8C039493540A6389520151CB96D553FC78896BBF6DC0596060E65E9775384F43753557AB975B517870B978986EC7638298A07F1490125F1F5E1D7B2C848257305E9562B55AE17FDF6DA472C47B1B654C8FEA6EF44F4E5824909351F377AA7B49767B706F8E6C76845F975FB776D7905360BC7A3B52305BFC79775C9B50128E486363520068638361515A63215F5386CB5F398BDE6DE160EE4F466C2E65E680C663B890F853554E3962C5803D6020799279917990798E798D798C798B798979887987798679837982797F797E797D797C797B79797976797579747973797279717970796E796C796B796A796979667964796379617959795879557954795279517950794F794E794D794C794B794A79477945794479437942793F793D793979387937793679357933793279317930792F792E792D792C792B792A792979287927792679257923792279217920791F791D791C791B791A791979187917791679157914791279117910790F790E790D,
   0x4E8C6D3199755C148033513F800C6069997F9102904F627C538460765A258BB9989D4FC49E455CE886FE581560F0524182358DFA67358EB2579B593A591A54C66387904176FE949D56E4987F65668E72542858A95BF9961F515158067F0E65AD6BB5953B77ED7AEF59926E215EA6809A9540675C8D4C777958358BFB72EC728A6BD2776390FD75D890178C46966165976296515C6D1E51BB606B4F97680B52A861C2846351AC4E1C4E228BA25B9A952D9F0E9876948953EE76EF4E017A1C7A1B7A197A187A167A157A137A127A117A107A0F7A0C7A0A7A097A087A077A057A047A0179FF79FE79FC79FA79F979F779F679F579F479F379F279F179EE79EC79EA79E879E579E279E179E079DE79DD79DC79DB79DA79D979D779D679D479D379D079CF79CE79CC79CA79C879C779C579C479C279BF79BC79B879B779B679B579B479B279B179B079AF79AE79AD79AC79AB79AA79A979A879A679A579A479A379A279A179A0799F799E799D799C799B7999799879977996799579947993,
   0x670D4FD84F0F7B266C1F5E458F9062C262765B7580A46577592B54264F5B51E459498BBD7F1D51AF902270FD75AF98CE950B5CF0870267AB5C014E307CAA61245FFF4EFD594B7C896C7E711A575F7EB752066C1B5429915A82AC8D396CB85E9F80BA54208BFD532A80A598DE5561975E83F2653E7EBA8BBF4EFF59A89632623F80AA65B982B3574A6CDB996D72AF8D2983038FD453CD70E651E17E41949277FE6A0A7FFB756A5E0685E973D06CD596004E4F4F107B4F7F5A53D18D307AA27AA17A9E7A9B7A9A7A997A947A937A907A8F7A8E7A8C7A8B7A8A7A897A877A857A827A7E7A7D7A7C7A7B7A757A737A727A717A6F7A6E7A6D7A6C7A6B7A6A7A697A687A677A667A657A647A637A627A617A607A5F7A5E7A5D7A5C7A5B7A5A7A597A587A567A557A547A537A527A507A4F7A4E7A4D7A4C7A4B7A4A7A497A487A477A457A447A437A427A417A407A3E7A3A7A387A367A357A347A327A317A307A2F7A2E7A2D7A2C7A2B7A2A7A297A287A277A267A257A247A227A217A1F7A1D,
   0x7FB95E9A66F480158DDF68397ED954044E2A94EC9694960186E4683C845B97695272759980F39E3D620864016B4C54E5544A7A3F9550641E7CD57F94818F9AD8768B7BD967606E2F5C977EB2809B7F3894A2521A51888D63656279C6611F8D76809D7AFF67D1674675185E726E8976D69499698265398BE5560E567654907F1A598796448BA35BCC8D1F81797236961C4ED85085590D8D4B8986526F8D7481505E9C8151812F65A791DC4FEF8F85629A752B5F1788B1798F6DAA6D6E7B2D7B297B277B237B227B217B1F7B1D7B1C7B1A7B187B177B167B137B127B107B0E7B0D7B0C7B097B077B057B027B017B007AFE7AFC7AFB7AF87AF77AF67AF57AF47AF37AF27AF17AF07AEE7AEC7AEB7AEA7AE97AE87AE77AE47AE27AE17ADD7ADC7ADB7ADA7AD87AD77AD57AD47AD37AD27AD17AD07ACF7ACE7ACD7ACC7ACA7AC97AC87AC77AC67AC57AC47AC37AC27AC17AC07ABE7ABD7ABC7ABB7ABA7AB97AB87AB77AB67AB57AB47AB27AB17AB07AAF7AAE7AAB7AAA7AA97AA77AA47AA3,
   0x54C88FC788F9679C56FD90ED950568CD6EDA8F8A523D8D358DEA67DC684276788BE19B3C8F6895FA9F9F5F527845572D89C47470901B5E7F51498D2F704C60EF7F5099867BA189C251A05B98517368FA602A62D04E56890263025BE1525074DC522E96C756FA987E654580A18C379AA886CA53E49F1359D15B646CBD4F307B8D549583C78F9C591F8D2D678457A272D782DF6C9F52FE94A951718D2162F16C5E5DE95F135BAB516C8EAC4F9B9F9A606D529F653B5DE56897803F57C27BC47BC37BC27BC07BBF7BBE7BBD7BBC7BBB7BBA7BB97BB77BB67BB57BB37BB27BB07BAF7BAE7BA57BA47BA37BA07B9F7B9E7B9B7B9A7B997B987B967B937B927B917B8F7B8E7B8C7B8B7B8A7B897B887B877B867B847B837B827B817B7F7B7D7B7C7B7A7B787B767B747B737B707B6F7B6D7B6C7B6B7B6A7B697B687B677B667B657B647B637B617B5F7B5E7B5C7B597B577B557B537B4E7B4D7B4A7B487B467B447B437B427B417B407B3F7B3D7B3B7B397B377B367B357B347B327B307B2F,
   0x6E567CCA72D0877480E1846B58F6745A5FFD4E4E547C540E5019539A543C73344FAF55897EA25F185B8F6D2A9E3F867970D854C48F70605288616A2A4EA854FC606872E05F8875D59ED1563F8D3A9E6489108D6B6DB86CB396028C8976D254084F55548C79BE683883CF8377559D54756D6953F78017597D90DD6BEB8C6A568E58D5822A676D592F6C496C57710A608D61BE65F1634D64BC7FF07F55558A51FD5BD26DB5542B97E990AF61A891639A875BB34EA56C266D775B699AB87C427C3E7C3D7C3C7C3B7C3A7C397C377C367C357C347C337C327C317C307C2F7C2E7C2D7C2C7C2B7C297C287C257C247C237C227C217C207C1E7C1D7C1C7C1B7C1A7C197C187C177C157C147C137C127C117C107C0E7C0D7C0A7C097C087C067C057C047C037C027C017C007BFF7BFD7BFB7BFA7BF97BF87BF67BF57BF47BF37BF27BF07BEF7BED7BEC7BEB7BE97BE87BE77BE47BE37BE27BE07BDF7BDE7BDC7BDB7BD87BD77BD67BD57BD47BD27BD07BCF7BCE7BCD7BCB7BCA7BC97BC87BC5,
   0x7B9579EF7A3D7578673A57FA573E51FB79788D27970D60D1621683B7706B4F196D3B8C416DF76D519B425A5A660F83647ED88BF28BB36C4770E94F1A79FD8D3F666660E05349616760946BC156DE86D460625FBD8F89632570708C0E604D5E4C6643714C60F651F076877C27875778FA9EC4614C83525E7B5BA66DA371158C6275EA552460A363627F138FD8685373AF6B22574F6DEE60005F8A69D08BDD53165212753B6ED1733E534E54D782B162376CAA4E9262A4552C864E5F277CBB7CBA7CB87CB77CB67CB57CB47CB07CAF7CAD7CAC7CAB7CA97CA87CA77CA67CA37CA17CA07C9B7C9A7C997C967C947C937C907C8F7C8E7C8D7C8C7C8B7C8A7C887C877C867C857C847C837C827C817C807C7F7C7E7C7A7C797C787C777C767C757C727C717C707C6F7C6E7C6D7C6C7C6B7C6A7C697C687C677C667C657C647C637C627C617C607C5F7C5E7C5D7C5C7C5B7C5A7C597C587C577C567C557C547C537C527C517C507C4F7C4E7C4C7C4B7C4A7C497C487C477C467C457C447C43,
   0x4EF67BAD952E89C18D318DF5927469DB835051CF526A4FED7B80636162E3787778B167EC68C083277F045978827080A9517C714E95F47B3A5C16575A76D16B7C5AC19A7E67B64EF77A3C504794BE75328D3E988A835A52A05BB64F73593967B756097EAA7EE7599396455FCC65E28BB08BA15BC25BC46D4E60B85242796D4F0E5B635180628084DF5DF1810A51E063247EA75AC953736C7275BE602553CA96C67C4D8F9168D8678154097F097EE959EC9E218BA56FC08FF99965808C7D367D357D347D337D327D317D307D2E7D2D7D2C7D2A7D297D287D267D257D247D237D217D1F7D1E7D1D7D1C7D1B7D1A7D197D187D177D167D157D147D137D127D117D107D0F7D0E7D0D7D0C7D0B7D097D087D077D067D057D047D037D027D017D007CFF7CFE7CFD7CFC7CFA7CF97CF77CF67CF57CF47CF37CF27CF17CF07CEE7CED7CEC7CEB7CEA7CE97CE77CE67CE57CE47CE37CE27CE17CDE7CDD7CDB7CDA7CD87CD47CD37CD27CD17CD07CCF7CCE7CCB7CC97CC67CC47CC37CC27CC07CBF]

/-- Rows 60 to 71 of gb2byte. -/
def gb2byte5 : List Nat :=
  [0x6D7870EC8FD17981664B97738FDB8C284EC595267D27895F6D254ECA91D165A47B4B5DFE5C4A8BEB75A54ECB501F754C82A585C9621259D089E37ED36D017AED776B637767706854828252AB622A9636885779F8768663A563ED7A9653EB8F838F7F91756559527F7EDE7F34997A89D272E1811A4FA577EB94F0640556BC5A079A846D4790CA4EA480F67126790169128549964D917153208BB259566868848B75866C5F6D465C0659DC50F55EFA6DA76E856E10996F5251823050657D987D977D967D957D947D937D927D917D907D8F7D8E7D8D7D8C7D8B7D8A7D897D887D877D867D857D847D837D827D817D807D7F7D7E7D7D7D7C7D7B7D7A7D797D787D767D757D747D737D727D717D707D6F7D6D7D6C7D6B7D6A7D697D687D677D667D657D647D637D627D617D607D5F7D5E7D5D7D5C7D5B7D5A7D597D587D577D567D557D547D537D527D517D507D4F7D4E7D4D7D4C7D4B7D4A7D497D487D477D467D457D447D437D427D417D407D3F7D3E7D3D7D3C7D3B7D3A7D397D387D37,
   0x5CFB541B519B94A783CC57477EDD8BC051B389C97235501463986289652B64857EE25377773750265A1F9E436350526770AC60E753E54FF1952F8E1E8DDD51775DE8636E62D2805A6CAE4E3E77E954805C4083CA9A795C4575BD72D962D897A0759A5C31548E820581FC65E7655153A991524E5D70784E4597ED73967EA07A7663EA7A9870AF51C07ADE7ADF975675C95F84955C656C588397599888666F8B664E957ECF7CB37CBE60CA4EAC9CB86676775B830E5162834652B25C3D7DFA7DF97DF87DF77DF67DF57DF47DF37DF27DF17DF07DEF7DEE7DED7DEC7DEB7DEA7DE97DE87DE77DE67DE57DE47DE37DE27DE17DE07DDF7DDE7DDD7DDC7DDB7DDA7DD97DD87DD77DD67DD57DD47DD37DD27DD17DD07DCF7DCE7DCD7DCC7DCB7DCA7DC97DC87DC77DC67DC57DC47DC37DC27DC17DC07DBF7DBE7DBD7DBC7DBB7DBA7DB97DB87DB77DB67DB57DB47DB37DB27DB17DB07DAF7DAD7DAC7DAB7DAA7DA97DA87DA77DA57DA47DA37DA27DA17DA07D9F7D9E7D9D7D9C7D9B7D9A7D99,
   0x50809B41594E84757AA55CBF76D44E8F51B565F7773677FF684672C27B5053216B3E5BBD5FEB4FA97B77575780EF8DE8630E57AE593888E45E93917782E67A9F54ED67AF5BC7626353E362A063A75B5460507A7A542D5751607357A6554380AF8BFE5BA2523B514B6E3453EF54B358F379D1989778D568F567EF82DB5777976070E462F7800370954EA26297625B7CE061775EB7770B780D574E52D8582A520A616851EF697763E95F0054AF5361549655809A8F90E16D5A7AE34FCA7E5D7E5C7E5B7E5A7E597E587E577E567E557E547E537E527E517E507E4F7E4E7E4D7E4C7E4B7E4A7E497E487E467E457E447E437E427E407E3F7E3E7E3D7E3C7E3A7E397E387E377E367E357E347E337E327E317E307E2F7E2E7E2D7E2C7E2B7E2A7E297E287E277E267E257E247E237E227E217E207E1F7E1E7E1D7E1C7E1B7E1A7E197E187E177E167E157E147E137E127E117E107E0F7E0E7E0D7E0C7E0B7E0A7E097E087E077E067E057E047E037E027E017E007DFF7DFE7DFD7DFC7DFB,
   0x4FD04F8B508852295386783E52B153894E3D6817540F83548389793C9CA491CC674E74066F1379BB72F87BF19ECE728168A8539851B7695E68F16CEA7C7B808B64C2579251217D2F78CA857E956D96F74E5052D26D9D70D9916A59E54F6C8001726252B3635E6D6A671790CE5ECA72FC699474056EE570C27F0661D289C863FD8C306F9C517096117BEE62E6680F5A6A84DD8D56676583B155668FA3814A8721558762C9578396145ED3626962EC56F06346660657646E83612799887F537F527F4F7F4E7F4D7F4C7F4B7F4A7F497F487F477F467F437F417F407F3F7F3E7F3D7F3C7F3B7F397F377F1E7F107F0A7EF97EEC7EE47ED67EBC7EBB7EB47EAE7E9E7E9D7E9C7E9A7E997E987E977E967E957E947E937E927E917E907E8F7E8E7E8D7E8C7E8B7E8A7E897E887E877E867E857E847E837E817E807E7F7E7E7E7D7E7C7E7B7E7A7E797E787E777E767E757E747E737E727E717E707E6F7E6E7E6D7E6C7E6B7E6A7E697E687E677E667E657E647E637E627E617E607E5F7E5E,
   0x7ABF7B3C5499804B9F99516D67F36D41762452187559998F786B69B474096E9C4EE453E698865CAD9675707551CC7F9A4F3694C39F8496F683F173B262CE541D8D4151DB6DCB9CDE90BB4E34971678F767977433730E52A370C888C2521765995ED6956364824E866F668FBD5BE571CE759750DA804A64A98C054EAE667E91CF8F864E24826F7CB1688151C97CAE7EC370BC604B94FE8138655B5E186D9F601C5EC995708FDE83B280544FE954E97483529B96B66CA57C927ACB75E27FE37FE27FDE7FDD7FDC7FDB7FDA7FD97FD77FD67FD37FD27FD17FD07FCF7FCD7FCB7FC97FC87FC77FC67FC47FC37FC27FC07FBE7FBB7FBA7FB77FB67FB57FB47FB37FB17FAE7FAD7FAC7FAB7FAA7FA97FA87FA67FA57FA37FA27FA07F9C7F9B7F997F987F977F967F957F937F927F917F907F8F7F8D7F8B7F897F887F877F867F857F847F837F827F807F7F7F7D7F7C7F7B7F7A7F787F777F767F757F737F707F6F7F6D7F6C7F6B7F677F667F657F647F637F607F5E7F5D7F5C7F5B7F597F56,
   0x6F2B616266FC85136EE186EE9992779281098FC853569EA64E7057CB5417561B9A829A6C86827801739B9EBB59887EDC9A866D1B843D88F89AA17BA99523903B7F5787BA841D8BBA7EB66CA64ED14F268F6E62A1756563A04E7153756EE65B6A631B5CE67EFF6EE473875F8B6C2F86517F155C615C6565C54FA394DD54159A74622E96465F5579846F5E9E7F8D428DEF9732788C9E939C81864F536463B370895E909885536282A6964B6F0F7BD364025A04697C964762E257849686807D807C807B807A807980788077807680758074807380728070806F806E806D806C806B806880678066806580648063806280618060805F805E805D805C805B8059805780568055805380518050804F804E8049804880478045804480418040803E803C803A8039803480328030802F802E802D802C802B802480238021801F801E801D801B801A80138011800F800E800A80098008800780027FFF7FFE7FFD7FFA7FF97FF87FF77FF67FF57FF47FF27FEF7FED7FEC7FEB7FEA7FE87FE77FE4,
   0x64788C2C547D540D94ED9E23879F660E95FD60AF654F76BF62BF6C11706D851159995E996E3A79D285D0778463CF82D797627F055A2952C9514D51957EF5772068C95E425BC6871C6CCC89C579D87C735F258C1C8FF77CDC9761919A772F5B5F68A6731B953076DF6AAC8499840C4EEC95F795E85A9A59B95BD066277F8E6BCF95415A9277096CA17164970991766885679A73AB4E488D388C8C5E3D51928302536F94C677DB6BDB951A8305732B83BD5FD96C1376F2832B82928C29813F813D813C813B813A813981378135813481338130812E812D812B812A8129812881278126812581248123812281218120811F811D811C811B811981178115810C810B810881078105810481038101810080FF80FE80FB80F980F780F580EE80E680E380E280E080DF80D880D580D480D380D280D180D080CF80CB80CA80C980C880C780C580BB80B980B880B680B580B380B080AC80A880A780A680A3809E8099809780958094809280918090808F808E808D808A8088808580828081807E,
   0x5B8151DD72DE67E060A86D85954D954A556E5B7D8042634F5C3F9E1F917F5A185FF5637B64B578BE5E7462C8852B6EBA9006817B533F4F6062DF5C3C6CE5502A971359AE80FD5AE95185998154626DD695F9607C8111632056CA96BE753753575948801059764E436C167EB35A1C90A394A0545054EA62FF7A467267776676EE6728615552DF5E5566AE58936BCD59C64EA9726162C767D0725F8C0B964C5BDE6F206CAB9ED858A883AB672B62B99B54646978E8819C6A218611647981D381D281D181D081CF81CE81CD81CB81C981C881C781C581C481BF81BE81BD81BC81B981B881B781B681B581B481B281B181B081AF81AE81AD81AC81AB81A981A781A581A481A281A181A0819F819E819A81998197819681958194819381928190818E818D818C818B8189818781868185818481838181817881778176817581738172816F816C816B816A816881668164816381628161815F815E815D815C815B8158815781568152814F814E814D81498147814581448143814281418140,
   0x6BD77435528862AB627997397812576F78B063679E4F670B81A87BF7787C68DA84EC5F6D6F8E70F962A8783076C655B76C9B4F69914D966A8D5488F457F980DA54786CE18DD1888D70AE52285486629B80D6802A65C15E9E4E5353DB5224755476FC78D076D86F5865006D3E6E435F98724C639262CD743660155E15722C8DB4556A6CA45076545585D56BB49E256B2754E68BFA7CEF61E6632A759F865066965973601252AA59745F04519C6D5381137EBD94AE626D725B6CDE62E7826982678266826582648263826282618260825E825D825C825B825982578256825582548253825282518250824E824D824C824A8248824682458243824282418240823F823D823C823A8232822E822982278226822582248220821D821A8219821882178216821582138211820F820E820B820A820982088207820381FF81FD81FA81F981F881F781F681F581F281F181F081EF81EE81EB81E981E881E681E581E481E281E181E081DF81DE81DD81DC81DB81DA81D981D881D781D681D581D4,
   0x63908BAB6CE36C7D5F038FC46C145668780C5951542F4F014E5E5C828D779A917941794865D79F5081105D0E75666B67594768CB51766C8F67D26F0651C44E0359BB621A68166B3A671F701166DD8C316D66666E5703673457D484B283E9846183864EC694FA625152567C958FEB9B4478345A4698876CFC57615C4F8BC474F651ED5E73840D82F9576A4E52805854C18D2B989162FC77A56487796874E26F0298D89A977247504F7BC78B6C5C4150FB75DE533976AE75B2813E5564833D833B833783328330832E832A83298326832583248323832283218320831F831E831D831983188316831383128310830D830B830A830082FF82FE82FD82FC82FA82F882F682F582F382F282F082EE82ED82EC82EA82E982E882E782E282DD82DA82D982D682D082C982C682C582C382C282C082BF82BC82BB82BA82B682B582B282A782A382A282A0829E829B829A82968295829482938290828C8289828782868285828382818280827C827B82788277827682758271826D826C826B826A,
   0x6E209A715C488EAF66F286C6533A8D8B6CC5914B56DA6C42740390B14E1879CB7A77743C5E868BF7987760C56C30667464CE6E05537F503E6C228F7B97526C815BDD79BD64D282B952E4743479E64EB24FB594A67A83602F4E14830452077A8D4FCF5CED7FD864AC97985DE74FA84E5477A768656084657295396A4762A25F3A853758997F8C8154545B67AA6B496B205D4C58118C346D4590636F5C524D94B394B19ED44E7E8C264EDF7B7E8FC1534394C5948E626672756D3D607083ED83EC83EB83E883E783E683E483E383E283DE83DB83DA83D983D783D583D383D283D183D083CE83CD83CB83C983C883C683C483C383C283BF83BE83BB83B583AF83AE83AD83AC83A783A683A583A483A383A283A1839F839D839A8399839783968395839483918390838F838D838C838B838A8388838783848383838283818380837F837E837A837983768375837483738372837183708362835D835983588357835683558353834E834D834C834B834A83488345834483428341833F833E,
   0x53C14E098D5B585E9CC3816E84286D1264925F3182E56DA695F09510745E854A962E8F6F892551656C5D4E738FB159825B7A511288158339808967D463C951977ED25BB96EB67194878D836384C98338620E65E54ECD62547EAB598A52038BA44EFB97E75FCD4EBA4EC158EC70ED60F97ED5627099768BA956B7651858E474E467D3518971C371367FA488D996C0786E69B79E4A5374763870947F3A529D523872AC62F375CA51686CC9919B674398A7570853BB8DA39F8B5A3653D6847C847B84798477847484728470846F846E846A8468846784668465846484628460845F845E845D8458845684558454845384528450844F844E844D844C844B844A844984488447844584448443844284418440843F843E843B843A84398437843684358434843384328430842F842E842D842C842B842A84298423842284218420841F841E841B841A84198417841684158414841384128410840A84098408840784058402840083FF83FE83FC83FB83FA83F783F683F583F483F383EF83EE]

/-- Rows 72 to 83 of gb2byte. -/
def gb2byte6 : List Nat :=
  [0x7EF3534772727525751F58F06E17614E80BE751A5A765BA16C88795E7EC55A206DF18EAB4F38547B753378378BBE793E6D8961515C0464448D66820D820C86C78D4A59627ECD90B554E85C1197F652FA828D70E77A0D634E68A288F35C1A4E0A664C8D4F55464F2458927F2E62476C55558481B38D6164C5965595EA886B717D52205C71674982EB73CA66527B5B715E556550BB7EB16C99523967407802838E50E768EE6DA98272745F5AC2626B9A9A64144E2755D3685165634F1E85028501850084FE84FD84FB84FA84F984F884F784F684F584F484F384F284F184EF84EE84ED84EB84EA84E984E884E784E484E284E184DE84DC84DB84DA84D984D884D784D584D484D284CF84CE84CC84CB84C884C784C684C584C384C284C084BE84BC84BB84B784B684B584B384B184B084AE84AD84AC84AB84AA84A984A884A784A684A584A484A384A284A0849F849E849D849B849A84988496849584948493849284918490848F848D848A848684858484848384818480847F847E847D,
   0x6F3165705EB658857AD6620D675F68118FF0672F5C5E9F209ECD87007F7266D9669185AF719F5B708D4E4E66758F6DD1821253D48F9362926B8A68B367A2852C517D762653D7552E63885BFF5B889996624B65368BD589C65BA460435E026C0F997091CA4F8D4ED59002566C55DC662F52BF901D8A9362ED4E8B67FF4E1658EB793A5F0F59CB9A765C4E4F7F77E253F28BC65B9E868098DF4EC065F662FE77F3534186715C388BD76E7F65BD72EE59315E08572380DC526976DB770185818580857F857D857C8578857785768575857385718570856F856E856D856C856B856A85698567856685658563856285618560855F855D855C855B855A85588557855585548553855285518550854F854E854D854C854B8547854685458544854285418540853F853E8536853585348533853285318530852F852E852D852A852985288527852685258524852385228520851E851D851C851B8519851885168515851485128510850F850E850D850B850A8509850885078506850585048503,
   0x585459795B834ED6584C624095017D2274107F29550668AD84D17B0B635F5B59795F96A790427A575C81788E9AD37EE5968F968B867D7B97849C917880838BC95BBF6EAF585150F37C9F901F7D204FD7916582CF55FD64DE8258641C8BF58BBC5B8B9001988260028038677E5DF399724F3C4F3A56DB55E35BFA80866B7B4E1D53F879C1601D5636649565AF70C1671478558BF4821C987A77AC542E7A0E77616C348C01723D53CC971C62F468135E05752988706454800D5237605585F885F785F685F585F485F385F285F185F085EF85EE85ED85EC85EB85EA85E885E785E685E585E385E285E185E085DF85DE85DD85DB85DA85D985D885D785D685D485D285D185CE85CD85CC85CB85CA85C885C785C685C585C485C385C285C085BF85BE85BD85BC85BB85BA85B885B685B585B485B385B285B185AD85AC85AB85A985A785A685A585A385A285A185A0859F859E859D859A8599859885978596859585948593859285918590858E858D858C858B858A85898588858685838582,
   0x70C3542C53855E1694C18D348DF3773A8FE26761631181468214606C751C7530586B6DFB59295C4952436D9560D5568F66FF4F53557C8E44989863D095118E22525468AF8A8A75BC817E85E4727959578BA896766DD89003684384047EE66ED46D9B638F70EB8D9F6DCC8EBA50187CD65510819B68E05802642A58586C6470AD53F963A278B388926BEF57668C088C2D6F6D75F06A80575B6EE9762B8D2A644A574D6C706001592A915E6CF053F062AC82D480CE8E0F8E4B631E736D866A866986688667866686658664866386618660865F865D865C865B8659865886578656865586538652864C864B864A8649864886478646864586448643864286418640863F863E863D863B863A863986378636863586348633863286318630862F862E862D862C862B862A86288626862586248623862286218620861F861E861D861C861B861A86198618861786158614861386128610860F860E860D860C860B860A86098608860786068604860386028601860085FE85FD85FC85FA85F9,
   0x5A0159845FD8671B65FA5F807F5167894EA1738B6C6A81554E075A495B9B60CB7696665A633D78975B8C70F74E38987D73A96E7E5F2F8C4C59166B6A889C74E65A036D3C86D954C76316553E62D359A5692D9A7C9A6E96409E358131625862D681C05C6F541E9000892A8715817F989363A856E26E4D51545410571F5C606D8290145F9256FE7A8179C351F8900F59346295507775DB7EDF7B52634568767AE55F6494DC540C77B3916E6850901A8247633A5EAD4EAD505C5EF76C408716871487118710870F870E870C870B870687058704870186FF86FD86FC86FB86FA86F786F686F586EF86EC86EB86EA86E886E786E686E586E386E286E186E086DD86DC86DA86D786D686D586D386D286CD86CC86C886C586C386C286C186BF86BE86BD86BC86BB86B986B886B786B386B286AE86AD86AB86A686A586A286A186A0869F869E869B869A86998698869786968694869286918690868F868E868986888687868686858684868386788677867686758674867386728670866F866D,
   0x727A95215438563B667077FD7852897F6790719966148BEF609F52A152FF7269666496FE620A575E4FAE4F0D821E534863424E946B666BCB5434543E68A7829C65E05C4B8BEC6C614E4C94A8545C5DEB6C8363E1536765A162117A9D6DA18717631D74EE7FC155E195EE7D0A7A33543B7EB995FB6587868A6E29761F536B61705C098C136E2D4F4D9B4F558280C3754F5473851A672A7EAC5C3E4F2A4F1F59D4840E82C77EF46F4D4E3A60DF552F56F468458FDD97E653715FAE5DCD87A487A387A287A187A0879E879D879C879B879A87998798879687958794879287918790878F878E878C878A878987878786878487818780877F877A8779877887778775877387728771876F876D876C876B876A876987688767876687628761875F875E875D875C875B875A8758875687558754875287518750874F874D874B874A8746874587448743874287418740873D873C873A8739873887368735873387328730872F872D872C872B872A87288727872687248720871F871D871B8719,
   0x66536DC65BB56D88950056A354EE524A9704785D84278C61541150CF6A615DF798794EAB54CD60F38BE679657FD44E616E5889447BB19999957653A276F87EBF965096775BAA7FA19985817A53BF732E73B09669663E5ACC5F266D8E95F2823788548D2454B87EA49C9C4ED95148952863805413590F53A64E0B72ED4FA05CE166878F96971E5323867E778E7EC6620F96997CFB6D1794E3559C5AB34E605E2D88AD6A8472806C506EAA70EF718460DC5915819D60895E0C606F7A0088238820881F881E881D881C881A8819881888178814881288118810880F880E880D880C880B88098808880788068805880488028801880087FF87FD87FC87FB87FA87F887F787F687F587F487F387F287F187F087EF87ED87EC87EB87E987E887E787E687E487E387E287E187DF87DE87DD87DC87DA87D987D887D787D687D587D487D087CF87CE87CD87CC87C987C887C787C587C487C387C287C187BF87BE87BC87BB87B987B887B787B687B487B287B187B087AE87AA87A987A787A687A5,
   0x738465CB60AC5BA355A78F697EED7EEA5A7F7D6E6064755C5E8F65ED53D9915784C48BB85F90987B5618865A9700620C589F7EE3889679C0950855C5673D7F9E4FEE4F11718A96C46C79530880F851F6514459D36027674F5E789192884C90A25F62578B5211517460FA73298165661F88454FE15FC35FFB65B08F9B6B23950C82AF85AA5C518C226CFB6CC461C887F9537868B051998C1080C1659C90AA643A631F534F978B874E6B474E9B695465487B115578809668215B5D5C0F88AA88A988A888A788A688A588A388A188A0889F889E889D889B889A88998898889788958894889388918890888F888E888C888A88898887888688838880887C887B887A8879887888768875887488738871886F886D886A886788668860885F885E885D885C885B885A8858885688558853885288518850884F884E884B884A8849884888478846884388428841883F883E883D883B883A88388837883688358834883388318830882F882E882D882C882B882A882988288827882688258824,
   0x74765996817090806F3E6837517B75D24EF06C2796336D0B7F8A75A14F6F626C676879E79E2F592E6B839A8C8C1A5BB471305F66550196C1781A538C71D5583082736F14884D773C63A959446CBF708E960E989C8A005EF65CA9871278144E2576D06DF970DF960954BD71098BB64E9A54D196C56DAF88595D16869C725982BD4E2B54409E2D9E2662BC538B8FC5900A8BAF8BAD6C5B6B895DE19A6F5BFB8BE265EC5FAA718F52CB884096EA7A745B66859B97747EDA77297663900989378935893389328931892F892E892D892C89298928892789268924892389228920891F891E891D891C891889178916891589148911890F890E890D890C890B89098908890789068905890489038901890088FF88FD88FB88FA88F788F688F588F288EF88EE88ED88EC88EB88EA88E988E788E688E188E088DE88DD88DC88DB88DA88D788D688D388D188D088CF88CD88CC88CB88CA88C888C788C488C388C088BF88BE88BD88BB88BA88B988B888B688B588B488B388B288B088AF88AE88AC,
   0x96905F155C39996E5BC56DEB94F6541F59FB963497F36BB756E0836B83357ECE7FCC7FFC5F028BD18C0A8BAE8BE36EA276CA4E495FC66BC5610F88D44EA675AB8084903881C65F794EBF5C79909166136291827A4EE577E34E595DF2501A868169055F5D59E85B9C6C82759180F04EEA79FB90575937989088634F0A4F9D94F163D6533B58F94E006DB2591C814B66F353F64E1A639698754E5F51B691CE72378036564E693080008981836F820054AC59DA8C237A9190655C27644789A189A0899F899E899D899C899B899A8999899889978996899589948993899289918990898F898E898D898C898B898A8989898889878985898489828980897E897D897C897A8979897889778976897589748973897289718970896F896E896D896C896B896A896989688967896589648963896289618960895D895C895B895A8959895889578956895589548953895289518950894F894E894D894C894B894A89498948894789468945894389428940893F893E893D893C893B893A89398938,
   0x8A8980B272F16B3261085FA15CEA55BB9047540190C1828B57DF73897FBD8BED5B8779B95C7F4E0E96E85A314E8896856E146E1D61099C7C903E4FDE4F598206611A865E698676C24E8E6DE48FC25E7C53C88BF191C94F5153F353CB670991496E386CB972B994C090AE75315C245FE760A04F185E7D752852C7607F6C386D8C6CF3548F86F98E0A96CD5EB875C881C34F6362E554DF6620786C98965F7176C88D628FCE874783678425842483B97F285E949E705A746A3182F153708A1D8A1C8A1B8A1A8A198A188A178A168A158A148A138A128A118A108A0F8A0E8A0D8A0C8A0B8A0A8A098A088A068A058A048A038A028A0189FF89FE89FD89FC89FB89FA89F989F889F789F689F589F489F289F189F089EE89ED89EC89EA89E989E889E789E489E289E189E089DF89DD89DB89D989D889D789D589D489D389CD89C389C089BF89BE89BD89BC89BB89BA89B989B889B789B689B589B489B389B289B189B089AF89AE89AD89AC89AB89AA89A989A889A789A689A589A489A389A2,
   0x8F67672D6E2355B3624E8D6066FE618E589E600E8D3C6CFD521962E98D2371E5707676829020566A8E8186A46FA165E967A385FB51FF7CDF906D846C810F8D438D5E6682651254B15728518D8F7D5BB0707E54C9683D67427838531D5B5597F56655915D85748FD051419668530090E74E918018960560A667087CA45CB394A58DC38D8A7EA666F096626028613F82D18FDC7F186E90733F5706545856ED8F9563F4539F888157A3514351A46E0A9E339A6D8C6B988488D55BD36D748A808A7F8A7E8A7D8A7C8A7B8A7A8A788A778A768A758A748A738A728A718A708A6F8A6E8A6D8A6C8A6B8A6A8A698A688A678A668A658A648A638A628A618A608A5F8A5E8A5D8A5C8A5B8A5A8A598A588A578A568A558A548A538A528A518A508A4F8A4E8A4D8A4C8A4B8A4A8A498A478A468A458A448A438A428A418A408A3F8A3D8A3C8A3B8A3A8A398A388A378A368A358A348A338A328A318A308A2F8A2E8A2D8A2C8A2B8A2A8A298A288A278A268A258A248A238A228A218A208A1F8A1E]

/-- Rows 84 to 95 of gb2byte. -/
def gb2byte7 : List Nat :=
  [0x653F6B6362EF657460144E8972F05F817741632384B896359547632F97078BCA75B967954FA694888D1E81FB78277504771F659F73CD6D598FD98517951780058F9986F054F26298906E53EC808751467F6971678D756CBC627E662D62DB969C763480C04ED78D265E104E0867566DA8638C5F206F335F707AE06A1F7EFD6E5B7AD962185360680886385C555D2D8F9765A976CF6CBE7C988A796BE177BB5BE8503A7A845B85658B64588BC870B84E4D548B69A86805772895F894E18AE38AE28AE18AE08ADF8ADE8ADD8ADC8ADB8ADA8AD98AD88AD78AD68AD58AD48AD38AD28AD18AD08ACF8ACE8ACD8ACC8ACB8ACA8AC98AC88AC78AC68AC58AC48AC38AC28AC18AC08ABF8ABE8ABD8ABC8ABB8ABA8AB98AB88AB78AB68AB58AB48AB38AB28AB18AB08AAF8AAE8AAD8AAC8AAB8AAA8AA98AA88AA78AA68AA58AA48AA38AA28AA18AA08A9F8A9E8A9D8A9C8A9B8A9A8A998A988A978A968A958A948A928A918A908A8F8A8E8A8D8A8C8A8B8A888A878A868A858A848A838A828A81,
   0x7B5194F88D2E86C052A967F184574E3B563177A962C4716E70DB7AF990108BDB8BF8732A673186DB682A73E09AA4663C5B9976B154925E1A80988F747CA58BCC6D325DDE5468821F4F174EF291CD80BF79CD7EC88877949F5FE076C54E2D7A926CBB6EDE75D470998D287A1A79E9667A52365CD95E1C7F6E81F481F363B7631A5FD77EB865E853EA8DBE6B62630757404F84503C62676B96690D76F4804C7EC74E4B6C41810280A277E587185431652F679D829D8BC190D175C75E278B458B448B438B428B418B408B3F8B3E8B3D8B3C8B3B8B3A8B398B388B378B368B358B348B338B328B318B308B2F8B2E8B2D8B2C8B2B8B2A8B298B288B278B258B248B238B228B218B208B1F8B1E8B1D8B1C8B1B8B1A8B198B188B178B168B158B148B138B128B118B108B0F8B0E8B0D8B0C8B0B8B0A8B098B088B068B058B048B038B028B018B008AFF8AFE8AFD8AFC8AFB8AFA8AF98AF88AF78AF68AF58AF48AF38AF28AF18AF08AEF8AEE8AED8AEC8AEB8AEA8AE98AE88AE78AE68AE58AE4,
   0xE814E813E812E811E8105EA757504F5C505A67DE4F505DE6662890755C0A7F6A6700918956347E8294BB7EC4963B8BC5795665CF53528DB379DF63CD594F8D7090B97EB5603B7EFC5B978E2A68D59B035B576E0D81EA5B506ED37C7D4ED47D2B5B5C6DC46ECB59FF8D4454A851796D4A707C77405544914C83017422684C535362D9634951C68C067F0057608D588FFD9525690E72B658EE649E598688C55E8468697BC68D5A64B08F6C78164E1362FD722A62939A7B795D6CE84F4F8C1E8C098BEA8BD08BC78BBB8BB18BAC8B9F8B9E8B9D8B9C8B9B8B9A8B998B988B978B968B958B948B938B928B918B908B8F8B8E8B8D8B8C8B8B8B8A8B898B888B878B868B858B848B838B828B818B808B7F8B7E8B7D8B7C8B7B8B7A8B798B788B778B768B758B748B738B728B718B708B6F8B6E8B6D8B6B8B6A8B698B688B678B658B648B638B628B618B608B5F8B5E8B5D8B5C8B5B8B5A8B598B588B578B568B558B548B538B528B518B508B4F8B4E8B4D8B4C8B4B8B4A8B498B488B478B46,
   0x4F5D4F5A65384F674F5E4F2B4F094F274F254EF54F644F224EF34F1B4EDE4EEB4EE14EE84EC24EC94EC34EBB7F5451825293529052815282527D84AF525C5261525E524C5240523F5233522D520E52085202536353668D5C533E532E532653F5531A8D5D976553AE53A553A3539D538D4EC4560F556C5B5B82884E934E694E5C9F104E9F4E369F17777E6BD3999780E456DF6C10536E723B592D4E4753154E3F79BA4E2856695B6C9B324E1E4E984E1553455EFF4E1051404E0C4E8D8CAD8CAC8CAB8CAA8CA98CA88CA78CA68CA58CA48CA38CA28CA18CA08C9F8C9E8C9D8C9C8C9B8C9A8C998C978C968C958C938C928C918C908C8F8C8E8C8D8C8B8C888C878C868C848C838C818C808C7F8C7E8C7D8C7C8C7B8C778C768C758C748C728C718C708C6F8C6E8C6D8C6C8C698C688C678C668C658C648C638C608C5F8C5E8C5D8C5C8C5B8C598C588C578C568C548C538C528C518C508C4F8C4E8C4D8C4B8C4A8C488C458C448C438C428C408C3F8C3E8C3D8C3C8C3B8C3A8C398C38,
   0x51BC51BD51B151AB7FB888035B34798088D281144EB588A4886E4EB351564EA05155591951EB53108A07530D52F95914518199989EC95DFD516E7C746C469FA04FCE4F654F586C3D4EDD510B510750EE50E650EC50ED510650D650BA50A950A750A5507B506C504E504850555043507E50285025500C501C4FFE502D502E500F502C4FF3504C50294FF84FDF4FD14FDC4FE34FDA4FC54FEA4FE84FE64F944FAC4F7C4FAA4F7B4F7E4F8F4F834F894F914F744F764F3D4F324F574F5F8D0D8D0C8D0B8D0A8D098D088D078D068D058D048D038D028D018D008CFF8CFE8CFD8CFC8CFB8CFA8CF98CF88CF78CF68CF58CF48CF38CF28CF18CF08CEF8CEE8CED8CEC8CEB8CEA8CE98CE88CE78CE68CE58CE48CE38CE28CE18CE08CDF8CDE8CDD8CDC8CDB8CDA8CD98CD88CD78CD68CD58CD48CD38CD28CD18CD08CCF8CCE8CCD8CCC8CCB8CCA8CC98CC88CC78CC68CC58CC48CC38CC28CC18CC08CBF8CBE8CBD8CBC8CBB8CBA8CB98CB88CB78CB68CB58CB48CB38CB28CB18CB08CAF8CAE,
   0x90BA90B690B390B490A190AC9099909D909B909796B09697968D968896749672966C9667965F965496499642963C963D962A963196219622961D537A53698C368C358C338C328C2F8C2E8C2B8C2A8C278C258C218C208C1F8C1D8C188C1B8C198C168C158C148C128C118C0F8C0C8C078C048C028C008BFF8BFC8BF98BF68BF38BF08BEE8BE98BE88BE48BE08BDF8BDC8BD98BD88BD68BD48BD38BD28BCE8BCF8BCB8BC38BC28BB78BB58BB48BAA8BA78BA68BA051A551A2519651C78DD48DD38DD28DD08DCD8DCA8DC98DC88DC78DC58DC28DC18DC08DBD8DBB8DB98DB78DB68DB28DB08DAF8DAE8DAD8DAC8DAB8DAA8DA98DA88DA78DA68DA58DA48DA28DA18DA08D9E8D9D8D9C8D9B8D9A8D998D988D978D968D958D938D928D908D8F8D8E8D8D8D8C8D898D888D878D868D838D828D808D7F8D7E8D7D8D7C8D7B8D7A8D798D788D728D718D6F8D6E8D6C8D6A8D698D688D658D5F8D578D528D518D208D1C8D1B8D1A8D198D188D178D168D158D148D138D128D118D108D0F8D0E,
   0x57DD57E457F857EF57F457B857D257D957DA57D857D557A0579357B457A757CF57B2578C57A457AD57735776576D5768577B577C5786576B578557695742573B575C572F572E57395733572A572C572958D158C558BC587E57A157A9574C5DEF755A5F0153B69B2F51FC51F55EF477CD71EE53DF52F052D652D054FF52BE52AD52AC52A25942520D914691439139912F91319123911E9122910490FE90EF90EB90DB90D790DC90E290E690D390C790C490D090BE90C590CF90B090B88E718E6E8E6B8E6A8E688E678E658E648E638E628E618E608E5F8E5E8E5D8E5C8E5B8E5A8E588E578E568E558E548E538E508E4F8E4E8E4D8E4C8E468E458E438E3F8E3E8E3C8E3B8E388E378E368E348E338E328E308E2D8E2B8E288E278E268E258E248E218E208E1C8E1B8E1A8E198E188E178E168E158E138E128E118E108E0E8E0D8E0B8E088E078E068E048E038E028E018E008DFF8DFE8DFC8DF68DF48DF28DF18DF08DEE8DED8DE98DE78DE68DE58DE28DE18DE08DDC8DD98DD88DD5,
   0x836583668333833A832D836083178340835F83438347834F832F835E839B83318334833C83928308835C835B8351831C82D582E0831583148306831A831182D382FB830C82D882D282F482DC8307830F82E482F7830982E182A482CE82C4829F82AA82A182B482A982C182CC82CB82AE82B7829882E382CA82C882B082BE82B882AB829982978291828E828482A8828A828F827F827D827961FF9F1999A85880589A58895881586C5865582058445819581E580057ED57FD580D580B8EE48EE38EE28EE18EE08EDF8EDE8EDD8EDC8EDB8EDA8ED98ED88ED78ED68ED58ED48ED38ED28ED18ED08ECF8ECD8ECC8ECB8ECA8EC98EC88EC78EC68EC58EC48EC38EC28EC18EC08EBF8EBE8EBD8EBC8EBB8EB98EB88EB78EB68EB58EB48EB38EB18EB08EAE8EAD8EAA8EA98EA88EA78EA68EA58EA48EA38EA28EA18EA08E9F8E9D8E9B8E9A8E998E988E978E968E958E938E928E918E8E8E8D8E8C8E8B8E8A8E898E888E868E848E838E828E808E7E8E7D8E7B8E7A8E798E788E778E758E73,
   0x853A851F853984F08538750D850C84E384E5849784B484B984A184E084BA84BF84CA84D384BD84E684D084CD84C1846D8431848E848C847684698446843C84788489847A8488848784738459845A8451845C83E183F0842683C083C583EA83F983F88403840F83DF83D4840684118438841C83D683FD83DD840B8418580783D883E5840183C183BC83BA83A8839E8398837B83B8837D83A983B6837C8385839C839383AA83A083B483B3837883B0836E836D836A836C8369831B83688F448F438F428F418F408F3F8F3E8F3D8F3C8F3B8F3A8F398F388F378F368F358F348F338F328F318F308F2F8F2E8F2D8F2C8F2B8F2A8F298F288F278F268F258F248F238F228F218F208F1F8F1E8F1D8F1C8F1B8F1A8F198F188F178F168F158F148F138F128F118F108F0F8F0E8F0D8F0C8F0B8F0A8F098F088F078F068F058F048F038F028F018F008EFF8EFE8EFD8EFC8EFB8EFA8EF98EF88EF78EF68EF58EF48EF38EF28EF18EF08EEF8EEE8EED8EEC8EEB8EEA8EE98EE88EE78EE68EE5,
   0x6496646D6484645E64216426640C6420641B640B6441644563BE63C6645263CE63DE63C463FF63E063F863F263BC63AE6369638A63AC636D63B4638E637A637163F663AD6343634B633962F6632262EE62D762DA62CA62BB629F626A624C5C345C2C5C255C22530F5958595A595580375941593C5F085EFE863C861686298605862785FF85DC85C185D385B085B785B98585859C85AE8579858F858785A885A4857B8572854377A2857A855E856485688548855984FC84FF853B8556901890159013900E900C900890078FFF8FFE8FFC8FFB8FFA8FF68FF58FF48FF28FF18FEF8FEC8FE78FE38FE18FE08FDA8FD78FD68FD28FCF8FCD8FCC8FCB8FCA8FC98FC68FC38FC08FBF8FBC8FBB8FBA8FB88FB78FB58FB48FB38FB28FAF8FAE8FAD8FAC8FAA8FA78FA68FA58FA48FA28FA18FA08F9D8F928F8C8F808F6A8F658F648F638F628F618F608F5F8F5E8F5D8F5C8F5B8F5A8F598F588F578F568F558F548F538F528F518F508F4F8F4E8F4D8F4C8F4B8F4A8F498F488F478F468F45,
   0x553C5550553F55555541556D554955B5558F5567552A55275511550F5523552254F3551454FD552054E7551B54DE54CF54DD54A454AA54A954DC54DA54D954CC54BF54BB54D554A3547254D454D354A654A754D254B454C254AD54D0549D546654765484549B549A546454715477549454825432542354595457542154435456545454535452544B54065416541253FB53E853E953FD53F1535F5F1175195FD25F0B652E6525650964E264E464D764D064C064BA649964B864B7647A90C090BF90BD90BC90B790B290AD90AB90A990A890A790A590A490A0909F909E909C909A90989096909490929090908F908E908D908C908A908990879086908590849081907E907C907B907A90799078907790769073907290719070906F906C906B906A906990679066906490619060905F905E905D905C905A9059905690559054904E904C904B904A904990489046904590439040903F903D903A9039903790349033903290319030902C902B902A902990289027902590249023901C9019,
   0x5E3C5E3B5E315E115E145E195E0F571C5709570A570456FF56F956EB56F556E156DD56D756D456AF56935685567C567B566B5671566456865654564C565C56595662564D562C565756395658562D5627560055FE562356245601560C5608561E8F9455E455F555E855CD55CC55F355F255E555EF55C455DD55E655D455EC55EB55D1561F55C955F755EA5599559455BE55BD55DF557B559155D6557E559F5581558855B955B1558355D2558B555C55305533557755765575555655379144914291419140913F913E913D913C913B913A91389137913691359134913391329130912E912D912C912B912A91299128912791269125912491219120911F911D911C911B911A911891179116911591149113911291119110910F910E910D910C910B910A9109910891079106910591039101910090FF90FC90FB90FA90F990F790F690F590F390F290F190F090EE90EC90EA90E990E590E490E390E090DF90DE90DA90D990D890D690D590D490D290CD90CC90CB90C990C890C690C390C2]

/-- Rows 96 to 107 of gb2byte. -/
def gb2byte8 : List Nat :=
  [0x72FA730372F3730172F772F472F272E972EF72E872D272CD72CE72C172C372B872B772B472B072AD5F6188625FBC5FB55FAD5FA85F9C5F995F955F8C5F895F875F825F775F735DC55DB78C735D9D5D995D825D745D695D4A5D4B5D6B5D5D5D6F5D5B5D6C5D3D5D345D3E5D585D1B5D065D1E5D245D2E5D265D275D035D025CE55CCB5CE45CD25CC45CB75CC15CA35CB15CAB5CAC5CBD5CA25CB55C9C5C9A5C915C995C985C885C965C905C8D5C7A5C8C5E615E5E5E5B5E545E445E3791E591E491E391E291E191E091DF91DE91DD91DB91DA91D991D891D791D691D591D491D391D291D091CB91C891C691C591C491C391C291C191C091BF91BE91BD91BC91BB91B991B891B791B691B391B291B191B091AC91AB91A991A891A791A691A591A491A191A0919F919E919D919C9199919891979196919591949193918F918E918A9188918691849183918291819180917C917B917A9173916D916B9168916791669160915F915C915B9159915891569155915491539151914891479145,
   0x6042607A607B607960786021603F600A602B6029600D600F601B6026603560195FF85FED5FEA600660055FFE5FE45FE160045FEE60035FCF5FD65FC95FC481BA5EEA5EE85EDB5ED15ED28D535EB35EBE5EB55EB95EA05EA55E965E8B5E915E8099959994999399919990998D998A998799849980997D99779974996C996B996A99699968996799635902592498E75925821B737E736F736C73607357734D735073317338732C7325733973227315731D731E730A73217313731772FB924592449243924292419240923F923E923D923C923B923A9239923892379236923592349233923292319230922F922E922D922C922B922A9229922892279226922592249223922292219220921F921E921D921C921B921A9219921892179216921592149213921292119210920F920E920D920C920B920A920992089207920692059204920392029201920091FF91FE91FD91FC91FB91FA91F991F891F791F691F591F491F391F291F191F091EF91EE91ED91EC91EB91EA91E991E891E791E6,
   0x6CFE6CEF6CD36CB16CEE6CEB6CFA6CD66CE06CB26CD76CF16CF86CF76CAD6CD46CD06CA96C866C766C746C696C686C8C6C946C906C856CA36C4A6C5C6C546C356215723F4E2C961A96199617961696159612960F960D960C960B960A960896069604960395FE95FC95F695F595F395F195EB95E996B35FDD61F561D461B761A7619461AC6175614A612B610E610060F4612361156126612060B460DA60C660D860DD60B160BB60EC609B608C60926083609D60AD609A6096607D606A92A792A692A592A492A392A292A192A0929F929E929D929C929B929A9299929892979296929592949293929292919290928F928D928C928B928A9289928892879286928592849283928292819280927F927E927D927C927B927A927992789277927692759273927292719270926F926E926D926C926B926A9269926892679266926592649263926292619260925F925E925D925C925B925A9259925892579256925592549253925292519250924F924E924D924C924B924A9249924892479246,
   0x6FD16F7A6F7C6F726F786F8C6F8D6F896F296F096F2A6F746F4B6F366F2F6EF96F156F246F476F466F626E9F6EC26E8F6ECF6EB46ED76EB76EBB6EBD6EA76EA56EE26F2D6EE06E986EB16EDF6E446E256E326E546E536E866E5F6EB26E6B6E4E6E6E6E2B6DAE6E0C6DAB6E166DD96DDD6DE66E116DE06DBF6E0E6DDE6DC56DC76E1A6D636D7C6D606D5C6D946D936D5E6DA06D9E6D6F6D916D336D546D526D4F6D1A6D356D2E6D4D6D2B6D0E6D196D046D076D486D436D0C6D276D39930993089307930693059304930393029301930092FF92FE92FD92FC92FB92FA92F992F892F792F692F592F492F392F292F192F092EF92EE92ED92EC92EB92EA92E992E892E792E692E592E492E392E292E192E092DF92DE92DD92DC92DB92DA92D992D892D792D692D592D492D392D292D192D092CF92CE92CD92CC92CB92CA92C992C792C692C592C492C392C292C192C092BF92BE92BD92BC92BB92BA92B992B892B792B692B592B492B392B292B192B092AF92AD92AC92AB92AA92A992A8,
   0x59A359AA59A9598D598359815C6E9B3B5F3C82745F2D5F295F2A7FBC5C665C635B715C595C5054AB5C3B5F585F565F575F50908B908390889082907D907466B9905B9062905890689050905290519044902F902D9036903590219016900D90119026900B900490058FE88FF38FE68FE98FE48FEE8FE58FD58FD38FB68B078E475BF089305BEE5BE464349A9E752F5BB85BA55B935B955B845B80705E704F70357039701B7023701A6FEF6FE06FDE6FEE6FE16FC26FB66FB96FA76FC9936B9369936893679366936593649363936293619360935F935E935D935C935B935A9359935893579356935593549353935293519350934F934E934D934C934B934A9349934893479346934593449343934293419340933F933D933C933B933A9339933893379336933593349333933293319330932F932E932D932C932B932A9329932893279326932593249323932293219320931F931E931D931C931B931A9319931893179316931593149313931293119310930F930E930D930C930B930A,
   0x7EA97EA87EA57EA37EA17E9F9AA79AA59AA39AA29AA09A9F9A9D9A9C9A9B9A989A969A939A929A909A8A9A889A859A819A809A7D9A7F9A7A9A789A779A755B625B535B515B735B655B5A5C1C5C155B405B375B325B165B175B095ADC5AD85AE65AD65AF15AE35AE05AB85AD45AD25AB25AEB5ABE5A7A5A775A9B5AAA80EC5A755A625A3C5A555A4A5A675A405A135A235A115A345A325A095A0C59F959D859E35A0859DD5A065A0559BE59D759AF59B259D259A4599E59AB59CA599793CD93CC93CB93C993C893C793C693C593C493C393C293C193C093BF93BE93BD93BC93BB93BA93B993B893B793B693B593B493B393B293B193B093AF93AE93AD93AC93AB93AA93A993A893A793A693A593A493A393A293A193A0939F939E939D939C939B939A9399939893979396939593949393939293919390938E938D938C938B938A9389938893879386938593849383938293819380937F937E937D937C937B937A9379937893779376937593749373937293719370936F936E936D936C,
   0x742C742E7430742874257426745B742A740F73F273BA73DE73E773E9740A987C73D973E573C873C973C073B373B773D173C273CF739F73A273AE7391738E9095753E5DDB757F5E7A7F357F337F327F317F307F2F7F2D7F2C7F2B7F2A7F277F267F257F247F237F227F217F1F7F1B7F1C7F197F177F127F117F0F7F0C7F0B7F087F077F037F027F017EFE7EFB7EFA7EF67F0D7EF27EF17EEF7EEE7EEB7EE87EE17EE07EDB7ED77ED47ED07ECC7ECB7EC97EC27EC17EC07EBE7EB07EAD942E942D942C942B942A9429942894279426942594249423942294219420941F941E941D941C941B941A9419941894179416941594149413941294119410940F940E940D940C940B940A940994089407940694059404940394029401940093FF93FE93FD93FC93FB93FA93F993F893F793F693F593F493F393F293F193F093EF93EE93ED93EC93EB93EA93E993E893E793E693E593E493E393E293E193E093DF93DE93DD93DC93DB93DA93D993D893D793D593D493D393D293D193D093CF93CE,
   0x68F96920691F68FC696E68C2686B689368776874688F68B568296849684A683E68406867684168666855681D6883686468446862684E686168606833683267FD67C1680E67E267B867C3680067DD67B367DA67B567D9680C67B067E9680A67D8680967F0677C6777678B67AD679E67A8677567A767986773676A678767A567696748675E6753674C97EC97EB97EA74BA74D274A7749074A974A8749E748B748774817480748E749C747E746D7477745974557457745C7441741A741B9520951C94FB94E694DA94D494D394CF94C794989496949194849483948294819480947F947E947D947C947B947A9479947894779476947594749473947294719470946F946E946D946C946A9469946894679466946594649463946294619460945F945E945D945C945B945A9459945894579456945594549453945294519450944F944E944D944C944B944A9449944894479446944594449443944294419440943F943D943C943B943A9439943894379436943594349433943294319430942F,
   0x8F8B8F878F848F828F818F7E8F7C8F7A8F798F778F788F768F758F738F728F718F6D8F6B6BAA6BA16B9B6B9A6B8D6B936B926B846B876B826B81735273376AAB6A976AA96A906A916A7C6A586A286A3D6A796A8E6A356A5B6A506AA06A3E6A4469F26A656A186A1769ED6A2F69FF698D69E0699569DF69CA69C169B169D469AD69AB69BB69A7699B697969636966698969CE6988698769CC6934697869986980696B6984695D6942696069396971691068E369576901690B68F0692495CB95CA95C995C895C795C695C595C495C395C295C195C095BF95BE95BD95BC95BB95BA95B995B895B795B695B595B495B395B295B195B095AF95AE95AD95AC95AB95AA95A995A895A795A695A595A495A395A295A195A0959F959E959D959C959B959A9599959895979596959595949593959295919590958F958E958D958C958B958A9589958895879586958595849583958295819580957E957D957C957B957A95799578957795759574956E9560955A9555954B95489543953D95339527,
   0x63B0633263087292728F728D728B7284727F727E726F7266725D729F726E89D189D089CF89CE89CC89CB89CA89C78D598D558D4D8D478D498D488D468D458D408D3D8D3B8D368D338D3266E966E666DC66DB66BE669D66A7668C66846677665766616656664F66416654665F80066635663666316634661D66F7708566006615660367726619660A65F065EF65EE653475137511750F74FF74F474EF81E7622C6224622562216222621F621B6217620B8ECE8F9A8F988F8F8F8E8F8D968A9689968796849683968296819680967F967E967D967C967B967A96799678967396719670966F966E966D966B9666966596639660965E965D965C965A9659965896579656965396529651964F964E964A96439641963E963A9639963896379630962F962D962C962B96299628962796269625962496239620961E961B96189613960795FF95EC95E795E695E595E495E395E295E195E095DF95DE95DD95DC95DB95DA95D995D895D795D695D595D495D395D295D195D095CF95CE95CD95CC,
   0x81BB81CA672681CC81AA81A36ED58191818281885AB5584D8167816D817D817C816981608171815A815981748153814C814881328118812C811E81368C5A8112671580FC80F2810E810D80ED80F480F180EB80DD671080D780CD80D980C480C280DB80EA80E980E880E780B780B480AD80AB80B180BD670A80BC8093809C809F52168662723072567252724D656B655565356C326C2A6C246C296C216C1A6C196C186C156C0D6C066C076C056BF96BF56BFD6BF36BEA800464D8643F9720971F971D971B971A97199718971797159714971297119710970C970B970A97059703970296FF96FD96FC96FB96FA96F896F596F496F296F196F096EE96ED96EC96EB96E796E696E596E496E396E296E196DF96DE96DD96DC96DB96DA96D996D896D796D696D496D396D196D096CB96CA96C896C396C296BF96BB96BA96B896B796B596B496B296B196AF96AE96AD96AC96AB96AA96A996A896A696A596A496A396A296A196A0969F969E969D969B969A96969695969396929691968E968C,
   0x5FD05FD179B379A7799A798A7985797A7967796F796079577962795A7953795C795B794979467940793B624962486243623D623E71B971667118706C7228721D71F971E771D471E071A071A871B571B37198717A7178714A717271457168715C71737131712F71167113711070CA70E870B170AB70B770C070BB709D7096709C708065D665D265CE65CC65C365C465C665BC65939F51659089F36BC25F406BB398DA98D998D598D398D298D16B596B466B436B396B376B2481A681C1979D979C979B979A979997979796979597939790978F978E978C978A978997889787978697849783978297819780977F977E977D977B977A9779977897779775977297719770976F976E976D976C976B976A97689767976697649763975F975D975C975A975897579755975497519750974F974E974D974C974B974A9749974897479746974597449743974297419740973F973D973C973B973A973797369735973497339731972F972E972C972B972997289727972697259724972397229721]

/-- Rows 108 to 119 of gb2byte. -/
def gb2byte9 : List Nat :=
  [0x7768775A7743774777517750773877357726772D77197722771A7708770776F9770D770476F19EFC9EFB9EF99F9B7934791E7924791378F4790578F278EC78C978D978D478A578B978B278A378A1789C7887789A7893789B786A784C78477850782678577856786D784E78297823782C7825783C781F783B783A7839781D781C782D65AB7811781878177809780077F877F66DFC6CF66C93807F8080620661D161CB619D61A9615D610D610660AB6063605960416067605A605D603C980E980D980C980B980A980998089807980698059804980398029801980097FF97FE97FD97FC97FB97FA97F997F897F797F497F297F197F097EF97EE97E897E597E497E397E297E197E097DF97DE97DD97DC97DB97DA97D997D897D797D697D597D497D397D297D197D097CF97CE97CD97CC97CB97CA97C997C897C797C697C597C497C397C297C197C097BF97BE97BD97BC97BB97BA97B997B897B797B697B597B397B197B097AE97AC97AA97A997A897A797A697A597A497A297A1979F979E,
   0x94EA94E894E794E594E494E294E094DF94DE94DB94D894D994D794D694D594D294D194D094CE94CD94CC94CB94CA94C994C894C494BF94BD94BC94BA94B994B894B794B694B494B294B094AF94AC94AD94AA94AB94A494A3949C949B949A9495949794949490948F948D948C948A948B948794869485883276E576CD7F7E7F817F797F717F747F688A487F5F7F617F58758375797572755B7548754B754E7540753A77BD77B577B077A0779F7791778C7780777D778D777F77657762986E986D986C986B986A9869986898679866986598649863986298619860985F985E985D985C985B985A9859985898579856985598549853985298519850984F984E984D984C984B984A9849984898479846984598449843984298419840983F983E983D983C983B983A9839983898379836983598349833983298319830982F982E982D982C982B982A9829982898279826982598249823982298219820981F981E981D981C981B981A9819981898179816981598149813981298119810980F,
   0x7A147A1E7A027A035D477A0679EB79E379ED79D596C977EC77E7953A957395729571956F956C956B956A95699568956795669565956495629561955D955F955E955B9559955895579556955495539552954F954E954C954995469545954495359542953F953E953C953895379536953495329531952C9529952B952A9522951F951E951D951B951895169515951495139512950F950E950D950A9509950795069502950394FF94FD94FC94F994F794F594F494F394EF94EE94EB94E99907990699059904990399029901990098FF98FE98FD98FC98FB98FA98F998F898F798F698F598F498F398F298F198F098EF98EE98ED98EC98EB98EA98E998E698E598E498E398E298E198E098DD98DC98DB98D798D698D498D098CF98CD98CC98CB98CA98C998C898C798C698C598C498C398C298C198C098BF98BE98BD98BC98BB98BA98B998B898B798B698B598B498B398B298B198B098AF98AE98AD98AC98AB98AA98A998A898A3989998959892988E988B98749873987298719870986F,
   0x7619761576187625760A7617760C76057600761075FF75FC75F1760375E775EB75E475E675E875E375CD75D675C275C375B075B175C475B875B475B375A375AC759D75A07596759475929E739E6D9E719E6C9E6B9E6A9E699E689E679E669E639E5E9E5C9E5B9E5A9E579E559E519E4E9E4C9E4B9E499E489E479E469E449E429E419E3E9E3A9E399E379E389E369E319E329E2C9E2B9E2A9E299E289E229E20752C74E074DE76A476997693768E76887A7099A59ECF7A517A377A39998999839982997E997B99799978997399669964996299619960995F995E995D995C995B995A99599958995799569953995299519950994F994E994D994C994B994A9949994899479946994599449943994299419940993F993E993D993C993B993A9939993899379936993599349933993299319930992F992D992C992B992A9929992899279926992599249923992299219920991F991E991D991C991B991A991999189917991699159914991399129911990F990E990C990B990A99099908,
   0x9883988098788983807180698052804D804680438035800B80318028802980278026802580228020801C80168014801277DC76B476B280E5758B897B896689418936892B8934890A891B89138919892188F088FE88E888FC891A88F188E588E388CE88E288C988BC88B788C688A28882887F887D8872886988647AB37AAD7AA87AAC7AA07AA67A957A887A867A807A797A787AE67FCA766F766B7656765C7654765E764D7633763E76437635763F7630762D764076207622763C761B99F999F899F799F699F599F499F399F299F199F099EF99EE99ED99EC99EB99EA99E999E899E799E699E599E499E399E299E199E099DF99DE99DD99DC99DB99DA99D999D899D799D699D599D499D399D299D199D099CF99CE99CD99CC99CB99CA99C999C899C799C699C599C499C399C299C199C099BF99BE99BD99BC99BB99BA99B999B899B799B699B599B499B399B299B199B099AF99AE99AD99AC99AB99AA99A999A799A699A499A399A299A199A0999F999E999D999C999B999A998E998C,
   0x87D287A887AF8793876587598764877C87638753878B876E874C87708760877B877E877D87228782873F87378729873187348748873E871A872E8725871E873B87238709870D870A870886F88707870386D186D886DF86F486DE871386D086F386ED86F286F186E986B486CF86C986AF86B186BA86B086CE86B586C486B686A9869386AA86A386A7869D86AC868B868D86A8867B867C867A867F866E866C8654864D98A698A598A298A1989F989E989B989A9894988F988D988C98899A599A589A579A569A559A549A539A529A519A509A4F9A4E9A4D9A4C9A4B9A4A9A499A489A479A469A459A449A439A429A419A409A3F9A3E9A3D9A3C9A3B9A3A9A399A389A379A369A359A349A339A329A319A309A2F9A2E9A2D9A2C9A2B9A2A9A299A289A279A269A259A249A239A229A219A209A1F9A1E9A1D9A1C9A1B9A1A9A199A189A179A169A159A149A139A129A119A109A0F9A0E9A0D9A0C9A0B9A0A9A099A089A079A069A059A049A039A029A019A0099FF99FE99FD99FC99FB99FA,
   0x7C0B7C167C0F7BFC7BFE7C0C7BEA7BE67BE57BDA7BDD7BCC7BC17BD17BB47BAB7BA27B9C7BAA7B857BA87B9D7BAC7BB87BA77BA67B907B717B727B627B7B7B6E7B607B5D7B4C7B757B457B5A7B587B1E7B3E7B337B247B257B207B317B2E7B197B2A7B387B477B0F7B2B7B0A7B157B047B037B087AFD7AFA82107F457F447F427F36883C88398821881B880A87FE8813881687EE87E087EA87DB87CA87C087D187BD87D387CB87B387B587AC87E587AB8783879787AD8785878887C69B069B059B049B029B019B009AFF9AFE9AFD9AFC9AFA9AF89AF79AF69AF59AF49AF39AF29AF19AF09AEE9AEC9AEA9AE99AE89AE79AE59AE49AE39AE29AE09ADE9ADD9ADC9ADB9ADA9AD99AD79AD69AD59AD49AD29AD09ACF9ACE9ACD9ACA9AC99AC89AC79AC69AC49AC39ABF9ABE9ABD9ABB9AB99AB59AB49AB39AB29AAF9AAE9AAD9AAC9AAB9AAA9AA99AA69A999A959A949A8E9A8D9A899A839A729A6B9A6A9A699A689A679A669A659A649A639A629A619A609A5F9A5E9A5D9A5C9A5B9A5A,
   0x9164914F914E9150914A8C498C478D6D8D678DB18D918D948D848D739EB49EB87E9B7E477DAE7DA67D777CF87FF37FEE7FE97FE67FE17FE57FD57FCE7FBF66A8826E7CE87CD77CC57CC87CCD7CCC7CC77CC17CBD7CBC7CB27CA27C9E7C9C7C9D7C9165497C7C7FB27FB07FAF7FA77F9F7F9D895E88DF88D888888885887E8268825F825A824F824B82498244823E82348233823B8238822B8228822F822D822382228221884481EC82048202820181FE7C407C417C387C267C2A7C1F9B7B9B7A9B799B789B779B769B759B749B739B729B719B709B6F9B6E9B6D9B6C9B6B9B6A9B699B689B679B669B659B649B639B629B619B609B5F9B5E9B5D9B5C9B5B9B5A9B599B589B579B569B559B539B529B509B4E9B4C9B4B9B4A9B469B409B3F9B3E9B3D9B3A9B399B389B379B369B359B349B339B319B309B2E9B2D9B2C9B2B9B2A9B299B289B279B269B259B249B229B219B209B1E9B1D9B1C9B1B9B1A9B199B189B179B169B159B149B129B119B109B0E9B0D9B0C9B0B9B0A9B099B07,
   0x89DC89DA89DE89D6659B8C948C988C858C8A8C828C788E9E8E9C8E908E948E8F8E858E748E6F8E7C8E768E708E4A8E528E518E428E418E498E318E3D8E358E398E408E3A8E2F8E238E2E8E2C8E1F8E1D8E148DFD8E098DE48DFB8DF98DE38DF88DF78DEC8DC68DDB8DCF8DCE8DDE8DDA8DD78DD68DC48DBA8DBC8DBF8DB58E698E598E058DEB8DB89E7E8C5591BA91B491B591AF91AE91AD91AA91A391A29191918D91909185918C917991749172917E917D916F91699170916191629BDB9BDA9BD99BD89BD79BD69BD59BD49BD39BD29BD19BD09BCF9BCE9BCD9BCC9BCB9BCA9BC99BC89BC79BC69BC59BC49BC39BC29BC19BC09BBF9BBE9BBD9BBC9BBB9BBA9BB99BB89BB79BB69BB59BB49BB39BB29BB19BB09BAF9BAE9BAD9BAC9BAB9BAA9BA99BA89BA79BA69BA59BA49BA39BA29BA19BA09B9F9B9E9B9D9B9C9B9B9B9A9B999B989B979B969B959B949B939B929B919B909B8F9B8E9B8D9B8C9B8B9B8A9B899B889B879B869B859B849B839B829B819B809B7F9B7E9B7D9B7C,
   0x9CCB9CCA9CC79CC69CC59CC49CBD9CBC9CBB9CBA9CB79CB69CB59CB49CB39CB29CB19CB09CAE9CAD9CAB9CA99CA89CA79CA69CA59CA39CA29CA19CA09C9F9C9E9C9B9C9A9C959C949C929C919C909C8E9C8B7A239C889C879C869C859C829C7F946B943E938F93CA936A933E92C892AE928E96E077BF96D296CE96BD96BC96B99F0D9F0B9EFE9F8C9F8A9F899F889F879F869F859F839F80973E9730972D972A970E970F97089701970696EF96F396E997538B268A3E89EF89EB89E59C3B9C3A9C399C389C379C369C359C349C339C329C319C309C2F9C2E9C2D9C2C9C2B9C2A9C299C289C279C269C259C249C239C229C219C209C1F9C1E9C1D9C1C9C1B9C1A9C199C189C179C169C159C149C139C129C119C109C0F9C0E9C0D9C0C9C0B9C0A9C099C089C079C069C059C049C039C029C019C009BFF9BFE9BFD9BFC9BFB9BFA9BF99BF89BF79BF69BF59BF49BF39BF29BF19BF09BEF9BEE9BED9BEC9BEB9BEA9BE99BE89BE79BE69BE59BE49BE39BE29BE19BE09BDF9BDE9BDD9BDC,
   0x9F449F3E9F3D9F379F399F2F9F2C9F229EEF9EEA9EE59EE79EE99EE29EDF9EE09EDD9EDC9EDB9E9F9E9D93D69E929E8B9E889E879E827E3B9EBE9EBD9B239B1F9B139B0F9B089AF99AED9AFB9AEB9AEF9AE69AE19ADF99549955992E990D98E89B519B4D9B489B499B479B439B459AD19ACC9ACB9AC29AC59AC09AC19ABC9ABA9AB69E589AB79AB09AB197B497B297A397AB97AF9794979297919785977C9CE29CDF9CDD9CDC9CD99CD89CD79CD59CD49CD39CD09CCF9CCE9CCD9CCC9CE19CE09CDB9CDA9CD29CD19CC99CC89CC29CC19CC09CBF9CBE9CB99CAF9CAC9CAA9C9D9C999C989C979C969C939C8F9C8C9C8A9C899C849C839C809C7E9C7D9C7B9C7A9C799C789C779C769C759C749C739C729C719C709C6F9C6E9C6D9C6C9C6B9C6A9C699C689C679C669C659C649C639C629C619C609C5F9C5E9C5D9C5C9C5B9C5A9C599C589C579C569C559C549C539C529C519C509C4F9C4E9C4D9C4C9C4B9C4A9C499C489C479C469C459C449C439C429C419C409C3F9C3E9C3D9C3C,
   0xE291E290E28FE28EE28DE28CE28BE28AE289E288E287E286E285E284E283E282E281E280E27FE27EE27DE27CE27BE27AE279E278E277E276E275E274E273E272E271E270E26FE26EE26DE26CE26BE26AE269E268E267E266E265E264E263E262E261E260E25FE25EE25DE25CE25BE25AE259E258E257E256E255E254E253E252E251E250E24FE24EE24DE24CE24BE24AE249E248E247E246E245E244E243E242E241E240E23FE23EE23DE23CE23BE23AE239E238E237E236E235E2349D429D419D409D3F9D3E9D3D9D3C9D3B9D3A9D399D389D379D369D359D349D339D329D319D309D2F9D2E9D2D9D2C9D2B9D2A9D299D289D279D269D259D249D239D229D219D209D1F9D1E9D1D9D1C9D1B9D1A9D199D189D179D169D159D149D139D129D119D109D0F9D0E9D0D9D0C9D0B9D0A9D099D089D079D069D059D049D039D029D019D009CFF9CFE9CFD9CFC9CFB9CFA9CF99CF89CF79CF69CF59CF49CF39CF29CF19CF09CEF9CEE9CED9CEC9CEB9CEA9CE99CE89CE79CE69CE59CE49CE3]

/-- Rows 120 to 125 of gb2byte. -/
def gb2byte10 : List Nat :=
  [0xE2EFE2EEE2EDE2ECE2EBE2EAE2E9E2E8E2E7E2E6E2E5E2E4E2E3E2E2E2E1E2E0E2DFE2DEE2DDE2DCE2DBE2DAE2D9E2D8E2D7E2D6E2D5E2D4E2D3E2D2E2D1E2D0E2CFE2CEE2CDE2CCE2CBE2CAE2C9E2C8E2C7E2C6E2C5E2C4E2C3E2C2E2C1E2C0E2BFE2BEE2BDE2BCE2BBE2BAE2B9E2B8E2B7E2B6E2B5E2B4E2B3E2B2E2B1E2B0E2AFE2AEE2ADE2ACE2ABE2AAE2A9E2A8E2A7E2A6E2A5E2A4E2A3E2A2E2A1E2A0E29FE29EE29DE29CE29BE29AE299E298E297E296E295E294E293E2929DA29DA19DA09D9F9D9E9D9D9D9C9D9B9D9A9D999D989D979D969D959D949D939D929D919D909D8F9D8E9D8D9D8C9D8B9D8A9D899D889D879D869D859D849D839D829D819D809D7F9D7E9D7D9D7C9D7B9D7A9D799D789D779D769D759D749D739D729D719D709D6F9D6E9D6D9D6C9D6B9D6A9D699D689D679D669D659D649D639D629D619D609D5F9D5E9D5D9D5C9D5B9D5A9D599D589D579D569D559D549D539D529D519D509D4F9D4E9D4D9D4C9D4B9D4A9D499D489D479D469D459D449D43,
   0xE34DE34CE34BE34AE349E348E347E346E345E344E343E342E341E340E33FE33EE33DE33CE33BE33AE339E338E337E336E335E334E333E332E331E330E32FE32EE32DE32CE32BE32AE329E328E327E326E325E324E323E322E321E320E31FE31EE31DE31CE31BE31AE319E318E317E316E315E314E313E312E311E310E30FE30EE30DE30CE30BE30AE309E308E307E306E305E304E303E302E301E300E2FFE2FEE2FDE2FCE2FBE2FAE2F9E2F8E2F7E2F6E2F5E2F4E2F3E2F2E2F1E2F09E029E019E009DFF9DFE9DFD9DFC9DFB9DFA9DF99DF89DF79DF69DF59DF49DF39DF29DF19DF09DEF9DEE9DED9DEC9DEB9DEA9DE99DE89DE79DE69DE59DE49DE39DE29DE19DE09DDF9DDE9DDD9DDC9DDB9DDA9DD99DD89DD79DD69DD59DD49DD39DD29DD19DD09DCF9DCE9DCD9DCC9DCB9DCA9DC99DC89DC79DC69DC59DC49DC39DC29DC19DC09DBF9DBE9DBD9DBC9DBB9DBA9DB99DB89DB79DB69DB59DB49DB39DB29DB19DB09DAF9DAE9DAD9DAC9DAB9DAA9DA99DA89DA79DA69DA59DA49DA3,
   0xE3ABE3AAE3A9E3A8E3A7E3A6E3A5E3A4E3A3E3A2E3A1E3A0E39FE39EE39DE39CE39BE39AE399E398E397E396E395E394E393E392E391E390E38FE38EE38DE38CE38BE38AE389E388E387E386E385E384E383E382E381E380E37FE37EE37DE37CE37BE37AE379E378E377E376E375E374E373E372E371E370E36FE36EE36DE36CE36BE36AE369E368E367E366E365E364E363E362E361E360E35FE35EE35DE35CE35BE35AE359E358E357E356E355E354E353E352E351E350E34FE34E9EAA9EA99EA89EA79EA59EA49EA39EA29EA19EA09E9E9E9C9E9B9E9A9E999E989E979E969E959E949E919E909E8F9E8E9E8D9E8C9E8A9E899E869E859E849E839E819E809E7D9E7C9E7B9E7A9E799E789E779E769E759E749E729E6F9E6E9E659E629E619E609E5F9E5D9E599E569E549E539E529E509E4D9E409E3C9E3B9E349E309E2E9E279E249E1E9E1D9E1C9E1B9E1A9E199E189E179E169E159E149E139E129E119E109E0F9E0E9E0D9E0C9E0B9E0A9E099E089E079E069E059E049E03,
   0xE409E408E407E406E405E404E403E402E401E400E3FFE3FEE3FDE3FCE3FBE3FAE3F9E3F8E3F7E3F6E3F5E3F4E3F3E3F2E3F1E3F0E3EFE3EEE3EDE3ECE3EBE3EAE3E9E3E8E3E7E3E6E3E5E3E4E3E3E3E2E3E1E3E0E3DFE3DEE3DDE3DCE3DBE3DAE3D9E3D8E3D7E3D6E3D5E3D4E3D3E3D2E3D1E3D0E3CFE3CEE3CDE3CCE3CBE3CAE3C9E3C8E3C7E3C6E3C5E3C4E3C3E3C2E3C1E3C0E3BFE3BEE3BDE3BCE3BBE3BAE3B9E3B8E3B7E3B6E3B5E3B4E3B3E3B2E3B1E3B0E3AFE3AEE3ADE3AC9F319F309F2E9F2D9F2B9F2A9F299F289F279F269F259F249F239F219F1F9F1E9F1D9F1C9F1B9F1A9F189F169F159F149F129F119F0F9F0C9F0A9F099F089F079F069F059F049F039F029F019F009EFF9EFD9EFA9EF89EF79EF69EF59EF49EF39EF29EF19EF09EEE9EED9EEC9EEB9EE89EE69EE49EE39EE19EDE9EDA9ED99ED79ED69ED59ED39ED29ED09ECC9ECB9ECA9EC89EC79EC69EC59EC39EC29EC19EC09EBF9EBC9EBA9EB99EB79EB69EB59EB39EB29EB19EB09EAF9EAE9EAD9EAC9EAB,
   0xE467E466E465E464E463E462E461E460E45FE45EE45DE45CE45BE45AE459E458E457E456E455E454E453E452E451E450E44FE44EE44DE44CE44BE44AE449E448E447E446E445E444E443E442E441E440E43FE43EE43DE43CE43BE43AE439E438E437E436E435E434E433E432E431E430E42FE42EE42DE42CE42BE42AE429E428E427E426E425E424E423E422E421E420E41FE41EE41DE41CE41BE41AE419E418E417E416E415E414E413E412E411E410E40FE40EE40DE40CE40BE40AF9F1F9E7F995F979F92C9FA59FA49FA39FA29FA19F9E9F9D9F9C9F989F979F969F959F949F939F929F919F909F8F9F8E9F8D9F829F819F7E9F7D9F7C9F7B9F7A9F799F789F779F769F759F749F739F729F719F709F6F9F6E9F6D9F6C9F6B9F6A9F699F689F679F669F659F649F639F629F619F609F5F9F5E9F5D9F5C9F5B9F5A9F599F589F579F569F559F549F539F529F4F9F4E9F4D9F4C9F4B9F4A9F499F489F479F469F459F439F429F419F409F3F9F3C9F3A9F389F369F359F349F339F32,
   0xE4C5E4C4E4C3E4C2E4C1E4C0E4BFE4BEE4BDE4BCE4BBE4BAE4B9E4B8E4B7E4B6E4B5E4B4E4B3E4B2E4B1E4B0E4AFE4AEE4ADE4ACE4ABE4AAE4A9E4A8E4A7E4A6E4A5E4A4E4A3E4A2E4A1E4A0E49FE49EE49DE49CE49BE49AE499E498E497E496E495E494E493E492E491E490E48FE48EE48DE48CE48BE48AE489E488E487E486E485E484E483E482E481E480E47FE47EE47DE47CE47BE47AE479E478E477E476E475E474E473E472E471E470E46FE46EE46DE46CE46BE46AE469E468E8644DAE4D194D184D174D164D154D144D134CA24C774CA14CA04C9F4CA3E855E85449B649B7499B499F4986498549834982497D497A49472ECA478D477C47294723E843464C466144D643DD2EBB43AC43B1E83B2EB72EB62EB343372EAE415F40562EAAE832E8312EA73CE03C6E3B4EE82CE82B39D03A7339DF39CFE8263918396E2E972E8C360E361A359EE81E2E8B2E88344734732E84E818E817E8162E81FA29FA28FA27FA24FA23FA21FA20FA1FFA18FA14FA13FA11FA0FFA0EFA0DFA0C]

/-- The two-byte codes of GB 18030: 126 rows of 190 cells, trail bytes 0x40 to 0x7E and 0x80 to 0xFE. -/
def gb2byte : List Nat := gb2byte0 ++ gb2byte1 ++ gb2byte2 ++ gb2byte3 ++ gb2byte4 ++ gb2byte5 ++ gb2byte6 ++ gb2byte7 ++ gb2byte8 ++ gb2byte9 ++ gb2byte10

/-- Rows 0 to 11 of big5Rows. -/
def big5Rows0 : List Nat :=
  [0xFF0F2223222521982199219721962192219021932191260926412642264022342235222E222B33D133D222BF221F222022A5222A2229223CFE66FE65FE64FE63FE6222612252221E226022672266FF1DFF1EFF1C221A00B100F700D7FF0DFF0BFE61FE60FE5FFE4CFE4BFE4EFE4DFE4AFE4902CDFF3FFFE3203E210532A325BC25BD25A025A125C625C72605260625CE25B225B325CF25CB300300A7203BFF0AFF06FF0320322035301E301D201D201C20192018FE5EFE5DFE5CFE5BFE5AFE59FE44FE43300F300EFE42FE41300D300CFE40FE3F30093008FE3EFE3D300B300AFE3CFE3B30113010FE3AFE3930153014FE38FE37FF5DFF5BFE36FE35FF09FF08FE4FFE342574FE332014FE312013FF5CFE57FE56FE55FE5400B7FE52FF64FE5020252026FE30FF01FF1FFF1AFF1B2022FF0E30023001FF0C3000,
   0xFF56FF55FF54FF53FF52FF51FF50FF4FFF4EFF4DFF4CFF4BFF4AFF49FF48FF47FF46FF45FF44FF43FF42FF41FF3AFF39FF38FF37FF36FF35FF34FF33FF32FF31FF30FF2FFF2EFF2DFF2CFF2BFF2AFF29FF28FF27FF26FF25FF24FF23FF22FF215345534453413029302830273026302530243023302230212169216821672166216521642163216221612160FF19FF18FF17FF16FF15FF14FF13FF12FF11FF1025732572257125E425E525E325E22561256A255E2550256F2570256E256D251825142510250C2595250225002594251C2524252C2534253C2589258A258B258C258D258E258F258825872586258525842583258225817CCE74E955E751635161515D515E515B515900B033C4338F338E33A133CE339E339D339C33D5FE6BFE6AFE6921092103FF20FF0500A300A2301200A5FF04FF3CFF0FFF3C,
   0x2CB02C702CA02C902D93129312831273126312531243123312231213120311F311E311D311C311B311A3119311831173116311531143113311231113110310F310E310D310C310B310A3109310831073106310503C903C803C703C603C503C403C303C103C003BF03BE03BD03BC03BB03BA03B903B803B703B603B503B403B303B203B103A903A803A703A603A503A403A303A103A0039F039E039D039C039B039A039903980397039603950394039303920391FF5AFF59FF58FF57,
   0x4E19738B72AC725B72597247723B7236722A706B6C346C0F6BDB6BD46BCB6B796B626B206728670866F065E565B965A465976587652F624E624B623662085FC35F155F145EFF5E7B5DF45C6F5C3A5C245C115B54592D592A592B592958EC53CD53CA53CB5384535E5345534753485339531652FF52FE52FB52085207520651F65197516C516E516D5167514151434EC44ECB4ECA4ECD4EC74EC64EC34EC04EC14EA24E944E924E954E914E885C394E4B4E394E304E2D4E0D4E104E11624D5F135F0B5EFE5E725DFE5DF35DF25DF15DE55DDD5C715C385C225C0F5BF85B535B515B5059735927591558EB571F53E353C9534352FA520351404EA14E8E4E5E4E5F4E484E4551E14E384E2B4E0A4E084E0B4E0953C8535C53415315529B5201520051E0516B5165513F4EBA4E8C4E864E5D4E434E034E014E594E00,
   0x516851485146514751494F0B4F014EFD4EF34EF04EFB4EF64EF24F0F4F114F104F0D4F154F0A4F194F094EFF4EA54EA64EA44E994E694E534E524E1F4E1E7ACB7A7479BE793A77F377E277DB76EE76BF76AE767D758B753375327531753075297528751F751874E674DC7389738472AF6C3E6C406C416C386C106C116BCD6B63672D672B672A672C672E65E665A56251625262546253620A5FC55F175F185F015E7C5E735E035E025DE65DE75DE85C3C5B835B55597659745931592E591656DA56DB53FB53ED53E553F053F153F253EA53E653EB53F553F853FC53E853E953EE53EC53F353E453EF53BB536E536F536053615349534A4EDF531D531753065305529F52A0520A51F851FA51F951AC518A5189514451454EDE4ED94EE44EE34ED74ED64ED54ED44ED84EE54E4E4E4F4E4D4E3B4E184E144E154E16,
   0x4F634F464F3C4F544F434F384F3A4F3D4F514F504F304F554F5B4F344F5E4F574F474F4F4F4D4EA84E329621897F8863884C8840866B827E8272826E821F821B820C81FC81F381EA81E3808C808B8089807F80338012800C800380017FBD7F8A7F367CF87C737AF9767E725D725F70706C4E6C4D6C5B6C616C556C506C606C5F6C596C576C5D6C166B7B6B646B21673567316734673D670966F366F265ED65EC65E865E965366258625B62636210620D620C620E5FD65FD95F1B5F0F5E745E765E065DDE5C795C165BFA5B895B855B885B875B585B57598159825979597D59835978598459385937591A59195729572F572C572D57285730573356DD56DE56E054125406540E54035408540D54115404540B54015410540A540C540F54095371537053205321530852A35216520E52125211521751B0518D5171,
   0x676067466749675E6756675C67516750674F674E675F66F465F16538653B65396286629162936295626E6298626F629262736279627E627C628A626D628962766280629662976284621162125FEA5FF85FEB5FF15FCD5FD75FCC5FD85F795F775F625F645F1F5F045EF75E8A5E875E8F5E0C5DEB5C8C5C945C915C905C3E5C3F5C415C405C2C5B8F5B8B5B8C5B5B5B5A5B5C5B5D59A5598A599359A4598D5996599959A3599E59A85992599D593E58EF573B574F5750573E574E5747574D57405751574A56EB56E456F056EA542C541F542B54315440543C542054365435542E5438543B5439544A5429541B544254485433544354465427544E5426543E541E542D541D53755373532352AC52AA52A952AB5228522A52295224522551B751B65175514D514B514C4F5A4F484F5D4F594F364F4E4F2F4F604F5C,
   0x5475547353D753D453D65379537853775366535153535354535252BB52BE52415236522E5230523A52375238523B51FD51BD51785176517751695155515251544F7A4F914F8F4F7E4F964F7B4F694F884F754F704F834F864F8B4F9B4F6C4F7F4F734F8D4F9D4F6F4EAC4EAB4E9E4E9B4E8B4E734E564E26962C962A9631962E963291CC91C6914990A390A690AA90A290915DE18FC48FC58FC68FC28FB08F9B8ECA8EAB8DB38D708D648C9D8C558C468C378A0089D2898B828D828B8292826F80B2809A809B8098809D809380967F557CFB7A7679BF79C079C177E376EF768275387537752B752C739672C272C47260726172627078707D707C70766C826C986C946C8D6C766C866C746C7E6C726C836C7D6C926C966C686C8C6C706C906C7A6C6A6C9B6C856C896C886C816C996C5E6C426BCF6B6567576753,
   0x660A6615660F6600660E66026606660C6613661465FA65BC65A7653E62CE62AC62C662D762D662D862B162DA62B562CD62C762D962D062BC62BD62A862C862CB62D462D362AB62DB62D262B962C262BF62C462CC62C9627F6240623E623F62156216601B602B6029602760216015602A60166035602F6014600F5FFF5FF55FFD5FE05FDD5F7C5F7F5F815F805F295F275F265EF65E965E955E9C5E975E9A5E785E115E1B5E155E165E1A5E185CB35CB15CAB5CA95CB85CA15CB75C465C455C485C1A5B9B5B995B9C5B985B9A5B975B635B645B5F59C559D259B359AF59CA59D359CB59CD59D059C659D159AE59B959D459BB59BE59545944594859475949591C577C5764576657615769576A5777578356FA548E547D548B54685462549A548C547654715490547C5486549254845477547B5480549554785496,
   0x9644963B963F9640961C9580957791D191C790B690B190B890B58FD18FD48FCE8ECB8868521D8671864E82B782BE82B082A382B882AF82A582AC82B182B9829F82BD82AD8299829D82B3820D81FE81E580AF80AA80B480A980AB80A180B180A280A580BA80057F8B7F8C7F547CFE7AFA7A797A7A79C879C979417940793E77FD77E576F476F276C27684759A7599759D753D73A573AB739F73A873A972D072D772D972CE72C07269726772487238722D722C7099708A7092708E70956CE06CD66CDC6CEF6CAC6CCA6CDB6CE16CBB6CBF6CF16CC56CD76CAE6CC16CB96CC46CB86CD36CD56CAB6CE26CBC6CBE6CBD6CB36CE56CCC6CB16CF36CE86CE36C1B6C136B7F6B676B666B236772676A677C6793679A67756790677E6789677F6770676F6797679D678767776773679C67716795678B676D670B670D6607,
   0x62F762F1630762FD62EE630162ED62FC6309631662DC62416064606A606B606C60436046606260686070604D6028600E60256020601D60125F895F8C5F875F8B5F8A5F855F885F655F2D5F085EFA5EA65EA05E7D5E1F5E255E1D5DF75CD25CD95C4B5C4D5C4F5C4E5C015BA55BA25BA45BA65BA35B6959FB5A0159E659DA59EA59E55A0359E859E359FF59D859DC5950594E594F59515955579357AE57CE57A257A357A0578B578256FF54BF54A754A954BB54B154AB54AF54C854C454C154AA54BD54C254C754B354A654B854C954CE54A854C054AC53DB539A537B5357530D52C152C352C952C75247524B524C524D524A5243524E51A05191519251574FB74FDE4FCE4FDA4FC24FC44FD04FAE4FD74FCA4FDF4FD84FB64FC34FDD4FCF4FD14FE04FBF4FAF4FB54FE14EAE4EAD4E9F975E975296E896B99642,
   0x80047FBF7F8E7F387D067D047D077D097D007D057D027C7D7AFD7AFF7A817A7F79CB79D279D179BA79B97947794879497946780D780C7814780277DC770776FC76FE770B770976F876F9770176C576C376C676C8768876877686767875A375A275A575A475AB754B754E754C754F752D751A73B373C073CD73B273BB73CA73B772E172E072E97274726F7272723070A470AE70B870AD70AF70AC70B370BA70AB6D2B6D0E6D356D2E6D296D386D276D396CF56D1B6D366D3E6D3D6D3B6D176D1E6D316D0C6D256D416D2A6D326D0B6CC96C1F6BD76BD26BB56B866B836B6A67D267DD67E267D967B067F367DE67CF67B867E567DA67B467D167C467EF67E967F567AF67B667EC67D067D467F167D367FF66F7662466316628661F662F66276620662D662565E265BD65AB6545653F6302631162F462FE62EC62EF]

/-- Rows 12 to 23 of big5Rows. -/
def big5Rows1 : List Nat :=
  [0x54EA54EE550954E154ED54E9551454FA550654F254E554FC55375501551054E853DF539D539F537F532A525D525B5254525C525651CB51C651CC51CD51A251A551A4517C5009502B4FFE502A502D4FEE4FF350185019500B50214FF15028501450004FFA50115012501A501F503C5006501650294FF8502550264FEF5023500D500C4EB34E589999999698DF98DB98A8980197F397ED97CB97699762964D964C964B9650958291CD914A914B90C390C190CE90CA8FE88FE48FEB8FED8FE58FEA8FE28FE68FF08ECC8ECD8DB48D738D748CA08C9E8A038A028A0889D48981886B884D867A867B86798650830682EF82DF82D382DE82D182D482DC830182F182D782D28309830282E5830482E682DB82E38305830382E7822281F480DD80E480DE80CE80DB80E180CC80C480C380DA80E580D680368011800D8010,
   0x6D936D596D776D786D666D876D886D956D6A6CF06C246C266C286C276C236BB76B896B8A6841681868136845682A6843683C6840685067F4683D6851684C681768B368296854684268396853684668486838682167176715671466F866416645664C66526643664F6649664265C565C1659965496548634C634D6328632B632A633D6350633A6349634F634663426355632F633E634E62FF630862F3624760966085608C6094608D609A609F6084606F6069606D605560506065606360595F905F915F925F315EA75EAD5EAB5E2B5E2D5DEE5CF45D015CF65CF05CE85CEA5CFB5CFD5CED5C505C555C515C045BB85BB95BB55BAE5BB45BB65BB35BB05C585B6B5A095A0C5A255A295A235A2059EC5A135A1B5A1F5A1C5A185A11595A59585957590F580957C357CB57D457C257045703550F54FD5507552754E6,
   0x83438328833183408317833683398332834F83348335834983508338834A83548352832B82BB822C8228822B822A8210820081EC81ED80EF80FC810A80FD810880F380F8810680F480ED810580F0810280F1803F803D801780198015801880067FC17FC57F947F5F7F3A7D1B7D197D0D7D1C7D1A7D157D107D147D227D207D0A7D0B7D177D217C897B117B067AD97A887A8479D879E979E679DF79E779E379E4795A7957795D795E7956795F7960795079557832781F7820782D782578377834781D78387827783077E977287720771F772976CE76CD76CA76B0768B75B875C275B975BC75BD75B375B275C775C575BE7559755A755C755D755473DE73EA73E073EE740973ED738672F772F872FD72F972FC7279723970CF70C870D970E470D870CA6D946D656D856D796D8A6D8C6D696D746D5A6D6E6D896D6C,
   0x5A405A6A5A665A495A415A365962592057F957F75835580257FA57E457E05806580A580557DF5709570B57085557554155335563552C555C552E55385564552F5555554F55565531554A55435561555E55445566556A554666FC53C3533E5340533F5319530F531052D552D852D952D2526F526A51F05195515C506D506F500F504F5077507450755055504E507650655049505A504C50435047505C507D507A4E7E9B3C9B329B259AD89AA899AC98E296BB965E96589664965D965B966196639662958391D991DC91D791DD91D8914C914D915290E290DD90E190958FF890058FFD90038FF48FFA90008FF7900690018FB18ECF8ED48ED28EAC8D778CA28CA18C798C7A8C488A118A0F8A168A138A178A0A8A158A0C8A0E8A108A188879887D8882888188778870869C86A3868C86A986A4869386AA868A8654,
   0x6BBA6B32688268A1689F68A8689D68946885688668AD68C4688368B0689768A768B16876687F68B5689368A268AF6881671B52D766F9665E666666686664665A665D65CE65CC65CB65CF65AC659B659C655465556558654F555F6557655965516556655D637A63686369637B6380638F639263AC63A163996388638463A8636B639B6383638963A9637163AA63986367637763A563A26396637263A763A06248621B621A60C760DA60B860DF60C660D560D860BC60DC60B560BB60C560BD60E660B460CB60A860A0608960A3607F5F9C5FA05FA15F985F9E5F995F975F6B5F695F6C5F575F375F355EBE5EB55EB65EB85EB75E375E335E365E385DE25D175D275D245D195D145D295D115D225D165D1B5D0E5D065D075C5D5C5C5C605C075C085C095BC65BBF5BC25BC45BC55BC75B705A4A5A465A5A5A625A3C,
   0x837C837B837783A083898393838A839283AB83BD839683A283788398839E838E82398236823782358202812481308129812B81238116812F8046804A801C7FD27FCE7FCC7F9A7F9E7F3D7D317D327D427D2F7D447D337D307D407D3C7D397D2E7D717D437D467C957C977C927B2E7B1E7B197B267B2C7B1B7B287B207A957A9279FB796D79687965784E7843786B773A77387736773C773E773776DB76D276D4768E75CD75CA75B575D575D4758F75707562756675657522751C74F774F674E0740D73FE74067403740A74057387731973137316731B731C7281727D723D70EF70FD710A710970F96DE66DBF6DEC6DAA6DC46DC66DE86DEE6DF16DEA6DD86DEB6DDA6DB56E1A6DD26DC56DF56DF76DB86DF96DDE6DAE6DD16DAF6DCB6DC76E056DFA6DFB6DE46DCC6DE16DB26DD96DF36DBC6D8E6C2B6BEC6BEB,
   0x596058FA58F95820581D58215831583058245834582A582F570D559955AB5589557E55B155AC55BB559A55B2553E559F55AE55B35583558B5587559455AA559C55825598559D558A557C55A75580557B53A5535A52DB52DD52DE526952755274527251F16700509A509850965080509150995085508D50A29EBB9EA59E7F9E759CE59B5A980398027ADF7AE096E996EA96C0966C9677967696749670967896739675966A958991E991ED91E791E391E691F591CE915790FD90ED90E89014901B90169022900F9020901E90159010901D901F90239017901A900D90198EDF8EDB8DBA8DBE8D668D678CA78CAA8CA88CAB8CAC8CA98C5A8C498A228A1B8A1F8A2D8A318A258A238A1D8A2A898F8993888B888D8896889288AB8888889E885386C986AF86B186CB86C686B586C486B686C086C75F6A865583A78386,
   0x6ECB6E3E6E1D6E436E2C6E3A6E4D6E346E6F6E266E2D6E6E6E566E246E586E5B6E1B6E236E256E206E4A6E676E326E216E546E386E2F6C2C6C2F6C2E6BEF6BBC6B966B986B3D6B3A6B3E68FB696E68DA68C9690E6912690D68CD68CB68E368F268D268F968E768EE68F568DF690568D768D868E068D568FA671D671F66FF66FE6677667E667A6691666F667666746670666E65AF65906591656365626566655E63F963DA645263DB63EA63F4637663EE63ED63D663E163D063E363D263CD63C663C963E963C063CF638C63A36249621F61126100610960F6610E60F1616860F460FB60F0611560FA6123611C60E060B660B260E160D15FA85FAA5FA95F6D5F3C5EC45EC25EC15ECA5E7E5E435E405E3D5E455DFD5D475D345D505D4C5C315C0B5C0A5BD05BD35BCC5BD25B715B735AA75A9B5A925A7F5A9A5A77,
   0x8A418A3C8A5E8A558A608A3B8996898388B188C288C1885786DE86D086E486DB86D486ED86D986DF865B83DF83D4840783DC8404840E843883CA83F283FD83CC840C83F0840A845783F483F183EF83C1840B83C583E0840D83F8840383E9821C821281748153814C813E81468139814E8151814B8154815580858052800B7FD57FD455847D737D707D627D667D617D727D6E7D2B7D557D687D507D5E7CA57C9F7B517B4F7B4B7B4D7B547B527B507B467B567B497AE37AE57A967A977A987A007A057A0B7A087A0D786F786C785D77ED774F76DC76B476937696767C767B75E075DE75D875D975E375DB75E2756A756B7526752574287426741B742F743474367435742574227433742A743A732973347325733672807284724C711C716E7136712171307126711A71196E5F6E696E726E446E636E4E6E196E89,
   0x5ABC5ABD5ABE5ACC5AC95AC15967584B58525862584A586D584C586B5854585A585758585851585E5713571255C955E555C655C555E155DA55EF55E455E355D155C755DC55CE55E655D355E855DF532F52E352E252E452E652DF527D5277527F50C750AF50BB50B750AC50BE50C550B350B250B550AD4E829ED19ECD9EC399AD99AE98ED98F298E998EF98EA98E798089806980597CC96F296EF96C796C696C496C596C196849672968D96869685967D968B968E968A958E959295939591958B958F9594921192079210920D921E920992239215921491CF9165916390FE910990F5910290369032903890319035902E8F9C8EFC8EF88EFB8DC68DDB8DCC8DD18DDA8DCB8DDD8DCE8D818D858D8A8CB88CBF8CB68CB78CB48CC08CBB8CC18CBD8CB38CBC8CAF8C828C618A568A368A3A8A348A468A508A5B8A54,
   0x7763775E7766776B775B76DF76DE75F375F475FF75FA75F175F2760175F0760075787576745C745B7459743F7441745E745F7455745A746F733E733F734573377252723A715671687146715E7165714C7166716C715C71677149716471697159714E6EB46EA76EAA6ED46EC46E9C6E966ED16EAB6EBA6EBC6E986EA56EC56EC76E9D6E906EC26EB66ED36EAF6EA26BFD6BD36BBF6BC06B726B47695B6963695D698669796953695E696B6968694A698269306975695469606977695A696D69946703668D669866846696668866876689669765B0659F656C6406641764166436640D6414641C640F642C643D642D642A641E643E64136222622161376106610D61276134613E614D6144614C614E6108610160F9611B60F3611F6148610F611A5FAE5FAC5F595F125EC85EC95E795E4C5D6F5D695AB25AC25AB3,
   0x8F0A8EFE8F098F038EB28DE68DE48DEA8DFA8DF38DEF8DE88DDF8DE18CC58CC28CC38CB28CC48CC88CC78CCA8C898C8A8C628A688A3E8A7B8A798A6C8A6E8A628A6D8A858A718AA08A638A7C8A878A708A698A668A738A728A6B89E3899C88D288D588CA88E188DD88D888DC88D988D488DF8859870A87068703870286FB86FE870087078708871386F9865F865C865E8446846D8469846384618435843C845B846C8449846B846684758431843D84778482824782058166817A8179816B8173816E816581788170817180848086805880567FA47FA87FA97F727F6A7F697F6E7D5B7D8F7D817D917D797D937CB57CB37CB17B677B6E7B607BC07B777AA07A9F7A1E7A1F7A147A207A1A7A1C79BD842C7981797F797A787F78937891787C7889788C7898789778B0788E77EE776277687765775C776C776A7779]

/-- Rows 24 to 35 of big5Rows. -/
def big5Rows2 : List Nat :=
  [0x61475FB95F705F465F0A5ED65ED35E545E575E555E635E5B5D875D845C625C0D5BDF5BE45BE25BE85BE65BE55BE15BE75BDE5B755AE35AD85AD65AD75AE95AE65AE15969596A59245922592558FD587D58855879588A58935883587E58755716571855F656105608561F561655F7560E560D56095606561455FD5617561B560055FE53AD53315282528351F3516250E950CE50F150D150CF50D550DA50ED50D650E550EE50E79F209F139F0E9E829CE99AE199B499B199B398FE98FD98F498FC980C9812980A98139811981097769774975696F696F996FB96F796CA96C996CB96CD9695969496989598925A923F92399245924D9249923492519264924B925B923E9240923D92389257923791C99169916A916C911791129041903E9051904D904E904F904790509055903C905490429053904A904B8FB28F9F,
   0x7DAC7DC77DD27DAD7DB87DB57DBF7DA27DBA7DB17DB27DB47DCA7DA07DBE7DBD7D9C7DB07DBB7CBE7CBD7CB97B847B877BB87B8F7B947B9D7B977B757B8B7B957BA17AEF7AED7AA97AAA7A317A2E798D798F798E78A378A978B378A7789F78C17761777F777D778476E376E176137609760B760D762775917504746D7470746A746374647350734472967292723E71927184718A717D719971946EF76ECC6EF26F016EEC6F2A6F886F2F6F2B6F156F236F326F386F316F066EEF6EFF6F226F026F0F6F2C6F206F3E6F296EF46F136EFE6F146F336C336B4C6B4969A369C369A669CC69AD69CD69D069B469AB69BB69B7699B69CB69D369AE69C1699569A8699C669D66A866A265D665D765A16572647B646D643464676451647A645F647864A4645464586487622A61756158615A615F616361626177614B613F,
   0x51DC510551095108510250F950F550FB510051049F4A9F3B9EBC9CF39CF69CF49B429B419AE69AB09AAF99C19909990C9905990398B198AF9818981797F69785977C970096D296CC969B969C969995A495A595A395A995A895A19291927C92A8929C9293927B929692989285928092789174917791789175911E91189119905B905D9062905E90599063905C905890608FA38F138F158F128F148DFC8D958D998D6B8CD28CD18CD38C8C8C8D8C6A8AA78A9A8A918A988AA88AA58AAA8AA48A938AA18A8D8AA38A9E8A8C8AA688EF891A88E888FD88F888F988F4890288F38729873787558718873487258722873B871C873F84CA84D184BC849084D384C084B884CB849C84B2849E849984C484C684BF84C9824B821E8214820781FA81E78182817F818A8188818F818081508087805A805E7FDF7FE17FE07F70,
   0x7483748B74697357734E729B725671A871B171AC719F6F5F6F606F6F6ED56F586F976F646F706F7A6F8E6F6E6F786F5B6F6D6F866F546F666F516F846F7C6F3F6BC66BC56BA46B4E6B506A1169ED6A056A0269F36A0A6A136A2169FD6A196A1E6A0169E86A1F6A2366B166B466AB66AE65786577657564B364A2649964AC649A64AB64AD64AE649264A96495649364A564B06490648864B2649E6479646F6469622E61AE619461A4619A61AC618E61AB619061A7617E616B6170617C61826155615D616E616761765FB55FB75F715F485EE05EE35EDD5EDF5EDA5EE25E615E5F5E625D945D9D5C655C645BEB5BE95BEC5BEE5B085B0C5AF55B0B5AFB5B09596D58A658A958AE589C58B3589E589F58805630562F563656745657564E565356295634563F56325639563B562E53B252F0528A528D528952885287,
   0x8F1E8F1C8F2A8F268F298F1F8F1B8F1D8EBA8E1E8E218E1F8E298E0F8E228E1D8E108E2B8DA38D9F8D6D8CE18CEA8CDC8CE38CE28CED8CEC8CE48CE68CDE8CE08C6C8C4E8C4C8ADB8AB98AB68ACD8AD68AB08ABF8AC28AC98AB28AF88ACB8A958AC48AC78AD28ABC890A89158913891289078910885D885B8753874C875787598768877887668760877687748782850684FF852584EC85148521852385118513852D852C84EE851A853D85178198819A81A0819D819C819B80267FE97FAF7F777F757DF97DF27DD97D9E7DE97DDE7DDA7DE37DE87DDD7DEC7DD87DFB7DEF7DF47DE07CCA7BCC7BA07BC17BC77BC67BB47BC47BB17BAD7AAE7AAF7A3B7A377A3D7A407A3C7A3F78D078BC78D578BE78CA78BA78C578CB778B7791778C7787778E76E476BA769A7622762176267624761F76297620757F7480747E,
   0x6FA16FB16FC26C056B776B596A486A5F6A356A476A4B6A616A626A446A396A586A6B6A596A3A6A386A3D66B866C766C466B966C966C6657464BE64D464D264BF64CD64C264C764C464DA64BC64BB64CB64C164C5623061C861CA61BE61B661CD618A61A9619161B25F4A5C0E5BF05B785B345B1D596E58C558C758BE58C156765662566C566F567156655668566A5678566456695679566B565952F35293529151DD51AA5180511551105114511851129F5258A89ECE9EBE9EA99D039D099D069B6F9B779B449B459B279AEF9AEE9AB799D999D299D599D199DB99DF99D099DD991899129913990A98B3981C982B9821978F978B978D9760970997079706970495B195AD92B292F092C792D292BC92B392C192E492AC92EA92B792BB92C59183918B9189918791319127912D91309077906D9068906E90698F25,
   0x931A9304932B92FC9322932F933392F89336932091929134907A907C90729078907490758FA68FA88F338F388F2F8F3B8E358E398E428E348E318E448CF48C938C6D8C6B8AFC8AF68AF38AED8AF78B028B018AFE8AEE8AE78ADC8B008AF18AEB8AFA8AE689A689AA8921892B89258932892A8861878D87A2879E879F8783855E856A856D854985438569856885488559854A82598258820881FB81A881A981B380287FEE7FF17FF07FB27F797E107E097E1D7E1E7E237E1B7E087E117E0A7CD67CD57BE67BE97BE17BDB7BE47BC97C117BD97ABA7A4B7A4C7A467A4E7A4D79A678E778EC78DA78E877A5779F779E77A076E576E7763A76387634750D750C74E2749E749F749874A3749C736871C471C371DC71D971CE71B971D571C871D271D071C971BE6FB46FA06FA66FB66FB96FC06FB36FA76FC16FA46FC3,
   0x77AC77B077AA77B376EA764C7642764674A874A674B074A9737273707246723571E071F471EC71ED71E571E671EE71DF71E76FF06FEE6FD56FE96FE16FEC6F806FEF6FEB6FE46FDB6FE06FDF6FF16FD86C086BDA6BAE6B5C6AA06A906A976A7E6AA36ADB6A9C6AA26A846A946A8066D666D96583658264ED64E264F164EC64E664F064E064D864CA64CE6234623261CB61E661C761C261C95FBD5F4C5E6B5DB85DBD5DBA5DBC5C685C375B7A5B245B2A5B3058CE58D158D358D5568F5687568556905680568E52F551325121511F512A9F9C9F8D9ED49ED89D1B9D129D289D269D239D159B919B289AED9AFB9ABC9AB899F199E299ED991A9921991B991E9928991098249839982D9837983B9838983097989766975C975B970F9713970D97169711970E96D596AA96A896A795BB9319932E9315932193269310,
   0x9A01993598B6984697D397A0971E971C96D696B896B195C695C895CC95CB95CA9354935A9370935B936C937E9318934B9365934A937593289382934D919C919E91A391399080908290819084907D907F8F3F8F458F428F3E8F448E4A8E488E4B8E498DA88CFB8CF88CFC8CFD8CFA8C738C3F8C418B108B048B1D8B208B0A8B1B8B198B178B0E89AC893D893889448936893B87CB87C887BA87BB87AB87C687D287B387D187C08667858A85A88587859B85AF85948591859C857E858485AA8271820981E881BE81C981BD81BF81C081C281BA81C381C68073806F8070807280717FFC7FF37F447E2F7E3F7E357E487E397E347E417E457E317E3D7E2B7E437E327E377E467E3E7E2E7CDD7CD97CDF7CE27CDE7CDC7CE07BE07C0C7BF77BFE7C0D7C077ABF7A5779AA79A7790178EF78F478FA78F777EF77AD77A7,
   0x97A697A3972496DE96DB96D996DC96E295D595D095D695D49397939A939893B093AC93AE93B393A29396938A939491D091AC91AB9088908390878F4D8F498EC08E558E5F8E648E668E638E598D058C508B2B8B2C8B398B2889F489B2898687E087F287EC87EF85A685B985BA85B085C985D085CD85A985CF820A81CF81CD807680777FFB7FF97F487E597E527E617E5A7E5E7E557E547CE77C217C237C1E7C2A7C277C2B7AC57AC47A607A627A6179AE790E77BC77BB77BF77BD765276587656751574BF74A77375737771F871FE71FC71FB700F70116FFA70066FFE700B70096BAF6B786B5F6AAF6AAE6AC26AB86ABB6AC36AAC6AB3672666DC65B764F764FB64FA650664FE64F264F4623361E35F5D5B3858D858D956AE569553E29F4B9F3E9EDB9EDD9EDC9EDE9ECF9E8B9D3F9D3B9BAD9BAA9BAB9BAE99FF,
   0x985E97FB97DC97619727972A96E396B495DC93E893D793E493D893CD93E293D693DD93DC93C893C393DF93D193E191AE91B1908B908A8FAD8F4E8F548E748E7A8E6C8E768E878E728E7C8D0A8D088B598B468B4F8B4E8B5A8B498B588B5C8B41895E8956895F896087FE87F9880D880587FB85F785E585E485D585EA85DD85E981D87FB87FB97FB67E737F857E6A7E697E797E6D7E6B7C407C377C3D7C387C3F7C3E7A697A6B79B1791977C77661765F7586758774E374CA74BD737A737872A27258720D720670187015701D701A7028701F701B6AD36ADA6ADD6AE566DD66E0650F650061F561F661F761F25EEC9F905BF558E258DF58DE56A551339F2C9F159EE09D609D5D9D519BC09BC89BFD9BC99BCA9B4D9B4E9B4F9B069B039AC19A0E99A5992E993D993F993E98BA9853984E984C984F984D97F997AD,
   0x8B7489BD896C896A881F882188228823861A862D86177FBC7E8C7E8F7C5077D3766974D474D672A7721B704C6BB26AFA6B046AFB66E96595651C651D61FE61FC5DCD5C6C591456C256C056C1513851379F619F639F5F9F2F9EE89EB59E799C0D9C139A359A379A309A2B99A89951995298C4973095E193FD9403941891CB91B48E828E858E818E898D0D8D0F8B6B8B5F8B6F8B668B6C8B7089F889BA896488158814860A8607860B860685FA861185F985FB826681DA80007F4C7E827E7C7E7D8FAE7CF07CEF7C4D7C437C4C7AF67AC7792B792C792A79267665766274CF737B721070327030703E6AEC672766E665196514651861FA61F85DC95BF65B7D5B435B4058E456BC56B456B656B756A852F89EB49E939E979E929D6C9D6A9D729D619D899BDB9BD69BE79BE89B0D9A199A169949994598BC985B9858]

/-- Rows 36 to 47 of big5Rows. -/
def big5Rows3 : List Nat :=
  [0x8B928B938862883988367F887F5077D776727671705E652C58E956D19EF49E9F9DE59C569C579C549AD19AD49AD39A579A5B9A5A995C986F9768946494609463908F90908B8A8831863F863881E27E947E967E937C657C637C647ACA74DA6B1066EC652A652B652362005DD656CC9F949F6A9F6C9F349DD79DD39C3B9C3E9C319C499B1A9AD29A4D9A559955986B97C197C3973E973D94529451944491488F618E938E918D178D168B8089FC896F897281DF807D807E7C5F7C6079B3766C766E758A74E47380705870516B616B0A652461FF5F4E5DD25DD45B7F56C956CA56C8513B513C9F679F669F5C9F199EEF9E9D9DB89DC29DB49DAF9C259C2D9B519B549ACF9A3E9A409A439A4599579865986797FF97329739973895E2942B94329438943A94359433942E91BA8FAF8F5F8E8B8E8D8E8A8D138B7D8B77,
   0x30A730A630A530A430A330A230A13093309230913090308F308E308D308C308B308A3089308830873086308530843083308230813080307F307E307D307C307B307A3079307830773076307530743073307230713070306F306E306D306C306B306A3069306830673066306530643063306230613060305F305E305D305C305B305A3059305830573056305530543053305230513050304F304E304D304C304B304A3049304830473046304530443043304230413005309E309D30FE7C729E1E9E1B9B319A6A72289E1A947F8C549EF79C789C77947C947E947D91C58EAA8B9C7E9C9A659A6297C994778B9A77DA70649ECC9B239AD6995E98719470947291C18EA189C0883B7C6E7C6C70636B165EF39F729F779F079E7D9E7C9DFA9DF99C5F9B589B229A5F987097C6974497489742946A91C08D1B82778B96,
   0x247D247C247B247A2479247824772476247524742469246824672466246524642463246224612460044F044E044D044C044B044A0449044804470446044504440443044204410440043F043E043D043C043B043A04390438043704360451043504340433043204310430042F042E042D042C042B042A0429042804270426042504240423041C041B041A041904180417041604010415041430F630F530F430F330F230F130F030EF30EE30ED30EC30EB30EA30E930E830E730E630E530E430E330E230E130E030DF30DE30DD30DC30DB30DA30D930D830D730D630D530D430D330D230D130D030CF30CE30CD30CC30CB30CA30C930C830C730C630C530C430C330C230C130C030BF30BE30BD30BC30BB30BA30B930B830B730B630B530B430B330B230B130B030AF30AE30AD30AC30AB30AA30A930A8,
   0,
   0x6C4B6C546C4A6C4F6C5C6C526C466C186733673C673F673A673B67386739673E65EE65EF6265625A626062596262626662616264625E625C5FCF5FD45FD55F745F1A5F025E845E755DDF5C7E5C7B5C7A5C7C5C255C155B56597F5977597E597B5985597C5980593C5734572A572E56DF56E15407538A534D531F532252A652105209521351B14F124EF44F044F134F224F054F024F1D4F084EF74F004EF14F144EF54F2C4F184F0E961E808A79B8738A72B072AE6C3B6C3F6C436C366C15625062095FC95E825E805E045C735C745C3B5C125B845B81592F591757235722534C531C520C4EDA4EDD4EE14EE94EDC4EE84E3C4E31723F6C146BCC6BB365E15DFF5C10592C5903572053B9536C52FC51984EC84EC94EC24E934E2E4E0E51874E0F5F735C6EFA0C56D74E8D4E474E0C4E075382531A51F54E5C4E42,
   0x6747674565F565F265F365F465F0653762746272627D6277628862816270627A627B627162876294628F628E628C6283623A5FF460005FFB5FF75FEF5FFA5FE35FE45FE15FF35FEE5FE85FED5FD05FD15FD25F765F785F1D5F055E8D5E885E8C5E895E8B5E0E5E0A5DE05C955C935C865C8A5C925C895C8B5C885C8F5C8D5C2A5C285B925B8E59A159A7598F599059A2598E599759A0599859A6594059065752574B5749574C5745574156E556E756EE5447542454285441544F543D54185425541C541954455454542A54375430538F538E53725363530952AE52AD5221521E521C51B9518F4F614F3F4F334F2D4F584F414F5F4F524F674F3E4F644F534F494F624F3B4F5696239620962496229094909B909890979099897E864D827F827D8280827C82787F517A75767F752A738E72B572B4725E70716C4C,
   0x576257745773577B57755780577657705771576B576D5772576F56F956F7546454675463549854605461546F548D54665474546C5465547E547A546B5488548254915481547F548753945392533C530B530A52BC5231524652335232523551BE51BC519E4F6E4F6B4F954F824F924F9E4F944F9C4F904F784F814F794F9A4F6A4F974F4C4F774F844F894F744F764F874F804F7D4F854F7C4F984E33962D962F9628963090A090A7909E90A590A1909F8FBF8FC98C7882848283828A82938291828E8285828F8290809C80928090809980958034793D7681759575947539753A7392739473937397739572C572BA72C172C672C372BD72BF7263707A70746C8E6C7B6C656C736C666C9C6C956C876C6D6C9A6C696C6F6C716C8F6C8B6C846C6B6C676C786C1A6C196BD0674B675A674D675D6748674C67556759,
   0x6CF26CED6CC66CC36CBA6CC26CD06CB76CE76CAD6CD46CB66CD96CEE6CEB6CEC6C936C1D6BDE6B7E6B806B256794677967786781677D678367996791679F677A678C678D6774678467866798677B67766792678E676C6785670A66F66610661165FD6605660D660B660365FB66086612660465FC660965BB65A8653D62B862B062A962BB62AF62B362AE62CA62B662AA62BE62D162B462AD623D6214601C6009600C60116013602E6010600D6022602C601E601A60336017600A6034600B603260196026602D5FE55FDE5F7D5F7E5F825F545F245F235F225F285E195E145E175CA65CB05CB65CA55C9D5CA75CAA5CA25CAD5CA35C9F5CAC5CA85CAF5CB55CA05CA45CAE5C475C445B955B935B655B6259C759B459C859C059BD59B159D659C359BC59B659C159CC59B259CE59CF59BA59B55945590C577D5768,
   0x54CF54A554AD54A154BA5398539953965397537C533D52C252C0524952444FEC4FB94FC04FBA4FD64FC74FDB4FB34FBB4FD94FDC4FD44FC14FCB4FC94FB24FD34FC54FCD9643963A963C963D963990B090B390AF90B490B28FD78FD58FD68FCD8FD38FCB8FD28C56866E866D866F867082A282B682C382A482C282A982A182A882B482BA829E82BC82AE82A782B5829B8298829A82AB82C082A0822080AD80B580B880A380AE808F80357CFD7C757AFB7A7B7A7879C5793F794277F777FA77FB77F977FC77F876F576F076F176F376AF7598758C753E7540753F74E874DD739D73AC73A073A273A673AD73A173A472D172CC72DA72D472D272DC72C972D872CB72D6726A7083709A7082709670917084708670937085709870946CD16CE96CCF6CF96CB06CC76CCD6D306CC06CDE6C806C9D6C8A6CB46CDD6CD2,
   0x67BA67C867F267C16710670F662E66396634661D663A662B663366226626661C663566326621663665BF65AA6543654162F062FB631562FA63146313630062F662F8630C630F62F962EB6303630E62F5630B630D62CF62436242606E6066605860446024605F60426040604C605B6049604760536045605E60726054603960375F865F565F2E5F075EA55EA35E9B5EA25EA45EB05E245E205E235E225E215DF95CF85CDF5CCE5CC65CC85CCF5CD45CD35CD65CCA5CC75CC95CDA5CDE5CDB5CCB5CD75CCC5CD85CD05C4C5BA859ED59F459FE59E059F559F359E959DB59F759F259E459F659FC59FD59FA59DD59F15A0059EE59DE59E15953590D58F45795579A57A55799578F57985794579B579D5797578C57A4579F579E57B554B054DE547254BE54A254BC547054A054C654C554B654D654AE54B7830D54C3,
   0x7A8079CE79D679CF79CD79D579447945794B794C794A781378037809780E780F7810780578127811780677E877E776FA76FB76F7770A770577047703770876C4767975AA75A775487547752E74EE74EC73CB73B873C673C373BE73C773BF73EB73B473B573B673B973C573C873C273CC738572E372E672EA72DF72EB72E872E472CA726E72737270726C724A7249724170A970B570B470A170B070B170BE709F70B76D106D096D226D086D2C6D206D076D406D0F6D036D376D186D016D426D1D6D006D116D1A6D3A6D196D046D336CDA6D0A6D126D3F6D3C6D1F6D2D6D346D286C216C206BE06BD86BD66BB66B846B826B2867CB67EA67C367CA67C967FA67DB67E667AE67CC67ED67C667FC67B267F067E767CE67B967C267E367EE67F667F767B367CD67B567DF67E467EB67C567B767C067D867F867BB67DC,
   0x54F15505551154EB5508550454FF551A54E454F354E75512551754E25526539E530E52CD52625255525F525E5252525A526151CE51C851C551C451CA51935194515A500E5031502F503550275020501C50174FF74FF6502C503750334FF44FF5501B50305022501350075005501E964E964A96539651964F965491D391D490C890CB90C790BE90C590D590BF90BD90F18FE08FEE8FE18FE38D728A078A0489D38869886A8867884E88418673867C8674867782ED82F382FA82E082E482EA82F082F682FB830C82F582F282E182EC82F482D682EB833A82D5830082E8830782F982FE82D98294822181FF80CD80E680D780CF80C980D580CA80DC80D980E380C580D080C280C880D180E080C780D880378014800F800E80077FBE7F8D7F917F587D017D087D037C817C807C7F7C797C787C7A7B017B007AD17A7E]

/-- Rows 48 to 59 of big5Rows. -/
def big5Rows4 : List Nat :=
  [0x6BE46BE66B8880826B6D6B346B316B2D6B2F6B2C68206825683A684D682E6828682668146812681D68346844684E682F682D682B6835681C68316816684F684B683B683368326849681A681F6713671266516647665F664A65C265C465C365C66546654A63486340635763386351635A63336347632D635963546358633463416329633C634A634B633963E46343633663456344632C6356631062F262466219608E609C60876097609B60956083609D608160926080608860A260416067605A605D5F675F305F335EAC5EAA5EAE5EA85E285E295CF95D005CF75CF15CEE5CFF5CEC5C545C565C035BAC5BAD5BA75B6C5A335A1E5A0A5A175A0F5A155A2E5A2D5A165A19594A590E57C157B957D057C757BF57B657B857BC57BD57C657BA57D257D5583257CC57025701550B5503550E54E054F854F754FB550A,
   0x7B107AD87A877A8A7A8C7A8B7A857A897A8679DD79DE79DC79EA79ED79EE79E079EC79EB795179527953795C794F795B79547831782A783378297821782B782E7828782F78357822782C782377277722771A7719771577117723771277137710771B771D76C9768A75BA75B675BF75C075C475BB75C175B0755F755B752174F574F474DF74DE73E873D873D773DA73DD73D473DB73D273DC73E973E373E773BC73D673E573D973D3730172FB72F372F672FE72F472FA7300727672777278724270E170CE70DA70C770C670C570CD70D470E070DE70D270D770E27F3970CB70DD70D170D370DC6D906D756D7D6D7B6D836D166D846D806D7E6D8B6D686D2F6D986D826D5F6D7C6D706D976D606D676D5E6D866D7F6DEF6D8D6D916D6F6D6D6D626D586D926D616D0D6D766D646D636D7A6C256BE76BE26BE36BE8,
   0x915090E490DC90D790DB90D890E590DF90E390DA90D990E090D68FF68FFC90048FFB8FFF90028FF58FFE8ED38ED18DB68DB78DB58D788D768CA38CA48C7B8C578C478A12887C8874887E8883886F887F88718880887288768875886D8844884386948690869D868E8698869586A786A1869986A58685869A868B868686978687869E8691868D869686A886A28652865383488327834B832C831E8353834C834583478329832F8337832083248316834D833C8308832A831B834E83428322831C83268341833F83568325835183198344832D83338225822F8201810080FB810180F580F980F280FA8039803E80167FC07FC27FC37F927F967F5B7F5D7F607F5E7F617F5C7D0C7D0F7D127D1F7D137D167D187D0E7D117D1D7D1E7C857C8D7C887C8C7C8A7C917C847B127B097B0E7B0A7B087B0F7B057B137B04,
   0x5D0F5D255D265D0D5D285D0C5D205D1A5D1D5D0B5D1E5C595BC05BC15B6E5B725A5C5A425A565A515A475A695A705A4C5A395A4D5A3E5A8E5A485A5B5A445A525A5D5A435A575A645A535A6C5A655A5F5A505A6D5A355A385A5E5A675A555A585A60595C5804580D57F057E957F1580C580157E7581057FC580E57E157EC57E557F257E357EE580757CF57F3580B57F8580857FD57ED580057F457DC57F657E2581457FB5707570A554B5540553B552D55485539554E55655532550C5545555255305535553655625551552A55345550554D553C55765575539C532D52D352D6526E526C526D526B51D0505150575073506E5040504650645063506B5069505F504550155062504A505B5041504D50485072505D504B50535060505E5061506A50704E7F9B2F9ADF98E396BC965F965C91DA91E291D5914F914E,
   0x6DC96DCF6DC26DD56DBA6DF06DED6DBD6DCA6DF46DDB6DDD6DDC6DE56DBE6DD66DDF6DE06DC86E006DD46DF66DB76DE26DE96DAC6E746DB36DB46DAB6DC06C2A6B8C6B8E6B8D6B8F6B916B386B376B336B36687D688A688C6891687B687868A4688968A0688B6896689B687E6871688068AA6872686B687C68926877688F68B26874687568A968AC68A3686F695668AB68AE686E686D689C68906887687967186662665C6659665B6661666565CD65536370638D6391638163856378639F633B63A4637C63AE636D639C637563AF636E63906387636F638E63AB6397639D63AD639E63BD637D6382638A6365633260C060CD60C360BF60CA60B760DB60B160C860DD60D960E460CF60D460D360BA60B060BE60866090608A5F9F5F965F9B5F385F365EB35EB25EB95EB45EB15E345E3E5D2E5D1F5D235D125D30,
   0x801F7FC97FCF7FC77FD17FD07FCD7FCB7FCA7F9B7F9D7F9C7F957F637D287D3B7D4A7D3F7D3E7D477D417D297D2C7D457D3A7D367D387D3D7D357CA37C967C987C947B237B1A7B387B327B2F7B2D7B2B7B317B1D7B2A7B187B337B247B227B307B257B347B477B357A907A947A8F79F779F679F879FA79BB7961796B7963796A796979677964785078457826784C784A784D7849785278487735773B7725773D7733773477327731772D772F773976D37689768F75D075D175CC75CB75CF75D275CE75637564740873F4740B740C73FF73FC73FA7400740773FD7401740473F573F873F67388731E730F72FF7308730A7318731173077317731D727F727C727B727E710E7102710B70F670F871007113710670FF70FC711070F3710470F0710C70F4711770F7710D70FA6DBB6DE36DCD6DD76DFD6DD36DF26DD0,
   0x91EA91F991E491F891F391F191F491EC91559153915A9158915690E990EC90EB90D490F390F290F490F090EA90EF9021900C901C9011900B90248EE18EE08ED78EDC8EDD8EDE8ED88DC18DBF8DB98DC28DBC8D798D7B8D7D8CA58C7D8C5D8C5C8C3B8C398A1E8A2C8A278A3089D589D989D68982888E8893888C88AC88A48897889B889988A78898889F88A18891889A88AA88A288A888958889885286BE86BD86C386BC86BB86B486CC86B886B386B986C886B086BA86C586C186C286B786BF86568659839A837683AE838783A6837F83B08397838883AF83A5837E838B83AA839B839D838C8383837D83A983948375839983958381838F837483A48373837A838D83A883A38390827482328234823A8233823882118122811D812781158121811E812C811F812D811B811981258118804880438047801B801E,
   0x611460C460CE60E260CC60B960C95FAB5FA55FA65F585E415E445D455D405D365D325D3C5D385D495D395D425D595D315D3D5D525D3A5D335D555D4E5D515D355D3F5D4B5D415D6B5D435D375C305C0C5BCE5BCA5BD15BD45BCB5BCD5BEA5A9D5A935A8F5A9C5A8C5A7D5A7B5AA95A8B5A835A975A8A5A845A375AAE5A955AAC5AA55A7C5AA65A785A9E5AA25A7A5A9F5A945AAF5961583B582C582D58385839582E5836583F5833581B581C5825584857F5582858235827581E581958375829570C558E55A15595557F55A6558C557D55A4559255A3558155B5558F5588559355A25645557755AD55A555A8559153A753A45311531251D4515F508750825092509C5068509D508E508C508350A3508B509E50945095509B999798E59804976A96BF966F9671966B966D967C95889586957A91EE91E891F791EB,
   0x6E5E6E2E6E036E3B6E516E406E4B6E336E1C6E736E5D6E416E3F6E2B6E626E456E3D6E3C6E886E496E1F6E476E466DFC6C306BF36BF26BF06BBD6B956B996B976B946B3C6B3F6B3B6B3968C76925691568E968D4690668D168F468E668DE68DD68C868CE6917690A690B68E868FC68FD68D068F8691468C668EF691168B46970690868CC690768E168F36910691368F668E468EB68F768D6690F68F168EA68EC692A68DC690468D3690C67016672666A667966716680667B666C667C65D265D065AE659E659D658C65656568655C6564656A6567653263D963D763F063C863CB63CC63C763C263D363D863C463DC63DD63BE63DF646163F563F263D563F663E063CA63F3649D63C363EF63E863E563CE63B063B16394624A610B610460FF6110611D6118610360C160FE60FC60F8611360F561056116610A60F2,
   0x7F657F3F7F3E7D4E7D5F7D517D697D547D527D6B7D5C7D6D7D4F7D6A7D677D567D537D637D6F7D587CA17CA87C9E7CA27B457B587B407B4E7B4C7B487B447B3B7B4A7AE47AE67A997A047A0C7A037A0A7A0279707972797379747862785E786878697870786E786A7871786D785C78657864786077EC77DE774C774B774E774A7745774D77447747774676DA7692769575D775E475DF75DD75E675E175DA75E7756C756F752F74FB743274207429741D742374247431742D7421741A7416742B7430742C742E730C733573237326732D733273277333733173227330730B7312728B7285728672897288725A724B711B713A7128711F71327122712571237131712E70FB712F711E71206E5A6E366E356E666E526E796E556E776E646E786E276E656E536E306E226E396E6B6E716E606E286E316E616E5C6E68,
   0x8EFA8EF78EEF8DC58DD78DC88DD98DD58DCF8DDC8DD68DC78DCD8DD38DD88D898D808D848CB58CB98CB08CBE8CBA8C808C818C5F8A4F8A4C8A4A8A518A488A528A458A448A588A578A408A598A398A4D8A4E89DB89DA89DD89978998899588C9890188B288BD88B788BC88B688BE88C088B888B988D788BA88558856884886D186E886D786E986EC86DC86EB86DD86EA86DA86E386D386E686E286D883FE83DB841B83E283D783FB83C483EE83EC83C3841383EA83D183C783FA83D583F383C28406841183DE840F840983C983F583D683CE83CB83E183FF83D883E583DD840183BF83E383EB83C883C6841083F683FC83E483E7841283E883C0842383F983CF833B8275823F823D823C820481F981F881F781EE81E6813A814D813D8147814F8152814A814380D480FE8050804F80517FD77FA17FA07FA27F66,
   0x5AC65ABB5AC85ABF5AB05AB55AB15AB85ABA5ACB5AC45AC758FC58715863583D585B58655859585D584E5855586F5849584D584F586458685853571455C255D955CD55F255C855D655E255D555CF558D55D255BF55E955C455D455C055DD55CA55CB55D055CC55DB55C3527C527B5278527A51D750B850B650C950CB50B150BA50C150B050C250C850B450CA50C450AE50C650BF50BD4EB64E844E839EF99CE698EB98A99807976E9770976C96F096F196C396C896C29680968396899688967E96879590958C958D957B92169205921792199224921C920292279204920691FD91FF92129200920C920F9226921A92039225920A920191609162915F916491619103910591079100910190FB90F9910890FC90FF9104912C9106902F9034902D8EE98EF48EEC8EF18EEB8EF68EE88EE78EF58EE58EEE8EE68EF9]

/-- Rows 60 to 71 of big5Rows. -/
def big5Rows5 : List Nat :=
  [0x6BFC6BFBFA0D6B9B6B416B486B426B436B456B46693C697B692F695269326951694F695C6937694B693B694C69746941695869766944696F694069696934697868F06965693D6933696C693569496948697A6959695769426939696A6945693F69716962694E6938695F69666720667866946699668A668B66906695668C668665D36592656F640E6421642E641B63E7640B642764256440641A640A642F64356441642864306426640C642364226437643964186415641F644364336424642064096412641063EB63F163C56224622562239168622061406129614F612F6146612E613261366145612B614A614960F75FAD5FAF5F405EC75ECB5EC65ECC5EC55E4B5E4D5E4A5E4E5E4F5DF05D625D675D685D5E5D6C5D725D655D4A5D635D715C335C1F5BD95BD85BD65A905AB95ACD5AB65AB45ACA5AC05AB7,
   0x7A137A227A157A177A127A197A187A117979797D7982797C787B7896788078997879788378A17886788578957884788F7894789A788777E0776D7759775477677769775A775677527760775F775576DD76B5769975FD75F575ED75F675FB761075F875F975FC75FE75F77603760F75EF698375777579751D74FD74FE74FF74E17454744D74467442744E7450744F7440745774517452744B744A74447349734A7340733A733B7342733C728E72907291728C728D724F715A714D714471537150715F7170714B7143715871427161716A717871727162715D7141716071637152715471476EA36EAE6E976ECA6ED06EB36EBF6EA16EA46E8D6E8E6E926E996ED86EDC6EC36EBE6EB26ECF6EA66ECD6EB06EB76EC96E9E6EC16EBD6ED26EC66EB96EB16EA06E946E936E9F6EC06E8F6EC86ED66E9B6BF86BF76BF9,
   0x89E489E589DF899B898588D088CC88DA88DB88DE88CE88CD88CB88D68705870D86F687018709870E86F8874D86F586D686FA870C86F78704870B8450846E84548460842B8444847E8468843384368447843B848E84C5846F8452844C844E84398470845F842D8442842F844B83D984298445843284788443847A8434843A8437845E8507845D847384748459845A847D844D843084678486844084518465848D848F847984768456843F84F182458242824082448249821D81618144816F81678176815E672181728162815B8169815C81778160816480217FDC7FDB7FA77FA57FA67F6C7F687F677F6B7F6D7D927D7D7D847D947D8C7D7C7D837D7B7D8E7D7A7D857D7F7D8D7D807D867D887CAF7CB47CB27B637B767B787B617B707B717B737B657B727B697B747B6D7B647B667AEB7A9E7AA27AA37A107A1B,
   0x50E050E350EF50F050EC50D350E450DD50EA50DB50F350E850D750D450E69EFD9E809CE79CED9CEA9B5B9AAB9AAD99B599B099B299AF98F998F698AC980E980D980F977297789777977396F596F896FD96FA96CE9697969196939692959B959E959C959F92329256924C9253924E92729250926392549231927092619236926F92679260924F926C926D9246924A922E9283925E926592339266923A923092529248916F916E910E910B911491169111910F910D9110903D90499044903F90528F0B8F028F088F078F058F008F018EFF8F068DF48DEB8DF28DE78DE28DE38DE98DD08DEE8DF18DEC8DE08DF08D928D908D948D938D8D8D8F8D8E8D8C8D918D698D688CCC8C858C848C868C668C648C658C4A8C4B8C3C8A7A8A748A818A838A758A848A828A778A3F8A618A7F8A868A7689E689DC89E289E089E1,
   0x69C969B669B1672267046705669F66A066A165A06573647764656459646B646C643F647F645064606453644B645C645E6482644E64A664666475647D6473647264766474645D645B644D642B622B6227622961566161616A613B6165615B617A615461746180616C61726153615261736171615E61416128612C5FB65F6F5F435F445ED45ED25ED95ED55EDC5ECE5ED75ED15ED85E535E595E585D7F5D795D8D5D7C5D7E5D885D895D8A5D775D815D7A5D865D7D5D805D825C635BE35BE05B775ADF5AE85AD95ADD5ADE5AEC5ADB5AE05AE25AF35AEB5AED5ADA5AEA5AD55AE55AEE5ADC596B58FE588F5894587B588858825876588E58915887587A588B5874587F5881588658985890587C588955F955FF5604561D55FA560256135601561C560F55FC5612560C5615562753AC533052EB52E95281528051D8,
   0x7993799479957996798B798A799878A478A278AC78A078A5789E78AB787E78A878AD78B478AA78B27783777E776F7780776E77827785777C778176B87614760A76117615760C760876167590757D750375027500746E746774727475747174737462734C7351734D734372937295729772537244719771817186717B718F7182718571807189719071876F216F086F1E6F0D6F1F6F3A6EFC6F1C6F396EF66EFD6F056F436F0E6F076EEB6F356F3C6F306F406F2D6EEE6EF96F736F366F0A6EED6F126F3B6F186F276F1A6F196F4E6F096F2E6EFB6F376EF86F256F036EF16EF56ECE6BFE6BC46BC36BA06B9F6B9E6B4B6B4D6B4A69C669A569B569C26990699769D9699E69A169AA699369B369CF699A69CA69B969D469A469BD69C469BF69AF69BE69A9698D69A7698E6999699169BC69AC69B0699669CE69A0,
   0x88FB88F688FC88EE88FE88FA88F288F188E788F787118730871A8724873887278726874287358731873A8712873C872D872A873287208746873E8741872C8743871B87198721871E872E8740876B8728872387338661849184B084DB84D284D484D784A084CF84B6849884D684A884AF84A9849B84CC84C7849484A284BB84A7849D84D084B1849A84AA84CD84C184B484B984AB84AE84AC84C284CE84BA849F84A184A484978215818B818C818D8187818381868189805C805D80247FDE7FE57FE37FE27F737DC97DA17DA97DAE7DA67D9F7DBC7D967DB97DAF7DCC7DCB7DC67DC47DCE7D9D7DC57DC07DC17DAA7DA37DC27DB77DA77CBA7CBC7CBF7CBB7B827BA47B9952847B987B857B8E7B9B7B8C7B8D7B967B907B917B8A7B9C7B887AEE7AAC7AAB7AA87A267A287A2F7A307A4A7A2B7990799279887997,
   0x565856465649564A56415635564C5642564852EF52F1528C528B510A50FD510C510B50FE50F65107510650F85130510350FF9EA79CF59CF29CF19B5F9B619B609B3F9B3E9AE79AE39AB199C799BD99C299BA99BB99B999C3999C999D99079900990298AE98AD981697CD97CE977F97819784977B978297809783977E977A977D975896FF96A1969E922D928B929D92A99287927E92A79299928C9286928A92A19288927D92A292959282928E92EE92A3927F9297927992AB929A92A6928D92AA929492A0927A929B927692A492A5917391799172917A911B91219124911A911D911F91229120911C91238F0D8F0E8F118F108E048E008DFE8E058E068E078E038E0A8DFD8E0D8DFF8E028E098D968CD78CCF8CD58C698C688C3D8A968A8F8A928A8B8A998AAB89E889EB89E9899E899F89A1899D88EB88EC88F0,
   0x6F926FC66F876F7E6F266F416C026BFF6C006C016BA66BA26BA36BA56B516A1669F46A076A2669F66A0F6A256A186A046A0969EB69FC6A0D69FB69E66A086A4069E769F76A1469EE69F26A2769FE6A1D6A1B69E269EC69FF6A2069E469F16A1569F869E56A176A066A0066AF66AA66B766B266A966B066B565B365B2657B6579657A6576649864B16468649F64A3648C648A648B648F649C6497648564A064966470646E622D61B36166618D61A161AA6192619F61AD61AF6193619B618961A261B061B161796183618B5FB25F495EE15EDE5EDB7DF35E5C5E605E5D5E695D9E5D9A5DA15D9C5DA05D955D935DA25D925D9F5D975D995C675B0F5B055B075B015AF95B025AF85B035AF65AF75AFD5AF45AFF58FF58A158A558AC58AF58A358A058B1589D58AB571A563A562A5638563E562C563D56335640565A,
   0x819F81A3806780647FE87FE67FEC7FEA7FEB7FED7FAD7FB07FAC7F767DDF7DEE7DF07DF17DF67DE67DFA7E037DE17DD77DE77DEA7DDB7DF77CCB7CCC7CC87CC57BB57BCA7BB97BAF7BCE7BAC7BBE7BCB7BB77AB37AB47AB27A396B76799B79A2799C79A079A1799A78C978C478C378C878D478CE78D178CC78CF78BB78CD77887789778F778D769B769E769D769C761B7628761A7623761C761D7619761E7625757E750775087479747C74887485747D74817486748A7489748773627359735A7361735B735D7360735F735E73527358729A729871B371A7719C71AA71A171A4719E71A5719D71B571A9719A71A071B0719B71AF71B26F7B6F6A6F776F636F956F7F6F696F8B6F536F906F676F7D6F6B6F616F006F5D6F936F946F576F506F526F726F556F826F6C6F766F966F5A6F856F4F6F626F8C6F896F8D,
   0x8E278E268E198E118E168E1B8E158E2E8E248E258E238E208D9B8DA18D9C8DA08CE78CDD8CDA8CE88CD98CDF8CE58C8F8C4D8C3E8AD98ABD8ABA8AC38AD88AC58AC08ABE8AD78ABB8AD58AD48AD18AD38AB88AC68ACF89EC89F089ED89A389A489A28909890E891189168906891989188917890B8914890C8905885A8769876787628775877B874F8765875C876E877A876C876F875D875F874E8750876A876D875E8751875A87618752875B87548758877387E187778764876387568662852F8519850B85308520851884F984EF84F084E884E78526853184F6851E84FD8502852E851D852884FE851684E984EA851284FC84F384EB84F7851584F2852A84F4850C850884FA852B84FB851C8527850A851F850D8509850E85298500850F853B85248251824E825082528253824F82168197819981A28195819E,
   0x566E5660567053E1533451DE5111511A51175113511C9F109F0F9ED39E839D049D059D089CFB9CF99D009D079CF79CFF9CFD9CFA9CFC9B6C9B649B689B709B759B769B669B719B749B679B439B469AF19AF29AF39AEB9AEC9AB399CC99D799CB99D899D699C999CE99D499D399CF99CD99DC9915991799169914991198FA990898B29827981B9820982898299826981D981E97CF97D09788978E978A975A97029708970596D396A296A495B095AE95AB95AC957C92B492C692E192B592D392D192E792DE92E092C992D592CD92E692CE92C892CA92E892C292EF92CC92DD92D792E992D892DF92F192CF92B692D992C092C492C392D09180918491829181918A91869185912E91269132912A9129912B912F906B9067906F907090738F178F168F238F208F1A8F188F248F2C8E1A8E178E1C8E138E188E128E14]

/-- Rows 72 to 83 of big5Rows. -/
def big5Rows6 : List Nat :=
  [0x6FB86FBF6FCF6FAA6FAC6FBA6FAE6FA570046FA86FCA6F9E6FBD6FC46F5E6FC86FCE6FBC6FC76FA36FCB6FAD6C066C036C046BC76BC86BAB6BAA6BA76B566B546B556A466A4E6A4D6A556A566A5E6A3C6A606A696A6F6A546A4F6A506A646A6A6A416A3F6A3B6A5A6A286A516A5B6A766A6D6A5D6A3E6A686A326A676A496A666A34672366CC66BA66BB66BD66CF66CB66CA66C066BE66C865A2657C657F653364D964F364DB64C3648964BD64C964CF64D064D664D7618C61B861BF61BA61CC61C161C661B461C5619661A8619D5FBC5F4B5EE55EE85EE65EE75EE95E6F5E665E685E675DB45DAF5DAD5DB25DA85DAA5DAE5DB05DB55DA75DA95DB15DAC5BEF5B1E5B205B1A5B285B165B105B135B145B215B1B5B195B1758C658BC58C258BA58BF58C958BD58C8571B571C5677565E5672566D566356665673,
   0x855885618553854D856B8545855682578256825581F281A781B781B281B481AC81B081AB81B581B981AE81A681B1806C8029802A7FEF7FB17F7A7F7C7F7B7F437E247E257E147E0D7E167E0F7E0B7E227E1A7E157E1C7E0E7E137E207E1F7E0C7E177E217E127CD17CD07CD77CD47CD27BDF7BD87BEB7BDC7BE27BEA7BD47BF97BE87BDA7BE57BD57BDD7BE77BE37BDE7AB77AB17AB57AB87AB67A477A487A4479A478E078DF78ED78E278E178DB78E378DE78EA78E578E978DD77977799779577A377A2779B779C77A1779D779A76E676BB763076327635763C7633763D7631762D762F7580750B74A174957492749474A0749A747F736A736B7365736C736773667369729E729D71DB71DA71C671BC71D871BD71CF71C771CA71D471CB71C171C071D671B871BF71C271C56FB06FB26FAF6FCD6FAB6FC96FA2,
   0x930C9314932A93359339932992FF93249302933492F792F99313932592FA931D92CB930D930E932D9346930193129323931B933C9338937A930F9306931F9308931E9327918F918D91919190919391369135913390FA9086907B907990768F348F378F398F328F358F2E8F368EBD8E3F8E308E418E3D8E3C8E368E458E408E388E3E8E338DA78DA58D6E8D6C8CF38CF08CF18CEE8CF58C908C928C918AFB8AEF8AFF8AE88AE18ADE8AC88AF08ADF8AE48B148ADD8AF58AF48AF28AE28AE089F1891F892C892F89238929892289318927892E892D89308926891E8789879A879C87948784879D87918790878587A3878787798798879687818788879287938797878F879B866486658663856C85658554855D8566858C8560856785558575856E854E8571855B853E856385478551854485628541856485468540,
   0x6A8E6A936A876A9E6AA16A9B6A9F6A896AA56A816A966A8D66D265DA65B66580658164E864E464EB64E364E964EF61DE61E861E461E561E061E761BC61B561C35FBB5FBE5E6A5E6C5DB75BF25BF15B7B5B2E5B2F5B265B275B2C5B235B325B255B2D58D258CF58D458D65681567F5682567E568356845686568D568C569352F45129512051245122512551269F3D9F129EFA9ED69ED59EAD9EAE9E879E869E889D1F9D199D109D229D189D1D9D299D149D1E9D209D179D259B889B7D9B959B7A9B909B929B939B829B7B9B7E9B7C9B879B859B809B339AF79AF99AFA9AF69ABB9AB49ABF9AB999E799E999EA99E399F099E499E599EC99EE999E99299927991F99249832982F983597F897F097949797979997109712970B96D496A995BD95B595BF95B695BA95B995BE95CD95BC931692FB9300930992FE930B,
   0x859E859A85A4857B85A3858B85A0859585A7858F85808583825C825A825B81E981BC81C781C581CA81CC81C481BB802C7FF27FF47F7D7F7E7F7F7F457E3A7E447E367E3B7E307E4C7E297E477E407E497E2A7E3898487E337E427E3C7E2D7CE87C0A7C107BF17BF07C067BFD7BF87C017C037C097C027BF37C0B7BF47C0E7BFB7BFF7C007BF27C0F7C057AC17AC07ABE7A5A7A547A587A567A5B7A5C79A879AB790478FE78F9790578F278FC78FB790278FD78F377F077A877B177B477B677B777B277AB77B576E976A476477649764876437584750F75127511751074AF74A574B174AD74AA749074AB74B27497736F736E737371E271F071E471F271E871F171E16FE86FE26FDD6FF26FDE6FE66FE76FED6FDC6FE36FD46FF46FA96FCC6C096BAD6B5B6A926A8C6A856A9A6AA66A7F6A916AA46AA86A836A95,
   0x979C97A1979A9719971D9718971F972096AC96B096AE95B795C595C395C995C095C79359934E938093679363935E9361937B93779371934F9352935593579379936A934C938F936D93609351935093499376935C9358937C93479356936493AF938393A191A0919D91A1919F9199919B91A2919A9138907E90858F408F438E478E4C8E508E538E4D8E4E8D6F8CF98C948C958C6F8C718C728C708C4F8B1A8B138B1C8B068B088B0D8B078B158B128B0F8B228B0B8B058B118B168B188B1E89F389F289AE89AF89AD8942893789528941893E893C8933893587B287DE87BD87B887BF87B687B487CA87C487AF87B787CC87C287C387C987AE87BC87B587B987AC87B087C587AD87AA87BE8668859F859085988576857985858588858285A28581859D8599858D85868596858E85578578857A85A18589857C8577,
   0x737671FD720371F971FF7201700A6FF76FFC70266FFB70006FFF700E701470057001700D700C70076C0B6BC96B5E6AAD6AB46AC76AB76AB66ABA6AC66AE16ABD6AB96AC566D866DB66DA65DB659464FC6503650164F864FD650464FF61E961D661EB61F061EA61F161EE61ED61DF61D85E6E5E6D5DC05C6A5C695B3C59705699569D569A5697569C5698512E512D51319FA09F549F229F239F249EFF9EFB9EDA9EC89EB09E8D9E899E8A9D2D7FF59D3D9D409D379D3E9D439D429D459D309D389D319D2F9D2E9D369D679D419D339BAF9BA09BA29B869BA49BA59BA19BA69B9B9B9E9BA89B9A9B489AFC9B019AFD9AFE9ABE9A0399FC99FE99FD99FB99F699F899F999F799F499FA9A0299A199A3999899309931992D992F99329933992A992C992B9925984398459849984A9844984197F197D497D5979D979E,
   0x8E678E658E5E8E568E578E608E628E5C8D008D028D048CFE8C978C988C998C758C428B3A8B3D8B3B8B248B2E8B368B268B378B258B318B3E8B3C8B2F8B478B358B308B338B238B278B2A8949895189508946894C894F894B895387DD87E887F4880187D987D787A487E387D887ED87D387DC87D487E487F387DF87E587EA87EB87DB87E287E687E7866985BE85B785B8862485D285B685B185C585C885CE85CB85BF85C485C785BD85B585B385C285C385C085C685B4825E825F81D081D281D180757FF87FF77FB37FB57E537E577E607E517E5F7E627E587E637E567E507E5C7C307C257C227C287C267C1D7C2D7C1F7C207C197C297C1C7A5F79AC79AD791179127910790979147913790C78FF77BA77C276EC76BD76A6765A76577653765076597664765C7513751474C274BB74B674BE74C174B574C074B8,
   0x5E705DC35B3F5B3E5B3D591258DB58DD58DA56AC56AA56A756A656AD56AB53B452F75296513551349F559F4C9F289F299F2A9F2B9F259F169F009F019EDF9E8C9E8E9D5A9D589D5F9D549D529D579D4C9D569D599D4B9D5B9D4A9D4F9D539D5C9BBD9BB99BC49BB69BD39BB89BB59BC19BBF9BC39BC69BC79B4B9B4C9B4A9B359B299B059B049B089ADC9AC09A069A079A059A0A9A119A049A0D9A099A0B9A0F993A993C994198B898529851985097FA97D897D697D997D797A597A297AA97A497AB97A897AE97AC97259722972396DD96D896DF5DC296DA96D796B395D195D395D293A593A393B493A893A493B2939193B1938D939F93999388939593A6939E93AA938E93A79389939D939B93B79392938C93B591AA91AF91A791A591A8913E913B913A91288F4B8F488F478F468E548E698E5D8E618E5A8E5B,
   0x8B558B4B8B548B568B538B408B4A8B488B5089F689B689B789888959895D8958895C89618957895B895A89628802880A87FF880887FC8806880B880C880987F787F6880387FA880085E285DE85EF85E685F085D185DC85E385DF85D885F885F285EC85D785DA85E885E185D985ED85F185EB82638261826481D581D780787FFE7FFD7FB77F867F837F4A7F4B7E687E747E727E7A7E6F7E777E707E787E757E767CEA7CEC7C3B7C2C7C397C3C7C337A687A6779B0791E7917791C7921791B791D77F177C477CA77C97660751674C374B774C574CB72A172A372A472A672A5720572027207720A720C702A701C702470177029702370227021702B70167020702770196C0C6BB06B606ADE6ACD6ACF6AEB6AD06ADC6ADF6ACB6AD96AD16ACC6AE06AE766DE65DD65DE6584650E650C6509650D6510650761FB5FBF,
   0x56B253379F589F579F569F4D9F419F409F2D9EFC9EC09E919E949D689D879D7F9D799D6F9D829D7B9D739D859D699D709D759D749D6B9D7D9D8C9D8B9D869D789D809D719D889D849D8A9D819D779BDA9BE19BD59BE59BD99BDC9BEC9BD79BD49BF09BE29BE69BE49BDE9BE09BEB9BEA9B379B0C9B0E9B0A9B0B9AC29A149A1C9A1E9A239A279A209A229A1B9A249A1D9A259A159A1A99A799A699439947994898BE98BB98BD98BF9857985D9859985C97DF97DE97DD97B697B797B397269728972C972B972996E195DB95DA957D93E793D293C093CE93C493D593E393EE93D493CA93E693A993D993CC93EC93F993D093DA93C293CF93C793DE91AD91B0913F91408FB48F538F508F4F8F518F528EC28E7B8E6F8E6A8E738E788E6D8DAB8DAD8DAA8DAC8D098D078D068C9A8C768C778C438B578B528B428B51,
   0x93FF940A93F8940993FA94129416940E940793F7940093F5940D941994289410941593FE9414940F942093FB9413940B91B391B291B591B791419143908D8F5A8F588F558F578F568F598E848E888E868DAE8B6D8B678B658B638B688B5D8B6A8B6089F789B98966896388168813881788118810881985FD860C86058609860485F68600861B85FE860185FF862282698268820B81D981DB80797FFF7FBA7E807E817E7E7E7B7CEE7C457C477C4A7C487C497AF77A6D7A6C7A6E79B279297924792879277923792577F277CD77CF77CE77CC76ED76BE76AA76AB74BA737C737D72A87214721370417033703B70407039703A703F70387042703170347037702F7035703C6AEF6AEE6AF16AF96AE86AEA6AF06AF366E466E366E865DF651365156516651761F95FC15FC05EEF5EEE5DC75DC65B4558E356B356B5]

/-- Rows 84 to 88 of big5Rows. -/
def big5Rows7 : List Nat :=
  [0x8625861E862986208621862E86278619861C8623861F8626862A861881DD80307FBB7F4D7E8D7E867E8B7E887E877E8A7CF27C537C54792F7931792D77D0766A7517737E7219721A721D7046704570497048704A704470436B006AF86B036AFC6B02651B61FD5EF15DCF5DCB5B475B4856BE56BD56C3529752985139513A9F919F599F5D9F5E9F609F5B9F2E9F309EE69EE79EE49EE59E9A9E9B9E999DA79DA69D969DA99DBF9DA39D9E9DA89DA29D9A9DA19D979DAA9D9C9D949DA09D9B9D909D989D929D9D9DA49D999D9F9C099C149C179C069C0E9C079C409BF89C129C059BF79C089C0B9B119B129B109AC69ACA9AC79A2D9A389A2E9A299A369A2A9A2C9A319A349A329953994B994C9959994E995098C298C1985F98639862986097FE97FD97BB97B9972F972E95DF95E095DE9406941193F6940C93FC,
   0x7C5A7C5B7C597C5C7C577A717A7079B4793576AD766D74D774D974D574D8737F72A9721F721E70527057705670556C0D6B096B086B0B65226526652065215EF25DD15DD55B4C5B4B597156CB56C556C64EB99F929F649F659F4E9F319F1A9F189F1B9EED9EEE9EEB9E9C9E7A9DB29DCD9DB39DCC9DAD9DB19DC89DAC9DBA9DB99DCE9DB59DBB9DC39DC59DBE9DCF9DCA9DC79DC19DBC9DB69DB79C219C249C299C289C239C2C9C1C9C1D9C2B9B529B3A9B169B189B179B159ACD9A3F9A3A9A419A429A449A469A3D9A399956995898C098C698C9986497E197BF973A973595E395E495E594319440942C9437942A94399430943C943D94299436943B943F91B99145914491468F5D8F5B8F5E8E8C8E8E8DAF8D148D108B7B8B7A8B458B788B7989FA896B896E8969896D884A882B881C88248820881B881D8829,
   0x89FE8973897489768833882E88328830863E863B8631863C86398640863A826C7E957C667C6777D476707383738173827222705A705B6BCA6B0F6B126B1166EB6596652565296204620362015F4F882F5DD85B4D597258E758E85299513D9FA29F959F6B9F429F329F339F359EF09EB69DDD9DD59DF59DD69DD89DD99DE99DDF9DD19DDC9DD09DCB9DDA9DDE9DD29DDB9C369C3D9C329C349C379C3C9C419C339C399C449C3F9C489C469B559B569B3B9B2B9B199AD09A509A529A499A4A9A489A4F9A4C9A549A539A4E995B995498CB9869986A97E3973F94469449944894459447944F944B944A9450944C91478F628F608E978E968E908E928E9A8E948E958D158B7F8B858B868B828B848B7E89FB89BE89BF89718825882A88268828882C86368632862C863386358634826B81DE7F877F4F7E917CF17CF4,
   0x7E9A7CF67C6B7C69793977D977D872AA722670626B1A6B176B196B1865B8652E56D49F769F759F749F469F1E9EA09E049DFD9DFF9E099E019E009E059E069E039E079DFE9E029C609C5E9C629C669C679C639B599AD59A5E97E597C797479743974696E594699468946B91C291BD91BE8E9D8EA08E9F8E9E8B958B94884B8835883788388643826D7F897E977C6A79B679B7793877D574E574DB72237060705D7061705F6B1366EE66ED652D5C6D5B4E56CD56D39F6F9F6E9F709F719F4F9F439F369F379F389F1C9F069EF39EF29ED09EC29DED9DE89DF39DF49DEC9DE29DF09DF29DE69DEE9DE19DF69DE49DF89DEB9DE39DEF9DF79DFB9C4E9C4C9C599C559C4B9C4D9C4A9C509C589C529B209B1F9B1E9A599A56980097C597C4945E9457945D9455946291BC8F638F648E988D198C458B888B8B8B8E8B8C,
   0x9F989F499F7E9EA4706A70699E1D9C7A9A6B76759EB79C7994838B9F864B72299E199B2E9A689A699481948094828EA8864C72276B1E62079F489E179E159B249A679A669A6499AB996198CC98749873974B8EC98EA98C9C8B9E883F883D883E866A7CF7706570689FA49F0A9EF69E139E149C759C719C739C749A60947594769478947491C38EA68DB2883C7C6F7066571E9F799F7A9F7B9F789F479F099EF59EA19E119E129E0F9E109E0D9E0B9C6D9C6E9C68995F9872974994739471946F946D946E8EA38EA48EA58B998B9889FF897B897C897A897986488647864681E181E07E997E9B7E98]

/-- Big5: 89 rows of 157 cells, trail bytes 0x40 to 0x7E and 0xA1 to 0xFE. -/
def big5Rows : List Nat := big5Rows0 ++ big5Rows1 ++ big5Rows2 ++ big5Rows3 ++ big5Rows4 ++ big5Rows5 ++ big5Rows6 ++ big5Rows7

/-- Part 0 of gbRanges. -/
def gbRanges0 : List (Nat × Nat × Nat) :=
  [(0, 0x80, 36), (36, 0xA5, 2), (38, 0xA9, 7), (45, 0xB2, 5), (50, 0xB8, 31), (81, 0xD8, 8), (89, 0xE2, 6),
   (95, 0xEB, 1), (96, 0xEE, 4), (100, 0xF4, 3), (103, 0xF8, 1), (104, 0xFB, 1), (105, 0xFD, 4), (109, 0x102, 17),
   (126, 0x114, 7), (133, 0x11C, 15), (148, 0x12C, 24), (172, 0x145, 3), (175, 0x149, 4), (179, 0x14E, 29),
   (208, 0x16C, 98), (306, 0x1CF, 1), (307, 0x1D1, 1), (308, 0x1D3, 1), (309, 0x1D5, 1), (310, 0x1D7, 1),
   (311, 0x1D9, 1), (312, 0x1DB, 1), (313, 0x1DD, 28), (341, 0x1FA, 87), (428, 0x252, 15), (443, 0x262, 101),
   (544, 0x2C8, 1), (545, 0x2CC, 13), (558, 0x2DA, 183), (741, 0x3A2, 1), (742, 0x3AA, 7), (749, 0x3C2, 1),
   (750, 0x3CA, 55), (805, 0x402, 14), (819, 0x450, 1), (820, 0x452, 7102), (7922, 0x2011, 2), (7924, 0x2017, 1),
   (7925, 0x201A, 2), (7927, 0x201E, 7), (7934, 0x2027, 9), (7943, 0x2031, 1), (7944, 0x2034, 1), (7945, 0x2036, 5),
   (7950, 0x203C, 112), (8062, 0x20AD, 86), (8148, 0x2104, 1), (8149, 0x2106, 3), (8152, 0x210A, 12),
   (8164, 0x2117, 10), (8174, 0x2122, 62), (8236, 0x216C, 4), (8240, 0x217A, 22), (8262, 0x2194, 2)]

/-- Part 1 of gbRanges. -/
def gbRanges1 : List (Nat × Nat × Nat) :=
  [(8264, 0x219A, 110), (8374, 0x2209, 6), (8380, 0x2210, 1), (8381, 0x2212, 3), (8384, 0x2216, 4),
   (8388, 0x221B, 2), (8390, 0x2221, 2), (8392, 0x2224, 1), (8393, 0x2226, 1), (8394, 0x222C, 2), (8396, 0x222F, 5),
   (8401, 0x2238, 5), (8406, 0x223E, 10), (8416, 0x2249, 3), (8419, 0x224D, 5), (8424, 0x2253, 13),
   (8437, 0x2262, 2), (8439, 0x2268, 6), (8445, 0x2270, 37), (8482, 0x2296, 3), (8485, 0x229A, 11),
   (8496, 0x22A6, 25), (8521, 0x22C0, 82), (8603, 0x2313, 333), (8936, 0x246A, 10), (8946, 0x249C, 100),
   (9046, 0x254C, 4), (9050, 0x2574, 13), (9063, 0x2590, 3), (9066, 0x2596, 10), (9076, 0x25A2, 16),
   (9092, 0x25B4, 8), (9100, 0x25BE, 8), (9108, 0x25C8, 3), (9111, 0x25CC, 2), (9113, 0x25D0, 18),
   (9131, 0x25E6, 31), (9162, 0x2607, 2), (9164, 0x260A, 54), (9218, 0x2641, 1), (9219, 0x2643, 2110),
   (11329, 0x2E82, 2), (11331, 0x2E85, 3), (11334, 0x2E89, 2), (11336, 0x2E8D, 10), (11346, 0x2E98, 15),
   (11361, 0x2EA8, 2), (11363, 0x2EAB, 3), (11366, 0x2EAF, 4), (11370, 0x2EB4, 2), (11372, 0x2EB8, 3),
   (11375, 0x2EBC, 14), (11389, 0x2ECB, 293), (11682, 0x2FFC, 4), (11686, 0x3004, 1), (11687, 0x3018, 5),
   (11692, 0x301F, 2), (11694, 0x302A, 20), (11714, 0x303F, 2), (11716, 0x3094, 7)]

/-- Part 2 of gbRanges. -/
def gbRanges2 : List (Nat × Nat × Nat) :=
  [(11723, 0x309F, 2), (11725, 0x30F7, 5), (11730, 0x30FF, 6), (11736, 0x312A, 246), (11982, 0x322A, 7),
   (11989, 0x3232, 113), (12102, 0x32A4, 234), (12336, 0x3390, 12), (12348, 0x339F, 2), (12350, 0x33A2, 34),
   (12384, 0x33C5, 9), (12393, 0x33CF, 2), (12395, 0x33D3, 2), (12397, 0x33D6, 113), (12510, 0x3448, 43),
   (12553, 0x3474, 298), (12851, 0x359F, 111), (12962, 0x360F, 11), (12973, 0x361B, 765), (13738, 0x3919, 85),
   (13823, 0x396F, 96), (13919, 0x39D1, 14), (13933, 0x39E0, 147), (14080, 0x3A74, 218), (14298, 0x3B4F, 287),
   (14585, 0x3C6F, 113), (14698, 0x3CE1, 885), (15583, 0x4057, 264), (15847, 0x4160, 471), (16318, 0x4338, 116),
   (16434, 0x43AD, 4), (16438, 0x43B2, 43), (16481, 0x43DE, 248), (16729, 0x44D7, 373), (17102, 0x464D, 20),
   (17122, 0x4662, 193), (17315, 0x4724, 5), (17320, 0x472A, 82), (17402, 0x477D, 16), (17418, 0x478E, 441),
   (17859, 0x4948, 50), (17909, 0x497B, 2), (17911, 0x497E, 4), (17915, 0x4984, 1), (17916, 0x4987, 20),
   (17936, 0x499C, 3), (17939, 0x49A0, 22), (17961, 0x49B8, 703), (18664, 0x4C78, 39), (18703, 0x4CA4, 111),
   (18814, 0x4D1A, 148), (18962, 0x4DAF, 81), (19043, 0x9FA6, 14426), (33469, 0xE76C, 1), (33470, 0xE7C8, 1),
   (33471, 0xE7E7, 13), (33484, 0xE815, 1), (33485, 0xE819, 5), (33490, 0xE81F, 7), (33497, 0xE827, 4)]

/-- Part 3 of gbRanges. -/
def gbRanges3 : List (Nat × Nat × Nat) :=
  [(33501, 0xE82D, 4), (33505, 0xE833, 8), (33513, 0xE83C, 7), (33520, 0xE844, 16), (33536, 0xE856, 14),
   (33550, 0xE865, 4295), (37845, 0xF92D, 76), (37921, 0xF97A, 27), (37948, 0xF996, 81), (38029, 0xF9E8, 9),
   (38038, 0xF9F2, 26), (38064, 0xFA10, 1), (38065, 0xFA12, 1), (38066, 0xFA15, 3), (38069, 0xFA19, 6),
   (38075, 0xFA22, 1), (38076, 0xFA25, 2), (38078, 0xFA2A, 1030), (39108, 0xFE32, 1), (39109, 0xFE45, 4),
   (39113, 0xFE53, 1), (39114, 0xFE58, 1), (39115, 0xFE67, 1), (39116, 0xFE6C, 149), (39265, 0xFF5F, 129),
   (39394, 0xFFE6, 26)]

/-- Ranges of the four-byte codes of GB 18030 below U+10000: number of the first code, its code point, how many. -/
def gbRanges : List (Nat × Nat × Nat) := gbRanges0 ++ gbRanges1 ++ gbRanges2 ++ gbRanges3

/-- Part 0 of foldRanges. -/
def foldRanges0 : List (Nat × Nat × Nat × Nat) :=
  [(0xB5, 0xB5, 1, 0x3BC), (0xC0, 0xD6, 1, 0xE0), (0xD8, 0xDE, 1, 0xF8), (0x100, 0x12E, 2, 0x101),
   (0x132, 0x136, 2, 0x133), (0x139, 0x147, 2, 0x13A), (0x14A, 0x176, 2, 0x14B), (0x178, 0x178, 1, 0xFF),
   (0x179, 0x17D, 2, 0x17A), (0x17F, 0x17F, 1, 0x73), (0x181, 0x181, 1, 0x253), (0x182, 0x184, 2, 0x183),
   (0x186, 0x186, 1, 0x254), (0x187, 0x187, 1, 0x188), (0x189, 0x18A, 1, 0x256), (0x18B, 0x18B, 1, 0x18C),
   (0x18E, 0x18E, 1, 0x1DD), (0x18F, 0x18F, 1, 0x259), (0x190, 0x190, 1, 0x25B), (0x191, 0x191, 1, 0x192),
   (0x193, 0x193, 1, 0x260), (0x194, 0x194, 1, 0x263), (0x196, 0x196, 1, 0x269), (0x197, 0x197, 1, 0x268),
   (0x198, 0x198, 1, 0x199), (0x19C, 0x19C, 1, 0x26F), (0x19D, 0x19D, 1, 0x272), (0x19F, 0x19F, 1, 0x275),
   (0x1A0, 0x1A4, 2, 0x1A1), (0x1A6, 0x1A6, 1, 0x280), (0x1A7, 0x1A7, 1, 0x1A8), (0x1A9, 0x1A9, 1, 0x283),
   (0x1AC, 0x1AC, 1, 0x1AD), (0x1AE, 0x1AE, 1, 0x288), (0x1AF, 0x1AF, 1, 0x1B0), (0x1B1, 0x1B2, 1, 0x28A),
   (0x1B3, 0x1B5, 2, 0x1B4), (0x1B7, 0x1B7, 1, 0x292), (0x1B8, 0x1B8, 1, 0x1B9), (0x1BC, 0x1BC, 1, 0x1BD),
   (0x1C4, 0x1C4, 1, 0x1C6), (0x1C5, 0x1C5, 1, 0x1C6), (0x1C7, 0x1C7, 1, 0x1C9), (0x1C8, 0x1C8, 1, 0x1C9),
   (0x1CA, 0x1CA, 1, 0x1CC), (0x1CB, 0x1DB, 2, 0x1CC), (0x1DE, 0x1EE, 2, 0x1DF), (0x1F1, 0x1F1, 1, 0x1F3),
   (0x1F2, 0x1F4, 2, 0x1F3), (0x1F6, 0x1F6, 1, 0x195)]

/-- Part 1 of foldRanges. -/
def foldRanges1 : List (Nat × Nat × Nat × Nat) :=
  [(0x1F7, 0x1F7, 1, 0x1BF), (0x1F8, 0x21E, 2, 0x1F9), (0x220, 0x220, 1, 0x19E), (0x222, 0x232, 2, 0x223),
   (0x23A, 0x23A, 1, 0x2C65), (0x23B, 0x23B, 1, 0x23C), (0x23D, 0x23D, 1, 0x19A), (0x23E, 0x23E, 1, 0x2C66),
   (0x241, 0x241, 1, 0x242), (0x243, 0x243, 1, 0x180), (0x244, 0x244, 1, 0x289), (0x245, 0x245, 1, 0x28C),
   (0x246, 0x24E, 2, 0x247), (0x345, 0x345, 1, 0x3B9), (0x370, 0x372, 2, 0x371), (0x376, 0x376, 1, 0x377),
   (0x37F, 0x37F, 1, 0x3F3), (0x386, 0x386, 1, 0x3AC), (0x388, 0x38A, 1, 0x3AD), (0x38C, 0x38C, 1, 0x3CC),
   (0x38E, 0x38F, 1, 0x3CD), (0x391, 0x3A1, 1, 0x3B1), (0x3A3, 0x3AB, 1, 0x3C3), (0x3C2, 0x3C2, 1, 0x3C3),
   (0x3CF, 0x3CF, 1, 0x3D7), (0x3D0, 0x3D0, 1, 0x3B2), (0x3D1, 0x3D1, 1, 0x3B8), (0x3D5, 0x3D5, 1, 0x3C6),
   (0x3D6, 0x3D6, 1, 0x3C0), (0x3D8, 0x3EE, 2, 0x3D9), (0x3F0, 0x3F0, 1, 0x3BA), (0x3F1, 0x3F1, 1, 0x3C1),
   (0x3F4, 0x3F4, 1, 0x3B8), (0x3F5, 0x3F5, 1, 0x3B5), (0x3F7, 0x3F7, 1, 0x3F8), (0x3F9, 0x3F9, 1, 0x3F2),
   (0x3FA, 0x3FA, 1, 0x3FB), (0x3FD, 0x3FF, 1, 0x37B), (0x400, 0x40F, 1, 0x450), (0x410, 0x42F, 1, 0x430),
   (0x460, 0x480, 2, 0x461), (0x48A, 0x4BE, 2, 0x48B), (0x4C0, 0x4C0, 1, 0x4CF), (0x4C1, 0x4CD, 2, 0x4C2),
   (0x4D0, 0x52E, 2, 0x4D1), (0x531, 0x556, 1, 0x561), (0x10A0, 0x10C5, 1, 0x2D00), (0x10C7, 0x10C7, 1, 0x2D27),
   (0x10CD, 0x10CD, 1, 0x2D2D), (0x13F8, 0x13FD, 1, 0x13F0)]

/-- Part 2 of foldRanges. -/
def foldRanges2 : List (Nat × Nat × Nat × Nat) :=
  [(0x1C80, 0x1C80, 1, 0x432), (0x1C81, 0x1C81, 1, 0x434), (0x1C82, 0x1C82, 1, 0x43E), (0x1C83, 0x1C84, 1, 0x441),
   (0x1C85, 0x1C85, 1, 0x442), (0x1C86, 0x1C86, 1, 0x44A), (0x1C87, 0x1C87, 1, 0x463), (0x1C88, 0x1C88, 1, 0xA64B),
   (0x1C90, 0x1CBA, 1, 0x10D0), (0x1CBD, 0x1CBF, 1, 0x10FD), (0x1E00, 0x1E94, 2, 0x1E01),
   (0x1E9B, 0x1E9B, 1, 0x1E61), (0x1E9E, 0x1E9E, 1, 0xDF), (0x1EA0, 0x1EFE, 2, 0x1EA1), (0x1F08, 0x1F0F, 1, 0x1F00),
   (0x1F18, 0x1F1D, 1, 0x1F10), (0x1F28, 0x1F2F, 1, 0x1F20), (0x1F38, 0x1F3F, 1, 0x1F30),
   (0x1F48, 0x1F4D, 1, 0x1F40), (0x1F59, 0x1F5F, 2, 0x1F51), (0x1F68, 0x1F6F, 1, 0x1F60),
   (0x1F88, 0x1F8F, 1, 0x1F80), (0x1F98, 0x1F9F, 1, 0x1F90), (0x1FA8, 0x1FAF, 1, 0x1FA0),
   (0x1FB8, 0x1FB9, 1, 0x1FB0), (0x1FBA, 0x1FBB, 1, 0x1F70), (0x1FBC, 0x1FBC, 1, 0x1FB3), (0x1FBE, 0x1FBE, 1, 0x3B9),
   (0x1FC8, 0x1FCB, 1, 0x1F72), (0x1FCC, 0x1FCC, 1, 0x1FC3), (0x1FD3, 0x1FD3, 1, 0x390), (0x1FD8, 0x1FD9, 1, 0x1FD0),
   (0x1FDA, 0x1FDB, 1, 0x1F76), (0x1FE3, 0x1FE3, 1, 0x3B0), (0x1FE8, 0x1FE9, 1, 0x1FE0), (0x1FEA, 0x1FEB, 1, 0x1F7A),
   (0x1FEC, 0x1FEC, 1, 0x1FE5), (0x1FF8, 0x1FF9, 1, 0x1F78), (0x1FFA, 0x1FFB, 1, 0x1F7C),
   (0x1FFC, 0x1FFC, 1, 0x1FF3), (0x2126, 0x2126, 1, 0x3C9), (0x212A, 0x212A, 1, 0x6B), (0x212B, 0x212B, 1, 0xE5),
   (0x2132, 0x2132, 1, 0x214E), (0x2160, 0x216F, 1, 0x2170), (0x2183, 0x2183, 1, 0x2184),
   (0x24B6, 0x24CF, 1, 0x24D0), (0x2C00, 0x2C2F, 1, 0x2C30), (0x2C60, 0x2C60, 1, 0x2C61), (0x2C62, 0x2C62, 1, 0x26B)]

/-- Part 3 of foldRanges. -/
def foldRanges3 : List (Nat × Nat × Nat × Nat) :=
  [(0x2C63, 0x2C63, 1, 0x1D7D), (0x2C64, 0x2C64, 1, 0x27D), (0x2C67, 0x2C6B, 2, 0x2C68), (0x2C6D, 0x2C6D, 1, 0x251),
   (0x2C6E, 0x2C6E, 1, 0x271), (0x2C6F, 0x2C6F, 1, 0x250), (0x2C70, 0x2C70, 1, 0x252), (0x2C72, 0x2C72, 1, 0x2C73),
   (0x2C75, 0x2C75, 1, 0x2C76), (0x2C7E, 0x2C7F, 1, 0x23F), (0x2C80, 0x2CE2, 2, 0x2C81), (0x2CEB, 0x2CED, 2, 0x2CEC),
   (0x2CF2, 0x2CF2, 1, 0x2CF3), (0xA640, 0xA66C, 2, 0xA641), (0xA680, 0xA69A, 2, 0xA681),
   (0xA722, 0xA72E, 2, 0xA723), (0xA732, 0xA76E, 2, 0xA733), (0xA779, 0xA77B, 2, 0xA77A),
   (0xA77D, 0xA77D, 1, 0x1D79), (0xA77E, 0xA786, 2, 0xA77F), (0xA78B, 0xA78B, 1, 0xA78C), (0xA78D, 0xA78D, 1, 0x265),
   (0xA790, 0xA792, 2, 0xA791), (0xA796, 0xA7A8, 2, 0xA797), (0xA7AA, 0xA7AA, 1, 0x266), (0xA7AB, 0xA7AB, 1, 0x25C),
   (0xA7AC, 0xA7AC, 1, 0x261), (0xA7AD, 0xA7AD, 1, 0x26C), (0xA7AE, 0xA7AE, 1, 0x26A), (0xA7B0, 0xA7B0, 1, 0x29E),
   (0xA7B1, 0xA7B1, 1, 0x287), (0xA7B2, 0xA7B2, 1, 0x29D), (0xA7B3, 0xA7B3, 1, 0xAB53), (0xA7B4, 0xA7C2, 2, 0xA7B5),
   (0xA7C4, 0xA7C4, 1, 0xA794), (0xA7C5, 0xA7C5, 1, 0x282), (0xA7C6, 0xA7C6, 1, 0x1D8E), (0xA7C7, 0xA7C9, 2, 0xA7C8),
   (0xA7D0, 0xA7D0, 1, 0xA7D1), (0xA7D6, 0xA7D8, 2, 0xA7D7), (0xA7F5, 0xA7F5, 1, 0xA7F6),
   (0xAB70, 0xABBF, 1, 0x13A0), (0xFB05, 0xFB05, 1, 0xFB06), (0xFF21, 0xFF3A, 1, 0xFF41),
   (0x10400, 0x10427, 1, 0x10428), (0x104B0, 0x104D3, 1, 0x104D8), (0x10570, 0x1057A, 1, 0x10597),
   (0x1057C, 0x1058A, 1, 0x105A3), (0x1058C, 0x10592, 1, 0x105B3), (0x10594, 0x10595, 1, 0x105BB)]

/-- Part 4 of foldRanges. -/
def foldRanges4 : List (Nat × Nat × Nat × Nat) :=
  [(0x10C80, 0x10CB2, 1, 0x10CC0), (0x118A0, 0x118BF, 1, 0x118C0), (0x16E40, 0x16E5F, 1, 0x16E60),
   (0x1E900, 0x1E921, 1, 0x1E922)]

/-- Simple case folding (statuses C and S of Unicode 15.1) from U+0080 on: first and last code point of a run, its step, and what
the first folds to. -/
def foldRanges : List (Nat × Nat × Nat × Nat) := foldRanges0 ++ foldRanges1 ++ foldRanges2 ++ foldRanges3 ++ foldRanges4

end Sys2Proof.Machine
end

