-- ==== Sys2Proof/Machine/Inflate.lean ====
section
/-!
DEFINITION. Decompression of ingest input (R211): DEFLATE as RFC 1951, zlib as RFC 1950, gzip as RFC 1952. Every decoder is a
function of the bytes seen so far: it says what they decode to and whether they end, need more, or are invalid.
-/

namespace Sys2Proof.Machine

/-- Where a decoder stands after the bytes it has seen: more are needed, they are invalid, they end at a position, or bytes
follow the end. -/
inductive DecSt where
  | need
  | bad
  | done (p : Nat)
  | trail
  deriving DecidableEq, Repr

/-- A read of a value: more bytes are needed, invalid, or a value with the position behind it. -/
inductive DecVal (α : Type) where
  | need
  | bad
  | val (x : α) (p : Nat)
  deriving DecidableEq, Repr

/-- n bits from bit p on, lowest bit first (RFC 1951, 3.1.1). -/
def bitsAt (src : List Byte) (p n : Nat) : DecVal Nat :=
  if 8 * src.length < p + n then .need
  else .val (bytesNum ((src.drop (p / 8)).take (n / 8 + 2)) / 2 ^ (p % 8) % 2 ^ n) (p + n)

/-- A canonical Huffman code: codes of each length 1-15, and its symbols in order of code. -/
structure Huff where
  count : List Nat
  syms : List Nat
  deriving DecidableEq, Repr

/-- The code of a list of code lengths (RFC 1951, 3.2.2). -/
def huffOf (lens : List Nat) : Huff :=
  { count := (List.range 15).map (fun i => (lens.filter (fun l => l == i + 1)).length),
    syms := (List.range 15).flatMap (fun i => (lens.zipIdx.filter (fun e => e.1 == i + 1)).map (fun e => e.2)) }

/-- What is left of the code space: none when it is over-subscribed. -/
def huffLeft : Nat → List Nat → Option Nat
  | left, [] => some left
  | left, c :: cs => if 2 * left < c then none else huffLeft (2 * left - c) cs

/-- A code is complete, or has one code of one bit where that is allowed. -/
def huffOk (one : Bool) (lens : List Nat) : Bool :=
  match huffLeft 1 (huffOf lens).count with
  | none => false
  | some left => left == 0 || (one && lens.all (fun l => decide (l ≤ 1)))

/-- Decode one symbol from bit p on: the counts of the lengths still to try, the code read, the first code of the length and
the number of codes before it. Bits that begin no code are invalid as they come. -/
def huffStep (src : List Byte) (syms : List Nat) : List Nat → Nat → Nat → Nat → Nat → DecVal Nat
  | [], _, _, _, _ => .bad
  | c :: cs, p, code, first, index =>
    if (c :: cs).all (fun n => n == 0) then .bad
    else match bitsAt src p 1 with
    | .need => .need
    | .bad => .bad
    | .val b p =>
      let code := 2 * code + b
      if code < first + c then .val (syms.getD (index + (code - first)) 0) p
      else huffStep src syms cs p code (2 * (first + c)) (index + c)

/-- Decode one symbol. -/
def huffSym (src : List Byte) (h : Huff) (p : Nat) : DecVal Nat := huffStep src h.syms h.count p 0 0 0

/-- Base lengths and extra bits of length symbols 257-285 (RFC 1951, 3.2.5). -/
def lenBase : List Nat :=
  [3, 4, 5, 6, 7, 8, 9, 10, 11, 13, 15, 17, 19, 23, 27, 31, 35, 43, 51, 59, 67, 83, 99, 115, 131, 163, 195, 227, 258]
/-- See lenBase. -/
def lenExtra : List Nat := [0, 0, 0, 0, 0, 0, 0, 0, 1, 1, 1, 1, 2, 2, 2, 2, 3, 3, 3, 3, 4, 4, 4, 4, 5, 5, 5, 5, 0]
/-- Base distances and extra bits of distance symbols 0-29. -/
def distBase : List Nat :=
  [1, 2, 3, 4, 5, 7, 9, 13, 17, 25, 33, 49, 65, 97, 129, 193, 257, 385, 513, 769, 1025, 1537, 2049, 3073, 4097, 6145, 8193,
   12289, 16385, 24577]
/-- See distBase. -/
def distExtra : List Nat := [0, 0, 0, 0, 1, 1, 2, 2, 3, 3, 4, 4, 5, 5, 6, 6, 7, 7, 8, 8, 9, 9, 10, 10, 11, 11, 12, 12, 13, 13]

/-- Output so far, newest byte first, and where decoding stands. -/
abbrev InfRes := List Byte × DecSt

/-- Copy n bytes from distance d back. -/
def copyBack (out : List Byte) (d : Nat) : Nat → List Byte
  | 0 => out
  | n + 1 => copyBack (out.getD (d - 1) 0 :: out) d n

/-- The distance behind a length symbol, then the copy's length and distance. -/
def readDist (src : List Byte) (hd : Huff) (len p : Nat) : DecVal (Nat × Nat) :=
  match huffSym src hd p with
  | .need => .need
  | .bad => .bad
  | .val s p =>
    if 29 < s then .bad
    else match bitsAt src p (distExtra.getD s 0) with
      | .need => .need
      | .bad => .bad
      | .val x p => .val (len, distBase.getD s 0 + x) p

/-- The length and distance of a copy from its length symbol. -/
def readCopy (src : List Byte) (hd : Huff) (s p : Nat) : DecVal (Nat × Nat) :=
  if 285 < s then .bad
  else match bitsAt src p (lenExtra.getD (s - 257) 0) with
    | .need => .need
    | .bad => .bad
    | .val x p => readDist src hd (lenBase.getD (s - 257) 0 + x) p

/-- The symbols of a compressed block. -/
def infCodes (src : List Byte) (hl hd : Huff) : Nat → Nat → List Byte → InfRes
  | 0, _, out => (out, .need)
  | fuel + 1, p, out =>
    match huffSym src hl p with
    | .need => (out, .need)
    | .bad => (out, .bad)
    | .val s p =>
      if s < 256 then infCodes src hl hd fuel p (BitVec.ofNat 8 s :: out)
      else if s = 256 then (out, .done p)
      else match readCopy src hd s p with
        | .need => (out, .need)
        | .bad => (out, .bad)
        | .val (len, dist) p =>
          if out.length < dist then (out, .bad) else infCodes src hl hd fuel p (copyBack out dist len)

/-- A stored block from the next byte boundary on. -/
def infStored (src : List Byte) (p : Nat) (out : List Byte) : InfRes :=
  let q := ceilDiv p 8
  match bitsAt src (8 * q) 16 with
  | .val len p =>
    (match bitsAt src p 16 with
      | .val nlen p =>
        if len + nlen ≠ 65535 then (out, .bad)
        else
          let bytes := (src.drop (p / 8)).take len
          (bytes.reverse ++ out, if bytes.length = len then .done (p + 8 * len) else .need)
      | _ => (out, .need))
  | _ => (out, .need)

/-- The fixed codes (RFC 1951, 3.2.6). -/
def fixedLens : List Nat := List.replicate 144 8 ++ List.replicate 112 9 ++ List.replicate 24 7 ++ List.replicate 8 8

/-- Order of the code length code lengths (RFC 1951, 3.2.7). -/
def clOrder : List Nat := [16, 17, 18, 0, 8, 7, 9, 6, 10, 5, 11, 4, 12, 3, 13, 2, 14, 1, 15]

/-- n values of 3 bits. -/
def read3 (src : List Byte) : Nat → Nat → DecVal (List Nat)
  | 0, p => .val [] p
  | n + 1, p =>
    match bitsAt src p 3 with
    | .need => .need
    | .bad => .bad
    | .val x p =>
      match read3 src n p with
      | .val xs p => .val (x :: xs) p
      | r => r

/-- Extra bits and base of the repeat symbols 16, 17 and 18. -/
def repeatOf (s : Nat) : Nat × Nat := if s = 16 then (2, 3) else if s = 17 then (3, 3) else (7, 11)

/-- The code lengths of a dynamic block: total of them, those read so far newest first. -/
def readLens (src : List Byte) (h : Huff) (total : Nat) : Nat → Nat → List Nat → DecVal (List Nat)
  | 0, _, _ => .need
  | fuel + 1, p, acc =>
    if total = acc.length then .val acc.reverse p
    else match huffSym src h p with
      | .need => .need
      | .bad => .bad
      | .val s p =>
        if s < 16 then readLens src h total fuel p (s :: acc)
        else if s = 16 ∧ acc.isEmpty = true then .bad
        else match bitsAt src p (repeatOf s).1 with
          | .need => .need
          | .bad => .bad
          | .val x p =>
            let n := (repeatOf s).2 + x
            if total < acc.length + n then .bad
            else readLens src h total fuel p (List.replicate n (if s = 16 then acc.headD 0 else 0) ++ acc)

/-- HLIT, HDIST and HCLEN of a dynamic block: up to 286 literal and length codes, judged as they come, and up to 32 distance
codes (RFC 1951, 3.2.7), of which the last two have no meaning and may only stand unused. -/
def readCounts (src : List Byte) (p : Nat) : DecVal (Nat × Nat × Nat) :=
  match bitsAt src p 5 with
  | .val l p =>
    if 29 < l then .bad
    else match bitsAt src p 5 with
      | .val t p =>
        match bitsAt src p 4 with
        | .val c p => .val (l + 257, t + 1, c + 4) p
        | _ => .need
      | _ => .need
  | _ => .need

/-- The two codes of a dynamic block. -/
def readCodes (src : List Byte) (p : Nat) : DecVal (Huff × Huff) :=
  match readCounts src p with
  | .need => .need
  | .bad => .bad
  | .val (hlit, hdist, hclen) p =>
    match read3 src hclen p with
      | .need => .need
      | .bad => .bad
      | .val cl p =>
        let lens := (List.range 19).map (fun s => ((clOrder.zip cl).find? (fun e => e.1 == s)).elim 0 (fun e => e.2))
        if ! huffOk false lens then .bad
        else match readLens src (huffOf lens) (hlit + hdist) (hlit + hdist + 1) p [] with
          | .need => .need
          | .bad => .bad
          | .val all p =>
            let ll := all.take hlit
            let dl := all.drop hlit
            if ll.getD 256 0 = 0 ∨ huffOk true ll = false ∨ huffOk true dl = false then .bad
            else .val (huffOf ll, huffOf dl) p

/-- One block from bit p on: whether it is the last, and its outcome. -/
def infBlock (src : List Byte) (p : Nat) (out : List Byte) : Bool × InfRes :=
  match bitsAt src p 3 with
  | .val x p =>
    (x % 2 == 1,
      match x / 2 with
      | 0 => infStored src p out
      | 1 => infCodes src (huffOf fixedLens) (huffOf (List.replicate 32 5)) (8 * src.length + 1) p out
      | 2 =>
        (match readCodes src p with
          | .need => (out, .need)
          | .bad => (out, .bad)
          | .val (hl, hd) p => infCodes src hl hd (8 * src.length + 1) p out)
      | _ => (out, .bad))
  | _ => (false, (out, .need))

/-- The blocks of a DEFLATE stream from bit p on; done gives the bit position of its end. -/
def inflate (src : List Byte) : Nat → Nat → List Byte → InfRes
  | 0, _, out => (out, .need)
  | fuel + 1, p, out =>
    match infBlock src p out with
    | (true, r) => r
    | (false, (out, .done p)) => inflate src fuel p out
    | (false, r) => r

/-- A DEFLATE stream from byte q on. -/
def inflateAt (src : List Byte) (q : Nat) : InfRes := inflate src (8 * src.length + 1) (8 * q) []

/-- Adler-32 (RFC 1950). -/
def adler32 (l : List Byte) : Nat :=
  let r := l.foldl (fun (r : Nat × Nat) b => ((r.1 + b.toNat) % 65521, (r.2 + r.1 + b.toNat) % 65521)) (1, 0)
  r.2 * 65536 + r.1

/-- One byte of CRC-32, bit by bit (RFC 1952). -/
def crcByte : Nat → Nat → Nat
  | 0, c => c
  | n + 1, c => crcByte n (if c % 2 = 1 then (c / 2) ^^^ 0xEDB88320 else c / 2)

/-- CRC-32. -/
def crc32 (l : List Byte) : Nat := (l.foldl (fun c b => crcByte 8 (c ^^^ b.toNat)) 0xFFFFFFFF) ^^^ 0xFFFFFFFF

/-- n bytes from q on as a number, lowest first; none where they are not all there. -/
def leAt (src : List Byte) (q n : Nat) : Option Nat :=
  if src.length < q + n then none else some (bytesNum ((src.drop q).take n))

/-- n bytes from q on as a number, highest first. -/
def beAt (src : List Byte) (q n : Nat) : Option Nat :=
  if src.length < q + n then none else some (bytesNum ((src.drop q).take n).reverse)

/-- A zlib stream (RFC 1950): output in order, with done at its last byte. -/
def zlibDecode (src : List Byte) : InfRes :=
  match leAt src 0 2 with
  | none => ([], if src.any (fun b => b.toNat % 16 != 8 || decide (7 < b.toNat / 16)) then .bad else .need)
  | some h =>
    let cmf := h % 256
    let flg := h / 256
    if cmf % 16 ≠ 8 ∨ 7 < cmf / 16 ∨ (cmf * 256 + flg) % 31 ≠ 0 ∨ flg.testBit 5 = true then ([], .bad)
    else match inflateAt src 2 with
      | (out, .done p) =>
        (match beAt src (ceilDiv p 8) 4 with
          | none => (out.reverse, .need)
          | some a => (out.reverse, if a = adler32 out.reverse then .done (ceilDiv p 8 + 4) else .bad))
      | (out, st) => (out.reverse, st)

/-- The position behind a zero-terminated string. -/
def zeroEnd (src : List Byte) : Nat → Nat → Option Nat
  | 0, _ => none
  | fuel + 1, q =>
    match src[q]? with
    | none => none
    | some b => if b = 0 then some (q + 1) else zeroEnd src fuel (q + 1)

/-- The header of a gzip member from byte q on: the position behind it. -/
def gzipHead (src : List Byte) (q : Nat) : DecVal Unit :=
  match leAt src q 10 with
  | none => if (src[q + 2]?).any (fun b => b != 8) || (src[q + 3]?).any (fun b => decide (31 < b.toNat)) then .bad else .need
  | some h =>
    let flg := h / 2 ^ 24 % 256
    if h / 2 ^ 16 % 256 ≠ 8 ∨ 31 < flg then .bad
    else
      let extra : Option Nat := if flg.testBit 2 then
          (leAt src (q + 10) 2).bind (fun n => if src.length < q + 12 + n then none else some (q + 12 + n))
        else some (q + 10)
      let name := extra.bind (fun a => if flg.testBit 3 then zeroEnd src src.length a else some a)
      let comment := name.bind (fun a => if flg.testBit 4 then zeroEnd src src.length a else some a)
      match comment with
      | none => .need
      | some a =>
        if flg.testBit 1 then
          match leAt src a 2 with
          | none => .need
          | some c => if c = crc32 ((src.drop q).take (a - q)) % 65536 then .val () (a + 2) else .bad
        else .val () a

/-- A gzip member from byte q on (RFC 1952). -/
def gzipMember (src : List Byte) (q : Nat) : InfRes :=
  match gzipHead src q with
  | .need => ([], .need)
  | .bad => ([], .bad)
  | .val _ a =>
    match inflateAt src a with
    | (out, .done p) =>
      let e := ceilDiv p 8
      (match leAt src e 4, leAt src (e + 4) 4 with
        | some c, some n => (out.reverse, if c = crc32 out.reverse ∧ n = out.length % 2 ^ 32 then .done (e + 8) else .bad)
        | some c, none => (out.reverse, if c = crc32 out.reverse then .need else .bad)
        | _, _ => (out.reverse, .need))
    | (out, st) => (out.reverse, st)

/-- The first bytes of a member are not those of gzip. -/
def gzipMagicBad (src : List Byte) (q : Nat) : Bool :=
  (src[q]?).any (fun b => b != 0x1F) || (src[q + 1]?).any (fun b => b != 0x8B)

/-- Concatenated gzip members (R211). -/
def gzipDecode (src : List Byte) : Nat → Nat → InfRes
  | 0, _ => ([], .need)
  | fuel + 1, q =>
    if gzipMagicBad src q then ([], if q = 0 then .bad else .trail)
    else match gzipMember src q with
      | (out, .done e) =>
        if e = src.length then (out, .done e)
        else
          let r := gzipDecode src fuel e
          (out ++ r.1, r.2)
      | r => r

/-- Bytes behind the end of a stream. -/
def noTrail (src : List Byte) (r : InfRes) : InfRes :=
  match r.2 with
  | .done e => (r.1, if e < src.length then .trail else .done e)
  | _ => r

/-- The bytes of a container decoded (CONT of R210): 1 DEFLATE, 2 zlib, 3 gzip. -/
def containerDecode (cont : Nat) (src : List Byte) : InfRes :=
  match cont with
  | 1 =>
    (match inflateAt src 0 with
      | (out, .done p) => noTrail src (out.reverse, .done (ceilDiv p 8))
      | (out, st) => (out.reverse, st))
  | 2 => noTrail src (zlibDecode src)
  | _ => gzipDecode src (src.length + 1) 0

end Sys2Proof.Machine
end

