-- ==== Sys2Proof/Machine/Zstd.lean ====
section
/-!
DEFINITION. Zstandard decompression of ingest input (R211) as RFC 8878: frames with windows of at most 8 MiB and no
dictionary, skippable frames, and the content checksum. A frame decodes block by block; as in Inflate, every decoder is a
function of the bytes seen so far.
-/

namespace Sys2Proof.Machine

/-! ## Content checksum: XXH64 with seed 0, by its low 32 bits -/

/-- The primes of XXH64. -/
def xxP1 : Nat := 0x9E3779B185EBCA87
/-- See xxP1. -/
def xxP2 : Nat := 0xC2B2AE3D27D4EB4F
/-- See xxP1. -/
def xxP3 : Nat := 0x165667B19E3779F9
/-- See xxP1. -/
def xxP4 : Nat := 0x85EBCA77C2B2AE63
/-- See xxP1. -/
def xxP5 : Nat := 0x27D4EB2F165667C5

/-- Modulo 2^64. -/
def m64 (x : Nat) : Nat := x % 2 ^ 64

/-- Rotation left of 64 bits. -/
def rotl64 (x n : Nat) : Nat := m64 (x * 2 ^ n) + x / 2 ^ (64 - n)

/-- One round on a lane. -/
def xxRound (acc lane : Nat) : Nat := m64 (rotl64 (m64 (acc + lane * xxP2)) 31 * xxP1)

/-- A lane merged into the hash. -/
def xxMerge (acc lane : Nat) : Nat := m64 ((acc ^^^ xxRound 0 lane) * xxP1 + xxP4)

/-- Four lanes over stripes of 32 bytes; the rest is left. -/
def xxStripes : Nat → List Byte → List Nat → List Byte × List Nat
  | 0, l, v => (l, v)
  | fuel + 1, l, v =>
    if l.length < 32 then (l, v)
    else xxStripes fuel (l.drop 32)
      ((List.range 4).map (fun i => xxRound (v.getD i 0) (bytesNum ((l.drop (8 * i)).take 8))))

/-- The last bytes of the content: eight, four and one at a time. -/
def xxTail : Nat → List Byte → Nat → Nat
  | 0, _, h => h
  | fuel + 1, l, h =>
    if 8 ≤ l.length then
      xxTail fuel (l.drop 8) (m64 (rotl64 (h ^^^ xxRound 0 (bytesNum (l.take 8))) 27 * xxP1 + xxP4))
    else if 4 ≤ l.length then
      xxTail fuel (l.drop 4) (m64 (rotl64 (h ^^^ m64 (bytesNum (l.take 4) * xxP1)) 23 * xxP2 + xxP3))
    else match l with
      | [] => h
      | b :: l => xxTail fuel l (m64 (rotl64 (h ^^^ m64 (b.toNat * xxP5)) 11 * xxP1))

/-- XXH64 of the content. -/
def xxh64 (l : List Byte) : Nat :=
  let r := xxStripes l.length l [m64 (xxP1 + xxP2), xxP2, 0, 2 ^ 64 - xxP1]
  let v := fun i => r.2.getD i 0
  let h :=
    if l.length < 32 then xxP5
    else (List.range 4).foldl (fun h i => xxMerge h (v i))
      (m64 (rotl64 (v 0) 1 + rotl64 (v 1) 7 + rotl64 (v 2) 12 + rotl64 (v 3) 18))
  let h := xxTail r.1.length r.1 (m64 (h + l.length))
  let h := m64 ((h ^^^ (h / 2 ^ 33)) * xxP2)
  let h := m64 ((h ^^^ (h / 2 ^ 29)) * xxP3)
  h ^^^ (h / 2 ^ 32)

/-! ## Bit streams read from their end (RFC 8878, 4) -/

/-- The bits of a stream as a number, and how many of them are left: they are read from the highest down. -/
structure BitRev where
  num : Nat
  left : Nat
  deriving DecidableEq, Repr

/-- A stream that ends in a non-zero byte; its highest set bit only marks the end. -/
def revOpen (l : List Byte) : Option BitRev :=
  if l.getLastD 0 = 0 then none else some ⟨bytesNum l, Nat.log2 (bytesNum l)⟩

/-- The next n bits. -/
def revRead (s : BitRev) (n : Nat) : Option (Nat × BitRev) :=
  if s.left < n then none else some ((s.num >>> (s.left - n)) % 2 ^ n, { s with left := s.left - n })

/-- The next n bits without taking them, with zeros behind the last. -/
def revPeek (s : BitRev) (n : Nat) : Nat :=
  if s.left < n then s.num % 2 ^ s.left * 2 ^ (n - s.left) else (s.num >>> (s.left - n)) % 2 ^ n

/-! ## Finite state entropy (RFC 8878, 4.1) -/

/-- An FSE table: its accuracy, and for each state the symbol, the bits to read and the base of the next state. -/
structure Fse where
  log : Nat
  cells : List (Nat × Nat × Nat)
  deriving DecidableEq, Repr

/-- n bits from bit p of a number on, lowest first. -/
def numBits (x p n : Nat) : Nat := (x >>> p) % 2 ^ n

/-- Zero flags behind a probability of 0: two bits each, three meaning that more follow. Gives the count and the position. -/
def zeroRun (x : Nat) : Nat → Nat → Nat → Nat × Nat
  | 0, p, n => (n, p)
  | fuel + 1, p, n => if numBits x p 2 = 3 then zeroRun x fuel (p + 2) (n + 3) else (n + numBits x p 2, p + 2)

/-- The probabilities of a table description, newest first: -1 is kept as none. left is what they have still to sum to. -/
def fseProbs (x : Nat) : Nat → Nat → Nat → List (Option Nat) → Option (List (Option Nat) × Nat)
  | 0, _, _, _ => none
  | fuel + 1, p, left, acc =>
    if left = 0 then some (acc.reverse, p)
    else
      let n := Nat.log2 (left + 1) + 1
      let v := numBits x p n
      let low := v % 2 ^ (n - 1)
      let thr := 2 ^ n - 1 - (left + 1)
      let r := if low < thr then (low, p + n - 1) else (if 2 ^ (n - 1) ≤ v then v - thr else v, p + n)
      if r.1 = 0 then fseProbs x fuel r.2 (left - 1) (none :: acc)
      else if r.1 = 1 then
        let z := zeroRun x 200 r.2 0
        fseProbs x fuel z.2 left (List.replicate (z.1 + 1) (some 0) ++ acc)
      else if left < r.1 - 1 then none
      else fseProbs x fuel r.2 (left - (r.1 - 1)) (some (r.1 - 1) :: acc)

/-- States of a table of the given accuracy in the order that symbols are spread over them; high is the first state of a
symbol of probability -1. -/
def fseOrder (log high : Nat) : List Nat :=
  let size := 2 ^ log
  let step := size / 2 + size / 8 + 3
  ((List.range size).map (fun k => k * step % size)).filter (fun q => decide (q < high))

/-- The cells of a table from its symbols by state, counting the states of each symbol. -/
def fseCells (log : Nat) : List Nat → List Nat → List (Nat × Nat × Nat)
  | [], _ => []
  | s :: ss, next =>
    let n := next.getD s 1
    let nb := log - Nat.log2 n
    (s, nb, n * 2 ^ nb - 2 ^ log) :: fseCells log ss (next.set s (n + 1))

/-- The table of a list of probabilities. -/
def fseBuild (log : Nat) (probs : List (Option Nat)) : Fse :=
  let size := 2 ^ log
  let rare := (probs.zipIdx.filter (fun e => e.1 == none)).map (fun e => e.2)
  let high := size - rare.length
  let spread := (fseOrder log high).zip (probs.zipIdx.flatMap (fun e => List.replicate (e.1.getD 0) e.2))
  let sym := fun q => if high ≤ q then rare.getD (size - 1 - q) 0 else ((spread.find? (fun e => e.1 == q)).map (fun e => e.2)).getD 0
  { log := log, cells := fseCells log ((List.range size).map sym) (probs.map (fun x => x.getD 1)) }

/-- A table description at the head of bytes, with at most maxLog and maxSym: the table and the bytes it takes. -/
def fseRead (l : List Byte) (maxLog maxSym : Nat) : Option (Fse × Nat) :=
  let x := bytesNum (l.take 600)
  let log := x % 16 + 5
  if l.isEmpty ∨ maxLog < log then none
  else match fseProbs x 600 4 (2 ^ log) [] with
    | none => none
    | some (probs, p) =>
      let used := (p + 7) / 8
      if maxSym + 1 < probs.length ∨ l.length < used then none else some (fseBuild log probs, used)

/-- The table of one symbol. -/
def fseOne (s : Nat) : Fse := { log := 0, cells := [(s, 0, 0)] }

/-- The cell of a state. -/
def fseCell (t : Fse) (st : Nat) : Nat × Nat × Nat := t.cells.getD st (0, 0, 0)

/-- The first state of a table. -/
def fseInit (t : Fse) (s : BitRev) : Option (Nat × BitRev) := revRead s t.log

/-- The state behind st. -/
def fseNext (t : Fse) (st : Nat) (s : BitRev) : Option (Nat × BitRev) :=
  (revRead s (fseCell t st).2.1).map (fun r => ((fseCell t st).2.2 + r.1, r.2))

/-! ## Huffman codes of literals (RFC 8878, 4.2) -/

/-- A Huffman code: the longest length, and the symbol and length of every value of that many bits. -/
structure HufT where
  bits : Nat
  cells : List (Nat × Nat)
  deriving DecidableEq, Repr

/-- Weights read from two interleaved states until the bits run out. -/
def weightsRun (t : Fse) : Nat → Nat → Nat → BitRev → List Nat → Option (List Nat)
  | 0, _, _, _, _ => none
  | fuel + 1, a, b, s, acc =>
    let acc := (fseCell t a).1 :: acc
    match fseNext t a s with
    | none => some ((fseCell t b).1 :: acc).reverse
    | some (a', s) => weightsRun t fuel b a' s acc

/-- The weights of a tree description, all but the last, and the bytes it takes. -/
def weightsRead (l : List Byte) : Option (List Nat × Nat) :=
  match l with
  | [] => none
  | h :: m =>
    let n := h.toNat
    if 128 ≤ n then
      let c := n - 127
      let k := (c + 1) / 2
      if m.length < k then none
      else some (((m.take k).flatMap (fun b => [b.toNat / 16, b.toNat % 16])).take c, 1 + k)
    else if m.length < n then none
    else match fseRead (m.take n) 6 255 with
      | none => none
      | some (t, used) =>
        (match revOpen ((m.take n).drop used) with
          | none => none
          | some s =>
            (match fseInit t s with
              | none => none
              | some (a, s) =>
                (match fseInit t s with
                  | none => none
                  | some (b, s) => (weightsRun t 255 a b s []).map (fun w => (w, 1 + n)))))

/-- The code of weights; the last weight is what completes a power of two. -/
def hufOf (ws : List Nat) : Option HufT :=
  let sum := sumNat (ws.map (fun w => if w = 0 then 0 else 2 ^ (w - 1)))
  let bits := Nat.log2 sum + 1
  let left := 2 ^ bits - sum
  if sum = 0 ∨ 255 < ws.length ∨ 11 < bits ∨ ws.any (fun w => decide (11 < w)) = true ∨ left ≠ 2 ^ Nat.log2 left then none
  else
    let all := (ws ++ [Nat.log2 left + 1]).zipIdx
    some { bits := bits, cells := (List.range bits).flatMap (fun i =>
      (all.filter (fun e => e.1 == i + 1)).flatMap (fun e => List.replicate (2 ^ i) (e.2, bits - i))) }

/-- n symbols of a stream, which they use up. -/
def hufRun (t : HufT) : Nat → BitRev → List Byte → Option (List Byte)
  | 0, s, acc => if s.left = 0 then some acc.reverse else none
  | n + 1, s, acc =>
    let c := t.cells.getD (revPeek s t.bits) (0, 0)
    if s.left < c.2 ∨ c.2 = 0 then none else hufRun t n { s with left := s.left - c.2 } (BitVec.ofNat 8 c.1 :: acc)

/-- A stream of n symbols. -/
def hufStream (t : HufT) (l : List Byte) (n : Nat) : Option (List Byte) := (revOpen l).bind (fun s => hufRun t n s [])

/-- The literals of one stream or of four behind a jump table. -/
def hufStreams (t : HufT) (four : Bool) (l : List Byte) (n : Nat) : Option (List Byte) :=
  if ! four then hufStream t l n
  else
    let a := bytesNum (l.take 2)
    let b := bytesNum ((l.drop 2).take 2)
    let c := bytesNum ((l.drop 4).take 2)
    let k := (n + 3) / 4
    if l.length < 6 + a + b + c ∨ n < 3 * k then none
    else
      let m := l.drop 6
      match hufStream t (m.take a) k, hufStream t ((m.drop a).take b) k, hufStream t ((m.drop (a + b)).take c) k,
          hufStream t (m.drop (a + b + c)) (n - 3 * k) with
      | some w, some x, some y, some z => some (w ++ x ++ y ++ z)
      | _, _, _, _ => none

/-! ## Compressed blocks (RFC 8878, 3.1.1.3) -/

/-- What a frame keeps from one block to the next: the Huffman code, the tables of literal lengths, offsets and match lengths,
and the last three offsets. -/
structure ZCtx where
  huf : Option HufT
  ll : Option Fse
  off : Option Fse
  ml : Option Fse
  rep : Nat × Nat × Nat
  deriving DecidableEq, Repr

/-- A frame begins. -/
def ZCtx.start : ZCtx := { huf := none, ll := none, off := none, ml := none, rep := (1, 4, 8) }

/-- Raw literals, or one byte repeated, behind a header of k bytes. -/
def plainLits (c : ZCtx) (l : List Byte) (rle : Bool) (k n : Nat) : Option (ZCtx × List Byte × Nat) :=
  if rle then (if l.length < k + 1 then none else some (c, List.replicate n (l.getD k 0), k + 1))
  else if l.length < k + n then none
  else some (c, (l.drop k).take n, k + n)

/-- Huffman literals: a header of k bytes, n literals in size bytes, of which a tree description is the first part. -/
def hufLits (c : ZCtx) (l : List Byte) (tree four : Bool) (k n size : Nat) : Option (ZCtx × List Byte × Nat) :=
  if l.length < k + size then none
  else
    let body := (l.drop k).take size
    let code : Option (HufT × Nat) :=
      if tree then (weightsRead body).bind (fun w => (hufOf w.1).map (fun t => (t, w.2)))
      else c.huf.map (fun t => (t, 0))
    match code with
    | none => none
    | some (t, used) => (hufStreams t four (body.drop used) n).map (fun x => ({ c with huf := some t }, x, k + size))

/-- The literals section of a block: literals, and the bytes it takes. At most max literals. -/
def litsRead (c : ZCtx) (l : List Byte) (max : Nat) : Option (ZCtx × List Byte × Nat) :=
  let h := bytesNum (l.take 5)
  let ty := h % 4
  let sf := h / 4 % 4
  if l.isEmpty then none
  else if ty < 2 then
    let k := if sf % 2 = 0 then 1 else if sf = 1 then 2 else 3
    let n := if k = 1 then h / 8 % 2 ^ 5 else if k = 2 then h / 16 % 2 ^ 12 else h / 16 % 2 ^ 20
    if l.length < k ∨ max < n then none else plainLits c l (ty == 1) k n
  else
    let k := if sf < 2 then 3 else sf + 2
    let w := if sf < 2 then 10 else if sf = 2 then 14 else 18
    let n := h / 16 % 2 ^ w
    if l.length < k ∨ max < n then none else hufLits c l (ty == 2) (sf != 0) k n (h / 2 ^ (4 + w) % 2 ^ w)

/-- Base and extra bits of literal length codes 0-35. -/
def zLl (c : Nat) : Nat × Nat :=
  if c < 16 then (c, 0)
  else ([(16, 1), (18, 1), (20, 1), (22, 1), (24, 2), (28, 2), (32, 3), (40, 3), (48, 4), (64, 6), (128, 7), (256, 8), (512, 9),
    (1024, 10), (2048, 11), (4096, 12), (8192, 13), (16384, 14), (32768, 15), (65536, 16)] : List (Nat × Nat)).getD (c - 16) (0, 0)

/-- Base and extra bits of match length codes 0-52. -/
def zMl (c : Nat) : Nat × Nat :=
  if c < 32 then (c + 3, 0)
  else ([(35, 1), (37, 1), (39, 1), (41, 1), (43, 2), (47, 2), (51, 3), (59, 3), (67, 4), (83, 4), (99, 5), (131, 7), (259, 8),
    (515, 9), (1027, 10), (2051, 11), (4099, 12), (8195, 13), (16387, 14), (32771, 15), (65539, 16)] : List (Nat × Nat)).getD (c - 32) (0, 0)

/-- Probabilities of a predefined table, -1 written as 9. -/
def zProbs (l : List Nat) : List (Option Nat) := l.map (fun x => if x = 9 then none else some x)

/-- The predefined table of literal lengths. -/
def zLlDef : Fse := fseBuild 6 (zProbs [4, 3, 2, 2, 2, 2, 2, 2, 2, 2, 2, 2, 2, 1, 1, 1, 2, 2, 2, 2, 2, 2, 2, 2, 2, 3, 2, 1, 1, 1, 1, 1,
  9, 9, 9, 9])
/-- The predefined table of offset codes. -/
def zOffDef : Fse := fseBuild 5 (zProbs [1, 1, 1, 1, 1, 1, 2, 2, 2, 1, 1, 1, 1, 1, 1, 1, 1, 1, 1, 1, 1, 1, 1, 1, 9, 9, 9, 9, 9])
/-- The predefined table of match lengths. -/
def zMlDef : Fse := fseBuild 6 (zProbs ([1, 4, 3, 2, 2, 2, 2, 2, 2] ++ List.replicate 37 1 ++ List.replicate 7 9))

/-- The table a sequences section names by its mode: predefined, one symbol, described, or that of the block before. Gives the
table and the bytes it takes. -/
def zSeqTable (mode : Nat) (l : List Byte) (pre : Fse) (old : Option Fse) (maxLog maxSym : Nat) : Option (Fse × Nat) :=
  match mode with
  | 0 => some (pre, 0)
  | 1 => l.head?.bind (fun b => if maxSym < b.toNat then none else some (fseOne b.toNat, 1))
  | 2 => fseRead l maxLog maxSym
  | _ => old.map (fun t => (t, 0))

/-- The number of sequences, and the bytes it takes. -/
def zSeqCount (l : List Byte) : Option (Nat × Nat) :=
  match l with
  | [] => none
  | a :: m =>
    let x := a.toNat
    if x < 128 then some (x, 1)
    else match m with
      | [] => none
      | b :: m =>
        if x < 255 then some ((x - 128) * 256 + b.toNat, 2)
        else match m with
          | [] => none
          | c :: _ => some (b.toNat + c.toNat * 256 + 0x7F00, 3)

/-- The offset of a sequence, and the last offsets behind it; none for an offset of 0. -/
def zOffset (rep : Nat × Nat × Nat) (v ll : Nat) : Option (Nat × Nat × Nat × Nat) :=
  if 3 < v then some (v - 3, v - 3, rep.1, rep.2.1)
  else match v - 1 + (if ll = 0 then 1 else 0) with
    | 0 => some (rep.1, rep)
    | 1 => some (rep.2.1, rep.2.1, rep.1, rep.2.2)
    | 2 => some (rep.2.2, rep.2.2, rep.1, rep.2.1)
    | _ => if rep.1 ≤ 1 then none else some (rep.1 - 1, rep.1 - 1, rep.1, rep.2.1)

/-- Output of a frame, newest byte first, its length, and what is left of the block's literals. -/
structure ZOut where
  out : List Byte
  size : Nat
  lits : List Byte
  deriving DecidableEq, Repr

/-- A sequence done: ll literals, then ml bytes from off back in a window. -/
def zCopy (window : Nat) (o : ZOut) (ll ml off : Nat) : Option ZOut :=
  let n := o.size + ll
  if o.lits.length < ll ∨ off = 0 ∨ min n window < off then none
  else some { out := copyBack ((o.lits.take ll).reverse ++ o.out) off ml, size := n + ml, lits := o.lits.drop ll }

/-- The sequences of a block from their three states on. -/
def zSeqRun (tl tf tm : Fse) (window max base : Nat) : Nat → Nat → Nat → Nat → BitRev → Nat × Nat × Nat → ZOut →
    Option ((Nat × Nat × Nat) × ZOut)
  | 0, _, _, _, s, rep, o => if s.left = 0 then some (rep, o) else none
  | n + 1, sl, so, sm, s, rep, o =>
    let oc := (fseCell tf so).1
    let mc := zMl (fseCell tm sm).1
    let lc := zLl (fseCell tl sl).1
    match revRead s oc with
    | none => none
    | some (ov, s) =>
      match revRead s mc.2 with
      | none => none
      | some (mv, s) =>
        match revRead s lc.2 with
        | none => none
        | some (lv, s) =>
          match zOffset rep (2 ^ oc + ov) (lc.1 + lv) with
          | none => none
          | some (off, rep) =>
            match zCopy window o (lc.1 + lv) (mc.1 + mv) off with
            | none => none
            | some o =>
              if base + max < o.size then none
              else if n = 0 then zSeqRun tl tf tm window max base 0 sl so sm s rep o
              else
                match fseNext tl sl s with
                | none => none
                | some (sl, s) =>
                  match fseNext tm sm s with
                  | none => none
                  | some (sm, s) =>
                    match fseNext tf so s with
                    | none => none
                    | some (so, s) => zSeqRun tl tf tm window max base n sl so sm s rep o

/-- The three tables of a sequences section behind its modes byte, and the bytes they take. -/
def zSeqTables (c : ZCtx) (modes : Nat) (l : List Byte) : Option (Fse × Fse × Fse × Nat) :=
  match zSeqTable (modes / 64) l zLlDef c.ll 9 35 with
  | none => none
  | some (tl, a) =>
    match zSeqTable (modes / 16 % 4) (l.drop a) zOffDef c.off 8 31 with
    | none => none
    | some (tf, b) => (zSeqTable (modes / 4 % 4) (l.drop (a + b)) zMlDef c.ml 9 52).map (fun r => (tl, tf, r.1, a + b + r.2))

/-- The bit stream of a sequences section. -/
def zSeqStream (tl tf tm : Fse) (window max : Nat) (n : Nat) (l : List Byte) (rep : Nat × Nat × Nat) (o : ZOut) :
    Option ((Nat × Nat × Nat) × ZOut) :=
  match revOpen l with
  | none => none
  | some s =>
    match fseInit tl s with
    | none => none
    | some (sl, s) =>
      match fseInit tf s with
      | none => none
      | some (so, s) =>
        match fseInit tm s with
        | none => none
        | some (sm, s) => zSeqRun tl tf tm window max o.size n sl so sm s rep o

/-- The sequences section and the last literals. -/
def zSeqsRead (c : ZCtx) (window max : Nat) (l : List Byte) (o : ZOut) : Option (ZCtx × ZOut) :=
  match zSeqCount l with
  | none => none
  | some (n, k) =>
    if n = 0 then (if l.length = k then some (c, o) else none)
    else match l.drop k with
      | [] => none
      | modes :: m =>
        if modes.toNat % 4 ≠ 0 then none
        else match zSeqTables c modes.toNat m with
          | none => none
          | some (tl, tf, tm, used) =>
            (zSeqStream tl tf tm window max n (m.drop used) c.rep o).map (fun r =>
              ({ c with ll := some tl, off := some tf, ml := some tm, rep := r.1 }, r.2))

/-- A compressed block of which all bytes are there: the output behind it. -/
def zBlock (c : ZCtx) (window max : Nat) (l out : List Byte) (size : Nat) : Option (ZCtx × List Byte × Nat) :=
  match litsRead c l max with
  | none => none
  | some (c, lits, k) =>
    match zSeqsRead c window max (l.drop k) { out := out, size := size, lits := lits } with
    | none => none
    | some (c, o) =>
      let n := o.size + o.lits.length
      if size + max < n then none else some (c, o.lits.reverse ++ o.out, n)

/-! ## Frames (RFC 8878, 3.1) -/

/-- Where a Zstandard decoder stands: more bytes are needed, the data are invalid, they need what R211 leaves out, they end at
a position, or bytes follow the last frame. -/
inductive ZSt where
  | need
  | bad
  | unsupp
  | done (p : Nat)
  | trail
  deriving DecidableEq, Repr

/-- The header of a frame behind its magic number: window, content size if it is given, checksum flag; or what stops it. -/
structure ZHead where
  window : Nat
  size : Option Nat
  sum : Bool
  pos : Nat
  deriving DecidableEq, Repr

/-- The window a descriptor byte names. -/
def zWindow (b : Nat) : Nat := 2 ^ (10 + b / 8) + 2 ^ (10 + b / 8) / 8 * (b % 8)

/-- The frame header from its descriptor byte at q on. -/
def zHead (src : List Byte) (q : Nat) : Except ZSt ZHead :=
  match leAt src q 1 with
  | none => .error .need
  | some d =>
    let single := d.testBit 5
    let dn := [0, 1, 2, 4].getD (d % 4) 0
    let fn := if d / 64 = 0 then (if single then 1 else 0) else 2 ^ (d / 64)
    let wn := if single then 0 else 1
    if d.testBit 3 then .error .bad
    else match leAt src (q + 1) wn with
      | none => .error .need
      | some w =>
        if single = false ∧ 2 ^ 23 < zWindow w then .error .unsupp
        else match leAt src (q + 1 + wn) dn with
          | none => .error .need
          | some id =>
            if id ≠ 0 then .error .unsupp
            else match leAt src (q + 1 + wn + dn) fn with
              | none => .error .need
              | some n =>
                let size := if fn = 2 then n + 256 else n
                if single ∧ 2 ^ 23 < size then .error .unsupp
                else .ok { window := if single then size else zWindow w, size := if fn = 0 then none else some size,
                           sum := d.testBit 2, pos := q + 1 + wn + dn + fn }

/-- The end of a frame at q: content size and checksum. -/
def zEnd (src : List Byte) (h : ZHead) (q : Nat) (out : List Byte) (size : Nat) : ZSt :=
  if h.size.any (fun n => n != size) then .bad
  else if ! h.sum then .done q
  else match leAt src q 4 with
    | none => .need
    | some c => if c = xxh64 out.reverse % 2 ^ 32 then .done (q + 4) else .bad

/-- The blocks of a frame from q on: output so far, newest byte first, its length, and where decoding stands. -/
def zBlocks (src : List Byte) (h : ZHead) : Nat → Nat → ZCtx → List Byte → Nat → List Byte × ZSt
  | 0, _, _, out, _ => (out, .need)
  | fuel + 1, q, c, out, size =>
    match leAt src q 3 with
    | none => (out, .need)
    | some x =>
      let n := x / 8
      let max := min h.window 131072
      let go := fun q' c' out' size' =>
        if x % 2 = 1 then (out', zEnd src h q' out' size') else zBlocks src h fuel q' c' out' size'
      if x / 2 % 4 = 3 then (out, .unsupp)
      else if max < n then (out, .bad)
      else if x / 2 % 4 = 0 then
        let bytes := (src.drop (q + 3)).take n
        if bytes.length < n then (bytes.reverse ++ out, .need) else go (q + 3 + n) c (bytes.reverse ++ out) (size + n)
      else if x / 2 % 4 = 1 then
        (match src[q + 3]? with
          | none => (out, .need)
          | some b => go (q + 4) c (List.replicate n b ++ out) (size + n))
      else if src.length < q + 3 + n then (out, .need)
      else match zBlock c h.window max ((src.drop (q + 3)).take n) out size with
        | none => (out, .bad)
        | some (c, out, size) => go (q + 3 + n) c out size

/-- The bytes from q on do not begin a frame: neither the magic number nor that of a skippable frame. -/
def zMagicBad (src : List Byte) (q : Nat) : Bool :=
  let m := (src.drop q).take 4
  let skip := (m.headD 0).toNat / 16 == 5 && m.drop 1 == ([0x2A, 0x4D, 0x18] : List Byte).take (m.length - 1)
  ! (m.isEmpty || m == ([0x28, 0xB5, 0x2F, 0xFD] : List Byte).take m.length || skip)

/-- A frame from q on, of which the magic number is there. -/
def zFrame (src : List Byte) (q : Nat) : List Byte × ZSt :=
  if (src.getD q 0).toNat / 16 = 5 then
    match leAt src (q + 4) 4 with
    | none => ([], .need)
    | some n => ([], if src.length < q + 8 + n then .need else .done (q + 8 + n))
  else match zHead src (q + 4) with
    | .error e => ([], e)
    | .ok h =>
      let r := zBlocks src h (src.length + 1) h.pos ZCtx.start [] 0
      (r.1.reverse, r.2)

/-- Frames one behind another (R211): the content decoded so far, and where decoding stands. -/
def zstdDecode (src : List Byte) : Nat → Nat → List Byte × ZSt
  | 0, _ => ([], .need)
  | fuel + 1, q =>
    if zMagicBad src q then ([], if q = 0 then .bad else .trail)
    else if src.length < q + 4 then ([], .need)
    else match zFrame src q with
      | (out, .done e) =>
        if e = src.length then (out, .done e)
        else
          let r := zstdDecode src fuel e
          (out ++ r.1, r.2)
      | r => r

end Sys2Proof.Machine
end

