-- ==== Sys2Proof/Machine/Text.lean ====
section
/-!
DEFINITION. The five stages of an ingest pipe as functions of the bytes that have come to them (R211-R213, R217): transfer
decoding, character sets, normalisation and the two tokenisers.
-/

namespace Sys2Proof.Machine

/-- What a stage has made of its input so far: its output, and the reason and the input offset of the first condition of R217
it meets. -/
abbrev StageOut := List Byte × Option (Nat × Nat)

/-- Stage 1, decompression, of input that is at its end or not (R211, R217): limit is RATIO × ILEN. Of several conditions at a
byte the lowest code applies. -/
def stageUnpack (cont limit : Nat) (inp : List Byte) (ended : Bool) : StageOut :=
  if cont = 0 then (inp, none)
  else if cont = 4 then
    let r := zstdDecode inp (inp.length + 1) 0
    match r.2 with
    | .bad => (r.1, some (0x11, inp.length - 1))
    | .trail => (r.1, some (0x12, inp.length - 1))
    | .unsupp => (r.1, some (if limit < r.1.length then 0x13 else 0x14, inp.length - 1))
    | st =>
      let short := match st with
        | .need => ended
        | _ => false
      if short then (r.1, some (0x12, inp.length))
      else if limit < r.1.length then (r.1, some (0x13, inp.length - 1))
      else (r.1, none)
  else
    let r := containerDecode cont inp
    match r.2 with
    | .bad => (r.1, some (0x11, inp.length - 1))
    | .trail => (r.1, some (0x12, inp.length - 1))
    | st =>
      let short := match st with
        | .need => ended
        | _ => false
      if short then (r.1, some (0x12, inp.length))
      else if limit < r.1.length then (r.1, some (0x13, inp.length - 1))
      else (r.1, none)

/-! ## Transfer decoding (RFC 2045) -/

/-- The value of a base64 character. -/
def b64Val (b : Byte) : Option Nat :=
  let n := b.toNat
  if 65 ≤ n ∧ n ≤ 90 then some (n - 65)
  else if 97 ≤ n ∧ n ≤ 122 then some (n - 71)
  else if 48 ≤ n ∧ n ≤ 57 then some (n + 4)
  else if n = 43 then some 62
  else if n = 47 then some 63
  else none

/-- The bytes of base64 characters; an incomplete last group gives the bytes it holds whole. -/
def b64Bytes : List Nat → List Byte
  | a :: b :: c :: d :: l =>
    let n := ((a * 64 + b) * 64 + c) * 64 + d
    BitVec.ofNat 8 (n / 65536) :: BitVec.ofNat 8 (n / 256) :: BitVec.ofNat 8 n :: b64Bytes l
  | [a, b, c] => let n := (a * 64 + b) * 64 + c; [BitVec.ofNat 8 (n / 1024), BitVec.ofNat 8 (n / 4)]
  | [a, b] => [BitVec.ofNat 8 ((a * 64 + b) / 16)]
  | _ => []

/-- A '=' behind n characters and pad others does not fill up a last group of two or three characters (RFC 2045, 6.8). -/
def b64PadBad (n pad : Nat) : Bool := decide (n % 4 < 2) || decide (4 ≤ n % 4 + pad)

/-- Base64 characters of the input: their values, the '=' seen, and the offset of the first illegal one in strict mode. In
lenient mode '=' ends the data. -/
def b64Scan (strict : Bool) : List Byte → Nat → List Nat → Nat → List Nat × Nat × Option Nat
  | [], _, acc, pad => (acc.reverse, pad, none)
  | b :: l, i, acc, pad =>
    if b = 10 ∨ b = 13 then b64Scan strict l (i + 1) acc pad
    else if b = 61 then
      (if ! strict then (acc.reverse, 1, none)
       else if b64PadBad acc.length pad then (acc.reverse, pad, some i)
       else b64Scan strict l (i + 1) acc (pad + 1))
    else match b64Val b with
      | some v => if pad = 0 then b64Scan strict l (i + 1) (v :: acc) pad else (acc.reverse, pad, some i)
      | none => if strict then (acc.reverse, pad, some i) else b64Scan strict l (i + 1) acc pad

/-- Base64 decoded. -/
def b64Decode (strict : Bool) (inp : List Byte) (ended : Bool) : StageOut :=
  let r := b64Scan strict inp 0 [] 0
  let n := r.1.length
  let whole := b64Bytes (r.1.take (n / 4 * 4))
  match r.2.2 with
  | some i => (whole, some (0x15, i))
  | none =>
    if ! ended then (whole, none)
    else if strict ∧ (n + r.2.1) % 4 ≠ 0 then (whole, some (0x15, inp.length))
    else (b64Bytes r.1, none)

/-- The value of a hexadecimal digit. -/
def hexVal (b : Byte) : Option Nat :=
  let n := b.toNat
  if 48 ≤ n ∧ n ≤ 57 then some (n - 48)
  else if 65 ≤ n ∧ n ≤ 70 then some (n - 55)
  else if 97 ≤ n ∧ n ≤ 102 then some (n - 87)
  else none

/-- What stands behind a '=' of quoted-printable. -/
inductive QpEsc where
  | need
  | soft (n : Nat)
  | byte (v : Nat)
  | bad
  deriving DecidableEq, Repr

/-- A space or a tab. -/
def isBlank (b : Byte) : Bool := b == 32 || b == 9

/-- '=' with n blanks behind it, which the line end that follows deletes (RFC 2045, 6.7): a soft line break, or malformed. -/
def qpBlanks (l : List Byte) (ended : Bool) (n : Nat) : QpEsc :=
  match l with
  | [] => if ended then .bad else .need
  | b :: l =>
    if b = 10 then .soft (n + 1)
    else if b = 13 then
      match l with
      | [] => if ended then .bad else .need
      | c :: _ => if c = 10 then .soft (n + 2) else .bad
    else .bad

/-- See QpEsc: the bytes behind '=', and whether the input has ended. -/
def qpEsc (l : List Byte) (ended : Bool) : QpEsc :=
  match l with
  | [] => if ended then .bad else .need
  | b :: r =>
    if b = 10 then .soft 1
    else if isBlank b then qpBlanks (l.dropWhile isBlank) ended (l.takeWhile isBlank).length
    else match r with
      | [] => if (b = 13 ∨ (hexVal b).isSome) ∧ ended = false then .need else .bad
      | c :: _ =>
        if b = 13 ∧ c = 10 then .soft 2
        else match hexVal b, hexVal c with
          | some x, some y => .byte (16 * x + y)
          | _, _ => .bad

/-- Quoted-printable decoded from offset i on; ws holds blanks that a line end would delete, newest first. -/
def qpFrom (strict ended : Bool) : Nat → List Byte → Nat → List Byte → List Byte → StageOut
  | 0, _, _, _, acc => (acc.reverse, none)
  | fuel + 1, inp, i, ws, acc =>
    match inp with
    | [] => (acc.reverse, none)
    | b :: l =>
      if b = 32 ∨ b = 9 then qpFrom strict ended fuel l (i + 1) (b :: ws) acc
      else if b = 61 then
        match qpEsc l ended with
        | .need => (acc.reverse, none)
        | .soft n => qpFrom strict ended fuel (l.drop n) (i + 1 + n) [] (ws ++ acc)
        | .byte v => qpFrom strict ended fuel (l.drop 2) (i + 3) [] (BitVec.ofNat 8 v :: (ws ++ acc))
        | .bad => if strict then ((ws ++ acc).reverse, some (0x15, i)) else qpFrom strict ended fuel l (i + 1) [] (b :: (ws ++ acc))
      else if b = 10 then qpFrom strict ended fuel l (i + 1) [] (b :: acc)
      else if b = 13 then
        match l with
        | [] => if ended then ((b :: (ws ++ acc)).reverse, none) else (acc.reverse, none)
        | c :: _ => qpFrom strict ended fuel l (i + 1) [] (b :: (if c = 10 then acc else ws ++ acc))
      else qpFrom strict ended fuel l (i + 1) [] (b :: (ws ++ acc))

/-- Stage 2, transfer decoding (R211). -/
def stageXfer (xfer : Nat) (strict : Bool) (inp : List Byte) (ended : Bool) : StageOut :=
  match xfer with
  | 0 => (inp, none)
  | 1 => b64Decode strict inp ended
  | _ => qpFrom strict ended (inp.length + 1) inp 0 [] []

/-! ## Character sets (R211, R212) -/

/-- CS is one of the codes of R212. -/
def charsetOk (c : Nat) : Bool :=
  c == 0 || c == 1 || (decide (0x11 ≤ c) && decide (c ≤ 0x20) && c != 0x1C) || (decide (0x30 ≤ c) && decide (c ≤ 0x38)) ||
  c == 0x40 || c == 0x41 || (decide (0x50 ≤ c) && decide (c ≤ 0x54)) || (decide (0x60 ≤ c) && decide (c ≤ 0x62))

/-- The next character of a charset: more bytes are needed, a code point of n bytes, or an illegal sequence of n bytes. -/
inductive CharNext where
  | need
  | cp (c n : Nat)
  | bad (n : Nat)
  deriving DecidableEq, Repr

/-- The UTF-8 bytes of a code point. -/
def utf8Bytes (c : Nat) : List Byte :=
  if c < 0x80 then [BitVec.ofNat 8 c]
  else if c < 0x800 then [BitVec.ofNat 8 (0xC0 + c / 64), BitVec.ofNat 8 (0x80 + c % 64)]
  else if c < 0x10000 then [BitVec.ofNat 8 (0xE0 + c / 4096), BitVec.ofNat 8 (0x80 + c / 64 % 64), BitVec.ofNat 8 (0x80 + c % 64)]
  else [BitVec.ofNat 8 (0xF0 + c / 262144 % 8), BitVec.ofNat 8 (0x80 + c / 4096 % 64), BitVec.ofNat 8 (0x80 + c / 64 % 64),
        BitVec.ofNat 8 (0x80 + c % 64)]

/-- Continuation bytes of UTF-8: the first lies between lo and hi, m are due, n bytes have been taken, v is the value so far. -/
def utf8Cont (ended : Bool) : Nat → List Byte → Nat → Nat → Nat → Nat → CharNext
  | 0, _, _, _, n, v => .cp v n
  | m + 1, l, lo, hi, n, v =>
    match l with
    | [] => if ended then .bad n else .need
    | b :: l => if lo ≤ b.toNat ∧ b.toNat ≤ hi then utf8Cont ended m l 0x80 0xBF (n + 1) (64 * v + b.toNat % 64) else .bad n

/-- The next character of UTF-8; an illegal sequence takes its longest legal beginning. -/
def utf8Next (ended : Bool) (l : List Byte) : CharNext :=
  match l with
  | [] => .need
  | b :: l =>
    let x := b.toNat
    if x < 0x80 then .cp x 1
    else if 0xC2 ≤ x ∧ x ≤ 0xDF then utf8Cont ended 1 l 0x80 0xBF 1 (x % 32)
    else if 0xE0 ≤ x ∧ x ≤ 0xEF then
      utf8Cont ended 2 l (if x = 0xE0 then 0xA0 else 0x80) (if x = 0xED then 0x9F else 0xBF) 1 (x % 16)
    else if 0xF0 ≤ x ∧ x ≤ 0xF4 then
      utf8Cont ended 3 l (if x = 0xF0 then 0x90 else 0x80) (if x = 0xF4 then 0x8F else 0xBF) 1 (x % 8)
    else .bad 1

/-- Two bytes as a unit of UTF-16. -/
def unit16 (le : Bool) (a b : Byte) : Nat := if le then a.toNat + 256 * b.toNat else 256 * a.toNat + b.toNat

/-- The next character of UTF-16. -/
def utf16Next (le ended : Bool) (l : List Byte) : CharNext :=
  match l with
  | a :: b :: l =>
    let u := unit16 le a b
    if u < 0xD800 ∨ 0xE000 ≤ u then .cp u 2
    else if 0xDC00 ≤ u then .bad 2
    else (match l with
      | c :: e :: _ =>
        let w := unit16 le c e
        if 0xDC00 ≤ w ∧ w < 0xE000 then .cp (0x10000 + (u - 0xD800) * 1024 + (w - 0xDC00)) 4 else .bad 2
      | l => if ended then .bad (2 + l.length) else .need)
  | [_] => if ended then .bad 1 else .need
  | [] => .need

/-- A character of a cell: c of n bytes where it is assigned, an illegal sequence of one byte where it is not. -/
def cellNext (c n : Nat) : CharNext := if c = 0 then .bad 1 else .cp c n

/-- The next character of a single-byte charset whose upper half is given. -/
def upperNext (row : Nat) (l : List Byte) : CharNext :=
  match l with
  | [] => .need
  | b :: _ => if b.toNat < 128 then .cp b.toNat 1 else cellNext (cell16 row (b.toNat - 128)) 1

/-- Too few bytes for a character: more are needed, or what is left is one illegal sequence. -/
def cutShort (ended : Bool) (l : List Byte) : CharNext := if ended then .bad l.length else .need

/-- Cell (r, c) of a table. -/
def gridCell (rows : List Nat) (r c : Nat) : Nat := cell16 (rows.getD r 0) c

/-- Cell of JIS X 0208 that a Shift_JIS pair names: lead bytes 0x81 to 0x9F and 0xE0 to 0xEF take two rows each. -/
def sjisCell (a b : Nat) : Nat :=
  let r := 2 * (a - if a < 0xA0 then 0x81 else 0xC1)
  if 0x9F ≤ b ∧ b ≤ 0xFC then gridCell jis0208 (r + 1) (b - 0x9F)
  else if 0x40 ≤ b ∧ b ≤ 0x7E then gridCell jis0208 r (b - 0x40)
  else if 0x80 ≤ b ∧ b ≤ 0x9E then gridCell jis0208 r (b - 0x41)
  else 0

/-- The next character of Shift_JIS. -/
def sjisNext (ended : Bool) (l : List Byte) : CharNext :=
  match l with
  | [] => .need
  | a :: m =>
    let x := a.toNat
    if x < 0x80 then .cp x 1
    else if 0xA1 ≤ x ∧ x ≤ 0xDF then .cp (0xFF61 + (x - 0xA1)) 1
    else if (0x81 ≤ x ∧ x ≤ 0x9F) ∨ (0xE0 ≤ x ∧ x ≤ 0xEF) then
      (match m with
        | [] => cutShort ended l
        | b :: _ => cellNext (sjisCell x b.toNat) 2)
    else .bad 1

/-- The cell a pair of bytes from 0xA1 to 0xFE names in a table of 94 columns. -/
def pairCell (rows : List Nat) (a b : Nat) : Nat :=
  if 0xA1 ≤ a ∧ a ≤ 0xFE ∧ 0xA1 ≤ b ∧ b ≤ 0xFE then gridCell rows (a - 0xA1) (b - 0xA1) else 0

/-- The next character of a charset of ASCII and pairs of bytes from 0xA1 to 0xFE (EUC). -/
def eucNext (rows : List Nat) (ended : Bool) (l : List Byte) : CharNext :=
  match l with
  | [] => .need
  | a :: m =>
    if a.toNat < 0x80 then .cp a.toNat 1
    else if a.toNat < 0xA1 ∨ a.toNat = 0xFF then .bad 1
    else match m with
      | [] => cutShort ended l
      | b :: _ => cellNext (pairCell rows a.toNat b.toNat) 2

/-- The next character of EUC-JP: 0x8E leads half-width katakana, 0x8F a pair of JIS X 0212. -/
def eucJpNext (ended : Bool) (l : List Byte) : CharNext :=
  match l with
  | [] => .need
  | a :: m =>
    if a = 0x8E then
      (match m with
        | [] => cutShort ended l
        | b :: _ => if 0xA1 ≤ b.toNat ∧ b.toNat ≤ 0xDF then .cp (0xFF61 + (b.toNat - 0xA1)) 2 else .bad 1)
    else if a = 0x8F then
      (match m with
        | b :: c :: _ => cellNext (pairCell jis0212 b.toNat c.toNat) 3
        | _ => cutShort ended l)
    else eucNext jis0208 ended l

/-- The code point of number n of the four-byte codes of GB 18030; 0 for none. -/
def gbFour (n : Nat) : Nat :=
  if 189000 ≤ n ∧ n < 1237576 then 0x10000 + (n - 189000)
  else match gbRanges.find? (fun r => decide (r.1 ≤ n) && decide (n < r.1 + r.2.2)) with
    | some r => r.2.1 + (n - r.1)
    | none => 0

/-- The cell of a two-byte code of GB 18030. -/
def gbCell (a b : Nat) : Nat :=
  if 0x40 ≤ b ∧ b ≤ 0x7E then gridCell gb2byte (a - 0x81) (b - 0x40)
  else if 0x80 ≤ b ∧ b ≤ 0xFE then gridCell gb2byte (a - 0x81) (b - 0x41)
  else 0

/-- A decimal digit as GB 18030 uses it: byte 0x30 to 0x39. -/
def gbDigit (b : Byte) : Bool := decide (0x30 ≤ b.toNat) && decide (b.toNat ≤ 0x39)

/-- The next character of GB 18030: one, two or four bytes. -/
def gbNext (ended : Bool) (l : List Byte) : CharNext :=
  match l with
  | [] => .need
  | a :: m =>
    if a.toNat < 0x80 then .cp a.toNat 1
    else if a.toNat = 0x80 ∨ a.toNat = 0xFF then .bad 1
    else match m with
      | [] => cutShort ended l
      | b :: m =>
        if gbDigit b then
          match m with
          | c :: e :: _ =>
            if 0x81 ≤ c.toNat ∧ c.toNat ≤ 0xFE ∧ gbDigit e then
              cellNext (gbFour ((((a.toNat - 0x81) * 10 + (b.toNat - 0x30)) * 126 + (c.toNat - 0x81)) * 10 + (e.toNat - 0x30))) 4
            else .bad 1
          | _ => cutShort ended l
        else cellNext (gbCell a.toNat b.toNat) 2

/-- The cell of a Big5 pair. -/
def big5Cell (a b : Nat) : Nat :=
  if 0x40 ≤ b ∧ b ≤ 0x7E then gridCell big5Rows (a - 0xA1) (b - 0x40)
  else if 0xA1 ≤ b ∧ b ≤ 0xFE then gridCell big5Rows (a - 0xA1) (b - 0xA1 + 63)
  else 0

/-- The next character of Big5. -/
def big5Next (ended : Bool) (l : List Byte) : CharNext :=
  match l with
  | [] => .need
  | a :: m =>
    if a.toNat < 0x80 then .cp a.toNat 1
    else if 0xA1 ≤ a.toNat ∧ a.toNat ≤ 0xF9 then
      (match m with
        | [] => cutShort ended l
        | b :: _ => cellNext (big5Cell a.toNat b.toNat) 2)
    else .bad 1

/-- The next character of charset cs; le is the byte order of UTF-16 with a mark. -/
def charNext (cs : Nat) (le ended : Bool) (l : List Byte) : CharNext :=
  match cs with
  | 0x00 => utf8Next ended l
  | 0x01 =>
    (match l with
      | [] => .need
      | b :: _ => if b.toNat < 128 then .cp b.toNat 1 else .bad 1)
  | 0x11 =>
    (match l with
      | [] => .need
      | b :: _ => .cp b.toNat 1)
  | 0x60 => utf16Next le ended l
  | 0x61 => utf16Next false ended l
  | 0x62 => utf16Next true ended l
  | 0x50 => sjisNext ended l
  | 0x51 => eucJpNext ended l
  | 0x52 => eucNext ksx1001 ended l
  | 0x53 => gbNext ended l
  | 0x54 => big5Next ended l
  | _ => upperNext (upperHalf cs) l

/-- Characters converted to UTF-8 from offset i on (R211). -/
def convFrom (cs : Nat) (strict le ended : Bool) : Nat → List Byte → Nat → List Byte → StageOut
  | 0, _, _, acc => (acc, none)
  | fuel + 1, inp, i, acc =>
    match charNext cs le ended inp with
    | .need => (acc, none)
    | .cp c n => convFrom cs strict le ended fuel (inp.drop n) (i + n) (acc ++ utf8Bytes c)
    | .bad n => if strict then (acc, some (0x16, i)) else convFrom cs strict le ended fuel (inp.drop n) (i + n) (acc ++ utf8Bytes 0xFFFD)

/-- Stage 3, character-set conversion (R211, R212). -/
def stageChars (cs : Nat) (strict : Bool) (inp : List Byte) (ended : Bool) : StageOut :=
  if cs = 0x60 then
    match inp with
    | a :: b :: l =>
      if a = 0xFF ∧ b = 0xFE then convFrom cs strict true ended inp.length l 2 []
      else if a = 0xFE ∧ b = 0xFF then convFrom cs strict false ended inp.length l 2 []
      else convFrom cs strict false ended inp.length inp 0 []
    | _ => if ended then convFrom cs strict false ended (inp.length + 1) inp 0 [] else ([], none)
  else convFrom cs strict false ended (inp.length + 1) inp 0 []

/-! ## Normalisation (R211) -/

/-- Simple case folding of Unicode 15.1 (R211). -/
def foldSimple (c : Nat) : Nat :=
  if c < 128 then (if 65 ≤ c ∧ c ≤ 90 then c + 32 else c)
  else match foldRanges.find? (fun r => decide (r.1 ≤ c) && decide (c ≤ r.2.1) && (c - r.1) % r.2.2.1 == 0) with
    | some r => r.2.2.2 + (c - r.1)
    | none => c

/-- A White_Space character of Unicode. -/
def isWhite (c : Nat) : Bool :=
  (decide (9 ≤ c) && decide (c ≤ 13)) || c == 0x20 || c == 0x85 || c == 0xA0 || c == 0x1680 || (decide (0x2000 ≤ c) && decide (c ≤ 0x200A)) ||
  c == 0x2028 || c == 0x2029 || c == 0x202F || c == 0x205F || c == 0x3000

/-- The code points of UTF-8 bytes, up to the first incomplete one. -/
def codePoints : Nat → List Byte → List Nat
  | 0, _ => []
  | fuel + 1, l =>
    match utf8Next false l with
    | .cp c n => c :: codePoints fuel (l.drop n)
    | .bad n => 0xFFFD :: codePoints fuel (l.drop n)
    | .need => []

/-- Whitespace normalisation: gap tells that a run stands before the next character. -/
def squeeze : List Nat → Bool → Bool → List Nat
  | [], _, _ => []
  | c :: l, started, gap =>
    if isWhite c then squeeze l started started
    else (if gap then [0x20, c] else [c]) ++ squeeze l true false

/-- Stage 4, normalisation. -/
def stageNorm (fold wsn : Bool) (inp : List Byte) : StageOut :=
  let cs := codePoints (inp.length + 1) inp
  let cs := if fold then cs.map foldSimple else cs
  ((if wsn then squeeze cs false false else cs).flatMap utf8Bytes, none)

/-! ## Tokenising (R213) -/

/-- The pieces of normalised text that are complete: offset and bytes. cur is the piece in hand, newest byte first, from
offset o on. -/
def piecesFrom (ended : Bool) : List Byte → Nat → List Byte → List (Nat × List Byte)
  | [], o, cur => if ended ∧ ! cur.isEmpty then [(o, cur.reverse)] else []
  | b :: l, o, cur =>
    if (b = 0x20 ∧ ! cur.isEmpty) ∨ cur.length = 256 then (o, cur.reverse) :: piecesFrom ended l (o + cur.length) [b]
    else piecesFrom ended l o (b :: cur)

/-- The merge entry of a pair: rank and result. -/
def mergeFind (ms : List (Nat × Nat × Nat × Nat)) (a b : Nat) : Option (Nat × Nat) :=
  (ms.find? (fun m => m.1 == a && m.2.1 == b)).map (fun m => m.2.2)

/-- The lowest rank of an adjacent pair. -/
def bestRank (ms : List (Nat × Nat × Nat × Nat)) : List Nat → Option Nat
  | a :: b :: l =>
    (match (mergeFind ms a b).map (fun m => m.1), bestRank ms (b :: l) with
      | some x, some y => some (min x y)
      | some x, none => some x
      | none, y => y)
  | _ => none

/-- The leftmost pair of a rank replaced by its result. -/
def mergeAt (ms : List (Nat × Nat × Nat × Nat)) (rank : Nat) : List Nat → List Nat
  | a :: b :: l =>
    (match mergeFind ms a b with
      | some m => if m.1 = rank then m.2 :: l else a :: mergeAt ms rank (b :: l)
      | none => a :: mergeAt ms rank (b :: l))
  | l => l

/-- Merges until no pair has an entry. -/
def bpeRun (ms : List (Nat × Nat × Nat × Nat)) : Nat → List Nat → List Nat
  | 0, l => l
  | fuel + 1, l =>
    match bestRank ms l with
    | none => l
    | some r => bpeRun ms fuel (mergeAt ms r l)

/-- The longest vocabulary entry of a kind that a word begins with. -/
def longestEntry (vs : List (List Byte × Bool × Nat)) (cont : Bool) (w : List Byte) : Option (Nat × Nat) :=
  vs.foldl (fun best v =>
    if v.2.1 == cont && w.take v.1.length == v.1 && (best.all (fun b => decide (b.1 < v.1.length))) then some (v.1.length, v.2.2) else best) none

/-- The entries of a word from a position on; none where some position has no match. -/
def wordIds (vs : List (List Byte × Bool × Nat)) : Nat → Bool → List Byte → Option (List Nat)
  | 0, _, _ => none
  | fuel + 1, cont, w =>
    if w.isEmpty then some []
    else match longestEntry vs cont w with
      | none => none
      | some (n, v) => (wordIds vs fuel true (w.drop n)).map (fun l => v :: l)

/-- The tokens of a WordPiece piece. -/
def wordTokens (vs : List (List Byte × Bool × Nat)) (unk : Nat) (p : List Byte) : List Nat :=
  let w := if p.headD 0 = 0x20 then p.drop 1 else p
  if w.isEmpty then []
  else if 100 < w.length then [unk]
  else (wordIds vs (w.length + 1) false w).getD [unk]

end Sys2Proof.Machine
end

