-- ==== Sys2Proof/Machine/Ingest.lean ====
section
/-!
DEFINITION. The ingest pipes: INGQ, starting and stopping, the message records, the stages, quarantine and results
(R208-R219, R378).
-/

namespace Sys2Proof.Machine

/-- Pipe p: 0-7 on X0, 8-15 on X1. -/
def getPipe (d : Data) (p : Nat) : Pipe := (getIo d (p / 8)).pipes.getD (p % 8) Pipe.reset

/-- That pipe changed. -/
def modPipe (d : Data) (p : Nat) (h : Pipe → Pipe) : Data :=
  modIo d (p / 8) (fun x => { x with pipes := x.pipes.set (p % 8) (h (x.pipes.getD (p % 8) Pipe.reset)) })

/-- The pipe stands still: a fault has stalled it, or it holds a record the mailbox has not accepted (R23, R216). -/
def pipeStill (d : Data) (p : Nat) : Bool := (getPipe d p).stalled || unitHeld d 7 (4 + p / 8) (p % 8)

/-- The requester of pipe p: it translates through the shared TLB of C0 or C1 (R264, R291). -/
def reqPipe (p : Nat) : Req := { mid := 0xC8 + p, floe := none, die := p / 8 }

/-! ## The pipe descriptor (R209) -/

/-- QRE. -/
def pdQre (w : List Word) : Nat := wb (dwAt w 0) 48 5
/-- RATIO. -/
def pdRatio (w : List Word) : Nat := wb (dwAt w 0) 40 8
/-- TOK: WordPiece. -/
def pdWord (w : List Word) : Bool := (dwAt w 0).getLsbD 32
/-- OQ. -/
def pdOq (w : List Word) : Nat := wb (dwAt w 0) 16 9
/-- IQ. -/
def pdIq (w : List Word) : Nat := wb (dwAt w 0) 0 9
/-- The place and the address of DW i: space in [59:56]. -/
def pdPlace (w : List Word) (i : Nat) : Place := { space := wb (dwAt w i) 56 4, psp := 0, pmod := 0 }
/-- See pdPlace. -/
def pdAddr (w : List Word) (i : Nat) : Nat := wb (dwAt w i) 0 52
/-- UNK. -/
def pdUnk (w : List Word) : Nat := wb (dwAt w 4) 32 19
/-- VSIZE. -/
def pdVsize (w : List Word) : Nat := wb (dwAt w 4) 0 19
/-- NENT. -/
def pdNent (w : List Word) : Nat := wb (dwAt w 5) 0 32

/-- A space an address of a pipe may lie in. -/
def pipeSpaceOk (s : Nat) : Bool := s == 1 || s == 3 || s == 4 || s == 5

/-- An address doubleword of the descriptor is well formed. -/
def pdAddrOk (w : List Word) (i : Nat) : Bool := wb (dwAt w i) 60 4 == 0 && wb (dwAt w i) 52 4 == 0 && pipeSpaceOk (wb (dwAt w i) 56 4)

/-- A reserved field is non-zero, or a field is outside its range (code 0x02). -/
def pipeDescBad (w : List Word) : Bool :=
  let w0 := dwAt w 0
  wb w0 53 11 != 0 || wb w0 33 7 != 0 || wb w0 25 7 != 0 || wb w0 9 7 != 0 || decide (pdQre w < 4) || decide (16 < pdQre w) ||
  pdRatio w == 0 || ! pdAddrOk w 1 || pdAddr w 1 % 64 != 0 || ! pdAddrOk w 2 ||
  (if pdWord w then dwAt w 3 != 0 else ! pdAddrOk w 3) ||
  wb (dwAt w 4) 51 13 != 0 || wb (dwAt w 4) 19 13 != 0 || pdVsize w == 0 || decide (2 ^ 18 < pdVsize w) || decide (pdVsize w ≤ pdUnk w) ||
  wb (dwAt w 5) 32 32 != 0 || pdNent w == 0 || decide (2 ^ 24 < pdNent w) || dwAt w 6 != 0 || dwAt w 7 != 0

/-! ## INGQ (R209, R378) -/

/-- The I/O die of a pipe is in reset, or holds its units in reset (R25, R302). -/
def pipeDown (d : Data) (p : Nat) : Bool := (getIo d (p / 8)).inReset || (getIo d (p / 8)).held

/-- The first checks of INGQ: ILLEGAL 0x05, ENGINE 0x51 for a pipe of an I/O die in reset (R25), then ACCESS with the right. -/
def pipeCheck (d : Data) (v : Word) (right : Nat) : Check :=
  if wb v 4 60 ≠ 0 then some (1, 5)
  else if pipeDown d v.toNat then some (0x10, 0x51)
  else if aclOk d (46 + v.toNat / 8) d.curF right (v.toNat * 4096) 1 then none
  else some (7, right)

/-- The checks of INGQ.start before its descriptor is read. -/
def startCheck (d : Data) (v : Word) (n : BitVec 4) : Check :=
  match pipeCheck d v 4 with
  | some fc => some fc
  | none =>
    match blockTile d n with
    | .error fc => some fc
    | .ok _ => none

/-- INGQ.start (R209, R378): its issue waits for the read of the descriptor. -/
def execIngqStart (g : Guard) (tag : BitVec 6) (t : BitVec 4) (a : BitVec 5) (s : State) : Host.Outcome State Fault Refusal :=
  nextD s (fun d => issueS d g [a] (viewRegs (curTp d) t) (fun d => tagFree d tag (fun d => whenFree d true false false (fun d =>
    match startCheck d (rs d a) t with
    | some (cls, cause) => trap d cls cause
    | none => blockCur d (.issue (.ingqStart g tag t a))))))

/-- The issue of INGQ.start completes (ISSUE_COMPLETION): its request reaches the pipe. -/
def ingqRead (d : Data) (tag : BitVec 6) (n : BitVec 4) (a : BitVec 5) : Data :=
  match blockTile d n with
  | .error fc => trap d fc.1 fc.2
  | .ok (e, ad) =>
    match readWordsAt d (reqFloe d.curF) (ltePlace e) ad 8 with
    | (d, .error fc) => trap d fc.1 fc.2
    | (d, .ok w) =>
      let o := (curTp d).owner
      if pipeDown d (rn d a) then trap d 0x10 0x51
      else retireAt (modCur (modPipe d (rn d a) (fun p => { p with reqs := p.reqs ++ [(some w, o, tag)] })) (fun t => beginCmd t tag false))
        d.curF d.curK

/-- A stop takes effect: the pipe pops no more, and the stop waits for its messages (R209). -/
def stopNow (d : Data) (p : Nat) (o : Owner × BitVec 6) : Data :=
  if (getPipe d p).msgs.isEmpty then solTag (modPipe d p (fun x => { x with running := false })) o.1 o.2
  else modPipe d p (fun x => { x with running := false, stopping := x.stopping ++ [o] })

/-- INGQ.stop reaches its pipe, behind the starts that have not acted. -/
def ingqStop (d : Data) (v : Word) (tag : BitVec 6) : Data :=
  let o := (curTp d).owner
  let d := retire (modCur d (fun t => beginCmd t tag false))
  if (getPipe d v.toNat).reqs.isEmpty then stopNow d v.toNat (o, tag)
  else modPipe d v.toNat (fun p => { p with reqs := p.reqs ++ [(none, o, tag)] })

/-- INGQ.stop (R209, R378). -/
def execIngqStop (g : Guard) (tag : BitVec 6) (a : BitVec 5) (s : State) : Host.Outcome State Fault Refusal :=
  nextD s (fun d => issue d g [a] (fun d => tagFree d tag (fun d => whenFree d true false false (fun d =>
    match pipeCheck d (rs d a) 4 with
    | some (cls, cause) => trap d cls cause
    | none => ingqStop d (rs d a) tag))))

/-- The pipe status word (R209). -/
def pipeStatus (p : Pipe) : Word :=
  w64 (p.code % 256 + atBit (bnat p.running) 8 1 + atBit (bnat p.stalled) 9 1 + p.done.toNat * 2 ^ 32)

/-- INGQ.stat (R209, R378). -/
def execIngqStat (g : Guard) (d a : BitVec 5) (s : State) : Host.Outcome State Fault Refusal :=
  nextD s (fun dd => issue dd g [d, a] (fun dd =>
    match pipeCheck dd (rs dd a) 1 with
    | some (cls, cause) => trap dd cls cause
    | none => retire (modCur dd (fun t => sput t d (pipeStatus (getPipe dd (rn dd a)))))))

/-! ## Starting (R209, R378) -/

/-- A record of pipe p; o is the TP concerned, where there is one. -/
def pipeRec (d : Data) (p : Nat) (o : Option Owner) (r : Rec) : Data :=
  let r := { r with utype := 7, entry := p % 8, mid := 0xC8 + p, unit := 4 + p / 8 }
  match o with
  | some o => engineRec d (4 + p / 8) (getPipe d p).lcount o r
  | none => emitRec d (4 + p / 8) (getPipe d p).lcount r

/-- A translation fault stalls the pipe with a STOP record (R216, R378). -/
def pipeStall (d : Data) (p : Nat) (o : Option Owner) (tag pos addr : Nat) (wr : Bool) (fc : Nat × Nat) : Data :=
  pipeRec (modPipe d p (fun x => { x with stalled := true })) p o
    { recZero with kind := 1, cls := fc.1, cause := fc.2, tag := tag, wr := wr, addr := addr, d0 := w64 pos }

/-- A merge entry from its two doublewords: left, right, rank, result. -/
def mergeEnt (w : List Word) : Nat × Nat × Nat × Nat :=
  (wb (dwAt w 0) 0 32, wb (dwAt w 0) 32 32, wb (dwAt w 1) 0 32, wb (dwAt w 1) 32 32)

/-- A vocabulary entry of WordPiece from its four doublewords: length, continuation, ID and bytes. -/
def wordEnt (w : List Word) : Nat × List Byte × Bool × Nat :=
  let n := wb (dwAt w 3) 0 8
  (n, ((w.take 3).flatMap (fun x => numBytes 8 x.toNat)).take n, (dwAt w 3).getLsbD 8, wb (dwAt w 3) 32 32)

/-- A byte string precedes another, a prefix before its extensions. -/
def bytesLt : List Byte → List Byte → Bool
  | _, [] => false
  | [], _ :: _ => true
  | a :: l, b :: m => decide (a.toNat < b.toNat) || (a == b && bytesLt l m)

/-- A list is strictly ascending under an order. -/
def ascending {α : Type} (lt : α → α → Bool) : List α → Bool
  | a :: b :: l => lt a b && ascending lt (b :: l)
  | _ => true

/-- The order of merge entries (R213). -/
def mergeLt (a b : Nat × Nat × Nat × Nat) : Bool := decide (a.1 < b.1) || (a.1 == b.1 && decide (a.2.1 < b.2.1))

/-- The order of vocabulary entries: by continuation bit, then by byte string (R213). -/
def wordLt (a b : List Byte × Bool × Nat) : Bool :=
  (! a.2.1 && b.2.1) || (a.2.1 == b.2.1 && bytesLt a.1 b.1)

/-- The start code of tables that have been read: 0x03, 0x02 for a piece length outside its range, or 0x00 with the pipe's
tables. -/
def tablesCheck (w : List Word) (voc ent : List (List Word)) : Except Nat (List Nat × List (Nat × Nat × Nat × Nat) × List (List Byte × Bool × Nat)) :=
  if pdWord w then
    let es := ent.map wordEnt
    if es.any (fun e => e.1 == 0 || decide (24 < e.1)) then .error 2
    else
      let vs := es.map (fun e => e.2)
      if ! ascending wordLt vs || vs.any (fun v => decide (pdVsize w ≤ v.2.2)) then .error 3 else .ok ([], [], vs)
  else
    let ids := voc.flatMap (fun ws => ws.flatMap (fun x => [wb x 0 32, wb x 32 32]))
    let ms := ent.map mergeEnt
    if ! ascending mergeLt ms || ids.any (fun i => decide (pdVsize w ≤ i)) ||
        ms.any (fun m => decide (pdVsize w ≤ m.1) || decide (pdVsize w ≤ m.2.1) || decide (pdVsize w ≤ m.2.2.2)) then .error 3
    else .ok (ids, ms, [])

/-- A start ends with a code; its tag is set. -/
def startEnd (d : Data) (p code : Nat) (o : Owner × BitVec 6) (h : Pipe → Pipe) : Data :=
  solTag (modPipe d p (fun x => h { x with reqs := x.reqs.drop 1, code := code })) o.1 o.2

/-- A queue of a descriptor is enabled: every handle of nine bits names one (R196, R209). -/
def queueOn (d : Data) (h : Nat) : Bool := (getQ d h).st != .disabled

/-- A read of a table failed at record i: a translation fault stalls the start there, a refusal or an uncorrectable error ends
it with code 0x05, an address outside its space with 0x02. -/
def startFault (d : Data) (p : Nat) (o : Owner × BitVec 6) (e : Nat × Nat × Nat × Nat) : Data :=
  if e.2.2.1 = 5 ∨ e.2.2.1 = 6 then pipeStall d p (some o.1) o.2.toNat e.1 e.2.1 false e.2.2
  else startEnd d p (if e.2.2.1 = 3 then 2 else 5) o id

/-- The oldest request of pipe p is a start: checks, tables, and the pipe runs (R209). -/
def pipeStart (d : Data) (p : Nat) (w : List Word) (o : Owner × BitVec 6) : Data :=
  let x := getPipe d p
  if x.running || ! x.msgs.isEmpty then startEnd d p 1 o id
  else if pipeDescBad w then startEnd d p 2 o id
  else if ! queueOn d (pdIq w) || ! queueOn d (pdOq w) then startEnd d p 4 o id
  else match readRecs d (reqPipe p) (pdPlace w 2) (pdAddr w 2) 1 0 (if pdWord w then 0 else 128) with
    | (d, .error e) => startFault d p o e
    | (d, .ok voc) =>
      let t := if pdWord w then 2 else 3
      match readRecs d (reqPipe p) (pdPlace w t) (pdAddr w t) (if pdWord w then 4 else 2) 0 (pdNent w) with
      | (d, .error e) => startFault d p o e
      | (d, .ok ent) =>
        match tablesCheck w voc ent with
        | .error code => startEnd d p code o id
        | .ok (ids, ms, vs) =>
          startEnd d p 0 o (fun x => { x with desc := w, running := true, vocab := ids, merges := ms, pieces := vs })

/-- The stops at the head of a pipe's requests act. -/
def stopsAct (d : Data) (p : Nat) : Nat → Data
  | 0 => d
  | n + 1 =>
    match (getPipe d p).reqs with
    | (none, o) :: l => stopsAct (stopNow (modPipe d p (fun x => { x with reqs := l })) p o) p n
    | _ => d

/-- INGQ_START_DONE (R209, R378). -/
def execIngqStartDone (p : Nat) (s : State) : Host.Outcome State Fault Refusal :=
  nextD s (fun d =>
    let x := getPipe d p
    match x.reqs with
    | (some w, o) :: _ =>
      if pipeStill d p then d
      else
        let d := pipeStart d p w o
        stopsAct d p (getPipe d p).reqs.length
    | _ => d)

/-- INGQ_STOP_DONE (R209): every record popped has its result entry. -/
def execIngqStopDone (p : Nat) (s : State) : Host.Outcome State Fault Refusal :=
  nextD s (fun d =>
    let x := getPipe d p
    if x.msgs.isEmpty then x.stopping.foldl (fun d o => solTag d o.1 o.2) (modPipe d p (fun x => { x with stopping := [] }))
    else d)

/-! ## Messages (R210, R214, R217-R219) -/

/-- Word i of a message record. -/
def msgW (m : Msg) (i : Nat) : Nat := (m.words.getD i 0).toNat
/-- CS. -/
def msgCs (m : Msg) : Nat := fld (msgW m 1) 8 8
/-- STRICT. -/
def msgStrict (m : Msg) : Bool := (msgW m 1).testBit 5
/-- Place and address of IN (word 2) or OUT (word 5). -/
def msgPlace (m : Msg) (i : Nat) : Place := { space := fld (msgW m (i + 1)) 20 4, psp := 0, pmod := 0 }
/-- See msgPlace. -/
def msgAddr (m : Msg) (i : Nat) : Nat := msgW m i + fld (msgW m (i + 1)) 0 20 * 2 ^ 32
/-- ILEN. -/
def msgIlen (m : Msg) : Nat := msgW m 4
/-- BUDGET. -/
def msgBudget (m : Msg) : Nat := msgW m 7

/-- A record breaks R210 or R212. -/
def msgBad (m : Msg) : Bool :=
  fld (msgW m 1) 16 16 != 0 || ! charsetOk (msgCs m) || decide (2 < fld (msgW m 1) 3 2) || decide (4 < msgW m 1 % 8) ||
  fld (msgW m 3) 24 8 != 0 || ! pipeSpaceOk (fld (msgW m 3) 20 4) || fld (msgW m 6) 24 8 != 0 || ! pipeSpaceOk (fld (msgW m 6) 20 4) ||
  msgIlen m == 0 || decide (67108864 < msgIlen m) || msgW m 5 % 4 != 0 || msgBudget m == 0 || decide (16777216 < msgBudget m)

/-- A message from its queue entry. -/
def msgOf (data : List Word) : Msg :=
  { words := halves data, raw := data, ins := List.replicate 5 [], taken := List.replicate 5 0, fin := List.replicate 5 false,
    toks := [], formed := 0, written := 0, spoilt := 0, quar := none, entryDone := false }

/-- Message i of pipe p changed. -/
def modMsg (d : Data) (p i : Nat) (h : Msg → Msg) : Data :=
  modPipe d p (fun x => { x with msgs := x.msgs.zipIdx.map (fun e => if e.2 = i then h e.1 else e.1) })

/-- Message i of pipe p. -/
def msgAt (d : Data) (p i : Nat) : Msg := (getPipe d p).msgs.getD i (msgOf [])

/-- Entries in the quarantine ring and its producer index (R219): the first fault of the reads. -/
def ringLevel (d : Data) (p : Nat) : Data × Acc (Nat × Nat) :=
  let w := (getPipe d p).desc
  match readAt d (reqPipe p) (pdPlace w 1) (pdAddr w 1) 8 with
  | (d, .error fc) => (d, .error fc)
  | (d, .ok prod) =>
    match readAt d (reqPipe p) (pdPlace w 1) (pdAddr w 1 + 8) 8 with
    | (d, .error fc) => (d, .error fc)
    | (d, .ok cons) => (d, .ok (prod, (w64 prod - w64 cons).toNat))

/-- The quarantine entry of a message (R219). -/
def quarWords (d : Data) (p : Nat) (m : Msg) : List Word :=
  let q := m.quar.getD (0, 0, 0)
  m.raw ++ [w64 (q.1 % 256 + atBit q.2.1 8 3 + atBit p 16 4), w64 q.2.2, w64 (getPipe d p).lcount, w64 (getIo d (p / 8)).feCount]

/-- The quarantine entry is behind the message: written, or refused. -/
def quarDone (d : Data) (p i : Nat) : Data := modMsg (modPipe d p (fun x => { x with wi := x.wi + 1 })) p i (fun m => { m with entryDone := true })

/-- A fault on the quarantine ring: a translation fault stalls the pipe; any other is reported, and the pipe goes on. -/
def quarFault (d : Data) (p i a : Nat) (wr : Bool) (fc : Nat × Nat) : Data :=
  if fc.1 = 5 ∨ fc.1 = 6 then pipeStall d p none 0 0 a wr fc
  else quarDone (pipeRec d p none { recZero with kind := 6, cls := fc.1, cause := fc.2, wr := wr, addr := a }) p i

/-- The quarantine entry of message i is written where the ring has room (R218, R219). -/
def quarEntry (d : Data) (p i : Nat) : Data :=
  let w := (getPipe d p).desc
  match ringLevel d p with
  | (d, .error fc) => quarFault d p i (pdAddr w 1) false fc
  | (d, .ok (prod, level)) =>
    if 2 ^ pdQre w ≤ level then d
    else
      let a := pdAddr w 1 + 64 + 64 * (prod % 2 ^ pdQre w)
      match writeWordsAt d (reqPipe p) (pdPlace w 1) a (quarWords d p (msgAt d p i)) with
      | (d, .error fc) => quarFault d p i a true fc
      | (d, .ok _) =>
        match writeAt d (reqPipe p) (pdPlace w 1) (pdAddr w 1) 8 ((prod + 1) % 2 ^ 64) false with
        | (d, .error fc) => quarFault d p i (pdAddr w 1) true fc
        | (d, .ok _) => quarDone d p i

/-- The next tokens of a quarantined message, formed and not yet written, are written with poison (R218 step 1): a translation
fault stalls the pipe there (R216), and a token whose write is refused is left out. -/
def poisonToks (d : Data) (p i : Nat) : Nat → Data
  | 0 => d
  | n + 1 =>
    let m := msgAt d p i
    match m.toks with
    | [] => d
    | t :: _ =>
      let k := m.written + m.spoilt
      let a := msgAddr m 5 + 4 * k
      let next : Data → Data := fun d =>
        poisonToks (modMsg d p i (fun m => { m with toks := m.toks.drop 1, spoilt := m.spoilt + 1 })) p i n
      if msgBudget m ≤ k then next d
      else match writeAt d (reqPipe p) (msgPlace m 5) a 4 t.1 true with
        | (d, .ok _) => next d
        | (d, .error fc) => if fc.1 = 5 ∨ fc.1 = 6 then pipeStall d p none 0 (4 * k) a true fc else next d

/-- A quarantined message goes on (R218): its tokens, then its entry. -/
def quarStep (d : Data) (p i : Nat) : Data :=
  let d := poisonToks d p i (msgAt d p i).toks.length
  if (msgAt d p i).toks.isEmpty then quarEntry d p i else d

/-- Message i is quarantined (R217, R218). -/
def quarantine (d : Data) (p i code st offs : Nat) : Data :=
  quarStep (modMsg d p i (fun m => { m with quar := some (code, st, offs) })) p i

/-- QUARANTINE_RING_RESUME (R219): a message that waits for the ring, or whose quarantine a fault has stalled, tries again. -/
def execQuarantineRingResume (p : Nat) (s : State) : Host.Outcome State Fault Refusal :=
  nextD s (fun d =>
    if pipeStill d p then d
    else match (getPipe d p).msgs.findIdx? (fun m => m.quar.isSome && ! m.entryDone) with
      | none => d
      | some i => quarStep d p i)

/-- INGEST_RECORD_POP (R209, R214): a running pipe takes the head of its input queue; the record check follows. -/
def recordPop (d : Data) (p : Nat) : Data :=
  let x := getPipe d p
  let h := pdIq x.desc
  let q := getQ d h
  if x.running && ! pipeStill d p && (popWaiters d h).isEmpty && aclOk d (42 + h / 128) (0xC8 + p) 1 (h % 128 * 4096) 1 then
    match q.hw with
    | [] => d
    | e :: es =>
      if poppable d e && q.st != .disabled then
        let m := msgOf e.data
        let d := modPipe (modQ d h (fun q => { q with hw := es })) p (fun x => { x with msgs := x.msgs ++ [m] })
        let i := x.msgs.length
        if msgBad m then quarantine d p i 0x10 0 0
        else if e.psn then quarantine d p i 0x19 0 0
        else d
      else d
  else d

/-- INGEST_RECORD_POP. -/
def execIngestRecordPop (p : Nat) (s : State) : Host.Outcome State Fault Refusal := nextD s (fun d => recordPop d p)

/-! ## Stages (R211, R215-R217) -/

/-- The message stage st works on: the first that is not quarantined and not through it, with none waiting for the quarantine
ring before it. -/
def stageMsg (l : List Msg) (st : Nat) : Option Nat :=
  match l.findIdx? (fun m => (m.quar.isSome && ! m.entryDone) || (m.quar.isNone && (! m.fin.getD (st - 1) false || (st == 5 && ! m.toks.isEmpty)))) with
  | some i => if (l.getD i (msgOf [])).quar.isNone then some i else none
  | none => none

/-- What stages 1 to 4 have made of the bytes they have taken. Stage 1 knows its last byte by ILEN. -/
def stageOut (ratio : Nat) (m : Msg) (st : Nat) (inp : List Byte) (ended : Bool) : StageOut :=
  match st with
  | 1 => stageUnpack (msgW m 1 % 8) (ratio * msgIlen m) inp (ended || decide (msgIlen m ≤ inp.length))
  | 2 => stageXfer (fld (msgW m 1) 3 2) (msgStrict m) inp ended
  | 3 => stageChars (msgCs m) (msgStrict m) inp ended
  | _ => stageNorm ((msgW m 1).testBit 6) ((msgW m 1).testBit 7) inp

/-- The tokens of the pieces that are complete in the bytes stage 5 has taken, each with the offset of its piece (R213). -/
def stageToks (x : Pipe) (inp : List Byte) (ended : Bool) : List (Nat × Nat) :=
  (piecesFrom ended inp 0 []).flatMap (fun pc =>
    (if pdWord x.desc then wordTokens x.pieces (pdUnk x.desc) pc.2
     else bpeRun x.merges pc.2.length (pc.2.map (fun b => x.vocab.getD b.toNat 0))).map (fun t => (t, pc.1)))

/-- A stage of message i has taken n bytes of its input, and its last where ended: what it makes of them goes on. -/
def stageTake (d : Data) (p i st n : Nat) (ended : Bool) : Data :=
  let x := getPipe d p
  let m := msgAt d p i
  let inp := (m.ins.getD (st - 1) []).take n
  let d := modMsg d p i (fun m => { m with taken := m.taken.set (st - 1) n, fin := m.fin.set (st - 1) ended })
  if st = 5 then
    let ts := stageToks x inp ended
    modMsg d p i (fun m => { m with toks := m.toks ++ ts.drop m.formed, formed := ts.length })
  else
    let r := stageOut (pdRatio x.desc) m st inp ended
    let d := modMsg d p i (fun m => { m with ins := m.ins.set st r.1 })
    match r.2 with
    | some (code, offs) => quarantine d p i code st offs
    | none => d

/-- Stage 1 reads the next byte of the message's input (R216, R217). -/
def stageRead (d : Data) (p i : Nat) : Data :=
  let m := msgAt d p i
  let n := m.taken.getD 0 0
  if msgIlen m ≤ n then stageTake d p i 1 n true
  else match readAt d (reqPipe p) (msgPlace m 2) (msgAddr m 2 + n) 1 with
    | (d, .ok b) =>
      stageTake (modMsg d p i (fun m => { m with ins := m.ins.set 0 (m.ins.getD 0 [] ++ [BitVec.ofNat 8 b]) })) p i 1 (n + 1) false
    | (d, .error fc) =>
      if fc.1 = 5 ∨ fc.1 = 6 then pipeStall d p none 0 n (msgAddr m 2 + n) false fc
      else quarantine d p i (if fc.1 = 0x0C then 0x19 else if fc.1 = 3 then 0x10 else 0x18) 1 n

/-- Stage 5 writes the next token (R213, R217). Uncorrectable data that a page walk meets refuses the write like a denial (log entry 190). -/
def tokWrite (d : Data) (p i : Nat) (t : Nat × Nat) : Data :=
  let m := msgAt d p i
  let a := msgAddr m 5 + 4 * m.written
  if msgBudget m ≤ m.written then quarantine d p i 0x17 5 t.2
  else match writeAt d (reqPipe p) (msgPlace m 5) a 4 t.1 false with
    | (d, .ok _) =>
      modMsg (modPipe d p (fun x => { x with wi := x.wi + 1 })) p i (fun m => { m with toks := m.toks.drop 1, written := m.written + 1 })
    | (d, .error fc) =>
      if fc.1 = 5 ∨ fc.1 = 6 then pipeStall d p none 0 (4 * m.written) a true fc
      else quarantine d p i (if fc.1 = 3 then 0x10 else 0x18) 5 t.2

/-- Stage st of pipe p takes one more byte of the message it works on, or its end; stage 5 writes a token it has formed
first, and waits with the next message until the result of the one before has been pushed (R215). -/
def stageStep (d : Data) (p st : Nat) : Data :=
  let x := getPipe d p
  if pipeStill d p then d
  else match stageMsg x.msgs st with
    | none => d
    | some i =>
      let m := msgAt d p i
      let n := m.taken.getD (st - 1) 0
      if st = 5 ∧ i ≠ 0 then d
      else if st = 1 then stageRead d p i
      else match (if st = 5 then m.toks else []) with
        | t :: _ => tokWrite d p i t
        | [] =>
          if n < (m.ins.getD (st - 1) []).length then stageTake d p i st (n + 1) false
          else if m.fin.getD (st - 2) false then stageTake d p i st n true
          else d

/-- INGEST_STAGE (R211, R213, R217). -/
def execIngestStage (p st : Nat) (s : State) : Host.Outcome State Fault Refusal := nextD s (fun d => stageStep d p st)

/-! ## Results (R208, R214, R218) -/

/-- A message is through the pipe: its tokens are written, or its quarantine entry is. -/
def msgThrough (m : Msg) : Bool := if m.quar.isSome then m.entryDone else m.fin.getD 4 false && m.toks.isEmpty

/-- The result entry of a message (R214), with the role identity of its last stage and, when quarantined, its poison. -/
def resultEnt (x : Pipe) (p : Nat) (m : Msg) : HwqEnt :=
  let q := m.quar.getD (0, 5, 0)
  let status := match m.quar with
    | some e => e.1 % 256 + atBit e.2.1 8 3
    | none => 0
  { data := [w64 (msgW m 0 + status * 2 ^ 32), w64 (msgW m 5 + msgW m 6 * 2 ^ 32),
             w64 (m.written + min (m.ins.getD 4 []).length 0xFFFFFFFF * 2 ^ 32), w64 (msgIlen m)],
    stamp := x.wi, sc := 4, mid := 0xC8 + p, role := 0x40 + p % 8 * 8 + q.2.1, psn := m.quar.isSome, cause := q.1, prod := none }

/-- The oldest message's result is pushed where the output queue admits a push (R214, R215). -/
def resultPush (d : Data) (p : Nat) : Data :=
  let x := getPipe d p
  let h := pdOq x.desc
  match x.msgs with
  | [] => d
  | m :: _ =>
    if msgThrough m && ! unitHeld d 7 (4 + p / 8) (p % 8) && (pushWaiters d h).isEmpty && aclOk d (42 + h / 128) (0xC8 + p) 2 (h % 128 * 4096) 1 then
      let d' := pushDo d h (resultEnt x p m)
      if pushTook d d' h then modPipe d' p (fun x => { x with msgs := x.msgs.drop 1, done := x.done + 1 }) else d'
    else d

/-- INGEST_RESULT_PUSH. -/
def execIngestResultPush (p : Nat) (s : State) : Host.Outcome State Fault Refusal := nextD s (fun d => resultPush d p)

end Sys2Proof.Machine
end

