-- ==== Sys2Proof/Machine/Rook.lean ====
section
/-!
DEFINITION. The Rook extension (R247): RFET, BFXT, SGWT, DSPT and SGST (R335, R349, R419, R424, R426), the signal condition of
a WAIT (R254), and the launch write that places a TP or places it again (R22, R36, R44, R410).
-/

namespace Sys2Proof.Machine

/-- The issuing Rook core takes an exception with xtval (R335): its registers are unchanged. -/
def rookRaise (d : Data) (cause : Nat) (xtval : Word) : Data :=
  modRook (rookTrap d cause) d.curR (fun k => { k with mtval := xtval })

/-- The issuing Rook core as a requester (R291). -/
def reqCore (d : Data) : Req := { mid := 0xD8 + d.curR, floe := none, die := d.curR / 4 }

/-- xtval of an access that failed: 3 uncorrectable data, 2 a denial, 1 a translation fault (R419). -/
def accXtval (fc : Nat × Nat) : Word := if fc.1 = 0x0C then 3 else if fc.1 = 7 ∨ fc.1 = 0x10 then 2 else 1

/-- An address field of the form of R225 for an object aligned to n bytes (R252, R457). -/
def addrForm (v : Word) (n : Nat) : Bool :=
  wb v 56 8 == 0 && (wb v 52 4 == 1 || wb v 52 4 == 3 || wb v 52 4 == 4 || wb v 52 4 == 5) && wb v 0 52 % n == 0

/-! ## RFET and BFXT -/

/-- RFET's effect (R419). -/
def rfetEffect (d : Data) (rd : BitVec 5) (v n : Word) : Data :=
  let q := wb v 0 12
  let s := getSwq d q
  let re := (s.map (fun s => s.re)).getD 0
  let ring := (s.map (fun s => s.ring)).getD (0, 0)
  match readWordsAt d (reqCore d) { space := ring.1, psp := 0, pmod := 0 } (ring.2 + 64 * (wb n 0 48 % 2 ^ re)) 8 with
  | (d, .error fc) => rookRaise (swqFault d q 1 1 0) 24 (accXtval fc)
  | (d, .ok ws) => rookDone (modRook d d.curR (fun k => { k with packet := ws, pktQueue := q })) rd (ws.getD 0 0)

/-- RFET (R419). -/
def execRfet (rd rs1 rs2 : BitVec 5) (s : State) : Host.Outcome State Fault Refusal :=
  nextD s (fun d => rfetEffect d rd (xget d rs1) (xget d rs2))

/-- BFXT (R335). -/
def execBfxt (rd rs1 rs2 : BitVec 5) (s : State) : Host.Outcome State Fault Refusal :=
  nextD s (fun d =>
    let v := xget d rs2
    let l := wb v 8 7
    if l = 0 ∨ 64 < l then rookRaise d 25 v else rookDone d rd (w64 (wb (xget d rs1) (wb v 0 6) l)))

/-! ## Signals: SGWT and SGST -/

/-- TYPE of a packet (R252). -/
def pktType (p : List Word) : Nat := wb (p.getD 0 0) 0 8

/-- The signal of a WAIT or SIGNAL packet. -/
def pktSignal (p : List Word) : Place × Nat := placeOf (p.getD 1 0)

/-- The condition COND of a WAIT on a signal's value (R254). -/
def waitHolds (cond s ref : Nat) : Bool :=
  match cond with
  | 0 => decide ((s + 2 ^ 32 - ref) % 2 ^ 32 < 2 ^ 31)
  | 1 => s == ref
  | 2 => s != ref
  | _ => (s &&& ref) != 0

/-- COND of a WAIT packet. -/
def pktCond (p : List Word) : Nat := wb (p.getD 0 0) 16 3
/-- REF of a WAIT packet, V of a SIGNAL packet. -/
def pktRef (p : List Word) : Nat := wb (p.getD 2 0) 0 32
/-- OP of a SIGNAL packet. -/
def pktOp (p : List Word) : Nat := wb (p.getD 0 0) 16 2

/-- A packet of another type than TYPE, or a COND that names no condition, is not one SGWT evaluates (R426). -/
def sgwtEffect (d : Data) (rd : BitVec 5) : Data :=
  let k := getRook d d.curR
  let p := k.packet
  if pktType p ≠ 3 then rookRaise d 26 4
  else match readAt d (reqCore d) (pktSignal p).1 (pktSignal p).2 4 with
    | (d, .error fc) => rookRaise (swqFault d k.pktQueue 1 5 0) 26 (accXtval fc)
    | (d, .ok x) => rookDone d rd (w64 (bnat (waitHolds (pktCond p) x (pktRef p))))

/-- SGWT (R426): the sources are x0, else the illegal-instruction exception. -/
def execSgwt (rd : BitVec 5) (s : State) : Host.Outcome State Fault Refusal := nextD s (fun d => sgwtEffect d rd)

/-- The signal operation SGST performs: none when the packet has none (R424). -/
def sgstOp (p : List Word) : Option (Nat × (Place × Nat) × Nat) :=
  match pktType p with
  | 4 => some (pktOp p, pktSignal p, pktRef p)
  | 1 => some (0, placeOf (p.getD 6 0), wb (p.getD 7 0) 0 32)
  | 2 => some (0, placeOf (p.getD 6 0), wb (p.getD 7 0) 0 32)
  | _ => none

/-- SGST's effect (R424). -/
def sgstEffect (d : Data) (rd : BitVec 5) : Data :=
  let k := getRook d d.curR
  match sgstOp k.packet with
  | none => rookRaise d 28 4
  | some (op, place, v) =>
    if pktType k.packet ≠ 4 ∧ k.packet.getD 6 0 = 0 then rookDone d rd 0
    else match signalOp d (reqCore d) op place v with
      | (d, .error fc) => rookRaise (swqFault d k.pktQueue 1 5 0) 28 (accXtval fc)
      | (d, .ok old) => rookDone d rd (w64 old)

/-- SGST (R424). -/
def execSgst (rd : BitVec 5) (s : State) : Host.Outcome State Fault Refusal := nextD s (fun d => sgstEffect d rd)

/-! ## DSPT (R349) -/

/-- A slot image is malformed: a reserved field, ROLE, PRIO or KIND (R349). -/
def imageBad (w : List Word) : Bool :=
  let h := w.getD 0 0
  wb h 36 28 != 0 || wb h 15 1 != 0 || wb h 5 3 != 0 || wb (w.getD 2 0) 52 12 != 0 || wb (w.getD 2 0) 0 2 != 0 ||
    wb (w.getD 3 0) 16 48 != 0 || (w.drop 4).any (fun x => x != 0) || wb h 13 2 == 3 || decide (23 < wb h 8 5) ||
    decide (1 < wb h 3 2) || (wb h 3 2 == 1 && wb (w.getD 2 0) 0 10 != 0)

/-- A floe the front end has masked for a DELTA has drained: no command naming a port, nor an MMOV that holds one as a command does
(R400), no word in the field (R256). -/
def maskDrained (fl : Floe) : Bool :=
  let x := fl.field
  let empty : List (List QEnt) → Bool := fun l => l.all List.isEmpty
  ! (fl.streams.filterMap id).any (fun c => c.ip.isSome || c.op.isSome) && fl.feed.isNone &&
    ! fl.nodes.any (fun n => n.moves.any (fun m => m.holdsPort)) &&
    empty x.ipq && empty x.opq && empty x.rq && empty x.wq && empty x.links && empty x.agIn && empty x.agOut && x.sink.isEmpty &&
    x.groups.all (fun g => g.commits.isEmpty) && x.gens.all (fun g => g.reads.isEmpty && g.writes.isEmpty)

/-- A BRK or a stalemate has set the floe's masks. -/
def stopMasked (d : Data) (fl : Floe) : Bool :=
  fl.judged || (match fl.lid with
    | none => false
    | some l => match getRegion d l with
      | none => false
      | some r => r.held)

/-- The floe is idle for a launch write of launch lid to slot k, or drained and halted by the front end (R349). -/
def dsptIdle (d : Data) (f k lid : Nat) : Bool :=
  let fl := getFloe d f
  ! stopMasked d fl &&
    (((slotOf fl k).st == .empty && fl.slots.all (fun s => s.st == .empty || s.tp.owner.lid == lid)) ||
      (fl.halting && fl.halted) || (fl.deltaMask && maskDrained fl))

/-- A placed TP's buffers are filled from its mailbox (R36, R44). -/
def mailRefill (d : Data) (f k : Nat) : Data :=
  (List.range 16).foldl (fun d i => mailToBuf d f k (i / 4)) d

/-- In a co-resident launch no TP issues before all are placed: the masks clear with the last placement (R51). -/
def coPlaced (d : Data) (lid : Nat) : Data :=
  match getRegion d lid with
  | none => d
  | some r =>
    if coResident (some r) && r.tps.all (fun s => s != .waiting) then
      { d with floes := d.floes.map (fun fl =>
          if fl.lid == some lid && ! fl.halting && ! fl.deltaMask then { fl with slots := fl.slots.map (fun s => { s with mask := false }) }
          else fl) }
    else d

/-- The mailbox indices of a TP as its placement writes them (R46). They count from the launch's acceptance: words mailed while the TP
was WAITING are in them, and they go on over a placement after PARK (DESIGN CHOICE, log entry 164). -/
def placeIndices (d : Data) (q : Req) (o : Owner) : Data :=
  match getRegion d o.lid with
  | none => d
  | some r =>
    match mailIndices d q r o.n (mailOf r o.n).1 (mailOf r o.n).2.1 with
    | (d, .error fc) => areaFault d r fc (regCtx r + 1024 * o.n + 0x3F0)
    | (d, .ok _) => d

/-- The launch write of a slot by requester q: the TP becomes LIVE (R36). -/
def placeSlot (d : Data) (q : Req) (f k : Nat) (s : Slot) : Data :=
  let fl := getFloe d f
  let o := s.tp.owner
  let m := fl.halting || fl.deltaMask || coWaits d o.lid
  let d := modSlot d f k (fun _ => { s with
    st := .live, trapped := false, mask := m, aged := false, wait := 0, yield := false, block := .none, hung := false })
  coPlaced (mailRefill (placeIndices (setStatus d o.lid o.n .placed) q o) f k) o.lid

/-- The role of the ROLE field. -/
def imageRole (n : Nat) : Role :=
  match n with
  | 0 => .loader
  | 1 => .arithmetic
  | _ => .epilogue

/-- A slot image of KIND 0: the TP of R27 at its entry (R36). -/
def imageSlot (w : List Word) : Slot :=
  let h := w.getD 0 0
  let p := BitVec.ofNat 5 (wb h 8 5)
  { Slot.reset with
    prio := p, role := imageRole (wb h 13 2),
    tp := { Tp.reset with wid := w.getD 1 0, pc := BitVec.ofNat 52 (wb (w.getD 2 0) 0 52), prioMax := p,
                          owner := ⟨wb (w.getD 3 0) 0 16, wb h 16 20⟩ } }

/-- The parked context a slot image of KIND 1 names (R44, R410). -/
def imageParked (d : Data) (w : List Word) : Option (Region × Slot) :=
  match getRegion d (wb (w.getD 3 0) 0 16) with
  | none => none
  | some r =>
    let n := wb (w.getD 0 0) 16 20
    if wb (w.getD 2 0) 0 52 = regCtx r + 1024 * n then (assocGet r.parkedTps n).map (fun s => (r, s)) else none

/-- A requester reads the context record of TP n of a launch (R46). -/
def readContext (d : Data) (q : Req) (r : Region) (n : Nat) : Data × Acc Unit :=
  match reach d q vaPlace (regCtx r + 1024 * n) 0x3F0 .read with
  | (d, .error fc) => (d, .error fc)
  | (d, .ok loc) => if poisoned d loc 0x3F0 then (d, .error (0x0C, eccuCause loc)) else (d, .ok ())

/-- Requester q places a parked TP again from its context record (R44, R410): a read that fails ends the launch (R455). -/
def replaceTp (d : Data) (q : Req) (r : Region) (f k : Nat) (s : Slot) : Data × Acc Unit :=
  let n := s.tp.owner.n
  match readContext d q r n with
  | (d, .error fc) => (areaFault d r fc (regCtx r + 1024 * n), .error fc)
  | (d, .ok _) => (placeSlot (modRegion d r.lid (fun r => { r with parkedTps := assocDel r.parkedTps n })) q f k s, .ok ())

/-- DSPT with its image read and well formed, on a floe that may take the write. -/
def dsptWrite (d : Data) (rd : BitVec 5) (f : Nat) (w : List Word) : Data :=
  let k := wb (w.getD 0 0) 0 3
  if wb (w.getD 0 0) 3 2 = 0 then rookDone (placeSlot d (reqCore d) f k (imageSlot w)) rd 0
  else match imageParked d w with
    | none => rookRaise d 27 2
    | some (r, s) =>
      match replaceTp d (reqCore d) r f k s with
      | (d, .error _) => rookRaise d 27 3
      | (d, .ok _) => rookDone d rd 0

/-- DSPT's effect (R349); a record of the floe that is not written or not read delays it (R26). -/
def dsptEffect (d : Data) (rd : BitVec 5) (v a : Word) : Data :=
  let f := wb v 0 8
  if 144 ≤ f ∨ (getDie d (dieOf f)).inReset = true then rookRaise d 27 4
  else if recUnread d f then d
  else match readWordsAt d (reqCore d) (placeOf a).1 (placeOf a).2 128 with
    | (d, .error _) => rookRaise d 27 3
    | (d, .ok w) =>
      if imageBad w then rookRaise d 27 2
      else if dsptIdle d f (wb (w.getD 0 0) 0 3) (wb (w.getD 3 0) 0 16) then dsptWrite d rd f w
      else rookRaise d 27 1

/-- DSPT (R349): rs1 names the floe, rs2 the slot image. -/
def execDspt (rd rs1 rs2 : BitVec 5) (s : State) : Host.Outcome State Fault Refusal :=
  nextD s (fun d => dsptEffect d rd (xget d rs1) (xget d rs2))

/-! ## Placement by the front end (R36, R44) -/

/-- The slot of TP n of a launch at its first placement: WID, program entry, priority and role (R27, R32, R34). -/
def entrySlot (r : Region) (n : Nat) : Slot :=
  let vs := levelsOf r.hdr n
  let e := programEntry r.hdr vs
  let p := BitVec.ofNat 5 (peePrio e)
  { Slot.reset with
    prio := p, role := peeRole e,
    tp := { Tp.reset with wid := widOf r.hdr vs, pc := BitVec.ofNat 52 (peeCode e), prioMax := p, owner := ⟨r.lid, n⟩ } }

/-- A parked TP may be placed again: its saved buffers or its mailbox hold a word for a bound channel (R410). -/
def parkedWakes (r : Region) (n : Nat) : Bool :=
  match assocGet r.parkedTps n with
  | none => false
  | some s => (List.range 4).any (fun c =>
      s.tp.bound.getD c false && (! (s.tp.bufs.getD c []).isEmpty || ! (mailFor r n c).isEmpty))

/-- TP n is to be placed: WAITING, or PARKED and awake. -/
def placeDue (r : Region) (n : Nat) : Bool :=
  match tpStatus r n with
  | .waiting => true
  | .parked => parkedWakes r n
  | _ => false

/-- The slot a TP takes on a floe that can be written now (R22, R26): of several EMPTY ones the lowest (DESIGN CHOICE, log entry 161). -/
def freeSlot (d : Data) (f : Nat) : Option Nat :=
  let fl := getFloe d f
  if (getDie d (dieOf f)).inReset || recUnread d f || fl.halting || stopMasked d fl then none
  else (List.range 8).find? (fun k => (slotOf fl k).st == .empty)

/-- The firmware of a launch's front end places the lowest TP that is due and has a slot on its home floe: so a floe takes the lower
ones of its TPs first (R36, R44). It is in no
step of the opcode table, for the firmware's own words are not of this machine (DESIGN CHOICE, log entry 150). -/
def placeNext (d : Data) (lid : Nat) : Data :=
  match getRegion d lid with
  | none => d
  | some r =>
    if r.st ≠ .resident ∨ (getIo d r.x).inReset = true then d
    else
      match (List.range r.tps.length).findSome? (fun n =>
        if placeDue r n then (freeSlot d (homeFloe r n)).map (fun k => (n, k)) else none) with
      | none => d
      | some (n, k) =>
        match tpStatus r n, assocGet r.parkedTps n with
        | .parked, some s => (replaceTp d (reqRook r.x) r (homeFloe r n) k s).1
        | _, _ => placeSlot d (reqRook r.x) (homeFloe r n) k (entrySlot r n)

end Sys2Proof.Machine
end

