-- ==== Sys2Proof/Machine/FrontEnd.lean ====
section
/-!
DEFINITION. The command front end: doorbells and hardware slots (R248, R249), packets (R250-R256), launch checks (R30-R34, R51,
R253, R273), signals, waits and deltas.
-/

namespace Sys2Proof.Machine

/-- Bits of a doubleword outside a mask are zero. -/
def onlyBits (w : Word) (mask : Word) : Bool := w &&& ~~~mask == 0

/-- Front-end count of I/O die x (R17). -/
def feNow (d : Data) (x : Nat) : Nat := (getIo d x).feCount

/-! ## Doorbells (R248, R249, R251) -/

/-- A descriptor of I/O die x breaks the table of R248. Its IOD names x (log entry 95). -/
def swqDescBad (x : Nat) (w : List Word) : Bool :=
  let h := w.getD 0 0
  wb h 20 1 != x || wb h 48 16 != 0 || wb h 32 16 == 0 || wb h 21 11 != 0 || wb h 5 7 != 0 || decide (wb h 12 8 < 4) || decide (16 < wb h 12 8) ||
    decide (23 < wb h 0 5) || ! addrForm (w.getD 1 0) 64 || wb (w.getD 2 0) 32 32 != 0 || w.getD 6 0 != 0 || w.getD 7 0 != 0

/-- The queue a valid descriptor makes, with the indices as found: EMPTY, or PENDING when they differ. -/
def descQueue (w : List Word) (now : Nat) : Swq :=
  let h := w.getD 0 0
  { st := if wb (w.getD 3 0) 0 48 = wb (w.getD 4 0) 0 48 then .empty else .pending, x := wb h 20 1, qnt := wb h 32 16, re := wb h 12 8, pri := wb h 0 5,
    ring := (wb (w.getD 1 0) 52 4, wb (w.getD 1 0) 0 52), wlim := wb (w.getD 2 0) 0 32, pidx := wb (w.getD 3 0) 0 48,
    cidx := wb (w.getD 4 0) 0 48, cause := 0, since := now, packet := none, blockedAt := none, fetchedAt := 0,
    timedOut := false, todo := [] }

/-- A queue is DISABLED, or the front end has never seen it. -/
def swqOff (d : Data) (q : Nat) : Bool :=
  match getSwq d q with
  | none => true
  | some s => s.st == .disabled

/-- ENABLE: the descriptor is read; a failed read leaves the queue DISABLED with one record (R251). -/
def doorEnable (d : Data) (x q : Nat) : Data :=
  if (getIo d x).inReset || ! swqOff d q then d
  else
    let p := swqDesc d x q
    match readWordsAt d (reqRook x) p.1 p.2 8 with
    | (d, .error _) => swqRec d x q 1 0x0E 1 0 0
    | (d, .ok w) =>
      if swqDescBad x w then d
      else swqPublish { d with swqs := assocSet d.swqs q (descQueue w (feNow d x)) } q

/-- RING: PIDX is read again; an EMPTY queue with packets becomes PENDING, an ACTIVE one with none, and none in hand, EMPTY. -/
def doorRing (d : Data) (x q : Nat) : Data :=
  match getSwq d q with
  | none => d
  | some s =>
    if (getIo d x).inReset || s.st == .disabled then d
    else
      let p := swqDesc d s.x q
      match readAt d (reqRook s.x) p.1 (p.2 + 24) 8 with
      | (d, .error _) => swqFault d q 1 1 0
      | (d, .ok v) =>
        let d := modSwq d q (fun s => { s with pidx := v % 2 ^ 48 })
        if s.st = .empty ∧ v % 2 ^ 48 ≠ s.cidx then swqSet d q (fun s => { s with st := .pending, since := feNow d s.x })
        else if s.st = .active ∧ s.packet = none ∧ v % 2 ^ 48 = s.cidx then
          dropHwSlot (swqSet d q (fun s => { s with st := .empty })) s.x q
        else d

/-- A launch or delta of the queue is live (R249). -/
def queueBusy (d : Data) (q : Nat) : Bool :=
  d.regions.any (fun r => r.queue == q && regionLive r) ||
    (match getSwq d q with
      | none => false
      | some s => (s.packet.map pktType) == some 2)

/-- DISABLE, refused while a launch or delta of the queue is live, and without effect on a FAULTED queue whose record is held (R23). -/
def doorDisable (d : Data) (x q : Nat) : Data :=
  match getSwq d q with
  | none => d
  | some s =>
    if (getIo d x).inReset || queueBusy d q || (s.st == .faulted && queueHeld d s.x q) then d
    else dropHwSlot (swqSet (dropPacket d q) q (fun s => { s with st := .disabled })) s.x q

/-- RESUME: a FAULTED queue becomes PENDING and fetches packet CIDX again, unless it still holds the record of its fault (R23). -/
def doorResume (d : Data) (x q : Nat) : Data :=
  match getSwq d q with
  | none => d
  | some s =>
    if (getIo d x).inReset || s.st != .faulted || queueHeld d s.x q then d
    else swqSet (dropPacket d q) q (fun s => { s with st := .pending, since := feNow d s.x })

/-- DOORBELL_ENABLE (R248). -/
def execDoorbellEnable (x q : Nat) (s : State) : Host.Outcome State Fault Refusal := hostWrite s (fun d => doorEnable d x q)
/-- DOORBELL_RING (R248). -/
def execDoorbellRing (x q : Nat) (s : State) : Host.Outcome State Fault Refusal := hostWrite s (fun d => doorRing d x q)
/-- DOORBELL_DISABLE (R249). -/
def execDoorbellDisable (x q : Nat) (s : State) : Host.Outcome State Fault Refusal := hostWrite s (fun d => doorDisable d x q)
/-- DOORBELL_RESUME (R249). -/
def execDoorbellResume (x q : Nat) (s : State) : Host.Outcome State Fault Refusal := hostWrite s (fun d => doorResume d x q)

/-! ## Hardware slots (R249) -/

/-- A queue waits for a slot of I/O die x. -/
def wantsSlot (x : Nat) (e : Nat × Swq) : Bool := e.2.st == .pending && e.2.x == x

/-- Of two PENDING queues, the one that takes the slot: higher PRI, then PENDING longer, then the lower number. -/
def slotBefore (a b : Nat × Swq) : Bool :=
  decide (b.2.pri < a.2.pri) || (a.2.pri == b.2.pri && (decide (a.2.since < b.2.since) || (a.2.since == b.2.since && decide (a.1 < b.1))))

/-- The queue that takes a free slot. -/
def slotWinner : List (Nat × Swq) → Option (Nat × Swq)
  | [] => none
  | e :: es =>
    match slotWinner es with
    | none => some e
    | some b => if slotBefore e b then some e else some b

/-- A free slot goes to the winner; a queue with nothing left is EMPTY again. -/
def slotGrant (d : Data) (x : Nat) : Data :=
  let io := getIo d x
  if io.inReset then d
  else match io.hwSlots.findIdx? Option.isNone, slotWinner (d.swqs.filter (wantsSlot x)) with
    | some n, some (q, s) =>
      if s.cidx = s.pidx then swqSet d q (fun s => { s with st := .empty })
      else swqSet (modIo d x (fun io => { io with hwSlots := io.hwSlots.set n (some q) })) q (fun s => { s with st := .active })
    | _, _ => d

/-- HW_SLOT_GRANT (R249). -/
def execHwSlotGrant (x : Nat) (s : State) : Host.Outcome State Fault Refusal := nextD s (fun d => slotGrant d x)

/-! ## Packets (R250-R252) -/

/-- Bits a packet of a type may set, doubleword by doubleword (R252). -/
def pktMasks : Nat → List Word
  | 1 => [0xFFFF00FF1F1F00FF#64, -1, -1, -1, -1, 0xFFFF#64, -1, 0xFFFFFFFF#64]
  | 2 => [0xFFFF0000000000FF#64, 0, -1, -1, -1, 0xFFFF#64, -1, 0xFFFFFFFF#64]
  | 3 => [0x700FF#64, -1, 0xFFFFFFFF#64, 0, 0, 0, 0, 0]
  | 4 => [0x300FF#64, -1, 0xFFFFFFFF#64, 0, 0, 0, 0, 0]
  | 5 => [0x100FF#64, 0, 0, 0, 0, 0, 0, 0]
  | _ => []

/-- An address field may be 0 or has its form. -/
def addrOrNone (v : Word) (n : Nat) : Bool := v == 0 || addrForm v n

/-- The fields of a packet lie in their ranges, and its addresses have their form (R252). -/
def pktFieldsOk (p : List Word) : Bool :=
  let h := p.getD 0 0
  match pktType p with
  | 1 => (decide (wb h 24 5 ≤ 16) || wb h 24 5 == 31) && decide (wb h 16 5 ≤ 23) && addrForm (p.getD 1 0) 128 &&
      addrOrNone (p.getD 2 0) 64 && addrOrNone (p.getD 6 0) 4
  | 2 => addrForm (p.getD 2 0) 64 && addrOrNone (p.getD 6 0) 4
  | 3 => decide (wb h 16 3 ≤ 3) && addrForm (p.getD 1 0) 4
  | 4 => decide (wb h 16 2 ≤ 2) && addrForm (p.getD 1 0) 4
  | _ => true

/-- A packet is well formed. -/
def pktOk (p : List Word) : Bool :=
  let m := pktMasks (pktType p)
  ! m.isEmpty && (List.range 8).all (fun i => onlyBits (p.getD i 0) (m.getD i 0)) && pktFieldsOk p

/-- The requester of queue q's packets. -/
def swqReq (s : Swq) : Req := reqRook s.x

/-- Packet CIDX of an ACTIVE queue that has none in hand is read and processed by act when it is of a type; a ring fault or a
malformed packet of any type faults the queue (R250-R252). -/
def packetStep (d : Data) (q type : Nat) (act : Data → Swq → List Word → Data) : Data :=
  match getSwq d q with
  | none => d
  | some s =>
    if s.st ≠ .active ∨ s.packet.isSome = true ∨ s.cidx = s.pidx ∨ (getIo d s.x).inReset = true then d
    else
      match readWordsAt d (swqReq s) { space := s.ring.1, psp := 0, pmod := 0 } (s.ring.2 + 64 * (s.cidx % 2 ^ s.re)) 8 with
      | (d, .error _) => swqFault d q 1 1 0
      | (d', .ok p) =>
        if ! pktOk p then swqFault d' q 4 2 0
        else if pktType p = type then act d' s p
        else d

/-- The queue is blocked from now on at the packet in hand (R254). -/
def blockQueue (d : Data) (q : Nat) (p : List Word) : Data :=
  modSwq d q (fun s => { s with packet := some p, blockedAt := some (feNow d s.x), fetchedAt := feNow d s.x, timedOut := false })

/-! ## LAUNCH (R31, R253) -/

/-- The widths and extents of the six levels. -/
def allWidths (h : List Word) : List Nat := (List.range 6).map (hdrWidth h)
/-- See allWidths. -/
def allExts (h : List Word) : List Nat := (List.range 6).map (hdrExt h)

/-- Reserved bits of a header (R30). -/
def hdrMasks : List Word :=
  [0x0000000FFFFF00FF#64, 0x3FFFFFFFFFF#64, -1, 0x7FFFFFFFFFFFFFFF#64, 0x7FFFFFFFFFFFFFFF#64, 0x3F07#64, -1,
   0x03FFFFFFFFFFFFFF#64, 0x03FFFFFFFFFFFFFF#64, 0x03FFFFFFFFFFFFFF#64, 0x03FFFFFFFFFFFFFF#64,
   0xFF0FFFFFFFFFF000#64, 0xFF0FFFFFFFFFF000#64, 0x000FFFFFFFFFF000#64, 0xFF0FFFFFFFFFFF80#64, 0]

/-- Sum of the widths of the levels in use. -/
def widthSum (h : List Word) : Nat := sumNat ((allWidths h).take (hdrNf h))

/-- TPs of a launch. -/
def tpCount (h : List Word) : Nat := ((allExts h).take (hdrNf h)).foldl (fun a b => a * b) 1

/-- ROLEMAP entry j (R30). -/
def roleEntry (h : List Word) (j : Nat) : Nat := wb (h.getD 6 0) (4 * j) 4

/-- V of program entry j. -/
def peeValid (h : List Word) (j : Nat) : Bool := (h.getD (7 + j) 0).getLsbD 50

/-- Program entries that some TP uses (R34). -/
def usedEntries (h : List Word) : List Nat :=
  let rlev := wb (h.getD 5 0) 0 3
  if rlev = 7 then [0] else (List.range (min 16 (hdrExt h rlev))).map (roleEntry h)

/-- The first check of R31 that a header fails, 0 for none; lta is the layout table size the packet allows. Of several broken rows of
its table the one with the lowest code is reported (DESIGN CHOICE, log entry 166). -/
def headerCode (h : List Word) (lta : Nat) : Nat :=
  let nf := hdrNf h
  let rlev := wb (h.getD 5 0) 0 3
  let lvls := List.range nf
  if wb (h.getD 0 0) 0 8 ≠ 1 ∨ ! (List.range 16).all (fun i => onlyBits (h.getD i 0) (hdrMasks.getD i 0)) = true then 0x10
  else if nf = 0 ∨ nf = 7 ∨ ((allWidths h).drop nf).any (fun w => w != 0) = true ∨ ((allExts h).drop nf).any (fun e => e != 0) = true then 0x11
  else if lvls.any (fun i => hdrWidth h i == 0 || hdrExt h i == 0 || decide (2 ^ hdrWidth h i < hdrExt h i) ||
      decide (2 ^ 20 < hdrExt h i)) then 0x12
  else if 64 < widthSum h then 0x13
  else if (h.getD 2 0).toNat % 2 ^ widthSum h ≠ 0 then 0x14
  else if 2 ^ 20 < tpCount h then 0x15
  else if wb (h.getD 0 0) 16 16 < 63 then 0x16
  else if rlev = 6 ∨ (nf ≤ rlev ∧ rlev ≠ 7) ∨ wb (h.getD 5 0) 8 6 / 2 ^ nf ≠ 0 then 0x17
  else if (List.range 16).any (fun j => decide (3 < roleEntry h j)) || (usedEntries h).any (fun j => ! peeValid h j) then 0x18
  else if (List.range 4).any (fun j => peeValid h j && (wb (h.getD (7 + j) 0) 51 2 == 3 || decide (23 < peePrio (h.getD (7 + j) 0))))
  then 0x19
  else if wb (h.getD 11 0) 56 8 < 4 ∨ 12 < wb (h.getD 11 0) 56 8 ∨ wb (h.getD 12 0) 56 8 < 6 ∨ 16 < wb (h.getD 12 0) 56 8 ∨
      lta < wb (h.getD 14 0) 56 8 + 1 then 0x1A
  else 0

/-- The floes of a mask, ascending (R252). -/
def maskFloes (p : List Word) : List Nat :=
  (List.range 144).filter (fun f => (p.getD (3 + f / 64) 0).getLsbD (f % 64))

/-- The co-residency check fails (R51). -/
def coFails (h : List Word) (n : Nat) : Bool :=
  (h.getD 0 0).getLsbD 32 && decide (0 < n) &&
    (decide (8 * n < tpCount h) ||
      (let homes := (List.range (tpCount h)).map (fun i => floeKey h (levelsOf h i) % n)
       (List.range n).any (fun e => decide (8 < (homes.filter (fun x => x == e)).length))))

/-- Codes 0x1B to 0x1E (R31, R253). -/
def launchCode (d : Data) (s : Swq) (p h : List Word) : Nat :=
  let fs := maskFloes p
  let lv := wb (p.getD 0 0) 24 5
  if coFails h fs.length then 0x1B
  else if fs.isEmpty || d.regions.any (fun r => regionLive r && r.lid == wb (p.getD 0 0) 48 16) then 0x1C
  else if s.pri < wb (p.getD 0 0) 16 5 then 0x1D
  else if lv ≠ 31 ∧ (List.range 4).any (fun c => fs.any (fun f => dieOf f == c) && (getDie d c).lvsz != lv &&
      d.regions.any (fun r => regionLive r && r.floes.any (fun f => dieOf f == c))) = true then 0x1E
  else 0

/-- The region control block breaks R273. -/
def controlBad (w : List Word) : Bool :=
  let slim := wb (w.getD 0 0) 0 32
  wb (w.getD 0 0) 32 32 != 0 || wb (w.getD 1 0) 8 56 != 0 || (w.drop 2).any (fun x => x != 0) ||
    (decide (1 ≤ slim) && decide (slim ≤ 4095))

/-- A packet address as place code and address, (0, 0) for none. -/
def pktAddr (v : Word) : Nat × Nat := (wb v 52 4, wb v 0 52)

/-- The CANDIDATE region a LAUNCH makes (R253, R257). Its dead-letter producer index starts at 0, and DW0 of the control block stays as
memory has it until the first letter is stored (R50; DESIGN CHOICE, log entry 165). -/
def newRegion (d : Data) (q : Nat) (s : Swq) (p h ctl : List Word) : Region :=
  let slim := wb (ctl.getD 0 0) 0 32
  { lid := wb (p.getD 0 0) 48 16, queue := q, x := s.x, pri := wb (p.getD 0 0) 16 5, age := feNow d s.x, floes := maskFloes p,
    st := .candidate, hdr := h, slim := if slim = 0 then 2 ^ 24 else slim, trans := BitVec.ofNat 8 (wb (ctl.getD 1 0) 0 8),
    delta := pktAddr (p.getD 2 0), signal := pktAddr (p.getD 6 0), sigVal := BitVec.ofNat 32 (wb (p.getD 7 0) 0 32),
    qnt := s.qnt, tps := List.replicate (tpCount h) .waiting, parkedTps := [], mail := [], discards := 0, dlProd := 0,
    loaded := false, quantumAt := 0, expired := false, saves := 0, savedFloes := [], savedCells := [],
    lvsz := wb (p.getD 0 0) 24 5, held := false, claim := false }

/-- The launch is rejected with a reason code (R31, R251). -/
def rejectLaunch (d : Data) (q code : Nat) : Data := swqFault d q 4 3 (w64 code)

/-- A LAUNCH is accepted or rejected. A launch that has ended gives up its identity to a new one. -/
def launchAct (q : Nat) (d : Data) (s : Swq) (p : List Word) : Data :=
  let a := placeOf (p.getD 1 0)
  match readWordsAt d (swqReq s) a.1 a.2 16 with
  | (d, .error _) => rejectLaunch d q 0x10
  | (d, .ok h) =>
    let c := headerCode h (wb (p.getD 0 0) 32 8 + 1)
    let c := if c ≠ 0 then c else launchCode d s p h
    if c ≠ 0 then rejectLaunch d q c
    else
      match readWordsAt d (swqReq s) vaPlace ((wb (h.getD 13 0) 12 40 * 4096 + 2 ^ 30) % 2 ^ 52) 8 with
      | (d, .error _) => rejectLaunch d q 0x1F
      | (d, .ok ctl) =>
        if controlBad ctl then rejectLaunch d q 0x1F
        else
          let r := newRegion d q s p h ctl
          blockQueue { d with regions := d.regions.filter (fun x => x.lid != r.lid) ++ [r] } q p

/-- LAUNCH_PACKET (R253). -/
def execLaunchPacket (q : Nat) (s : State) : Host.Outcome State Fault Refusal :=
  nextD s (fun d => packetStep d q 1 (launchAct q))

/-! ## WAIT, SIGNAL and FENCE (R254, R255) -/

/-- The WAIT in hand is evaluated: a read that fails faults the queue, a satisfied condition completes the packet. -/
def evalWait (d : Data) (q : Nat) (s : Swq) (p : List Word) : Data :=
  match readAt d (swqReq s) (pktSignal p).1 (pktSignal p).2 4 with
  | (d, .error fc) => swqFault d q 1 5 (w64 (fc.1 * 256 + fc.2))
  | (d, .ok v) => if waitHolds (pktCond p) v (pktRef p) then swqComplete d q else d

/-- WAIT_PACKET (R254): evaluated at fetch. -/
def execWaitPacket (q : Nat) (s : State) : Host.Outcome State Fault Refusal :=
  nextD s (fun d => packetStep d q 3 (fun d s p => evalWait (blockQueue d q p) q s p))

/-- The unsatisfied WAIT a queue holds. -/
def heldWait (d : Data) (q : Nat) : Option (Swq × List Word) :=
  match getSwq d q with
  | none => none
  | some s => match s.packet with
    | none => none
    | some p =>
      if pktType p = 3 ∧ (s.st = .active ∨ s.st = .waiting) ∧ (getIo d s.x).inReset = false then some (s, p) else none

/-- WAIT_EVALUATE (R254). -/
def execWaitEvaluate (q : Nat) (s : State) : Host.Outcome State Fault Refusal :=
  nextD s (fun d => match heldWait d q with
    | none => d
    | some (s, p) => evalWait d q s p)

/-- WAIT_TIMEOUT (R254): one WAITTIMEOUT record that names the queue and the signal. -/
def waitTimeout (d : Data) (q : Nat) : Data :=
  match heldWait d q with
  | none => d
  | some (s, p) =>
    if s.wlim ≠ 0 ∧ s.timedOut = false ∧ s.fetchedAt + s.wlim * 4096 ≤ feNow d s.x then
      swqRec (modSwq d q (fun s => { s with timedOut := true })) s.x q 6 0x0F 0 (p.getD 1 0) 0
    else d

/-- See waitTimeout. -/
def execWaitTimeout (q : Nat) (s : State) : Host.Outcome State Fault Refusal := nextD s (fun d => waitTimeout d q)

/-- SIGNAL (R255): one indivisible read-modify-write, and the packet completes. -/
def signalAct (q : Nat) (d : Data) (s : Swq) (p : List Word) : Data :=
  match signalOp d (reqRook s.x) (pktOp p) (pktSignal p) (pktRef p) with
  | (d, .error fc) => swqFault d q 1 5 (w64 (fc.1 * 256 + fc.2))
  | (d, .ok _) => swqComplete d q

/-- SIGNAL_PACKET. -/
def execSignalPacket (q : Nat) (s : State) : Host.Outcome State Fault Refusal :=
  nextD s (fun d => packetStep d q 4 (signalAct q))

/-- FENCE_PACKET (R255): every access of the front end has performed, and it holds no copy to drop. -/
def execFencePacket (q : Nat) (s : State) : Host.Outcome State Fault Refusal :=
  nextD s (fun d => packetStep d q 5 (fun d _ _ => swqComplete d q))

/-- A queue blocked for its quantum gives up its slot (R254). -/
def queueExpire (d : Data) (q : Nat) : Data :=
  match getSwq d q with
  | none => d
  | some s =>
    match s.blockedAt with
    | none => d
    | some t =>
      if s.st = .active ∧ s.packet.isSome = true ∧ t + s.qnt * 4096 ≤ feNow d s.x then
        dropHwSlot (swqSet d q (fun s => { s with st := .waiting })) s.x q
      else d

/-- QUEUE_QUANTUM_EXPIRE (R254). -/
def execQueueQuantumExpire (q : Nat) (s : State) : Host.Outcome State Fault Refusal := nextD s (fun d => queueExpire d q)

/-! ## DELTA (R256) -/

/-- The floes a DELTA names in its region. -/
def deltaFloes (p : List Word) (r : Region) : List Nat := if (maskFloes p).isEmpty then r.floes else maskFloes p

/-- The DELTA's region is resident: its header is read, its BASEID compared, and its floes masked. -/
def deltaBegin (d : Data) (q : Nat) (s : Swq) (p : List Word) (r : Region) : Data :=
  let a := placeOf (p.getD 2 0)
  match readWordsAt d (swqReq s) a.1 a.2 8 with
  | (d, .error fc) => swqFault d q 2 6 (w64 (fc.1 * 256 + fc.2))
  | (d, .ok w) =>
    match deltaHead w with
    | none => swqFault d q 2 6 3
    | some (_, base, _) =>
      let fs := deltaFloes p r
      if fs.any (fun f => (getFloe d f).cfg.curId != base) then swqFault d q 4 4 0
      else modSwq (fs.foldl (fun d f => deltaMaskSet d true f) d) q (fun s => { s with todo := fs })

/-- A DELTA in hand: refused when its launch or its floes are not the region's; it waits while the region is not resident. -/
def deltaAct (q : Nat) (d : Data) (s : Swq) (p : List Word) : Data :=
  match getRegion d (wb (p.getD 0 0) 48 16) with
  | none => swqFault d q 4 4 0
  | some r =>
    if ! regionLive r || (maskFloes p).any (fun f => ! r.floes.contains f) then swqFault d q 4 4 0
    else if r.st = .resident then deltaBegin d q s p r
    else d

/-- DELTA_PACKET (R256): the packet is fetched, or one in hand that has not masked its floes looks at its region again. -/
def deltaPacket (d : Data) (q : Nat) : Data :=
  match getSwq d q with
  | none => d
  | some s =>
    match s.packet with
    | none => packetStep d q 2 (fun d s p => deltaAct q (blockQueue d q p) s p)
    | some p =>
      if pktType p = 2 ∧ (s.st = .active ∨ s.st = .waiting) ∧ (getIo d s.x).inReset = false ∧ s.todo = [] then deltaAct q d s p
      else d

/-- See deltaPacket. -/
def execDeltaPacket (q : Nat) (s : State) : Host.Outcome State Fault Refusal := nextD s (fun d => deltaPacket d q)

/-- The image of a floe after a delta whose header is given: its table and ID, or the CFGCHK cause or fault that ends the load
(R129, R132). -/
def deltaImage (d : Data) (q : Req) (a : Place × Nat) (t : Table) (f : Nat) (n : Nat) : Data × Except Nat Table :=
  match deltaEntries d q a.1 a.2 t 0 n with
  | (d, _, .stop _ fc) => (d, .error (fc.1 * 256 + fc.2))
  | (d, _, .fail cause _) => (d, .error cause)
  | (d, t, .done) =>
    match cfgCheck t f with
    | some cause => (d, .error cause)
    | none => (d, .ok t)

/-- A launch write of a new image: changed units start from their load state (R134), and the floe's masks clear. -/
def imageWrite (t : Table) (id : Word) (fl : Floe) : Floe :=
  { fl with field := fieldSwitch fl.field fl.cfg.cur t, cfg := { fl.cfg with cur := t, curId := id, errors := 0 } }

/-- The DELTA is done on every floe: its signal, and the packet completes. -/
def deltaDone (d : Data) (q : Nat) (s : Swq) (p : List Word) : Data :=
  if p.getD 6 0 = 0 then swqComplete d q
  else match signalOp d (reqRook s.x) 0 (placeOf (p.getD 6 0)) (wb (p.getD 7 0) 0 32) with
    | (d, .error fc) => swqFault d q 1 5 (w64 (fc.1 * 256 + fc.2))
    | (d, .ok _) => swqComplete d q

/-- The delta is written to floe f. -/
def deltaWriteFloe (d : Data) (q f : Nat) (s : Swq) (p : List Word) : Data :=
  let a := placeOf (p.getD 2 0)
  match readWordsAt d (swqReq s) a.1 a.2 8 with
  | (d, .error fc) => swqFault d q 2 6 (w64 (fc.1 * 256 + fc.2))
  | (d, .ok w) =>
    match deltaHead w with
    | none => swqFault d q 2 6 3
    | some (n, base, id) =>
      if (getFloe d f).cfg.curId ≠ base then swqFault d q 4 4 0
      else match deltaImage d (swqReq s) a (getFloe d f).cfg.cur f n with
        | (d, .error cause) => swqFault d q 2 6 (w64 cause)
        | (d, .ok t) =>
          let d := deltaMaskSet (modFloe d f (imageWrite t id)) false f
          let rest := s.todo.filter (fun x => x != f)
          let d := modSwq d q (fun s => { s with todo := rest })
          if rest.isEmpty then deltaDone d q s p else d

/-- A floe of a DELTA has drained: no record of its own is unwritten or unread (R26), no command naming a port is left and no word is in
the field. -/
def deltaFloeWrite (d : Data) (q f : Nat) : Data :=
  match getSwq d q with
  | none => d
  | some s =>
    match s.packet with
    | none => d
    | some p =>
      if pktType p ≠ 2 ∨ ! s.todo.contains f = true ∨ (getIo d s.x).inReset = true then d
      else match getRegion d (wb (p.getD 0 0) 48 16) with
        | none => swqFault d q 4 4 0
        | some r =>
          if ! regionLive r then swqFault d q 4 4 0
          else if r.st = .resident && maskDrained (getFloe d f) && ! (List.range 32).any (fun x => solverHolds d f x) && ! recUnread d f
          then deltaWriteFloe d q f s p
          else d

/-- DELTA_FLOE_WRITE (R256). -/
def execDeltaFloeWrite (q f : Nat) (s : State) : Host.Outcome State Fault Refusal := nextD s (fun d => deltaFloeWrite d q f)

end Sys2Proof.Machine
end

