-- ==== Sys2Proof/Machine/Scheduler.lean ====
section
/-!
DEFINITION. Regions and the scheduler: loading, pre-emption, saving and restoring (R253, R257-R260, R270, R273-R277), and the
Stalemate monitor (R278, R279).
-/

namespace Sys2Proof.Machine

/-! ## Loading a region (R57, R133, R147, R149, R189, R253) -/

/-- The entries of a launch's layout table that a floe preloads: an entry that fails its check is left without an LTE (R57), and so
is one whose read itself fails: the read raises nothing (DESIGN CHOICE, log entry 151). -/
def preload (d : Data) (q : Req) (r : Region) : Nat → Data × List (Option (List Word))
  | 0 => (d, [])
  | n + 1 =>
    let (d, l) := preload d q r n
    if regLtn r < n then (d, l ++ [none])
    else match readWordsAt d q vaPlace (regLtab r + 128 * n) 16 with
      | (d, .error _) => (d, l ++ [none])
      | (d, .ok e) => (d, l ++ [if lteCheck e = 0 then some e else none])

/-- A floe as the launch write leaves it. -/
def loadedFloe (fl : Floe) (lid i : Nat) (cache : List (Option (List Word))) (t : Table) (id : Word) : Floe :=
  { clearFloe fl with
    lid := some lid, entry := i, lcache := cache, accums := List.replicate 16 Accum.reset,
    cfg := { CfgSt.reset with cur := t, curId := id } }

/-- The versioned windows of the dies a region touches are set (R189). -/
def setWindows (d : Data) (r : Region) : Data :=
  if r.lvsz = 31 then d
  else { d with dies := d.dies.mapIdx (fun c x =>
      if r.floes.any (fun f => dieOf f == c) then { x with lvsz := r.lvsz, lv := [] } else x) }

/-- The image of a launch: the empty image with its delta, checked on every floe; else the cause (R253). -/
def launchImage (d : Data) (r : Region) : Data × Except Nat (Table × Word) :=
  if r.delta = (0, 0) then (d, .ok ([], 0))
  else
    let a : Place × Nat := ({ space := r.delta.1, psp := 0, pmod := 0 }, r.delta.2)
    match readWordsAt d (reqRook r.x) a.1 a.2 8 with
    | (d, .error fc) => (d, .error (fc.1 * 256 + fc.2))
    | (d, .ok w) =>
      match deltaHead w with
      | none => (d, .error 3)
      | some (n, base, id) =>
        if base ≠ 0 then (d, .error 2)
        else match deltaEntries d (reqRook r.x) a.1 a.2 [] 0 n with
          | (d, _, .stop _ fc) => (d, .error (fc.1 * 256 + fc.2))
          | (d, _, .fail cause _) => (d, .error cause)
          | (d, t, .done) =>
            match r.floes.findSome? (fun f => cfgCheck t f) with
            | some cause => (d, .error cause)
            | none => (d, .ok (t, id))

/-- A region is resident from now on, and its quantum starts (R259). -/
def becomeResident (d : Data) (lid : Nat) : Data :=
  modRegion d lid (fun r => { r with st := .resident, loaded := true, expired := false, quantumAt := feNow d r.x })

/-- A region's first load: each floe gets the empty image and the delta; a delta that fails ends the launch with cause 0x06. -/
def loadRegion (d : Data) (r : Region) : Data :=
  match launchImage d r with
  | (d, .error cause) => swqFault (modRegion d r.lid (fun r => { r with st := .failed })) r.queue 2 6 (w64 cause)
  | (d, .ok (t, id)) =>
    let (d, cache) := preload d (reqRook r.x) r 64
    let d := (List.range r.floes.length).foldl (fun d i =>
      modFloe d (r.floes.getD i 0) (fun fl => loadedFloe fl r.lid i cache t id)) (setWindows d r)
    becomeResident d r.lid

/-! ## The scheduler (R257-R259) -/

/-- Of two candidates, the one taken first: higher PRI, then older. -/
def candBefore (a b : Region) : Bool := decide (b.pri < a.pri) || (a.pri == b.pri && decide (a.age ≤ b.age))

/-- A candidate put in its place. -/
def candInsert (r : Region) : List Region → List Region
  | [] => [r]
  | x :: xs => if candBefore r x then r :: x :: xs else x :: candInsert r xs

/-- Candidates in the order of a pass. -/
def candOrder (l : List Region) : List Region := l.foldr candInsert []

/-- The floe can take a launch write now: its die runs, and every record of its own is written and read (R26). -/
def floeReady (d : Data) (f : Nat) : Bool := ! (getDie d (dieOf f)).inReset && ! recUnread d f

/-- Candidate c may take floe f (R258). -/
def mayTakeFloe (d : Data) (c : Region) (f : Nat) : Bool :=
  ! (getDie d (dieOf f)).inReset && (match (getFloe d f).lid with
    | none => true
    | some l => match getRegion d l with
      | none => true
      | some r => r.st == .resident && (decide (r.pri < c.pri) || (r.pri == c.pri && r.expired)))

/-- Every slot of a floe is masked, and the floe freezes (R274). -/
def maskFloe (fl : Floe) : Floe :=
  { fl with halting := true, frozen := true, slots := fl.slots.map (fun s => { s with mask := true }) }

/-- Pre-emption of a region begins (R274 step 1). -/
def preempt (d : Data) (lid : Nat) : Data :=
  let d := modRegion d lid (fun r => { r with st := .saving })
  { d with floes := d.floes.map (fun fl => if fl.lid == some lid then maskFloe fl else fl) }

/-- A candidate that has started: every floe it waits for is its own (R258). -/
def floesFree (d : Data) (c : Region) : Bool := c.floes.all (fun f => floeReady d f && (getFloe d f).lid.isNone)

/-- Regions that hold floes of a candidate. -/
def holders (d : Data) (c : Region) : List Nat := dedup (c.floes.filterMap (fun f => (getFloe d f).lid))

/-- A candidate with every floe free is loaded, or its restore begins. -/
def startRegion (d : Data) (c : Region) : Data :=
  let d := modRegion d c.lid (fun r => { r with claim := false })
  if c.loaded then
    let d := modRegion d c.lid (fun r => { r with st := .restoring })
    c.floes.foldl (fun d f => modFloe d f (fun fl => { fl with lid := some c.lid, halting := true, halted := true, frozen := true })) d
  else loadRegion d c

/-- One candidate of a pass: it starts, and makes the regions in its way save, or it only claims its floes. One that has started
in an earlier pass keeps its floes, and is loaded or restored once they are free and can be written (R26). -/
def passStep (s : Data × List Nat) (c : Region) : Data × List Nat :=
  let d := s.1
  let ok := c.floes.all (fun f => mayTakeFloe d c f && ! s.2.contains f)
  (if c.claim then (if floesFree d c then startRegion d c else d)
   else if ok then
    (if floesFree d c then startRegion d c
     else modRegion ((holders d c).foldl preempt d) c.lid (fun r => { r with claim := true }))
   else d, s.2 ++ c.floes)

/-- The order of a pass: the candidates that have started first, then the others. -/
def passOrder (l : List Region) : List Region := l.filter (fun r => r.claim) ++ candOrder (l.filter (fun r => ! r.claim))

/-- A SAVED region that no BRK holds is a CANDIDATE again, with its age (R257). -/
def savedCandidates (d : Data) : Data :=
  { d with regions := d.regions.map (fun r => if r.st == .saved && ! r.held then { r with st := .candidate } else r) }

/-- A pass of the region scheduler (R258): it runs on the Rook cores of an I/O die that is out of reset. -/
def schedulerPass (d : Data) : Data :=
  if (getIo d 0).inReset && (getIo d 1).inReset then d
  else
    let d := savedCandidates d
    ((passOrder (d.regions.filter (fun r => r.st == .candidate))).foldl passStep (d, [])).1

/-- SCHEDULER_PASS (R258). -/
def execSchedulerPass (s : State) : Host.Outcome State Fault Refusal := nextD s schedulerPass

/-- A quantum ends (R259, R260): with a candidate of equal PRI waiting for a floe of the region it stays expired, else a new one
starts. -/
def quantumExpire (d : Data) (lid : Nat) : Data :=
  match getRegion d lid with
  | none => d
  | some r =>
    if r.st = .resident ∧ r.expired = false ∧ r.quantumAt + r.qnt * 4096 ≤ feNow d r.x ∧ allRetired r = false then
      if d.regions.any (fun c => (c.st == .candidate || (c.st == .saved && ! c.held)) && c.pri == r.pri &&
          c.floes.any (fun f => r.floes.contains f))
      then modRegion d lid (fun r => { r with expired := true })
      else modRegion d lid (fun r => { r with quantumAt := feNow d r.x })
    else d

/-- REGION_QUANTUM_EXPIRE (R259). -/
def execRegionQuantumExpire (lid : Nat) (s : State) : Host.Outcome State Fault Refusal := nextD s (fun d => quantumExpire d lid)

/-! ## Halt (R274 steps 1-3) -/

/-- What a slot waits for when its core has halted: a waiting request is withdrawn and a blocked instruction will issue again;
a CFGG whose check has ended has issued. -/
def haltSlot (s : Slot) : Slot :=
  match s.block with
  | .drain => s
  | .parkedInSlot => s
  | .fetch => s
  | .issue (.cfgg _ _) => { s with block := .none, tp := handled s.tp s.tp.pc.toNat (s.tp.pc + 4) }
  | _ => { s with block := .none }

/-- Words read and not accepted by their port are dropped: they lie at or above the restart point, from which the command
reads again (R68, R274). A word that has left its op port stays in hand. -/
def haltCmd (c : Cmd) : Cmd := if c.floeLocal || c.op.isSome then c else { c with inflight := [] }

/-- Waiting QPSH and QPOP requests of floe f are withdrawn at their homes (R204). -/
def withdraw (d : Data) (f : Nat) : Data :=
  let drop : List (Nat × Nat) → List (Nat × Nat) := fun l => l.filter (fun e => e.1 != f)
  { d with dies := d.dies.map (fun c => { c with
      queues := c.queues.map (fun q => { q with waitPush := drop q.waitPush, waitPop := drop q.waitPop }) }) }

/-- Scalar accesses of a floe to its FLOE space that have not performed, in issue order, with their slots. -/
def floePends (fl : Floe) : List (Nat × Pend) :=
  sortBy (fun a b => decide (a.2.order ≤ b.2.order)) ((List.range 8).flatMap (fun k =>
    ((slotOf fl k).tp.pends.filter (fun p => p.floeLocal && isMem p)).map (fun p => (k, p))))

/-- Memory as an LDS to FLOE sees it that completes at the halt: with every STS to FLOE that issued before it (R177, R387). -/
def haltMem (d : Data) (f : Nat) (p : Pend) : Data :=
  (floePends (getFloe d f)).foldl (fun d x =>
    if x.2.kind == .sts && decide (x.2.order < p.order) then pieceWrite d x.2.pieces x.2.value.toNat false else d)
    (withSts d (getFloe d f).writes p.order)

/-- The LDS to FLOE of a halting floe complete: the value is in s[d], or the trap is taken, before the context is saved (R387; log
entry 163). An STS to FLOE keeps its offset (R276). -/
def haltLds (d : Data) (f : Nat) : Data :=
  (floePends (getFloe d f)).foldl (fun d x => if x.2.kind == .lds then ldsFrom (haltMem d f x.2) d f x.1 x.2 else d) d

/-- Every issued instruction of a floe has completed but for its accesses to FLOE space (R41, R276). -/
def floeQuiet (fl : Floe) : Bool := fl.slots.all (fun s => s.st == .empty || s.tp.pends.all (fun p => p.floeLocal))

/-- A floe of a region that is SAVING is masked, and halts when its issued instructions have completed. -/
def sequencerHalt (d : Data) (f : Nat) : Data :=
  match (getFloe d f).lid with
  | none => d
  | some l =>
    match getRegion d l with
    | none => d
    | some r =>
      if r.st ≠ .saving ∨ (getFloe d f).halted = true then d
      else
        let d := modFloe d f maskFloe
        if floeQuiet (getFloe d f) then
          modFloe (haltLds (withdraw d f) f) f (fun fl => { fl with
            halted := true, slots := fl.slots.map (fun s => if s.st == .empty then s else haltSlot s),
            streams := fl.streams.map (fun e => e.map haltCmd) })
        else d

/-- SEQUENCER_HALT (R274). -/
def execSequencerHalt (f : Nat) (s : State) : Host.Outcome State Fault Refusal := nextD s (fun d => sequencerHalt d f)

/-! ## Save (R273, R274 steps 4 and 5, R275, R277) -/

/-- Base of the save area of floe-list entry i (R273). -/
def saveArea (r : Region) (i : Nat) : Nat := regCtx r + 2 ^ 30 + 0x40000 + 0x600000 * i

/-- Memory cell whose bytes an offset of the save area holds (R275). -/
def saveCell (off : Nat) : Option Nat := if 0x200000 ≤ off then some ((off - 0x200000) / 0x80000) else none

/-- The 4 KiB units of a save area that a save writes: a transient cell's are left out. -/
def saveUnits (r : Region) : List Nat :=
  (List.range 0x600).filter (fun u => match saveCell (4096 * u) with
    | some m => ! r.trans.getLsbD m
    | none => true)

/-- Write the units of a save area in device format. -/
def saveWrite (d : Data) (q : Req) (base : Nat) : List Nat → Data × Except ((Nat × Nat) × Nat) Unit
  | [] => (d, .ok ())
  | u :: us =>
    match reach d q vaPlace (base + 4096 * u) 4096 .write with
    | (d, .error fc) => (d, .error (fc, base + 4096 * u))
    | (d, .ok loc) => saveWrite (poisonWrite (devWrite d loc 4096) loc 4096 false) q base us

/-- Read them. -/
def saveRead (d : Data) (q : Req) (base : Nat) : List Nat → Data × Except ((Nat × Nat) × Nat) Unit
  | [] => (d, .ok ())
  | u :: us =>
    match reach d q vaPlace (base + 4096 * u) 4096 .read with
    | (d, .error fc) => (d, .error (fc, base + 4096 * u))
    | (d, .ok loc) =>
      if poisoned d loc 4096 then (d, .error ((0x0C, eccuCause loc), base + 4096 * u)) else saveRead d q base us

/-- The bytes of FLOE space of floe f, but for transient cells. -/
def floeCells (d : Data) (f : Nat) (trans : BitVec 8) : Memory :=
  d.mem.filter (fun c => decide (locFloe f 0 ≤ c.1) && decide (c.1 < locFloe f (2 ^ 22)) &&
    ! trans.getLsbD ((c.1 - locFloe f 0) / 2 ^ 19))

/-- The device-format areas of FLOE space of floe f, but for transient cells. -/
def floeDev (d : Data) (f : Nat) (trans : BitVec 8) : List (Nat × Nat × Nat) :=
  (List.range 8).foldl (fun l m => if trans.getLsbD m then devCut (locFloe f (m * 2 ^ 19)) (2 ^ 19) l else l)
    (devCut (locFloe f (2 ^ 22)) (2 ^ 63) (devCut 0 (locFloe f 0) d.devFmt))

/-- Its poisoned granules. -/
def floePoison (d : Data) (f : Nat) (trans : BitVec 8) : List Nat :=
  d.poison.filter (fun g => decide (locFloe f 0 ≤ 16 * g) && decide (16 * g < locFloe f (2 ^ 22)) &&
    ! trans.getLsbD ((16 * g - locFloe f 0) / 2 ^ 19))

/-- The first doublewords of a save area: its saves, and k.ADVC at the halt (R275). -/
def saveHead (d : Data) (q : Req) (base saves advc : Nat) : Data :=
  (writeWordsAt d q vaPlace base [w64 saves, w64 advc]).1

/-- Every floe of the region has been saved. -/
def allSaved (r : Region) : Bool := decide (r.floes.length ≤ r.savedFloes.length)

/-- The region is SAVED, and its floes are free. -/
def finishSave (d : Data) (lid : Nat) : Data :=
  match getRegion d lid with
  | none => d
  | some r =>
    if allSaved r && r.st == .saving then
      releaseFloes (modRegion d lid (fun r => { r with st := .saved, saves := r.saves + 1 })) lid
    else d

/-- The contexts of the TPs on a floe are written (R46). -/
def saveContexts (d : Data) (f : Nat) (r : Region) : Data :=
  (List.range 8).foldl (fun d k => if (getSlot d f k).st == .empty then d else writeContext d f r (getTp d f k).owner.n) d

/-- The context of floe f of region r is written and kept. -/
def saveFloe (d : Data) (f : Nat) (r : Region) : Data :=
  let fl := getFloe d f
  let base := saveArea r fl.entry
  match saveWrite d (reqFloe f) base (saveUnits r) with
  | (d, .error (fc, a)) => areaFault d r fc a
  | (d, .ok _) =>
    let d := saveContexts (saveHead d (reqFloe f) base (r.saves + 1) fl.advc) f r
    match getRegion d r.lid with
    | none => d
    | some r' =>
      if r'.st = .saving then
        finishSave (modRegion d r.lid (fun x => { x with
          savedFloes := x.savedFloes ++ [getFloe d f],
          savedCells := x.savedCells ++ [{ entry := fl.entry, mem := floeCells d f r.trans, poison := floePoison d f r.trans,
                                            dev := floeDev d f r.trans }] })) r.lid
      else d

/-- A halted floe of a SAVING region with no record held is saved once. -/
def floeSave (d : Data) (f : Nat) : Data :=
  let fl := getFloe d f
  match fl.lid with
  | none => d
  | some l =>
    match getRegion d l with
    | none => d
    | some r =>
      if r.st = .saving ∧ fl.halted = true ∧ recHeldFor d f = false ∧ r.savedFloes.any (fun x => x.entry == fl.entry) = false then
        saveFloe d f r
      else d

/-- FLOE_SAVE_COMPLETE (R274). -/
def execFloeSaveComplete (f : Nat) (s : State) : Host.Outcome State Fault Refusal := nextD s (fun d => floeSave d f)

/-! ## Restore (R271, R276, R277) -/

/-- The bytes of FLOE space of a floe replaced, with poison and device-format areas. -/
def putCells (d : Data) (f : Nat) (c : SavedCells) : Data :=
  let lo := locFloe f 0
  let hi := locFloe f (2 ^ 22)
  { d with
    devFmt := c.dev ++ devCut lo (2 ^ 22) d.devFmt,
    mem := d.mem.filter (fun e => decide (e.1 < lo)) ++ c.mem ++ d.mem.filter (fun e => decide (hi ≤ e.1)),
    poison := d.poison.filter (fun g => decide (16 * g < lo)) ++ c.poison ++ d.poison.filter (fun g => decide (hi ≤ 16 * g)) }

/-- A slot after restore: masked for a DELTA, or while a co-resident launch waits for a TP; a stopped fetch retries. -/
def restoreSlot (masked : Bool) (s : Slot) : Slot :=
  { s with mask := masked, block := if s.block == .fetch then .none else s.block }

/-- A command after restore: a STOPPED one retries at its restart point. -/
def restoreCmd (c : Cmd) : Cmd := if c.st == .stopped then { c with st := .active } else c

/-- A floe after restore: its context, on the counts and TLB of the floe it returns to. -/
def restoredFloe (waits : Bool) (now saved : Floe) : Floe :=
  { saved with
    seqc := now.seqc, advc := now.advc, utlb := now.utlb, halting := false, halted := false, frozen := false, quiet := 0,
    slots := saved.slots.map (restoreSlot (saved.deltaMask || waits)), streams := saved.streams.map (fun e => e.map restoreCmd),
    cfg := { saved.cfg with stopped := false } }

/-- The engines' commands of a region retry (R271): LAY, embedding and solver commands, and the updates of embedding engines that
its TPs wait for. -/
def retryEngines (d : Data) (lid : Nat) : Data :=
  let d := (List.range 4).foldl (fun d c =>
    ((getEmb d c).cmds.filter (fun x => x.op == 2 && x.stopped.isSome && x.owner.lid == lid)).foldl (resendLost c) d) d
  let d := { d with dies := d.dies.map (fun c => { c with
      firnQ := c.firnQ.map (fun x => if x.owner.lid == lid then { x with stopped := false } else x),
      firn := c.firn.map (fun e => e.map (fun x => if x.owner.lid == lid then { x with stopped := false } else x)),
      emb := { c.emb with cmds := c.emb.cmds.map (fun x => if x.owner.lid == lid then { x with stopped := none } else x) },
      solvers := c.solvers.map (fun x => if (x.goTag.map (fun g => g.1.lid)) == some lid || x.loads.any (fun l => l.2.1.lid == lid)
        then { x with stopped := false } else x) }) }
  (List.range 4).foldl (fun d c => if stepServes d c lid then stepRetry d c else d) d

/-- TPs whose contexts the save of floe-list entry i wrote. -/
def savedTps (r : Region) (i : Nat) : List Nat :=
  match r.savedFloes.find? (fun x => x.entry == i) with
  | none => []
  | some fl => (fl.slots.filter (fun s => s.st != .empty)).map (fun s => s.tp.owner.n)

/-- Read back context records of TPs. -/
def contextReads (d : Data) (q : Req) (r : Region) : List Nat → Data × Except ((Nat × Nat) × Nat) Unit
  | [] => (d, .ok ())
  | n :: ns =>
    match readContext d q r n with
    | (d, .error fc) => (d, .error (fc, regCtx r + 1024 * n))
    | (d, .ok _) => contextReads d q r ns

/-- Read back the save areas of the floes and the context records of their TPs: the first fault ends the restore. -/
def restoreReads (d : Data) (r : Region) : List Nat → Data × Except ((Nat × Nat) × Nat) Unit
  | [] => (d, .ok ())
  | i :: is =>
    let q := reqFloe (r.floes.getD i 0)
    match saveRead d q (saveArea r i) (saveUnits r) with
    | (d, .error e) => (d, .error e)
    | (d, .ok _) =>
      match contextReads d q r (savedTps r i) with
      | (d, .error e) => (d, .error e)
      | (d, .ok _) => restoreReads d r is

/-- Floe-list entry i of a region is restored: transient cells are zero. -/
def restoreFloe (r : Region) (d : Data) (i : Nat) : Data :=
  let f := r.floes.getD i 0
  match r.savedFloes.find? (fun x => x.entry == i), r.savedCells.find? (fun x => x.entry == i) with
  | some x, some c => putCells (modFloe d f (fun now => restoredFloe (coWaits d r.lid) now x)) f c
  | _, _ => d

/-- A region is restored onto its floes. -/
def regionRestore (d : Data) (lid : Nat) : Data :=
  match getRegion d lid with
  | none => d
  | some r =>
    if r.st ≠ .restoring ∨ ! r.floes.all (floeReady d) = true then d
    else match restoreReads d r (List.range r.floes.length) with
      | (d, .error (fc, a)) => areaFault d r fc a
      | (d, .ok _) =>
        let d := (List.range r.floes.length).foldl (restoreFloe r) d
        becomeResident (retryEngines (modRegion d lid (fun r => { r with savedFloes := [], savedCells := [] })) lid) lid

/-- REGION_RESTORE (R276). -/
def execRegionRestore (lid : Nat) (s : State) : Host.Outcome State Fault Refusal := nextD s (fun d => regionRestore d lid)

/-- RELEASE (R270): a SAVED region that a BRK holds is a CANDIDATE again. -/
def execRelease (x : Nat) (v : BitVec 64) (s : State) : Host.Outcome State Fault Refusal :=
  hostWrite s (fun d =>
    if (getIo d x).inReset then d
    else modRegion d (wb v 0 16) (fun r => if r.st = .saved ∧ r.held = true then { r with held := false, st := .candidate } else r))

/-! ## The Stalemate monitor (R278, R279) -/

/-- Code of the pending configuration state in the map. -/
def mapHead (f : Nat) (fl : Floe) : Nat :=
  f + atBit (bnat fl.frozen) 8 1 + atBit (cfgStateCode fl.cfg.state) 9 3 + atBit (min fl.quiet (2 ^ 32 - 1)) 32 32

/-- Bytes of a little-endian number. -/
def leBytes (n x : Nat) : List Nat := (List.range n).map (fun i => x / 256 ^ i % 256)

/-- Block code of a slot (R279). -/
def mapBlock (s : Slot) : Nat :=
  match s.block with
  | .none => 0
  | .twait _ _ => 1
  | .trecv _ _ => 2
  | .qpop _ _ _ => 3
  | .qpsh _ _ _ => 4
  | .vld _ _ _ _ => 5
  | .vst _ _ _ => 6
  | .drain => 7
  | .parkedInSlot => 7
  | .stall .entry => 8
  | .stall _ => 9
  | .issue _ => 9
  | .vstRel _ _ _ => 9
  | .fetch => 10

/-- State code of a slot. -/
def mapSlotState (s : SlotState) : Nat :=
  match s with
  | .empty => 0
  | .live => 1
  | .parking => 2
  | .exiting => 3

/-- The word of a slot in the map. -/
def mapSlot (s : Slot) : Nat :=
  if s.st = .empty then 0 else mapSlotState s.st + atBit (mapBlock s) 4 4 + atBit s.tp.owner.n 32 20

/-- The word of a stream entry in the map. -/
def mapEntry (e : Option Cmd) : Nat :=
  match e with
  | none => 0
  | some c =>
    let st := match c.st with
      | .queued => 1
      | .active => 2
      | .stopped => 3
      | .barrier => 4
    let port := match c.ip, c.op with
      | some p, _ => p.toNat
      | none, some p => 16 + p.toNat
      | none, none => 0
    st + atBit port 3 5 + atBit c.tag.toNat 8 6 + atBit c.slot 14 3

/-- Bits of the inputs of a block below RATE, and of its outputs that lack room. -/
def mapInputs (fl : Floe) (k : Nat) : Nat :=
  sumNat ((planOf fl.cfg.cur k).ports.map (fun p => match p.q with
    | some q => if (qGet fl.field q).length < p.rate then 2 ^ p.j else 0
    | none => 0))
/-- See mapInputs. -/
def mapOutputs (fl : Floe) (k : Nat) : Nat :=
  sumNat ((planOf fl.cfg.cur k).outs.map (fun p => match p.q with
    | some q => if qFree fl.cfg.cur fl.field q < p.rate then 2 ^ p.o else 0
    | none => 0))

/-- Length of a queue, 0xFF where there is none. -/
def mapLen (there : Bool) (l : List (List QEnt)) (i : Nat) : Nat := if there then (l.getD i []).length else 0xFF

/-- Words in outgoing link s of box b: at an edge of the field, those that stand at the floe across it on the die mesh (log entry 180);
0xFF at an edge of the die. -/
def mapLink (d : Data) (f b s : Nat) : Nat :=
  match boxStep b s, meshStep f b s with
  | some _, _ => mapLen true (getFloe d f).field.links (4 * b + s)
  | none, some (g, c) => mapLen true (getFloe d g).field.links (4 * c + opposite s)
  | none, none => 0xFF

/-- The 1,024 bytes of a floe's channel-occupancy map (R279). -/
def occupancyMap (d : Data) (f : Nat) : List Byte :=
  let fl := getFloe d f
  let x := fl.field
  let bytes :=
    leBytes 8 (mapHead f fl) ++
    x.ipq.map (fun l => l.length) ++ x.opq.map (fun l => l.length) ++
    (List.range 64).map (fun i =>
      let there := (boxStep (ccBox (i / 8)) (i / 2 % 4)).isSome
      if i % 2 = 0 then mapLen there x.rq (cellSide (i / 8) (i / 2 % 4)) else mapLen there x.wq (cellSide (i / 8) (i / 2 % 4))) ++
    (List.range 64).map (fun i => mapLink d f (i / 4) (i % 4)) ++
    (List.range 8).flatMap (fun k => [mapInputs fl k, mapOutputs fl k]) ++
    (List.range 8).map (fun q => if q < 4 then (fl.nodes.getD q MNode.reset).queue.length else 0) ++
    fl.streams.flatMap (fun e => leBytes 4 (mapEntry e)) ++
    fl.slots.flatMap (fun s => leBytes 8 (mapSlot s)) ++
    List.replicate 640 0
  bytes.map (fun b => BitVec.ofNat 8 b)

/-- Address of the map of floe-list entry i (R273). -/
def mapAddr (r : Region) (i : Nat) : Nat := regCtx r + 2 ^ 30 + 0x1000 + 1024 * i

/-- Write the map of floe f: the first write of a region that fails leaves one END record (R455). bad: one has failed. -/
def writeMap (r : Region) (s : Data × Bool) (f : Nat) : Data × Bool :=
  let d := s.1
  let a := mapAddr r (getFloe d f).entry
  match reach d (reqRook r.x) vaPlace a 1024 .write with
  | (d, .ok loc) => (memWriteBytes d loc (occupancyMap d f) false, s.2)
  | (d, .error fc) =>
    (if s.2 then d
     else emitRec d (4 + r.x) (feNow d r.x)
      { recZero with kind := 2, cls := fc.1, cause := fc.2, utype := 8, unit := 4 + r.x, mid := 0xD8 + 4 * r.x, addr := a }, true)

/-- A stalemate is declared (R279): masks, maps, one HANG record from the die of the lowest floe-list entry concerned, and the
region fails. -/
def declareStalemate (d : Data) (r : Region) (cause entry : Nat) : Data :=
  let f := r.floes.getD entry 0
  let d := r.floes.foldl (fun d f => modFloe d f (fun fl => { maskFloe fl with judged := true, frozen := fl.frozen })) d
  let d := (r.floes.foldl (writeMap r) (d, false)).1
  let d := emitRec d (dieOf f) (getFloe d f).advc
    { recZero with kind := 3, cls := 0x0D, cause := cause, utype := 9, unit := dieOf f, mid := f, addr := mapAddr r entry }
  failRegion d r.lid

/-- A floe holds work: an incomplete command or a word in its field. -/
def floeWork (fl : Floe) : Bool := ! (fl.streams.filterMap id).isEmpty || ! maskDrained fl

/-- The region still holds work (R278). -/
def regionWork (d : Data) (r : Region) : Bool := ! allRetired r || r.floes.any (fun f => floeWork (getFloe d f))

/-- REGION_STALEMATE (R278, R279): cause 0x04. -/
def regionStalemate (d : Data) (lid : Nat) : Data :=
  match getRegion d lid with
  | none => d
  | some r =>
    if r.st = .resident ∧ r.floes.all (fun f => decide (r.slim ≤ (getFloe d f).quiet)) = true ∧ regionWork d r = true then
      declareStalemate d r 4 0
    else d

/-- See regionStalemate. -/
def execRegionStalemate (lid : Nat) (s : State) : Host.Outcome State Fault Refusal := nextD s (fun d => regionStalemate d lid)

/-- DRAIN_STALEMATE (R278, R279): a floe that is DRAINING or masked for a DELTA, cause 0x05. -/
def drainStalemate (d : Data) (f : Nat) : Data :=
  let fl := getFloe d f
  match fl.lid with
  | none => d
  | some l =>
    match getRegion d l with
    | none => d
    | some r =>
      if r.st = .resident ∧ r.slim ≤ fl.quiet ∧ (fl.cfg.state = .draining ∨ fl.deltaMask = true) then
        declareStalemate d r 5 fl.entry
      else d

/-- See drainStalemate. -/
def execDrainStalemate (f : Nat) (s : State) : Host.Outcome State Fault Refusal := nextD s (fun d => drainStalemate d f)

end Sys2Proof.Machine
end

