-- ==== Sys2Proof/Machine/Service.lean ====
section
/-!
DEFINITION. Service of stopped and waiting units: page walks, the translation registers (R261-R265), RETRY (R271), held fault
records and mailbox registers (R23, R457), paired counts (R17), and the completion of issues that wait (R37).
-/

namespace Sys2Proof.Machine

/-- PAGE_WALK (R263, R264): a walk for floe f fills the TLBs with its leaf; one that faults leaves them. -/
def execPageWalk (f : Nat) (va : BitVec 52) (need : Need) (s : State) : Host.Outcome State Fault Refusal :=
  nextD s (fun d => (translate d (reqFloe f) va.toNat need).1)

/-! ## The fault mailbox (R23, R457) -/

/-- The oldest held record enters the mailbox, when it has room; an embedding engine that held it does the updates it had left. -/
def heldRecord (d : Data) (x : Nat) : Data :=
  match (getIo d x).heldRecs, mbxRoom d x with
  | ws :: rest, some loc =>
    let d := modIo (mbxWrite d x loc ws) x (fun io => { io with heldRecs := rest })
    let h := ws.getD 0 0
    if wb h 19 5 = 4 ∧ wb h 24 8 < 4 then stepsGo d (wb h 24 8) else d
  | _, _ => d

/-- The front end of I/O die x reads the oldest record it has not read (R22, R26). -/
def feRead (d : Data) (x : Nat) : Data :=
  modIo d x (fun io => if io.inReset || io.held then io else { io with unread := io.unread.drop 1 })

/-- HELD_RECORD_WRITE (R23). -/
def execHeldRecordWrite (x : Nat) (s : State) : Host.Outcome State Fault Refusal := nextD s (fun d => heldRecord d x)

/-- MBXCONS (R457): a value below the current one or above MBXPROD is ignored. -/
def execMbxconsWrite (x : Nat) (v : BitVec 64) (s : State) : Host.Outcome State Fault Refusal :=
  hostWrite s (fun d =>
    let io := getIo d x
    if io.inReset = false ∧ io.mbxcons.toNat ≤ v.toNat ∧ v.toNat ≤ io.mbxprod.toNat then modIo d x (fun io => { io with mbxcons := v })
    else d)

/-- MBXBASE (R457): ignored when malformed or while the mailbox holds records. -/
def execMbxbaseWrite (x : Nat) (v : BitVec 64) (s : State) : Host.Outcome State Fault Refusal :=
  hostWrite s (fun d =>
    let io := getIo d x
    if io.inReset = false ∧ (mbxLoc d v).isSome = true ∧ io.mbxprod = io.mbxcons then modIo d x (fun io => { io with mbxbase := v })
    else d)

/-- QTBASE (R457): ignored when malformed or while a queue of the die is enabled. -/
def execQtbaseWrite (x : Nat) (v : BitVec 64) (s : State) : Host.Outcome State Fault Refusal :=
  hostWrite s (fun d =>
    if (getIo d x).inReset = false ∧ addrForm v 64 = true ∧ d.swqs.any (fun e => e.2.x == x && e.2.st != .disabled) = false then
      modIo d x (fun io => { io with qtbase := v })
    else d)

/-- PAIRED_COUNT_DELIVERY (R17): every 4,096 front-end cycles the units served take the front-end count. -/
def execPairedCountDelivery (x : Nat) (s : State) : Host.Outcome State Fault Refusal :=
  nextD s (fun d => modIo d x (fun io =>
    if io.inReset = false ∧ io.paired + 4096 ≤ io.feCount then { io with paired := io.feCount / 4096 * 4096 } else io))

/-! ## Translation registers (R265) -/

/-- The bits PTROOT holds. -/
def ptrootBits (v : Word) : Word := v &&& 0x000FFFFFFFFF0061#64

/-- PTROOT: ignored while any launch is live. -/
def execPtrootWrite (v : BitVec 64) (s : State) : Host.Outcome State Fault Refusal :=
  hostWrite s (fun d => if anyLive d then d else { d with ptroot := ptrootBits v })

/-- Size of the block a TLBI names, none for every entry. -/
def tlbiSize (v : Word) : Option Nat :=
  match wb v 0 4 with
  | 0 => some (2 ^ 16)
  | 1 => some (2 ^ 21)
  | 2 => some (2 ^ 30)
  | _ => none

/-- A TLB entry overlaps the range of a TLBI. -/
def tlbiHits (v : Word) (e : TlbEnt) : Bool :=
  match tlbiSize v with
  | none => true
  | some n =>
    let lo := wb v 16 36 * 2 ^ 16 / n * n
    decide (e.va < lo + n) && decide (lo < e.va + e.size)

/-- TLBI: the entries are dropped, and TLBIS shows busy until it completes. -/
def execTlbi (v : BitVec 64) (s : State) : Host.Outcome State Fault Refusal :=
  hostWrite s (fun d =>
    { d with
      floes := d.floes.map (fun fl => { fl with utlb := fl.utlb.filter (fun e => ! tlbiHits v e) }),
      dies := d.dies.map (fun c => { c with stlb := c.stlb.filter (fun e => ! tlbiHits v e) }),
      tlbBusy := true })

/-- TLBI_COMPLETE: TLBIS reads 0. -/
def execTlbiComplete (s : State) : Host.Outcome State Fault Refusal := nextD s (fun d => { d with tlbBusy := false })

/-! ## RETRY (R265, R271) -/

/-- A sequencer's stopped fetch in slot e, or a stopped CFGL of the floe. -/
def retrySeq (d : Data) (f e : Nat) : Data :=
  let d := if (getSlot d f e).block = .fetch then modSlot d f e (fun s => { s with block := .none }) else d
  if e = 0 then modFloe d f (fun fl => { fl with cfg := { fl.cfg with stopped := false } }) else d

/-- A STOPPED stream command. -/
def retryStream (d : Data) (f e : Nat) : Data :=
  match getCmd d f e with
  | some c => if c.st = .stopped then setCmd d f e (some { c with st := .active }) else d
  | none => d

/-- A stopped Firn engine. -/
def retryFirn (d : Data) (die n : Nat) : Data :=
  match firnCmd d die n with
  | some c => setFirn d die n (some { c with stopped := false })
  | none => d

/-- A stopped embedding engine: its own updates, and every command it has stopped. -/
def retryEmb (d : Data) (die : Nat) : Data :=
  let d := ((getEmb d die).cmds.filter (fun x => x.op == 2 && x.stopped == some die)).foldl (resendLost die) d
  let d := { d with dies := d.dies.map (fun c => { c with
    emb := { c.emb with cmds := c.emb.cmds.map (fun x => if x.stopped == some die then { x with stopped := none } else x) } }) }
  stepRetry d die

/-- The unit a RETRY names goes on at its restart point; one that names no stopped unit has no effect, nor has one that names a
unit whose record the mailbox has not accepted: it stays stalled (R23). -/
def retryUnit (d : Data) (utype unit entry : Nat) : Data :=
  if unitHeld d utype unit entry then d
  else match utype with
  | 0 => if unit < 144 then retrySeq d unit entry else d
  | 1 => if unit < 144 then retryStream d unit entry else d
  | 3 => if unit < 4 ∧ entry < 8 then retryFirn d unit entry else d
  | 4 => if unit < 4 ∧ entry = 0 then retryEmb d unit else d
  | 5 => if unit < 4 ∧ entry < 4 then modSol d unit entry (fun x => { x with stopped := false }) else d
  | 6 => if unit < 4 ∧ entry = 0 then
      modDie d unit (fun c => { c with queues := c.queues.map (fun q => { q with stalled := false }) })
    else d
  | 7 => if 4 ≤ unit ∧ unit < 6 ∧ entry < 8 then modPipe d (8 * (unit - 4) + entry) (fun p => { p with stalled := false }) else d
  | _ => d

/-- RETRY. -/
def execRetry (v : BitVec 64) (s : State) : Host.Outcome State Fault Refusal :=
  hostWrite s (fun d => if wb v 18 46 = 0 then retryUnit d (wb v 0 5) (wb v 5 8) (wb v 13 5) else d)

/-! ## Issues that wait (R37) -/

/-- The read, check or reply an instruction waits for at issue has come. -/
def issueComplete (d : Data) (i : Instr) : Data :=
  match i with
  | .ltld _ e j => ltldRead d e j
  | .qctlCfg _ a t => qctlCfgRead d a t
  | .cfgg _ _ => retireAt d d.curF d.curK
  | .egat _ tag t a => embRead d 1 tag t a
  | .eupd _ tag t a => embRead d 2 tag t a
  | .epin _ tag t a => embRead d 3 tag t a
  | .ingqStart _ tag t a => ingqRead d tag t a
  | .ssqCfg _ a t tag => solRead d a t tag false
  | .ssqGo _ a t tag => solRead d a t tag true
  | _ => d

/-- ISSUE_COMPLETION (R37): once the TP's earlier accesses have performed. -/
def execIssueCompletion (f k : Nat) (s : State) : Host.Outcome State Fault Refusal :=
  nextD s (fun d =>
    let sl := getSlot d f k
    match sl.block with
    | .issue i =>
      if sl.st = .live ∧ earlierPending sl.tp = false ∧ (getFloe d f).halted = false then
        issueComplete { d with curF := f, curK := k, curW := sl.word } i
      else d
    | .vstRel r x v =>
      if sl.st = .live ∧ earlierPending sl.tp = false ∧ (getFloe d f).halted = false then vstTry d f k r x v true else d
    | _ => d)

end Sys2Proof.Machine
end

