-- ==== Sys2Proof/Machine/Hostif.lean ====
section
/-!
DEFINITION. What the host, the pod and the management plane do to the module: BAR0 registers and access tables (R284, R287,
R290-R293), inbound requests (R286, R288), UALink faults (R289), clocks and telemetry (R19, R24), resets and start-up
(R25, R296-R303).
-/

namespace Sys2Proof.Machine

/-! ## Registers without behaviour of their own (R284, R287, R290) -/

/-- A host write of a doubleword at a BAR0 offset, outside the recovery window. -/
def regWrite (d : Data) (started : Bool) (off : Nat) (v : Word) : Data :=
  if off = 0x8 then { d with modid := BitVec.ofNat 16 (wb v 0 16) }
  else if off = 0x10 then { d with hbar := w64 (wb v 30 22 * 2 ^ 30) }
  else if started = false ∨ off % 8 ≠ 0 then d
  else if 0xF0000 ≤ off ∧ off < 0xF0040 then { d with staged := d.staged.set ((off - 0xF0000) / 8) v }
  else if 0x1000000 ≤ off ∧ off < 0x1002000 then
    (if anyLive d then d else { d with routes := spSet 0 d.routes ((off - 0x1000000) / 8) (wb v 0 12) })
  else if 0x1002000 ≤ off ∧ off < 0x1002400 then
    let i := (off - 0x1002000) / 8
    { d with widRoutes := spSet 0 d.widRoutes i (if i % 2 = 0 then v.toNat else wb v 16 48 * 2 ^ 16 + wb v 0 10) }
  else d

/-- A host write to the staging buffer of the recovery window, active in minimal mode (R303). -/
def stageWrite (m : Mgmt) (off : Nat) (v : Word) : Mgmt :=
  if m.boot = .minimal ∧ 0x2000000 ≤ off ∧ off < 0x2010000 ∧ off % 8 = 0 then
    { m with staging := writeNum m.staging (off - 0x2000000) 8 v.toNat }
  else m

/-! ## Reads of BAR0 (R7, R265, R284, R287, R292, R293, R301, R303, R457) -/

/-- STATE of BOOTSTS (R301). -/
def bootCode : BootState → Nat
  | .rom => 1
  | .verify => 2
  | .train => 3
  | .load => 4
  | .started => 5
  | .minimal => 6

/-- BOOTSTS (R301). -/
def bootsts (m : Mgmt) : Word :=
  w64 (bootCode m.boot + m.fails % 16 * 2 ^ 4 + m.reason.toNat * 2 ^ 8 + m.xd % 4 * 2 ^ 16 + m.svn.toNat * 2 ^ 24)

/-- The register at an offset of the identity window. -/
def identityReg (s : State) (off : Nat) : Word :=
  if off = 0 then bootsts s.mg else if off = 8 then w64 s.d.modid.toNat else if off = 0x10 then s.d.hbar else 0

/-- The register at an offset of a front end's window (R457); one that is only written reads as zero (log entry 156). -/
def frontReg (io : IoDie) (off : Nat) : Word :=
  if off = 0x8 then io.qtbase else if off = 0x18 then io.mbxbase else if off = 0x20 then io.mbxprod
  else if off = 0x28 then io.mbxcons else 0

/-- Doubleword i of an access-table entry with its reserved bits zero (R7, R292). -/
def aclBits (i : Nat) (v : Word) : Word := v &&& (if i % 2 = 0 then 0x000FFFFFFFFFF01F#64 else 0x000FFFFFFFFFF000#64)

/-- A doubleword of the staged entry. -/
def stagedReg (d : Data) (i : Nat) : Word := aclBits i (d.staged.getD i 0)

/-- The register at an offset of the windows that STARTED opens. -/
def openReg (d : Data) (off : Nat) : Word :=
  if 0x10000 ≤ off ∧ off < 0x12000 then frontReg (getIo d ((off - 0x10000) / 0x1000)) (off % 0x1000)
  else if off = 0x20000 then d.ptroot
  else if off = 0x20010 then w64 (if d.tlbBusy then 1 else 0)
  else if 0xF0000 ≤ off ∧ off < 0xF0040 then stagedReg d ((off - 0xF0000) / 8)
  else if off = 0xF0040 then d.atcmd &&& 0xC000FF3F#64
  else if 0x100000 ≤ off ∧ off < 0x100000 + 0x4000 * 61 then
    aclBits ((off - 0x100000) / 8) (w64 (spGet 0 d.acl ((off - 0x100000) / 8)))
  else if 0x1000000 ≤ off ∧ off < 0x1002000 then w64 (spGet 0 d.routes ((off - 0x1000000) / 8))
  else if 0x1002000 ≤ off ∧ off < 0x1002400 then w64 (spGet 0 d.widRoutes ((off - 0x1002000) / 8))
  else 0

/-- The recovery window in minimal mode (R303). -/
def recoveryReg (m : Mgmt) (off : Nat) : Word :=
  if 0x2000000 ≤ off ∧ off < 0x2010000 then w64 (readNum m.staging (off - 0x2000000) 8)
  else if off = 0x2010000 then w64 (m.rcmdReason.toNat * 2 ^ 8)
  else 0

/-- What a host read of the doubleword at a BAR0 offset returns. -/
def bar0Value (s : State) (off : Nat) : Word :=
  if off % 8 ≠ 0 then 0
  else if off < 0x10000 then identityReg s off
  else if 0x2000000 ≤ off then (if s.mg.boot = .minimal then recoveryReg s.mg off else 0)
  else if s.mg.boot = .started then openReg s.d off
  else 0

/-- A reply goes back to the requester. -/
def reply (d : Data) (bs : List Byte) : Data := { d with replies := bs :: d.replies }

/-- A host read of BAR0; every write of the host before it has performed (R286). -/
def bar0Read (s : State) (off : Nat) : Host.Outcome State Fault Refusal :=
  nextD s (fun d => reply d (numBytes 8 (bar0Value s off).toNat))

/-- REGISTER_WRITE (R284). -/
def execRegisterWrite (off : Nat) (v : BitVec 64) (s : State) : Host.Outcome State Fault Refusal :=
  nextDM s (fun d => regWrite d (s.mg.boot == .started) off v) (fun m => stageWrite m off v)

/-! ## ATCMD (R292, R293) -/

/-- The staged entry is refused: a reserved field, or a window with LIMIT below BASE. -/
def stagedBad (l : List Word) : Bool :=
  (List.range 4).any (fun w =>
    let a := l.getD (2 * w) 0
    let b := l.getD (2 * w + 1) 0
    wb a 52 12 != 0 || wb a 5 7 != 0 || wb b 52 12 != 0 || wb b 0 12 != 0 || decide (wb b 12 40 < wb a 12 40))

/-- The staged entry becomes entry m of the table of target t in one step. -/
def aclInstall (d : Data) (t m : Nat) : Data :=
  { d with acl := (List.range 8).foldl (fun a i => spSet 0 a ((t * 256 + m) * 8 + i) (d.staged.getD i 0).toNat) d.acl }

/-- ATCMD. -/
def execAtcmd (v : BitVec 64) (s : State) : Host.Outcome State Fault Refusal :=
  hostWrite s (fun d =>
    let v' := v &&& ~~~(0x40000000#64)
    if v.getLsbD 31 = false then { d with atcmd := v' }
    else if 60 < wb v 0 6 ∨ stagedBad d.staged = true then { d with atcmd := v' ||| 0x40000000#64 }
    else aclInstall { d with atcmd := v' } (wb v 0 6) (wb v 8 8))

/-! ## Inbound requests (R286, R288) -/

/-- The space of a target. -/
def inSpace : InTarget → Nat
  | .l2 => 1
  | .hbm => 3
  | .lpd => 4

/-- The machine address of an inbound request: a device virtual address is translated here (R172); an L2 address keeps its
form; a physical address is taken as it is. -/
def inReach (d : Data) (q : Req) (t : InTarget) (virt : Bool) (a n : Nat) (need : Need) : Data × Acc Nat :=
  let phys : Nat → Nat → Data × Acc Nat := fun loc size =>
    if a + n ≤ size then (match physFault d q.mid (needRight need) loc n with
      | some fc => (d, .error fc)
      | none => (d, .ok loc))
    else (d, .error (3, 1))
  match t with
  | .l2 => reachLocal d q 1 a n need
  | .hbm => if virt then reachLocal d q 3 a n need else phys (locHbm a) Config.hbmSize
  | .lpd => if virt then reachLocal d q 4 a n need else phys (locLpd a) Config.lpdSize

/-- The n bytes at a machine address. -/
def bytesAt (d : Data) (loc n : Nat) : List Byte := (keysFrom loc n).map (memByte d)

/-- The parts of n bytes at a in 4 KiB units: address and length. -/
def unitParts (a n : Nat) : List (Nat × Nat) :=
  if n = 0 then []
  else (List.range ((a + n - 1) / 4096 - a / 4096 + 1)).map (fun i =>
    let lo := max a ((a / 4096 + i) * 4096)
    (lo, min (a + n) ((a / 4096 + i + 1) * 4096) - lo))

/-- An inbound read, write or atomic. Each 4 KiB unit is a part of its own, with its own reply (log entry 157): a part that is refused changes nothing
at the target, and its reply is empty (R293). -/
def inAccess (d : Data) (q : Req) (r : Inbound) : Data :=
  match r with
  | .read t virt a n =>
    (unitParts a n).foldl (fun d p =>
      match inReach d q t virt p.1 p.2 .read with
      | (d, .error _) => reply d []
      | (d, .ok loc) => reply d (bytesAt d loc p.2)) d
  | .write t virt a bs psn =>
    (unitParts a bs.length).foldl (fun d p =>
      match inReach d q t virt p.1 p.2 .write with
      | (d, .error _) => reply d []
      | (d, .ok loc) => memWriteBytes d loc ((bs.drop (p.1 - a)).take p.2) psn) d
  | .atomic t virt a op v cmp =>
    (match inReach d q t virt a 4 .readWrite with
      | (d, .error _) => reply d []
      | (d, .ok loc) =>
        if poisoned d loc 4 then reply d []
        else
          let old := BitVec.ofNat 32 (memRead d loc 4)
          reply (memWrite d loc 4 (atomNew op old v cmp).toNat false) (bytesAt d loc 4))
  | _ => d

/-- A host request names device physical memory: HBM through the aperture at HBAR, LPD through the HDM range (R284-R286). -/
def hostMay (d : Data) (r : Inbound) : Bool :=
  let inBar := fun a n => decide (d.hbar.toNat ≤ a) && decide (a + n ≤ d.hbar.toNat + 2 ^ 36)
  let inHdm := fun a n => decide (d.hdm.1 ≤ a) && decide (a + n ≤ d.hdm.1 + d.hdm.2)
  match r with
  | .read .hbm false a n => inBar a n
  | .write .hbm false a bs _ => inBar a bs.length
  | .atomic .hbm false a _ _ _ => inBar a 4
  | .read .lpd false a n => inHdm a n
  | .write .lpd false a bs _ => inHdm a bs.length
  | .atomic .lpd false a _ _ _ => inHdm a 4
  | _ => false

/-- The host programs the HDM decoder: one range of LPD of up to its 1,024 GB (R285); one beyond LPD is not taken (log entry 158). -/
def hdmWrite (base len : Nat) (d : Data) : Data :=
  if base + len ≤ Config.lpdSize then { d with hdm := (base, len) } else d

/-- The host function as a requester: MID 0xEC. -/
def reqHost : Req := { mid := 0xEC, floe := none, die := 0 }

/-- HOST_INBOUND_REQUEST (R286). -/
def execHostInboundRequest (r : Inbound) (s : State) : Host.Outcome State Fault Refusal :=
  hostWrite s (fun d => if hostMay d r then inAccess d reqHost r else d)

/-- A receiving station as a requester. -/
def reqStation (s : Nat) : Req := { mid := 0xE0 + s, floe := none, die := s / 6 }

/-- A token word from another module (R290): delivered when a launch here holds its destination; else it goes back to the sending
module as NOWID. -/
def inToken (d : Data) (word dst src : Word) (c : BitVec 2) : Data :=
  let m : TokMsg := { word := word, dst := dst, src := src, srcOwner := ⟨65536, 0⟩, c := c }
  match launchOf d dst with
  | none => { d with bounced := m :: d.bounced }
  | some _ => deliver d m

/-- PEER_INBOUND_REQUEST (R288). -/
def execPeerInboundRequest (station : Nat) (r : Inbound) (s : State) : Host.Outcome State Fault Refusal :=
  nextD s (fun d =>
    if stationUp d station then
      match r with
      | .token word dst src c => inToken d word dst src c
      | .emb die m => if die < 4 ∧ (getDie d die).inReset = false then embInbound d station die m else d
      | _ => inAccess d (reqStation station) r
    else d)

/-! ## UALink faults (R289) -/

/-- The station's link is down, and it leaves every mask that holds it. -/
def stationOut (d : Data) (station : Nat) : Data :=
  let d := modIo d (station / 6) (fun io => { io with links := io.links.set (station % 6) false })
  { d with routes := d.routes.foldl (fun t e => spSet 0 t e.1 (if e.2.testBit station then e.2 - 2 ^ station else e.2)) [] }

/-- What the station had sent goes once more by another station of its mask (log entry 174); a token word that no station reaches
its module with any more finds no route (R290). -/
def sentAgain (d : Data) (station : Nat) : Data :=
  let by' : Nat × Nat × TokMsg → Option (Nat × Nat × TokMsg) := fun x =>
    if x.2.1 = station then (wordStation d x.1 x.2.2.dst).map (fun s => (x.1, s, x.2.2)) else some x
  let lost := d.sent.filter (fun x => (by' x).isNone)
  lost.reverse.foldl (fun d x => deadLetter d x.2.2.srcOwner.lid x.2.2 2)
    { d with
      sent := d.sent.filterMap by',
      embSent := d.embSent.map (fun x => if x.2.1 = station then (x.1, embStation d x.1, x.2.2) else x) }

/-- Modules that only this station reaches. -/
def onlyBy (d : Data) (station : Nat) : List Nat := (d.routes.filter (fun e => e.2 == 2 ^ station)).map (fun e => e.1)

/-- The engine commands with requests at modules that no station reaches any more stop, and the rows whose copies were on their way
there stay (R289). -/
def modulesLost (d : Data) (ms : List Nat) : Data :=
  ms.foldl (fun d m => (List.range 4).foldl (fun d c => copiesLost c m ((getEmb d c).cmds.foldl (moduleLost c m) d)) d) d

/-- UALINK_LINK_DOWN (R289): a stream, a LAY or an ATOM meets the changed masks at its next request. -/
def execUalinkLinkDown (station : Nat) (s : State) : Host.Outcome State Fault Refusal :=
  nextD s (fun d => modulesLost (sentAgain (stationOut d station) station) (onlyBy d station))

/-- An entry lies in PEER space of another module. -/
def farPeer (d : Data) (e : List Word) : Bool := lteSpace e == 6 && ltePmod e != d.modid.toNat

/-- A command's first or second tile, where it is in PEER space of another module, and whether the command writes it. -/
def cmdPeer (d : Data) (c : Cmd) (second : Bool) : Option (View × Bool) :=
  let writes : Bool := match c.kind with
    | .swr => true
    | .ssct _ => true
    | .smov => true
    | _ => false
  ((if second then c.tile2 else c.tile).filter (fun v => farPeer d v.lte)).map (fun v => (v, writes && ! second))

/-- The element of one of its tiles that a command is at: the index of its record, an element of the row that index names, or one of
its word in hand. -/
def elemNext (d : Data) (f : Nat) (c : Cmd) (v : View) (second : Bool) : List Int :=
  if isGather c.kind then
    (if second then winCoords v 0 c.pos
     else match (readIndex d f c c.pos).2 with
      | .ok i => (rowWordCoords v i.1.toInt c.sub).headD []
      | .error _ => [])
  else ((wordCoords c v c.words).drop (c.pos - wordPos c c.words)).headD []

/-- A request of a unit to another module ends with ENGINE 0x51 (R289): a command stops as for an ACCESS refusal, an ATOM
traps its TP (R334). -/
def linkFail (d : Data) (u : LinkUser) : Data :=
  match u with
  | .unit (.floe f e) second =>
    (match getCmd d f e with
      | none => d
      | some c =>
        match cmdPeer d c second with
        | some (v, wr) =>
          if c.st = .active ∧ c.killed = none then
            streamStop d f e c wr ((0x10, 0x51), elemAddr v.lte (elemNext d f c v second))
          else d
        | none => d)
  | .unit (.firn die n) second =>
    (match firnCmd d die n with
      | none => d
      | some c =>
        if c.stopped = false ∧ c.pos < layTotal c ∧ farPeer d (if second then c.dst else c.src) = true then
          layStop d die n c second (if second then elemAddr c.dst (layDst c) else elemAddr c.src (laySrc c)) (0x10, 0x51)
        else d)
  | .engine die c p =>
    (match embAt d die c with
      | none => d
      | some x => if embRuns d die x then engineLost d die x p (0x10, 0x51) else d)
  | .access f k i =>
    match (getTp d f k).pends.find? (fun p => p.id == i) with
    | none => d
    | some p => if p.peer.isSome && isMem p then pendTrap d f k p (0x10, 0x51) else d

/-- UALINK_ERROR_COMPLETION. -/
def execUalinkErrorCompletion (u : LinkUser) (s : State) : Host.Outcome State Fault Refusal := nextD s (fun d => linkFail d u)

/-- UALINK_COMPLETION_TIMEOUT. -/
def execUalinkCompletionTimeout (u : LinkUser) (s : State) : Host.Outcome State Fault Refusal := nextD s (fun d => linkFail d u)

/-! ## Clocks and telemetry (R19, R24) -/

/-- CLOCK_STEP_DOWN: 25 MHz lower, not below 300. -/
def execClockStepDown (s : State) : Host.Outcome State Fault Refusal :=
  nextDM s id (fun m => { m with clock := if 325 ≤ m.clock then m.clock - 25 else m.clock })

/-- CLOCK_STEP_UP: 25 MHz higher, not above 600. -/
def execClockStepUp (s : State) : Host.Outcome State Fault Refusal :=
  nextDM s id (fun m => { m with clock := if m.clock + 25 ≤ 600 then m.clock + 25 else m.clock })

/-- The value of a telemetry counter of a die: 0 its corrected errors (R280), 1 the front-end status of an I/O die (R299), from
2 to 15 the local counts of a compute die's engines (R17), and from 16 on two of each floe, named by f (R13): 16 + 2f the cycles of
its sequencer, 17 + 2f its advance cycles. The numbers are the model's (log entry 159). -/
def telemetryValue (s : State) (die counter : Nat) : Nat :=
  match counter with
  | 0 => s.mg.corrected.getD die 0
  | 1 => (s.mg.fes.getD (die - 4) 0).toNat
  | n =>
    if n < 16 then (getDie s.d die).counts.getD (n - 2) 0
    else if n % 2 = 0 then (getFloe s.d ((n - 16) / 2)).seqc
    else (getFloe s.d ((n - 16) / 2)).advc

/-- TELEMETRY_READ (R24): it changes no state a program can observe. -/
def execTelemetryRead (die counter : Nat) (s : State) : Host.Outcome State Fault Refusal :=
  nextDM s id (fun m => { m with telemetry := telemetryValue s die counter :: m.telemetry })

/-! ## Resets (R22, R25, R297) -/

/-- The memory cells of a floe lose their contents: what they read as is open. -/
def loseCells (d : Data) (f : Nat) : Data := poisonWrite (devWrite d (locFloe f 0) (2 ^ 22)) (locFloe f 0) (2 ^ 22) false

/-- Launches with a floe on a die. -/
def regionsOn (d : Data) (die : Nat) : List Nat :=
  (d.regions.filter (fun r => regionLive r && r.floes.any (fun f => dieOf f == die))).map (fun r => r.lid)

/-- The commands of a die's Firn and embedding engines are lost. -/
def loseCommands (d : Data) (die : Nat) : Data :=
  modDie d die (fun c => { c with firnQ := [], firn := c.firn.map (fun _ => none), emb := { c.emb with cmds := [] } })

/-- A compute die loses the state of every floe and engine; each region with a floe on it fails (R25). -/
def computeReset (d : Data) (die : Nat) : Data :=
  let d := (regionsOn d die).foldl failRegion (loseCommands d die)
  let d := { d with floes := d.floes.mapIdx (fun f fl => if dieOf f = die then Floe.reset else fl) }
  (List.range 36).foldl (fun d i => loseCells d (36 * die + i)) (modDie d die (fun _ => Die.reset))

/-- The software queues an I/O die serves are DISABLED, each without its packet in hand (R249). -/
def queuesOff (d : Data) (x : Nat) : Data :=
  (d.swqs.filter (fun e => e.2.x == x)).foldl (fun d e =>
    modSwq (dropPacket d e.1) e.1 (fun s => { s with st := .disabled })) d

/-- An I/O die stops: its cores, pipes, stations and LPDDR6 channels. Records that wait for its mailbox still wait (R23), and
the count last delivered stays with the units (R17). -/
def ioReset (d : Data) (x : Nat) : Data :=
  queuesOff (modIo d x (fun io => { IoDie.reset with heldRecs := io.heldRecs, paired := io.paired })) x

/-- A die of the module is reset: compute dies 0-3, I/O dies 4 and 5. -/
def dieInReset (d : Data) (die : Nat) : Data := if die < 4 then computeReset d die else ioReset d (die - 4)

/-- DIE_RESET (R25). -/
def execDieReset (die : Nat) (s : State) : Host.Outcome State Fault Refusal :=
  nextDM s (fun d => dieInReset d die) (fun m => if die < 4 then m else { m with fes := m.fes.set (die - 4) 0 })

/-- FLR (R297): every region fails with code 0x07, and every software queue is disabled. -/
def flrEffect (d : Data) : Data :=
  let d := (d.regions.filter regionLive).foldl (fun d r => failRegion d r.lid) d
  d.swqs.foldl (fun d e => dropHwSlot (swqSet (dropPacket d e.1) e.1 (fun s => { s with st := .disabled })) e.2.x e.1) d

/-- FLR. -/
def execFlr (s : State) : Host.Outcome State Fault Refusal := nextD s flrEffect

/-! ## Start-up (R298-R303) -/

/-- A start begins (R298 step 1, R302): every die is held in reset, the count of starts in flash rises. -/
def startBegins (m : Mgmt) : Mgmt :=
  { m with
    boot := .rom, fails := min 3 (m.fails + 1), failed := false, xd := 0, bad := [], starts := m.starts + 1, clock := 600, staging := [],
    rcmdReason := 0, fes := [0, 0], corrected := List.replicate 6 0 }

/-- The data plane at a new start: memories outside the dies keep their contents, and so does L2; the memory cells lose theirs. -/
def coldData (d : Data) : Data :=
  (List.range 144).foldl loseCells { Data.reset with
    mem := d.mem, poison := d.poison, devFmt := d.devFmt, hostHoles := d.hostHoles, replies := d.replies, sent := d.sent,
    bounced := d.bounced, peerNo := d.peerNo, embSent := d.embSent }

/-- PERST (R297, R298). -/
def execPerst (s : State) : Host.Outcome State Fault Refusal := nextDM s coldData startBegins

/-- A start is in progress: it has neither ended nor failed. -/
def starting (m : Mgmt) : Bool := m.boot != .started && m.boot != .minimal && ! m.failed

/-- A key of the manifest against the fuses: none where its hash is not fused, else whether it is revoked. -/
def keyFuse (fuses : List (BitVec 384 × Bool)) (key : BitVec 384) : Option Bool :=
  (fuses.find? (fun e => e.1 == key)).map (fun e => e.2)

/-- The reason a flash image fails verification under R300 for, or 0: both signatures against the fused key hashes, the revocation
fuses, the fused security version, and the images by their hashes (R298-R301). Of several reasons log entry 172 names one. -/
def verifyFlash (m : Mgmt) : Nat :=
  let e := keyFuse m.ecdsaFuses (Config.imageEcdsaKey m.flash)
  let l := keyFuse m.lmsFuses (Config.imageLmsKey m.flash)
  if ! Config.imageReadable m.flash then 10
  else if ! Config.imageFormed m.flash then 4
  else if e = some true ∨ l = some true then 9
  else if e.isNone || ! Config.imageEcdsaGood m.flash then 1
  else if l.isNone || ! Config.imageLmsGood m.flash then 2
  else if Config.imageSvn m.flash % 256 < m.svn.toNat then 3
  else 0

/-- The management core's boot ROM has read the manifest (R298 step 1): a start that ROM begins goes on to VERIFY. -/
def romReads (m : Mgmt) : Mgmt := if m.boot = .rom ∧ m.failed = false then { m with boot := .verify } else m

/-- A die is released: a compute die or an I/O die out of its reset state (R22), with the queues it serves DISABLED (R249). -/
def dieRelease (d : Data) (die : Nat) : Data :=
  if die < 4 then modDie d die (fun c => { c with inReset := false })
  else queuesOff (modIo d (die - 4) (fun io => { io with inReset := false })) (die - 4)

/-- I/O die X0 fails its self-test at this start. -/
def selfTestBad (m : Mgmt) (die : Nat) : Bool := die == 4 && Config.selfTestFails m.starts

/-- The management core may release a die: at a start that has verified the manifest and its images, and has not failed (R298);
or while STARTED (R25). -/
def mayRelease (m : Mgmt) : Bool :=
  m.boot == .started ||
    (starting m && (m.boot == .train || m.boot == .load || (m.boot == .verify && verifyFlash m == 0)))

/-- What the release of a die does to the start: training begins, and X0's self-test decides the host I/O die (R284, R298). -/
def releaseMgmt (die : Nat) (m : Mgmt) : Mgmt :=
  if ! mayRelease m then m
  else
    let m := if m.boot = .verify then { m with boot := .train } else m
    if selfTestBad m die then { m with bad := [0], xd := 1 } else m

/-- DIE_LEAVES_RESET (R22, R25, R249, R298). -/
def execDieLeavesReset (die : Nat) (s : State) : Host.Outcome State Fault Refusal :=
  nextDM s (fun d => if mayRelease s.mg && ! selfTestBad s.mg die then dieRelease d die else d) (releaseMgmt die)

/-- The access tables of a flash image (R298), their reserved bits zero (R292). -/
def imageAcl (flash : List Byte) : Table :=
  (List.range 61).foldl (fun t x => (List.range 256).foldl (fun t m => (List.range 8).foldl (fun t i =>
    spSet 0 t ((x * 256 + m) * 8 + i) (aclBits i (Config.imageTable flash x m i)).toNat) t) t) []

/-- The Rook cores of a die run the firmware of the image: the instruction memory of each, 2^40 bytes in the model, holds that one
image (log entry 128), and it installs the tables. -/
def bootCores (d : Data) (x : Nat) (flash : List Byte) : Data :=
  let d := (List.range 4).foldl (fun d n => memWriteBytes d (locRook (4 * x + n) 0) ((Config.imageRook flash).take (2 ^ 40)) false) d
  modIo { d with acl := imageAcl flash } x (fun io => { io with
    rooks := List.replicate 4 { Rook.reset with pc := Config.imageEntry flash } })

/-- The Rook cores of I/O die x are in their boot ROM, released from reset: at a start that has not failed, or after a reset of the
die while STARTED (R25, R299). -/
def mayBoot (s : State) (x : Nat) : Bool :=
  ! (getIo s.d x).inReset && ! (getIo s.d x).held && s.mg.fes.getD x 0 == 0 &&
    (s.mg.boot == .started || (starting s.mg && (s.mg.boot == .train || s.mg.boot == .load)))

/-- ROOK_BOOT (R298 step 4, R299): on a refusal the cores stay in the ROM and the status counter holds the reason. -/
def execRookBoot (x : Nat) (s : State) : Host.Outcome State Fault Refusal :=
  nextDM s (fun d => if mayBoot s x && verifyFlash s.mg == 0 then bootCores d x s.mg.flash else d)
    (fun m =>
      if ! mayBoot s x then m
      else
        let v := verifyFlash m
        let m := if m.boot = .train then { m with boot := .load } else m
        { m with fes := m.fes.set x (if v = 0 then 1 else BitVec.ofNat 8 (0x80 + v)) })

/-- START_COMPLETE (R298 step 4, R302): the front end of the host I/O die is ready. The manifest may raise the fused security
version (R300). -/
def execStartComplete (s : State) : Host.Outcome State Fault Refusal :=
  nextDM s id (fun m =>
    if m.boot = .load ∧ m.failed = false ∧ m.fes.getD m.xd 0 = 1 then
      { m with boot := .started, fails := 0, reason := 0, svn := BitVec.ofNat 8 (max m.svn.toNat (Config.imageSvn m.flash % 256)) }
    else m)

/-- The phase a start fails in: verification reasons belong to VERIFY, also where the ROM has not gone on to it. -/
def failPhase (b : BootState) (reason : BitVec 8) : BootState := if b = .rom ∧ reason ≠ 8 then .verify else b

/-- A start in progress fails for a reason: verification by the management core, training and self-test while it trains, and a
refusal of a Rook boot ROM that a front-end status counter shows (R298, R299, R301). -/
def mayFail (m : Mgmt) (reason : BitVec 8) : Bool :=
  starting m &&
    (match m.boot with
      | .rom => reason != 0 && reason.toNat == verifyFlash m
      | .verify => reason != 0 && reason.toNat == verifyFlash m
      | .train => reason == 5 || reason == 6 || reason == 7
      | .load => reason != 0 && m.fes.any (fun v => v == 0x80 + reason)
      | _ => false)

/-- A start fails: at a count of 3 the module enters minimal mode (R302). -/
def startFails (reason : BitVec 8) (m : Mgmt) : Mgmt :=
  if 3 ≤ m.fails then { m with reason := reason, boot := .minimal }
  else { m with reason := reason, boot := failPhase m.boot reason, failed := true }

/-- The dies as a start fails: in minimal mode only the host I/O die and its PCIe function run, and its Rook cores, LPDDR6 and
stations are held in reset (R302). -/
def minimalData (m : Mgmt) (d : Data) : Data :=
  if 3 ≤ m.fails then
    let d := ioReset (ioReset ((List.range 4).foldl computeReset d) 0) 1
    modIo d m.xd (fun io => { io with inReset := false, held := true })
  else d

/-- A start fails where it may. -/
def failStart (may : Mgmt → Bool) (reason : BitVec 8) (s : State) : Host.Outcome State Fault Refusal :=
  if may s.mg then nextDM s (minimalData s.mg) (startFails reason) else .next s

/-- START_FAIL (R302). -/
def execStartFail (reason : BitVec 8) (s : State) : Host.Outcome State Fault Refusal :=
  failStart (fun m => mayFail m reason) reason s

/-- START_TIMEOUT (R298): reason 0x08. -/
def execStartTimeout (s : State) : Host.Outcome State Fault Refusal := failStart starting 8 s

/-- RCMD 1 (R303): the staging buffer is appended to the flash image. -/
def execRcmdAppend (s : State) : Host.Outcome State Fault Refusal :=
  nextDM s id (fun m => if m.boot = .minimal then { m with flash := m.flash ++ readBytes m.staging 0 65536 } else m)

/-- RCMD 2: the image is verified under R300, and RCMD reads back the reason. -/
def execRcmdVerify (s : State) : Host.Outcome State Fault Refusal :=
  nextDM s id (fun m => if m.boot = .minimal then { m with rcmdReason := BitVec.ofNat 8 (verifyFlash m) } else m)

/-- RCMD 3: FAILS is 0, and a new start begins. -/
def execRcmdStart (s : State) : Host.Outcome State Fault Refusal :=
  nextDM s (fun d => if s.mg.boot = .minimal then coldData d else d)
    (fun m => if m.boot = .minimal then startBegins { m with fails := 0 } else m)

/-- SPDM_MEASUREMENT_REQUEST (R300): the response the management firmware signs. -/
def execSpdmMeasurementRequest (s : State) : Host.Outcome State Fault Refusal :=
  nextDM s id (fun m => { m with spdm := Config.spdmResponse m.spdm.length :: m.spdm })

/-! ## Soft errors (R280-R283) -/

/-- A queue of a floe's field with the entry at a position changed. -/
def entUpset (l : List QEnt) (pos : Nat) (sideband : Bool) : List QEnt :=
  l.modify pos (fun e => { e with par := if sideband then 2 else 1 })

/-- An uncorrectable error of a granule also stands in what a record in progress would leave of it (R434). -/
def undoUpset (d : Data) (g : Nat) : Data :=
  { d with floes := d.floes.map (fun fl =>
    if fl.partBase.any (fun e => e.1 == g) then
      { fl with partLog := fl.partLog ++ [{ src := 4, key := g, elems := [], psn := true, mode := 0, fmt := 0, part := false }] }
    else fl) }

/-- What an uncorrectable soft error leaves at its place. -/
def upsetData (d : Data) (u : Upset) : Data :=
  match u with
  | .corrected _ => d
  | .memory loc => undoUpset (poisonWrite d (loc / 16 * 16) 16 true) (loc / 16)
  | .channel f q pos sb => modFloe d f (fun fl => { fl with field := qSet fl.field q (entUpset (qGet fl.field q) pos sb) })
  | .fifo f m pos => modFloe d f (fun fl => { fl with field := { fl.field with
      fifo := fl.field.fifo.modify m (fun l => entUpset l pos false) } })
  | .utlb f pos => modFloe d f (fun fl => { fl with utlb := dropIdx fl.utlb pos })
  | .stlb die pos => modDie d die (fun c => { c with stlb := dropIdx c.stlb pos })
  | .hwq h pos => hwqUpset d h pos
  | .accum f n => accUpset d f n
  | .config f => ((getFloe d f).lid.bind (getRegion d)).elim d (fun r => areaFault d r (0x0C, 8) 0)
  | .reg f k r => modTp d f k (fun t => if r = 0 ∨ t.badRegs.contains r then t else { t with badRegs := r :: t.badRegs })
  | .special f k r => modTp d f k (fun t => if t.badSpecs.contains r then t else { t with badSpecs := r :: t.badSpecs })
  | .moraine die pos => modEmb d die (fun e => { e with units := e.units.modify pos (fun u => { u with psn := true }) })

/-- A soft error that ECC corrects is counted for its die, and changes nothing else (R280). -/
def upsetMgmt (u : Upset) (m : Mgmt) : Mgmt :=
  match u with
  | .corrected die => { m with corrected := m.corrected.modify die (fun n => n + 1) }
  | _ => m

/-- A soft error. -/
def softError (u : Upset) (s : State) : Host.Outcome State Fault Refusal :=
  nextDM s (fun d => upsetData d u) (upsetMgmt u)

/-- Module m of the pod answers from now on to requests to a 4 KiB unit of its space psp as a mask says: bit 0 a fault of its
translation, bit r a refusal of right r (R264, R288). -/
def peerAnswer (m psp unit mask : Nat) (d : Data) : Data :=
  { d with peerNo := spSet 0 d.peerNo ((8 * m + psp) * 2 ^ 40 + unit) mask }

/-- Module m of the pod writes bytes of its space psp: what a PEER read of them here returns from then on (R452, log entry 175). -/
def peerWrite (m psp a : Nat) (bs : List Byte) (d : Data) : Data :=
  if m < 1024 ∧ m ≠ d.modid.toNat ∧ (psp = 1 ∨ psp = 3 ∨ psp = 4 ∨ psp = 5) then memWriteBytes d (locPeer m psp a) bs false else d

end Sys2Proof.Machine
end

