-- ==== Sys2Proof/Machine/Clock.lean ====
section
/-!
DEFINITION. A field clock cycle of a floe: every floe-local operation due in the advance cycle, in the order of R90, R98,
R102, R105, R111, R144, R145 and R177, or a freeze (R115); and the other clocks (R16, R17).
-/

namespace Sys2Proof.Machine

/-! ## The operations of an advance cycle -/

/-- Entries of the stream table in issue order. -/
def entriesInOrder (fl : Floe) : List Nat :=
  (sortBy (fun (a b : Nat × Nat) => decide (a.1 ≤ b.1)) ((List.range 32).filterMap (fun e =>
    (fl.streams.getD e none).map (fun c => (c.no, e))))).map (fun x => x.2)

/-- Commands that may start do so (R88). -/
def cycStarts (d : Data) (f : Nat) : Data := (entriesInOrder (getFloe d f)).foldl (fun d e => startStep d f e) d

/-- What lands at the matrix nodes, the feed, and the tokens accepted, lower nodes first (R143-R149). -/
def cycMatrix (d : Data) (f : Nat) : Data :=
  let qs := [0, 1, 2, 3]
  let d := qs.foldl (fun d q => tabComplete (clrPerform (matrixLand d f q) f q) f q) d
  let d := feedStep d f
  qs.foldl (fun d q => tabAccept (clrAccept (movAccept (mulAccept (mulAccept d f q 0) f q 1) f q) f q) f q) d

/-- Words committed by groups, and the groups that fire (R105). -/
def cycGroups (d : Data) (f : Nat) : Data :=
  let d := (List.range 8).foldl (fun d k => groupCommit d f k) d
  (List.range 8).foldl (fun d k => groupFire d f k) d

/-- Floe-local commands that are done leave the stream table, and barriers release (R87, R95). -/
def cycDone (d : Data) (f : Nat) : Data :=
  let es := (entriesInOrder (getFloe d f)).filter (fun e => ((getFloe d f).streams.getD e none).any (fun c => c.floeLocal))
  (List.range 32).foldl (fun d e => barrierStep d f e) (es.foldl (fun d e => completeStep d f e) d)

/-- Moves and releases at their ports, then the floe-local commands in issue order: a command reads, takes and delivers what
is due (R90, R145). -/
def cycStreams (d : Data) (f : Nat) : Data :=
  let d := [3, 2, 1, 0].foldl (fun d q => movesDeliver d f q) d
  let es := (entriesInOrder (getFloe d f)).filter (fun e => ((getFloe d f).streams.getD e none).any (fun c => c.floeLocal))
  cycDone (es.foldl (fun d e => streamStep (streamStep (streamStep (streamStep d f e) f e) f e) f e) d) f

/-- A generator writes. -/
def isWriter (fl : Floe) (i : Nat) : Bool := agWrite (agc fl.cfg.cur (i / 4) (i % 4))

/-- The generators of the memory cells: readers, then writers (R102). -/
def cycGens (d : Data) (f : Nat) : Data :=
  let w := isWriter (getFloe d f)
  ((List.range 32).filter (fun i => ! w i) ++ (List.range 32).filter w).foldl (fun d i => genAccess d f (i / 4) (i % 4)) d

/-- Inputs a box's switch words name. -/
def boxInputs (t : Table) (b : Nat) : List Nat := dedup ((boxWords t b).map (fun e => swIn e.2))

/-- Class of a box's input at the links of the die mesh its words go out by (R110): 1 + the highest PRC, 0 for none. -/
def meshClass (t : Table) (b p : Nat) : Nat :=
  (((boxWords t b).filter (fun e => swIn e.2 == p && decide (swOut e.2 < 4) && (boxStep b (swOut e.2)).isNone)).map
    (fun e => 1 + fld e.2 2 2)).foldl max 0

/-- The inputs of a floe's boxes in the order they move in: those that leave over the die mesh by class, the higher first, then
the others, by box. -/
def hopOrder (t : Table) : List (Nat × Nat) :=
  sortBy (fun a b => decide (meshClass t b.1 b.2 ≤ meshClass t a.1 a.2))
    ((List.range 16).flatMap (fun b => (boxInputs t b).map (fun p => (b, p))))

/-- Words cross the switch boxes (R111). -/
def cycHops (d : Data) (f : Nat) : Data :=
  (hopOrder (getFloe d f).cfg.cur).foldl (fun d x => switchHop d f x.1 x.2) d

/-- Scalar accesses of the floe to its FLOE space that are due, in issue order: slot and access. -/
def duePends (fl : Floe) : List (Nat × Nat × Pend) :=
  sortBy (fun a b => decide (a.2.2.order ≤ b.2.2.order)) ((List.range 8).flatMap (fun k =>
    ((slotOf fl k).tp.pends.filter (fun p => p.floeLocal && isMem p && decide (p.due ≤ fl.cyc))).map (fun p => (k, p.id, p))))

/-- One of them performs (R177). -/
def pendStep (f : Nat) (d : Data) (x : Nat × Nat × Pend) : Data :=
  if mayPerform (getTp d f x.1) x.2.2 && floeTurn (getFloe d f) x.2.2 then
    match x.2.2.kind with
    | .lds => ldsPerform d f x.1 x.2.2
    | .sts => stsPerform d f x.1 x.2.2
    | _ => d
  else d

/-- See pendStep. -/
def cycPends (d : Data) (f : Nat) : Data := (duePends (getFloe d f)).foldl (pendStep f) d

/-- Commands that SKIL has ended leave the stream table (R428). -/
def cycKilled (d : Data) (f : Nat) : Data := (List.range 32).foldl (fun d e => killedStep d f e) d

/-- Every floe-local operation of the cycle, before its writes take effect. -/
def cycWork (d : Data) (f : Nat) : Data :=
  let d := cycStarts (configSwitch (cycKilled d f) f) f
  let d := cycGroups (cycMatrix d f) f
  let d := cycPends (cycHops (cycGens (cycStreams d f) f) f) f
  solSends d f

/-! ## The end of the cycle (R98) -/

/-- Something due could not move: the floe freezes (R115). -/
def cycHeld (fl : Floe) : Bool := (liveCmds fl).any (cmdHeldUp fl.cyc) || moveHeldUp fl || mcStuck fl

/-- Order of the writes of a cycle: generators by number, then streams and STS in issue order, then LAY. -/
def writeRank (w : FloeWrite) : Nat := if w.src = 0 then 0 else if w.src = 3 then 2 else 1

/-- A write goes before another. -/
def writeBefore (a b : FloeWrite) : Bool :=
  decide (writeRank a < writeRank b) || (writeRank a == writeRank b && decide (a.key ≤ b.key))

/-- The writes of the cycle take effect. -/
def cycWrites (d : Data) (f : Nat) : Data :=
  (sortBy writeBefore (getFloe d f).writes).foldl (floeWrite f) d

/-- The largest number of accesses to one bank in the cycle. -/
def bankMax (fl : Floe) : Nat := (fl.banks.map (fun e => e.2)).foldl max 0

/-- The quiet count after a field clock cycle (R278). -/
def quietNext (fl : Floe) : Floe := { fl with quiet := if fl.active then 0 else fl.quiet + 1, active := false }

/-- The advance-cycle count of a floe rises: the cycle has lasted its n field clock cycles (R17, R98). -/
def countAdvance (fl : Floe) : Floe := { fl with frozen := false, advc := (fl.advc + 1) % 2 ^ 64 }

/-- The work of an advance cycle ends: generator writes that are due, matrix reads of memory as it stood, the writes, the
commands they complete, the counts (R3, R17, R98). A stretched cycle lasts on, and the floe is frozen; cyc is the number of the
next one. -/
def cycEnd (d : Data) (f : Nat) : Data :=
  let d := matrixReads d f
  let d := (List.range 32).foldl (fun d i => genPerform d f (i / 4) (i % 4)) d
  let d := cycDone (modFloe (cycWrites d f) f (fun fl => { fl with writes := [] })) f
  modFloe d f (fun fl =>
    let n := bankMax fl
    let fl := { fl with banks := [], stretch := n - 1, cyc := fl.cyc + 1, frozen := true }
    quietNext (if n ≤ 1 then countAdvance fl else fl))

/-- A command that SKIL ended in a frozen field clock cycle: the next advance cycle is the one that waits (R3, R428). -/
def killedFrozen (cyc : Nat) (c : Cmd) : Cmd := { c with killed := c.killed.map (fun n => min n cyc) }

/-- A frozen field clock cycle. -/
def frozenCycle (d : Data) (f : Nat) : Data :=
  modFloe d f (fun fl => quietNext { fl with frozen := true, streams := fl.streams.map (fun e => e.map (killedFrozen fl.cyc)) })

/-- An extra field clock cycle of a stretched advance cycle (R98): the last one ends it. -/
def stretchCycle (d : Data) (f : Nat) : Data :=
  modFloe (frozenCycle d f) f (fun fl =>
    if fl.stretch ≤ 1 then countAdvance { fl with stretch := 0 } else { fl with stretch := fl.stretch - 1 })

/-- A field clock cycle of floe f. -/
def fieldCycle (d : Data) (f : Nat) : Data :=
  let fl := getFloe d f
  if (getDie d (dieOf f)).inReset then d
  else if fl.halting || fl.halted then frozenCycle d f
  else if fl.stretch ≠ 0 then stretchCycle d f
  else
    let w := cycWork (modFloe d f (fun fl => { fl with frozen := false })) f
    if cycHeld (getFloe w f) then frozenCycle d f else cycEnd w f

/-! ## Other clocks (R17) -/

/-- n cycles of the front end of I/O die x. -/
def feCycles (d : Data) (x n : Nat) : Data :=
  modIo d x (fun io => if io.inReset then io else { io with feCount := (io.feCount + n) % 2 ^ 64 })

/-- n cycles of unit u of a compute die. -/
def unitCycles (d : Data) (die u n : Nat) : Data :=
  modDie d die (fun c => if c.inReset then c else { c with counts := c.counts.set u ((c.counts.getD u 0 + n) % 2 ^ 64) })

/-- n cycles of a pipe. -/
def pipeCycles (d : Data) (p n : Nat) : Data :=
  if (getIo d (p / 8)).inReset then d else modPipe d p (fun x => { x with lcount := (x.lcount + n) % 2 ^ 64 })

end Sys2Proof.Machine
end

