-- ==== Sys2Proof/Machine/Alu.lean ====
section
/-!
DEFINITION. The scalar instructions: arithmetic, logic, shifts, comparisons, predicates and immediates (R310-R312, R330-R332,
R336, R342, R347, R348, R388, R394, R402, R413, R418, R423, R427).
-/

namespace Sys2Proof.Machine

/-- s[d] := h s[a] s[b] in the cycle of issue. -/
def alu3 (g : Guard) (r a b : BitVec 5) (h : Word → Word → Word) (d : Data) : Data :=
  issueWrite d g [a, b] r (fun d => h (rs d a) (rs d b))

/-- s[d] := h s[a] in the cycle of issue. -/
def alu2 (g : Guard) (r a : BitVec 5) (h : Word → Word) (d : Data) : Data :=
  issueWrite d g [a] r (fun d => h (rs d a))

/-- A result written n sequencer cycles after issue (R348, R402). -/
def aluLate (g : Guard) (r a b : BitVec 5) (kind : PendKind) (n : Nat) (h : Word → Word → Word) (d : Data) : Data :=
  issue d g [r, a, b] (fun d =>
    retire (modCur d (fun t =>
      let p : Pend :=
        { id := t.nextId, kind := kind, d := r, value := h (sget t a) (sget t b),
          due := (getFloe d d.curF).seqc + n, floeLocal := false, pieces := [], signed := false, addr := 0,
          word := d.curW, wno := 0, after := [], peer := none, order := 0 }
      { t with pends := t.pends ++ [p], nextId := t.nextId + 1 })))

/-- ADD (R331). -/
def execAdd (g : Guard) (d a b : BitVec 5) (s : State) : Host.Outcome State Fault Refusal := nextD s (alu3 g d a b (· + ·))
/-- SUB (R331). -/
def execSub (g : Guard) (d a b : BitVec 5) (s : State) : Host.Outcome State Fault Refusal := nextD s (alu3 g d a b (· - ·))
/-- MUL (R402). -/
def execMul (g : Guard) (d a b : BitVec 5) (s : State) : Host.Outcome State Fault Refusal :=
  nextD s (aluLate g d a b .mul 4 (· * ·))
/-- MULHI.s (R402). -/
def execMulhiS (g : Guard) (d a b : BitVec 5) (s : State) : Host.Outcome State Fault Refusal :=
  nextD s (aluLate g d a b .mul 4 mulHighS)
/-- MULHI.n (R402). -/
def execMulhiN (g : Guard) (d a b : BitVec 5) (s : State) : Host.Outcome State Fault Refusal :=
  nextD s (aluLate g d a b .mul 4 mulHighN)
/-- DIV.s (R347, R348). -/
def execDivS (g : Guard) (d a b : BitVec 5) (s : State) : Host.Outcome State Fault Refusal :=
  nextD s (aluLate g d a b .div 32 divSigned)
/-- DIV.n (R347, R348). -/
def execDivN (g : Guard) (d a b : BitVec 5) (s : State) : Host.Outcome State Fault Refusal :=
  nextD s (aluLate g d a b .div 32 divUnsigned)
/-- REM.s (R418). -/
def execRemS (g : Guard) (d a b : BitVec 5) (s : State) : Host.Outcome State Fault Refusal :=
  nextD s (aluLate g d a b .div 32 remSigned)
/-- REM.n (R418). -/
def execRemN (g : Guard) (d a b : BitVec 5) (s : State) : Host.Outcome State Fault Refusal :=
  nextD s (aluLate g d a b .div 32 remUnsigned)
/-- AND (R332). -/
def execAnd (g : Guard) (d a b : BitVec 5) (s : State) : Host.Outcome State Fault Refusal := nextD s (alu3 g d a b (· &&& ·))
/-- OR (R332). -/
def execOr (g : Guard) (d a b : BitVec 5) (s : State) : Host.Outcome State Fault Refusal := nextD s (alu3 g d a b (· ||| ·))
/-- XOR (R332). -/
def execXor (g : Guard) (d a b : BitVec 5) (s : State) : Host.Outcome State Fault Refusal := nextD s (alu3 g d a b (· ^^^ ·))
/-- SHL (R427). -/
def execShl (g : Guard) (d a b : BitVec 5) (s : State) : Host.Outcome State Fault Refusal :=
  nextD s (alu3 g d a b (fun x y => x <<< shAmt y))
/-- SHR.n (R427). -/
def execShrN (g : Guard) (d a b : BitVec 5) (s : State) : Host.Outcome State Fault Refusal :=
  nextD s (alu3 g d a b (fun x y => x >>> shAmt y))
/-- SHR.s (R427). -/
def execShrS (g : Guard) (d a b : BitVec 5) (s : State) : Host.Outcome State Fault Refusal :=
  nextD s (alu3 g d a b (fun x y => x.sshiftRight (shAmt y)))
/-- MIN.s (R394). -/
def execMinS (g : Guard) (d a b : BitVec 5) (s : State) : Host.Outcome State Fault Refusal :=
  nextD s (alu3 g d a b (pickS false))
/-- MIN.n (R394). -/
def execMinN (g : Guard) (d a b : BitVec 5) (s : State) : Host.Outcome State Fault Refusal :=
  nextD s (alu3 g d a b (pickN false))
/-- MAX.s (R394). -/
def execMaxS (g : Guard) (d a b : BitVec 5) (s : State) : Host.Outcome State Fault Refusal :=
  nextD s (alu3 g d a b (pickS true))
/-- MAX.n (R394). -/
def execMaxN (g : Guard) (d a b : BitVec 5) (s : State) : Host.Outcome State Fault Refusal :=
  nextD s (alu3 g d a b (pickN true))
/-- BITC.clz (R336). -/
def execBitcClz (g : Guard) (d a : BitVec 5) (s : State) : Host.Outcome State Fault Refusal :=
  nextD s (alu2 g d a (fun x => w64 (leadZeros x 64)))
/-- BITC.ctz (R336). -/
def execBitcCtz (g : Guard) (d a : BitVec 5) (s : State) : Host.Outcome State Fault Refusal :=
  nextD s (alu2 g d a (fun x => w64 (trailZeros x 0 64)))
/-- BITC.pop (R336). -/
def execBitcPop (g : Guard) (d a : BitVec 5) (s : State) : Host.Outcome State Fault Refusal :=
  nextD s (alu2 g d a (fun x => w64 (popCount x 64)))
/-- SEL (R311, R423). -/
def execSel (g : Guard) (d a b : BitVec 5) (k : BitVec 3) (s : State) : Host.Outcome State Fault Refusal :=
  nextD s (fun dd => issueS dd g [d, a, b] (predRegs [k]) (fun dd =>
    retire (modCur dd (fun t => sput t d (if pget (curTp dd) k then rs dd a else rs dd b)))))
/-- CMP (R312, R342). -/
def execCmp (g : Guard) (pd : BitVec 3) (a b : BitVec 5) (c : BitVec 3) (s : State) : Host.Outcome State Fault Refusal :=
  nextD s (fun dd => issuePred dd g [a, b] [] pd (fun dd => condHolds c (rs dd a) (rs dd b)))
/-- CMPI (R312, R342). -/
def execCmpi (g : Guard) (pd : BitVec 3) (a : BitVec 5) (c : BitVec 3) (imm : BitVec 11) (s : State) :
    Host.Outcome State Fault Refusal :=
  nextD s (fun dd => issuePred dd g [a] [] pd (fun dd => condHolds c (rs dd a) (immS imm)))
/-- ADDI (R331). -/
def execAddi (g : Guard) (d a : BitVec 5) (imm : BitVec 12) (s : State) : Host.Outcome State Fault Refusal :=
  nextD s (alu2 g d a (fun x => x + immS imm))
/-- ANDI (R332). -/
def execAndi (g : Guard) (d a : BitVec 5) (imm : BitVec 12) (s : State) : Host.Outcome State Fault Refusal :=
  nextD s (alu2 g d a (fun x => x &&& immZ imm))
/-- ORI (R332). -/
def execOri (g : Guard) (d a : BitVec 5) (imm : BitVec 12) (s : State) : Host.Outcome State Fault Refusal :=
  nextD s (alu2 g d a (fun x => x ||| immZ imm))
/-- XORI (R332). -/
def execXori (g : Guard) (d a : BitVec 5) (imm : BitVec 12) (s : State) : Host.Outcome State Fault Refusal :=
  nextD s (alu2 g d a (fun x => x ^^^ immZ imm))
/-- SHLI (R427). -/
def execShli (g : Guard) (d a : BitVec 5) (sh : BitVec 6) (s : State) : Host.Outcome State Fault Refusal :=
  nextD s (alu2 g d a (fun x => x <<< sh.toNat))
/-- SHRI.s (R427). -/
def execShriS (g : Guard) (d a : BitVec 5) (sh : BitVec 6) (s : State) : Host.Outcome State Fault Refusal :=
  nextD s (alu2 g d a (fun x => x.sshiftRight sh.toNat))
/-- SHRI.n (R427). -/
def execShriN (g : Guard) (d a : BitVec 5) (sh : BitVec 6) (s : State) : Host.Outcome State Fault Refusal :=
  nextD s (alu2 g d a (fun x => x >>> sh.toNat))
/-- LIM (R388). -/
def execLim (g : Guard) (d : BitVec 5) (imm : BitVec 17) (s : State) : Host.Outcome State Fault Refusal :=
  nextD s (fun dd => issueWrite dd g [] d (fun _ => immS imm <<< 12))
/-- PLOG (R312, R413). -/
def execPlog (g : Guard) (pd pa pb : BitVec 3) (tt : BitVec 4) (s : State) : Host.Outcome State Fault Refusal :=
  nextD s (fun dd => issuePred dd g [] [pa, pb] pd (fun dd =>
    tt.getLsbD (2 * bnat (pget (curTp dd) pa) + bnat (pget (curTp dd) pb))))

/-- DIV_RESULT: the due results of DIV and REM of a TP are written (R348). -/
def execDivResult (f k : Nat) (s : State) : Host.Outcome State Fault Refusal :=
  nextD s (fun d => modTp d f k (writeResults false (getFloe d f).seqc))

/-- MUL_RESULT: the due results of MUL and MULHI of a TP are written (R402). -/
def execMulResult (f k : Nat) (s : State) : Host.Outcome State Fault Refusal :=
  nextD s (fun d => modTp d f k (writeResults true (getFloe d f).seqc))

end Sys2Proof.Machine
end

