-- ==== Sys2Proof/Machine/Control.lean ====
section
/-!
DEFINITION. Branches and the hardware loop (R313, R337, R338, R380, R381, R389, R390).
-/

namespace Sys2Proof.Machine

/-- The pc of the issuing TP, in bytes. -/
def curPc (d : Data) : Nat := (curTp d).pc.toNat

/-- A target off words from the pc, mod 2^52 (R337, R380). -/
def relTarget (d : Data) (off : Int) : BitVec 52 := BitVec.ofInt 52 ((curPc d : Int) + 4 * off)

/-- BR (R337). -/
def execBr (g : Guard) (off : BitVec 22) (s : State) : Host.Outcome State Fault Refusal :=
  nextD s (fun d => issue d g [] (fun d => branchTo d (relTarget d off.toInt)))

/-- JAL (R380). -/
def execJal (g : Guard) (d : BitVec 5) (off : BitVec 17) (s : State) : Host.Outcome State Fault Refusal :=
  nextD s (fun dd => issue dd g [d] (fun dd =>
    branchTo (modCur dd (fun t => sput t d (w64 (curPc dd + 4)))) (relTarget dd off.toInt)))

/-- The target of JR, as an integer (R313). -/
def jrTarget (d : Data) (a : BitVec 5) (off : BitVec 12) : Int := (rn d a : Int) + 4 * off.toInt

/-- JR (R313, R381). -/
def execJr (g : Guard) (a : BitVec 5) (off : BitVec 12) (s : State) : Host.Outcome State Fault Refusal :=
  nextD s (fun d => issue d g [a] (fun d =>
    let x := jrTarget d a off
    if x % 4 ≠ 0 ∨ 2 ^ 52 ≤ x ∨ x < 0 then trapIllegal d 5 else branchTo d (BitVec.ofInt 52 x)))

/-- A LOOP of len words ending at E meets R389's limits on the stack. -/
def loopFits (t : Tp) (e : Nat) : Bool :=
  match t.loops with
  | [] => true
  | l :: ls => decide (ls.length < 3) && decide (e ≤ l.last)

/-- LOOP's effect (R389): a body entered, or skipped as though its last word had been handled. -/
def loopEnter (d : Data) (n len : Nat) : Data :=
  let e := curPc d + 4 * len
  if ! loopFits (curTp d) e then trapIllegal d 5
  else if n = 0 then modCur d (fun t => handled t e (BitVec.ofNat 52 (e + 4)))
  else modCur d (fun t => { t with
    loops := { start := t.pc + 4, last := e, remaining := n } :: t.loops, pc := t.pc + 4 })

/-- LOOP (R389). The LOOP's own word is not a handled word of the level it pushes. -/
def execLoop (g : Guard) (c : BitVec 5) (len : BitVec 13) (s : State) : Host.Outcome State Fault Refusal :=
  nextD s (fun d => issue d g [c] (fun d => loopEnter d (rn d c) len.toNat))

end Sys2Proof.Machine
end

