-- ==== Sys2Proof/Machine/Dispatch.lean ====
section
/-!
DEFINITION. What each instruction and each step does: one arm per constructor of Instr, each a direct call of its meaning.
-/

namespace Sys2Proof.Machine

def exec (i : Instr) (s : State) : Host.Outcome State Fault Refusal :=
  match i with
  | .nop g => Sys2Proof.Machine.execNop g s
  | .trap g code => Sys2Proof.Machine.execTrap g code s
  | .yield g => Sys2Proof.Machine.execYield g s
  | .park g => Sys2Proof.Machine.execPark g s
  | .exit g => Sys2Proof.Machine.execExit g s
  | .brk g => Sys2Proof.Machine.execBrk g s
  | .getk g d kn => Sys2Proof.Machine.execGetk g d kn s
  | .putk g a kn => Sys2Proof.Machine.execPutk g a kn s
  | .widf g d lvl => Sys2Proof.Machine.execWidf g d lvl s
  | .add g d a b => Sys2Proof.Machine.execAdd g d a b s
  | .sub g d a b => Sys2Proof.Machine.execSub g d a b s
  | .mul g d a b => Sys2Proof.Machine.execMul g d a b s
  | .mulhiS g d a b => Sys2Proof.Machine.execMulhiS g d a b s
  | .mulhiN g d a b => Sys2Proof.Machine.execMulhiN g d a b s
  | .divS g d a b => Sys2Proof.Machine.execDivS g d a b s
  | .divN g d a b => Sys2Proof.Machine.execDivN g d a b s
  | .remS g d a b => Sys2Proof.Machine.execRemS g d a b s
  | .remN g d a b => Sys2Proof.Machine.execRemN g d a b s
  | .and g d a b => Sys2Proof.Machine.execAnd g d a b s
  | .or g d a b => Sys2Proof.Machine.execOr g d a b s
  | .xor g d a b => Sys2Proof.Machine.execXor g d a b s
  | .shl g d a b => Sys2Proof.Machine.execShl g d a b s
  | .shrN g d a b => Sys2Proof.Machine.execShrN g d a b s
  | .shrS g d a b => Sys2Proof.Machine.execShrS g d a b s
  | .minS g d a b => Sys2Proof.Machine.execMinS g d a b s
  | .minN g d a b => Sys2Proof.Machine.execMinN g d a b s
  | .maxS g d a b => Sys2Proof.Machine.execMaxS g d a b s
  | .maxN g d a b => Sys2Proof.Machine.execMaxN g d a b s
  | .bitcClz g d a => Sys2Proof.Machine.execBitcClz g d a s
  | .bitcCtz g d a => Sys2Proof.Machine.execBitcCtz g d a s
  | .bitcPop g d a => Sys2Proof.Machine.execBitcPop g d a s
  | .sel g d a b k => Sys2Proof.Machine.execSel g d a b k s
  | .cmp g pd a b c => Sys2Proof.Machine.execCmp g pd a b c s
  | .cmpi g pd a c imm => Sys2Proof.Machine.execCmpi g pd a c imm s
  | .addi g d a imm => Sys2Proof.Machine.execAddi g d a imm s
  | .andi g d a imm => Sys2Proof.Machine.execAndi g d a imm s
  | .ori g d a imm => Sys2Proof.Machine.execOri g d a imm s
  | .xori g d a imm => Sys2Proof.Machine.execXori g d a imm s
  | .shli g d a sh => Sys2Proof.Machine.execShli g d a sh s
  | .shriS g d a sh => Sys2Proof.Machine.execShriS g d a sh s
  | .shriN g d a sh => Sys2Proof.Machine.execShriN g d a sh s
  | .lim g d imm => Sys2Proof.Machine.execLim g d imm s
  | .plog g pd pa pb tt => Sys2Proof.Machine.execPlog g pd pa pb tt s
  | .br g off => Sys2Proof.Machine.execBr g off s
  | .jal g d off => Sys2Proof.Machine.execJal g d off s
  | .jr g a off => Sys2Proof.Machine.execJr g a off s
  | .loop g c len => Sys2Proof.Machine.execLoop g c len s
  | .tshp g n a => Sys2Proof.Machine.execTshp g n a s
  | .tbind g t e n rdim cdim => Sys2Proof.Machine.execTbind g t e n rdim cdim s
  | .torg g t dim a => Sys2Proof.Machine.execTorg g t dim a s
  | .tadv g t dim a => Sys2Proof.Machine.execTadv g t dim a s
  | .tqry g d t => Sys2Proof.Machine.execTqry g d t s
  | .ltld g e j => Sys2Proof.Machine.execLtld g e j s
  | .ltw g e fld a => Sys2Proof.Machine.execLtw g e fld a s
  | .spat g sp pf a => Sys2Proof.Machine.execSpat g sp pf a s
  | .srd g t port tag sp => Sys2Proof.Machine.execSrd g t port tag sp s
  | .swr g t port tag sp => Sys2Proof.Machine.execSwr g t port tag sp s
  | .sgth g t port tag sp => Sys2Proof.Machine.execSgth g t port tag sp s
  | .ssctSt g t port tag sp => Sys2Proof.Machine.execSsctSt g t port tag sp s
  | .ssctAdd g t port tag sp => Sys2Proof.Machine.execSsctAdd g t port tag sp s
  | .ssctMax g t port tag sp => Sys2Proof.Machine.execSsctMax g t port tag sp s
  | .ssctMin g t port tag sp => Sys2Proof.Machine.execSsctMin g t port tag sp s
  | .srec g op ip sp => Sys2Proof.Machine.execSrec g op ip sp s
  | .sconC g ip sp => Sys2Proof.Machine.execSconC g ip sp s
  | .sconI g ip sp => Sys2Proof.Machine.execSconI g ip sp s
  | .smcs g t port tag sp b => Sys2Proof.Machine.execSmcs g t port tag sp b s
  | .sbar g t => Sys2Proof.Machine.execSbar g t s
  | .sbarSp g space => Sys2Proof.Machine.execSbarSp g space s
  | .sbarAll g => Sys2Proof.Machine.execSbarAll g s
  | .skilTag g tag => Sys2Proof.Machine.execSkilTag g tag s
  | .skilIp g port => Sys2Proof.Machine.execSkilIp g port s
  | .skilOp g port => Sys2Proof.Machine.execSkilOp g port s
  | .twaitAll g a => Sys2Proof.Machine.execTwaitAll g a s
  | .twaitAny g a => Sys2Proof.Machine.execTwaitAny g a s
  | .tffr g d a => Sys2Proof.Machine.execTffr g d a s
  | .tclr g a => Sys2Proof.Machine.execTclr g a s
  | .smov g td ta tag => Sys2Proof.Machine.execSmov g td ta tag s
  | .cfgl g a tag => Sys2Proof.Machine.execCfgl g a tag s
  | .cfgw g fr a b => Sys2Proof.Machine.execCfgw g fr a b s
  | .cfgg g tag => Sys2Proof.Machine.execCfgg g tag s
  | .cfgq g d sel => Sys2Proof.Machine.execCfgq g d sel s
  | .mxt g a b => Sys2Proof.Machine.execMxt g a b s
  | .mxtP g port => Sys2Proof.Machine.execMxtP g port s
  | .mxtU g => Sys2Proof.Machine.execMxtU g s
  | .lds g d t a b => Sys2Proof.Machine.execLds g d t a b s
  | .sts g d t a b => Sys2Proof.Machine.execSts g d t a b s
  | .atomSwp g d t a ord scope => Sys2Proof.Machine.execAtomSwp g d t a ord scope s
  | .atomCas g d t a ord scope => Sys2Proof.Machine.execAtomCas g d t a ord scope s
  | .atomAdd g d t a ord scope => Sys2Proof.Machine.execAtomAdd g d t a ord scope s
  | .atomAnd g d t a ord scope => Sys2Proof.Machine.execAtomAnd g d t a ord scope s
  | .atomOr g d t a ord scope => Sys2Proof.Machine.execAtomOr g d t a ord scope s
  | .atomXor g d t a ord scope => Sys2Proof.Machine.execAtomXor g d t a ord scope s
  | .atomMax g d t a ord scope => Sys2Proof.Machine.execAtomMax g d t a ord scope s
  | .atomMin g d t a ord scope => Sys2Proof.Machine.execAtomMin g d t a ord scope s
  | .vld g d t a k scope => Sys2Proof.Machine.execVld g d t a k scope s
  | .vst g d t a scope => Sys2Proof.Machine.execVst g d t a scope s
  | .vrcl g t a scope => Sys2Proof.Machine.execVrcl g t a scope s
  | .fenceAcq g scope => Sys2Proof.Machine.execFenceAcq g scope s
  | .fenceRel g scope => Sys2Proof.Machine.execFenceRel g scope s
  | .fenceFull g scope => Sys2Proof.Machine.execFenceFull g scope s
  | .tsend g d a c scope => Sys2Proof.Machine.execTsend g d a c scope s
  | .trecv g d c => Sys2Proof.Machine.execTrecv g d c s
  | .cbindOn g c => Sys2Proof.Machine.execCbindOn g c s
  | .cbindOff g c => Sys2Proof.Machine.execCbindOff g c s
  | .qpsh g d a scope => Sys2Proof.Machine.execQpsh g d a scope s
  | .qpop g d a k => Sys2Proof.Machine.execQpop g d a k s
  | .qctlStat g d a => Sys2Proof.Machine.execQctlStat g d a s
  | .qctlCfg g a t => Sys2Proof.Machine.execQctlCfg g a t s
  | .qctlOff g a => Sys2Proof.Machine.execQctlOff g a s
  | .lay g tag a b => Sys2Proof.Machine.execLay g tag a b s
  | .egat g tag t a => Sys2Proof.Machine.execEgat g tag t a s
  | .eupd g tag t a => Sys2Proof.Machine.execEupd g tag t a s
  | .epin g tag t a => Sys2Proof.Machine.execEpin g tag t a s
  | .ingqStart g tag t a => Sys2Proof.Machine.execIngqStart g tag t a s
  | .ingqStop g tag a => Sys2Proof.Machine.execIngqStop g tag a s
  | .ingqStat g d a => Sys2Proof.Machine.execIngqStat g d a s
  | .ssqCfg g a t tag => Sys2Proof.Machine.execSsqCfg g a t tag s
  | .ssqGo g a t tag => Sys2Proof.Machine.execSsqGo g a t tag s
  | .ssqStat g d a => Sys2Proof.Machine.execSsqStat g d a s
  | .ssqStop g a tag => Sys2Proof.Machine.execSsqStop g a tag s
  | .rfet rd rs1 rs2 => Sys2Proof.Machine.execRfet rd rs1 rs2 s
  | .bfxt rd rs1 rs2 => Sys2Proof.Machine.execBfxt rd rs1 rs2 s
  | .sgwt rd => Sys2Proof.Machine.execSgwt rd s
  | .dspt rd rs1 rs2 => Sys2Proof.Machine.execDspt rd rs1 rs2 s
  | .sgst rd => Sys2Proof.Machine.execSgst rd s
  | .slotAged f k => Sys2Proof.Machine.execSlotAged f k s
  | .parkDrainEnd f k => Sys2Proof.Machine.execParkDrainEnd f k s
  | .tpRetire f k => Sys2Proof.Machine.execTpRetire f k s
  | .tpTrapped f k => Sys2Proof.Machine.execTpTrapped f k s
  | .twaitWake f k => Sys2Proof.Machine.execTwaitWake f k s
  | .trecvWake f k => Sys2Proof.Machine.execTrecvWake f k s
  | .divResult f k => Sys2Proof.Machine.execDivResult f k s
  | .mulResult f k => Sys2Proof.Machine.execMulResult f k s
  | .ldsReturn f k n => Sys2Proof.Machine.execLdsReturn f k n s
  | .atomPerform f k n => Sys2Proof.Machine.execAtomPerform f k n s
  | .tokenWordArrival n => Sys2Proof.Machine.execTokenWordArrival n s
  | .mailboxMove f k c => Sys2Proof.Machine.execMailboxMove f k c s
  | .streamStart f e => Sys2Proof.Machine.execStreamStart f e s
  | .streamElement u => Sys2Proof.Machine.execStreamElement u s
  | .streamComplete f e => Sys2Proof.Machine.execStreamComplete f e s
  | .barrierRelease f e => Sys2Proof.Machine.execBarrierRelease f e s
  | .groupFire f c => Sys2Proof.Machine.execGroupFire f c s
  | .groupCommit f c => Sys2Proof.Machine.execGroupCommit f c s
  | .generatorAccess f m g => Sys2Proof.Machine.execGeneratorAccess f m g s
  | .switchBoxHop f b p => Sys2Proof.Machine.execSwitchBoxHop f b p s
  | .cfglLoadEnd f => Sys2Proof.Machine.execCfglLoadEnd f s
  | .configSwitch f => Sys2Proof.Machine.execConfigSwitch f s
  | .matrixTokenFeed f => Sys2Proof.Machine.execMatrixTokenFeed f s
  | .mma f q => Sys2Proof.Machine.execMma f q s
  | .mmat f q => Sys2Proof.Machine.execMmat f q s
  | .mmov f q => Sys2Proof.Machine.execMmov f q s
  | .mclr f q => Sys2Proof.Machine.execMclr f q s
  | .mtab f q => Sys2Proof.Machine.execMtab f q s
  | .mtabComplete f q => Sys2Proof.Machine.execMtabComplete f q s
  | .matrixContribution f q => Sys2Proof.Machine.execMatrixContribution f q s
  | .layStart die => Sys2Proof.Machine.execLayStart die s
  | .layComplete die n => Sys2Proof.Machine.execLayComplete die n s
  | .vstRetry f k => Sys2Proof.Machine.execVstRetry f k s
  | .vldWake f k => Sys2Proof.Machine.execVldWake f k s
  | .lvWaitLimit f k => Sys2Proof.Machine.execLvWaitLimit f k s
  | .qpshRetry f k => Sys2Proof.Machine.execQpshRetry f k s
  | .qpopWake f k => Sys2Proof.Machine.execQpopWake f k s
  | .queueRefill h => Sys2Proof.Machine.execQueueRefill h s
  | .ingqStartDone p => Sys2Proof.Machine.execIngqStartDone p s
  | .ingqStopDone p => Sys2Proof.Machine.execIngqStopDone p s
  | .ingestRecordPop p => Sys2Proof.Machine.execIngestRecordPop p s
  | .ingestStage p st => Sys2Proof.Machine.execIngestStage p st s
  | .quarantineRingResume p => Sys2Proof.Machine.execQuarantineRingResume p s
  | .ingestResultPush p => Sys2Proof.Machine.execIngestResultPush p s
  | .egatBag die c b => Sys2Proof.Machine.execEgatBag die c b s
  | .eupdCoalesce die c => Sys2Proof.Machine.execEupdCoalesce die c s
  | .eupdContribution die n => Sys2Proof.Machine.execEupdContribution die n s
  | .eupdClose die n => Sys2Proof.Machine.execEupdClose die n s
  | .epinPin die c => Sys2Proof.Machine.execEpinPin die c s
  | .epinUnpin die c => Sys2Proof.Machine.execEpinUnpin die c s
  | .epinPrefetch die c => Sys2Proof.Machine.execEpinPrefetch die c s
  | .epinMigrate die c => Sys2Proof.Machine.execEpinMigrate die c s
  | .migrateCommit die tid row => Sys2Proof.Machine.execMigrateCommit die tid row s
  | .relayEnd die n => Sys2Proof.Machine.execRelayEnd die n s
  | .epinFlush die c => Sys2Proof.Machine.execEpinFlush die c s
  | .epinInval die c => Sys2Proof.Machine.execEpinInval die c s
  | .epinSetk die c => Sys2Proof.Machine.execEpinSetk die c s
  | .moraineAgeing die set => Sys2Proof.Machine.execMoraineAgeing die set s
  | .engineComplete die c => Sys2Proof.Machine.execEngineComplete die c s
  | .ssqCfgDone die n => Sys2Proof.Machine.execSsqCfgDone die n s
  | .solverRoundStart die n => Sys2Proof.Machine.execSolverRoundStart die n s
  | .solverErrorWord die n => Sys2Proof.Machine.execSolverErrorWord die n s
  | .solverDecision die n => Sys2Proof.Machine.execSolverDecision die n s
  | .pageWalk f va need => Sys2Proof.Machine.execPageWalk f va need s
  | .heldRecordWrite x => Sys2Proof.Machine.execHeldRecordWrite x s
  | .doorbellRing x q => Sys2Proof.Machine.execDoorbellRing x q s
  | .doorbellEnable x q => Sys2Proof.Machine.execDoorbellEnable x q s
  | .doorbellDisable x q => Sys2Proof.Machine.execDoorbellDisable x q s
  | .doorbellResume x q => Sys2Proof.Machine.execDoorbellResume x q s
  | .hwSlotGrant x => Sys2Proof.Machine.execHwSlotGrant x s
  | .launchPacket q => Sys2Proof.Machine.execLaunchPacket q s
  | .deltaPacket q => Sys2Proof.Machine.execDeltaPacket q s
  | .deltaFloeWrite q f => Sys2Proof.Machine.execDeltaFloeWrite q f s
  | .waitPacket q => Sys2Proof.Machine.execWaitPacket q s
  | .waitEvaluate q => Sys2Proof.Machine.execWaitEvaluate q s
  | .waitTimeout q => Sys2Proof.Machine.execWaitTimeout q s
  | .signalPacket q => Sys2Proof.Machine.execSignalPacket q s
  | .fencePacket q => Sys2Proof.Machine.execFencePacket q s
  | .queueQuantumExpire q => Sys2Proof.Machine.execQueueQuantumExpire q s
  | .schedulerPass => Sys2Proof.Machine.execSchedulerPass s
  | .regionQuantumExpire lid => Sys2Proof.Machine.execRegionQuantumExpire lid s
  | .sequencerHalt f => Sys2Proof.Machine.execSequencerHalt f s
  | .floeSaveComplete f => Sys2Proof.Machine.execFloeSaveComplete f s
  | .regionRestore lid => Sys2Proof.Machine.execRegionRestore lid s
  | .regionStalemate lid => Sys2Proof.Machine.execRegionStalemate lid s
  | .drainStalemate f => Sys2Proof.Machine.execDrainStalemate f s
  | .pairedCountDelivery x => Sys2Proof.Machine.execPairedCountDelivery x s
  | .release x v => Sys2Proof.Machine.execRelease x v s
  | .ptrootWrite v => Sys2Proof.Machine.execPtrootWrite v s
  | .tlbi v => Sys2Proof.Machine.execTlbi v s
  | .tlbiComplete => Sys2Proof.Machine.execTlbiComplete s
  | .retry v => Sys2Proof.Machine.execRetry v s
  | .atcmd v => Sys2Proof.Machine.execAtcmd v s
  | .qtbaseWrite x v => Sys2Proof.Machine.execQtbaseWrite x v s
  | .mbxbaseWrite x v => Sys2Proof.Machine.execMbxbaseWrite x v s
  | .mbxconsWrite x v => Sys2Proof.Machine.execMbxconsWrite x v s
  | .registerWrite off v => Sys2Proof.Machine.execRegisterWrite off v s
  | .rcmdAppend => Sys2Proof.Machine.execRcmdAppend s
  | .rcmdVerify => Sys2Proof.Machine.execRcmdVerify s
  | .rcmdStart => Sys2Proof.Machine.execRcmdStart s
  | .hostInboundRequest r => Sys2Proof.Machine.execHostInboundRequest r s
  | .peerInboundRequest station r => Sys2Proof.Machine.execPeerInboundRequest station r s
  | .ualinkLinkDown station => Sys2Proof.Machine.execUalinkLinkDown station s
  | .ualinkErrorCompletion u => Sys2Proof.Machine.execUalinkErrorCompletion u s
  | .ualinkCompletionTimeout u => Sys2Proof.Machine.execUalinkCompletionTimeout u s
  | .clockStepDown => Sys2Proof.Machine.execClockStepDown s
  | .clockStepUp => Sys2Proof.Machine.execClockStepUp s
  | .telemetryRead die counter => Sys2Proof.Machine.execTelemetryRead die counter s
  | .dieReset die => Sys2Proof.Machine.execDieReset die s
  | .flr => Sys2Proof.Machine.execFlr s
  | .perst => Sys2Proof.Machine.execPerst s
  | .rookBoot x => Sys2Proof.Machine.execRookBoot x s
  | .startComplete => Sys2Proof.Machine.execStartComplete s
  | .startFail reason => Sys2Proof.Machine.execStartFail reason s
  | .startTimeout => Sys2Proof.Machine.execStartTimeout s
  | .issueCompletion f k => Sys2Proof.Machine.execIssueCompletion f k s
  | .rowLookUp die c p => Sys2Proof.Machine.execRowLookUp die c p s
  | .dieLeavesReset die => Sys2Proof.Machine.execDieLeavesReset die s
  | .spdmMeasurementRequest => Sys2Proof.Machine.execSpdmMeasurementRequest s

end Sys2Proof.Machine
end

