-- ==== Sys2Proof/Machine/Step.lean ====
section
/-!
DEFINITION. One step of the machine: the agent at the head of the agenda moves (log entry 2).
-/

namespace Sys2Proof.Machine

/-- A sequencer cycle of floe f: the slots whose wait is over (R37), selection, fetch, decode, execution, and the cycle counted (R38, R305), unless the slot
selected stalls at issue: then the turn stays, for the slots left. -/
def seqStep (f : Nat) (s : State) : Host.Outcome State Fault Refusal :=
  match seqIssue (wakeSlots s.d f) f with
  | (d, none) => .next { s with d := seqCount d f }
  | (d, some w) =>
    match decodeSeq w with
    | .error c => .next { s with d := seqCount (trapIllegal d c) f }
    | .ok i => mapNext (issueEnd f d.curK s) (exec i { s with d := d })

/-- A Rook core runs its firmware: its die is out of reset, does not hold it, and the boot ROM has started it (R299). -/
def rookRuns (r : Nat) (s : State) : Bool :=
  ! (getIo s.d (r / 4)).inReset && ! (getIo s.d (r / 4)).held && s.mg.fes.getD (r / 4) 0 == 1

/-- A Rook core executes the word at its pc (R247). -/
def rookStep (r : Nat) (s : State) : Host.Outcome State Fault Refusal :=
  if ! rookRuns r s then .next s
  else
    let d := { s.d with curR := r, curW := BitVec.ofNat 32 (rookFetch s.d r) }
    match decodeRook (rookFetch s.d r) with
    | .ok i => exec i { s with d := d }
    | .error .illegal => .next { s with d := rookTrap d 2 }
    | .error .base => .refused .rookBase

/-- The turn of one agent. -/
def turnStep (t : Turn) (s : State) : Host.Outcome State Fault Refusal :=
  match t with
  | .event i => if i.wf && ! i.encoded then exec i s else .fault .noSuchAgent
  | .seq f => if f < 144 then seqStep f s else .fault .noSuchAgent
  | .rook r => if r < 8 then rookStep r s else .fault .noSuchAgent
  | .clock f => if f < 144 then .next { s with d := fieldCycle s.d f } else .fault .noSuchAgent
  | .feClock x n => if x < 2 then .next { s with d := feCycles s.d x n } else .fault .noSuchAgent
  | .unitClock c u n => if c < 4 ∧ u < 14 then .next { s with d := unitCycles s.d c u n } else .fault .noSuchAgent
  | .pipeClock p n => if p < 16 then .next { s with d := pipeCycles s.d p n } else .fault .noSuchAgent
  | .bar0Read off => bar0Read s off
  | .hdmWrite base len => .next { s with d := hdmWrite base len s.d }
  | .upset u => softError u s
  | .peerAnswer m psp unit mask => .next { s with d := peerAnswer m psp unit mask s.d }
  | .peerWrite m psp a bs => .next { s with d := peerWrite m psp a bs s.d }
  | .noWid i => .next { s with d := sentReturns s.d i }
  | .place lid => .next { s with d := placeNext s.d lid }
  | .feRead x => if x < 2 then .next { s with d := feRead s.d x } else .fault .noSuchAgent
  | .verify => .next { s with mg := romReads s.mg }

/-- One step: the head of the agenda moves; with no agent on it, the floe that issued last runs a sequencer cycle. -/
def step (s : State) : Host.Outcome State Fault Refusal :=
  match s.agenda with
  | [] => turnStep (.seq s.d.curF) s
  | t :: ts => turnStep t { s with agenda := ts }

/-- s with the instruction word stored where the next step fetches: a sequencer word in host memory, which floe 0 runs
in slot 0; a word of the Rook extension in the instruction memory of Rook core 0. Log entry 13 says how a program comes
to run from reset. -/
def State.withFetchWord (s : State) (nbits w : Nat) : State :=
  let v := w % 2 ^ min nbits 32
  match decodeRook v with
  | .ok _ =>
    let d := modIo s.d 0 (fun io => { io with inReset := false })
    let d := modRook d 0 (fun k => { k with pc := 0 })
    { s with d := memWrite d (locRook 0 0) 4 v false, mg := { s.mg with fes := s.mg.fes.set 0 1 }, agenda := [.rook 0] }
  | .error _ =>
    let d := modIo s.d 0 (fun io => { io with inReset := false })
    let d := modDie d 0 (fun c => { c with inReset := false })
    let d := { d with acl := spSet 0 d.acl ((60 * 256 + 0) * 8) 0x11 }
    let d := modFloe d 0 (fun fl => { fl with
      utlb := [{ va := 0, size := 65536, pa := 0, tgt := 2, r := true, w := true, x := true }],
      slots := fl.slots.map (fun k => { k with mask := true }) })
    let d := modSlot d 0 0 (fun k => { k with st := .live, mask := false, block := .none, tp := { k.tp with pc := 0 } })
    { s with d := memWrite d (locHost 0) 4 v false, agenda := [.seq 0] }

end Sys2Proof.Machine
end

