-- ==== Sys2Proof/Safety.lean ====
section
/-!
DEFINITION. What a safe step is, in the terms of the claims: it ends in a next state, and an invariant that holds before
it holds after. Then the words the claims use: an instruction that takes effect, the state it leaves, and what it keeps.
-/

namespace Sys2Proof.Safety

open Sys2Proof.Machine

/-- The step at s ends in a next state that satisfies P. -/
def StepsTo (s : State) (P : State → Prop) : Prop := ∃ t, Machine.step s = .next t ∧ P t

/-- Every step keeps I: from any state that has it, reachable or not, a next state has it. -/
def Invariant (I : State → Prop) : Prop := ∀ s t, I s → Machine.step s = .next t → I t

/-- i completes at s, and the state it leaves satisfies P. -/
def Leaves (i : Instr) (s : State) (P : State → Prop) : Prop := ∃ t, exec i s = .next t ∧ P t

/-- i completes at s and leaves s with its data changed to d and nothing else (R22). -/
def LeavesData (i : Instr) (s : State) (d : Data) : Prop := exec i s = .next { s with d := d }

/-- i completes at s and changes the issuing TP by h, and nothing else in the machine. -/
def ActsOnTp (i : Instr) (s : State) (h : Tp → Tp) : Prop := LeavesData i s (modCur s.d h)

/-- A sequencer instruction of guard g that needs the registers regs takes its effect at s: its guard holds, no pending
result is to come into one of them, and none holds data found uncorrectable (R282, R305, R307). -/
def Ready (s : State) (g : Guard) (regs : List (BitVec 5)) : Prop :=
  enabled (curTp s.d) g = true ∧ badSpec (curTp s.d) (predRegs [g.p]) = false ∧
    ∀ r ∈ regs, r ≠ 0 → pendReg (curTp s.d) r = false ∧ r ∉ (curTp s.d).badRegs

/-- None of the registers specs of the issuing TP holds data found uncorrectable (R282). -/
def Sound (s : State) (specs : List SpecReg) : Prop := badSpec (curTp s.d) specs = false

/-- The TP after the word at its pc was handled without a branch (R390). -/
def pastWord (t : Tp) : Tp := handled t t.pc.toNat (t.pc + 4)

/-- s[r] := v, and past the word. -/
def scalarThen (r : BitVec 5) (v : Word) (t : Tp) : Tp := pastWord (sput t r v)

/-- p[r] := v, and past the word. -/
def predThen (r : BitVec 3) (v : Bool) (t : Tp) : Tp := pastWord (pput t r v)

/-- A result v for s[r] of the given kind is on its way, due in sequencer cycle due, and past the word (R348, R402). -/
def lateThen (kind : PendKind) (r : BitVec 5) (v : Word) (due : Nat) (word : IWord) (t : Tp) : Tp :=
  pastWord { t with
    pends := t.pends ++ [{ id := t.nextId, kind := kind, d := r, value := v, due := due, floeLocal := false, pieces := [],
                           signed := false, addr := 0, word := word, wno := 0, after := [], peer := none, order := 0 }],
    nextId := t.nextId + 1 }

/-- The sequencer-cycle count of the issuing TP's floe (k.SEQC). -/
def seqNow (s : State) : Nat := (getFloe s.d s.d.curF).seqc

/-- Every byte of memory reads in t as it did in s. -/
def MemKept (s t : State) : Prop := ∀ a, memByte t.d a = memByte s.d a

/-- t differs from s in the issuing TP and in what that TP waits for, and nowhere else: every byte of memory, every other
slot and floe, every die, engine, queue, region and host register, the management plane and the agenda stand. -/
def OnlyIssuer (s t : State) : Prop :=
  MemKept s t ∧ t.mg = s.mg ∧ t.agenda = s.agenda ∧
  { t.d with floes := [] } = { s.d with floes := [] } ∧
  (∀ f, { getFloe t.d f with slots := [] } = { getFloe s.d f with slots := [] }) ∧
  (∀ f k, f ≠ s.d.curF ∨ k ≠ s.d.curK → getSlot t.d f k = getSlot s.d f k) ∧
  { getSlot t.d s.d.curF s.d.curK with tp := Tp.reset, block := .none } =
    { getSlot s.d s.d.curF s.d.curK with tp := Tp.reset, block := .none }

/-- Of the issuing TP, t keeps every register but s[r], every predicate and everything else but the pc and the loop
stack. -/
def TpKeptBut (r : BitVec 5) (s t : State) : Prop :=
  (∀ q, q ≠ r → sget (curTp t.d) q = sget (curTp s.d) q) ∧
  { curTp t.d with regs := [], pc := 0, loops := [] } = { curTp s.d with regs := [], pc := 0, loops := [] }

/-- The destination of an instruction that writes one scalar register in its cycle of issue (R330, R370, R441, R446). -/
def scalarDest : Instr → Option (BitVec 5)
  | .add _ d _ _ | .sub _ d _ _ | .and _ d _ _ | .or _ d _ _ | .xor _ d _ _ | .shl _ d _ _ | .shrN _ d _ _
  | .shrS _ d _ _ | .minS _ d _ _ | .minN _ d _ _ | .maxS _ d _ _ | .maxN _ d _ _ | .bitcClz _ d _ | .bitcCtz _ d _
  | .bitcPop _ d _ | .sel _ d _ _ _ | .addi _ d _ _ | .andi _ d _ _ | .ori _ d _ _ | .xori _ d _ _ | .shli _ d _ _
  | .shriS _ d _ _ | .shriN _ d _ _ | .lim _ d _ | .getk _ d _ | .widf _ d _ | .tffr _ d _ | .cfgq _ d _ => some d
  | _ => none

/-- The paired count a record of a unit of a die carries: the count last delivered to it, or on an I/O die the front end's
own (R17). -/
def pairedFor (d : Data) (die : Nat) : Nat := if die < 4 then (getIo d (ioOf die)).paired else (getIo d (ioOf die)).feCount

/-- The data once the record r that concerns the TP in slot k of floe f has been given to the mailbox, or is held for it
(R23, R28, R268). -/
def recordedTp (d : Data) (f k : Nat) (r : Rec) : Data :=
  modTp (mbxPut d (ioOf (dieOf f)) (recWords { r with wid := (getTp d f k).wid, slot := k, mid := f, unit := f }
      (getFloe d f).advc (pairedFor d (dieOf f)))) f k (fun t => { t with flt := fltCount t.flt r.cls })

/-- The data once the issuing TP has trapped at its instruction (R269): the TRAP record with the pc and the instruction
word, and the slot drains towards TRAPPED; of the TP only the fault count changes, so its pc stays. -/
def trapped (d : Data) (cls cause code : Nat) : Data :=
  modSlot (recordedTp d d.curF d.curK { recZero with
      cls := cls, cause := cause, addr := (curTp d).pc.toNat, d0 := BitVec.ofNat 64 d.curW.toNat, d1 := BitVec.ofNat 64 code })
    d.curF d.curK (fun sl => { sl with st := .exiting, trapped := true, block := .drain })

/-- i traps at s with a class and a cause of R266. -/
def Traps (i : Instr) (s : State) (cls cause : Nat) : Prop := LeavesData i s (trapped s.d cls cause 0)

/-- The TP after a taken branch to a (R338): of the loop levels, those from the innermost whose body holds a on. -/
def branched (a : BitVec 52) (t : Tp) : Tp :=
  { t with
    pc := a, loops := t.loops.dropWhile (fun l => ! (decide (l.start.toNat ≤ a.toNat) && decide (a.toNat ≤ l.last))) }

/-- The data once a stream command c, which names the tag c.tag, has taken entry e of the issuing floe's stream table
(R66, R87, R91, R201): the entry holds it, the floe's issue order counts it, its tag bit is clear, it counts as incomplete
and, where it is a counted write, it has the next write number. -/
def streamTaken (d : Data) (e : Nat) (c : Cmd) (counted : Bool) : Data :=
  modCur (modFloe d d.curF (fun fl => { fl with streams := fl.streams.set e (some c), issueNo := fl.issueNo + 1 }))
    (fun t => pastWord { t with
      tags := if c.tag = 0 then t.tags else t.tags &&& ~~~(BitVec.ofNat 64 (2 ^ c.tag.toNat)),
      busy := t.busy ++ [c.tag],
      wi := if counted then t.wi + 1 else t.wi,
      undone := if counted then t.undone ++ [t.wi + 1] else t.undone })

/-- A stream command with the operands w may issue at s into entry e (R406): no incomplete command of the TP names its tag,
e is the first free entry, no FENCE or ATOM holds it, and every issue check passes. -/
def StreamMayIssue (s : State) (e : Nat) (w : Want) : Prop :=
  (w.tag = 0 ∨ (curTp s.d).busy.contains w.tag = false) ∧ streamFree (getFloe s.d s.d.curF) = some e ∧
  heldBy (getFloe s.d s.d.curF) (curTp s.d) w.reads w.writes false = false ∧ wantCheck s.d w = none

/-- i issues as a stream command with the operands w: it takes entry e, QUEUED, with the copies of R66 and R79. -/
def TakesEntry (i : Instr) (s : State) (e : Nat) (w : Want) : Prop :=
  ∃ c : Cmd, LeavesData i s (streamTaken s.d e c (wantCounted w)) ∧
    c.kind = w.kind ∧ c.st = .queued ∧ c.slot = s.d.curK ∧ c.owner = (curTp s.d).owner ∧ c.tag = w.tag ∧ c.ip = w.ip ∧
    c.op = w.op ∧ some c.tile = (w.tiles ++ [none])[0]? ∧ some c.tile2 = (w.tiles ++ [none, none])[1]? ∧ c.pat = w.pat ∧
    c.branches = w.branches ∧ c.gen = (getFloe s.d s.d.curF).cfg.igen ∧ c.no = (getFloe s.d s.d.curF).issueNo ∧
    c.pos = 0 ∧ c.words = 0 ∧ c.killed = none

/-- The data once the issuing TP has a memory access p on its way and goes on (R177, R178, R201): p has the TP's next number,
the floe's place in issue order, where it is a FLOE access its first cycle (the one after cyc, which is the advance cycle in progress
or, on a frozen floe, the next), and where it is a counted write the TP's next write number; what the issue holds of later accesses
is added. -/
def accessTaken (d : Data) (p : Pend) (counted : Bool) (hs : List Hold) : Data :=
  modCur (modFloe d d.curF (fun fl => { fl with issueNo := fl.issueNo + 1 }))
    (fun t => pastWord { t with
      pends := t.pends ++ [{ p with
        id := t.nextId, wno := if counted then t.wi + 1 else 0, order := (getFloe d d.curF).issueNo,
        due := if p.floeLocal then (getFloe d d.curF).cyc + 1 else 0 }],
      nextId := t.nextId + 1, holds := t.holds ++ hs,
      wi := if counted then t.wi + 1 else t.wi,
      undone := if counted then t.undone ++ [t.wi + 1] else t.undone })

/-- An access i of the TP in slot k of floe f may perform now, and it is p: no access it waits for and no earlier access to
one of its bytes is pending, and in FLOE its cycle and its turn have come (R177, R178, R188). -/
def MayPerformNow (s : State) (f k i : Nat) (p : Pend) : Prop :=
  (getTp s.d f k).pends.find? (fun q => q.id == i) = some p ∧ mayPerform (getTp s.d f k) p = true ∧
  (p.floeLocal = true → floeTurn (getFloe s.d f) p = true)

/-- The TP without its access p, which has performed. -/
def withoutPend (p : Pend) (t : Tp) : Tp :=
  { t with pends := t.pends.filter (fun q => q.id != p.id), undone := t.undone.filter (fun n => n != p.wno) }

/-- Address a lies in no byte of the pieces. -/
def Outside (ps : List Piece) (a : Nat) : Prop := ∀ p ∈ ps, a < p.loc ∨ p.loc + pieceBytes p ≤ a

/-- The guard of a sequencer instruction; a Rook instruction or an event has none (R304). -/
def seqGuard : Instr → Option Guard
  | .nop g | .trap g _ | .yield g | .park g | .exit g | .brk g | .getk g _ _ | .putk g _ _ | .widf g _ _ | .add g _ _ _
  | .sub g _ _ _ | .mul g _ _ _ | .mulhiS g _ _ _ | .mulhiN g _ _ _ | .divS g _ _ _ | .divN g _ _ _ | .remS g _ _ _
  | .remN g _ _ _ | .and g _ _ _ | .or g _ _ _ | .xor g _ _ _ | .shl g _ _ _ | .shrN g _ _ _ | .shrS g _ _ _
  | .minS g _ _ _ | .minN g _ _ _ | .maxS g _ _ _ | .maxN g _ _ _ | .bitcClz g _ _ | .bitcCtz g _ _ | .bitcPop g _ _
  | .sel g _ _ _ _ | .cmp g _ _ _ _ | .cmpi g _ _ _ _ | .addi g _ _ _ | .andi g _ _ _ | .ori g _ _ _ | .xori g _ _ _
  | .shli g _ _ _ | .shriS g _ _ _ | .shriN g _ _ _ | .lim g _ _ | .plog g _ _ _ _ | .br g _ | .jal g _ _ | .jr g _ _
  | .loop g _ _ | .tshp g _ _ | .tbind g _ _ _ _ _ | .torg g _ _ _ | .tadv g _ _ _ | .tqry g _ _ | .ltld g _ _
  | .ltw g _ _ _ | .spat g _ _ _ | .srd g _ _ _ _ | .swr g _ _ _ _ | .sgth g _ _ _ _ | .ssctSt g _ _ _ _
  | .ssctAdd g _ _ _ _ | .ssctMax g _ _ _ _ | .ssctMin g _ _ _ _ | .srec g _ _ _ | .sconC g _ _ | .sconI g _ _
  | .smcs g _ _ _ _ _ | .sbar g _ | .sbarSp g _ | .sbarAll g | .skilTag g _ | .skilIp g _ | .skilOp g _
  | .twaitAll g _ | .twaitAny g _ | .tffr g _ _ | .tclr g _ | .smov g _ _ _ | .cfgl g _ _ | .cfgw g _ _ _ | .cfgg g _
  | .cfgq g _ _ | .mxt g _ _ | .mxtP g _ | .mxtU g | .lds g _ _ _ _ | .sts g _ _ _ _ | .atomSwp g _ _ _ _ _
  | .atomCas g _ _ _ _ _ | .atomAdd g _ _ _ _ _ | .atomAnd g _ _ _ _ _ | .atomOr g _ _ _ _ _ | .atomXor g _ _ _ _ _
  | .atomMax g _ _ _ _ _ | .atomMin g _ _ _ _ _ | .vld g _ _ _ _ _ | .vst g _ _ _ _ | .vrcl g _ _ _ | .fenceAcq g _
  | .fenceRel g _ | .fenceFull g _ | .tsend g _ _ _ _ | .trecv g _ _ | .cbindOn g _ | .cbindOff g _ | .qpsh g _ _ _
  | .qpop g _ _ _ | .qctlStat g _ _ | .qctlCfg g _ _ | .qctlOff g _ | .lay g _ _ _ | .egat g _ _ _ | .eupd g _ _ _
  | .epin g _ _ _ | .ingqStart g _ _ _ | .ingqStop g _ _ | .ingqStat g _ _ | .ssqCfg g _ _ _ | .ssqGo g _ _ _
  | .ssqStat g _ _ | .ssqStop g _ _ => some g
  | _ => none

end Sys2Proof.Safety
end

