-- ==== Sys2Proof/Certificates/Slice0/Obligations.lean ====
section
/-!
DEFINITION. The statements about the model for the provers: each docstring names the rules of the manual it formalises.
-/

open Sys2Proof Sys2Proof.Machine Sys2Proof.Safety


/-! ## Encoding -/

/-- R304-R317, R247: words written out field by field from the encoding tables decode to the instructions they stand for:
`add s3, s4, s5` (R331), `ori s4, s4, 0x800` (R332), `cmp p2, s5, lt.n, s6` (R342), `br -3` (R338), `jal s31, +10`
(R380), `lim s5, -0xDCBB` (R388), `getk s9, k.TAGS` (R370), `trap 7` (R443), and BFXT of the Rook extension. -/
def Obligations.WordsOfTheManualDecode : Prop :=
  decodeSeq 0x04064280 = .ok (.add ⟨0, false⟩ 3 4 5) ∧
  decodeSeq 0x14084800 = .ok (.ori ⟨0, false⟩ 4 4 0x800) ∧
  decodeSeq 0x08114D00 = .ok (.cmp ⟨0, false⟩ 2 5 6 4) ∧
  decodeSeq 0x403FFFFD = .ok (.br ⟨0, false⟩ (-3)) ∧
  decodeSeq 0x443E000A = .ok (.jal ⟨0, false⟩ 31 10) ∧
  decodeSeq 0x280B2345 = .ok (.lim ⟨0, false⟩ 5 0x12345) ∧
  decodeSeq 0x00120206 = .ok (.getk ⟨0, false⟩ 9 4) ∧
  decodeSeq 0x00000381 = .ok (.trap ⟨0, false⟩ 7) ∧
  decodeSeq 0x4C002003 = .ok (.loop ⟨0, false⟩ 1 3) ∧
  decodeSeq 0x2C195000 = .ok (.plog ⟨0, false⟩ 3 1 2 8) ∧
  decodeRook (2 ^ 20 * 12 + 2 ^ 15 * 11 + 2 ^ 12 + 2 ^ 7 * 10 + 0x0B) = .ok (.bfxt 10 11 12)

/-- Decoding the word that the encoder writes for a well-formed instruction gives that instruction back, with every
operand at every value the encoding admits: all 120 sequencer and all 5 Rook instructions. -/
def Obligations.DecodeInvertsEncode : Prop :=
  ∀ (i : Instr) (w : Nat), i.wf = true → encode i = some w → w < 2 ^ 32 ∧ decodeWord w = some i

/-- Every instruction with a word has one, and no other step has (R304, R247). What the sequencer decoder accepts is a
well-formed sequencer instruction under the word's guard, and the word is the one the encoder gives that instruction: a
word of 32 bits with an operand past its limit, a reserved field that is not zero or an unassigned code stands for none
and is refused (R305, R306). R309: every major opcode the table does not list raises ILLEGAL 0x01 at decode, whatever
the rest of the word. -/
def Obligations.DecoderAcceptsTheInstructions : Prop :=
  (∀ i : Instr, (encode i).isSome = i.encoded) ∧
  (∀ (w : Nat) (i : Instr), decodeSeq w = .ok i →
      i.wf = true ∧ i.encoded = true ∧ seqGuard i = some ⟨BitVec.ofNat 3 (w / 2 ^ 23), w / 2 ^ 22 % 2 == 1⟩ ∧
      (w < 2 ^ 32 → encode i = some w ∧ ∀ v, v < 2 ^ 32 → decodeSeq v = .ok i → v = w)) ∧
  (∀ w : Nat, w / 2 ^ 26 % 64 ∈ [0x0C, 0x0D, 0x0E, 0x0F, 0x14, 0x15, 0x16, 0x17, 0x1F, 0x2E, 0x2F, 0x35, 0x3F] →
      decodeSeq w = .error 1)

/-! ## The step -/

/-- A step runs the decoded instruction: where the agenda gives floe f its sequencer cycle, the cycle selects slot k of
the floe (with the waits that are over ended, the floe's due results written and its slots' waits updated), the word w
is read at that slot's pc, and w decodes to i, the step is exec of i in the state whose issuer is slot k of floe f with
the word w in hand. Where exec of i answers a state in which the slot is in no issue stall, the floe's cycle is counted
after it (R38, R304, R308). Where the slot must wait at issue, it has not issued: the step blocks that slot alone, its
wait and aged unchanged, and the floe still has its cycle (R37, log entry 129). The same for a Rook core: the word at
its pc in its instruction memory is decoded and executed with that core as the issuer (R247), where its die is out of
reset and runs it and the boot ROM has started it (R299); else it executes nothing. The same for an event: a step
without an encoding that names agents of the module is executed when its turn comes (log entry 2). -/
def Obligations.StepRunsTheDecodedInstruction : Prop :=
  (∀ (s s1 : State) (f k w : Nat) (ts : List Turn) (d1 d2 : Data) (i : Instr),
      s.agenda = .seq f :: ts → f < 144 → (getDie s.d (dieOf f)).inReset = false →
      selectSlot (wakeSlots s.d f) f = (d1, some k) →
      fetch (modSlot d1 f k (fun sl => { sl with block := .none })) f k = (d2, some w) →
      decodeSeq w = .ok i →
      s1 = { s with
        agenda := ts,
        d := { modSlot d2 f k (fun sl => { sl with word := BitVec.ofNat 32 w }) with
          curF := f, curK := k, curW := BitVec.ofNat 32 w } } →
      (∀ t, exec i s1 = .next t → stallOf t.d f k = none → step s = .next { t with d := seqCount t.d f }) ∧
      (∀ t c, exec i s1 = .next t → stallOf t.d f k = some c →
        step s = .next { s with d := modSlot s.d f k (fun sl => { sl with block := .stall c }) })) ∧
  (∀ (s : State) (r : Nat) (ts : List Turn) (i : Instr),
      s.agenda = .rook r :: ts → r < 8 →
      ((getIo s.d (r / 4)).inReset = false → (getIo s.d (r / 4)).held = false → s.mg.fes.getD (r / 4) 0 = 1 →
        decodeRook (rookFetch s.d r) = .ok i → step s = exec i { s with
          agenda := ts, d := { s.d with curR := r, curW := BitVec.ofNat 32 (rookFetch s.d r) } }) ∧
      ((getIo s.d (r / 4)).inReset = true ∨ (getIo s.d (r / 4)).held = true ∨ s.mg.fes.getD (r / 4) 0 ≠ 1 →
        step s = .next { s with agenda := ts })) ∧
  (∀ (s : State) (i : Instr) (ts : List Turn), s.agenda = .event i :: ts → i.wf = true → i.encoded = false →
      step s = exec i { s with agenda := ts })

/-- R304, R305: a sequencer instruction whose guard is false has no effect: whatever the instruction, the machine changes
by the step past its word alone. Where the predicate of its guard (not p0) holds data found uncorrectable, it traps with ECCU
0x08 (R282), whatever the predicate would have said. -/
def Obligations.DisabledHasNoEffect : Prop :=
  ∀ (i : Instr) (g : Guard) (s : State), seqGuard i = some g →
    (enabled (curTp s.d) g = false → g.p = 0 ∨ SpecReg.preds ∉ (curTp s.d).badSpecs → ActsOnTp i s pastWord) ∧
    (g.p ≠ 0 → SpecReg.preds ∈ (curTp s.d).badSpecs → Traps i s 0x0C 8)

/-- R27: s0 reads as 0 and a write to it is discarded; p0 reads as 1 and a write to it is discarded; any other register
that the TP holds reads back what was written and leaves the rest. -/
def Obligations.RegisterZeroIsHardWired : Prop :=
  (∀ (t : Tp) (v : Word), sget t 0 = 0 ∧ sput t 0 v = t) ∧
  (∀ (t : Tp) (v : Bool), pget t 0 = true ∧ pput t 0 v = t) ∧
  (∀ (t : Tp) (r q : BitVec 5) (v : Word), r ≠ 0 →
    sget (sput t r v) q = if q = r ∧ r.toNat < t.regs.length then v else sget t q) ∧
  (∀ (t : Tp) (r q : BitVec 3) (v : Bool), r ≠ 0 →
    pget (pput t r v) q = if q = r ∧ r.toNat < t.preds.length then v else pget t q)

/-! ## Scalar instructions -/

/-- R331, R332: ADD, SUB and ADDI compute modulo 2^64, the immediate sign-extended; AND, OR, XOR and their immediate forms
compute bit by bit, the immediate zero-extended. The result is in s[d] in the cycle of issue, and the machine changes in
nothing else. -/
def Obligations.AddAndLogicResults : Prop :=
  ∀ (s : State) (g : Guard) (d a b : BitVec 5) (imm : BitVec 12), Ready s g [d, a, b] →
    ActsOnTp (.add g d a b) s (scalarThen d (BitVec.ofNat 64 ((rn s.d a + rn s.d b) % 2 ^ 64))) ∧
    ActsOnTp (.sub g d a b) s (scalarThen d (BitVec.ofInt 64 (((rn s.d a : Int) - rn s.d b) % 2 ^ 64))) ∧
    ActsOnTp (.addi g d a imm) s (scalarThen d (BitVec.ofInt 64 (((rn s.d a : Int) + imm.toInt) % 2 ^ 64))) ∧
    ActsOnTp (.and g d a b) s (scalarThen d (BitVec.ofNat 64 (rn s.d a &&& rn s.d b))) ∧
    ActsOnTp (.or g d a b) s (scalarThen d (BitVec.ofNat 64 (rn s.d a ||| rn s.d b))) ∧
    ActsOnTp (.xor g d a b) s (scalarThen d (BitVec.ofNat 64 (rn s.d a ^^^ rn s.d b))) ∧
    ActsOnTp (.andi g d a imm) s (scalarThen d (BitVec.ofNat 64 (rn s.d a &&& imm.toNat))) ∧
    ActsOnTp (.ori g d a imm) s (scalarThen d (BitVec.ofNat 64 (rn s.d a ||| imm.toNat))) ∧
    ActsOnTp (.xori g d a imm) s (scalarThen d (BitVec.ofNat 64 (rn s.d a ^^^ imm.toNat)))

/-- R427: SHL gives the operand times 2^c modulo 2^64, SHR.n divides it by 2^c as an unsigned number and SHR.s as a
signed one, rounding down; c is the low six bits of s[b], or the immediate. R336: BITC.clz counts the zero bits above
the highest set bit, .ctz those below the lowest, .pop the set bits; for 0 the counts are 64, 64 and 0. -/
def Obligations.ShiftAndBitCountResults : Prop :=
  (∀ (s : State) (g : Guard) (d a b : BitVec 5) (sh : BitVec 6), Ready s g [d, a, b] →
      ActsOnTp (.shl g d a b) s (scalarThen d (BitVec.ofNat 64 (rn s.d a * 2 ^ (rn s.d b % 64)))) ∧
      ActsOnTp (.shrN g d a b) s (scalarThen d (BitVec.ofNat 64 (rn s.d a / 2 ^ (rn s.d b % 64)))) ∧
      ActsOnTp (.shrS g d a b) s (scalarThen d (BitVec.ofInt 64 ((rs s.d a).toInt / 2 ^ (rn s.d b % 64)))) ∧
      ActsOnTp (.shli g d a sh) s (scalarThen d (BitVec.ofNat 64 (rn s.d a * 2 ^ sh.toNat))) ∧
      ActsOnTp (.shriN g d a sh) s (scalarThen d (BitVec.ofNat 64 (rn s.d a / 2 ^ sh.toNat))) ∧
      ActsOnTp (.shriS g d a sh) s (scalarThen d (BitVec.ofInt 64 ((rs s.d a).toInt / 2 ^ sh.toNat)))) ∧
  (∀ (s : State) (g : Guard) (d a : BitVec 5), Ready s g [d, a] →
      (∃ n, ActsOnTp (.bitcClz g d a) s (scalarThen d (BitVec.ofNat 64 n)) ∧
        rn s.d a < 2 ^ (64 - n) ∧ (rn s.d a = 0 → n = 64) ∧ (rn s.d a ≠ 0 → n < 64 ∧ 2 ^ (63 - n) ≤ rn s.d a)) ∧
      (∃ n, ActsOnTp (.bitcCtz g d a) s (scalarThen d (BitVec.ofNat 64 n)) ∧
        (rn s.d a = 0 → n = 64) ∧ (rn s.d a ≠ 0 → n < 64 ∧ rn s.d a % 2 ^ n = 0 ∧ rn s.d a % 2 ^ (n + 1) ≠ 0)) ∧
      ActsOnTp (.bitcPop g d a) s
        (scalarThen d (BitVec.ofNat 64 ((List.range 64).countP (fun i => (rn s.d a).testBit i)))))

/-- R394, R423, R388: MIN and MAX give the smaller and the larger operand, signed or unsigned; SEL gives s[a] where p[k]
is 1 and s[b] otherwise; LIM gives its sign-extended immediate times 2^12 modulo 2^64. R312, R342, R413: CMP and CMPI
write p[pd] with the condition's test of 64-bit values, the immediate sign-extended; PLOG writes the bit of its truth
table that p[pa] and p[pb] select. Nothing else changes. Where the predicates hold data found uncorrectable, PLOG that
reads any but p0 traps with ECCU 0x08 (R282). -/
def Obligations.SelectionAndPredicateResults : Prop :=
  (∀ (s : State) (g : Guard) (d a b : BitVec 5) (k : BitVec 3) (imm : BitVec 17), Ready s g [d, a, b] →
      ActsOnTp (.minS g d a b) s (scalarThen d (BitVec.ofInt 64 (min (rs s.d a).toInt (rs s.d b).toInt))) ∧
      ActsOnTp (.maxS g d a b) s (scalarThen d (BitVec.ofInt 64 (max (rs s.d a).toInt (rs s.d b).toInt))) ∧
      ActsOnTp (.minN g d a b) s (scalarThen d (BitVec.ofNat 64 (min (rn s.d a) (rn s.d b)))) ∧
      ActsOnTp (.maxN g d a b) s (scalarThen d (BitVec.ofNat 64 (max (rn s.d a) (rn s.d b)))) ∧
      (Sound s (predRegs [k]) → ActsOnTp (.sel g d a b k) s (scalarThen d (if pget (curTp s.d) k then rs s.d a else rs s.d b))) ∧
      ActsOnTp (.lim g d imm) s (scalarThen d (BitVec.ofInt 64 (imm.toInt * 2 ^ 12 % 2 ^ 64)))) ∧
  (∀ (s : State) (g : Guard) (pd pa pb : BitVec 3) (a b : BitVec 5) (c : BitVec 3) (imm : BitVec 11) (tt : BitVec 4),
      Ready s g [a, b] → c.toNat ≤ 5 →
      (∀ x y : Word, condHolds c x y =
        (match c.toNat with
          | 0 => decide (x.toNat = y.toNat)
          | 1 => decide (x.toNat ≠ y.toNat)
          | 2 => decide (x.toInt < y.toInt)
          | 3 => decide (y.toInt ≤ x.toInt)
          | 4 => decide (x.toNat < y.toNat)
          | _ => decide (y.toNat ≤ x.toNat))) ∧
      (Sound s (predRegs [pd]) →
        ActsOnTp (.cmp g pd a b c) s (predThen pd (condHolds c (rs s.d a) (rs s.d b))) ∧
        ActsOnTp (.cmpi g pd a c imm) s (predThen pd (condHolds c (rs s.d a) (BitVec.ofInt 64 imm.toInt)))) ∧
      (Sound s (predRegs [pd, pa, pb]) →
        ActsOnTp (.plog g pd pa pb tt) s (predThen pd (tt.toNat.testBit
          (2 * (if pget (curTp s.d) pa then 1 else 0) + (if pget (curTp s.d) pb then 1 else 0))))) ∧
      (SpecReg.preds ∈ (curTp s.d).badSpecs → pa ≠ 0 ∨ pb ≠ 0 → Traps (.plog g pd pa pb tt) s 0x0C 8))

/-- R402, R348: MUL gives the low and MULHI the high half of the product, signed or unsigned, on its way to s[d] for 4
sequencer cycles; s[d] keeps its value until then. R347, R418: the quotient rounds toward zero and the remainder takes
the dividend's sign; a zero divisor gives all ones and the dividend; the most negative number divided by -1 gives itself
and 0. No form faults. The result is on its way to s[d] for 32 sequencer cycles (R348). R348, R402: DIV_RESULT and
MUL_RESULT write every due result of their kind of a TP, each to its own register in the order issued, and strike them;
what is not due stays, and nothing else changes. A register holds the value of the last due result it is the destination
of, where there is one; s0 stays 0. -/
def Obligations.MultiplyAndDivideResults : Prop :=
  (∀ (s : State) (g : Guard) (d a b : BitVec 5), Ready s g [d, a, b] →
      ActsOnTp (.mul g d a b) s
        (lateThen .mul d (BitVec.ofNat 64 (rn s.d a * rn s.d b % 2 ^ 64)) (seqNow s + 4) s.d.curW) ∧
      ActsOnTp (.mulhiS g d a b) s
        (lateThen .mul d (BitVec.ofInt 64 ((rs s.d a).toInt * (rs s.d b).toInt / 2 ^ 64)) (seqNow s + 4) s.d.curW) ∧
      ActsOnTp (.mulhiN g d a b) s
        (lateThen .mul d (BitVec.ofNat 64 (rn s.d a * rn s.d b / 2 ^ 64)) (seqNow s + 4) s.d.curW)) ∧
  (∀ (s : State) (g : Guard) (d a b : BitVec 5), Ready s g [d, a, b] →
      (rn s.d b = 0 →
        ActsOnTp (.divS g d a b) s (lateThen .div d (BitVec.ofNat 64 (2 ^ 64 - 1)) (seqNow s + 32) s.d.curW) ∧
        ActsOnTp (.divN g d a b) s (lateThen .div d (BitVec.ofNat 64 (2 ^ 64 - 1)) (seqNow s + 32) s.d.curW) ∧
        ActsOnTp (.remS g d a b) s (lateThen .div d (rs s.d a) (seqNow s + 32) s.d.curW) ∧
        ActsOnTp (.remN g d a b) s (lateThen .div d (rs s.d a) (seqNow s + 32) s.d.curW)) ∧
      ((rs s.d a).toInt = -2 ^ 63 → (rs s.d b).toInt = -1 →
        ActsOnTp (.divS g d a b) s (lateThen .div d (BitVec.ofInt 64 (-2 ^ 63)) (seqNow s + 32) s.d.curW) ∧
        ActsOnTp (.remS g d a b) s (lateThen .div d 0 (seqNow s + 32) s.d.curW)) ∧
      (rn s.d b ≠ 0 →
        (∃ q r : Int, (rs s.d a).toInt = q * (rs s.d b).toInt + r ∧ r.natAbs < (rs s.d b).toInt.natAbs ∧
          (r = 0 ∨ (0 < r ↔ 0 < (rs s.d a).toInt)) ∧
          ActsOnTp (.divS g d a b) s (lateThen .div d (BitVec.ofInt 64 q) (seqNow s + 32) s.d.curW) ∧
          ActsOnTp (.remS g d a b) s (lateThen .div d (BitVec.ofInt 64 r) (seqNow s + 32) s.d.curW)) ∧
        ActsOnTp (.divN g d a b) s (lateThen .div d (BitVec.ofNat 64 (rn s.d a / rn s.d b)) (seqNow s + 32) s.d.curW) ∧
        ActsOnTp (.remN g d a b) s (lateThen .div d (BitVec.ofNat 64 (rn s.d a % rn s.d b)) (seqNow s + 32) s.d.curW))) ∧
  (∀ (s : State) (f k : Nat) (kind : PendKind) (i : Instr) (due : Pend → Bool),
      (kind = .div ∧ i = .divResult f k) ∨ (kind = .mul ∧ i = .mulResult f k) →
      (due = fun p => decide (p.kind = kind) && decide (p.due ≤ (getFloe s.d f).seqc)) →
      ∃ t : Tp, LeavesData i s (modTp s.d f k (fun _ => t)) ∧
        t = { getTp s.d f k with regs := t.regs, pends := (getTp s.d f k).pends.filter (fun p => ! due p) } ∧
        ((getTp s.d f k).regs.length = 32 → ∀ r : BitVec 5, sget t r =
          if r = 0 then 0
          else match (((getTp s.d f k).pends.filter due).filter (fun p => decide (p.d = r))).getLast? with
            | some p => p.value
            | none => sget (getTp s.d f k) r))

/-- The frame of the instructions that write one scalar register: in a next state, whether the instruction took effect,
waited or was disabled, every byte of memory, every other agent, and of the issuing TP every register but s[d] and all
else but the pc and the loop stack are as before. Where a register the instruction names holds data found uncorrectable, it
traps with ECCU 0x08 (R282): of ADD, in its register or its immediate form. R282 names no reader: that the destination register
alone suffices is the model's choice (log 144). -/
def Obligations.ScalarInstructionsFrame : Prop :=
  (∀ (i : Instr) (d : BitVec 5) (s t : State), scalarDest i = some d → (curTp s.d).badRegs = [] →
    SpecReg.preds ∉ (curTp s.d).badSpecs → exec i s = .next t →
    OnlyIssuer s t ∧ TpKeptBut d s t) ∧
  (∀ (s : State) (g : Guard) (d a b r : BitVec 5) (imm : BitVec 12), enabled (curTp s.d) g = true →
    SpecReg.preds ∉ (curTp s.d).badSpecs → (∀ q ∈ [d, a, b], q ≠ 0 → pendReg (curTp s.d) q = false) →
    r ≠ 0 → r ∈ (curTp s.d).badRegs →
    (r ∈ [d, a, b] → Traps (.add g d a b) s 0x0C 8) ∧ (r ∈ [d, a] → Traps (.addi g d a imm) s 0x0C 8))

/-! ## System instructions, branches and loops -/

/-- R268: every field of DW0 of a fault record reads back at its place; bits [63:56] are 0. -/
def Obligations.FaultRecordFieldsReadBack : Prop :=
  ∀ r : Rec,
    wb (recHead r) 0 8 = r.cls % 2 ^ 8 ∧ wb (recHead r) 8 8 = r.cause % 2 ^ 8 ∧ wb (recHead r) 16 3 = r.kind % 2 ^ 3 ∧
    wb (recHead r) 19 5 = r.utype % 2 ^ 5 ∧ wb (recHead r) 24 8 = r.unit % 2 ^ 8 ∧ wb (recHead r) 32 8 = r.mid % 2 ^ 8 ∧
    wb (recHead r) 40 6 = r.tag % 2 ^ 6 ∧ wb (recHead r) 46 3 = r.slot % 2 ^ 3 ∧ wb (recHead r) 49 5 = r.entry % 2 ^ 5 ∧
    (recHead r).getLsbD 54 = r.mc ∧ (recHead r).getLsbD 55 = r.wr ∧ wb (recHead r) 56 8 = 0

/-- R408, R43, R45, R443: NOP only passes its word; YIELD sets the slot's yield bit and passes; EXIT passes and puts the
slot into its drain; TRAP takes the exception of class 0x11 with its code in DETAIL1 and the pc at the TRAP. R44, R410:
PARK with no channel bound traps with ILLEGAL 0x05. With one bound it passes and drains the slot towards PARKED; in a
co-resident launch it keeps the slot and waits there. That it passes at once, with no drain, where a bound channel's
buffer holds a word already is the model's choice (log 167): R44 says that the TP blocks until a word arrives. R339,
R270: BRK writes a record of KIND 5 and class 0x12 with its address, passes, masks every slot of its floe, and its
region is held and, where it was RESIDENT, saved; a region already SAVING is only held. -/
def Obligations.SystemInstructionResults : Prop :=
  (∀ (s : State) (g : Guard) (code : BitVec 10), Ready s g [] →
      ActsOnTp (.nop g) s pastWord ∧
      LeavesData (.yield g) s (modCurSlot s.d (fun sl => { sl with yield := true, tp := pastWord sl.tp })) ∧
      LeavesData (.exit g) s (modCurSlot s.d (fun sl => { sl with st := .exiting, block := .drain, tp := pastWord sl.tp })) ∧
      LeavesData (.trap g code) s (trapped s.d 0x11 0 code.toNat)) ∧
  (∀ (s : State) (g : Guard), Ready s g [] →
      ((curTp s.d).bound.any id = false → Traps (.park g) s 1 5) ∧
      ((curTp s.d).bound.any id = true → coResident (curRegion s.d) = false →
        LeavesData (.park g) s (modCurSlot s.d (fun sl => { sl with st := .parking, block := .drain, tp := pastWord sl.tp }))) ∧
      ((curTp s.d).bound.any id = true → coResident (curRegion s.d) = true → boundWord (curTp s.d) = true →
        ActsOnTp (.park g) s pastWord) ∧
      ((curTp s.d).bound.any id = true → coResident (curRegion s.d) = true → boundWord (curTp s.d) = false →
        LeavesData (.park g) s (modCurSlot s.d (fun sl => { sl with block := .parkedInSlot, tp := pastWord sl.tp })))) ∧
  (∀ (s : State) (g : Guard), Ready s g [] →
      LeavesData (.brk g) s
        (modRegion
          (modFloe
            (modTp (recordedTp s.d s.d.curF s.d.curK { recZero with kind := 5, cls := 0x12, addr := (curTp s.d).pc.toNat })
              s.d.curF s.d.curK pastWord)
            s.d.curF (fun fl => { fl with slots := fl.slots.map (fun sl => { sl with mask := true }), halting := true }))
          (curTp s.d).owner.lid
          (fun r => { r with held := true, st := if r.st = .resident then .saving else r.st })))

/-- R28, R370: GETK gives s[d] each k-register by its number: WID, LIDX, PRIO, ROLE (L, A, E as 0, 1, 2), TAGS, FLT,
ADVC, AGE (AGEM1 of the launch header plus 1), SLOT, FLOE, SEQC and CHAN (of each channel the words held and whether it
is bound). R28, R29, R414: PUTK sets k.PRIO up to the program entry's priority and clears k.FLT with 0; any other value
traps with PRIV 0x02 and any other assigned k-register with PRIV 0x01, the register unchanged. R43, R32: WIDF gives the
field of the TP's work identifier that the launch header's widths place at a level: of a header with n levels of widths
W0..., level l lies above the levels after it; a level at or above n gives 0. -/
def Obligations.KRegisterInstructionResults : Prop :=
  (∀ (s : State) (g : Guard) (d : BitVec 5), Ready s g [d] →
      ActsOnTp (.getk g d 0x000) s (scalarThen d (curTp s.d).wid) ∧
      ActsOnTp (.getk g d 0x001) s (scalarThen d (BitVec.ofNat 64 ((curTp s.d).owner.n % 2 ^ 20))) ∧
      ActsOnTp (.getk g d 0x002) s (scalarThen d (BitVec.ofNat 64 (getSlot s.d s.d.curF s.d.curK).prio.toNat)) ∧
      ActsOnTp (.getk g d 0x003) s (scalarThen d (match (getSlot s.d s.d.curF s.d.curK).role with
        | .loader => 0
        | .arithmetic => 1
        | .epilogue => 2)) ∧
      ActsOnTp (.getk g d 0x004) s (scalarThen d (curTp s.d).tags) ∧
      ActsOnTp (.getk g d 0x005) s (scalarThen d (BitVec.ofNat 64 (curTp s.d).flt.toNat)) ∧
      ActsOnTp (.getk g d 0x006) s (scalarThen d (BitVec.ofNat 64 (getFloe s.d s.d.curF).advc)) ∧
      (∀ r, getRegion s.d (curTp s.d).owner.lid = some r →
        ActsOnTp (.getk g d 0x007) s (scalarThen d (BitVec.ofNat 64 ((hdrW r 0).toNat / 2 ^ 16 % 2 ^ 16 + 1)))) ∧
      ActsOnTp (.getk g d 0x008) s (scalarThen d (BitVec.ofNat 64 s.d.curK)) ∧
      ActsOnTp (.getk g d 0x009) s (scalarThen d (BitVec.ofNat 64 s.d.curF)) ∧
      ActsOnTp (.getk g d 0x00A) s (scalarThen d (BitVec.ofNat 64 (seqNow s))) ∧
      (∀ chan : Nat → Nat, (∀ c, chan c = ((curTp s.d).bufs.getD c []).length % 2 ^ 3 + (if (curTp s.d).bound.getD c false then 2 ^ 7 else 0)) →
        ActsOnTp (.getk g d 0x00B) s (scalarThen d
          (BitVec.ofNat 64 (chan 0 + chan 1 * 2 ^ 8 + chan 2 * 2 ^ 16 + chan 3 * 2 ^ 24))))) ∧
  (∀ (s : State) (g : Guard) (a : BitVec 5) (kn : BitVec 10), Ready s g [a] → kn.toNat < 12 →
      (kn = 2 → rn s.d a ≤ (curTp s.d).prioMax.toNat → LeavesData (.putk g a kn) s
        (modCurSlot s.d (fun sl => { sl with prio := BitVec.ofNat 5 (rn s.d a), tp := pastWord sl.tp }))) ∧
      (kn = 2 → (curTp s.d).prioMax.toNat < rn s.d a → Traps (.putk g a kn) s 2 2) ∧
      (kn = 5 → rn s.d a = 0 → ActsOnTp (.putk g a kn) s (fun t => pastWord { t with flt := 0 })) ∧
      (kn = 5 → rn s.d a ≠ 0 → Traps (.putk g a kn) s 2 2) ∧
      (kn ≠ 2 → kn ≠ 5 → Traps (.putk g a kn) s 2 1)) ∧
  (∀ (s : State) (g : Guard) (d : BitVec 5) (l : BitVec 3) (r : Region), Ready s g [d] → l.toNat < 6 →
      getRegion s.d (curTp s.d).owner.lid = some r →
      (hdrNf r.hdr ≤ l.toNat → ActsOnTp (.widf g d l) s (scalarThen d 0)) ∧
      (l.toNat < hdrNf r.hdr → ActsOnTp (.widf g d l) s (scalarThen d (BitVec.ofNat 64
        ((curTp s.d).wid.toNat / 2 ^ ((List.range (hdrNf r.hdr - 1 - l.toNat)).map (fun j => hdrWidth r.hdr (l.toNat + 1 + j))).sum
          % 2 ^ hdrWidth r.hdr l.toNat)))))

/-- R337, R338, R380, R381: BR and JAL send the pc to their address plus four times the signed offset modulo 2^52, JAL
linking the address after it in s[d]; JR sends it to s[a] plus four times the offset where that is aligned and in 0 ...
2^52 - 1, and traps with ILLEGAL 0x05 otherwise. A taken branch ends the loop levels whose bodies do not hold the
target, from the innermost on. R389: LOOP at address A with a body of len words ending at E = A + 4 len pushes a level
of s[c] passes and goes on; with s[c] = 0 it goes on after the body as though the word at E had been handled; with four
levels in use, or with E past the end of the level it stands in, it traps with ILLEGAL 0x05. s[c] is unchanged. R390:
after a word handled without a taken branch, a loop level that ends there with passes left counts one and sends the pc
to its start; one on its last pass is popped and the next level counts at the same word; a level that ends elsewhere, or
no level, lets the pc go on. -/
def Obligations.BranchAndLoopResults : Prop :=
  (∀ (s : State) (g : Guard) (d a : BitVec 5) (off22 : BitVec 22) (off17 : BitVec 17) (off12 : BitVec 12), Ready s g [d, a] →
      ActsOnTp (.br g off22) s (branched (BitVec.ofInt 52 (((curTp s.d).pc.toNat + 4 * off22.toInt) % 2 ^ 52))) ∧
      ActsOnTp (.jal g d off17) s (fun t =>
        branched (BitVec.ofInt 52 (((curTp s.d).pc.toNat + 4 * off17.toInt) % 2 ^ 52))
          (sput t d (BitVec.ofNat 64 ((curTp s.d).pc.toNat + 4)))) ∧
      (∀ x : Int, x = rn s.d a + 4 * off12.toInt →
        (x % 4 = 0 → 0 ≤ x → x < 2 ^ 52 → ActsOnTp (.jr g a off12) s (branched (BitVec.ofInt 52 x))) ∧
        (x % 4 ≠ 0 ∨ x < 0 ∨ 2 ^ 52 ≤ x → Traps (.jr g a off12) s 1 5))) ∧
  (∀ (s : State) (g : Guard) (c : BitVec 5) (len : BitVec 13) (e : Nat), Ready s g [c] →
      e = (curTp s.d).pc.toNat + 4 * len.toNat →
      ((4 ≤ (curTp s.d).loops.length ∨ (∃ l ∈ (curTp s.d).loops.head?, l.last < e)) → Traps (.loop g c len) s 1 5) ∧
      ((curTp s.d).loops.length < 4 → (∀ l ∈ (curTp s.d).loops.head?, e ≤ l.last) →
        (rn s.d c = 0 → ActsOnTp (.loop g c len) s (fun t => handled t e (BitVec.ofNat 52 (e + 4)))) ∧
        (rn s.d c ≠ 0 → ActsOnTp (.loop g c len) s (fun t => { t with
          loops := { start := t.pc + 4, last := e, remaining := rn s.d c } :: t.loops, pc := t.pc + 4 })))) ∧
  ((∀ (t : Tp) (x : Nat) (nx : BitVec 52) (l : LoopLevel) (ls : List LoopLevel), t.loops = l :: ls →
      (l.last = x → 1 < l.remaining →
        handled t x nx = { t with loops := { l with remaining := l.remaining - 1 } :: ls, pc := l.start }) ∧
      (l.last = x → l.remaining ≤ 1 → handled t x nx = handled { t with loops := ls } x nx) ∧
      (l.last ≠ x → handled t x nx = { t with pc := nx })) ∧
    (∀ (t : Tp) (x : Nat) (nx : BitVec 52), t.loops = [] → handled t x nx = { t with pc := nx }))

/-! ## Tiles and the layout cache -/

/-- R58, R60: TSHP writes a shape register, or traps with ILLEGAL 0x05 where a reserved field is set or the policy is 3;
TBIND binds a tile name with an origin of zeros; TORG sets an origin coordinate to the low 32 bits of s[a] and TADV adds
them modulo 2^32. A coordinate of an unbound tile traps with TILE 0x10, which is the model's choice (log entry 14). Where the
register named holds data found uncorrectable, the instruction, or SPAT of a pattern register that does, traps with
ECCU 0x08 (R282; for one that is only written the model's choice, log entry 144). -/
def Obligations.TileNameInstructionResults : Prop :=
  ∀ (s : State) (g : Guard) (n m : BitVec 2) (t : BitVec 4) (e : BitVec 6) (rdim cdim dim : BitVec 3) (a : BitVec 5),
    Ready s g [a] →
    (Sound s [.shape n] → rn s.d a / 2 ^ 26 = 0 → rn s.d a / 2 ^ 24 ≠ 3 →
      ActsOnTp (.tshp g n a) s (fun tp => pastWord { tp with shapes := tp.shapes.set n.toNat (rs s.d a) })) ∧
    (Sound s [.shape n] → rn s.d a / 2 ^ 26 ≠ 0 ∨ rn s.d a / 2 ^ 24 % 4 = 3 → Traps (.tshp g n a) s 1 5) ∧
    (Sound s [.tile t] → ActsOnTp (.tbind g t e m rdim cdim) s (fun tp => pastWord { tp with
      tiles := tp.tiles.set t.toNat (some
        { entry := e, shape := m, rdim := rdim, cdim := cdim, origin := [0, 0, 0, 0, 0, 0, 0] }) })) ∧
    (∀ b, Sound s [.tile t] → (curTp s.d).tiles.getD t.toNat none = some b →
      ActsOnTp (.torg g t dim a) s (fun tp => pastWord { tp with
        tiles := tp.tiles.set t.toNat (some { b with origin := b.origin.set dim.toNat (BitVec.ofNat 32 (rn s.d a)) }) }) ∧
      ActsOnTp (.tadv g t dim a) s (fun tp => pastWord { tp with
        tiles := tp.tiles.set t.toNat (some { b with
          origin := b.origin.set dim.toNat (BitVec.ofNat 32 ((b.origin.getD dim.toNat 0).toNat + rn s.d a)) }) })) ∧
    (Sound s [.tile t] → (curTp s.d).tiles.getD t.toNat none = none →
      Traps (.torg g t dim a) s 4 0x10 ∧ Traps (.tadv g t dim a) s 4 0x10) ∧
    (¬ Sound s [.shape n] → Traps (.tshp g n a) s 0x0C 8) ∧
    (¬ Sound s [.tile t] →
      Traps (.tbind g t e m rdim cdim) s 0x0C 8 ∧ Traps (.torg g t dim a) s 0x0C 8 ∧ Traps (.tadv g t dim a) s 0x0C 8) ∧
    (∀ sp pf, ¬ Sound s [.pat sp] → Traps (.spat g sp pf a) s 0x0C 8)

/-- R64, R392, R391: TQRY writes the window summary of a bound tile, or traps with TILE 0x10 or 0x12; LTW replaces one
doubleword of a valid cache entry where the whole entry then passes the checks of R54, and otherwise traps with the
cause found and changes nothing; LTLD past the table traps with TILE 0x16, else it waits for its read, and when the
sixteen doublewords have been read and pass the checks the entry holds them and the TP goes on. R78, R431: SPAT writes
one field of a pattern register, unless the field is one the register refuses: then it traps with ILLEGAL 0x05 and the
register is unchanged. -/
def Obligations.LayoutCacheAndPatternResults : Prop :=
  ((∀ (s : State) (g : Guard) (d a : BitVec 5) (t : BitVec 4) (e : BitVec 6) (fl : BitVec 4), Ready s g [d, a] →
      (∀ v, Sound s (viewRegs (curTp s.d) t) → curView s.d t = some v → bad12 v = false →
        ActsOnTp (.tqry g d t) s (scalarThen d (BitVec.ofNat 64 (winSummary v)))) ∧
      (∀ v, Sound s (viewRegs (curTp s.d) t) → curView s.d t = some v → bad12 v = true → Traps (.tqry g d t) s 4 0x12) ∧
      (Sound s (viewRegs (curTp s.d) t) → curView s.d t = none → Traps (.tqry g d t) s 4 0x10) ∧
      (¬ Sound s (viewRegs (curTp s.d) t) → Traps (.tqry g d t) s 0x0C 8) ∧
      (∀ l, (getFloe s.d s.d.curF).lcache.getD e.toNat none = some l →
        (lteCheck (l.set fl.toNat (rs s.d a)) = 0 → LeavesData (.ltw g e fl a) s
          (modCur (modFloe s.d s.d.curF (fun x => { x with lcache := x.lcache.set e.toNat (some (l.set fl.toNat (rs s.d a))) }))
            pastWord)) ∧
        (lteCheck (l.set fl.toNat (rs s.d a)) ≠ 0 → Traps (.ltw g e fl a) s 4 (lteCheck (l.set fl.toNat (rs s.d a))))) ∧
      ((getFloe s.d s.d.curF).lcache.getD e.toNat none = none → Traps (.ltw g e fl a) s 4 0x10)) ∧
    (∀ (s : State) (g : Guard) (e : BitVec 6) (j : BitVec 8) (r : Region), Ready s g [] →
      heldBy (getFloe s.d s.d.curF) (curTp s.d) true false false = false →
      getRegion s.d (curTp s.d).owner.lid = some r →
      (regLtn r < j.toNat → Traps (.ltld g e j) s 4 0x16) ∧
      (j.toNat ≤ regLtn r → LeavesData (.ltld g e j) s (modCurSlot s.d (fun sl => { sl with block := .issue (.ltld g e j) })))) ∧
    (∀ (s : State) (f k : Nat) (g : Guard) (e : BitVec 6) (j : BitVec 8) (r : Region) (d' : Data) (l : List Word),
      (getSlot s.d f k).block = .issue (.ltld g e j) → (getSlot s.d f k).st = .live → earlierPending (getTp s.d f k) = false →
      (getFloe s.d f).halted = false → getRegion s.d (getTp s.d f k).owner.lid = some r →
      readWordsAt { s.d with curF := f, curK := k, curW := (getSlot s.d f k).word } (reqFloe f) vaPlace
        (regLtab r + 128 * j.toNat) 16 = (d', .ok l) →
      d'.curF = f → d'.curK = k → lteCheck l = 0 →
      LeavesData (.issueCompletion f k) s
        (modSlot (modFloe d' f (fun x => { x with lcache := x.lcache.set e.toNat (some l) })) f k
          (fun sl => { sl with block := .none, tp := pastWord sl.tp })))) ∧
  (∀ (s : State) (g : Guard) (sp : BitVec 3) (pf a : BitVec 5), Ready s g [a] →
      (Sound s [.pat sp] → patFieldBad pf.toNat (rs s.d a) = false → ActsOnTp (.spat g sp pf a) s (fun t => pastWord { t with
        pats := t.pats.set sp.toNat ((t.pats.getD sp.toNat []).set pf.toNat (rs s.d a)) })) ∧
      (Sound s [.pat sp] → patFieldBad pf.toNat (rs s.d a) = true → Traps (.spat g sp pf a) s 1 5) ∧
      (∀ v : Word, patFieldBad 0 v = true ↔ v.toNat / 2 ^ 8 ≠ 0 ∨ v.toNat % 8 = 7) ∧
      (∀ v : Word, (∀ n, 1 ≤ n → n ≤ 7 → (patFieldBad n v = true ↔ v.toNat / 2 ^ 24 % 2 ^ 8 ≠ 0)) ∧ patFieldBad 8 v = false))

/-! ## Streams, tags and barriers -/

/-- R66, R79, R84, R87, R91, R181, R201, R406: a stream command whose issue checks pass takes the first free entry of the
floe's stream table in state QUEUED, with copies of its operands (tile views, pattern register, ports, branch mask), clears its
tag bit and counts as incomplete: SRD, SWR, SGTH, SSCT in its four modes, SREC, SCON in its two, SMCS and SMOV. SREC and SCON
make no memory access, so no FENCE or ATOM holds them; a command counts as a write where the tile it writes lies outside FLOE.
SRD, SWR and SMCS trap with ECCU 0x08 where a register they use holds data found uncorrectable (R282). -/
def Obligations.StreamCommandsTakeAnEntry : Prop :=
  ∀ (s : State) (g : Guard) (t u port op : BitVec 4) (tag : BitVec 6) (sp : BitVec 3) (b : BitVec 4) (e : Nat) (w : Want),
    Ready s g [] → StreamMayIssue s e w →
    (Sound s (.pat sp :: viewRegs (curTp s.d) t) →
      (w = { want0 .srd with tag := tag, ip := some port, tiles := [curView s.d t], pat := curPat s.d sp } →
        TakesEntry (.srd g t port tag sp) s e w) ∧
      (w = { want0 .swr with tag := tag, op := some port, tiles := [curView s.d t], pat := curPat s.d sp, writes := true } →
        TakesEntry (.swr g t port tag sp) s e w) ∧
      (w = { want0 .smcs with
          tag := tag, ip := some port, tiles := [curView s.d t], pat := curPat s.d sp, branches := b } →
        TakesEntry (.smcs g t port tag sp b) s e w)) ∧
    (Sound s (gatherRegs s.d t sp) →
      (w = { want0 .sgth with
          tag := tag, ip := some port, tiles := [curView s.d t, curView s.d (patItn (curPat s.d sp))], pat := curPat s.d sp } →
        TakesEntry (.sgth g t port tag sp) s e w) ∧
      (∀ mode : BitVec 2, w = { want0 (.ssct mode) with
          tag := tag, op := some port, tiles := [curView s.d t, curView s.d (patItn (curPat s.d sp))], pat := curPat s.d sp,
          writes := true } →
        (mode = 0 → TakesEntry (.ssctSt g t port tag sp) s e w) ∧ (mode = 1 → TakesEntry (.ssctAdd g t port tag sp) s e w) ∧
        (mode = 2 → TakesEntry (.ssctMax g t port tag sp) s e w) ∧ (mode = 3 → TakesEntry (.ssctMin g t port tag sp) s e w))) ∧
    (Sound s [.pat sp] →
      (w = { want0 .srec with ip := some port, op := some op, pat := curPat s.d sp, reads := false } →
        TakesEntry (.srec g op port sp) s e w) ∧
      (w = { want0 .sconC with ip := some port, pat := curPat s.d sp, reads := false } → TakesEntry (.sconC g port sp) s e w) ∧
      (w = { want0 .sconI with ip := some port, pat := curPat s.d sp, reads := false } → TakesEntry (.sconI g port sp) s e w)) ∧
    (Sound s (viewRegs (curTp s.d) t ++ viewRegs (curTp s.d) u) →
      w = { want0 .smov with tag := tag, tiles := [curView s.d t, curView s.d u], writes := true } →
      TakesEntry (.smov g t u tag) s e w) ∧
    (¬ Sound s (.pat sp :: viewRegs (curTp s.d) t) → Traps (.srd g t port tag sp) s 0x0C 8 ∧
      Traps (.swr g t port tag sp) s 0x0C 8 ∧ Traps (.smcs g t port tag sp b) s 0x0C 8)

/-- R87, R95: SBAR in its three forms takes the first free entry in state BARRIER, naming its tile, its space or every
command, and the sequencer goes on at once. An unbound tile traps with TILE 0x10; that a tile's other checks (SPACE,
TILE 0x11, 0x12, 0x14, 0x15) trap as well, in the order of R406, and TILE 0x13 does not, is the model's choice (log
entry 137). R94, R428, R407: SKIL marks, as ended from the next advance cycle on, every incomplete command of its own TP
that names the tag (tag 0 names none), the ip port, or the op port it is queued on or still holds, and no other; it
always issues. What such a command has written of a record it will not end is taken back: its words of the cycle in
progress do not take effect, and the granules that a record in progress has met are set back to what they held and take
every other write since again, in order, so that they hold what they would without the record (R67, the model's choice
of log entry 141). -/
def Obligations.BarriersAndStreamKills : Prop :=
  (∀ (s : State) (g : Guard) (t space : BitVec 4) (e : Nat), Ready s g [] →
      streamFree (getFloe s.d s.d.curF) = some e →
      (∃ c : Cmd, c.kind = .sbar 2 ∧ c.st = .barrier ∧ c.no = (getFloe s.d s.d.curF).issueNo ∧
        LeavesData (.sbarAll g) s (modCur (modFloe s.d s.d.curF (fun fl =>
          { fl with streams := fl.streams.set e (some c), issueNo := fl.issueNo + 1 })) pastWord)) ∧
      (∃ c : Cmd, c.kind = .sbar 1 ∧ c.st = .barrier ∧ c.space = space ∧ c.no = (getFloe s.d s.d.curF).issueNo ∧
        LeavesData (.sbarSp g space) s (modCur (modFloe s.d s.d.curF (fun fl =>
          { fl with streams := fl.streams.set e (some c), issueNo := fl.issueNo + 1 })) pastWord)) ∧
      (∀ v, Sound s (viewRegs (curTp s.d) t) → curView s.d t = some v → spaceCheck s.d v = none → bad11 v = false → bad12 v = false → badExtent v = 0 →
        ∃ c : Cmd, c.kind = .sbar 0 ∧ c.st = .barrier ∧ c.tile = some v ∧ c.no = (getFloe s.d s.d.curF).issueNo ∧
        LeavesData (.sbar g t) s (modCur (modFloe s.d s.d.curF (fun fl =>
          { fl with streams := fl.streams.set e (some c), issueNo := fl.issueNo + 1 })) pastWord)) ∧
      (Sound s (viewRegs (curTp s.d) t) → curView s.d t = none → Traps (.sbar g t) s 4 0x10) ∧
      (∀ v, Sound s (viewRegs (curTp s.d) t) → curView s.d t = some v →
        (∀ cls cause, spaceCheck s.d v = some (cls, cause) → Traps (.sbar g t) s cls cause) ∧
        (spaceCheck s.d v = none →
          (bad11 v = true → Traps (.sbar g t) s 4 0x11) ∧
          (bad11 v = false → bad12 v = true → Traps (.sbar g t) s 4 0x12) ∧
          (bad11 v = false → bad12 v = false → badExtent v ≠ 0 → Traps (.sbar g t) s 4 (badExtent v))))) ∧
  ((∀ (s : State) (g : Guard) (tag : BitVec 6) (port : BitVec 4) (m k : Cmd → Bool) (i : Instr), Ready s g [] →
      ((i = .skilTag g tag ∧ m = fun c => tag != 0 && c.tag == tag) ∨
        (i = .skilIp g port ∧ m = fun c => c.ip == some port) ∨
        (i = .skilOp g port ∧ m = fun c => c.op == some port && opHeld c)) →
      k = (fun c => c.owner == (curTp s.d).owner && c.killed.isNone && ! cmdComplete c && m c) →
      LeavesData i s (modCur
        (modFloe (((getFloe s.d s.d.curF).streams.filterMap (fun x => x.filter k)).foldl (fun d c => undoCmd d s.d.curF c) s.d)
          s.d.curF (fun fl => { fl with
            streams := fl.streams.map (fun x => x.map (fun c =>
              if k c then { c with killed := some (fl.cyc + 1) } else c)) })) pastWord)) ∧
    (∀ (d d1 : Data) (f : Nat) (c : Cmd) (log : List FloeWrite),
      d1 = modFloe d f (fun fl => { fl with writes := fl.writes.filter (fun w => ! (w.part && w.key == c.no)) }) →
      log = (getFloe d1 f).partLog.filter (fun w => ! (w.part && w.key == c.no)) →
      (log = (getFloe d1 f).partLog → undoCmd d f c = d1) ∧
      (log ≠ (getFloe d1 f).partLog → undoCmd d f c = modFloe
        (log.foldl (fun d w => if w.src = 4 then granuleSet d w.key true else wordWrite d w.elems w.psn w.mode w.fmt)
          ((getFloe d1 f).partBase.foldl (fun d e =>
            granuleSet (memWriteBytes d (16 * e.1) (numBytes 16 e.2.1) false) e.1 e.2.2) d1))
        f (fun fl => if log.any (fun w => w.part) then { fl with partLog := log } else { fl with partBase := [], partLog := [] }))))

/-- R93: with m = s[a] less its bit 0, TWAIT.all goes on when every bit of m is set and TWAIT.any when one is or m is 0;
else the TP waits, unless the wait can never end: then it traps with HANG 0x01. TWAIT_WAKE ends the wait on the same
condition. TFFR gives the lowest set bit of k.TAGS and m, or 0; TCLR clears the bits of m. -/
def Obligations.TagInstructionResults : Prop :=
  (∀ (s : State) (g : Guard) (d a : BitVec 5) (m : Word), Ready s g [d, a] →
    m = BitVec.ofNat 64 (rn s.d a - rn s.d a % 2) →
    (twaitHangs (curTp s.d) true m = false → (curTp s.d).tags &&& m = m → ActsOnTp (.twaitAll g a) s pastWord) ∧
    (twaitHangs (curTp s.d) true m = false → (curTp s.d).tags &&& m ≠ m →
      LeavesData (.twaitAll g a) s (modCurSlot s.d (fun sl => { sl with block := .twait true m }))) ∧
    (twaitHangs (curTp s.d) false m = false → m = 0 ∨ (curTp s.d).tags &&& m ≠ 0 → ActsOnTp (.twaitAny g a) s pastWord) ∧
    (twaitHangs (curTp s.d) false m = false → m ≠ 0 → (curTp s.d).tags &&& m = 0 →
      LeavesData (.twaitAny g a) s (modCurSlot s.d (fun sl => { sl with block := .twait false m }))) ∧
    (twaitHangs (curTp s.d) true m = true → Traps (.twaitAll g a) s 0x0D 1) ∧
    (twaitHangs (curTp s.d) false m = true → Traps (.twaitAny g a) s 0x0D 1) ∧
    (∃ n, ActsOnTp (.tffr g d a) s (scalarThen d (BitVec.ofNat 64 n)) ∧
      ((curTp s.d).tags &&& m = 0 → n = 0) ∧
      ((curTp s.d).tags &&& m ≠ 0 → n < 64 ∧ ((curTp s.d).tags &&& m).getLsbD n = true ∧
        ∀ j < n, ((curTp s.d).tags &&& m).getLsbD j = false)) ∧
    ActsOnTp (.tclr g a) s (fun t => pastWord { t with tags := t.tags &&& ~~~m })) ∧
  (∀ (s : State) (f k : Nat) (all : Bool) (m : Word), (getSlot s.d f k).block = .twait all m →
    ((if all then (getTp s.d f k).tags &&& m = m else m = 0 ∨ (getTp s.d f k).tags &&& m ≠ 0) →
      LeavesData (.twaitWake f k) s (modSlot s.d f k (fun sl => { sl with block := .none, tp := pastWord sl.tp }))) ∧
    (¬ (if all then (getTp s.d f k).tags &&& m = m else m = 0 ∨ (getTp s.d f k).tags &&& m ≠ 0) →
      exec (.twaitWake f k) s = .next s))

/-- R88, R87, R91, R92, R94, R95, R208, R428: STREAM_START makes a QUEUED command that may start ACTIVE from advance
cycle cyc on, the one in progress or, where the floe is frozen, the next; STREAM_COMPLETE frees the entry of a command
whose elements have all performed and none of whose writes waits for the end of the cycle, sets its tag bit, and its
counted write has performed; it leaves a command that a SKIL has ended alone: the start of the advance cycle the SKIL
named frees that one's entry and sets its tag bit, its counted write lost; BARRIER_RELEASE frees a barrier's entry once
no earlier command it covers is left. R67, R80, R82-R86, R88, R90, R108, R115, R425, R434: STREAM_ELEMENT of a stream
table entry moves nothing of a command that is not ACTIVE or that a SKIL has ended, nor on a halted or frozen floe what
the freeze stops. Of one outside the floe: SRD reads its next word at its pattern's points and it enters the ip port;
SWR takes a word of the op port and SMOV reads one, and its elements from the restart point on are written, a fault
stopping the command at the element it hit; SGTH reads a record whole, an index out of range giving one INDEX token;
SSCT performs a record whole, none of one with an error token; SMCS passes its word to each branch with room. Of one in
FLOE, with S its start: SCON emits word k in S + 1 + k, SREC accepts a word 2 cycles after taking it, SRD and SMCS read
word k from S + 5 + k and deliver it a cycle later, SMOV writes 5 cycles after reading, SWR and SSCT 4 after taking,
SGTH reads index k from S + 5 + wk and data word w from S + 11 + w (for SSCT's index the model's choice, log entry 138;
for an error token in SREC, log entry 140). That an INDEX token names the pair of its port in ORG, with END 0 at the
error sink, and that a record of SSCT ends at END 1 or more or at the row's last word are the model's choices (log
entries 30 and 32). A write outside FLOE leaves every byte outside its elements. -/
def Obligations.StreamEntriesStartAndEnd : Prop :=
  (∀ (s : State) (f e : Nat) (c : Cmd), (getFloe s.d f).streams.getD e none = some c →
      (startsNow s.d f c = true → (getFloe s.d f).halted = false →
        LeavesData (.streamStart f e) s (modFloe s.d f (fun fl => { fl with
          streams := fl.streams.set e (some { c with st := .active, start := (getFloe s.d f).cyc }) }))) ∧
      (cmdComplete c = true → c.killed = none → (∀ w ∈ (getFloe s.d f).writes, w.src = 1 → w.key ≠ c.no) →
        LeavesData (.streamComplete f e) s
          (modTp (modFloe s.d f (fun fl => { fl with streams := fl.streams.set e none })) f c.slot (fun t =>
            if t.owner = c.owner then { t with
              tags := if c.tag = 0 then t.tags else t.tags ||| BitVec.ofNat 64 (2 ^ c.tag.toNat),
              busy := t.busy.erase c.tag, undone := t.undone.filter (fun n => n != c.wno) }
            else t))) ∧
      (c.killed ≠ none → exec (.streamComplete f e) s = .next s) ∧
      (∀ n, c.killed = some n → (getFloe s.d f).cyc < n → killedStep s.d f e = s.d) ∧
      (∀ n d, c.killed = some n → n ≤ (getFloe s.d f).cyc →
        d = modTp (modFloe s.d f (fun fl => { fl with streams := fl.streams.set e none })) f c.slot (fun t =>
          if t.owner = c.owner then { t with
            tags := if c.tag = 0 then t.tags else t.tags ||| BitVec.ofNat 64 (2 ^ c.tag.toNat), busy := t.busy.erase c.tag }
          else t) →
        killedStep s.d f e =
          (if c.wno = 0 ∨ (getTp d f c.slot).owner ≠ c.owner then d else loseWrite d f c.slot c.wno 1)) ∧
      (c.st = .barrier →
        (∀ x ∈ (getFloe s.d f).streams.filterMap id, x.st ≠ .barrier → x.no < c.no → covers s.d f c x = false) →
        LeavesData (.barrierRelease f e) s (modFloe s.d f (fun fl => { fl with streams := fl.streams.set e none })))) ∧
  (∀ (s : State) (f e now total nxt : Nat) (c : Cmd) (i : Instr), getCmd s.d f e = some c → i = .streamElement (.floe f e) →
      now = (getFloe s.d f).cyc → total = cmdTotal c →
      nxt = (if c.words + 1 = total then prodNat (cmdCounts c) else wordPos c (c.words + 1)) →
      (c.st ≠ .active ∨ c.killed ≠ none ∨ (getFloe s.d f).halted = true ∨ ((getFloe s.d f).frozen = true ∧
          (c.floeLocal = true ∨ c.start = now ∨ (cmdFloe c = true ∧ (c.ip = none ∨ c.inflight = [])))) →
        exec i s = .next s) ∧
      (c.st = .active → c.killed = none → (getFloe s.d f).halted = false →
        (c.floeLocal = false → farFrozen (getFloe s.d f) c = false →
          (c.kind = .srd → c.words < total → ipRoom s.d f c = true →
            (∀ d w, readWord s.d f (cmdTile c) (wordCoords c (cmdTile c) c.words)
                (wordPlace (cmdCounts c) (viewElems (cmdTile c)) c.words).recNo
                (wordPlace (cmdCounts c) (viewElems (cmdTile c)) c.words).level c.gen = (d, .ok w) →
              LeavesData i s (setCmd (qPush d f (.ip (cmdIp c)) w ((getFloe d f).cyc + 1)) f e
                (some { c with words := c.words + 1, pos := nxt, inflight := [] }))) ∧
            (∀ d fc, readWord s.d f (cmdTile c) (wordCoords c (cmdTile c) c.words)
                (wordPlace (cmdCounts c) (viewElems (cmdTile c)) c.words).recNo
                (wordPlace (cmdCounts c) (viewElems (cmdTile c)) c.words).level c.gen = (d, .error fc) →
              LeavesData i s (streamStop d f e c false fc))) ∧
          (c.kind = .swr → c.inflight = [] → c.words < total → ∀ w, opHead s.d f c = some w →
            (isErr w = false → isBare w = true → LeavesData i s (qPop s.d f (.op (cmdOp c)))) ∧
            (isErr w = true → sinkRoom s.d f 1 = true → (getFloe s.d f).frozen = false → LeavesData i s
              (markActive (setCmd (sinkPush (qPop s.d f (.op (cmdOp c))) f w) f e
                (some { c with words := c.words + 1, pos := nxt })) f))) ∧
          (∀ (d d1 : Data) (w : FWord) (elems : List (List Piece × Nat)) (done : Nat), done = c.pos - wordPos c c.words →
            ((c.kind = .swr ∧ c.inflight = [] ∧ c.words < total ∧ opHead s.d f c = some w ∧ isErr w = false ∧ isBare w = false ∧
                d = qPop s.d f (.op (cmdOp c))) ∨
              (c.kind = .smov ∧ c.inflight = [] ∧ c.words < total ∧
                readWord s.d f (cmdTile2 c) (wordCoords c (cmdTile2 c) c.words) 0 0 false = (d, .ok w)) ∨
              ((c.kind = .swr ∨ c.kind = .smov) ∧ d = s.d ∧ ∃ x ∈ c.inflight.head?, w = x.word)) →
            (reachWrites d (reqFloe f) (cmdTile c) w .write done ((wordCoords c (cmdTile c) c.words).drop done)
                = (d1, elems, none) →
              LeavesData i s (markActive (setCmd (viewWrite d1 f (cmdTile c) c.no elems w.psn 0 false) f e
                (some { c with inflight := [], words := c.words + 1, pos := nxt })) f) ∧
              (d1.mem.wf = true → Leaves i s (fun t => ∀ a, (vLocal (cmdTile c) = true ∨ ∀ x ∈ elems, Outside x.1 a) →
                memByte t.d a = memByte d1 a))) ∧
            (∀ fc n d2, reachWrites d (reqFloe f) (cmdTile c) w .write done ((wordCoords c (cmdTile c) c.words).drop done)
                = (d1, elems, some (fc, n)) →
              d2 = viewWrite d1 f (cmdTile c) c.no elems w.psn 0 false →
              LeavesData i s (streamStop (if elems = [] then d2 else markActive d2 f) f e
                { c with
                  pos := wordPos c c.words + n,
                  inflight := if c.op = none then []
                    else [{ due := 0, place := c.words, sub := 0, last := false, word := w }] } true fc))) ∧
          (c.kind = .sgth → ipRoom s.d f c = true →
            (∀ x rest, c.inflight = x :: rest → LeavesData i s (setCmd (qPush s.d f (.ip (cmdIp c)) x.word (now + 1)) f e
              (some { c with
                words := c.words + 1, pos := if x.last then x.place + 1 else x.place, inflight := rest,
                sub := if x.last then 0 else c.sub + 1, idxs := if x.last then [] else c.idxs }))) ∧
            (c.inflight = [] → c.pos < total → c.idxs = [] → ∀ d idx, readIndex s.d f c c.pos = (d, .ok idx) →
              (∀ d' x rest, rowReadAll d f c c.pos idx c.sub (rowCount (cmdTile c) idx.1 - c.sub) = (d', .ok (x :: rest)) →
                LeavesData i s (setCmd (qPush d' f (.ip (cmdIp c)) x.word ((getFloe d' f).cyc + 1)) f e
                  (some { c with
                    words := c.words + 1, pos := if x.last then x.place + 1 else x.place, inflight := rest,
                    sub := if x.last then 0 else c.sub + 1, idxs := if x.last then [] else [idx] }))) ∧
              (rowOk (cmdTile c) idx.1 = false → c.sub = 0 → LeavesData i s (setCmd (qPush d f (.ip (cmdIp c))
                  (errTok 1 0 0 (cmdIp c / 2 % 8 * 16) c.pos idx.1.toNat c.pos (if c.pos + 1 = total then 2 else 1) c.gen)
                  ((getFloe d f).cyc + 1)) f e
                (some { c with words := c.words + 1, pos := c.pos + 1, sub := 0, idxs := [] }))))) ∧
          (∀ m, c.kind = .ssct m →
            ((∀ x ∈ c.inflight.getLast?, x.last = false) → (c.inflight = [] → c.pos < total) →
              ∀ w, opHead s.d f c = some w → isErr w = false → isBare w = false →
              LeavesData i s (setCmd (qPop s.d f (.op (cmdOp c))) f e (some (
                if 1 ≤ w.fin.toNat ∨ rowWords (cmdTile c) ≤ c.sub + 1 then
                  { c with
                    inflight := c.inflight ++ [{ due := 0, place := c.idxNext, sub := c.sub, last := true, word := w }],
                    idxNext := c.idxNext + 1, sub := 0 }
                else { c with
                  inflight := c.inflight ++ [{ due := 0, place := c.idxNext, sub := c.sub, last := false, word := w }],
                  sub := c.sub + 1 })))) ∧
            (∀ before x d idx, c.inflight = before ++ [x] → x.last = true → readIndex s.d f c c.pos = (d, .ok idx) →
              ((∃ y ∈ c.inflight, isErr y.word = true) → LeavesData i s (markActive (setCmd d f e (some { c with
                pos := c.pos + 1, words := c.words + c.inflight.length, inflight := [], sub := 0 })) f)) ∧
              ((∀ y ∈ c.inflight, isErr y.word = false) → rowOk (cmdTile c) idx.1 = false → sinkRoom d f 1 = true →
                (∀ y ∈ before, y.last = false) → LeavesData i s (markActive (setCmd
                  (sinkPush d f (errTok 1 0 0 (cmdOp c / 2 % 8 * 16) x.place idx.1.toNat x.place 0 (getFloe d f).cfg.gen)) f e
                  (some { c with pos := c.pos + 1, words := c.words + c.inflight.length, inflight := [], sub := 0 })) f)) ∧
              ((∀ y ∈ c.inflight, isErr y.word = false) → rowOk (cmdTile c) idx.1 = true →
                (∀ d1, scatterReach d f c idx.1 c.inflight = (d1, none) → LeavesData i s (markActive (setCmd
                  (c.inflight.foldl (fun d y => (scatterWord false d f c idx y).1) d1) f e
                  (some { c with pos := c.pos + 1, words := c.words + c.inflight.length, inflight := [], sub := 0 })) f)) ∧
                (∀ d1 fc, scatterReach d f c idx.1 c.inflight = (d1, some fc) →
                  LeavesData i s (streamStop d1 f e c true fc))))) ∧
          (c.kind = .smcs → ∀ x rest d1 c1, c.inflight = x :: rest → (d1, c1) = (List.range 4).foldl (mcPass f x.word) (s.d, c) →
            ((∀ b < 4, c.branches.getLsbD b = true → c.words < c1.points.getD b 0) → LeavesData i s
              (markActive (setCmd d1 f e (some { c1 with
                words := c.words + 1, pos := wordPos c (c.words + 1), inflight := rest })) f)) ∧
            ((∃ b < 4, c.branches.getLsbD b = true ∧ c1.points.getD b 0 ≤ c.words) → c1 ≠ c →
              LeavesData i s (setCmd d1 f e (some c1))))) ∧
        (c.floeLocal = true → (getFloe s.d f).frozen = false →
          (c.kind = .sconC ∨ c.kind = .sconI → c.words < total → c.start + 1 + c.words ≤ now → ipRoom s.d f c = true →
            LeavesData i s (setCmd (qPush s.d f (.ip (cmdIp c)) (sconWord c c.words) (now + 1)) f e
              (some { c with words := c.words + 1, pos := c.words + 1 }))) ∧
          ((∀ x ∈ c.inflight.head?, now < x.due) →
            (∀ (v : View) (due k : Nat) (d : Data) (w : FWord),
              (((c.kind = .srd ∨ c.kind = .smcs) ∧ v = cmdTile c ∧ due = now + 1) ∨
                (c.kind = .smov ∧ v = cmdTile2 c ∧ due = now + 5)) →
              k = c.words + c.inflight.length → k < total → c.start + 5 + k ≤ now →
              readWord s.d f v (wordCoords c v k) (wordPlace (cmdCounts c) (viewElems (cmdTile c)) k).recNo
                (wordPlace (cmdCounts c) (viewElems (cmdTile c)) k).level c.gen = (d, .ok w) →
              LeavesData i s (setCmd d f e (some { c with
                inflight := c.inflight ++ [{ due := due, place := k, sub := 0, last := false, word := w }] }))) ∧
            (∀ w, opHead s.d f c = some w → isErr w = false →
              (c.kind = .swr → (∀ x ∈ c.inflight, x.due < now + 4) →
                c.words + (c.inflight.filter (fun x => ! isBare x.word)).length < total →
                LeavesData i s (setCmd (qPop s.d f (.op (cmdOp c))) f e (some { c with
                  inflight := c.inflight ++ [{ due := now + 4, place := 0, sub := 0, last := false, word := w }] }))) ∧
              (c.kind = .srec → (∀ x ∈ c.inflight, x.due < now + 2) → c.words + c.inflight.length < total →
                LeavesData i s (setCmd (qPop s.d f (.op (cmdOp c))) f e (some { c with
                  inflight := c.inflight ++ [{ due := now + 2, place := 0, sub := 0, last := false, word := w }] }))) ∧
              (∀ m, c.kind = .ssct m → isBare w = false → (∀ x ∈ c.inflight, x.due < now + 4) → c.idxNext < total →
                LeavesData i s (setCmd (qPop s.d f (.op (cmdOp c))) f e (some (
                  if 1 ≤ w.fin.toNat ∨ rowWords (cmdTile c) ≤ c.sub + 1 then
                    { c with
                      inflight := c.inflight ++ [{ due := now + 4, place := c.idxNext, sub := c.sub, last := true, word := w }],
                      idxNext := c.idxNext + 1, sub := 0 }
                  else { c with
                    inflight := c.inflight ++ [{ due := now + 4, place := c.idxNext, sub := c.sub, last := false, word := w }],
                    sub := c.sub + 1 }))))) ∧
            (c.kind = .sgth → (c.idxNext < total → now < c.start + 5 + c.idxWord) → ∀ idx rest d w l, c.idxs = idx :: rest →
              c.start + 11 + (c.words + c.inflight.length) ≤ now → l = decide (c.sub + 1 = rowCount (cmdTile c) idx.1) →
              rowRead s.d f c (c.idxNext - c.idxs.length) idx c.sub = (d, .ok w) →
              LeavesData i s (setCmd d f e (some { c with
                inflight := c.inflight ++ [{ due := now + 1, place := c.idxNext - c.idxs.length, sub := c.sub, last := l,
                                             word := w }],
                idxs := if l then rest else c.idxs, sub := if l then 0 else c.sub + 1 })))) ∧
          (c.kind = .sgth → c.idxNext < total → c.start + 5 + c.idxWord ≤ now → ∀ d idx,
            readIndex s.d f c c.idxNext = (d, .ok idx) → LeavesData i s (setCmd d f e (some { c with
              idxs := c.idxs ++ [idx], idxNext := c.idxNext + 1, idxWord := c.idxWord + rowCount (cmdTile c) idx.1 }))) ∧
          (∀ x rest, c.inflight = x :: rest → x.due ≤ now →
            (ipRoom s.d f c = true →
              (c.kind = .srd → LeavesData i s (setCmd (qPush s.d f (.ip (cmdIp c)) x.word (now + 1)) f e
                (some { c with words := c.words + 1, pos := nxt, inflight := rest }))) ∧
              (c.kind = .srec → isErr x.word = false → LeavesData i s (setCmd (qPush s.d f (.ip (cmdIp c)) x.word (now + 1)) f e
                (some { c with words := c.words + 1, pos := c.words + 1, inflight := rest }))) ∧
              (c.kind = .sgth → (c.idxNext < total → now < c.start + 5 + c.idxWord) →
                LeavesData i s (setCmd (qPush s.d f (.ip (cmdIp c)) x.word (now + 1)) f e
                  (some { c with
                    words := c.words + 1, pos := if x.last then x.place + 1 else x.place, inflight := rest })))) ∧
            (∀ d1 elems, c.kind = .smov ∨ (c.kind = .swr ∧ isErr x.word = false ∧ isBare x.word = false) →
              reachWrites s.d (reqFloe f) (cmdTile c) x.word .write 0 (wordCoords c (cmdTile c) c.words) = (d1, elems, none) →
              LeavesData i s (markActive (setCmd (viewWrite d1 f (cmdTile c) c.no elems x.word.psn 0 false) f e
                (some { c with words := c.words + 1, pos := nxt, inflight := rest })) f)) ∧
            (∀ m d idx, c.kind = .ssct m →
              ((x.sub ≠ 0 ∧ d = s.d ∧ c.idxs.head? = some idx) ∨ (x.sub = 0 ∧ readIndex s.d f c x.place = (d, .ok idx))) →
              ∀ d1, d1 = (if isErr x.word = true then undoCmd d f c else (scatterWord (! x.last) d f c idx x).1) →
              (x.last = true → isErr x.word = false → rowOk (cmdTile c) idx.1 = false → sinkRoom d f 1 = true) →
              LeavesData i s (markActive (setCmd (if x.last then recordDone d1 f c else d1) f e (some { c with
                  inflight := rest, words := c.words + 1, idxs := [idx], pos := if x.last then x.place + 1 else x.place })) f)) ∧
            (c.kind = .smcs → ∀ d1 c1, (d1, c1) = (List.range 4).foldl (mcPass f x.word) (s.d, c) →
              ((∀ b < 4, c.branches.getLsbD b = true → c.words < c1.points.getD b 0) → LeavesData i s
                (markActive (setCmd d1 f e (some { c1 with
                  words := c.words + 1, pos := wordPos c (c.words + 1), inflight := rest })) f)))))))

/-! ## The field's configuration -/

/-- R131, R132, R91, R26: CFGL with a free tag and no FENCE or ATOM that holds its reads, on a floe with every record of
its own written, where its address is one of L2, HBM, LPD or HOST, aligned to 64 bytes, and the pending configuration is
not busy, discards the pending configuration and goes to LOADING under its tag, clear and incomplete from then on, after
the TP's accesses then pending; a busy one traps with CFGCHK 0x01, another space with SPACE 0x01, an L2 address not of
R172's form with SPACE 0x02, another bad address with CFGCHK 0x03, CFGCHK noting its cause for CFGQ and changing nothing
else (here and for CFGW and CFGG the model's choice: log 46). It waits at issue while a record of the floe is unwritten,
and while an incomplete command of the TP names its tag. R131, R132, R26: CFGW, on a floe with every record of its own
written, the pending configuration IDLE or READY and the name and the mask well formed, leaves it READY and unchecked
with the field (field and not s[b]) or (s[a] and s[b]) of the current or the pending configuration and the image ID one
above the current one. A busy one traps with CFGCHK 0x01, a malformed name or mask with 0x03, and a FAILED one with
0x07. With a record unwritten it waits. R131, R132, R133, R26: CFGG, on a floe with every record of its own written, of
a checked READY configuration begins the commit: DRAINING under its tag, the issue generation the inverse of the active
one, after the commands issued so far; an unchecked one that passes the check does the same and completes at
ISSUE_COMPLETION; one that fails it becomes FAILED, no entry as the failing one, and the TP traps with its cause. A busy
one traps with CFGCHK 0x01, and an IDLE or FAILED one with 0x07. With a record unwritten, or its tag named by an
incomplete command, it waits. R132: CFGQ reads the state, generations, last cause and failing entry, the error count,
the two image IDs, and L and II of each block of the current and the checked pending configuration. -/
def Obligations.ConfigurationInstructionResults : Prop :=
  ((∀ (s : State) (g : Guard) (a : BitVec 5) (tag : BitVec 6), Ready s g [a] → tag ≠ 0 → (curTp s.d).busy.contains tag = true →
      LeavesData (.cfgl g a tag) s (blockCur s.d (.stall (.tag tag)))) ∧
    ∀ (s : State) (g : Guard) (a : BitVec 5) (tag : BitVec 6), Ready s g [a] → tag ≠ 0 →
      (curTp s.d).busy.contains tag = false → heldBy (getFloe s.d s.d.curF) (curTp s.d) true false false = false →
      (recHeldFor s.d s.d.curF = true → LeavesData (.cfgl g a tag) s (blockCur s.d (.stall .record))) ∧
      (recHeldFor s.d s.d.curF = false →
        (rn s.d a / 2 ^ 52 % 16 ∉ [1, 3, 4, 5] → Traps (.cfgl g a tag) s 3 1) ∧
        (rn s.d a / 2 ^ 52 % 16 = 1 → l2Ok s.d (rn s.d a % 2 ^ 52) 64 = false → Traps (.cfgl g a tag) s 3 2) ∧
        (rn s.d a / 2 ^ 52 % 16 ∈ [1, 3, 4, 5] → (rn s.d a / 2 ^ 52 % 16 = 1 → l2Ok s.d (rn s.d a % 2 ^ 52) 64 = true) →
          rn s.d a / 2 ^ 56 ≠ 0 ∨ rn s.d a % 64 ≠ 0 →
          LeavesData (.cfgl g a tag) s (trapped (noteCause s.d 0x0A 3) 0x0A 3 0)) ∧
        (rn s.d a / 2 ^ 52 % 16 ∈ [1, 3, 4, 5] → (rn s.d a / 2 ^ 52 % 16 = 1 → l2Ok s.d (rn s.d a % 2 ^ 52) 64 = true) →
          rn s.d a / 2 ^ 56 = 0 → rn s.d a % 64 = 0 →
          ((getFloe s.d s.d.curF).cfg.state ≠ .loading → (getFloe s.d s.d.curF).cfg.state ≠ .draining →
            LeavesData (.cfgl g a tag) s
              (modCur
                (modFloe s.d s.d.curF (fun fl => { fl with cfg := { fl.cfg with
                  state := .loading, pend := [], pendId := 0, checked := false, owner := (curTp s.d).owner, tag := tag,
                  delta := rs s.d a, count := 0, next := 0, stopped := false,
                  after := ((curTp s.d).pends.filter (fun p => p.kind != .div && p.kind != .mul)).map (fun p => p.id) } }))
                (fun t => pastWord { t with
                  tags := t.tags &&& ~~~(BitVec.ofNat 64 (2 ^ tag.toNat)), busy := t.busy ++ [tag] }))) ∧
          ((getFloe s.d s.d.curF).cfg.state = .loading ∨ (getFloe s.d s.d.curF).cfg.state = .draining →
            LeavesData (.cfgl g a tag) s (trapped (noteCause s.d 0x0A 1) 0x0A 1 0)))) ∧
      (∀ cause, noteCause s.d 0x0A cause =
        modFloe s.d s.d.curF (fun fl => { fl with cfg := { fl.cfg with lastCause := BitVec.ofNat 8 cause } }))) ∧
  (∀ (s : State) (g : Guard) (fr a b : BitVec 5) (c : CfgSt) (bad : Bool), Ready s g [fr, a, b] →
      c = (getFloe s.d s.d.curF).cfg →
      bad = (decide (rn s.d fr / 2 ^ 17 ≠ 0) || fidWriteBad (rn s.d fr % 2 ^ 16) (rn s.d fr / 2 ^ 16 % 2) (rn s.d b)) →
      (recHeldFor s.d s.d.curF = true → LeavesData (.cfgw g fr a b) s (blockCur s.d (.stall .record))) ∧
      (recHeldFor s.d s.d.curF = false →
        (c.state = .idle ∨ c.state = .ready → bad = false →
          LeavesData (.cfgw g fr a b) s
            (modCur
              (modFloe s.d s.d.curF (fun fl => { fl with cfg := { fl.cfg with
                state := .ready, checked := false, pendId := fl.cfg.curId + 1,
                pend := cfgPut (if fl.cfg.state = .ready then fl.cfg.pend else fl.cfg.cur) (rn s.d fr % 2 ^ 16)
                  (rn s.d fr / 2 ^ 16 % 2) (rn s.d b) (rn s.d a) } }))
              pastWord)) ∧
        (c.state = .loading ∨ c.state = .draining →
          LeavesData (.cfgw g fr a b) s (trapped (noteCause s.d 0x0A 1) 0x0A 1 0)) ∧
        (c.state = .idle ∨ c.state = .ready ∨ c.state = .failed → bad = true →
          LeavesData (.cfgw g fr a b) s (trapped (noteCause s.d 0x0A 3) 0x0A 3 0)) ∧
        (c.state = .failed → bad = false → LeavesData (.cfgw g fr a b) s (trapped (noteCause s.d 0x0A 7) 0x0A 7 0)))) ∧
  ((∀ (s : State) (g : Guard) (tag : BitVec 6) (c : CfgSt) (committed : Data), Ready s g [] →
      (tag = 0 ∨ (curTp s.d).busy.contains tag = false) → c = (getFloe s.d s.d.curF).cfg →
      committed = modCur (modFloe s.d s.d.curF (fun fl => { fl with cfg := { fl.cfg with
          state := .draining, checked := true, igen := ! fl.cfg.gen, owner := (curTp s.d).owner, tag := tag, mark := fl.issueNo } }))
        (fun t => { t with
          tags := if tag = 0 then t.tags else t.tags &&& ~~~(BitVec.ofNat 64 (2 ^ tag.toNat)), busy := t.busy ++ [tag] }) →
      (recHeldFor s.d s.d.curF = true → LeavesData (.cfgg g tag) s (blockCur s.d (.stall .record))) ∧
      (∀ g' tag', Ready s g' [] → tag' ≠ 0 → (curTp s.d).busy.contains tag' = true →
        LeavesData (.cfgg g' tag') s (blockCur s.d (.stall (.tag tag')))) ∧
      (recHeldFor s.d s.d.curF = false →
        (c.state = .ready → c.checked = true → LeavesData (.cfgg g tag) s (modCur committed pastWord)) ∧
        (c.state = .ready → c.checked = false → cfgCheck c.pend s.d.curF = none →
          LeavesData (.cfgg g tag) s (blockCur committed (.issue (.cfgg g tag)))) ∧
        (∀ cause, c.state = .ready → c.checked = false → cfgCheck c.pend s.d.curF = some cause →
          LeavesData (.cfgg g tag) s (trapped (noteCause (modFloe s.d s.d.curF (fun fl => { fl with cfg := { fl.cfg with
            state := .failed, pend := [], pendId := 0, failEntry := 0xFFFF } })) 0x0A cause) 0x0A cause 0)) ∧
        (c.state = .loading ∨ c.state = .draining →
          LeavesData (.cfgg g tag) s (trapped (noteCause s.d 0x0A 1) 0x0A 1 0)) ∧
        (c.state = .idle ∨ c.state = .failed →
          LeavesData (.cfgg g tag) s (trapped (noteCause s.d 0x0A 7) 0x0A 7 0)))) ∧
    (∀ (s : State) (f k : Nat) (g : Guard) (tag : BitVec 6), (getSlot s.d f k).block = .issue (.cfgg g tag) →
      (getSlot s.d f k).st = .live → earlierPending (getTp s.d f k) = false → (getFloe s.d f).halted = false →
      LeavesData (.issueCompletion f k) s
        (modSlot { s.d with curF := f, curK := k, curW := (getSlot s.d f k).word } f k
          (fun sl => { sl with block := .none, tp := pastWord sl.tp })))) ∧
  (∀ (s : State) (g : Guard) (d : BitVec 5) (c : CfgSt), Ready s g [d] → c = (getFloe s.d s.d.curF).cfg →
      ActsOnTp (.cfgq g d 0) s (scalarThen d (BitVec.ofNat 64
        ((match c.state with
            | .idle => 0
            | .loading => 1
            | .ready => 2
            | .failed => 3
            | .draining => 4)
          + (if c.gen then 2 ^ 3 else 0) + (if c.igen then 2 ^ 4 else 0) + c.lastCause.toNat * 2 ^ 8 + c.failEntry.toNat * 2 ^ 16))) ∧
      ActsOnTp (.cfgq g d 1) s (scalarThen d (BitVec.ofNat 64 c.errors)) ∧
      ActsOnTp (.cfgq g d 2) s (scalarThen d c.curId) ∧
      ActsOnTp (.cfgq g d 3) s (scalarThen d c.pendId) ∧
      (∀ k < 8,
        ActsOnTp (.cfgq g d (BitVec.ofNat 8 (8 + k))) s (scalarThen d (BitVec.ofNat 64
          ((planOf c.cur k).latency % 2 ^ 16 + (planOf c.cur k).interval c.cur % 2 ^ 16 * 2 ^ 16))) ∧
        ActsOnTp (.cfgq g d (BitVec.ofNat 8 (16 + k))) s (scalarThen d (BitVec.ofNat 64
          (if c.checked = true ∧ (c.state = .ready ∨ c.state = .draining) then
            (planOf c.pend k).latency % 2 ^ 16 + (planOf c.pend k).interval c.pend % 2 ^ 16 * 2 ^ 16 else 0)))))

/-- R132, R133, R26, R179: on a floe not halted with every record of its own written, and once the accesses its TP made before the CFGL have
performed, a load read from its start whose delta names the current image and whose entries all apply ends READY with the new
image ID, checked, and sets its tag; one whose delta has a malformed header or entry (CFGCHK 0x03) or names another image (0x02),
or whose configuration fails the check, ends FAILED with that cause and the failing entry, one REPORT record and its tag set (that
another BASEID gives 0x02 before any entry is read is the model's choice, log entry 130; that no entry is then named, log entry 171).
CONFIG_SWITCH, on a floe neither frozen nor halted, once every command and hold issued before the commit that names a
port is gone, and every accepted MMOV, and no queue, channel, firing or generator of the field has a word of the active generation
to go (words in FIFO cells do not hold it back: the model's choice, log entry 44), makes the pending
configuration the active one, inverts the generation, takes the pending image ID, zeroes the error count, leaves the pending
configuration IDLE and sets the CFGG's tag. -/
def Obligations.ConfigurationLoadsAndSwitches : Prop :=
  (∀ (s : State) (f : Nat) (d1 : Data) (w : List Word) (c : CfgSt),
    c = (getFloe s.d f).cfg → c.state = .loading → c.stopped = false → c.count = 0 → c.next = 0 → recHeldFor s.d f = false →
    (getFloe s.d f).halted = false → (∀ p ∈ (getTp s.d f (slotOfOwner s.d f c.owner)).pends, p.id ∉ c.after) →
    readWordsAt s.d (reqFloe f) (placeOf c.delta).1 (placeOf c.delta).2 8 = (d1, .ok w) →
    (∀ (n : Nat) (id : Word) (d2 : Data) (t : Table), deltaHead w = some (n, c.curId, id) →
      deltaEntries d1 (reqFloe f) (placeOf c.delta).1 (placeOf c.delta).2 c.cur 0 n = (d2, t, .done) → cfgCheck t f = none →
      LeavesData (.cfglLoadEnd f) s
        (tagDone (modFloe d2 f (fun fl => { fl with cfg := { fl.cfg with
          state := .ready, pend := t, pendId := id, checked := true } })) f c.owner c.tag)) ∧
    (∀ (n : Nat) (base id : Word) (d2 : Data) (t : Table) (cause e : Nat),
      (deltaHead w = none ∧ d2 = d1 ∧ cause = 3 ∧ e = 0xFFFF) ∨
        (deltaHead w = some (n, base, id) ∧ base ≠ c.curId ∧ d2 = d1 ∧ cause = 2 ∧ e = 0xFFFF) ∨
        (deltaHead w = some (n, c.curId, id) ∧
          deltaEntries d1 (reqFloe f) (placeOf c.delta).1 (placeOf c.delta).2 c.cur 0 n = (d2, t, .fail cause e)) ∨
        (deltaHead w = some (n, c.curId, id) ∧ cfgCheck t f = some cause ∧ e = 0xFFFF ∧
          deltaEntries d1 (reqFloe f) (placeOf c.delta).1 (placeOf c.delta).2 c.cur 0 n = (d2, t, .done)) →
      LeavesData (.cfglLoadEnd f) s
        (tagDone (recordedTp (modFloe d2 f (fun fl => { fl with cfg := { fl.cfg with
            state := .failed, pend := [], pendId := 0, checked := false, lastCause := BitVec.ofNat 8 cause,
            failEntry := BitVec.ofNat 16 e } })) f
            (slotOfOwner s.d f c.owner) { recZero with cls := 0x0A, cause := cause, kind := 6, tag := (getFloe d2 f).cfg.tag.toNat })
          f c.owner c.tag))) ∧
  (∀ (s : State) (f : Nat) (fl : Floe), fl = getFloe s.d f → fl.cfg.state = .draining → fl.halted = false →
    fl.frozen = false → recHeldFor s.d f = false →
    (∀ c ∈ fl.streams.filterMap id, c.no < fl.cfg.mark → c.ip = none ∧ c.op = none) →
    (fl.feed = none ∨ fl.cfg.mark ≤ fl.feedNo) → (∀ p < 32, solverHolds s.d f p = false) →
    (∀ n ∈ fl.nodes, ∀ m ∈ n.moves, m.holdsPort = false) →
    (∀ qs ∈ [fl.field.ipq, fl.field.opq, fl.field.rq, fl.field.wq, fl.field.links, fl.field.agIn, fl.field.agOut],
      ∀ q ∈ qs, ∀ e ∈ q, e.word.gen ≠ fl.cfg.gen) →
    (∀ y ∈ fl.field.groups, ∀ x ∈ y.commits, x.outs = []) → (∀ y ∈ fl.field.gens, y.reads = [] ∧ y.writes = []) →
    LeavesData (.configSwitch f) s
      (tagDone (modFloe s.d f (fun fl => { fl with
          field := fieldSwitch fl.field fl.cfg.cur fl.cfg.pend,
          cfg := { fl.cfg with
            cur := fl.cfg.pend, curId := fl.cfg.pendId, pend := [], pendId := 0, state := .idle, checked := false,
            gen := ! fl.cfg.gen, errors := 0 } })) f fl.cfg.owner fl.cfg.tag))

/-! ## The matrix nodes -/

/-- R142, R143, R403: MXT puts a token that passes its checks, with its operand word, into its node's queue, before the
feed's of the same cycle, and the TP counts one more outstanding; with the queue full it waits, and a token that fails a
check traps. MXT.p binds the feed to an exposed op port where none is bound, after the commands issued before it; it
traps with ILLEGAL 0x05 where one is, and with CFGCHK 0x08 at an unexposed port, its cause noted for CFGQ (the model's
choice, log 46). MXT.u unbinds it. MATRIX_TOKEN_FEED moves a good word of the bound port into its node's queue, but not
while a record of its own is unwritten (R23; which those are: log 179). R144, R145, R147, R398, R400, R396, R401: the
token at the head of a node's queue, ready by its time, on a floe neither frozen nor halted, at a node with no record
unwritten (R23). MMA or MMAT, when node and cells are free: it leaves the queue, takes the node for its steps with the
node's tables; its EXP count is entered at the accumulator. A refused EXP discards it with a record (MATRIX 0x04); the
node is held a cycle. MMOV, when every earlier token of its accumulator has contributed, no move goes on and its port is
free: the node is taken for one cycle and has the rows of C to deliver; with ACC the accumulator is cleared. MCLR clears
the counts, and C one cycle later. MTAB takes the node for eight cycles. R149, R147, R399, R44: MTAB_COMPLETE, once it
is due on a floe neither frozen nor halted, makes the tables it read the node's where every product of their entries is
an FP32 value, and else leaves them and records the token with MATRIX 0x06; it has performed (poison of the tables is
not carried: log 49). MATRIX_CONTRIBUTION makes the node's contribution that is due visible: the products of its
operands are in C with their poison, the token has performed, and a token with EXP counts; the one that completes its
count releases C to the port its operand word names, and the accumulator is cleared. -/
def Obligations.MatrixTokensMove : Prop :=
  ((∀ (s : State) (g : Guard) (a b : BitVec 5) (port : BitVec 4) (q : Nat), Ready s g [a, b] → q = rn s.d a / 2 ^ 23 % 4 →
      (∀ before late : List MTok, mxCheck (issueCfg (getFloe s.d s.d.curF).cfg) (rs s.d a) (rs s.d b) = none →
        (nodeAt (getFloe s.d s.d.curF) q).queue = before ++ late → (before ++ late).length < 8 →
        (∀ x ∈ late, x.owner = none ∧ x.arrived = (getFloe s.d s.d.curF).cyc) →
        (∀ x ∈ before.getLast?, x.owner ≠ none ∨ x.arrived ≠ (getFloe s.d s.d.curF).cyc) →
        LeavesData (.mxt g a b) s
          (modCur
            (modFloe s.d s.d.curF (fun fl => { fl with
              active := true,
              nodes := fl.nodes.set q { nodeAt fl q with
                queue := before ++ [{ tok := rs s.d a, mow := rs s.d b, owner := some (curTp s.d).owner,
                                      arrived := (getFloe s.d s.d.curF).cyc }] ++ late } }))
            (fun t => pastWord { t with tokens := t.tokens + 1 }))) ∧
      (mxCheck (issueCfg (getFloe s.d s.d.curF).cfg) (rs s.d a) (rs s.d b) = none →
        8 ≤ (nodeAt (getFloe s.d s.d.curF) q).queue.length →
        LeavesData (.mxt g a b) s (blockCur s.d (.stall (.tokenQueue q)))) ∧
      (∀ cls cause, mxCheck (issueCfg (getFloe s.d s.d.curF).cfg) (rs s.d a) (rs s.d b) = some (cls, cause) →
        Traps (.mxt g a b) s cls cause) ∧
      ((getFloe s.d s.d.curF).feed = none → exposed (issueCfg (getFloe s.d s.d.curF).cfg) (16 + port.toNat) = true →
        LeavesData (.mxtP g port) s
          (modCur (modFloe s.d s.d.curF (fun fl => { fl with feed := some port, feedNo := fl.issueNo })) pastWord)) ∧
      ((getFloe s.d s.d.curF).feed ≠ none → Traps (.mxtP g port) s 1 5) ∧
      ((getFloe s.d s.d.curF).feed = none → exposed (issueCfg (getFloe s.d s.d.curF).cfg) (16 + port.toNat) = false →
        LeavesData (.mxtP g port) s (trapped (modFloe s.d s.d.curF (fun fl => { fl with cfg := { fl.cfg with lastCause := 8 } }))
          0x0A 8 0)) ∧
      LeavesData (.mxtU g) s (modCur (modFloe s.d s.d.curF (fun fl => { fl with feed := none })) pastWord)) ∧
    (∀ (s : State) (f : Nat) (p : BitVec 4) (w : FWord), (getFloe s.d f).feed = some p →
      feedBehind s.d f p = false → feedHeld s.d f = false → (getFloe s.d f).frozen = false → (getFloe s.d f).halted = false →
      (qHead s.d f (.op p.toNat)).map (opWord (getFloe s.d f).cfg.cur p.toNat) = some w → isBare w = false → isErr w = false →
      w.psn = false → w.mask = 0 →
      mxCheck (getFloe s.d f).cfg.cur (BitVec.ofNat 64 (w.data.toNat % 2 ^ 64)) (BitVec.ofNat 64 (w.data.toNat / 2 ^ 64 % 2 ^ 64)) = none →
      (nodeAt (getFloe s.d f) (tokNode (BitVec.ofNat 64 (w.data.toNat % 2 ^ 64)))).queue.length < 8 →
      LeavesData (.matrixTokenFeed f) s
        (mxAppend (qPop s.d f (.op p.toNat)) f (BitVec.ofNat 64 (w.data.toNat % 2 ^ 64))
          (BitVec.ofNat 64 (w.data.toNat / 2 ^ 64 % 2 ^ 64)) none))) ∧
  (∀ (s : State) (f q : Nat) (t : MTok) (rest : List MTok), (nodeAt (getFloe s.d f) q).queue = t :: rest →
      t.arrived < (getFloe s.d f).cyc → (nodeAt (getFloe s.d f) q).freeAt ≤ (getFloe s.d f).cyc →
      (getFloe s.d f).frozen = false → (getFloe s.d f).halted = false → nodeHeld s.d f q = false →
      ((∀ i : Instr, (i = .mma f q ∧ mtMop t.tok = 0) ∨ (i = .mmat f q ∧ mtMop t.tok = 1) →
        q ∈ mulAccepted s.d f → expBad (getFloe s.d f) t = false →
        LeavesData i s (modFloe s.d f (fun fl => { fl with
          active := true,
          accums := fl.accums.set (mtAn t.tok) (accAccept (mtExp t.tok) (accAt fl (mtAn t.tok))),
          nodes := fl.nodes.set q { nodeAt fl q with
            queue := rest, freeAt := (getFloe s.d f).cyc + mtSteps t.tok,
            flight := (nodeAt fl q).flight ++ [{ t := t, accepted := (getFloe s.d f).cyc, slabs := [], scales := [], psn := false,
                                                 ta := (nodeAt fl q).ta, tb := (nodeAt fl q).tb }] } }))) ∧
      (∀ i : Instr, (i = .mma f q ∧ mtMop t.tok = 0) ∨ (i = .mmat f q ∧ mtMop t.tok = 1) →
        q ∈ mulAccepted s.d f → expBad (getFloe s.d f) t = true →
        LeavesData i s (tokenDone (mxReject (modFloe s.d f (fun fl => { fl with
            active := true,
            nodes := fl.nodes.set q { nodeAt fl q with queue := rest, freeAt := (getFloe s.d f).cyc + 1 } }))
          f t.owner (9, 4) t.tok t.mow) f t.owner))) ∧
      (mtMop t.tok = 2 → accQuiet (nodeAt (getFloe s.d f) q) (mtAn t.tok) = true → (nodeAt (getFloe s.d f) q).moves = [] →
        ipFree s.d f (mtPort t.tok) = true →
        LeavesData (.mmov f q) s (modFloe s.d f (fun fl => { fl with
          active := true,
          accums := if mtAcc t.tok then fl.accums.set (mtAn t.tok) Accum.reset else fl.accums,
          nodes := fl.nodes.set q { nodeAt fl q with
            queue := rest, freeAt := (getFloe s.d f).cyc + 1,
            moves := [{ owner := t.owner, start := (getFloe s.d f).cyc, port := BitVec.ofNat 4 (mtPort t.tok),
                        words := moveWords (accAt (getFloe s.d f) (mtAn t.tok)) (mtM t.tok) (mtN t.tok) (getFloe s.d f).cfg.gen,
                        next := 0, holdsPort := true }] } }))) ∧
      (mtMop t.tok = 3 → accQuiet (nodeAt (getFloe s.d f) q) (mtAn t.tok) = true →
        LeavesData (.mclr f q) s (modFloe s.d f (fun fl => { fl with
          active := true,
          accums := fl.accums.set (mtAn t.tok) { accAt fl (mtAn t.tok) with ptgt := 0, acnt := 0 },
          nodes := fl.nodes.set q { nodeAt fl q with
            queue := rest, freeAt := (getFloe s.d f).cyc + 1,
            clears := (nodeAt fl q).clears ++ [((getFloe s.d f).cyc + 1, mtAn t.tok, t.owner)] } }))) ∧
      (mtMop t.tok = 4 →
        LeavesData (.mtab f q) s (modFloe s.d f (fun fl => { fl with
          active := true,
          nodes := fl.nodes.set q { nodeAt fl q with
            queue := rest, freeAt := (getFloe s.d f).cyc + 8,
            mtab := some ((getFloe s.d f).cyc + 8, t, tableAt s.d f (mtCa t.tok) (mwAoff t.mow),
              tableAt s.d f (mtCb t.tok) (mwBoff t.mow)) } })))) ∧
  ((∀ (s : State) (f q due : Nat) (t : MTok) (ta tb : List (BitVec 16)),
      (nodeAt (getFloe s.d f) q).mtab = some (due, t, ta, tb) → due ≤ (getFloe s.d f).cyc → (getFloe s.d f).frozen = false →
      (getFloe s.d f).halted = false →
      (ta.any (fun a => tb.any (prodInexact a)) = false → LeavesData (.mtabComplete f q) s
        (tokenDone (modFloe s.d f (fun fl => { fl with
          nodes := fl.nodes.set q { nodeAt fl q with mtab := none, ta := ta, tb := tb } })) f t.owner)) ∧
      (ta.any (fun a => tb.any (prodInexact a)) = true → LeavesData (.mtabComplete f q) s
        (tokenDone (mxReject (modFloe s.d f (fun fl => { fl with nodes := fl.nodes.set q { nodeAt fl q with mtab := none } }))
          f t.owner (9, 6) t.tok t.mow) f t.owner))) ∧
    (∀ (s : State) (f q : Nat) (x : MFlight) (before after : List MFlight) (a : Accum), f < s.d.floes.length →
      q < (getFloe s.d f).nodes.length →
      (nodeAt (getFloe s.d f) q).flight = before ++ x :: after → landsAt x ≤ (getFloe s.d f).cyc →
      (∀ y ∈ before ++ after, (getFloe s.d f).cyc < landsAt y) → (getFloe s.d f).frozen = false →
      (getFloe s.d f).halted = false →
      a = { accAt (getFloe s.d f) (mtAn x.t.tok) with
        c := contribute x (accAt (getFloe s.d f) (mtAn x.t.tok)).c,
        poison := (accAt (getFloe s.d f) (mtAn x.t.tok)).poison || x.psn } →
      (mtExp x.t.tok = 0 → LeavesData (.matrixContribution f q) s
        (tokenDone (modFloe s.d f (fun fl => { fl with
          nodes := fl.nodes.set q { nodeAt fl q with flight := before ++ after },
          accums := fl.accums.set (mtAn x.t.tok) a })) f x.t.owner)) ∧
      (mtExp x.t.tok ≠ 0 → ∀ tgt, tgt = (if a.cnt = 0 then mtExp x.t.tok else a.tgt) →
        (a.cnt + 1 ≠ tgt → LeavesData (.matrixContribution f q) s
          (tokenDone (modFloe s.d f (fun fl => { fl with
            nodes := fl.nodes.set q { nodeAt fl q with flight := before ++ after },
            accums := fl.accums.set (mtAn x.t.tok) { a with tgt := tgt, cnt := a.cnt + 1 } })) f x.t.owner)) ∧
        (a.cnt + 1 = tgt → LeavesData (.matrixContribution f q) s
          (tokenDone (modFloe s.d f (fun fl => { fl with
            nodes := fl.nodes.set q { nodeAt fl q with
              flight := before ++ after,
              moves := (nodeAt fl q).moves ++
                [{ owner := none, start := landsAt x, port := BitVec.ofNat 4 (mwRport x.t.mow),
                   words := moveWords a (mtM x.t.tok) (mtN x.t.tok) fl.cfg.gen, next := 0, holdsPort := false }] },
            accums := fl.accums.set (mtAn x.t.tok) { a with c := [], cnt := 0, tgt := 0, poison := false } })) f x.t.owner)))))

/-! ## Scalar memory accesses -/

/-- R175, R177, R201, R386, R437: LDS and STS of an element that passes the issue checks and lies in range put an access on
its way, to the bytes of the element in FLOE or L2, STS with the low bits of s[d] that the format stores and, outside FLOE,
as a counted write; an element out of range reads as 0 and is not written (R63), at once and with no access on its way (the
model's choice, log 26); a failed check traps. -/
def Obligations.ElementAccessesIssue : Prop :=
  ∀ (s : State) (g : Guard) (d a b : BitVec 5) (n : BitVec 4) (v : View) (x : List Int), Ready s g [d, a, b] →
    Sound s (viewRegs (curTp s.d) n) → curView s.d n = some v → x = winCoords v (rn s.d a) (rn s.d b) →
    (heldBy (getFloe s.d s.d.curF) (curTp s.d) true false (vLocal v) = false →
      (elemCheck s.d v (rn s.d a) (rn s.d b) = none →
        (inRange v.lte x = true →
          LeavesData (.lds g d n a b) s (accessTaken s.d { pend0 s.d .lds with
            d := d, floeLocal := vLocal v, pieces := localPieces s.d.curF v.lte x, signed := ldsSigned (lteFmt v.lte),
            value := BitVec.ofNat 64 (fmtBits (lteFmt v.lte)), addr := elemAddr v.lte x } false [])) ∧
        (inRange v.lte x = false → ActsOnTp (.lds g d n a b) s (scalarThen d 0))) ∧
      (∀ cls cause, elemCheck s.d v (rn s.d a) (rn s.d b) = some (cls, cause) → Traps (.lds g d n a b) s cls cause)) ∧
    (heldBy (getFloe s.d s.d.curF) (curTp s.d) false true (vLocal v) = false →
      (elemCheck s.d v (rn s.d a) (rn s.d b) = none →
        (inRange v.lte x = true →
          LeavesData (.sts g d n a b) s (accessTaken s.d { pend0 s.d .sts with
            floeLocal := vLocal v, pieces := localPieces s.d.curF v.lte x,
            value := BitVec.ofNat 64 (rn s.d d % 2 ^ fmtBits (lteFmt v.lte)), addr := elemAddr v.lte x } (! vLocal v) [])) ∧
        (inRange v.lte x = false → ActsOnTp (.sts g d n a b) s pastWord)) ∧
      (∀ cls cause, elemCheck s.d v (rn s.d a) (rn s.d b) = some (cls, cause) → Traps (.sts g d n a b) s cls cause))

/-- R175, R176, R177, R201: an access that may perform. An LDS outside FLOE writes its register with the element's bits,
sign-extended from the format's width where the format is a signed integer, and leaves memory alone. An STS outside FLOE
stores the element: every byte outside the bytes of its pieces reads as before, and its counted write has performed. In
FLOE the write belongs to the cycle in progress. A refused access traps its TP instead, the record's WR set for an STS, and a
poisoned one of L2 traps its TP with ECCU 0x02 and stores nothing. A counted write so ended never performs (R208; that the
entries covering it carry cause 2 is the model's choice, log entry 162). -/
def Obligations.ElementAccessesPerform : Prop :=
  ∀ (s : State) (f k i : Nat) (p : Pend), MayPerformNow s f k i p →
    (p.kind = .lds → p.floeLocal = false → piecesFault s.d f 1 p.pieces = none → piecePoisoned s.d p.pieces = false →
      LeavesData (.ldsReturn f k i) s (modTp s.d f k (fun t => sput (withoutPend p t) p.d
        (if p.signed then BitVec.ofInt 64 ((BitVec.ofNat p.value.toNat (pieceRead s.d p.pieces)).toInt)
         else BitVec.ofNat 64 (pieceRead s.d p.pieces))))) ∧
    (p.kind = .sts → p.floeLocal = false → piecesFault s.d f 2 p.pieces = none → piecePoisoned s.d p.pieces = false →
      (s.d.mem.wf = true → Leaves (.ldsReturn f k i) s (fun t =>
        t.mg = s.mg ∧ t.agenda = s.agenda ∧ t.d.mem = pieceStore (pieceSettle s.d p.pieces).mem p.value.toNat p.pieces ∧
        (∀ a, Outside p.pieces a → memByte t.d a = memByte s.d a))) ∧
      LeavesData (.ldsReturn f k i) s (modTp (pieceWrite s.d p.pieces p.value.toNat false) f k (withoutPend p))) ∧
    (p.kind = .sts → p.floeLocal = true → piecesFault s.d f 2 p.pieces = none →
      Leaves (.ldsReturn f k i) s (fun t => (∀ a, memByte t.d a = memByte s.d a) ∧ (f < s.d.floes.length →
        (getFloe t.d f).writes = (getFloe s.d f).writes ++
          [{ src := 2, key := p.order, elems := [(p.pieces, p.value.toNat)], psn := false, mode := 0, fmt := 0,
             part := false }]))) ∧
    (p.kind = .lds → p.floeLocal = false → piecesFault s.d f 1 p.pieces = none → piecePoisoned s.d p.pieces = true →
      LeavesData (.ldsReturn f k i) s
        (trapAt (modTp (loseWrite s.d f k p.wno 2) f k (withoutPend p)) f k 0x0C 2 p.addr p.word 0)) ∧
    (p.kind = .sts → p.floeLocal = false → piecesFault s.d f 2 p.pieces = none → piecePoisoned s.d p.pieces = true →
      LeavesData (.ldsReturn f k i) s
        (trapWr true (modTp (loseWrite s.d f k p.wno 2) f k (withoutPend p)) f k 0x0C 2 p.addr p.word 0)) ∧
    (∀ fc d,
      (p.kind = .lds → piecesFault s.d f 1 p.pieces = some fc →
        d = (if p.floeLocal then modFloe s.d f (fun fl => p.pieces.foldl (fun fl q => bankUse fl q.loc) fl) else s.d) →
        LeavesData (.ldsReturn f k i) s
          (trapAt (modTp (loseWrite d f k p.wno 2) f k (withoutPend p)) f k fc.1 fc.2 p.addr p.word 0)) ∧
      (p.kind = .sts → piecesFault s.d f 2 p.pieces = some fc → LeavesData (.ldsReturn f k i) s
        (trapWr true (modTp (loseWrite s.d f k p.wno 2) f k (withoutPend p)) f k fc.1 fc.2 p.addr p.word 0)))

/-- R187, R188, R201, R333: each ATOM whose tile is L2 of this module and passes the issue checks puts one read-modify-
write of its 32-bit word on its way, a counted write, with s[a] as operand and s[d] as comparand; with .rel or .ar it
waits for the TP's earlier accesses, with .acq or .ar later accesses wait for it. R187, R188: an ATOM on this module's
L2 that may perform reads its word, writes the operation's result in one step and puts the old value, sign-extended,
into s[d]: SWP the operand, CAS the operand where the word equals the comparand, ADD the sum modulo 2^32, AND, OR, XOR
bit by bit, MAX and MIN as signed numbers. Every byte but the four of the word reads as before. A refused one traps its
TP, as a write, and one of a poisoned word with ECCU 0x02; its counted write never performs (cause 2: the model's
choice, log entry 162). -/
def Obligations.AtomicsIssueAndPerform : Prop :=
  (∀ (s : State) (g : Guard) (d a : BitVec 5) (n : BitVec 4) (ord : BitVec 2) (scope : BitVec 3) (v : View) (op : BitVec 3)
      (i : Instr), Ready s g [d, a] →
      (op, i) ∈ [(0, Instr.atomSwp g d n a ord scope), (1, .atomCas g d n a ord scope), (2, .atomAdd g d n a ord scope),
        (3, .atomAnd g d n a ord scope), (4, .atomOr g d n a ord scope), (5, .atomXor g d n a ord scope),
        (6, .atomMax g d n a ord scope), (7, .atomMin g d n a ord scope)] →
      heldBy (getFloe s.d s.d.curF) (curTp s.d) true true false = false → Sound s (viewRegs (curTp s.d) n) → curView s.d n = some v → lteSpace v.lte = 1 →
      (atomCheck s.d v = none →
        LeavesData i s (accessTaken s.d { pend0 s.d (.atom op (BitVec.ofNat 32 (rn s.d a)) (BitVec.ofNat 32 (rn s.d d))) with
            d := d, addr := elemAddr v.lte (winCoords v 0 0),
            after := if ord = 0 ∨ ord = 1 then [] else pendIds (curTp s.d) (fun _ => true),
            pieces := [{ loc := locL2 (elemAddr v.lte (winCoords v 0 0)), off := 0, n := 32, sh := 0 }] } true
          (if ord = 1 ∨ ord = 3 then
            [{ reads := true, writes := true, floeToo := decide (scope ≠ 0), pends := [(curTp s.d).nextId], cmds := [] }]
           else []))) ∧
      (∀ cls cause, atomCheck s.d v = some (cls, cause) → Traps i s cls cause)) ∧
  (∀ (s : State) (f k i : Nat) (p : Pend) (op : BitVec 3) (v cmp old new : BitVec 32), MayPerformNow s f k i p →
      p.kind = .atom op v cmp → p.peer = none → old = BitVec.ofNat 32 (memRead s.d (locL2 p.addr) 4) →
      new = (if op = 0 then v else if op = 1 then (if old = cmp then v else old)
        else if op = 2 then BitVec.ofNat 32 (old.toNat + v.toNat) else if op = 3 then old &&& v else if op = 4 then old ||| v
        else if op = 5 then old ^^^ v else if op = 6 then BitVec.ofInt 32 (max old.toInt v.toInt)
        else BitVec.ofInt 32 (min old.toInt v.toInt)) →
      (physFault s.d f 3 (locL2 p.addr) 4 = none → poisoned s.d (locL2 p.addr) 4 = false →
        LeavesData (.atomPerform f k i) s
          (modTp (memWrite s.d (locL2 p.addr) 4 new.toNat false) f k (fun t => sput (withoutPend p t) p.d (old.signExtend 64))) ∧
        (s.d.mem.wf = true → ∀ a, a < locL2 p.addr ∨ locL2 p.addr + 4 ≤ a →
          memByte (memWrite s.d (locL2 p.addr) 4 new.toNat false) a = memByte s.d a)) ∧
      (∀ fc, physFault s.d f 3 (locL2 p.addr) 4 = some fc ∨
          (physFault s.d f 3 (locL2 p.addr) 4 = none ∧ poisoned s.d (locL2 p.addr) 4 = true ∧ fc = (0x0C, 2)) →
        LeavesData (.atomPerform f k i) s
          (trapWr true (modTp (loseWrite s.d f k p.wno 2) f k (withoutPend p)) f k fc.1 fc.2 p.addr p.word 0)))

/-- R181, R182: a FENCE goes on at once and holds later accesses of its TP until the earlier ones it names have performed:
.acq waits for reads and holds reads and writes; .rel waits for all and holds writes; .full waits for all and holds all.
Above FLOE scope it also waits for the TP's floe-local commands and holds FLOE accesses. With nothing to wait for it holds
nothing. -/
def Obligations.FencesHoldLaterAccesses : Prop :=
  ∀ (s : State) (g : Guard) (scope : BitVec 3) (reads : Bool) (waits : List Nat) (cmds : List Nat) (i : Instr), Ready s g [] →
    cmds = (if scope = 0 then [] else localCmds s.d) →
    ((i = .fenceAcq g scope ∧ reads = true ∧ waits = pendIds (curTp s.d) isRead) ∨
      (i = .fenceRel g scope ∧ reads = false ∧ waits = pendIds (curTp s.d) (fun _ => true)) ∨
      (i = .fenceFull g scope ∧ reads = true ∧ waits = pendIds (curTp s.d) (fun _ => true))) →
    ActsOnTp i s (fun t => pastWord { t with
      holds := if waits = [] ∧ cmds = [] then t.holds
        else t.holds ++ [{ reads := reads, writes := true, floeToo := decide (scope ≠ 0), pends := waits, cmds := cmds }] })

/-! ## Versioned words -/

/-- R190, R191, R192, R193, R445: VLD, VST and VRCL with no earlier FENCE or ATOM that holds them, of a tile and a
version that pass the checks, on a word with latest version L whose home does not refuse them. VLD of a version ahead of
L waits, and so does one of a word on which a VRCL of its TP has not performed; otherwise s[d] has that version's value
and p[k] is 0, or the oldest value and p[k] is 1 where it is gone. VST, with the TP's earlier accesses performed, of
version L + 1 makes it the latest where fewer than four live and waits where four do, and of any other version traps
with VSEQ, as a write; with an access before it its issue waits, the register, the word and the version kept. VRCL, with
none before it, drops the versions before its own and keeps L; with one before it, it is on its way as a counted write
after them, and the TP goes on. A failed check traps, and so does a refusal of the home, the record's WR set for VST and
VRCL. R193: VRCL never removes the latest version, keeps L, and leaves the other live versions' values; a version that
lies after the oldest by less than 2^15 drops as many versions, the latest excepted, and any other, the oldest itself or
one 2^15 or more after it, leaves the word as it is. -/
def Obligations.VersionedWordResults : Prop :=
  (∀ (s : State) (g : Guard) (d a : BitVec 5) (t : BitVec 4) (k scope : BitVec 3) (w : LvWord) (x v : Nat), Ready s g [d, a] →
      Sound s (predRegs [k] ++ viewRegs (curTp s.d) t) →
      heldBy (getFloe s.d s.d.curF) (curTp s.d) true false false = false →
      heldBy (getFloe s.d s.d.curF) (curTp s.d) false true false = false →
      (∀ cls cause, lvCheck s.d (rs s.d a) (curView s.d t) = some (cls, cause) →
        Traps (.vld g d t a k scope) s cls cause ∧ Traps (.vst g d t a scope) s cls cause ∧
        Traps (.vrcl g t a scope) s cls cause) ∧
      (lvCheck s.d (rs s.d a) (curView s.d t) = none → x = lvAddr (curView s.d t) → w = lvGet s.d x → v = rn s.d a % 2 ^ 16 →
        (lvFault s.d s.d.curF x 1 = none →
          (lvAhead w v = true ∨ lvBusy (curTp s.d) x = true →
            LeavesData (.vld g d t a k scope) s (modCurSlot s.d (fun sl => { sl with
              block := .vld d k x v, since := (getFloe s.d s.d.curF).advc, hung := false }))) ∧
          (lvAhead w v = false → lvBusy (curTp s.d) x = false → (w.latest + 2 ^ 16 - v) % 2 ^ 16 < w.vals.length →
            LeavesData (.vld g d t a k scope) s (modCurSlot s.d (fun sl => { sl with
              block := .none,
              tp := pastWord (pput (sput sl.tp d (w.vals.getD ((w.latest + 2 ^ 16 - v) % 2 ^ 16) 0)) k false) }))) ∧
          (lvAhead w v = false → lvBusy (curTp s.d) x = false → w.vals.length ≤ (w.latest + 2 ^ 16 - v) % 2 ^ 16 →
            LeavesData (.vld g d t a k scope) s (modCurSlot s.d (fun sl => { sl with
              block := .none, tp := pastWord (pput (sput sl.tp d (w.vals.getLastD 0)) k true) })))) ∧
        (∀ fc, lvFault s.d s.d.curF x 1 = some fc → LeavesData (.vld g d t a k scope) s
          (trapAt s.d s.d.curF s.d.curK fc.1 fc.2 (curTp s.d).pc.toNat (getSlot s.d s.d.curF s.d.curK).word 0)) ∧
        (earlierPending (curTp s.d) = false →
          (lvFault s.d s.d.curF x 2 = none →
            (v = (w.latest + 1) % 2 ^ 16 → w.vals.length < 4 → LeavesData (.vst g d t a scope) s
              (modCurSlot
                (modDie s.d (x / 2 ^ 21) (fun c => { c with
                  lv := spSet lvZero c.lv (x % 2 ^ 21 / 8) { latest := v, vals := rs s.d d :: w.vals } }))
                (fun sl => { sl with block := .none, tp := pastWord { sl.tp with wi := sl.tp.wi + 1 } }))) ∧
            (v = (w.latest + 1) % 2 ^ 16 → 4 ≤ w.vals.length → LeavesData (.vst g d t a scope) s
              (modCurSlot s.d (fun sl => { sl with
                block := .vst d x v, since := (getFloe s.d s.d.curF).advc, hung := false }))) ∧
            (v ≠ (w.latest + 1) % 2 ^ 16 → LeavesData (.vst g d t a scope) s
              (trapWr true s.d s.d.curF s.d.curK 0x0B 0 (curTp s.d).pc.toNat (getSlot s.d s.d.curF s.d.curK).word 0)) ∧
            LeavesData (.vrcl g t a scope) s
              (modCurSlot
                (modDie s.d (x / 2 ^ 21) (fun c => { c with lv := spSet lvZero c.lv (x % 2 ^ 21 / 8) (lvReclaim w v) }))
                (fun sl => { sl with block := .none, tp := pastWord { sl.tp with wi := sl.tp.wi + 1 } }))) ∧
          (∀ fc, lvFault s.d s.d.curF x 2 = some fc →
            LeavesData (.vst g d t a scope) s (trapWr true s.d s.d.curF s.d.curK fc.1 fc.2 (curTp s.d).pc.toNat
              (getSlot s.d s.d.curF s.d.curK).word 0) ∧
            LeavesData (.vrcl g t a scope) s
              (trapWr true s.d s.d.curF s.d.curK fc.1 fc.2 (curTp s.d).pc.toNat s.d.curW 0))) ∧
        (earlierPending (curTp s.d) = true →
          LeavesData (.vst g d t a scope) s (blockCur s.d (.vstRel d x v)) ∧
          LeavesData (.vrcl g t a scope) s (accessTaken s.d { pend0 s.d (.vrcl v) with
            addr := x, after := pendIds (curTp s.d) (fun _ => true) } true [])))) ∧
  (∀ (w : LvWord) (v : Nat), w.vals ≠ [] →
      (lvReclaim w v).latest = w.latest ∧ (lvReclaim w v).vals <+: w.vals ∧ (lvReclaim w v).vals ≠ [] ∧
      (w.latest < 2 ^ 16 → v < 2 ^ 16 → w.vals.length ≤ 4 → ∀ dd, dd < 2 ^ 15 → 1 ≤ dd →
        (w.latest + 1 + 2 ^ 16 - w.vals.length + dd) % 2 ^ 16 = v →
        (lvReclaim w v).vals.length = w.vals.length - min dd (w.vals.length - 1)) ∧
      (w.latest < 2 ^ 16 → v < 2 ^ 16 → w.vals.length ≤ 4 →
        v = (w.latest + 1 + 2 ^ 16 - w.vals.length) % 2 ^ 16 ∨
          (∃ dd, 2 ^ 15 ≤ dd ∧ dd < 2 ^ 16 ∧ (w.latest + 1 + 2 ^ 16 - w.vals.length + dd) % 2 ^ 16 = v) →
        lvReclaim w v = w))

/-- R191, R192, R193, R195, R37: a waiting VLD, and a waiting VST whose word was full, take their tests again: VLD goes on, with the
value of its version or, where that is gone, the oldest value and its predicate set, once the version is not ahead and no VRCL of its
TP on the word is left; VST goes on once fewer than four versions live, traps with VSEQ where its version is no longer the next one,
and waits on where it is and four live. A VST whose issue waits for earlier accesses of its TP takes its test at ISSUE_COMPLETION once they
have performed. A VLD ahead of L and a VST at a full word that wait past the Stalemate limit of their region, counted in advance cycles of
their floe, have a HANG record written once, and wait on. -/
def Obligations.VersionedWaitsEnd : Prop :=
  (∀ (s : State) (f k x v : Nat) (d : BitVec 5) (p : BitVec 3) (w : LvWord), (getSlot s.d f k).block = .vld d p x v →
    w = lvGet s.d x → lvFault s.d f x 1 = none →
    (lvAhead w v = true ∨ lvBusy (getTp s.d f k) x = true → exec (.vldWake f k) s = .next s) ∧
    (lvAhead w v = false → lvBusy (getTp s.d f k) x = false →
      ((w.latest + 2 ^ 16 - v) % 2 ^ 16 < w.vals.length →
        LeavesData (.vldWake f k) s (modSlot s.d f k (fun sl => { sl with
          block := .none, tp := pastWord (pput (sput sl.tp d (w.vals.getD ((w.latest + 2 ^ 16 - v) % 2 ^ 16) 0)) p false) }))) ∧
      (w.vals.length ≤ (w.latest + 2 ^ 16 - v) % 2 ^ 16 →
        LeavesData (.vldWake f k) s (modSlot s.d f k (fun sl => { sl with
          block := .none, tp := pastWord (pput (sput sl.tp d (w.vals.getLastD 0)) p true) }))))) ∧
  (∀ (s : State) (f k x v : Nat) (d : BitVec 5) (w : LvWord), w = lvGet s.d x → lvFault s.d f x 2 = none →
    ((getSlot s.d f k).block = .vst d x v →
      (v = (w.latest + 1) % 2 ^ 16 → 4 ≤ w.vals.length → exec (.vstRetry f k) s = .next s) ∧
      (v = (w.latest + 1) % 2 ^ 16 → w.vals.length < 4 → LeavesData (.vstRetry f k) s
        (modSlot
          (modDie s.d (x / 2 ^ 21) (fun c => { c with
            lv := spSet lvZero c.lv (x % 2 ^ 21 / 8) { latest := v, vals := sget (getTp s.d f k) d :: w.vals } }))
          f k (fun sl => { sl with block := .none, tp := pastWord { sl.tp with wi := sl.tp.wi + 1 } }))) ∧
      (v ≠ (w.latest + 1) % 2 ^ 16 → LeavesData (.vstRetry f k) s
        (trapWr true s.d f k 0x0B 0 (getTp s.d f k).pc.toNat (getSlot s.d f k).word 0))) ∧
    ((getSlot s.d f k).block = .vstRel d x v → (getSlot s.d f k).st = .live → (getFloe s.d f).halted = false →
      (earlierPending (getTp s.d f k) = true → exec (.issueCompletion f k) s = .next s) ∧
      (earlierPending (getTp s.d f k) = false →
        (v = (w.latest + 1) % 2 ^ 16 → 4 ≤ w.vals.length → LeavesData (.issueCompletion f k) s (modSlot s.d f k (fun sl =>
          { sl with block := .vst d x v, since := (getFloe s.d f).advc, hung := false }))) ∧
        (v = (w.latest + 1) % 2 ^ 16 → w.vals.length < 4 → LeavesData (.issueCompletion f k) s
          (modSlot
            (modDie s.d (x / 2 ^ 21) (fun c => { c with
              lv := spSet lvZero c.lv (x % 2 ^ 21 / 8) { latest := v, vals := sget (getTp s.d f k) d :: w.vals } }))
            f k (fun sl => { sl with block := .none, tp := pastWord { sl.tp with wi := sl.tp.wi + 1 } }))) ∧
        (v ≠ (w.latest + 1) % 2 ^ 16 → LeavesData (.issueCompletion f k) s
          (trapWr true s.d f k 0x0B 0 (getTp s.d f k).pc.toNat (getSlot s.d f k).word 0))))) ∧
  (∀ (s : State) (f k x v : Nat) (d : BitVec 5) (p : BitVec 3), (getSlot s.d f k).hung = false →
    (getSlot s.d f k).since + floeSlim s.d (getFloe s.d f) < (getFloe s.d f).advc →
    ((getSlot s.d f k).block = .vld d p x v →
      (lvAhead (lvGet s.d x) v = true → LeavesData (.lvWaitLimit f k) s (lvHang s.d f k 3 x)) ∧
      (lvAhead (lvGet s.d x) v = false → exec (.lvWaitLimit f k) s = .next s)) ∧
    ((getSlot s.d f k).block = .vst d x v →
      (v = ((lvGet s.d x).latest + 1) % 2 ^ 16 → 4 ≤ (lvGet s.d x).vals.length →
        LeavesData (.lvWaitLimit f k) s (lvHang s.d f k 2 x)) ∧
      (v ≠ ((lvGet s.d x).latest + 1) % 2 ^ 16 ∨ (lvGet s.d x).vals.length < 4 → exec (.lvWaitLimit f k) s = .next s)))

/-! ## Token words and the ends of a TP -/

/-- R442, R47: TSEND goes on at once. Its word is on its way where its scope is 0 or the TP's earlier writes have
drained and no earlier word of its route is held; else it is held with the write count it waits for. TRECV of an unbound
channel traps with ILLEGAL 0x05, takes the oldest word of a bound one, and waits where there is none, until TRECV_WAKE
finds one. CBIND changes its own channel only. R47, R48, R49, R50, R290: a word arrives behind every earlier word of its
route. For a TP of a launch here: it goes to the dead-letter ring with reason 4 of a failed region and 1 of a TP that
has ended; to the mailbox of a TP that waits or is parked, and with reason 3 to the ring where the mailbox is full; and
into the buffer of a resident placed TP with fewer than four words on the channel and none in its mailbox, else into its
mailbox. A WID of no launch leaves for its module by the route table and a station that reaches that module, or goes to
the sender's ring with reason 2. MAILBOX_MOVE, of a floe whose contents are not saved, takes the oldest mailbox word of
a channel into the buffer where there is room, and an access of its that fails ends the launch (R455). Which words are
held or mailed for an EXITING TP of a region that is not RESIDENT, how a word leaves for another module and how the one
consumer index counts are the model's choices (log entries 148, 149). -/
def Obligations.TokenWordsMove : Prop :=
  (∀ (s : State) (g : Guard) (d a : BitVec 5) (c : BitVec 2) (scope : BitVec 3) (t : Tp) (m : TokMsg), Ready s g [d, a] →
      t = curTp s.d → m = { word := sget t d, dst := sget t a, src := t.wid, srcOwner := t.owner, c := c } →
      ((getFloe s.d s.d.curF).heldTok.any (fun h => sameRoute h.msg m) = false → (scope = 0 ∨ t.wi ≤ drained t) →
        LeavesData (.tsend g d a c scope) s { modCur s.d pastWord with net := s.d.net ++ [m] }) ∧
      ((getFloe s.d s.d.curF).heldTok.any (fun h => sameRoute h.msg m) = true ∨ (scope ≠ 0 ∧ drained t < t.wi) →
        LeavesData (.tsend g d a c scope) s (modCur (modFloe s.d s.d.curF (fun fl => { fl with
          heldTok := fl.heldTok ++ [{ msg := m, stamp := if scope = 0 then 0 else t.wi }] })) pastWord)) ∧
      (t.bound.getD c.toNat false = false → Traps (.trecv g d c) s 1 5) ∧
      (t.bound.getD c.toNat false = true →
        (t.bufs.getD c.toNat [] = [] → LeavesData (.trecv g d c) s (modCurSlot s.d (fun sl => { sl with block := .trecv d c }))) ∧
        (∀ w ws, t.bufs.getD c.toNat [] = w :: ws →
          ActsOnTp (.trecv g d c) s (fun t => scalarThen d w.word { t with bufs := t.bufs.set c.toNat ws }))) ∧
      ActsOnTp (.cbindOn g c) s (fun t => pastWord { t with bound := t.bound.set c.toNat true }) ∧
      ActsOnTp (.cbindOff g c) s (fun t => pastWord { t with bound := t.bound.set c.toNat false }) ∧
      (∀ f k, (getSlot s.d f k).block = .trecv d c →
        ((getTp s.d f k).bufs.getD c.toNat [] = [] → exec (.trecvWake f k) s = .next s) ∧
        (∀ w ws, (getTp s.d f k).bufs.getD c.toNat [] = w :: ws → LeavesData (.trecvWake f k) s
          (modSlot s.d f k (fun sl => { sl with
            block := .none, tp := scalarThen d w.word { sl.tp with bufs := sl.tp.bufs.set c.toNat ws } }))))) ∧
  ((∀ (s : State) (i : Nat) (m : TokMsg) (d : Data), (releaseTokens s.d).net[i]? = some m →
      ((releaseTokens s.d).net.take i).any (sameRoute m) = false →
      d = { releaseTokens s.d with net := dropIdx (releaseTokens s.d).net i } →
      (launchOf d m.dst = none →
        (∀ p st, widRoute d m.dst = some p → wordStation d p m.dst = some st →
          LeavesData (.tokenWordArrival i) s { d with sent := (p, st, m) :: d.sent }) ∧
        (widRoute d m.dst = none ∨ (∃ p, widRoute d m.dst = some p ∧ wordStation d p m.dst = none) →
          LeavesData (.tokenWordArrival i) s (deadLetter d m.srcOwner.lid m 2))) ∧
      (∀ r vs n, launchOf d m.dst = some r → widLevels r.hdr m.dst = some vs → n = linearIndex r.hdr vs →
        (r.st = .failed → LeavesData (.tokenWordArrival i) s (deadLetter d r.lid m 4)) ∧
        (r.st ≠ .failed → tpStatus r n = .exited ∨ tpStatus r n = .trapped →
          LeavesData (.tokenWordArrival i) s (deadLetter d r.lid m 1)) ∧
        (r.st ≠ .failed → tpStatus r n = .waiting ∨ tpStatus r n = .parked ∨
            (tpStatus r n = .placed ∧ (r.st ≠ .resident ∨ (∃ f k, findTp d ⟨r.lid, n⟩ = some (f, k) ∧ (getSlot d f k).st ≠ .exiting ∧
              (4 ≤ ((getTp d f k).bufs.getD m.c.toNat []).length ∨ mailFor r n m.c.toNat ≠ [])))) →
          ((mailOf r n).2.2.length < 2 ^ regMbxe r → LeavesData (.tokenWordArrival i) s (mailPut d r n m)) ∧
          (2 ^ regMbxe r ≤ (mailOf r n).2.2.length → LeavesData (.tokenWordArrival i) s (deadLetter d r.lid m 3))) ∧
        (∀ f k, r.st = .resident → tpStatus r n = .placed → findTp d ⟨r.lid, n⟩ = some (f, k) →
          ((getSlot d f k).st = .exiting → LeavesData (.tokenWordArrival i) s (deadLetter d r.lid m 1)) ∧
          ((getSlot d f k).st ≠ .exiting → ((getTp d f k).bufs.getD m.c.toNat []).length < 4 → mailFor r n m.c.toNat = [] →
            LeavesData (.tokenWordArrival i) s (modSlot d f k (fun sl => { sl with
              tp := { sl.tp with bufs := sl.tp.bufs.set m.c.toNat (sl.tp.bufs.getD m.c.toNat [] ++ [m]) },
              block := if sl.block = .parkedInSlot ∧ sl.tp.bound.getD m.c.toNat false = true then .none else sl.block })))))) ∧
    (∀ (s : State) (f k c : Nat) (r : Region) (m : TokMsg) (ms : List TokMsg),
      getRegion s.d (getTp s.d f k).owner.lid = some r → mailFor r (getTp s.d f k).owner.n c = m :: ms →
      ((getSlot s.d f k).st = .live → floeSaved s.d f = false → ((getTp s.d f k).bufs.getD c []).length < 4 →
        (∀ d, mailTake s.d r (getTp s.d f k).owner.n c = (d, .ok ()) →
          LeavesData (.mailboxMove f k c) s (bufPut d f k m)) ∧
        (∀ d e, mailTake s.d r (getTp s.d f k).owner.n c = (d, .error e) →
          LeavesData (.mailboxMove f k c) s (areaFault d r e.1 e.2))) ∧
      (floeSaved s.d f = true → exec (.mailboxMove f k c) s = .next s) ∧
      (4 ≤ ((getTp s.d f k).bufs.getD c []).length → exec (.mailboxMove f k c) s = .next s)))

/-- R39, R44, R45, R269, R410: once everything a TP has issued is done and its floe is not halted, a TP that parks has its
context record in device format, a free slot and the status PARKED, its registers kept for its next placement; one that
exits, or has trapped with its record written, has the words its floe holds released, a free slot and ends EXITED or TRAPPED, its
unread words go to the dead-letter ring with reason 5, and its launch completes with its last TP. A runnable TP passed over for its launch's AGE is
aged. -/
def Obligations.ThreadsEnd : Prop :=
  (∀ (s : State) (f k : Nat) (sl : Slot) (r : Region), sl = getSlot s.d f k → getRegion s.d sl.tp.owner.lid = some r →
    tpDrained sl.tp = true → (getFloe s.d f).halted = false →
    (sl.st = .parking → ∀ d loc, reach s.d (reqFloe f) vaPlace (regCtx r + 1024 * sl.tp.owner.n) 0x3F0 .write = (d, .ok loc) →
      (getSlot (devWrite d loc 0x3F0) f k).st = .parking →
      LeavesData (.parkDrainEnd f k) s
        (modRegion (setStatus (modSlot (devWrite d loc 0x3F0) f k (fun _ => Slot.reset)) r.lid sl.tp.owner.n .parked) r.lid
          (fun r => { r with parkedTps := r.parkedTps ++ [(sl.tp.owner.n, sl)] }))) ∧
    (sl.st = .exiting → ∀ (d e : Data) (st : TpStatus) (i : Instr),
      (i = .tpRetire f k ∧ sl.trapped = false ∧ st = .exited ∧ d = releaseTokens s.d) ∨
        (i = .tpTrapped f k ∧ sl.trapped = true ∧ st = .trapped ∧ recHeldFor s.d f = false ∧
          (∃ c loc, reach s.d (reqFloe f) vaPlace (regCtx r + 1024 * sl.tp.owner.n) 0x3F0 .write = (c, .ok loc) ∧
            (getSlot (devWrite c loc 0x3F0) f k).st = .exiting ∧ d = releaseTokens (devWrite c loc 0x3F0))) →
      getTp d f k = sl.tp → getRegion d sl.tp.owner.lid = some r →
      e = modRegion (setStatus (modSlot (mailEmpty d r sl.tp.owner.n) f k (fun _ => Slot.reset)) r.lid sl.tp.owner.n st) r.lid
        (fun r => { r with mail := assocDel r.mail sl.tp.owner.n }) →
      LeavesData i s (completeLaunch ((sl.tp.bufs.flatMap id ++ (mailOf r sl.tp.owner.n).2.2).foldl
        (fun d m => deadLetter d r.lid m 5) e) r.lid))) ∧
  (∀ (s : State) (f k : Nat), runnable s.d (getFloe s.d f) f k = true → (getSlot s.d f k).mask = false →
    (floeAge s.d (getFloe s.d f) ≤ (getSlot s.d f k).wait →
      LeavesData (.slotAged f k) s (modSlot s.d f k (fun sl => { sl with aged := true }))) ∧
    ((getSlot s.d f k).wait < floeAge s.d (getFloe s.d f) → exec (.slotAged f k) s = .next s))

/-! ## Hardware queues -/

/-- R196, R200, R202, R203, R205, R206, R415: the queue instructions. A handle with a bit outside [8:0] traps with QFAULT 0x02, a
right the queue's access table refuses with ACCESS. QPSH adds s[d] to s[d+3] with the TP's write count: at the tail of a DIRECT
queue with a free place that is not stalled; at the tail of the spill ring of a SPILLING queue with room there, or of a full
DIRECT one that spills, which is SPILLING from then on. It waits where an earlier push waits, where the queue or the ring is full,
and while the queue is stalled, and traps with QFAULT 0x01 or 0x05 at a disabled or faulted queue. QPOP takes the head entry once
poppable and first in line into s[d] to s[d+3] with p[k] its poison, waits else, and traps with QFAULT 0x01 at a disabled queue.
QCTL.stat reads the status word; QCTL.cfg of a disabled queue waits for its descriptor, and traps with QFAULT 0x04 at another;
QCTL.off empties an idle or faulted queue and traps with QFAULT 0x04 at another. -/
def Obligations.QueueInstructionResults : Prop :=
  ∀ (s : State) (g : Guard) (d a : BitVec 5) (t : BitVec 4) (k scope : BitVec 3) (h : Nat) (q : Hwq),
    Ready s g [a, d, d + 1, d + 2, d + 3] → Sound s (predRegs [k]) → h = rn s.d a → q = getQ s.d h →
    (2 ^ 9 ≤ h → Traps (.qpsh g d a scope) s 0x0E 2 ∧ Traps (.qpop g d a k) s 0x0E 2 ∧ Traps (.qctlStat g d a) s 0x0E 2 ∧
      Traps (.qctlOff g a) s 0x0E 2 ∧
      (heldBy (getFloe s.d s.d.curF) (curTp s.d) true false false = false → Sound s (viewRegs (curTp s.d) t) →
        Traps (.qctlCfg g a t) s 0x0E 2)) ∧
    (h < 2 ^ 9 →
      (aclOk s.d (42 + h / 128) s.d.curF 2 (h % 128 * 4096) 1 = false → Traps (.qpsh g d a scope) s 7 2) ∧
      (aclOk s.d (42 + h / 128) s.d.curF 1 (h % 128 * 4096) 1 = false → Traps (.qpop g d a k) s 7 1) ∧
      (aclOk s.d (42 + h / 128) s.d.curF 4 (h % 128 * 4096) 1 = false →
        Traps (.qctlStat g d a) s 7 4 ∧ Traps (.qctlOff g a) s 7 4 ∧
        (heldBy (getFloe s.d s.d.curF) (curTp s.d) true false false = false → Sound s (viewRegs (curTp s.d) t) →
          Traps (.qctlCfg g a t) s 7 4))) ∧
    (h < 2 ^ 9 → aclOk s.d (42 + h / 128) s.d.curF 2 (h % 128 * 4096) 1 = true →
      (h / 128 < s.d.dies.length → h % 128 < (getDie s.d (h / 128)).queues.length → pushWaiters s.d h = [] → q.stalled = false →
        (q.st = .direct → q.hw.length < 32 →
          LeavesData (.qpsh g d a scope) s (modCurSlot
            (modQ s.d h (fun q => { q with
              hw := q.hw ++ [{ data := [rs s.d d, rs s.d (d + 1), rs s.d (d + 2), rs s.d (d + 3)], stamp := (curTp s.d).wi,
                               sc := scope.toNat, mid := s.d.curF,
                               role := s.d.curK * 8 + roleCode (getSlot s.d s.d.curF s.d.curK).role,
                               psn := (if scope = 0 then 0 else lostCause (curTp s.d) (curTp s.d).wi) != 0,
                               cause := if scope = 0 then 0 else lostCause (curTp s.d) (curTp s.d).wi,
                               prod := some (curTp s.d).owner }],
              waitPush := [] }))
            (fun sl => { sl with block := .none, tp := pastWord sl.tp }))) ∧
        (∀ (e : HwqEnt) (d1 d2 : Data), e = pushEntry s.d s.d.curF s.d.curK d scope.toNat →
          (q.st = .spilling ∧ q.ring.length < 2 ^ q.sre) ∨ (q.st = .direct ∧ 32 ≤ q.hw.length ∧ q.spe = true) →
          writeWordsAt s.d (reqRefill (h / 128)) (ringPlace q) (q.sbase + 64 + 64 * (q.tail % 2 ^ q.sre)) (ringWords e)
            = (d1, .ok ()) →
          writeAt d1 (reqRefill (h / 128)) (ringPlace q) (q.sbase + 8) 8 ((q.tail + 1) % 2 ^ 48) false = (d2, .ok ()) →
          h / 128 < d2.dies.length → h % 128 < (getDie d2 (h / 128)).queues.length → getQ d2 h = q →
          LeavesData (.qpsh g d a scope) s (modSlot
            (modQ d2 h (fun q => { q with
              ring := q.ring ++ [e], tail := (q.tail + 1) % 2 ^ 48, st := .spilling, waitPush := [] }))
            s.d.curF s.d.curK (fun sl => { sl with block := .none, tp := pastWord sl.tp })))) ∧
      ((q.st = .direct ∧ (q.stalled = true ∨ (32 ≤ q.hw.length ∧ q.spe = false))) ∨
        (q.st = .spilling ∧ (q.stalled = true ∨ 2 ^ q.sre ≤ q.ring.length)) ∨
        ((q.st = .direct ∨ q.st = .spilling) ∧ pushWaiters s.d h ≠ [] ∧ (pushWaiters s.d h).head? ≠ some (s.d.curF, s.d.curK)) →
        LeavesData (.qpsh g d a scope) s (modCurSlot
          (modQ s.d h (fun q => { q with waitPush := joinWait (pushWaiters s.d h) s.d.curF s.d.curK }))
          (fun sl => { sl with block := .qpsh d scope h }))) ∧
      (q.st = .disabled ∨ q.st = .faulted → LeavesData (.qpsh g d a scope) s
        (trapAt (modQ s.d h (fun q => { q with
            waitPush := (pushWaiters s.d h).filter (fun e => e != (s.d.curF, s.d.curK)) }))
          s.d.curF s.d.curK 0x0E (if q.st = .disabled then 1 else 5) (curTp s.d).pc.toNat
          (getSlot s.d s.d.curF s.d.curK).word 0))) ∧
    (h < 2 ^ 9 → aclOk s.d (42 + h / 128) s.d.curF 1 (h % 128 * 4096) 1 = true →
      (q.st = .disabled → LeavesData (.qpop g d a k) s
        (trapAt (modQ s.d h (fun q => { q with
            waitPop := (popWaiters s.d h).filter (fun e => e != (s.d.curF, s.d.curK)) }))
          s.d.curF s.d.curK 0x0E 1 (curTp s.d).pc.toNat (getSlot s.d s.d.curF s.d.curK).word 0)) ∧
      (q.st ≠ .disabled →
        (∀ e es, q.hw = e :: es → (e.sc = 0 ∨ stampReached s.d e.prod e.stamp = true) → popWaiters s.d h = [] →
          LeavesData (.qpop g d a k) s (modCurSlot (modQ s.d h (fun q => { q with hw := es, waitPop := [] }))
            (fun sl => { sl with block := .none, tp := pastWord (popRegs sl.tp d k e) }))) ∧
        ((q.hw = [] ∨ (∀ e ∈ q.hw.head?, e.sc ≠ 0 ∧ stampReached s.d e.prod e.stamp = false) ∨
            (popWaiters s.d h ≠ [] ∧ (popWaiters s.d h).head? ≠ some (s.d.curF, s.d.curK))) →
          LeavesData (.qpop g d a k) s (modCurSlot
            (modQ s.d h (fun q => { q with waitPop := joinWait (popWaiters s.d h) s.d.curF s.d.curK }))
            (fun sl => { sl with block := .qpop d k h }))))) ∧
    (∀ (e : HwqEnt) (t : Tp),
      (e.psn = false → popRegs t d k e =
        pput (sput (sput (sput (sput t d (e.data.getD 0 0)) (d + 1) (e.data.getD 1 0)) (d + 2) (e.data.getD 2 0)) (d + 3)
          (e.data.getD 3 0)) k false) ∧
      (e.psn = true → popRegs t d k e =
        pput (sput (sput (sput (sput t d
            (BitVec.ofNat 64 (e.cause + e.role * 2 ^ 8 + (e.data.getD 0 0).toNat % 2 ^ 32 * 2 ^ 32)))
          (d + 1) (e.data.getD 1 0)) (d + 2) (e.data.getD 2 0)) (d + 3) (e.data.getD 3 0)) k true)) ∧
    (h < 2 ^ 9 → aclOk s.d (42 + h / 128) s.d.curF 4 (h % 128 * 4096) 1 = true →
      ActsOnTp (.qctlStat g d a) s (scalarThen d (BitVec.ofNat 64 (q.hw.length + (if q.spe then 2 ^ 6 else 0) +
        (if q.v then 2 ^ 7 else 0) + (if q.st = .spilling then 2 ^ 8 else 0) + (if q.st = .faulted then 2 ^ 9 else 0) +
        q.ring.length % 2 ^ 25 * 2 ^ 16))) ∧
      (q.st = .faulted ∨ (q.hw = [] ∧ q.ring = [] ∧ pushWaiters s.d h = [] ∧ popWaiters s.d h = []) →
        LeavesData (.qctlOff g a) s (modCur (modQ s.d h (fun q =>
          { Hwq.reset with waitPush := q.waitPush, waitPop := q.waitPop })) pastWord)) ∧
      (q.st ≠ .faulted → (q.hw ≠ [] ∨ q.ring ≠ [] ∨ pushWaiters s.d h ≠ [] ∨ popWaiters s.d h ≠ []) →
        Traps (.qctlOff g a) s 0x0E 4) ∧
      (heldBy (getFloe s.d s.d.curF) (curTp s.d) true false false = false → Sound s (viewRegs (curTp s.d) t) →
        (q.st ≠ .disabled → Traps (.qctlCfg g a t) s 0x0E 4) ∧
        (∀ cls cause, q.st = .disabled → descCheck s.d (curView s.d t) = some (cls, cause) →
          Traps (.qctlCfg g a t) s cls cause) ∧
        (q.st = .disabled → descCheck s.d (curView s.d t) = none →
          LeavesData (.qctlCfg g a t) s (modCurSlot s.d (fun sl => { sl with block := .issue (.qctlCfg g a t) })))))

/-- R197, R200, R202, R203, R205, R206: a waiting QPSH, first in line at a DIRECT queue that is not stalled, goes on when the queue
has a free place and waits on while it is full and does not spill; a waiting QPOP, first in line at a queue that is not disabled,
takes the head entry once poppable and waits on while there is none; both trap with QFAULT 0x01 where their queue has been
disabled. QCTL.cfg, its descriptor read and its queue still disabled, makes the queue an empty DIRECT one with the descriptor's
spill ring where V is 1 and leaves it where V is 0, and traps with QFAULT 0x03 where the descriptor is malformed. QUEUE_REFILL moves
the ring's oldest entry to the tail of the hardware queue where that has room, and the queue is DIRECT again once the ring is
empty. -/
def Obligations.QueueRequestsEnd : Prop :=
  (∀ (s : State) (f k h : Nat) (r : BitVec 5) (sc : BitVec 3), (getSlot s.d f k).block = .qpsh r sc h →
    ((getQ s.d h).st = .direct → (getQ s.d h).stalled = false →
      ((getQ s.d h).hw.length < 32 → (pushWaiters s.d h).head? = some (f, k) → h / 128 < s.d.dies.length →
        h % 128 < (getDie s.d (h / 128)).queues.length →
        LeavesData (.qpshRetry f k) s (modSlot
          (modQ s.d h (fun q => { q with
            hw := q.hw ++ [pushEntry s.d f k r sc.toNat],
            waitPush := (pushWaiters s.d h).filter (fun e => e != (f, k)) }))
          f k (fun sl => { sl with block := .none, tp := pastWord sl.tp }))) ∧
      (32 ≤ (getQ s.d h).hw.length → (getQ s.d h).spe = false → exec (.qpshRetry f k) s = .next s)) ∧
    ((getQ s.d h).st = .disabled → LeavesData (.qpshRetry f k) s
      (trapAt (modQ s.d h (fun q => { q with waitPush := (pushWaiters s.d h).filter (fun e => e != (f, k)) }))
        f k 0x0E 1 (getTp s.d f k).pc.toNat (getSlot s.d f k).word 0))) ∧
  (∀ (s : State) (f k h : Nat) (r : BitVec 5) (p : BitVec 3), (getSlot s.d f k).block = .qpop r p h →
    ((getQ s.d h).st ≠ .disabled →
      (∀ e es, (getQ s.d h).hw = e :: es → (e.sc = 0 ∨ stampReached s.d e.prod e.stamp = true) →
        (popWaiters s.d h).head? = some (f, k) →
        LeavesData (.qpopWake f k) s (modSlot
          (modQ s.d h (fun q => { q with hw := es, waitPop := (popWaiters s.d h).filter (fun x => x != (f, k)) }))
          f k (fun sl => { sl with block := .none, tp := pastWord (popRegs sl.tp r p e) }))) ∧
      ((getQ s.d h).hw = [] → exec (.qpopWake f k) s = .next s)) ∧
    ((getQ s.d h).st = .disabled → LeavesData (.qpopWake f k) s
      (trapAt (modQ s.d h (fun q => { q with waitPop := (popWaiters s.d h).filter (fun e => e != (f, k)) }))
        f k 0x0E 1 (getTp s.d f k).pc.toNat (getSlot s.d f k).word 0))) ∧
  (∀ (s : State) (f k : Nat) (g : Guard) (a : BitVec 5) (t : BitVec 4) (d d' : Data) (w : List Word),
    (getSlot s.d f k).block = .issue (.qctlCfg g a t) → (getSlot s.d f k).st = .live →
    earlierPending (getTp s.d f k) = false → (getFloe s.d f).halted = false →
    d = { s.d with curF := f, curK := k, curW := (getSlot s.d f k).word } →
    readWordsAt d (reqFloe f) { space := 1, psp := 0, pmod := 0 } (lvAddr (curView d t)) 8 = (d', .ok w) →
    (getQ d' (rn d' a)).st = .disabled → d'.curF = f → d'.curK = k →
    (queueDescBad w = false → (w.getD 0 0).getLsbD 0 = true → LeavesData (.issueCompletion f k) s (modSlot
      (modQ d' (rn d' a) (fun _ => { Hwq.reset with
        st := .direct, v := true, spe := (w.getD 0 0).getLsbD 1, ssp := (w.getD 0 0).toNat / 2 ^ 4 % 2 ^ 4,
        sre := (w.getD 0 0).toNat / 2 ^ 8 % 2 ^ 8, sbase := (w.getD 1 0).toNat / 2 ^ 6 % 2 ^ 46 * 64 }))
      f k (fun sl => { sl with block := .none, tp := pastWord sl.tp }))) ∧
    (queueDescBad w = false → (w.getD 0 0).getLsbD 0 = false → LeavesData (.issueCompletion f k) s
      (modSlot d' f k (fun sl => { sl with block := .none, tp := pastWord sl.tp }))) ∧
    (queueDescBad w = true → LeavesData (.issueCompletion f k) s (trap d' 0x0E 3))) ∧
  (∀ (s : State) (h : Nat) (e : HwqEnt) (es : List HwqEnt) (q : Hwq) (d d' : Data) (ws : List Word), q = getQ s.d h →
    q.ring = e :: es → q.stalled = false → q.hw.length < 32 → q.st = .spilling →
    readWordsAt s.d (reqRefill (h / 128)) (ringPlace q) (q.sbase + 64 + 64 * (q.head % 2 ^ q.sre)) 8 = (d, .ok ws) →
    writeAt d (reqRefill (h / 128)) (ringPlace q) q.sbase 8 ((q.head + 1) % 2 ^ 48) false = (d', .ok ()) →
    LeavesData (.queueRefill h) s (modQ d' h (fun q => { q with
      hw := q.hw ++ [e], ring := es, head := (q.head + 1) % 2 ^ 48, st := if es = [] then .direct else .spilling })))

/-! ## The Firn layout engines -/

/-- R23, R66, R70, R71, R73, R75, R98, R115, R274, R382, R383: a LAY whose operands pass the issue checks joins its die's
queue with copies of the two layout entries and its mapping word, its tag clear; a failed check traps and a full queue waits.
LAY_START gives the oldest command to the lowest-numbered idle engine. STREAM_ELEMENT copies the next element, bits unchanged,
from where the mapping word places it: a FLOE source or destination uses the banks of its granules, and a FLOE destination is
written among the writes of the floe's cycle. An element that cannot be read or written stops the command at it with its
record. Nothing moves while the command is stopped or done, its record is unwritten, or, where it touches FLOE space, its floe
is halted, away or frozen (that a freeze stops it is the model's choice, log 177). LAY_COMPLETE, with every element
written, frees the engine and sets the tag. -/
def Obligations.LayoutEngineRuns : Prop :=
  (∀ (s : State) (g : Guard) (tag : BitVec 6) (a b : BitVec 5) (src dst : Option (List Word)), Ready s g [a, b] →
    (tag = 0 ∨ (curTp s.d).busy.contains tag = false) → heldBy (getFloe s.d s.d.curF) (curTp s.d) true true false = false →
    src = (getFloe s.d s.d.curF).lcache.getD (rn s.d b % 2 ^ 6) none →
    dst = (getFloe s.d s.d.curF).lcache.getD (rn s.d b / 2 ^ 8 % 2 ^ 6) none →
    (∀ cls cause, layCheck s.d (rs s.d a) (rs s.d b) src dst = some (cls, cause) → Traps (.lay g tag a b) s cls cause) ∧
    (layCheck s.d (rs s.d a) (rs s.d b) src dst = none →
      ((getDie s.d (dieOf s.d.curF)).firnQ.length < firnQueueSize →
        LeavesData (.lay g tag a b) s (modCur (layQueue s.d tag (rs s.d a) (src.getD []) (dst.getD [])) pastWord)) ∧
      (firnQueueSize ≤ (getDie s.d (dieOf s.d.curF)).firnQ.length →
        LeavesData (.lay g tag a b) s (modCurSlot s.d (fun sl => { sl with block := .stall .firn }))))) ∧
  (∀ (s : State) (die n : Nat) (c : LayCmd) (cs : List LayCmd), (getDie s.d die).firnQ = c :: cs →
    (getDie s.d die).firn.findIdx? Option.isNone = some n → afterDone s.d c.owner c.after = true →
    LeavesData (.layStart die) s (modDie s.d die (fun x => { x with firnQ := cs, firn := x.firn.set n (some c) }))) ∧
  (∀ (s : State) (die n : Nat) (c : LayCmd) (sx dx : List Int) (touches : Prop), firnCmd s.d die n = some c →
    sx = (dmSource c.dmw ((dmExt c.dmw c.src).getD []) c.pos).map (fun (i : Nat) => (i : Int)) →
    dx = (digits ((List.range (lteRank c.dst)).map (lteExt c.dst)) c.pos).map (fun (i : Nat) => (i : Int)) →
    touches = (lteSpace c.src = 0 ∨ lteSpace c.dst = 0) →
    (c.stopped = true ∨ unitHeld s.d 3 die n = true ∨ layTotal c ≤ c.pos ∨
      (touches ∧ (layHalted s.d c = true ∨ (getFloe s.d c.floe).frozen = true)) →
      exec (.streamElement (.firn die n)) s = .next s) ∧
    (c.stopped = false → unitHeld s.d 3 die n = false → c.pos < layTotal c → layHalted s.d c = false →
      ¬ (touches ∧ (getFloe s.d c.floe).frozen = true) →
      (∀ d fc, reachElem s.d (reqFloe c.floe) c.src sx .read = (d, .error fc) →
        LeavesData (.streamElement (.firn die n)) s (layStop d die n c false (elemAddr c.src sx) fc)) ∧
      (∀ d d' d2 ps qs fc, reachElem s.d (reqFloe c.floe) c.src sx .read = (d, .ok ps) →
        d2 = (if lteSpace c.src = 0 then useBanks d' c.floe ps else d') →
        (reachElem d (reqFloe c.floe) c.dst dx .write = (d', .error fc) →
          LeavesData (.streamElement (.firn die n)) s (layStop d' die n c true (elemAddr c.dst dx) fc)) ∧
        (reachElem d (reqFloe c.floe) c.dst dx .write = (d', .ok qs) →
          (lteSpace c.dst ≠ 0 → LeavesData (.streamElement (.firn die n)) s
            (setFirn (wordWrite d2 [(qs, pieceRead d2 ps)] (piecePoisoned d2 ps) 0 (lteFmt c.dst)) die n
              (some { c with pos := c.pos + 1 }))) ∧
          (lteSpace c.dst = 0 → LeavesData (.streamElement (.firn die n)) s
            (setFirn (modFloe (useBanks d2 c.floe qs) c.floe (fun fl => { fl with writes := fl.writes ++
                [{ src := 3, key := 8 * die + n, elems := [(qs, pieceRead d2 ps)], psn := piecePoisoned d2 ps, mode := 0,
                   fmt := lteFmt c.dst, part := false }] })) die n
              (some { c with pos := c.pos + 1 }))))))) ∧
  (∀ (s : State) (die n : Nat) (c : LayCmd), firnCmd s.d die n = some c → layTotal c ≤ c.pos →
    (getFloe s.d c.floe).writes.any (fun w => w.src == 3 && w.key == 8 * die + n) = false →
    LeavesData (.layComplete die n) s (modOwner (setFirn s.d die n none) c.owner (fun t => { t with
      tags := if c.tag = 0 then t.tags else t.tags ||| BitVec.ofNat 64 (2 ^ c.tag.toNat),
      busy := t.busy.erase c.tag, undone := t.undone.filter (fun x => x != c.wno) })))

/-! ## The embedding engine -/

/-- R91, R201, R223, R224, R225, R350: EGAT, EUPD and EPIN with a free tag: a block tile that is unbound or not L2 and 64-byte
aligned traps with TILE 0x10 or 0x1F, an L2 address out of its form with SPACE (log entry 134), a count above 2^24 with ENGINE
0x32; otherwise the issue waits for the command block and
the descriptor. With both read and well formed the command joins its die's engine under the next number, its tag clear,
counted as one write, and the TP goes on; a descriptor address of no space an engine reads, or a misaligned one, traps with
ENGINE 0x30 or 0x31, a malformed descriptor with 0x31, a malformed block with 0x30, an update of a table with no optimiser
with 0x33, and one that will ask an absent module of its table, an EPIN FLUSH or INVAL of the whole table too, with SPACE 0x04 (at
issue, and which commands ask: the model's choice, log entries 53 and 154). -/
def Obligations.EngineCommandsIssue : Prop :=
  ∀ (g : Guard) (tag : BitVec 6) (n : BitVec 4) (a : BitVec 5) (op : Nat) (i : Instr),
    (op, i) ∈ [(1, Instr.egat g tag n a), (2, .eupd g tag n a), (3, .epin g tag n a)] →
    (∀ s : State, Ready s g [a] → Sound s (viewRegs (curTp s.d) n) → (tag = 0 ∨ (curTp s.d).busy.contains tag = false) →
      heldBy (getFloe s.d s.d.curF) (curTp s.d) true true false = false →
      (curView s.d n = none → Traps i s 4 0x10) ∧
      (∀ v, curView s.d n = some v →
        (lteSpace v.lte ≠ 1 ∨ elemAligned64 v.lte (winCoords v 0 0) = false → Traps i s 4 0x1F) ∧
        (lteSpace v.lte = 1 → elemAligned64 v.lte (winCoords v 0 0) = true → elemInt v.lte (winCoords v 0 0) < 0 →
          Traps i s 3 2)) ∧
      (∀ cls cause, blockTile s.d n = .error (cls, cause) → Traps i s cls cause) ∧
      (∀ e ad, blockTile s.d n = .ok (e, ad) →
        (2 ^ 24 < rn s.d a → Traps i s 0x10 0x32) ∧
        (rn s.d a ≤ 2 ^ 24 → LeavesData i s (modCurSlot s.d (fun sl => { sl with block := .issue i }))))) ∧
    (∀ (s : State) (f k : Nat) (d d1 : Data) (e b : List Word) (ad : Nat), (getSlot s.d f k).block = .issue i →
      (getSlot s.d f k).st = .live → earlierPending (getTp s.d f k) = false → (getFloe s.d f).halted = false →
      d = { s.d with curF := f, curK := k, curW := (getSlot s.d f k).word } → blockTile d n = .ok (e, ad) →
      readWordsAt d (reqFloe f) (ltePlace e) ad 8 = (d1, .ok b) →
      (blkAddrOk (b.getD 0 0) = false → LeavesData (.issueCompletion f k) s (trap d1 0x10 0x30)) ∧
      (blkAddrOk (b.getD 0 0) = true →
        ((b.getD 0 0).toNat / 2 ^ 52 % 2 ^ 4 = 5 ∨ (b.getD 0 0).toNat % 2 ^ 6 ≠ 0 →
          LeavesData (.issueCompletion f k) s (trap d1 0x10 0x31)) ∧
        (∀ d2 t, (b.getD 0 0).toNat / 2 ^ 52 % 2 ^ 4 ≠ 5 → (b.getD 0 0).toNat % 2 ^ 6 = 0 →
          readWordsAt d1 (reqFloe d1.curF) (placeOf (b.getD 0 0)).1 (placeOf (b.getD 0 0)).2 8 = (d2, .ok t) →
          (descBad t = true → LeavesData (.issueCompletion f k) s (trap d2 0x10 0x31)) ∧
          (descBad t = false → blockBad op (rn d1 a) b = true → LeavesData (.issueCompletion f k) s (trap d2 0x10 0x30)) ∧
          (descBad t = false → blockBad op (rn d1 a) b = false → op = 2 → edOpt t = 0 →
            LeavesData (.issueCompletion f k) s (trap d2 0x10 0x33)) ∧
          (descBad t = false → blockBad op (rn d1 a) b = false → (op = 2 → edOpt t ≠ 0) →
            (op = 2 ∨ rn d1 a ≠ 0 ∨ (op = 3 ∧ (b.getD 2 0).toNat % 8 ∈ [4, 5])) → tabAbsent d2 t = true → LeavesData (.issueCompletion f k) s (trap d2 3 4)) ∧
          (descBad t = false → blockBad op (rn d1 a) b = false → (op = 2 → edOpt t ≠ 0) →
            (op ≠ 2 ∧ rn d1 a = 0 ∧ (op = 3 → (b.getD 2 0).toNat % 8 ∉ [4, 5])) ∨ tabAbsent d2 t = false →
            LeavesData (.issueCompletion f k) s (embBegin d2 op tag (rn d1 a) b t))))) ∧
    (∀ (d : Data) (b t : List Word) (m : Nat), embBegin d op tag m b t = modCurSlot
      (modDie d (dieOf d.curF) (fun c => { c with emb := { c.emb with
        nextId := c.emb.nextId + 1,
        cmds := c.emb.cmds ++ [{ op := op, id := c.emb.nextId, owner := (curTp d).owner, tag := tag, n := m, block := b,
                                 tab := t, pos := 0, bad := [], rows := [], asked := [], bags := [], coalesced := false,
                                 waiting := [], redo := [], stopped := none, failAt := none, wno := (curTp d).wi + 1,
                                 after := pendAccesses (curTp d) }] } }))
      (fun sl => { sl with block := .none, tp := pastWord { sl.tp with
        tags := if tag = 0 then sl.tp.tags else sl.tp.tags &&& ~~~(BitVec.ofNat 64 (2 ^ tag.toNat)),
        busy := sl.tp.busy ++ [tag], wi := sl.tp.wi + 1, undone := sl.tp.undone ++ [sl.tp.wi + 1] } }))

/-- R222, R225, R226, R227, R230: a look-up of a running EGAT reads its index, skips a row the table lacks, keeps the
values of a row at home here, widened to FP32, with its poison, and asks another module's engine for one at home there.
A bag whose bounds are malformed gives a row of NaNs and is counted bad; another, once all its rows are looked up, gives
their pooled sum, bad where a row was absent or poisoned. Each bag is written once, at its place in the output array.
Ageing halves the counts of the set it falls due for. R226, R228, R229, R231: a running EUPD sums its gradients row by
row in order of position, sends each sum to the row's home and a close to every engine of the table. At the home a
contribution that is not a second one of its module for the row joins its step, a close counts once for its module, and
updates whose closes have all come are applied in step order. A command whose work is done, or that a fault has ended,
writes its status and leaves the engine, its tag set and its counted write performed, or, of one that a fault has ended,
lost (R208; with cause 2: the model's choice, log entry 162). -/
def Obligations.EngineLookUpsAndUpdates : Prop :=
  ((∀ (s : State) (die c p b row : Nat) (x : EmbCmd) (d : Data), embAt s.d die c = some x → x.op = 1 → embRuns s.d die x = true →
      x.rows.any (fun r => r.1 == p) = false → p ∉ x.asked → posWanted s.d die x p = some b →
      readIdx s.d die (x.block.getD 1 0) p = (d, .ok row) →
      (edNrows x.tab ≤ row → LeavesData (.rowLookUp die c p) s d) ∧
      (row < edNrows x.tab → engLocal d (rowHome d x.tab row) = false → embLink d die (rowHome d x.tab row) 1 = none →
        LeavesData (.rowLookUp die c p) s
          (modEmbId { d with embSent := (rowHome d x.tab row, embStation d (rowHome d x.tab row), .lookUp (engHere d die) x.id p x.tab row) :: d.embSent } die x.id
            (fun y => { y with asked := p :: y.asked }))) ∧
      (∀ d' bs psn, row < edNrows x.tab → engLocal d (rowHome d x.tab row) = true →
        embLink d die (rowHome d x.tab row) 1 = none →
        rowGet d (rowHome d x.tab row % 4) x.tab row = (d', .ok (bs, psn)) →
        LeavesData (.rowLookUp die c p) s
          (modEmbId d' die x.id (fun y => { y with rows := (p, rowValues y.tab bs, psn) :: y.rows })))) ∧
    (∀ (s : State) (die c b lo hi : Nat) (x : EmbCmd) (d d' : Data), embAt s.d die c = some x → x.op = 1 →
      embRuns s.d die x = true → b < x.n → b ∉ x.bags → readIdx s.d die (x.block.getD 3 0) b = (d, .ok lo) →
      readIdx d die (x.block.getD 3 0) (b + 1) = (d', .ok hi) →
      (hi < lo ∨ 1024 < hi - lo →
        LeavesData (.egatBag die c b) s (bagWrite d' die x b (List.replicate (edD x.tab) .nan) true false (fun _ => false))) ∧
      (∀ e ts, lo ≤ hi → hi - lo ≤ 1024 → bagTerms d' die x lo (hi - lo) = (e, .ok ts) →
        (.missing ∈ ts → LeavesData (.egatBag die c b) s e) ∧
        (.missing ∉ ts → ∀ psn : Bool, (psn = true ↔ ∃ w v, Term.row w v true ∈ ts) →
          LeavesData (.egatBag die c b) s
            (bagWrite e die x b (poolSum (edD x.tab) ts) (psn || ts.contains .absent) psn
              (fun p => decide (lo ≤ p) && decide (p < hi)))))) ∧
    (∀ (d d' : Data) (die b a : Nat) (x : EmbCmd) (v : List Fp) (bad psn : Bool) (used : Nat → Bool),
      a = (placeOf (x.block.getD 4 0)).2 + 16 * ((x.block.getD 5 0).toNat % 2 ^ 20) * b →
      writeBytesAt d (reqEmb die) (placeOf (x.block.getD 4 0)).1 psn ((outBytes x v).length / 4096 + 2) a (outBytes x v)
        = (d', .ok ()) →
      bagWrite d die x b v bad psn used = modEmbId d' die x.id (fun y => { y with
        bad := if bad = true ∧ b ∉ y.bad then b :: y.bad else y.bad, bags := b :: y.bags,
        rows := y.rows.filter (fun r => ! used r.1), asked := y.asked.filter (fun p => ! used p) })) ∧
    (∀ (s : State) (die set : Nat),
      (set ∈ (getEmb s.d die).due → LeavesData (.moraineAgeing die set) s (modEmb s.d die (fun e => { e with
        due := e.due.erase set,
        units := e.units.map (fun u => if u.set = set then { u with count := u.count / 2 } else u) }))) ∧
      (set ∉ (getEmb s.d die).due → die < s.d.dies.length → exec (.moraineAgeing die set) s = .next s))) ∧
  ((∀ (s : State) (die c : Nat) (x : EmbCmd) (d d' : Data) (l : List (Nat × Nat)) (sums : List (Nat × Nat × List Fp)),
      embAt s.d die c = some x → x.op = 2 → embRuns s.d die x = true → x.coalesced = false →
      batchRows s.d die x 0 x.n = (d, .ok l) →
      batchSums d die x [] (sortBy (fun a b => decide (a.1 < b.1) || (a.1 == b.1 && decide (a.2 ≤ b.2)))
        (l.filter (fun e => decide (e.1 < edNrows x.tab)))) = (d', .ok sums) →
      (∀ e ∈ tabEngines x.tab, embLink d' die e 3 = none) →
      LeavesData (.eupdCoalesce die c) s (sendSums (modEmbId d' die x.id (fun y => { y with
        coalesced := true, bad := (l.filter (fun e => decide (edNrows x.tab ≤ e.1))).map (fun e => e.2),
        waiting := sums.map (fun e => (e.1, e.2.1)) })) die x sums)) ∧
    (∀ (s : State) (die i src step module row engine id : Nat) (t : List Word) (g p : List (BitVec 32)) (d : Data) (x : Contrib),
      inboxAt (getEmb s.d die) i = some (.contribution src t step module row g p engine id) → d = inboxDrop s.d die i →
      x = { module := module, row := row, g := g, p := p, engine := engine, id := id } →
      dirFind (getEmb d die) (edTid t) row = none → hashHome t row = engHere d die →
      migrFind (getEmb d die) (edTid t) row = none →
      ((stepFind (getEmb d die) (edTid t) step).any (fun s => s.applied.contains row ||
          s.contribs.any (fun y => y.module == module && y.row == row)) = false →
        LeavesData (.eupdContribution die i) s
          (applyReady (stepMod d die t step (fun s => { s with contribs := s.contribs ++ [x] })) die (edTid t))) ∧
      ((stepFind (getEmb d die) (edTid t) step).any (fun s => s.applied.contains row ||
          s.contribs.any (fun y => y.module == module && y.row == row)) = true →
        LeavesData (.eupdContribution die i) s (contribEnd d engine id row true none))) ∧
    (∀ (s : State) (die i src step module : Nat) (t : List Word) (d : Data),
      inboxAt (getEmb s.d die) i = some (.close src t step module true) → d = inboxDrop s.d die i →
      LeavesData (.eupdClose die i) s (applyReady (stepMod d die t step (fun s =>
        if s.closes.contains (module, 1 + src) then s else { s with closes := (module, 1 + src) :: s.closes })) die (edTid t))) ∧
    (∀ (s : State) (die i src step module : Nat) (t : List Word) (d : Data),
      inboxAt (getEmb s.d die) i = some (.close src t step module false) → d = inboxDrop s.d die i →
      (getEmb d die).dir.any (fun x => x.1 == edTid t) = false → die < d.dies.length →
      LeavesData (.eupdClose die i) s (applyReady (stepMod d die t step (fun s =>
        if s.closes.contains (module, 0) then s else { s with closes := (module, 0) :: s.closes })) die (edTid t))) ∧
    (∀ (s : State) (die c : Nat) (x : EmbCmd) (d e : Data), embAt s.d die c = some x → x.stopped = none →
      (x.failAt.isSome = true ∨ embDone x = true) → afterDone s.d x.owner x.after = true → unitHeld s.d 4 die 0 = false →
      writeAt s.d (reqEmb die) (placeOf (x.block.getD 7 0)).1 (placeOf (x.block.getD 7 0)).2 8 (embStatus x) false
        = (d, .ok ()) →
      e = modDie d die (fun y => { y with emb := { y.emb with cmds := y.emb.cmds.filter (fun z => z.id != x.id) } }) →
      LeavesData (.engineComplete die c) s (modOwner (if x.failAt.isSome then engineLoses e x.owner x.wno else e)
        x.owner (fun t => { t with
          tags := if x.tag = 0 then t.tags else t.tags ||| BitVec.ofNat 64 (2 ^ x.tag.toNat),
          busy := t.busy.erase x.tag, undone := t.undone.filter (fun n => n != x.wno) }))))

/-- R230, R231: the next item of a running EPIN whose row has its home at an engine of this module. PIN pins a cached row
whose set's pinned ways stay within twelve and counts another bad; UNPIN unpins a row that was not migrated in; PREFETCH of
a cached row changes nothing; MIGRATE waits while its row or an earlier row of its command migrates there, and else marks the row; FLUSH and INVAL of a clean cached row keep it and drop it; SETK sets the
engine's K. A row with no step left is sent to its target, and the actions that waited for it go on; the marker makes the new home its
home. (Which of these count as accesses of a row's unit, what becomes of a copy that cannot be placed, that rows in migration count
to the 4,096, and that the copy to another module is answered before the commit are the model's choices: logs 56, 153, 191 and 178.) -/
def Obligations.EngineResidency : Prop :=
  (∀ (s : State) (die c row home : Nat) (x : EmbCmd) (d : Data) (u : MorUnit) (next : (EmbCmd → EmbCmd) → Data → Data),
    embAt s.d die c = some x → x.op = 3 → embRuns s.d die x = true → x.pos < x.n → x.redo = [] →
    readIdx s.d die (x.block.getD 1 0) x.pos = (d, .ok row) → row < edNrows x.tab → engLocal d (rowHome d x.tab row) = true →
    embLink d die (rowHome d x.tab row) (actRight (epAct x)) = none →
    home = rowHome d x.tab row % 4 →
    next = (fun h d => modEmbId d die x.id (fun y => { h y with pos := y.pos + 1 })) →
    unitFind (getEmb d home) x.tab row = some u →
    (epAct x = 0 → u.pinned = false →
      (waysPinned (getEmb d home) u.set + u.ways.length ≤ 12 → LeavesData (.epinPin die c) s
        (next id (unitMod d home x.tab row (fun u => { u with pinned := true })))) ∧
      (12 < waysPinned (getEmb d home) u.set + u.ways.length → LeavesData (.epinPin die c) s
        (next (fun y => { y with bad := if y.bad.contains x.pos then y.bad else x.pos :: y.bad }) d))) ∧
    (epAct x = 1 → holdsIn (getEmb d home) (edTid x.tab) row = false → LeavesData (.epinUnpin die c) s
      (next id (unitMod d home x.tab row (fun u => { u with pinned := false })))) ∧
    (epAct x = 2 → LeavesData (.epinPrefetch die c) s (next id d)) ∧
    (epAct x = 3 → migrFind (getEmb d home) (edTid x.tab) row ≠ none ∨
        (∃ m ∈ (getEmb d home).migrating, m.engine = engHere d die ∧ m.id = x.id) → LeavesData (.epinMigrate die c) s d) ∧
    (epAct x = 3 → migrFind (getEmb d home) (edTid x.tab) row = none →
      (∀ m ∈ (getEmb d home).migrating, m.engine = engHere d die → m.id ≠ x.id) → edMbase x.tab ≤ epTarget x / 4 →
      epTarget x / 4 < edMbase x.tab + edNmod x.tab → hashHome x.tab row = engHere d home → epTarget x ≠ engHere d home →
      (getEmb d home).dir.length +
        ((getEmb d home).migrating.filter (fun m => hashHome m.tab m.row == engHere d home)).length < 4096 → LeavesData (.epinMigrate die c) s
        (next (fun y => { y with waiting := y.waiting ++ [(row, x.pos)] }) (modEmb d home (fun e => { e with
          migrating := e.migrating ++ [{ tab := x.tab, row := row, target := epTarget x, engine := engHere d die, id := x.id,
                                         pos := x.pos, heldMsgs := [], heldActs := [], sent := false }] })))) ∧
    (u.dirty = false → (getEmb d home).units.filter (fun v => edTid v.tab == edTid x.tab && v.row == row) = [u] →
      (epAct x = 4 → LeavesData (.epinFlush die c) s (next id d)) ∧
      (epAct x = 5 → u.pinned = false → LeavesData (.epinInval die c) s (next id (unitDrop d home u.tab u.row))))) ∧
  (∀ (s : State) (die c : Nat) (x : EmbCmd), embAt s.d die c = some x → x.op = 3 → embRuns s.d die x = true → x.n = 0 →
    x.pos = 0 → x.redo = [] → epAct x = 6 → LeavesData (.epinSetk die c) s
      (modEmbId (modEmb s.d die (fun e => { e with k := (x.block.getD 2 0).toNat / 2 ^ 8 % 2 ^ 5 })) die x.id
        (fun y => { y with pos := y.pos + 1 }))) ∧
  (∀ (s : State) (die tid row : Nat) (m : Migr) (u : MorUnit), migrFind (getEmb s.d die) tid row = some m →
    unitFind (getEmb s.d die) m.tab row = some u →
    (rowQuiet (getEmb s.d die) tid row = true → awaitsMarker (getEmb s.d die) tid row = false → engStill s.d die = false →
      m.sent = false → embLink s.d die m.target 2 = none →
      (engLocal s.d m.target = true → LeavesData (.migrateCommit die tid row) s
        (actsResume (commitMigr (copyIn s.d (m.target % 4) (engHere s.d die) m.tab m.row u.bytes u.psn
          (stepsApplied (getEmb s.d die) (edTid m.tab) m.row)) die m) die m.heldActs)) ∧
      (engLocal s.d m.target = false → LeavesData (.migrateCommit die tid row) s
        (modEmb (embSend s.d m.target (.rowCopy (engHere s.d die) m.tab m.row u.bytes u.psn
            (stepsApplied (getEmb s.d die) (edTid m.tab) m.row))) die (fun e => { e with
          migrating := e.migrating.map (fun x =>
            if edTid x.tab == edTid m.tab && x.row == m.row then { x with sent := true } else x) })))) ∧
    (rowQuiet (getEmb s.d die) tid row = false ∨ awaitsMarker (getEmb s.d die) tid row = true ∨ engStill s.d die = true ∨
      m.sent = true → exec (.migrateCommit die tid row) s = .next s)) ∧
  (∀ (s : State) (die i src tid row : Nat), inboxAt (getEmb s.d die) i = some (.relayEnd src tid row) →
    LeavesData (.relayEnd die i) s (markerArrive (inboxDrop s.d die i) die tid row))

/-! ## The solver sequencers -/

/-- R234, R235, R240, R241, R243, R244, R245, R435: with a handle of a solver and the access rights. SSQ.cfg and SSQ.go wait
for their block, or trap with ENGINE 0x41 while a run is in progress and 0x42 where .go finds nothing loaded, the solver's last cause from
then on (that a cause raised at issue is the last cause too, and that a second .cfg joins the queue behind a load in progress, are
the model's choices, logs 68 and 69). Once the block is read, .cfg of a block that passes its checks queues the load of its tables under its tag, and
another traps with 0x43; .go of the loaded block, with its graph's ports exposed and free, begins the run under its tag, and traps with
0x42 at another block and 0x46 at those ports. SSQ.stat reads
state, last cause, running slots and rounds; SSQ.stop lets a run end after its round and is done at once without one. A load
whose tables pass their checks makes the solver READY; one with a bad method or coefficient set fails with 0x44, and one with a
bad slot with 0x45; what a fault has ended is over, its tags set, once its record is accepted (R23). On a solver that no fault and no unwritten record holds, a round starts with every running slot active and one more round
counted. While the run's region
has the graph floe, an error word counts for the active slot it names, the first one only. The decision waits for every active slot's
error. A run with no slot running, or with a stop pending, between rounds ends at the next decision. -/
def Obligations.SolverRuns : Prop :=
  (∀ (s : State) (g : Guard) (d a : BitVec 5) (t : BitVec 4) (tag : BitVec 6) (x : Solver), Ready s g [d, a] →
    (tag = 0 ∨ (curTp s.d).busy.contains tag = false) → Sound s (viewRegs (curTp s.d) t) →
    heldBy (getFloe s.d s.d.curF) (curTp s.d) true true false = false →
    heldBy (getFloe s.d s.d.curF) (curTp s.d) true false false = false → x = getSol s.d (rn s.d a / 4) (rn s.d a % 4) →
    (2 ^ 4 ≤ rn s.d a → Traps (.ssqCfg g a t tag) s 0x10 0x40 ∧ Traps (.ssqGo g a t tag) s 0x10 0x40 ∧
      Traps (.ssqStat g d a) s 0x10 0x40 ∧ Traps (.ssqStop g a tag) s 0x10 0x40) ∧
    (rn s.d a < 2 ^ 4 →
      (aclOk s.d (38 + rn s.d a / 4) s.d.curF 1 (rn s.d a % 4 * 4096) 1 = true →
        ActsOnTp (.ssqStat g d a) s (scalarThen d (BitVec.ofNat 64 ((match x.st with
            | .idle => 0
            | .ready => 1
            | .running => 2
            | .stopping => 3) + x.cause % 2 ^ 8 * 2 ^ 8 + (x.samples.filter (fun y => y.st == 1)).length % 2 ^ 11 * 2 ^ 16
          + x.rounds % 2 ^ 32 * 2 ^ 32)))) ∧
      (aclOk s.d (38 + rn s.d a / 4) s.d.curF 4 (rn s.d a % 4 * 4096) 1 = true →
        (∀ e ad, blockTile s.d t = .ok (e, ad) →
          (x.st = .running ∨ x.st = .stopping →
            LeavesData (.ssqCfg g a t tag) s (trapped (modSol s.d (rn s.d a / 4) (rn s.d a % 4) (fun y => { y with cause := 0x41 }))
              0x10 0x41 0) ∧
            LeavesData (.ssqGo g a t tag) s (trapped (modSol s.d (rn s.d a / 4) (rn s.d a % 4) (fun y => { y with cause := 0x41 }))
              0x10 0x41 0)) ∧
          (x.st = .idle → LeavesData (.ssqGo g a t tag) s
            (trapped (modSol s.d (rn s.d a / 4) (rn s.d a % 4) (fun y => { y with cause := 0x42 })) 0x10 0x42 0)) ∧
          (x.st = .ready → LeavesData (.ssqGo g a t tag) s
            (modCurSlot s.d (fun sl => { sl with block := .issue (.ssqGo g a t tag) }))) ∧
          (x.st = .idle ∨ x.st = .ready → LeavesData (.ssqCfg g a t tag) s
            (modCurSlot s.d (fun sl => { sl with block := .issue (.ssqCfg g a t tag) })))) ∧
        (x.st = .running ∨ x.st = .stopping → LeavesData (.ssqStop g a tag) s
          (modSol (modCur s.d (fun t => pastWord { t with
              tags := if tag = 0 then t.tags else t.tags &&& ~~~(BitVec.ofNat 64 (2 ^ tag.toNat)), busy := t.busy ++ [tag] }))
            (rn s.d a / 4) (rn s.d a % 4) (fun y => { y with
              st := .stopping, stopTags := y.stopTags ++ [((curTp s.d).owner, tag)] }))) ∧
        (x.st = .idle ∨ x.st = .ready → LeavesData (.ssqStop g a tag) s
          (solTag (modCur s.d (fun t => pastWord { t with
              tags := if tag = 0 then t.tags else t.tags &&& ~~~(BitVec.ofNat 64 (2 ^ tag.toNat)), busy := t.busy ++ [tag] }))
            (curTp s.d).owner tag))))) ∧
  (∀ (s : State) (f k : Nat) (go : Bool) (i : Instr) (g : Guard) (a : BitVec 5) (t : BitVec 4) (tag : BitVec 6) (d d1 : Data)
      (e b : List Word) (ad v : Nat) (x : Solver),
    (go = false ∧ i = .ssqCfg g a t tag) ∨ (go = true ∧ i = .ssqGo g a t tag) → (getSlot s.d f k).block = .issue i →
    (getSlot s.d f k).st = .live → earlierPending (getTp s.d f k) = false → (getFloe s.d f).halted = false →
    d = { s.d with curF := f, curK := k, curW := (getSlot s.d f k).word } → v = rn d a →
    solIssueCheck d go (rs d a) t = none → blockTile d t = .ok (e, ad) →
    readWordsAt d (reqFloe f) (ltePlace e) ad 8 = (d1, .ok b) → x = getSol d1 (v / 4) (v % 4) →
    (go = false →
      (solBlockBad (v / 4) b = true → LeavesData (.issueCompletion f k) s
        (trap (modSol d1 (v / 4) (v % 4) (fun y => { y with cause := 0x43 })) 0x10 0x43)) ∧
      (solBlockBad (v / 4) b = false → LeavesData (.issueCompletion f k) s (modCurSlot
        (modSol d1 (v / 4) (v % 4) (fun y => { y with loads := y.loads ++ [(b, (curTp d1).owner, tag)] }))
        (fun sl => { sl with block := .none, tp := pastWord { sl.tp with
          tags := if tag = 0 then sl.tp.tags else sl.tp.tags &&& ~~~(BitVec.ofNat 64 (2 ^ tag.toNat)),
          busy := sl.tp.busy ++ [tag] } })))) ∧
    (go = true →
      (b.take 7 ≠ x.block.take 7 → LeavesData (.issueCompletion f k) s
        (trap (modSol d1 (v / 4) (v % 4) (fun y => { y with cause := 0x42 })) 0x10 0x42)) ∧
      (b.take 7 = x.block.take 7 → graphPortsBad d1 x.block = true → LeavesData (.issueCompletion f k) s
        (trap (modSol d1 (v / 4) (v % 4) (fun y => { y with cause := 0x46 })) 0x10 0x46)) ∧
      (∀ d2, b.take 7 = x.block.take 7 → graphPortsBad d1 x.block = false →
        d2 = modCurSlot
          (modSol d1 (v / 4) (v % 4) (fun y => { y with
            st := .running, rounds := 0, inRound := false, out := [], blockAt := ad, goTag := some ((curTp d1).owner, tag),
            graph := (getFloe d1 (sbFloe x.block)).lid, ending := none }))
          (fun sl => { sl with block := .none, tp := pastWord { sl.tp with
            tags := if tag = 0 then sl.tp.tags else sl.tp.tags &&& ~~~(BitVec.ofNat 64 (2 ^ tag.toNat)),
            busy := sl.tp.busy ++ [tag] } }) →
        (0 < solRunning x ∨ solStill d2 (v / 4) (v % 4) = true → LeavesData (.issueCompletion f k) s d2) ∧
        (solRunning (getSol d2 (v / 4) (v % 4)) = 0 → solStill d2 (v / 4) (v % 4) = false → LeavesData (.issueCompletion f k) s (solEnd d2 (v / 4) (v % 4)))))) ∧
  (∀ (s : State) (die n : Nat) (x : Solver), x = getSol s.d die n →
    (∀ b o ls d d1 d2 ms ss bad, x.loads = (b, o) :: ls → (x.st = .idle ∨ x.st = .ready) → solStill s.d die n = false →
      x.loadEnded = false → x.gotM = [] →
      readMore s.d (reqSol die n) (placeOf (b.getD 2 0)).1 (placeOf (b.getD 2 0)).2 32 (sbNmeth b) [] = (d, ms, none) →
      ((ms.map halves).any (methodBad (sbHd b)) = true → LeavesData (.ssqCfgDone die n) s
        (loadFail (modSol d die n (fun y => { y with gotM := ms })) die n o 0x44)) ∧
      ((ms.map halves).any (methodBad (sbHd b)) = false →
        setsCheck (modSol d die n (fun y => { y with gotM := ms })) die n 0 (ms.map halves) = (d1, .ok bad) →
        (bad = true → LeavesData (.ssqCfgDone die n) s (loadFail d1 die n o 0x44)) ∧
        (bad = false → (getSol d1 die n).gotS = [] →
          readMore d1 (reqSol die n) (placeOf (b.getD 1 0)).1 (placeOf (b.getD 1 0)).2 8 (sbNs b) [] = (d2, ss, none) →
          ((ss.map slotRec).any (slotBad b) = false → LeavesData (.ssqCfgDone die n) s
            (loadDone (modSol d2 die n (fun y => { y with
              st := .ready, block := b, methods := ms.map halves, samples := ss.map slotRec })) die n o)) ∧
          ((ss.map slotRec).any (slotBad b) = true → LeavesData (.ssqCfgDone die n) s (loadFail d2 die n o 0x45))))) ∧
    (∀ y d cfs, x.st = .running → x.inRound = false → solStill s.d die n = false → x.ended = false → x.ending = none →
      0 < solRunning x →
      y = { x with samples := x.samples.map (roundSlot x.methods), rounds := x.rounds + 1, inRound := true } →
      readSets s.d die n y (activeSlots y) = (d, .ok cfs) →
      LeavesData (.solverRoundStart die n) s (modSol d die n (fun _ => { y with out := roundWords y cfs }))) ∧
    (∀ w, x.inRound = true → solHasGraph s.d die n = true → solStill s.d die n = false → (getFloe s.d (sbFloe x.block)).halted = false → (getFloe s.d (sbFloe x.block)).frozen = false →
      qHead s.d (sbFloe x.block) (.op (sbGop x.block)) = some w →
      (errorWord w = none → LeavesData (.solverErrorWord die n) s (qPop s.d (sbFloe x.block) (.op (sbGop x.block)))) ∧
      (∀ slot e, errorWord w = some (slot, e) → LeavesData (.solverErrorWord die n) s
        (modSol (qPop s.d (sbFloe x.block) (.op (sbGop x.block))) die n (fun x => { x with
          samples := x.samples.zipIdx.map (fun p =>
            if p.2 = slot ∧ p.1.active = true ∧ p.1.back.isNone then { p.1 with back := some e } else p.1) })))) ∧
    (∀ loaded fin, solStill s.d die n = false → x.ended = true ∨ x.loadEnded = true →
      loaded = (if x.loadEnded = true then (match x.loads with
          | [] => s.d
          | (_, o) :: _ => loadDone (modSol s.d die n (fun y => { y with loadEnded := false })) die n o)
        else s.d) →
      fin = (if x.ended = true then solRelease (modSol loaded die n (fun y => { y with ended := false })) die n else loaded) →
      (getSol loaded die n).ended = x.ended →
      (x.st = .running ∨ x.st = .stopping → LeavesData (.solverDecision die n) s fin) ∧
      (x.st = .idle ∨ x.st = .ready → x.loadEnded = true → x.loads ≠ [] → LeavesData (.ssqCfgDone die n) s fin)) ∧
    (solStill s.d die n = false → x.ended = false → x.loadEnded = false → x.ending = none → x.inRound = false →
      x.st = .stopping ∨ (x.st = .running ∧ solRunning x = 0) → LeavesData (.solverDecision die n) s (solEnd s.d die n)) ∧
    (x.st = .running → x.inRound = true → solStill s.d die n = false → x.ended = false → x.loadEnded = false →
      x.ending = none →
      (∀ y ∈ x.samples, y.active = true → y.back = none → exec (.solverDecision die n) s = .next s) ∧
      (∀ d, x.out = [] → (∀ y ∈ x.samples, y.active = true → y.back ≠ none) →
        d = modSol s.d die n (fun x => { x with
          inRound := false, samples := x.samples.map (fun y => if y.active then decideSlot (decideCtx x y) y else y) }) →
        (0 < solRunning (getSol d die n) → LeavesData (.solverDecision die n) s d) ∧
        (solRunning (getSol d die n) = 0 → LeavesData (.solverDecision die n) s (solEnd d die n)))))

/-! ## The ingest pipes -/

/-- R209, R378, R25, R302: with a handle of a pipe of an I/O die that runs its units and the access rights (a pipe of one in reset
or held: ENGINE 0x51, the model's choice, log entry 22; the pipe's address in its access table, log entry 84). INGQ.start waits for its
descriptor; once it is read, its request joins the pipe's under its tag, and INGQ_START_DONE ends it (its checks in the model's order,
log entry 77) with code 0x01 on a pipe that runs, 0x02 on a malformed descriptor, 0x04 on a disabled queue, 0x03 on tables out of order,
and else with code 0x00 and a running pipe. INGQ.stat reads code, running, stalled and the count of results. INGQ.stop
ends at once on a pipe with no message in hand and else with its last, and queues behind starts that have not acted. -/
def Obligations.IngestInstructionResults : Prop :=
  (∀ (s : State) (g : Guard) (d a : BitVec 5) (t : BitVec 4) (tag : BitVec 6) (x : Pipe), Ready s g [d, a] →
    (tag = 0 ∨ (curTp s.d).busy.contains tag = false) → Sound s (viewRegs (curTp s.d) t) →
    heldBy (getFloe s.d s.d.curF) (curTp s.d) true false false = false → x = getPipe s.d (rn s.d a) →
    (2 ^ 4 ≤ rn s.d a → Traps (.ingqStart g tag t a) s 1 5 ∧ Traps (.ingqStop g tag a) s 1 5 ∧ Traps (.ingqStat g d a) s 1 5) ∧
    (rn s.d a < 2 ^ 4 → (getIo s.d (rn s.d a / 8)).inReset = true ∨ (getIo s.d (rn s.d a / 8)).held = true →
      Traps (.ingqStart g tag t a) s 0x10 0x51 ∧ Traps (.ingqStop g tag a) s 0x10 0x51 ∧ Traps (.ingqStat g d a) s 0x10 0x51) ∧
    (rn s.d a < 2 ^ 4 → pipeDown s.d (rn s.d a) = false → aclOk s.d (46 + rn s.d a / 8) s.d.curF 1 (rn s.d a * 4096) 1 = true →
      ActsOnTp (.ingqStat g d a) s (scalarThen d (BitVec.ofNat 64 (x.code % 2 ^ 8 + (if x.running then 2 ^ 8 else 0) +
        (if x.stalled then 2 ^ 9 else 0) + x.done.toNat * 2 ^ 32)))) ∧
    (rn s.d a < 2 ^ 4 → pipeDown s.d (rn s.d a) = false → aclOk s.d (46 + rn s.d a / 8) s.d.curF 4 (rn s.d a * 4096) 1 = true →
      (∀ e ad, blockTile s.d t = .ok (e, ad) → LeavesData (.ingqStart g tag t a) s
        (modCurSlot s.d (fun sl => { sl with block := .issue (.ingqStart g tag t a) }))) ∧
      (x.reqs = [] → LeavesData (.ingqStop g tag a) s (stopNow (modCur s.d (fun t => pastWord { t with
          tags := if tag = 0 then t.tags else t.tags &&& ~~~(BitVec.ofNat 64 (2 ^ tag.toNat)), busy := t.busy ++ [tag] }))
        (rn s.d a) ((curTp s.d).owner, tag))) ∧
      (x.reqs ≠ [] → LeavesData (.ingqStop g tag a) s (modPipe (modCur s.d (fun t => pastWord { t with
          tags := if tag = 0 then t.tags else t.tags &&& ~~~(BitVec.ofNat 64 (2 ^ tag.toNat)), busy := t.busy ++ [tag] }))
        (rn s.d a) (fun x => { x with reqs := x.reqs ++ [(none, (curTp s.d).owner, tag)] }))))) ∧
  (∀ (s : State) (f k : Nat) (g : Guard) (a : BitVec 5) (t : BitVec 4) (tag : BitVec 6) (d d1 : Data) (e w : List Word)
      (ad : Nat), (getSlot s.d f k).block = .issue (.ingqStart g tag t a) → (getSlot s.d f k).st = .live →
    earlierPending (getTp s.d f k) = false → (getFloe s.d f).halted = false →
    d = { s.d with curF := f, curK := k, curW := (getSlot s.d f k).word } → blockTile d t = .ok (e, ad) →
    readWordsAt d (reqFloe f) (ltePlace e) ad 8 = (d1, .ok w) →
    (pipeDown d1 (rn d1 a) = true → LeavesData (.issueCompletion f k) s (trap d1 0x10 0x51)) ∧
    (pipeDown d1 (rn d1 a) = false → LeavesData (.issueCompletion f k) s (modCurSlot
      (modPipe d1 (rn d1 a) (fun x => { x with reqs := x.reqs ++ [(some w, (curTp d1).owner, tag)] }))
      (fun sl => { sl with block := .none, tp := pastWord { sl.tp with
        tags := if tag = 0 then sl.tp.tags else sl.tp.tags &&& ~~~(BitVec.ofNat 64 (2 ^ tag.toNat)),
        busy := sl.tp.busy ++ [tag] } })))) ∧
  (∀ (d : Data) (p : Nat) (o : Owner × BitVec 6),
    ((getPipe d p).msgs = [] → stopNow d p o = solTag (modPipe d p (fun x => { x with running := false })) o.1 o.2) ∧
    ((getPipe d p).msgs ≠ [] →
      stopNow d p o = modPipe d p (fun x => { x with running := false, stopping := x.stopping ++ [o] }))) ∧
  (∀ (s : State) (p : Nat) (x : Pipe) (w : List Word) (o : Owner × BitVec 6) (ends : Nat → (Pipe → Pipe) → Data → Data),
    x = getPipe s.d p → x.reqs = [(some w, o)] → pipeStill s.d p = false →
    ends = (fun code h d => solTag (modPipe d p (fun x => h { x with reqs := x.reqs.drop 1, code := code })) o.1 o.2) →
    (∀ d, (getPipe (ends 1 id s.d) p).reqs = [] → x.running = true ∨ x.msgs ≠ [] → d = ends 1 id s.d →
      LeavesData (.ingqStartDone p) s d) ∧
    (x.running = false → x.msgs = [] →
      (pipeDescBad w = true → (getPipe (ends 2 id s.d) p).reqs = [] →
        LeavesData (.ingqStartDone p) s (ends 2 id s.d)) ∧
      (pipeDescBad w = false → queueOn s.d (pdIq w) = false ∨ queueOn s.d (pdOq w) = false →
        (getPipe (ends 4 id s.d) p).reqs = [] → LeavesData (.ingqStartDone p) s (ends 4 id s.d)) ∧
      (∀ d d' voc ent, pipeDescBad w = false → queueOn s.d (pdIq w) = true → queueOn s.d (pdOq w) = true → pdWord w = false →
        readRecs s.d (reqPipe p) (pdPlace w 2) (pdAddr w 2) 1 0 128 = (d, .ok voc) →
        readRecs d (reqPipe p) (pdPlace w 3) (pdAddr w 3) 2 0 (pdNent w) = (d', .ok ent) →
        (tablesCheck w voc ent = .error 3 → (getPipe (ends 3 id d') p).reqs = [] →
          LeavesData (.ingqStartDone p) s (ends 3 id d')) ∧
        (∀ ids ms vs h, tablesCheck w voc ent = .ok (ids, ms, vs) →
          h = (fun (x : Pipe) => { x with desc := w, running := true, vocab := ids, merges := ms, pieces := vs }) →
          (getPipe (ends 0 h d') p).reqs = [] → LeavesData (.ingqStartDone p) s (ends 0 h d'))))) ∧
  (∀ (s : State) (p : Nat),
    ((getPipe s.d p).msgs = [] → LeavesData (.ingqStopDone p) s
      ((getPipe s.d p).stopping.foldl (fun d o => solTag d o.1 o.2) (modPipe s.d p (fun x => { x with stopping := [] })))) ∧
    ((getPipe s.d p).msgs ≠ [] → exec (.ingqStopDone p) s = .next s))

/-- R209, R211, R213, R214, R217, R218, R219: of a pipe that no fault has stalled and whose records are written: a
running one takes the head of its input queue once poppable; a record that breaks R210 is quarantined with code 0x10, a
poisoned one with 0x19. Stage 1 reads the next byte of its message's input, or ends it at ILEN; a fault there stalls the pipe where
it is one of translation, and quarantines the message else: 0x19 for ECCU, 0x10 for SPACE, 0x18 for another. Stages 2 to 5 take the
next byte of the message they work on, 5 that of the oldest message alone, whose result is still to be pushed, once it has written the
tokens it has formed, each at its place, quarantining the message with 0x17 past its budget. What stages 1 to 4 make of their bytes goes on; a condition they meet quarantines the message. (That an event takes one byte, the codes of a stage-1 fault but
for a denial of an access table, and the offset given with 0x17, are the model's choices: log entries 76, 79, 80.) A quarantined message that waits for
the ring, or whose tokens a fault has held back, goes on with them. The oldest message, once through, has its result
pushed and leaves. -/
def Obligations.IngestMessagesMove : Prop :=
  (∀ (s : State) (p h : Nat) (x : Pipe) (e : HwqEnt) (es : List HwqEnt) (d : Data), x = getPipe s.d p → h = pdIq x.desc →
    x.running = true → pipeStill s.d p = false → popWaiters s.d h = [] → (getQ s.d h).st ≠ .disabled →
    aclOk s.d (42 + h / 128) (0xC8 + p) 1 (h % 128 * 4096) 1 = true → (getQ s.d h).hw = e :: es →
    d = modPipe (modQ s.d h (fun q => { q with hw := es })) p (fun x => { x with msgs := x.msgs ++ [msgOf e.data] }) →
    (poppable s.d e = false → exec (.ingestRecordPop p) s = .next s) ∧
    (poppable s.d e = true →
      (msgBad (msgOf e.data) = true → LeavesData (.ingestRecordPop p) s (quarantine d p x.msgs.length 0x10 0 0)) ∧
      (msgBad (msgOf e.data) = false → e.psn = true →
        LeavesData (.ingestRecordPop p) s (quarantine d p x.msgs.length 0x19 0 0)) ∧
      (msgBad (msgOf e.data) = false → e.psn = false → LeavesData (.ingestRecordPop p) s d))) ∧
  (∀ (s : State) (p st i n : Nat) (m : Msg), pipeStill s.d p = false → stageMsg (getPipe s.d p).msgs st = some i →
    m = msgAt s.d p i → n = m.taken.getD (st - 1) 0 →
    (st = 1 →
      (msgIlen m ≤ n → LeavesData (.ingestStage p st) s (stageTake s.d p i 1 n true)) ∧
      (n < msgIlen m →
        (∀ d b, readAt s.d (reqPipe p) (msgPlace m 2) (msgAddr m 2 + n) 1 = (d, .ok b) →
          LeavesData (.ingestStage p st) s (stageTake
            (modMsg d p i (fun m => { m with ins := m.ins.set 0 (m.ins.getD 0 [] ++ [BitVec.ofNat 8 b]) })) p i 1 (n + 1) false)) ∧
        (∀ d fc, readAt s.d (reqPipe p) (msgPlace m 2) (msgAddr m 2 + n) 1 = (d, .error fc) →
          (fc.1 = 5 ∨ fc.1 = 6 → LeavesData (.ingestStage p st) s (pipeStall d p none 0 n (msgAddr m 2 + n) false fc)) ∧
          (fc.1 ≠ 5 → fc.1 ≠ 6 → LeavesData (.ingestStage p st) s (quarantine d p i
            (if fc.1 = 0x0C then 0x19 else if fc.1 = 3 then 0x10 else 0x18) 1 n))))) ∧
    (2 ≤ st → st ≤ 5 → (st = 5 → m.toks = [] ∧ i = 0) →
      (n < (m.ins.getD (st - 1) []).length → LeavesData (.ingestStage p st) s (stageTake s.d p i st (n + 1) false)) ∧
      (n = (m.ins.getD (st - 1) []).length → m.fin.getD (st - 2) false = true →
        LeavesData (.ingestStage p st) s (stageTake s.d p i st n true))) ∧
    (st = 5 → i ≠ 0 → exec (.ingestStage p st) s = .next s) ∧
    (∀ t ts, st = 5 → i = 0 → m.toks = t :: ts →
      (msgBudget m ≤ m.written → LeavesData (.ingestStage p st) s (quarantine s.d p i 0x17 5 t.2)) ∧
      (∀ d, m.written < msgBudget m →
        writeAt s.d (reqPipe p) (msgPlace m 5) (msgAddr m 5 + 4 * m.written) 4 t.1 false = (d, .ok ()) →
        LeavesData (.ingestStage p st) s (modMsg (modPipe d p (fun x => { x with wi := x.wi + 1 })) p i (fun m =>
          { m with toks := m.toks.drop 1, written := m.written + 1 }))))) ∧
  (∀ (d e : Data) (p i st n : Nat) (ended : Bool) (m : Msg) (r : StageOut), m = msgAt d p i → 1 ≤ st → st ≤ 4 →
    r = stageOut (pdRatio (getPipe d p).desc) m st ((m.ins.getD (st - 1) []).take n) ended →
    e = modMsg d p i (fun m => { m with
      taken := m.taken.set (st - 1) n, fin := m.fin.set (st - 1) ended, ins := m.ins.set st r.1 }) →
    (r.2 = none → stageTake d p i st n ended = e) ∧
    (∀ code offs, r.2 = some (code, offs) → stageTake d p i st n ended = quarantine e p i code st offs)) ∧
  (∀ (s : State) (p i : Nat), pipeStill s.d p = false →
    (getPipe s.d p).msgs.findIdx? (fun m => m.quar.isSome && ! m.entryDone) = some i →
    LeavesData (.quarantineRingResume p) s (quarStep s.d p i)) ∧
  (∀ (s : State) (p h : Nat) (m : Msg) (ms : List Msg), (getPipe s.d p).msgs = m :: ms → h = pdOq (getPipe s.d p).desc →
    (msgThrough m = false → exec (.ingestResultPush p) s = .next s) ∧
    (msgThrough m = true → unitHeld s.d 7 (4 + p / 8) (p % 8) = false → pushWaiters s.d h = [] → (getQ s.d h).stalled = false → aclOk s.d (42 + h / 128) (0xC8 + p) 2 (h % 128 * 4096) 1 = true →
      (getQ s.d h).st = .direct → (getQ s.d h).hw.length < 32 → h / 128 < s.d.dies.length →
      h % 128 < (getDie s.d (h / 128)).queues.length →
      LeavesData (.ingestResultPush p) s (modPipe
        (modQ s.d h (fun q => { q with hw := q.hw ++ [resultEnt (getPipe s.d p) p m] })) p
        (fun x => { x with msgs := x.msgs.drop 1, done := x.done + 1 }))))

/-! ## The field -/

/-- R99, R102, R105, R111, R115: the steps of the field on a floe that is not frozen. A group fires when its interval
has passed, every port it takes holds its words, or one of its operators executes without taking one, and every output
has room: the words taken leave their queues and its results are due one latency later; a firing in which end matching
executes nothing takes its words and puts out the end words; it commits what is due and keeps the rest. A read generator
with room in its queue reads the word of its pattern and steps. A word crosses a switch box when every output it goes to
has room. On a frozen or halted floe nothing moves. R99, R100, R101, R102, R107, R108: the generators beside affine
reads (FieldMoves). Each makes at most one access a cycle. An indexed read takes an index word, and puts on the word of
its offset with the record and level of the index, a RANGE token where the offset lies out of the buffer, or the token
that came as an index. A FIFO's read takes its oldest entry, a token from its sideband; one of a line buffer delivers
column by column the lines of its window, once they are complete. A write takes its words and performs in the next
cycle: at its pattern's point, or at the offset of an index word; a bare end token writes nothing and an error token
goes to ESINK, neither with a point of the pattern. A FIFO's write adds an entry where there is room, a line buffer's
waits before it overwrites a line still needed. A word that closes its buffer moves the generator on (of tokens put on
by an indexed read: log 142; END of a write's RANGE token: log 30; record indices of the line buffer: log 42; a token
that comes as data takes no index: log 41: the model's choices). -/
def Obligations.FieldMoves : Prop :=
  ((∀ (s : State) (f c b p : Nat), (getFloe s.d f).frozen = true ∨ (getFloe s.d f).halted = true →
      exec (.groupFire f c) s = .next s ∧ exec (.groupCommit f c) s = .next s ∧ exec (.generatorAccess f c b) s = .next s ∧
      exec (.switchBoxHop f b p) s = .next s) ∧
    (∀ (s : State) (f k : Nat) (fl : Floe) (p : Plan) (g : Group) (fp : FirePlan), fl = getFloe s.d f → fl.frozen = false →
      fl.halted = false → p = planOf fl.cfg.cur k → g = fl.field.groups.getD k Group.reset → fp = firePlan p g (portHead fl p) →
      (intervalPassed fl.cfg.cur p g fl.cyc = false → exec (.groupFire f k) s = .next s) ∧
      (fireWords fl p fp.take = none → exec (.groupFire f k) s = .next s) ∧
      (∀ given js x toks d, p.ports ≠ [] → intervalPassed fl.cfg.cur p g fl.cyc = true →
        (fp.take ≠ [] ∨ firesAlone p g (portHead fl p) = true) → fireWords fl p fp.take = some given →
        (∀ e ∈ fp.want, ∀ q, e.1.q = some q → e.2 ≤ qFree fl.cfg.cur fl.field q) →
        js = joinAll p g fp.skip given fl.cfg.gen → 
        x = (if fp.skip = [] then runFiring fl p g.ops (givenAfter p js given) (portHead fl p)
          else { ins := [], outs := [], sink := [], ops := g.ops, blocked := false }) →
        toks = js.flatMap (fun e => e.2.toks) ++ x.sink →
        d = modFloe s.d f (fun fl => { fl with
          active := true,
          field := { fl.field with groups := fl.field.groups.set k (groupAfter p g fl.cyc js given x.ops
            (x.outs ++ p.outs.flatMap (fun o => (js.flatMap (fun e => e.2.ends)).map (fun w => (o.o, w)))) fp.want) } }) →
        x.blocked = false → sinkRoom d f toks.length = true →
        LeavesData (.groupFire f k) s (given.foldl (fun d e => match e.1.q with
          | some q => qPopN d f q e.2.length
          | none => d) (sinkAll d f toks))) ∧
      LeavesData (.groupCommit f k) s ((g.commits.filter (fun c => decide (c.due ≤ fl.cyc))).foldl
        (fun d c => commitWords d f k c.outs)
        (modFloe s.d f (fun fl => { fl with field := { fl.field with
          groups := fl.field.groups.set k { g with commits := g.commits.filter (fun c => decide (fl.cyc < c.due)) } } })))) ∧
    (∀ (s : State) (f m g : Nat) (d : Data) (fl : Floe) (t : Table) (q : QId) (r : Data × Nat × Bool) (w : FWord),
      agV (agc (getFloe s.d f).cfg.cur m g) = true → (getFloe s.d f).frozen = false → (getFloe s.d f).halted = false →
      d = genDeliver s.d f m g → fl = getFloe d f → t = fl.cfg.cur → agWrite (agc (getFloe s.d f).cfg.cur m g) = false →
      (genAt fl m g).lastCycle ≠ some (getFloe s.d f).cyc → genQueue m g (agDest (agc t m g)) true = some q →
      mccMode (mcc t m) ≠ 1 → mccMode (mcc t m) ≠ 2 → agIdx (agc t m g) = false → genMay fl m g = true →
      (fl.cfg.state ≠ .draining ∨ (genAt fl m g).c0 ≠ 0) →
      r = cellRead d f m (genBase t m g (genAt fl m g) + genOff (agc t m g) (agl t m g) (genAt fl m g)) →
      w = dataWord r.2.1 (genAt fl m g).recNo (genLevel (agl t m g) (genAt fl m g).c0 (genAt fl m g).c1) fl.cfg.gen r.2.2 0 →
      (qRoom d f q 1 = false → LeavesData (.generatorAccess f m g) s d) ∧
      (qRoom d f q 1 = true → LeavesData (.generatorAccess f m g) s (modGen r.1 f m g (fun x =>
        { genSend (genStep (agl t m g) x) fl.cyc w with
          accesses := x.accesses + 1, buf := if closes (mcc t m) w then x.buf + 1 else x.buf })))) ∧
    (∀ (s : State) (f b p : Nat) (q : QId) (x : FWord) (mc : Bool), (getFloe s.d f).frozen = false → (getFloe s.d f).halted = false →
      hopWords (getFloe s.d f).cfg.cur b p ≠ [] → hopIn b p = some q → qHead s.d f q = some x →
      mc = ((qGet (getFloe s.d f).field q).head?).any (fun e => e.mc) →
      ((∀ w ∈ hopWords (getFloe s.d f).cfg.cur b p, hopsRoom s.d f b [w] (hopNeed s.d f b w x) = true ∧ convFree s.d f b w = true) →
        LeavesData (.switchBoxHop f b p) s ((hopWords (getFloe s.d f).cfg.cur b p).foldl (hopOne f b mc x) (qPop s.d f q))) ∧
      (∀ w ∈ hopWords (getFloe s.d f).cfg.cur b p, hopsRoom s.d f b [w] (hopNeed s.d f b w x) = false ∨ convFree s.d f b w = false →
        exec (.switchBoxHop f b p) s = .next s))) ∧
  (∀ (s : State) (f m g now : Nat) (i : Instr) (d : Data) (fl : Floe) (t : Table) (c : Nat) (x : Gen) (q : QId) (mode base : Nat)
      (shuts : FWord → Nat) (token : FWord → Bool),
      i = .generatorAccess f m g → agV (agc (getFloe s.d f).cfg.cur m g) = true → (getFloe s.d f).frozen = false →
      (getFloe s.d f).halted = false → now = (getFloe s.d f).cyc → d = genDeliver s.d f m g → fl = getFloe d f →
      t = fl.cfg.cur → c = agc t m g → x = genAt fl m g → mode = mccMode (mcc t m) → base = genBase t m g x →
      shuts = (fun w => if closes (mcc t m) w then x.buf + 1 else x.buf) → token = (fun w => isErr w || isBare w) →
      (x.lastCycle = some now → LeavesData i s d) ∧
      (x.lastCycle ≠ some now → agWrite (agc (getFloe s.d f).cfg.cur m g) = false → genQueue m g (agDest c) true = some q →
        (qRoom d f q 1 = false → LeavesData i s d) ∧
        (qRoom d f q 1 = true →
          (mode = 1 →
            (fl.field.fifo.getD m [] = [] → LeavesData i s d) ∧
            (∀ e es d1 w psn, fl.field.fifo.getD m [] = e :: es →
              (now < e.ready → LeavesData i s d) ∧
              (e.ready ≤ now → w = entWord e →
                ((token w = true ∧ d1 = d ∧ psn = w.psn) ∨
                  (token w = false ∧ d1 = (cellRead d f m (agBase c + x.moved % agLen c)).1 ∧
                    psn = (w.psn || (cellRead d f m (agBase c + x.moved % agLen c)).2.2))) →
                LeavesData i s (modGen (modFloe (if 2 ≤ e.par then parityRec d1 f else d1) f (fun fl => { fl with
                    field := { fl.field with fifo := fl.field.fifo.set m es } })) f m g (fun x =>
                  { x with
                    reads := x.reads ++ [((getFloe d f).cyc + 2, if token w then { w with gen := fl.cfg.gen }
                      else dataWord (memRead d (cellLoc f m (agBase c + x.moved % agLen c)) 16) w.ridx.toNat (wEnd w) fl.cfg.gen psn
                        w.mask)],
                    lastCycle := some (getFloe d f).cyc, moved := x.moved + 1, accesses := x.accesses + 1 })))) ∧
          (mode = 2 → ∀ lines w r, lines = mccLines (mcc t m) →
            ((lineMate fl m g).closed < (x.closed + lines) * mccLine (mcc t m) → LeavesData i s d) ∧
            ((x.closed + lines) * mccLine (mcc t m) ≤ (lineMate fl m g).closed →
              r = cellRead d f m (agBase c + (x.closed + x.c0) % lines * mccLine (mcc t m) + x.c1) →
              w = dataWord r.2.1 x.recNo (if x.c0 + 1 = lines then 1 else 0) fl.cfg.gen r.2.2 0 →
              LeavesData i s (modGen r.1 f m g (fun x => { genSend x fl.cyc w with
                accesses := x.accesses + 1,
                c0 := if x.c0 + 1 = lines then 0 else x.c0 + 1,
                c1 := if x.c0 + 1 = lines then (if x.c1 + 1 = mccLine (mcc t m) then 0 else x.c1 + 1) else x.c1,
                recNo := if x.c0 + 1 = lines then x.recNo + 1 else x.recNo,
                closed := if x.c0 + 1 = lines ∧ x.c1 + 1 = mccLine (mcc t m) then x.closed + 1 else x.closed })))) ∧
          (mode ≠ 1 → mode ≠ 2 → genMay fl m g = false → LeavesData i s d) ∧
          (mode ≠ 1 → mode ≠ 2 → genMay fl m g = true → agIdx c = true → ∀ iq, genQueue m g (agIsrc c) false = some iq →
            (qHead d f iq = none → LeavesData i s d) ∧
            (∀ ix d1 w n, qHead d f iq = some ix →
              ((token ix = true ∧ d1 = d ∧ w = { ix with gen := fl.cfg.gen } ∧ n = 0) ∨
                (token ix = false ∧ offOk t m g (indexOff ix) = false ∧ d1 = d ∧ w = rangeTok m x (indexOff ix) ix fl.cfg.gen ∧ n = 0) ∨
                (token ix = false ∧ offOk t m g (indexOff ix) = true ∧ n = 1 ∧
                  d1 = (cellRead d f m (base + (indexOff ix).toNat)).1 ∧
                  w = dataWord (memRead d (cellLoc f m (base + (indexOff ix).toNat)) 16) ix.ridx.toNat (wEnd ix) fl.cfg.gen
                    (poisoned d (cellLoc f m (base + (indexOff ix).toNat)) 16 || ix.psn) 0)) →
              LeavesData i s (modGen (qPop d1 f iq) f m g (fun x => { genSend x fl.cyc w with
                accesses := x.accesses + n, buf := if closes (mcc t m) w then x.buf + 1 else x.buf })))))) ∧
      (x.lastCycle ≠ some now → agWrite (agc (getFloe s.d f).cfg.cur m g) = true → genQueue m g (agDest c) false = some q →
        (mode = 1 →
          (qHead d f q = none ∨ agLen c ≤ (fl.field.fifo.getD m []).length → LeavesData i s d) ∧
          (∀ w, qHead d f q = some w → (fl.field.fifo.getD m []).length < agLen c →
            LeavesData i s (modGen (modFloe (qPop d f q) f (fun fl => { fl with field := { fl.field with
                fifo := fl.field.fifo.set m (fl.field.fifo.getD m [] ++
                  [{ word := w, ready := (getFloe d f).cyc + 2, par := 0, mc := false }]) } })) f m g (fun x =>
              { genTake x (getFloe d f).cyc (if token w then none else some (agBase c + x.moved % agLen c)) w with
                moved := x.moved + 1, accesses := x.accesses + 1 })))) ∧
        (mode = 2 → ∀ w, qHead d f q = some w →
          (isBare w = true → isErr w = false → LeavesData i s (modGen (qPop d f q) f m g (fun x => { x with lastCycle := some fl.cyc }))) ∧
          (token w = false →
            ((lineMate fl m g).closed + mccLines (mcc t m) ≤ x.moved / mccLine (mcc t m) → LeavesData i s d) ∧
            (x.moved / mccLine (mcc t m) < (lineMate fl m g).closed + mccLines (mcc t m) →
              LeavesData i s (modGen (qPop d f q) f m g (fun y =>
                { genTake y fl.cyc (some (agBase c + x.moved / mccLine (mcc t m) % mccLines (mcc t m) * mccLine (mcc t m)
                    + y.moved % mccLine (mcc t m))) w with
                  moved := y.moved + 1, accesses := y.accesses + 1 }))))) ∧
        (mode ≠ 1 → mode ≠ 2 → genMay fl m g = false → LeavesData i s d) ∧
        (mode ≠ 1 → mode ≠ 2 → genMay fl m g = true →
          (agIdx c = false →
            (qHead d f q = none → LeavesData i s d) ∧
            (∀ w, qHead d f q = some w →
              (token w = false → LeavesData i s (modGen (qPop d f q) f m g (fun x =>
                { genTake (genStep (agl t m g) x) fl.cyc (some (genBase t m g x + genOff (agc t m g) (agl t m g) x)) w with
                  accesses := x.accesses + 1, buf := if closes (mcc t m) w then x.buf + 1 else x.buf }))) ∧
              (isBare w = true → isErr w = false → LeavesData i s (modGen (qPop d f q) f m g (fun x =>
                if closes (mcc t m) w then { genTake x fl.cyc none w with buf := x.buf + 1 } else { x with lastCycle := some fl.cyc }))) ∧
              (isErr w = true → sinkRoom d f 1 = false → LeavesData i s d) ∧
              (isErr w = true → sinkRoom d f 1 = true → LeavesData i s (modGen (sinkPush (qPop d f q) f w) f m g (fun x =>
                { x with lastCycle := some fl.cyc }))))) ∧
          (agIdx c = true → ∀ iq ix w, genQueue m g (agIsrc c) false = some iq → iq ≠ q → qHead d f iq = some ix → token ix = false →
            qHead d f q = some w → token w = false →
            (offOk t m g (indexOff ix) = true → LeavesData i s (modGen (qPop (qPop d f q) f iq) f m g (fun y =>
              { genTake y fl.cyc (some (base + (indexOff ix).toNat)) { w with psn := w.psn || ix.psn } with
                accesses := y.accesses + 1, buf := if closes (mcc t m) w then y.buf + 1 else y.buf }))) ∧
            (offOk t m g (indexOff ix) = false → sinkRoom d f 1 = true → LeavesData i s (modGen
              (sinkPush (qPop (qPop d f q) f iq) f (rangeTok m x (indexOff ix) ix fl.cfg.gen)) f m g (fun y =>
              { genTake y fl.cyc none { w with psn := w.psn || ix.psn } with
                buf := if closes (mcc t m) w then y.buf + 1 else y.buf }))) ∧
            (offOk t m g (indexOff ix) = false → sinkRoom d f 1 = false → LeavesData i s d))))))

/-- R106, R165, R346, R358, R360, R361, R362, R365, R366, R367, R368, R369, R371-R373, R375, R376, R377, R379, R393, R412: what an
operator that computes puts out for two data words, or one, a constant standing for either: one word with the record index and END of
the left word (the right one's beside a left constant), the active generation, the OR of the poison bits and of the masks, and in every element of an unmasked quarter its result. FADD rounds the
exact sum or difference, FMUL the exact product, FSCL the left element times a power of two, FMAC the product plus its addend, a constant or the running value, FMAX gives the
larger or smaller and the other where one is NaN; FCMP and ICMP give all ones or zeros; IADD and IMUL wrap or clamp the exact result;
ILOG, ISH, IMAX and IMIN as named; CONST its constant, PICK one element everywhere, FSFN its function, FCVT and ICVT the
elements converted, in one word or more; MASK passes the word with quarters masked. An error token is passed, the others go to
the error sink; two bare end tokens give one, and one beside a data word a fully masked word. A predicate word gives the left operand's
quarter where its bit is 0. (That a word counts once for the rounding position of two operands, by the left one, is the model's choice:
log 187.) -/
def Obligations.ElementOperatorResults : Prop :=
  (∀ (c : OpCtx) (st : OpSt) (l r lw rw k : FWord) (f w : Nat) (m : BitVec 4) (x y a : Nat → Nat) (rd : Nat → Rnd)
      (gives : Nat → (Nat → Nat) → Prop),
    f = c.fmt → f ≤ 11 → w = fmtBits f → lw = (if c.s.lc then constWord (c.ctab.getD c.s.lci 0) else l) →
    rw = (if c.s.rc then constWord (c.ctab.getD c.s.rci 0) else r) → k = (if c.s.lc then rw else lw) →
    isErr lw = false → isErr rw = false → isBare lw = false → isBare rw = false → m = lw.mask ||| rw.mask →
    x = (fun i => quadElem f lw.data i) → y = (fun i => quadElem f rw.data i) →
    rd = (fun i => cttRnd c.ctt k.ridx.toNat (16 * st.wc + i)) →
    a = (fun i => if c.s.mod.testBit 3 then
        (st.acc.getD i none).getD (quadElem f (BitVec.ofNat 128 (c.ctab.getD (c.s.mod % 8) 0)) i)
      else quadElem f (BitVec.ofNat 128 (c.ctab.getD (c.s.mod % 8) 0)) i) →
    gives = (fun opc v => c.s.opc = opc → ∃ z, (opExec c st (some l) (some r) none).outs = [(3, z)] ∧
      (opExec c st (some l) (some r) none).sink = [] ∧
      (opExec c st (some l) (some r) none).st.wc = (if 1 ≤ k.fin.toNat then 0 else st.wc + 1) ∧
      z = { k with data := z.data, gen := c.gen, psn := lw.psn || rw.psn, mask := if opc = 0x17 then lw.mask else m } ∧
      (∀ i < fieldElems f, elemMasked f z.mask i = false → quadElem f z.data i = v i % 2 ^ w) ∧
      (opc = 0x12 → c.s.mod.testBit 3 = true → (opExec c st (some l) (some r) none).st.acc =
        if 1 ≤ lw.fin.toNat then [] else (List.range (fieldElems f)).map (fun i =>
          some (if elemMasked f m i then a i else quadElem f z.data i)))) →
    gives 0x10 (fun i => fpEncode (rd i) (fpAdd (rd i).mode (fpDecode f (x i))
      (if c.s.mod.testBit 0 then fpNeg (fpDecode f (y i)) else fpDecode f (y i)))) ∧
    gives 0x11 (fun i => fpEncode (rd i) (fpMul (fpDecode f (x i)) (fpDecode f (y i)))) ∧
    gives 0x17 (fun i => fpEncode (rd i) (fpScale (max (-1024) (min 1023 (intVal 10
      (rw.data.toNat / 2 ^ (if c.s.mod.testBit 0 then 32 * elemQuarter f i else 0) % 2 ^ 32)))) (fpDecode f (x i)))) ∧
    gives 0x12 (fun i => fpEncode (rd i) (fpAdd (rd i).mode
      (if c.s.mod.testBit 4 then fpNeg (fpMul (fpDecode f (x i)) (fpDecode f (y i))) else fpMul (fpDecode f (x i)) (fpDecode f (y i)))
      (fpDecode f (a i)))) ∧
    gives 0x13 (fun i => fpEncode (rd i) (fpMax (c.s.mod.testBit 0) (fpDecode f (x i)) (fpDecode f (y i)))) ∧
    gives 0x14 (fun i => if (match c.s.mod % 8, fpCmp (fpDecode f (x i)) (fpDecode f (y i)) with
      | 0, some d => d == 0
      | 1, d => d != some 0
      | 2, some d => decide (d < 0)
      | 3, some d => decide (d ≤ 0)
      | 4, some d => decide (0 < d)
      | 5, some d => decide (0 ≤ d)
      | 6, d => d.isNone
      | 7, d => d.isSome
      | _, _ => false) then 2 ^ w - 1 else 0) ∧
    (∀ v : Nat → Int, v = (fun i => if c.s.mod.testBit 0 then intVal f (x i) - intVal f (y i) else intVal f (x i) + intVal f (y i)) →
      gives 0x18 (fun i => ((if c.s.mod.testBit 1 then max (-2 ^ (w - 1)) (min (2 ^ (w - 1) - 1) (v i)) else v i) % 2 ^ w).toNat)) ∧
    (∀ v : Nat → Int, v = (fun i => intVal f (x i) * intVal f (y i)) →
      gives 0x19 (fun i => ((if c.s.mod.testBit 0 then max (-2 ^ (w - 1)) (min (2 ^ (w - 1) - 1) (v i)) else v i) % 2 ^ w).toNat)) ∧
    gives 0x1A (fun i => if c.s.mod % 4 = 0 then x i &&& y i else if c.s.mod % 4 = 1 then x i ||| y i else x i ^^^ y i) ∧
    gives 0x1B (fun i => if c.s.mod % 4 = 0 then x i * 2 ^ (y i % w) else if c.s.mod % 4 = 1 then x i / 2 ^ (y i % w)
      else (intVal f (x i) / 2 ^ (y i % w) % 2 ^ w).toNat) ∧
    gives 0x1C (fun i => if (if c.s.mod % 8 = 0 then x i = y i else if c.s.mod % 8 = 1 then x i ≠ y i
      else if c.s.mod % 8 = 2 then intVal f (x i) < intVal f (y i) else if c.s.mod % 8 = 3 then intVal f (y i) ≤ intVal f (x i)
      else if c.s.mod % 8 = 4 then x i < y i else y i ≤ x i) then 2 ^ w - 1 else 0) ∧
    gives 0x1D (fun i =>
      if c.s.mod.testBit 1 then (if c.s.mod.testBit 0 then min (x i) (y i) else max (x i) (y i))
      else ((if c.s.mod.testBit 0 then min (intVal f (x i)) (intVal f (y i)) else max (intVal f (x i)) (intVal f (y i))) % 2 ^ w).toNat)) ∧
  (∀ (c : OpCtx) (st : OpSt) (l : FWord) (f : Nat) (out : OpOut), f = c.fmt → f ≤ 11 → c.s.lc = false → c.s.rc = false →
    isErr l = false → isBare l = false → out = opExec c st (some l) none none →
    (c.s.opc = 0x01 → ∃ z, out.outs = [(3, z)] ∧ z = { l with data := z.data, gen := c.gen } ∧
      ∀ q < 4, l.mask.getLsbD q = false →
        z.data.toNat / 2 ^ (32 * q) % 2 ^ 32 = c.ctab.getD (c.s.mod % 8) 0 / 2 ^ (32 * q) % 2 ^ 32) ∧
    (c.s.opc = 0x02 → c.s.mod < fieldElems f → ∃ z, out.outs = [(3, z)] ∧
      z = { l with data := z.data, gen := c.gen, mask := if elemMasked f l.mask c.s.mod then 15 else l.mask } ∧
      ∀ i < fieldElems f, elemMasked f z.mask i = false → quadElem f z.data i = quadElem f l.data c.s.mod) ∧
    (c.s.opc = 0x16 → ∃ z, out.outs = [(3, z)] ∧ z = { l with data := z.data, gen := c.gen } ∧
      ∀ i < fieldElems f, elemMasked f l.mask i = false → quadElem f z.data i =
        sfn (cttRnd c.ctt l.ridx.toNat (16 * st.wc + i)) (c.s.mod % 8) (quadElem f l.data i) % 2 ^ fmtBits f) ∧
    (∀ src n, c.s.opc = 0x15 ∨ c.s.opc = 0x1E → src = c.s.mod % 16 → src ≤ 11 → n = fieldElems src / ownExecs c.t c.s →
      n * fieldBits f ≤ 128 → out.outs.length = ownExecs c.t c.s ∧
      ∀ e < ownExecs c.t c.s, ∃ z, out.outs[e]? = some (3, z) ∧ z.ridx = l.ridx ∧ z.psn = l.psn ∧
        z.fin = (if e + 1 = ownExecs c.t c.s then l.fin else 0) ∧
        ∀ j < n, elemMasked src l.mask (e * n + j) = false → quadElem f z.data j =
          convElem src 0 (cttRnd c.ctt l.ridx.toNat (16 * st.wc + (e * n + j))) (quadElem src l.data (e * n + j)) % 2 ^ fmtBits f)) ∧
  (∀ (c : OpCtx) (st : OpSt) (l r : FWord) (drop : Nat → Bool), c.s.opc = 0x0C → c.s.lc = false → c.s.rc = false → isErr l = false →
    isErr r = false → isBare l = false → isBare r = false →
    drop = (fun q => l.mask.getLsbD q || r.data.getLsbD (32 * q) == c.s.mod.testBit 0) →
    ∃ z, (opExec c st (some l) (some r) none).outs = [(3, z)] ∧ z.ridx = l.ridx ∧ z.fin = l.fin ∧ z.gen = c.gen ∧
      z.psn = (l.psn || r.psn) ∧
      (c.s.mod.testBit 1 = true → z.data = l.data ∧ z.mask = 0) ∧
      (c.s.mod.testBit 1 = false →
        ((∀ q < 4, drop q = true) → z.psn = true → z.data = 0 ∧ z.mask = 7) ∧
        (¬ ((∀ q < 4, drop q = true) ∧ z.psn = true) → ∀ q < 4, z.mask.getLsbD q = drop q ∧
          z.data.toNat / 2 ^ (32 * q) % 2 ^ 32 = if drop q then 0 else l.data.toNat / 2 ^ (32 * q) % 2 ^ 32))) ∧
  (∀ (c : OpCtx) (st : OpSt) (l : FWord) (r p : Option FWord) (out : OpOut), c.s.lc = false → c.s.rc = false →
    c.s.opc ∈ [0x01, 0x02, 0x0C, 0x10, 0x11, 0x12, 0x13, 0x14, 0x15, 0x16, 0x17, 0x18, 0x19, 0x1A, 0x1B, 0x1C, 0x1D, 0x1E] →
    out = opExec c st (some l) r p →
    (∀ e es, (l :: r.toList ++ p.toList).filter isErr = e :: es → out.outs = [(3, e)] ∧ out.sink = es) ∧
    ((∀ z ∈ l :: r.toList ++ p.toList, isErr z = false) →
      (isBare l = true → (∀ z ∈ r, isBare z = true) → out.outs = [(3, bareEnd l.fin.toNat l.ridx.toNat c.gen)] ∧ out.sink = []) ∧
      ((isBare l = true ∧ ∃ z ∈ r, isBare z = false) ∨ (isBare l = false ∧ ∃ z ∈ r, isBare z = true) → c.s.opc ≠ 0x0C →
        ∀ z ∈ out.outs, z.2.mask = 15 ∧ z.2.data = 0) ∧
      (∀ (pw z z' : FWord) (i q : Nat), p = some pw → c.s.opc ≠ 0x0C → isBare l = false → (opExec c st (some l) r none).outs[i]? = some (3, z) →
        out.outs[i]? = some (3, z') → q < 4 → z'.mask = z.mask ∧ (z.mask.getLsbD q = false →
          z'.data.toNat / 2 ^ (32 * q) % 2 ^ 32 =
            if pw.data.getLsbD (32 * q) then z.data.toNat / 2 ^ (32 * q) % 2 ^ 32 else l.data.toNat / 2 ^ (32 * q) % 2 ^ 32)))) ∧
  (∀ (mode m n : Nat) (s t : Bool) (e g : Int),
    (∃ q k j, fpAdd mode (.fin s m e) (.fin t n g) = .fin q k j ∧
      (if q then -(k : ℚ) else k) * 2 ^ j = (if s then -(m : ℚ) else m) * 2 ^ e + (if t then -(n : ℚ) else n) * 2 ^ g) ∧
    (∃ q k j, fpMul (.fin s m e) (.fin t n g) = .fin q k j ∧
      (if q then -(k : ℚ) else k) * 2 ^ j = (if s then -(m : ℚ) else m) * 2 ^ e * ((if t then -(n : ℚ) else n) * 2 ^ g)))

/-- R106, R107, R120, R121, R151, R152, R345, R352, R354, R374, R384, R397, R405, R411, R417, R421, R436: what the operators on whole words
and the reductions put out. PASS a word as it is; STEER a data word on the target its predicate's low bit names; MERGE the word its
control picks; LCAR the entry word or the word it holds; ENDT a word with its END raised, lowered or cut; CNTR the count of
data words at an END, IDXG indices in steps; ERRS an error token of the cell where its condition holds, and the word where it does not.
REDS combines data word n of a run into partial n mod 4, element by element, and puts out ((0, 1), (2, 3)) combined at the run's END;
SCNS each element combined with those before it in its record, or, exclusive, those alone. A combine of one side gives it; IADD wraps, IMAX and IMIN compare as signed
numbers, FADD rounds the exact sum to nearest even. -/
def Obligations.WordOperatorResults : Prop :=
  (∀ (c : OpCtx) (st : OpSt) (x : FWord) (r p : Option FWord) (out : OpOut), c.s.lc = false → c.s.rc = false →
    out = opExec c st (some x) r p → isErr x = false →
    (c.s.opc = 0x00 → out.outs = [(3, x)] ∧ out.sink = []) ∧
    (∀ z, c.s.opc = 0x03 → p = some z → isErr z = false → isBare x = false → isBare z = false →
      out.outs = [(if z.data.getLsbD 0 then 1 else 2, x)] ∧ out.sink = []) ∧
    (∀ z y, c.s.opc = 0x04 → p = some z → r = some y → isErr z = false → isBare z = false →
      out.outs = [(3, if z.data.getLsbD 0 then x else y)]) ∧
    (c.s.opc = 0x05 → (st.first = true → out.outs = [(3, x)]) ∧ (∀ h, st.first = false → st.held = some h → out.outs = [(3, h)])) ∧
    (∀ v g g', c.s.opc = 0x0B → v = c.s.mod % 8 → g = x.fin.toNat → isBare x = false →
      g' = (if c.s.mod / 8 = 0 then (if 1 ≤ g then max g v else 0) else if c.s.mod / 8 = 1 then (if 1 ≤ g then min g v else 0)
        else g - v) → out.outs = [(3, { x with fin := BitVec.ofNat 3 g' })]) ∧
    (c.s.opc = 0x07 → isBare x = false → st.cnt < 2 ^ 32 - 1 →
      (c.s.mod / 8 ≠ 1 → c.s.mod % 8 ≤ x.fin.toNat → ∃ z, out.outs = [(3, z)] ∧ z.data = BitVec.ofNat 128 (st.cnt + 1) ∧
        z.ridx = x.ridx ∧ z.fin = x.fin ∧ z.psn = (st.psn || x.psn) ∧ out.st.cnt = 0 ∧ out.st.psn = false) ∧
      (c.s.mod / 8 ≠ 1 → x.fin.toNat < c.s.mod % 8 → out.outs = [] ∧ out.st.cnt = st.cnt + 1 ∧ out.st.psn = (st.psn || x.psn)) ∧
      (c.s.mod / 8 = 1 → ∃ z, out.outs = [(3, z)] ∧ z.data = BitVec.ofNat 128 st.cnt ∧ z.psn = x.psn)) ∧
    (∀ base step : Nat, c.s.opc = 0x08 → isBare x = false → base = c.ctab.getD (c.s.mod % 8) 0 % 2 ^ 32 →
      step = c.ctab.getD (c.s.mod % 8) 0 / 2 ^ 32 % 2 ^ 32 → ∃ z, out.outs = [(3, z)] ∧ z.ridx = x.ridx ∧ z.fin = x.fin ∧ z.mask = 0 ∧
      (∀ e < 4, z.data.toNat / 2 ^ (32 * e) % 2 ^ 32 = (base + (4 * st.cnt + e) * step) % 2 ^ 32) ∧
      out.st.cnt = if 1 ≤ x.fin.toNat then 0 else st.cnt + 1) ∧
    (∀ k e, c.s.opc = 0x0D → r = some k → isErr k = false → isBare x = false → isBare k = false →
      e = errTok (128 + k.data.toNat % 2 ^ 7) 0 0 (c.k % 8 * 16) (x.data.toNat % 2 ^ 32) (k.data.toNat / 2 ^ 32 % 2 ^ 32) x.ridx.toNat
        x.fin.toNat c.gen →
      (∀ z, p = some z → isErr z = false → z.data.getLsbD 0 = false → out.outs = [(3, x)] ∧ out.sink = []) ∧
      (p = none ∨ (∃ z, p = some z ∧ z.data.getLsbD 0 = true) →
        (c.s.mod.testBit 0 = false → out.outs = [(3, e)] ∧ out.sink = []) ∧
        (c.s.mod.testBit 0 = true → out.sink = [e] ∧ out.outs =
          if 1 ≤ x.fin.toNat then [(3, bareEnd x.fin.toNat x.ridx.toNat c.gen)] else [])))) ∧
  (∀ (c : OpCtx) (st : OpSt) (x : FWord) (f op : Nat) (r : Rnd) (out : OpOut) (had now : Nat → Nat → Option Nat), c.s.lc = false →
    out = opExec c st (some x) none none → f = c.fmt → f ≤ 11 → isErr x = false → isBare x = false →
    r = { rne f with sat := c.ctt.testBit 24, ftz := c.ctt.testBit 23 } →
    (c.s.opc = 0x20 → op = c.s.mod / 4 → st.err = none → had = (fun q j => (redsPart f st q).getD j none) →
      now = (fun q j => if q = st.words % 4 then
        redElem op r (had q j) (if elemMasked f x.mask j then none else some (quadElem f x.data j)) else had q j) →
      (x.fin.toNat < c.s.mod % 4 + 1 → out.outs = [] ∧ out.st.words = st.words + 1 ∧ out.st.psn = (st.psn || x.psn) ∧
        ∀ q < 4, ∀ j < fieldElems f, (redsPart f out.st q).getD j none = now q j) ∧
      (c.s.mod % 4 + 1 ≤ x.fin.toNat → out.st.acc = [] ∧ out.st.words = 0 ∧ out.st.psn = false ∧
        ∃ z, out.outs = [(3, z)] ∧ z.ridx = x.ridx ∧ z.fin = x.fin ∧ z.psn = (st.psn || x.psn) ∧
          ∀ j < fieldElems f, ∀ v, redElem op r (redElem op r (now 0 j) (now 1 j)) (redElem op r (now 2 j) (now 3 j)) = some v →
            elemMasked f z.mask j = false ∧ quadElem f z.data j = v % 2 ^ fmtBits f)) ∧
    (∀ acc : Nat → Nat, c.s.opc = 0x21 → op = c.s.mod / 4 → acc = (fun j => (st.acc.getD j none).getD (redIdentity op r)) →
      ∃ z, out.outs = [(3, z)] ∧ z = { x with data := z.data } ∧ (1 ≤ x.fin.toNat → out.st.acc = []) ∧
        ∀ j < fieldElems f, elemMasked f x.mask j = false → ∃ v, redElem op r (some (acc j)) (some (quadElem f x.data j)) = some v ∧
          quadElem f z.data j = (if c.s.mod.testBit 1 then acc j else v) % 2 ^ fmtBits f ∧
          (x.fin = 0 → out.st.acc.getD j none = some v))) ∧
  (∀ (r : Rnd) (x y : Nat),
    (∀ op, redElem op r none none = none) ∧
    (∀ op, 3 ≤ op → redElem op r (some x) none = some x ∧ redElem op r none (some x) = some x) ∧
    (∀ op, op < 3 → fpDecode r.fmt x ≠ .nan → redElem op r (some x) none = some x ∧ redElem op r none (some x) = some x) ∧
    redElem 0 r (some x) (some y) = some (fpEncode (rne r.fmt) (fpAdd 0 (fpDecode r.fmt x) (fpDecode r.fmt y))) ∧
    redElem 1 r (some x) (some y) = some (fpEncode r (fpMax false (fpDecode r.fmt x) (fpDecode r.fmt y))) ∧
    redElem 2 r (some x) (some y) = some (fpEncode r (fpMax true (fpDecode r.fmt x) (fpDecode r.fmt y))) ∧
    redElem 3 r (some x) (some y) = some ((x + y) % 2 ^ fmtBits r.fmt) ∧
    (∃ z, redElem 4 r (some x) (some y) = some z ∧ intVal r.fmt z = max (intVal r.fmt x) (intVal r.fmt y)) ∧
    (∃ z, redElem 5 r (some x) (some y) = some z ∧ intVal r.fmt z = min (intVal r.fmt x) (intVal r.fmt y)))

/-! ## The Rook extension -/

/-- R335, R349, R419, R424, R426: x[rd] after BFXT is the field of x[rs1] that x[rs2] names; RFET reads the 64-byte packet of
a queue into the packet buffer and gives its first doubleword; SGWT gives whether the WAIT in the buffer holds; SGST performs
the buffer's signal operation in one step, as the core that issues it, and gives the old value, or 0 for a packet with no signal; DSPT
writes a new TP's slot on an idle floe, or places a parked TP again, and gives 0, and waits while a fault record of the floe is
unwritten or unread (R26; when the front end reads one, and the order of DSPT's reasons where several hold, are the model's choices:
log entries 160, 91). x0 stays 0, and the pc goes on by 4. A malformed operand of BFXT raises exception 25 with it as value, and a
packet of another type 26 or 28 with value 4. A read or signal that is refused raises 24, 26 or 28 with value 1 for a translation
fault, 2 for a denial, 3 for uncorrectable data, and faults the queue of the packet. DSPT raises 27, with 4 at a floe that is
absent or whose die is in reset, 3 where the image or the context record cannot be read, 2 at a malformed image, 1 at a floe that is
not idle, with stop masks set among them (the registers an exception saves into are the model's: log entry 4). -/
def Obligations.RookInstructionResults : Prop :=
  ∀ (s : State) (rd rs1 rs2 : BitVec 5) (x y : Word) (k : Rook) (done raise : Data → Nat → Word → Data)
    (why : Nat × Nat → Word), x = xget s.d rs1 →
    y = xget s.d rs2 → k = getRook s.d s.d.curR →
    done = (fun d _ v => modRook d d.curR (fun k => { k with
      regs := if rd = 0 then k.regs else k.regs.set rd.toNat v, pc := k.pc + 4 })) →
    raise = (fun d cause v => modRook d d.curR (fun k => { k with
      mepc := k.pc, mcause := BitVec.ofNat 64 cause, mtval := v, mpie := k.mie, mie := false,
      pc := BitVec.ofNat 64 (k.mtvec.toNat / 4 * 4) })) →
    why = (fun fc => if fc.1 = 0x0C then 3 else if fc.1 = 7 ∨ fc.1 = 0x10 then 2 else 1) →
    (1 ≤ y.toNat / 2 ^ 8 % 2 ^ 7 → y.toNat / 2 ^ 8 % 2 ^ 7 ≤ 64 →
      LeavesData (.bfxt rd rs1 rs2) s
        (done s.d 0 (BitVec.ofNat 64 (x.toNat / 2 ^ (y.toNat % 2 ^ 6) % 2 ^ (y.toNat / 2 ^ 8 % 2 ^ 7))))) ∧
    (y.toNat / 2 ^ 8 % 2 ^ 7 = 0 ∨ 64 < y.toNat / 2 ^ 8 % 2 ^ 7 → LeavesData (.bfxt rd rs1 rs2) s (raise s.d 25 y)) ∧
    (∀ q d ws, getSwq s.d (x.toNat % 2 ^ 12) = some q →
      readWordsAt s.d (reqCore s.d) { space := q.ring.1, psp := 0, pmod := 0 }
        (q.ring.2 + 64 * (y.toNat % 2 ^ 48 % 2 ^ q.re)) 8 = (d, .ok ws) →
      LeavesData (.rfet rd rs1 rs2) s
        (done (modRook d d.curR (fun k => { k with packet := ws, pktQueue := x.toNat % 2 ^ 12 })) 0 (ws.getD 0 0))) ∧
    (∀ q d fc, getSwq s.d (x.toNat % 2 ^ 12) = some q →
      readWordsAt s.d (reqCore s.d) { space := q.ring.1, psp := 0, pmod := 0 }
        (q.ring.2 + 64 * (y.toNat % 2 ^ 48 % 2 ^ q.re)) 8 = (d, .error fc) →
      LeavesData (.rfet rd rs1 rs2) s (raise (swqFault d (x.toNat % 2 ^ 12) 1 1 0) 24 (why fc))) ∧
    (pktType k.packet = 3 → ∀ d fc, readAt s.d (reqCore s.d) (pktSignal k.packet).1 (pktSignal k.packet).2 4 = (d, .error fc) →
      LeavesData (.sgwt rd) s (raise (swqFault d k.pktQueue 1 5 0) 26 (why fc))) ∧
    (pktType k.packet = 3 → ∀ d v, readAt s.d (reqCore s.d) (pktSignal k.packet).1 (pktSignal k.packet).2 4 = (d, .ok v) →
      LeavesData (.sgwt rd) s (done d 0 (if waitHolds (pktCond k.packet) v (pktRef k.packet) then 1 else 0))) ∧
    (pktType k.packet ≠ 3 → LeavesData (.sgwt rd) s (raise s.d 26 4)) ∧
    (∀ v w, (∀ m, waitHolds 0 v w = decide ((v + 2 ^ 32 - w) % 2 ^ 32 < 2 ^ 31) ∧ waitHolds 1 v w = (v == w) ∧
      waitHolds 2 v w = (v != w) ∧ waitHolds (3 + m) v w = (v &&& w != 0))) ∧
    (∀ op at_ v, (pktType k.packet = 4 ∧ op = pktOp k.packet ∧ at_ = pktSignal k.packet ∧ v = pktRef k.packet) ∨
        ((pktType k.packet = 1 ∨ pktType k.packet = 2) ∧ k.packet.getD 6 0 ≠ 0 ∧ op = 0 ∧ at_ = placeOf (k.packet.getD 6 0) ∧
          v = (k.packet.getD 7 0).toNat % 2 ^ 32) →
      (∀ d loc old, reach s.d (reqCore s.d) at_.1 at_.2 4 .readWrite = (d, .ok loc) → old = memRead d loc 4 →
        (poisoned d loc 4 = false → LeavesData (.sgst rd) s (done (memWrite d loc 4 (match op with
          | 0 => v
          | 1 => (old + v) % 2 ^ 32
          | _ => old ||| v) false) 0 (BitVec.ofNat 64 old))) ∧
        (poisoned d loc 4 = true → LeavesData (.sgst rd) s (raise (swqFault d k.pktQueue 1 5 0) 28 3))) ∧
      (∀ d fc, reach s.d (reqCore s.d) at_.1 at_.2 4 .readWrite = (d, .error fc) →
        LeavesData (.sgst rd) s (raise (swqFault d k.pktQueue 1 5 0) 28 (why fc)))) ∧
    ((pktType k.packet = 1 ∨ pktType k.packet = 2) → k.packet.getD 6 0 = 0 → LeavesData (.sgst rd) s (done s.d 0 0)) ∧
    (pktType k.packet = 3 ∨ pktType k.packet = 5 → LeavesData (.sgst rd) s (raise s.d 28 4)) ∧
    (144 ≤ x.toNat % 2 ^ 8 ∨ (getDie s.d (dieOf (x.toNat % 2 ^ 8))).inReset = true →
      LeavesData (.dspt rd rs1 rs2) s (raise s.d 27 4)) ∧
    (∀ d f i lid, stopMasked d (getFloe d f) = true → dsptIdle d f i lid = false) ∧
    (x.toNat % 2 ^ 8 < 144 → (getDie s.d (dieOf (x.toNat % 2 ^ 8))).inReset = false → recUnread s.d (x.toNat % 2 ^ 8) = true →
      exec (.dspt rd rs1 rs2) s = .next s) ∧
    (∀ d fc, x.toNat % 2 ^ 8 < 144 → (getDie s.d (dieOf (x.toNat % 2 ^ 8))).inReset = false →
      recUnread s.d (x.toNat % 2 ^ 8) = false →
      readWordsAt s.d (reqCore s.d) (placeOf y).1 (placeOf y).2 128 = (d, .error fc) →
      LeavesData (.dspt rd rs1 rs2) s (raise d 27 3)) ∧
    (∀ d w, x.toNat % 2 ^ 8 < 144 → (getDie s.d (dieOf (x.toNat % 2 ^ 8))).inReset = false →
      recUnread s.d (x.toNat % 2 ^ 8) = false →
      readWordsAt s.d (reqCore s.d) (placeOf y).1 (placeOf y).2 128 = (d, .ok w) → imageBad w = true →
      LeavesData (.dspt rd rs1 rs2) s (raise d 27 2)) ∧
    (∀ d w, x.toNat % 2 ^ 8 < 144 → (getDie s.d (dieOf (x.toNat % 2 ^ 8))).inReset = false →
      recUnread s.d (x.toNat % 2 ^ 8) = false →
      readWordsAt s.d (reqCore s.d) (placeOf y).1 (placeOf y).2 128 = (d, .ok w) → imageBad w = false →
      (dsptIdle d (x.toNat % 2 ^ 8) ((w.getD 0 0).toNat % 2 ^ 3) ((w.getD 3 0).toNat % 2 ^ 16) = false →
        LeavesData (.dspt rd rs1 rs2) s (raise d 27 1)) ∧
      (dsptIdle d (x.toNat % 2 ^ 8) ((w.getD 0 0).toNat % 2 ^ 3) ((w.getD 3 0).toNat % 2 ^ 16) = true →
        (w.getD 0 0).toNat / 2 ^ 3 % 2 ^ 2 = 0 → LeavesData (.dspt rd rs1 rs2) s
          (done (placeSlot d (reqCore d) (x.toNat % 2 ^ 8) ((w.getD 0 0).toNat % 2 ^ 3) (imageSlot w)) 0 0)) ∧
      (dsptIdle d (x.toNat % 2 ^ 8) ((w.getD 0 0).toNat % 2 ^ 3) ((w.getD 3 0).toNat % 2 ^ 16) = true →
        (w.getD 0 0).toNat / 2 ^ 3 % 2 ^ 2 = 1 →
        (imageParked d w = none → LeavesData (.dspt rd rs1 rs2) s (raise d 27 2)) ∧
        (∀ r sl, imageParked d w = some (r, sl) →
          (∀ d1, replaceTp d (reqCore d) r (x.toNat % 2 ^ 8) ((w.getD 0 0).toNat % 2 ^ 3) sl = (d1, .ok ()) →
            LeavesData (.dspt rd rs1 rs2) s (done d1 0 0)) ∧
          (∀ d1 e, replaceTp d (reqCore d) r (x.toNat % 2 ^ 8) ((w.getD 0 0).toNat % 2 ^ 3) sl = (d1, .error e) →
            LeavesData (.dspt rd rs1 rs2) s (raise d1 27 3)))))

/-! ## Software queues -/

/-- R284: until BOOTSTS shows STARTED, a host write to a window that start-up closes has no effect: doorbells, RELEASE, the
mailbox and queue-table registers, PTROOT, TLBI, RETRY, ATCMD, and the data apertures. -/
def Obligations.WindowsClosedUntilStarted : Prop :=
  ∀ (i : Instr) (s : State), s.mg.boot ≠ .started →
    (∃ x q v r, i ∈ [Instr.doorbellEnable x q, .doorbellRing x q, .doorbellDisable x q, .doorbellResume x q, .release x v,
      .mbxconsWrite x v, .mbxbaseWrite x v, .qtbaseWrite x v, .ptrootWrite v, .tlbi v, .retry v, .atcmd v,
      .hostInboundRequest r]) → exec i s = .next s

/-- R248, R249, R251: on a started module, with the I/O die out of reset. ENABLE of a disabled queue reads its descriptor and,
where it is valid, makes the queue EMPTY or, with packets between its indices, PENDING; RING reads PIDX again and makes an
EMPTY queue with packets PENDING and an ACTIVE one with none, and none in hand, EMPTY; DISABLE is refused while a launch or delta of
the queue is live and else disables it and frees its slot; RESUME makes a FAULTED queue PENDING; both give up the packet in hand, and
neither acts on a FAULTED queue whose record the mailbox has not accepted (R23; that RESUME and DISABLE then have no effect is the
model's choice, log 179). A free hardware slot goes to the PENDING queue of highest priority, which is
then ACTIVE. Every change is written to the queue's descriptor. The model's choices: a descriptor enabled with CIDX unlike PIDX
is PENDING at once (log 94), the descriptor is read at QTBASE of the doorbell's die (log 95), and a slot granted to a queue
whose packets are gone leaves it EMPTY (log 104). -/
def Obligations.DoorbellsAndSlots : Prop :=
  (∀ (s : State) (x q : Nat), s.mg.boot = .started → (getIo s.d x).inReset = false →
    (∀ d w, swqOff s.d q = true → readWordsAt s.d (reqRook x) (swqDesc s.d x q).1 (swqDesc s.d x q).2 8 = (d, .ok w) →
      swqDescBad x w = false → LeavesData (.doorbellEnable x q) s
        (swqPublish { d with swqs := assocSet d.swqs q (descQueue w (getIo d x).feCount) } q)) ∧
    (∀ w now, (descQueue w now).st = (if (w.getD 3 0).toNat % 2 ^ 48 = (w.getD 4 0).toNat % 2 ^ 48 then .empty else .pending)) ∧
    (∀ y, getSwq s.d q = some y →
      (y.st ≠ .disabled → exec (.doorbellEnable x q) s = .next s) ∧
      (y.st = .disabled → exec (.doorbellRing x q) s = .next s) ∧
      (∀ d v, y.st ≠ .disabled → readAt s.d (reqRook y.x) (swqDesc s.d y.x q).1 ((swqDesc s.d y.x q).2 + 24) 8 = (d, .ok v) →
        (y.st = .empty → v % 2 ^ 48 ≠ y.cidx → LeavesData (.doorbellRing x q) s
          (swqPublish (modSwq (modSwq d q (fun z => { z with pidx := v % 2 ^ 48 })) q
            (fun z => { z with st := .pending, since := (getIo d z.x).feCount })) q)) ∧
        (y.st = .active → y.packet = none → v % 2 ^ 48 = y.cidx → LeavesData (.doorbellRing x q) s
          (dropHwSlot (swqPublish (modSwq (modSwq d q (fun z => { z with pidx := v % 2 ^ 48 })) q
            (fun z => { z with st := .empty })) q) y.x q)) ∧
        (¬ (y.st = .empty ∧ v % 2 ^ 48 ≠ y.cidx) → ¬ (y.st = .active ∧ y.packet = none ∧ v % 2 ^ 48 = y.cidx) → LeavesData (.doorbellRing x q) s (modSwq d q (fun z => { z with pidx := v % 2 ^ 48 })))) ∧
      (queueBusy s.d q = true ∨ (y.st = .faulted ∧ queueHeld s.d y.x q = true) → exec (.doorbellDisable x q) s = .next s) ∧
      (queueBusy s.d q = false → y.st ≠ .faulted ∨ queueHeld s.d y.x q = false → LeavesData (.doorbellDisable x q) s
        (dropHwSlot (swqPublish (modSwq (dropPacket s.d q) q (fun z => { z with st := .disabled })) q) y.x q)) ∧
      (y.st = .faulted → queueHeld s.d y.x q = false → LeavesData (.doorbellResume x q) s
        (swqPublish (modSwq (dropPacket s.d q) q (fun z => { z with st := .pending, since := (getIo s.d z.x).feCount })) q)) ∧
      (∀ z, getSwq (dropPacket s.d q) q = some z → z.packet = none ∧ z.blockedAt = none ∧ z.todo = []) ∧
      (y.st ≠ .faulted ∨ queueHeld s.d y.x q = true → exec (.doorbellResume x q) s = .next s))) ∧
  (∀ (s : State) (x n q : Nat) (y : Swq), (getIo s.d x).inReset = false → (getIo s.d x).hwSlots.findIdx? Option.isNone = some n →
    slotWinner (s.d.swqs.filter (wantsSlot x)) = some (q, y) →
    (y.cidx ≠ y.pidx → LeavesData (.hwSlotGrant x) s (swqPublish
      (modSwq (modIo s.d x (fun io => { io with hwSlots := io.hwSlots.set n (some q) })) q (fun z => { z with st := .active })) q)) ∧
    (y.cidx = y.pidx → LeavesData (.hwSlotGrant x) s (swqPublish (modSwq s.d q (fun z => { z with st := .empty })) q))) ∧
  (∀ (l : List (Nat × Swq)) (a : Nat × Swq), slotWinner l = some a → a ∈ l ∧ ∀ b ∈ l, b.2.pri ≤ a.2.pri)

/-- R250, R252, R253, R254, R255, R256: an ACTIVE queue with packets reads packet CIDX of its ring. A malformed one faults the
queue with cause 0x02. A LAUNCH whose header fails a check is rejected with its code, and one that passes them all adds its
region, a CANDIDATE, and blocks the queue (that a reject's record has its code in DETAIL0, and 0 where there is none, is the
model's choice, log 101; which of several codes is reported, log 166; the dead-letter index of a new region, log 165). A WAIT that holds completes and another blocks. A SIGNAL completes with its
operation done, a FENCE completes. A DELTA for no live launch faults the queue with cause 0x04, and one for a region that is
not resident waits. A fault leaves the queue FAULTED, or DISABLED where it was, without its packet and its slot, with the cause and
one QFAULT record; a launch that ends completes the packet in hand where that is its own, and no other. -/
def Obligations.PacketsAreProcessed : Prop :=
  ∀ (s : State) (q : Nat) (y : Swq) (d : Data) (p : List Word), getSwq s.d q = some y → y.st = .active → y.packet = none →
    y.cidx ≠ y.pidx → (getIo s.d y.x).inReset = false →
    readWordsAt s.d (reqRook y.x) { space := y.ring.1, psp := 0, pmod := 0 } (y.ring.2 + 64 * (y.cidx % 2 ^ y.re)) 8
      = (d, .ok p) →
    (pktOk p = false → LeavesData (.launchPacket q) s (swqFault d q 4 2 0) ∧ LeavesData (.waitPacket q) s (swqFault d q 4 2 0) ∧
      LeavesData (.signalPacket q) s (swqFault d q 4 2 0) ∧ LeavesData (.fencePacket q) s (swqFault d q 4 2 0) ∧
      LeavesData (.deltaPacket q) s (swqFault d q 4 2 0)) ∧
    (pktOk p = true →
      (pktType p = 1 → ∀ d1 h, readWordsAt d (reqRook y.x) (placeOf (p.getD 1 0)).1 (placeOf (p.getD 1 0)).2 16 = (d1, .ok h) →
        (headerCode h ((p.getD 0 0).toNat / 2 ^ 32 % 2 ^ 8 + 1) ≠ 0 → LeavesData (.launchPacket q) s
          (swqFault d1 q 4 3 (BitVec.ofNat 64 (headerCode h ((p.getD 0 0).toNat / 2 ^ 32 % 2 ^ 8 + 1))))) ∧
        (headerCode h ((p.getD 0 0).toNat / 2 ^ 32 % 2 ^ 8 + 1) = 0 →
          (launchCode d1 y p h ≠ 0 → LeavesData (.launchPacket q) s (swqFault d1 q 4 3 (BitVec.ofNat 64 (launchCode d1 y p h)))) ∧
          (∀ d2 ctl, launchCode d1 y p h = 0 →
            readWordsAt d1 (reqRook y.x) vaPlace ((regCtx (newRegion d1 q y p h []) + 2 ^ 30) % 2 ^ 52) 8 = (d2, .ok ctl) →
            controlBad ctl = false → LeavesData (.launchPacket q) s
              (blockQueue { d2 with regions := d2.regions.filter (fun x => x.lid != (p.getD 0 0).toNat / 2 ^ 48 % 2 ^ 16)
                                      ++ [newRegion d2 q y p h ctl] } q p)))) ∧
      (pktType p = 3 → ∀ d1 v, readAt (blockQueue d q p) (reqRook y.x) (pktSignal p).1 (pktSignal p).2 4 = (d1, .ok v) →
        (waitHolds (pktCond p) v (pktRef p) = true → LeavesData (.waitPacket q) s (swqComplete d1 q)) ∧
        (waitHolds (pktCond p) v (pktRef p) = false → LeavesData (.waitPacket q) s d1)) ∧
      (pktType p = 4 → ∀ d1 old, signalOp d (reqRook y.x) (pktOp p) (pktSignal p) (pktRef p) = (d1, .ok old) →
        LeavesData (.signalPacket q) s (swqComplete d1 q)) ∧
      (pktType p = 5 → LeavesData (.fencePacket q) s (swqComplete d q)) ∧
      (pktType p = 2 →
        (getRegion (blockQueue d q p) ((p.getD 0 0).toNat / 2 ^ 48 % 2 ^ 16) = none →
          LeavesData (.deltaPacket q) s (swqFault (blockQueue d q p) q 4 4 0)) ∧
        (∀ r, getRegion (blockQueue d q p) ((p.getD 0 0).toNat / 2 ^ 48 % 2 ^ 16) = some r →
          regionLive r = false ∨ (∃ f ∈ maskFloes p, f ∉ r.floes) →
          LeavesData (.deltaPacket q) s (swqFault (blockQueue d q p) q 4 4 0)) ∧
        (∀ r, getRegion (blockQueue d q p) ((p.getD 0 0).toNat / 2 ^ 48 % 2 ^ 16) = some r → regionLive r = true →
          (∀ f ∈ maskFloes p, f ∈ r.floes) →
          (r.st ≠ .resident → LeavesData (.deltaPacket q) s (blockQueue d q p)) ∧
          (r.st = .resident → LeavesData (.deltaPacket q) s (deltaBegin (blockQueue d q p) q y p r))))) ∧
    (pktOk p = true → pktType p ≠ 1 → exec (.launchPacket q) s = .next s) ∧
    (pktOk p = true → pktType p ≠ 5 → exec (.fencePacket q) s = .next s) ∧
    (∀ kind cause detail, swqFault s.d q kind cause detail = swqRec
      (dropHwSlot (swqPublish (modSwq (dropPacket s.d q) q (fun z => { z with
        st := if z.st = .disabled then .disabled else .faulted, cause := cause })) q) y.x q)
      y.x q kind 0x0E cause detail 0) ∧
    (∀ d q' z w lid, getSwq d q' = some z →
      (z.packet = some w → pktType w = 1 → (w.getD 0 0).toNat / 2 ^ 48 % 2 ^ 16 = lid → launchEnds d q' lid = swqComplete d q') ∧
      (z.packet = none ∨ (∃ w', z.packet = some w' ∧ (pktType w' ≠ 1 ∨ (w'.getD 0 0).toNat / 2 ^ 48 % 2 ^ 16 ≠ lid)) →
        launchEnds d q' lid = d))

/-- R254, R256: a queue that holds an unsatisfied WAIT completes it once the condition holds and waits on while it does not;
past WLIM times 4,096 front-end cycles it writes one WAITTIMEOUT record and waits on; blocked for its quantum it gives up its
slot and is WAITING. A DELTA waits for a floe that has not drained or has a fault record unwritten or unread, and writes each
other floe the image its delta makes of the current one, and clears its masks; with the last floe the packet is done. The
model's choices: what the WAITTIMEOUT record names (log 103), that a DELTA's masks do not freeze the field (log 108), and when
the front end reads a record (log 160). -/
def Obligations.BlockedQueuesGoOn : Prop :=
  (∀ (s : State) (q : Nat) (y : Swq) (p : List Word), heldWait s.d q = some (y, p) →
    (∀ d v, readAt s.d (reqRook y.x) (pktSignal p).1 (pktSignal p).2 4 = (d, .ok v) →
      (waitHolds (pktCond p) v (pktRef p) = true → LeavesData (.waitEvaluate q) s (swqComplete d q)) ∧
      (waitHolds (pktCond p) v (pktRef p) = false → LeavesData (.waitEvaluate q) s d)) ∧
    (y.wlim ≠ 0 → y.timedOut = false → y.fetchedAt + y.wlim * 4096 ≤ (getIo s.d y.x).feCount →
      LeavesData (.waitTimeout q) s
        (swqRec (modSwq s.d q (fun z => { z with timedOut := true })) y.x q 6 0x0F 0 (p.getD 1 0) 0)) ∧
    (y.wlim = 0 ∨ y.timedOut = true ∨ (getIo s.d y.x).feCount < y.fetchedAt + y.wlim * 4096 →
      exec (.waitTimeout q) s = .next s)) ∧
  (∀ (s : State) (q t : Nat) (y : Swq), getSwq s.d q = some y → y.blockedAt = some t → y.st = .active → y.packet ≠ none →
    (t + y.qnt * 4096 ≤ (getIo s.d y.x).feCount → LeavesData (.queueQuantumExpire q) s
      (dropHwSlot (swqPublish (modSwq s.d q (fun z => { z with st := .waiting })) q) y.x q)) ∧
    ((getIo s.d y.x).feCount < t + y.qnt * 4096 → exec (.queueQuantumExpire q) s = .next s)) ∧
  (∀ (s : State) (q f : Nat) (y : Swq) (p : List Word) (r : Region), getSwq s.d q = some y → y.packet = some p →
    pktType p = 2 → f ∈ y.todo → (getIo s.d y.x).inReset = false →
    getRegion s.d ((p.getD 0 0).toNat / 2 ^ 48 % 2 ^ 16) = some r → regionLive r = true →
    (maskDrained (getFloe s.d f) = false ∨ recUnread s.d f = true → exec (.deltaFloeWrite q f) s = .next s) ∧
    (∀ d d1 w n base id t, r.st = .resident → maskDrained (getFloe s.d f) = true →
      (List.range 32).any (fun x => solverHolds s.d f x) = false → recUnread s.d f = false →
      readWordsAt s.d (reqRook y.x) (placeOf (p.getD 2 0)).1 (placeOf (p.getD 2 0)).2 8 = (d, .ok w) →
      deltaHead w = some (n, base, id) → (getFloe d f).cfg.curId = base →
      deltaImage d (reqRook y.x) (placeOf (p.getD 2 0)) (getFloe d f).cfg.cur f n = (d1, .ok t) →
      (y.todo.filter (fun x => x != f) ≠ [] → LeavesData (.deltaFloeWrite q f) s
        (modSwq (deltaMaskSet (modFloe d1 f (imageWrite t id)) false f) q
          (fun z => { z with todo := y.todo.filter (fun x => x != f) }))) ∧
      (y.todo.filter (fun x => x != f) = [] → p.getD 6 0 = 0 → LeavesData (.deltaFloeWrite q f) s
        (swqComplete (modSwq (deltaMaskSet (modFloe d1 f (imageWrite t id)) false f) q
          (fun z => { z with todo := y.todo.filter (fun x => x != f) })) q))))

/-! ## Regions -/

/-- R26, R257, R258, R259, R260, R270: SAVED regions that no BRK holds are candidates again at a pass; those that have started are
taken first, the others in order of priority, the older first on a tie. A candidate may take a floe of a running die that is
free, or that a RESIDENT region of lower priority, or an expired one of the same, holds. One that may take all its floes
starts: it is loaded or restored on floes that are free and have no record unwritten or unread; else it makes the regions that
hold them save, and then they are its own until they are; one that may not only claims its floes. (That a started candidate
keeps its floes over later passes, and that a SAVED region is a candidate at the next pass, are the model's choices: logs 106,
107; that a record merely unread holds a start back, whenever it was written, and when one is read: log 160, DEDUCED from R26.) With
no I/O die running there is no pass. A quantum that ends with a
candidate of equal priority waiting for one of the region's floes leaves the region expired; otherwise a new one starts.
RELEASE makes a SAVED region that a BRK holds a CANDIDATE. -/
def Obligations.RegionsAreScheduled : Prop :=
  (∀ s : State,
    ((getIo s.d 0).inReset = true → (getIo s.d 1).inReset = true → exec .schedulerPass s = .next s) ∧
    ((getIo s.d 0).inReset = false ∨ (getIo s.d 1).inReset = false → ∀ d,
      d = { s.d with regions := s.d.regions.map (fun r =>
        if r.st = .saved ∧ r.held = false then { r with st := .candidate } else r) } →
      LeavesData .schedulerPass s
        ((passOrder (d.regions.filter (fun r => r.st == .candidate))).foldl passStep (d, [])).1)) ∧
  (∀ l : List Region, (candOrder l).Perm l ∧
    (candOrder l).Pairwise (fun a b => b.pri < a.pri ∨ (b.pri = a.pri ∧ a.age ≤ b.age)) ∧
    passOrder l = l.filter (fun r => r.claim) ++ candOrder (l.filter (fun r => ! r.claim))) ∧
  (∀ (d : Data) (c : Region) (f : Nat), mayTakeFloe d c f = true ↔ (getDie d (dieOf f)).inReset = false ∧
    (∀ l r, (getFloe d f).lid = some l → getRegion d l = some r →
      r.st = .resident ∧ (r.pri < c.pri ∨ (r.pri = c.pri ∧ r.expired = true)))) ∧
  (∀ (d : Data) (cl : List Nat) (c : Region) (free : Prop),
    free = (∀ f ∈ c.floes, (getDie d (dieOf f)).inReset = false ∧ recUnread d f = false ∧ (getFloe d f).lid = none) →
    (passStep (d, cl) c).2 = cl ++ c.floes ∧
    (c.claim = true →
      (free → (passStep (d, cl) c).1 = startRegion d c) ∧ (¬ free → (passStep (d, cl) c).1 = d)) ∧
    (c.claim = false →
      ((∃ f ∈ c.floes, mayTakeFloe d c f = false ∨ f ∈ cl) → (passStep (d, cl) c).1 = d) ∧
      ((∀ f ∈ c.floes, mayTakeFloe d c f = true ∧ f ∉ cl) →
        (free → (passStep (d, cl) c).1 = startRegion d c) ∧
        (¬ free → (passStep (d, cl) c).1 =
          modRegion ((holders d c).foldl preempt d) c.lid (fun r => { r with claim := true })))) ∧
    (c.loaded = false → startRegion d c = loadRegion (modRegion d c.lid (fun r => { r with claim := false })) c) ∧
    (c.loaded = true → startRegion d c = c.floes.foldl (fun d f => modFloe d f (fun fl => { fl with
        lid := some c.lid, halting := true, halted := true, frozen := true }))
      (modRegion (modRegion d c.lid (fun r => { r with claim := false })) c.lid (fun r => { r with st := .restoring })))) ∧
  (∀ (s : State) (lid : Nat) (r : Region), getRegion s.d lid = some r →
    (r.st = .resident → r.expired = false → r.quantumAt + r.qnt * 4096 ≤ (getIo s.d r.x).feCount → allRetired r = false →
      LeavesData (.regionQuantumExpire lid) s (modRegion s.d lid (fun z =>
        if s.d.regions.any (fun c => (c.st == .candidate || (c.st == .saved && ! c.held)) && c.pri == r.pri &&
          c.floes.any (fun f => r.floes.contains f))
        then { z with expired := true } else { z with quantumAt := (getIo s.d r.x).feCount }))) ∧
    ((getIo s.d r.x).feCount < r.quantumAt + r.qnt * 4096 → exec (.regionQuantumExpire lid) s = .next s)) ∧
  (∀ (s : State) (x : Nat) (v : BitVec 64), s.mg.boot = .started → (getIo s.d x).inReset = false →
    LeavesData (.release x v) s (modRegion s.d (v.toNat % 2 ^ 16) (fun r =>
      if r.st = .saved ∧ r.held = true then { r with held := false, st := .candidate } else r)))

/-- R26, R274, R276, R277, R278, R279, R387: a floe of a region that is SAVING is masked and frozen, and with every issued
instruction complete it is halted, the FLOE LDS still pending completing with it (the moment is the model's, log 163); then,
its records written, it is saved once. A RESTORING region whose save areas and context records read back is resident on
its floes with its saved contexts, and one of which a read fails has FAILED. A resident region that has made no progress for its limit while it holds work, or one of whose floes
has not while it drains, is judged a stalemate, with cause 0x04 or 0x05. -/
def Obligations.RegionsSaveAndRestore : Prop :=
  (∀ (s : State) (f lid : Nat) (r : Region) (d : Data), (getFloe s.d f).lid = some lid → getRegion s.d lid = some r →
    (r.st ≠ .saving → exec (.sequencerHalt f) s = .next s ∧ exec (.floeSaveComplete f) s = .next s) ∧
    (r.st = .saving → (getFloe s.d f).halted = false → d = modFloe s.d f (fun fl => { fl with
        halting := true, frozen := true, slots := fl.slots.map (fun sl => { sl with mask := true }) }) →
      (floeQuiet (getFloe d f) = false → LeavesData (.sequencerHalt f) s d) ∧
      (floeQuiet (getFloe d f) = true → LeavesData (.sequencerHalt f) s (modFloe (haltLds (withdraw d f) f) f (fun fl => { fl with
        halted := true, slots := fl.slots.map (fun sl => if sl.st = .empty then sl else haltSlot sl),
        streams := fl.streams.map (fun e => e.map haltCmd) })))) ∧
    (r.st = .saving → (getFloe s.d f).halted = true → recHeldFor s.d f = false →
      (r.savedFloes.any (fun x => x.entry == (getFloe s.d f).entry) = true → exec (.floeSaveComplete f) s = .next s) ∧
      (r.savedFloes.any (fun x => x.entry == (getFloe s.d f).entry) = false →
        LeavesData (.floeSaveComplete f) s (saveFloe s.d f r)))) ∧
  (∀ (s : State) (lid : Nat) (r : Region), getRegion s.d lid = some r →
    (r.st ≠ .restoring → exec (.regionRestore lid) s = .next s) ∧
    (∀ d, r.st = .restoring → (∀ f ∈ r.floes, floeReady s.d f = true) →
      restoreReads s.d r (List.range r.floes.length) = (d, .ok ()) →
      LeavesData (.regionRestore lid) s (becomeResident (retryEngines
        (modRegion ((List.range r.floes.length).foldl (restoreFloe r) d) lid
          (fun z => { z with savedFloes := [], savedCells := [] })) lid) lid)) ∧
    (∀ d fc a, r.st = .restoring → (∀ f ∈ r.floes, floeReady s.d f = true) →
      restoreReads s.d r (List.range r.floes.length) = (d, .error (fc, a)) →
      LeavesData (.regionRestore lid) s (areaFault d r fc a)) ∧
    (r.st = .resident → regionWork s.d r = true → (∀ f ∈ r.floes, r.slim ≤ (getFloe s.d f).quiet) →
      LeavesData (.regionStalemate lid) s (declareStalemate s.d r 4 0)) ∧
    (r.st ≠ .resident ∨ regionWork s.d r = false ∨ (∃ f ∈ r.floes, (getFloe s.d f).quiet < r.slim) →
      exec (.regionStalemate lid) s = .next s) ∧
    (∀ f, (getFloe s.d f).lid = some lid → r.st = .resident →
      (r.slim ≤ (getFloe s.d f).quiet → ((getFloe s.d f).cfg.state = .draining ∨ (getFloe s.d f).deltaMask = true) →
        LeavesData (.drainStalemate f) s (declareStalemate s.d r 5 (getFloe s.d f).entry)) ∧
      ((getFloe s.d f).quiet < r.slim → exec (.drainStalemate f) s = .next s)))

/-! ## The host interface -/

/-- R17, R23, R26, R265, R284, R457: a held record enters the mailbox, oldest first, when it has room, and joins the
records the front end has yet to read (that there is such a list, and when a record leaves it, is the model's: log 160);
one of an embedding engine lets that engine go on with the updates and copies it had left. On a started module MBXCONS
takes a value from the current one to MBXPROD and ignores another; MBXBASE and QTBASE take a well-formed value while the
mailbox is empty and no queue of the die is enabled; PTROOT is ignored while a launch is live; TLBI drops the entries it
names and shows busy until it completes. A host read of QTBASE, MBXBASE, MBXPROD, MBXCONS or PTROOT gives the register
on a started module, and a window that start-up closes reads as zero. The paired count follows the front end's every
4,096 cycles. R23, R265, R271, R284, R287, R290, R292, R293: RETRY of a stopped stream command makes it ACTIVE again;
one of a command that has not stopped, or whose record the mailbox has not accepted, or with a reserved bit set has no
effect. ATCMD with GO installs the staged entry in the table it names in one step, or refuses a staged entry that is
malformed or a target that is none with its refusal bit; without GO it only stores (log 122; what RETRY's entry 0 and
its reserved bits name is log 115: the model's choices). A staged or installed entry reads back with its reserved bits
zero. A host write to MODID, HBAR, the staging registers or, with no launch live, the route table changes that register
alone. -/
def Obligations.HostRegistersAct : Prop :=
  (∀ (s : State) (x : Nat) (v : BitVec 64), (getIo s.d x).inReset = false →
      (∀ ws rest loc d, (getIo s.d x).heldRecs = ws :: rest → mbxRoom s.d x = some loc →
        d = modIo (memWriteWords s.d loc ws) x (fun io => { io with
          mbxprod := io.mbxprod + 1, unread := io.unread ++ [ws.headD 0], heldRecs := rest }) →
        LeavesData (.heldRecordWrite x) s
          (if (ws.headD 0).toNat / 2 ^ 19 % 2 ^ 5 = 4 ∧ (ws.headD 0).toNat / 2 ^ 24 % 2 ^ 8 < 4
           then stepsGo d ((ws.headD 0).toNat / 2 ^ 24 % 2 ^ 8) else d)) ∧
      ((getIo s.d x).heldRecs = [] ∨ mbxRoom s.d x = none → exec (.heldRecordWrite x) s = .next s) ∧
      ((getIo s.d x).paired + 4096 ≤ (getIo s.d x).feCount → LeavesData (.pairedCountDelivery x) s
        (modIo s.d x (fun io => { io with paired := io.feCount / 4096 * 4096 }))) ∧
      LeavesData .tlbiComplete s { s.d with tlbBusy := false } ∧
      (s.mg.boot = .started →
        ((getIo s.d x).mbxcons.toNat ≤ v.toNat → v.toNat ≤ (getIo s.d x).mbxprod.toNat →
          LeavesData (.mbxconsWrite x v) s (modIo s.d x (fun io => { io with mbxcons := v }))) ∧
        (v.toNat < (getIo s.d x).mbxcons.toNat ∨ (getIo s.d x).mbxprod.toNat < v.toNat →
          exec (.mbxconsWrite x v) s = .next s) ∧
        (mbxLoc s.d v ≠ none → (getIo s.d x).mbxprod = (getIo s.d x).mbxcons →
          LeavesData (.mbxbaseWrite x v) s (modIo s.d x (fun io => { io with mbxbase := v }))) ∧
        (mbxLoc s.d v = none ∨ (getIo s.d x).mbxprod ≠ (getIo s.d x).mbxcons → exec (.mbxbaseWrite x v) s = .next s) ∧
        (addrForm v 64 = true → (∀ e ∈ s.d.swqs, e.2.x = x → e.2.st = .disabled) →
          LeavesData (.qtbaseWrite x v) s (modIo s.d x (fun io => { io with qtbase := v }))) ∧
        (addrForm v 64 = false ∨ (∃ e ∈ s.d.swqs, e.2.x = x ∧ e.2.st ≠ .disabled) →
          exec (.qtbaseWrite x v) s = .next s) ∧
        ((∃ r ∈ s.d.regions, regionLive r = true) → exec (.ptrootWrite v) s = .next s) ∧
        ((∀ r ∈ s.d.regions, regionLive r = false) →
          LeavesData (.ptrootWrite v) s { s.d with ptroot := v &&& 0x000FFFFFFFFF0061#64 }) ∧
        LeavesData (.tlbi v) s { s.d with
          tlbBusy := true,
          floes := s.d.floes.map (fun fl => { fl with utlb := fl.utlb.filter (fun e => ! tlbiHits v e) }),
          dies := s.d.dies.map (fun c => { c with stlb := c.stlb.filter (fun e => ! tlbiHits v e) }) }) ∧
      (∀ off ts, s.agenda = .bar0Read off :: ts → step s = .next { s with agenda := ts, d := { s.d with
        replies := numBytes 8 (bar0Value s off).toNat :: s.d.replies } }) ∧
      (∀ off, 0x10000 ≤ off → off < 0x2000000 → s.mg.boot ≠ .started → bar0Value s off = 0) ∧
      (s.mg.boot = .started → x < 2 → bar0Value s (0x10008 + 0x1000 * x) = (getIo s.d x).qtbase ∧
        bar0Value s (0x10018 + 0x1000 * x) = (getIo s.d x).mbxbase ∧ bar0Value s (0x10020 + 0x1000 * x) = (getIo s.d x).mbxprod ∧
        bar0Value s (0x10028 + 0x1000 * x) = (getIo s.d x).mbxcons ∧ bar0Value s 0x20000 = s.d.ptroot)) ∧
  (∀ (s : State) (v : BitVec 64), 
      (s.mg.boot = .started →
        (v.toNat / 2 ^ 18 ≠ 0 → exec (.retry v) s = .next s) ∧
        (∀ f e c, v.toNat = 1 + f * 2 ^ 5 + e * 2 ^ 13 → f < 144 → e < 2 ^ 5 → getCmd s.d f e = some c →
          (c.st = .stopped → unitHeld s.d 1 f e = false → LeavesData (.retry v) s (setCmd s.d f e (some { c with st := .active }))) ∧
          (c.st ≠ .stopped ∨ unitHeld s.d 1 f e = true → exec (.retry v) s = .next s)) ∧
        (v.getLsbD 31 = false → LeavesData (.atcmd v) s { s.d with atcmd := v &&& ~~~(0x40000000#64) }) ∧
        (v.getLsbD 31 = true →
          (60 < v.toNat % 2 ^ 6 ∨ stagedBad s.d.staged = true →
            LeavesData (.atcmd v) s { s.d with atcmd := (v &&& ~~~(0x40000000#64)) ||| 0x40000000#64 }) ∧
          (v.toNat % 2 ^ 6 ≤ 60 → stagedBad s.d.staged = false → LeavesData (.atcmd v) s { s.d with
            atcmd := v &&& ~~~(0x40000000#64),
            acl := (List.range 8).foldl (fun a i => spSet 0 a ((v.toNat % 2 ^ 6 * 256 + v.toNat / 2 ^ 8 % 2 ^ 8) * 8 + i)
              (s.d.staged.getD i 0).toNat) s.d.acl })) ∧
        (∀ i, i < 8 → LeavesData (.registerWrite (0xF0000 + 8 * i) v) s { s.d with staged := s.d.staged.set i v }) ∧
        (∀ i, i < 8 → bar0Value s (0xF0000 + 8 * i) = (s.d.staged.getD i 0 &&&
          (if i % 2 = 0 then 0x000FFFFFFFFFF01F#64 else 0x000FFFFFFFFFF000#64))) ∧
        (∀ t i, t < 61 → i < 2048 → bar0Value s (0x100000 + 0x4000 * t + 8 * i) = (BitVec.ofNat 64 (spGet 0 s.d.acl (t * 2048 + i)) &&&
          (if i % 2 = 0 then 0x000FFFFFFFFFF01F#64 else 0x000FFFFFFFFFF000#64))) ∧
        (∀ i, i < 1024 → anyLive s.d = false → LeavesData (.registerWrite (0x1000000 + 8 * i) v) s
          { s.d with routes := spSet 0 s.d.routes i (v.toNat % 2 ^ 12) })) ∧
      LeavesData (.registerWrite 0x8 v) s { s.d with modid := v.truncate 16 } ∧
      LeavesData (.registerWrite 0x10 v) s { s.d with hbar := BitVec.ofNat 64 (v.toNat / 2 ^ 30 % 2 ^ 22 * 2 ^ 30) })

/-- R263, R264, R286, R288, R289, R290: of an inbound request each part in a 4-KiB unit is a request of its own (the model's, log
157): a read that its target admits replies with the bytes, a write stores them, poison and all, and an atomic replies with the
old bytes and stores the new word; a refused one changes nothing there and its reply is empty (log 118). A token word is
delivered to the launch that holds its destination, or goes back to the sending module (log 119). A message reaches an
embedding engine that grants the station its right (log 155), as does a copy or marker that comes back to it (log 176). The
host reaches LPD in its HDM range and HBM in its aperture, and nothing else (which spaces they are is the model's, log 117). A
station whose link is down serves nothing. A link that goes down leaves every route mask; what it had sent goes by another
station, a token word for which none is left is a dead letter, and a command with requests at a module that no station reaches
stops with ENGINE 0x50 (log 174). A failed request to another module's memory traps its TP with ENGINE 0x51, and a counted
write with it never performs (log 162). A page walk changes nothing but the floe's TLB and the shared TLBs (log 116). -/
def Obligations.InboundRequestsAct : Prop :=
  (∀ (s : State) (st a n : Nat) (t : InTarget) (virt psn : Bool) (bs : List Byte) (op : BitVec 3) (v cmp : BitVec 32) (d : Data),
    (stationUp s.d st = false → ∀ r, exec (.peerInboundRequest st r) s = .next s) ∧
    (stationUp s.d st = true →
      (∀ fc, 0 < n → a / 4096 = (a + n - 1) / 4096 → inReach s.d (reqStation st) t virt a n .read = (d, .error fc) →
        LeavesData (.peerInboundRequest st (.read t virt a n)) s { d with replies := [] :: d.replies }) ∧
      (∀ loc, 0 < n → a / 4096 = (a + n - 1) / 4096 → inReach s.d (reqStation st) t virt a n .read = (d, .ok loc) →
        LeavesData (.peerInboundRequest st (.read t virt a n)) s
          { d with replies := (keysFrom loc n).map (memByte d) :: d.replies }) ∧
      (∀ loc, 0 < bs.length → a / 4096 = (a + bs.length - 1) / 4096 →
        inReach s.d (reqStation st) t virt a bs.length .write = (d, .ok loc) →
        LeavesData (.peerInboundRequest st (.write t virt a bs psn)) s (memWriteBytes d loc bs psn)) ∧
      (∀ fc, 0 < bs.length → a / 4096 = (a + bs.length - 1) / 4096 →
        inReach s.d (reqStation st) t virt a bs.length .write = (d, .error fc) →
        LeavesData (.peerInboundRequest st (.write t virt a bs psn)) s { d with replies := [] :: d.replies }) ∧
      LeavesData (.peerInboundRequest st (.read t virt a n)) s ((unitParts a n).foldl (fun d p =>
        inAccess d (reqStation st) (.read t virt p.1 p.2)) s.d) ∧
      LeavesData (.peerInboundRequest st (.write t virt a bs psn)) s ((unitParts a bs.length).foldl (fun d p =>
        inAccess d (reqStation st) (.write t virt p.1 ((bs.drop (p.1 - a)).take p.2) psn)) s.d) ∧
      (∀ loc e, inReach s.d (reqStation st) t virt a 4 .readWrite = (d, .ok loc) → poisoned d loc 4 = false →
        e = memWrite d loc 4 (atomNew op (BitVec.ofNat 32 (memRead d loc 4)) v cmp).toNat false →
        LeavesData (.peerInboundRequest st (.atomic t virt a op v cmp)) s
          { e with replies := (keysFrom loc 4).map (memByte d) :: e.replies }) ∧
      (∀ w dst src c, (launchOf s.d dst = none → LeavesData (.peerInboundRequest st (.token w dst src c)) s { s.d with
          bounced := { word := w, dst := dst, src := src, srcOwner := ⟨65536, 0⟩, c := c } :: s.d.bounced }) ∧
        (launchOf s.d dst ≠ none → LeavesData (.peerInboundRequest st (.token w dst src c)) s
          (deliver s.d { word := w, dst := dst, src := src, srcOwner := ⟨65536, 0⟩, c := c }))) ∧
      (∀ die m, die < 4 → (getDie s.d die).inReset = false →
        (msgRight m = none → LeavesData (.peerInboundRequest st (.emb die m)) s (embArrive s.d die m)) ∧
        (msgReturns (engHere s.d die) m = true → LeavesData (.peerInboundRequest st (.emb die m)) s (embArrive s.d die m)) ∧
        (∀ right, msgRight m = some right → msgReturns (engHere s.d die) m = false →
          (aclOk s.d (34 + die) (0xE0 + st) right 0 1 = true →
            LeavesData (.peerInboundRequest st (.emb die m)) s (embArrive s.d die m)) ∧
          (aclOk s.d (34 + die) (0xE0 + st) right 0 1 = false →
            LeavesData (.peerInboundRequest st (.emb die m)) s (embRefused s.d m right))))) ∧
    (s.mg.boot = .started →
      (∀ r, hostMay s.d r = true → LeavesData (.hostInboundRequest r) s (inAccess s.d reqHost r)) ∧
      (∀ r, hostMay s.d r = false → exec (.hostInboundRequest r) s = .next s) ∧
      (hostMay s.d (.read .lpd false a n) = true ↔ s.d.hdm.1 ≤ a ∧ a + n ≤ s.d.hdm.1 + s.d.hdm.2) ∧
      (hostMay s.d (.read .hbm false a n) = true ↔ s.d.hbar.toNat ≤ a ∧ a + n ≤ s.d.hbar.toNat + 2 ^ 36) ∧
      hostMay s.d (.read .l2 virt a n) = false ∧
      (∀ loc, 0 < n → a / 4096 = (a + n - 1) / 4096 → hostMay s.d (.read .lpd false a n) = true →
        inReach s.d reqHost .lpd false a n .read = (d, .ok loc) → LeavesData (.hostInboundRequest (.read .lpd false a n)) s
          { d with replies := (keysFrom loc n).map (memByte d) :: d.replies }))) ∧
  (∀ (s : State) (st : Nat) (d d1 : Data) (lost : List TokMsg),
    d = { modIo s.d (st / 6) (fun io => { io with links := io.links.set (st % 6) false }) with
      routes := s.d.routes.foldl (fun t e => spSet 0 t e.1 (if e.2.testBit st then e.2 - 2 ^ st else e.2)) [] } →
    lost = (s.d.sent.filter (fun x => x.2.1 == st && (wordStation d x.1 x.2.2.dst).isNone)).map (fun x => x.2.2) →
    d1 = lost.reverse.foldl (fun d w => deadLetter d w.srcOwner.lid w 2) { d with
      sent := s.d.sent.filterMap (fun x =>
        if x.2.1 = st then (wordStation d x.1 x.2.2.dst).map (fun y => (x.1, y, x.2.2)) else some x),
      embSent := s.d.embSent.map (fun x => if x.2.1 = st then (x.1, (stationFor d (x.1 / 4) 0).getD 12, x.2.2) else x) } →
    LeavesData (.ualinkLinkDown st) s (modulesLost d1 (onlyBy s.d st)) ∧
    (st < 12 → s.d.ios.length = 2 → (getIo s.d (st / 6)).links.length = 6 →
      (getIo d (st / 6)).links.getD (st % 6) true = false) ∧
    (spWf 0 s.d.routes = true → ∀ m, routeMask d m =
      (if (routeMask s.d m).testBit st then routeMask s.d m - 2 ^ st else routeMask s.d m)) ∧
    ((∀ c < 4, (getEmb s.d c).cmds = [] ∧ (getEmb s.d c).migrating = []) → lost = [] → LeavesData (.ualinkLinkDown st) s d1)) ∧
  (∀ (d : Data) (c m : Nat) (x : EmbCmd) (w : Nat × Nat) (l : List (Nat × Nat)),
    (itemsAt d c m x = [] ∨ x.stopped ≠ none ∨ x.failAt ≠ none → moduleLost c m d x = d) ∧
    (itemsAt d c m x = w :: l → x.stopped = none → x.failAt = none → x.op = 2 → moduleLost c m d x =
      embFault (modEmbId d c x.id (fun _ => { x with redo := x.redo ++ w :: l })) c c { x with redo := x.redo ++ w :: l }
        (if x.n = 0 then 0 else w.2) (true, edBase x.tab, (0x10, 0x50)))) ∧
  (∀ (s : State) (f k i : Nat) (p : Pend) (ev : Instr), ev ∈ [Instr.ualinkErrorCompletion (.access f k i),
      .ualinkCompletionTimeout (.access f k i)] → (getTp s.d f k).pends.find? (fun q => q.id == i) = some p →
    (p.peer.isSome && isMem p) = true →
    LeavesData ev s (trapWr (isWrite p) (modTp (loseWrite s.d f k p.wno 2) f k (withoutPend p)) f k 0x10 0x51 p.addr p.word 0)) ∧
  (∀ (s : State) (f e : Nat) (c : Cmd) (v : View) (wr second : Bool) (ev : Instr), ev ∈ [Instr.ualinkErrorCompletion
      (.unit (.floe f e) second), .ualinkCompletionTimeout (.unit (.floe f e) second)] → getCmd s.d f e = some c →
    cmdPeer s.d c second = some (v, wr) → c.st = .active → c.killed = none →
    LeavesData ev s (streamStop s.d f e c wr ((0x10, 0x51), elemAddr v.lte (elemNext s.d f c v second))) ∧
    (isGather c.kind = false → elemNext s.d f c v second = ((wordCoords c v c.words).drop (c.pos - wordPos c c.words)).headD [])) ∧
  (∀ (s : State) (die n : Nat) (c : LayCmd) (second : Bool) (l : List Word) (ev : Instr), ev ∈ [Instr.ualinkErrorCompletion
      (.unit (.firn die n) second), .ualinkCompletionTimeout (.unit (.firn die n) second)] → firnCmd s.d die n = some c →
    l = (if second then c.dst else c.src) → c.stopped = false → c.pos < layTotal c →
    (farPeer s.d l = true → LeavesData ev s (layStop s.d die n c second (elemAddr l
      ((if second then digits ((List.range (lteRank c.dst)).map (lteExt c.dst)) c.pos
        else dmSource c.dmw ((dmExt c.dmw c.src).getD []) c.pos).map (fun (i : Nat) => (i : Int)))) (0x10, 0x51))) ∧
    (farPeer s.d l = false → exec ev s = .next s)) ∧
  (∀ (s : State) (f : Nat) (va : BitVec 52) (need : Need), Leaves (.pageWalk f va need) s (fun t =>
    t.d = (translate s.d (reqFloe f) va.toNat need).1 ∧ t = { s with d := { s.d with floes := t.d.floes, dies := t.d.dies } } ∧
    t.d.floes.map (fun fl => { fl with utlb := [] }) = s.d.floes.map (fun fl => { fl with utlb := [] }) ∧
    t.d.dies.map (fun c => { c with stlb := [] }) = s.d.dies.map (fun c => { c with stlb := [] })))

/-! ## The management plane -/

/-- R19, R22, R24, R25, R297, R298, R299, R300, R301, R302, R303: the clock steps by 25 MHz and stays between 300 and 600; a
telemetry read and an SPDM response change no state a program can observe. PERST begins a start: ROM, one more start counted,
at most 3. A start that has not failed completes with the host die's front end ready: STARTED, the count 0, the security version
the greater of the fused and the manifest's. The ROM reads the manifest: VERIFY; the first die released after it verifies
begins TRAIN. A start fails for a reason that holds, its reason in BOOTSTS, and goes no further; with 3 counted it ends in
minimal mode, where the host I/O die alone runs, its units held. There the recovery commands append the staging buffer, verify
the image and begin a start from a count of 0; elsewhere they do nothing. The order of the reasons of an image, what PERST
leaves empty or 0, the phases and which event finds a reason are the model's choices (logs 172, 24, 125, 126, 173). -/
def Obligations.StartUpSteps : Prop :=
  ∀ (s : State) (fresh : Mgmt → Mgmt),
    fresh = (fun m => { m with
      boot := .rom, fails := min 3 (m.fails + 1), failed := false, xd := 0, bad := [], starts := m.starts + 1, clock := 600, staging := [],
      rcmdReason := 0, fes := [0, 0], corrected := List.replicate 6 0 }) →
    exec .clockStepDown s = .next { s with mg := { s.mg with
      clock := if 325 ≤ s.mg.clock then s.mg.clock - 25 else s.mg.clock } } ∧
    exec .clockStepUp s = .next { s with mg := { s.mg with
      clock := if s.mg.clock + 25 ≤ 600 then s.mg.clock + 25 else s.mg.clock } } ∧
    (∀ die n, ∃ v, exec (.telemetryRead die n) s = .next { s with mg := { s.mg with telemetry := v :: s.mg.telemetry } }) ∧
    (∃ r, exec .spdmMeasurementRequest s = .next { s with mg := { s.mg with spdm := r :: s.mg.spdm } }) ∧
    exec .perst s = .next { s with d := coldData s.d, mg := fresh s.mg } ∧
    (s.mg.boot = .load → s.mg.failed = false → s.mg.fes.getD s.mg.xd 0 = 1 → exec .startComplete s =
      .next { s with mg := { s.mg with boot := .started, fails := 0, reason := 0,
                                       svn := BitVec.ofNat 8 (max s.mg.svn.toNat (Config.imageSvn s.mg.flash % 2 ^ 8)) } }) ∧
    (s.mg.boot ≠ .load ∨ s.mg.failed = true ∨ s.mg.fes.getD s.mg.xd 0 ≠ 1 → exec .startComplete s = .next s) ∧
    (∀ i reason going, (i = Instr.startFail reason ∨ (i = .startTimeout ∧ reason = 8)) →
      going = (s.mg.boot ≠ .started ∧ s.mg.boot ≠ .minimal ∧ s.mg.failed = false) →
      (¬ going ∨ (i = .startFail reason ∧ mayFail s.mg reason = false) → exec i s = .next s) ∧
      (going → i = .startTimeout ∨ mayFail s.mg reason = true →
        (s.mg.fails < 3 → exec i s = .next { s with mg := { s.mg with
          reason := reason, boot := if s.mg.boot = .rom ∧ reason ≠ 8 then .verify else s.mg.boot, failed := true } }) ∧
        (3 ≤ s.mg.fails → exec i s = .next { s with
          d := modIo (ioReset (ioReset ((List.range 4).foldl computeReset s.d) 0) 1) s.mg.xd
            (fun io => { io with inReset := false, held := true }),
          mg := { s.mg with reason := reason, boot := .minimal } }))) ∧
    (∀ m reason, mayFail m reason = true ↔ m.boot ≠ .started ∧ m.boot ≠ .minimal ∧ m.failed = false ∧
      ((m.boot = .rom ∨ m.boot = .verify) → reason ≠ 0 ∧ reason.toNat = verifyFlash m) ∧
      (m.boot = .train → reason = 5 ∨ reason = 6 ∨ reason = 7) ∧
      (m.boot = .load → reason ≠ 0 ∧ (0x80 + reason) ∈ m.fes)) ∧
    (∀ m, verifyFlash m ≤ 10 ∧ (verifyFlash m = 0 ↔ Config.imageReadable m.flash = true ∧ Config.imageFormed m.flash = true ∧
      keyFuse m.ecdsaFuses (Config.imageEcdsaKey m.flash) = some false ∧ Config.imageEcdsaGood m.flash = true ∧
      keyFuse m.lmsFuses (Config.imageLmsKey m.flash) = some false ∧ Config.imageLmsGood m.flash = true ∧
      m.svn.toNat ≤ Config.imageSvn m.flash % 2 ^ 8) ∧
      (Config.imageReadable m.flash = false → verifyFlash m = 10) ∧
      (verifyFlash m = 3 → Config.imageSvn m.flash % 2 ^ 8 < m.svn.toNat)) ∧
    (∀ ts, s.agenda = .verify :: ts → step s = .next { s with
      agenda := ts, mg := if s.mg.boot = .rom ∧ s.mg.failed = false then { s.mg with boot := .verify } else s.mg }) ∧
    (∀ c, c < 4 → s.mg.boot = .verify → s.mg.failed = false →
      (verifyFlash s.mg = 0 → exec (.dieLeavesReset c) s = .next { s with
        d := modDie s.d c (fun x => { x with inReset := false }), mg := { s.mg with boot := .train } }) ∧
      (verifyFlash s.mg ≠ 0 → exec (.dieLeavesReset c) s = .next s)) ∧
    (∀ die, s.mg.boot = .rom ∨ s.mg.boot = .minimal ∨ (s.mg.boot ≠ .started ∧ s.mg.failed = true) →
      exec (.dieLeavesReset die) s = .next s) ∧
    (s.mg.boot = .minimal →
      exec .rcmdAppend s = .next { s with mg := { s.mg with flash := s.mg.flash ++ readBytes s.mg.staging 0 65536 } } ∧
      exec .rcmdVerify s = .next { s with mg := { s.mg with rcmdReason := BitVec.ofNat 8 (verifyFlash s.mg) } } ∧
      exec .rcmdStart s = .next { s with d := coldData s.d, mg := fresh { s.mg with fails := 0 } }) ∧
    (s.mg.boot ≠ .minimal → exec .rcmdAppend s = .next s ∧ exec .rcmdVerify s = .next s ∧ exec .rcmdStart s = .next s)

/-- R22, R25, R249, R297, R298, R299: a die reset fails every live region with a floe on a compute die and leaves that die as
as at reset, or disables the queues of an I/O die, keeps its held records and paired count, and clears its status counter (what a reset leaves of memory, records and queues is the model's choice: logs 123, 124). A die leaves reset where the management
core may release it, an I/O die with the queues it serves disabled; X0, where its self-test fails at this start, stays in reset and X1
is the host I/O die. FLR fails every live region and disables every software queue. The boot ROM of an I/O die whose cores are
in it, at a start that has not failed or while STARTED, starts the cores where the image verifies against the fuses, and else
leaves them and the reason in the die's status counter. -/
def Obligations.ResetsAndBoot : Prop :=
  (∀ (s : State) (die : Nat), die < 4 → exec (.dieReset die) s = .next { s with d := computeReset s.d die } ∧
    ∀ d : Data, computeReset d die = (List.range 36).foldl (fun d i => loseCells d (36 * die + i))
      (modDie (let e := (regionsOn d die).foldl failRegion (modDie d die (fun c => { c with
          firnQ := [], firn := c.firn.map (fun _ => none), emb := { c.emb with cmds := [] } }))
        { e with floes := e.floes.mapIdx (fun f fl => if dieOf f = die then Floe.reset else fl) }) die (fun _ => Die.reset))) ∧
  (∀ (s : State) (x : Nat) (d : Data), x < 2 →
    d = modIo s.d x (fun io => { IoDie.reset with heldRecs := io.heldRecs, paired := io.paired }) →
    exec (.dieReset (4 + x)) s = .next { s with
      d := (s.d.swqs.filter (fun e => e.2.x == x)).foldl (fun d e =>
        modSwq (dropPacket d e.1) e.1 (fun z => { z with st := .disabled })) d,
      mg := { s.mg with fes := s.mg.fes.set x 0 } }) ∧
  (∀ (s : State) (die : Nat), s.mg.boot = .started → die < 6 →
    (die = 4 → Config.selfTestFails s.mg.starts = true →
      exec (.dieLeavesReset die) s = .next { s with mg := { s.mg with bad := [0], xd := 1 } }) ∧
    (die ≠ 4 ∨ Config.selfTestFails s.mg.starts = false → exec (.dieLeavesReset die) s = .next { s with
      d := if die < 4 then modDie s.d die (fun c => { c with inReset := false })
        else (s.d.swqs.filter (fun e => e.2.x == die - 4)).foldl (fun d e =>
          modSwq (dropPacket d e.1) e.1 (fun z => { z with st := .disabled }))
          (modIo s.d (die - 4) (fun io => { io with inReset := false })) })) ∧
  (∀ (s : State) (d : Data), d = (s.d.regions.filter regionLive).foldl (fun d r => failRegion d r.lid) s.d →
    LeavesData .flr s (d.swqs.foldl (fun d e => dropHwSlot (swqPublish
      (modSwq (dropPacket d e.1) e.1 (fun z => { z with st := .disabled })) e.1) e.2.x e.1) d)) ∧
  (∀ (s : State) (x : Nat) (inRom : Prop), inRom = ((getIo s.d x).inReset = false ∧ (getIo s.d x).held = false ∧
      s.mg.fes.getD x 0 = 0 ∧ (s.mg.boot = .started ∨ (s.mg.failed = false ∧ (s.mg.boot = .train ∨ s.mg.boot = .load)))) →
    (¬ inRom → exec (.rookBoot x) s = .next s) ∧
    (inRom → verifyFlash s.mg ≠ 0 → exec (.rookBoot x) s = .next { s with mg := { s.mg with
      boot := if s.mg.boot = .train then .load else s.mg.boot,
      fes := s.mg.fes.set x (BitVec.ofNat 8 (0x80 + verifyFlash s.mg)) } }) ∧
    (inRom → verifyFlash s.mg = 0 → exec (.rookBoot x) s = .next { s with
      d := bootCores s.d x s.mg.flash,
      mg := { s.mg with boot := if s.mg.boot = .train then .load else s.mg.boot, fes := s.mg.fes.set x 1 } }))

/-! ## The whole machine -/

/-- Every instruction and every step completes: whatever the state, exec answers a next state, and the agents on the agenda
stay (the agenda is the model's, log entry 2). -/
def Obligations.EveryInstructionCompletes : Prop :=
  ∀ (i : Instr) (s : State), Leaves i s (fun t => t.agenda = s.agenda)

/-- R22: no instruction a program, an engine, the front end or a peer can run changes the management plane: only clock steps,
telemetry, resets and start-up, recovery commands and a host write to the staging buffer do. -/
def Obligations.ManagementPlaneIsKept : Prop :=
  ∀ (i : Instr) (s : State), (∀ die n off v reason, i ∉ [Instr.clockStepDown, .clockStepUp, .telemetryRead die n, .dieReset die,
      .dieLeavesReset die, .perst, .rookBoot die, .startComplete, .startFail reason, .startTimeout, .rcmdAppend, .rcmdVerify,
      .rcmdStart, .spdmMeasurementRequest] ∧
      (i = .registerWrite off v → s.mg.boot ≠ .minimal ∨ off < 0x2000000 ∨ 0x2010000 ≤ off)) → Leaves i s (fun t => t.mg = s.mg)

/-- R19, R302, R303: every step keeps the management plane in range: the clock a multiple of 25 MHz from 300 to 600, the
count of failed starts at most 3, the host I/O die one of two, one status counter for each I/O die, and the staging
buffer in its canonical form. R300: the fused security version never falls, whatever the step. -/
def Obligations.ManagementInvariant : Prop :=
  (Safety.Invariant (fun s => 300 ≤ s.mg.clock ∧ s.mg.clock ≤ 600 ∧ s.mg.clock % 25 = 0 ∧ s.mg.fails ≤ 3 ∧ s.mg.xd ≤ 1 ∧
      s.mg.fes.length = 2 ∧ s.mg.staging.wf = true)) ∧
  (∀ s t : State, step s = .next t → s.mg.svn ≤ t.mg.svn)

/-- R22, R298, R302: reset leaves every die in reset, BOOTSTS at ROM with one start counted, the field clock at 600 MHz, every
software queue, region and launch absent and memory with nothing listed (ROM with one start counted, the counters at 0 and what
memory holds are the model's choices: logs 24 and 1); the invariant of the management plane holds there. -/
def Obligations.ResetState : Prop :=
  State.reset.mg.boot = .rom ∧ State.reset.mg.fails = 1 ∧ State.reset.mg.clock = 600 ∧ State.reset.mg.xd = 0 ∧
  State.reset.mg.fes = [0, 0] ∧ State.reset.mg.staging.wf = true ∧ State.reset.d.mem = [] ∧ State.reset.d.swqs = [] ∧
  State.reset.d.regions = [] ∧ State.reset.d.dies.length = 4 ∧ State.reset.d.ios.length = 2 ∧ State.reset.d.floes.length = 144 ∧
  (∀ c ∈ State.reset.d.dies, c.inReset = true) ∧ (∀ x ∈ State.reset.d.ios, x.inReset = true)

/-- R6, R175: memory in its canonical form keeps it when n bytes are stored; the n bytes then read as the low bytes of
the value stored, little-endian, and every other byte reads as before. R83, R281: an element that SSCT writes in memory
becomes, in mode .st, the incoming value; .add their sum, of integers modulo 2^width and of floating-point numbers
rounded once to nearest even; .max and .min the larger and the smaller, of integers as signed numbers, of floating-point
numbers as FMAX states, where a NaN gives way to the other and -0 lies below +0. Every byte outside the element's
stands. -/
def Obligations.MemoryWritesAndCombines : Prop :=
  (∀ (d : Data) (loc n v : Nat) (psn : Bool), d.mem.wf = true →
      (memWrite d loc n v psn).mem.wf = true ∧ memRead (memWrite d loc n v psn) loc n = v % 256 ^ n ∧
      (∀ a, a < loc ∨ loc + n ≤ a → memByte (memWrite d loc n v psn) a = memByte d a)) ∧
  ((∀ (d : Data) (p : Piece) (e x mode f : Nat) (psn : Bool), d.mem.wf = true → p.sh = 0 → e = pieceRead d [p] →
      pieceRead (elemWrite psn mode f d ([p], x)) [p] = (if mode = 0 then x else combine mode f e x) % 2 ^ p.n ∧
      (elemWrite psn mode f d ([p], x)).mem.wf = true ∧
      ∀ a, Outside [p] a → memByte (elemWrite psn mode f d ([p], x)) a = memByte d a) ∧
    (∀ f e x, f = 8 ∨ f = 10 → e < 2 ^ fmtBits f → x < 2 ^ fmtBits f → combine 1 f e x = (e + x) % 2 ^ fmtBits f ∧
      combine 2 f e x < 2 ^ fmtBits f ∧ intVal f (combine 2 f e x) = max (intVal f e) (intVal f x) ∧
      combine 3 f e x < 2 ^ fmtBits f ∧ intVal f (combine 3 f e x) = min (intVal f e) (intVal f x)) ∧
    (∀ f e x, f = 0 ∨ f = 1 ∨ f = 2 →
      combine 1 f e x = fpEncode (rne f) (fpAdd 0 (fpDecode f e) (fpDecode f x)) ∧
      combine 2 f e x = fpEncode (rne f) (fpMax false (fpDecode f e) (fpDecode f x)) ∧
      combine 3 f e x = fpEncode (rne f) (fpMax true (fpDecode f e) (fpDecode f x))) ∧
    (∀ (least s t : Bool) (m n : Nat) (e g : Int) (v : Fp),
      fpMax least .nan v = v ∧ fpMax least v .nan = v ∧
      fpMax false (.fin true 0 e) (.fin false 0 g) = .fin false 0 g ∧ fpMax false (.fin false 0 e) (.fin true 0 g) = .fin false 0 e ∧
      fpMax true (.fin true 0 e) (.fin false 0 g) = .fin true 0 e ∧ fpMax true (.fin false 0 e) (.fin true 0 g) = .fin true 0 g ∧
      (∃ q k j, fpMax least (.fin s m e) (.fin t n g) = .fin q k j ∧ (if q then -(k : ℚ) else k) * 2 ^ j =
        if least then min ((if s then -(m : ℚ) else m) * 2 ^ e) ((if t then -(n : ℚ) else n) * 2 ^ g)
        else max ((if s then -(m : ℚ) else m) * 2 ^ e) ((if t then -(n : ℚ) else n) * 2 ^ g))))
end

