-- ==== Sys2Proof/Laws/Sparse.lean ====
section
/-!
SUPPORT. The laws of the sparse tables: a read after a write, a write elsewhere, and the canonical form that every
operation of memory keeps.
-/

namespace Sys2Proof.Machine

/-! ## Reading what was written -/

/-- The key written reads as the value written. -/
@[simp] theorem spGet_spSet_same {β : Type} [DecidableEq β] (z : β) (l : List (Nat × β)) (k : Nat) (v : β) (b : Nat)
    (h : spWfFrom z b l = true) : spGet z (spSet z l k v) k = v := by
  induction l generalizing b with
  | nil =>
    simp only [spSet]
    split <;> simp_all [spGet]
  | cons e l ih =>
    obtain ⟨a, x⟩ := e
    simp only [spWfFrom, Bool.and_eq_true, decide_eq_true_eq] at h
    have tail : k < a + 1 → spGet z l k = z := by
      intro hk
      have hl := h.2
      revert hl
      cases l with
      | nil => intro _; rfl
      | cons e l =>
        obtain ⟨a', x'⟩ := e
        intro hl
        simp only [spWfFrom, Bool.and_eq_true, decide_eq_true_eq] at hl
        have h1 : k < a' := by omega
        have h2 : k ≠ a' := by omega
        simp [spGet, h1, h2]
    simp only [spSet]
    split
    · split
      · rename_i hk hv
        have : k ≠ a := by omega
        simp [spGet, this, hk, hv]
      · simp [spGet]
    · split
      · split
        · rename_i hk hv
          rw [tail (by omega), hv]
        · simp [spGet]
      · rename_i hk hk'
        simp only [spGet, if_neg hk', if_neg hk]
        exact ih (a + 1) h.2

/-- Any other key reads as before. -/
theorem spGet_spSet_other {β : Type} [DecidableEq β] (z : β) (l : List (Nat × β)) (k j : Nat) (v : β) (b : Nat)
    (h : spWfFrom z b l = true) (hj : j ≠ k) : spGet z (spSet z l k v) j = spGet z l j := by
  induction l generalizing b with
  | nil =>
    simp only [spSet]
    split
    · rfl
    · simp only [spGet, if_neg hj]; split <;> rfl
  | cons e l ih =>
    obtain ⟨a, x⟩ := e
    simp only [spWfFrom, Bool.and_eq_true, decide_eq_true_eq] at h
    have tail : j < a + 1 → spGet z l j = z := by
      intro hk
      have hl := h.2
      revert hl
      cases l with
      | nil => intro _; rfl
      | cons e l =>
        obtain ⟨a', x'⟩ := e
        intro hl
        simp only [spWfFrom, Bool.and_eq_true, decide_eq_true_eq] at hl
        have h1 : j < a' := by omega
        have h2 : j ≠ a' := by omega
        simp [spGet, h1, h2]
    simp only [spSet]
    split
    · split
      · rfl
      · rename_i hk hv
        simp only [spGet, if_neg hj]
        by_cases h1 : j < k
        · have h2 : j ≠ a := by omega
          have h3 : j < a := by omega
          simp [h1, h2, h3]
        · simp [h1]
    · split
      · split
        · rename_i hk hka hv
          subst hka
          simp only [spGet, if_neg hj]
          by_cases h1 : j < k
          · simp only [if_pos h1]; exact tail (by omega)
          · simp [h1]
        · rename_i hk hka hv
          subst hka
          simp only [spGet, if_neg hj]
      · rename_i hk hka
        simp only [spGet]
        rw [ih (a + 1) h.2]

/-! ## The canonical form -/

/-- A lower bound of the keys may be lowered. -/
theorem spWfFrom_mono {β : Type} [DecidableEq β] (z : β) (l : List (Nat × β)) (b c : Nat) (hc : c ≤ b)
    (h : spWfFrom z b l = true) : spWfFrom z c l = true := by
  cases l with
  | nil => rfl
  | cons e l =>
    obtain ⟨a, x⟩ := e
    simp only [spWfFrom, Bool.and_eq_true, decide_eq_true_eq] at h ⊢
    exact ⟨⟨by omega, h.1.2⟩, h.2⟩

/-- A write keeps the canonical form. -/
theorem spSet_wfFrom {β : Type} [DecidableEq β] (z : β) (l : List (Nat × β)) (k : Nat) (v : β) (b : Nat)
    (h : spWfFrom z b l = true) (hb : b ≤ k) : spWfFrom z b (spSet z l k v) = true := by
  induction l generalizing b with
  | nil =>
    simp only [spSet]
    split
    · rfl
    · rename_i hv; simp [spWfFrom, hb, hv]
  | cons e l ih =>
    obtain ⟨a, x⟩ := e
    have h' := h
    simp only [spWfFrom, Bool.and_eq_true, decide_eq_true_eq] at h'
    simp only [spSet]
    split
    · rename_i hk
      split
      · exact h
      · rename_i hv
        simp only [spWfFrom, Bool.and_eq_true, decide_eq_true_eq]
        exact ⟨⟨hb, hv⟩, ⟨by omega, h'.1.2⟩, h'.2⟩
    · split
      · rename_i hk hka
        split
        · exact spWfFrom_mono z l (a + 1) b (by omega) h'.2
        · rename_i hv
          simp only [spWfFrom, Bool.and_eq_true, decide_eq_true_eq]
          subst hka
          exact ⟨⟨hb, hv⟩, h'.2⟩
      · rename_i hk hka
        simp only [spWfFrom, Bool.and_eq_true, decide_eq_true_eq]
        exact ⟨h'.1, ih (a + 1) h'.2 (by omega)⟩

/-- A write keeps the canonical form of a table. -/
theorem spSet_wf {β : Type} [DecidableEq β] (z : β) (l : List (Nat × β)) (k : Nat) (v : β) (h : spWf z l = true) :
    spWf z (spSet z l k v) = true := spSet_wfFrom z l k v 0 h (Nat.zero_le k)

/-- Entries may be left out. -/
theorem spWfFrom_filter {β : Type} [DecidableEq β] (z : β) (p : Nat × β → Bool) (l : List (Nat × β)) (b : Nat)
    (h : spWfFrom z b l = true) : spWfFrom z b (l.filter p) = true := by
  induction l generalizing b with
  | nil => rfl
  | cons e l ih =>
    obtain ⟨a, x⟩ := e
    simp only [spWfFrom, Bool.and_eq_true, decide_eq_true_eq] at h
    simp only [List.filter_cons]
    split
    · simp only [spWfFrom, Bool.and_eq_true, decide_eq_true_eq]
      exact ⟨h.1, ih (a + 1) h.2⟩
    · exact spWfFrom_mono z _ (a + 1) b (by omega) (ih (a + 1) h.2)

/-- Dropping a range of keys keeps the canonical form. -/
theorem spDrop_wf {β : Type} [DecidableEq β] (z : β) (l : List (Nat × β)) (lo hi : Nat) (h : spWf z l = true) :
    spWf z (spDrop l lo hi) = true := spWfFrom_filter z _ l 0 h

/-! ## Memory -/

/-- The byte written reads back. -/
@[simp] theorem readByte_writeByte_same (m : Memory) (a : Nat) (v : Byte) (h : m.wf = true) :
    readByte (writeByte m a v) a = v := spGet_spSet_same 0 m a v 0 h

/-- Every other byte stands. -/
theorem readByte_writeByte_other (m : Memory) (a j : Nat) (v : Byte) (h : m.wf = true) (hj : j ≠ a) :
    readByte (writeByte m a v) j = readByte m j := spGet_spSet_other 0 m a j v 0 h hj

/-- Storing a byte keeps the canonical form. -/
@[simp] theorem writeByte_wf (m : Memory) (a : Nat) (v : Byte) (h : m.wf = true) : (writeByte m a v).wf = true :=
  spSet_wf 0 m a v h

/-- Storing bytes keeps the canonical form. -/
theorem writeBytes_wf (m : Memory) (a : Nat) (bs : List Byte) (h : m.wf = true) : (writeBytes m a bs).wf = true := by
  induction bs generalizing m a with
  | nil => exact h
  | cons b bs ih => exact ih _ _ (writeByte_wf m a b h)

/-- Storing a number keeps the canonical form. -/
theorem writeNum_wf (m : Memory) (a n x : Nat) (h : m.wf = true) : (writeNum m a n x).wf = true := by
  induction n generalizing m a x with
  | zero => exact h
  | succ n ih => exact ih _ _ _ (writeByte_wf m a _ h)

/-- A stored number changes no byte outside its own. -/
theorem readByte_writeNum_other (m : Memory) (a n x j : Nat) (h : m.wf = true) (hj : j < a ∨ a + n ≤ j) :
    readByte (writeNum m a n x) j = readByte m j := by
  induction n generalizing m a x with
  | zero => rfl
  | succ n ih =>
    simp only [writeNum]
    rw [ih _ _ _ (writeByte_wf m a _ h) (by omega)]
    exact readByte_writeByte_other m a j _ h (by omega)

/-- A stored number reads back, little-endian. -/
theorem readNum_writeNum (m : Memory) (a n x : Nat) (h : m.wf = true) :
    readNum (writeNum m a n x) a n = x % 256 ^ n := by
  induction n generalizing m a x with
  | zero => simp [readNum, Nat.mod_one]
  | succ n ih =>
    simp only [readNum, writeNum]
    rw [ih _ _ _ (writeByte_wf m a _ h),
      readByte_writeNum_other _ _ _ _ _ (writeByte_wf m a _ h) (by omega),
      readByte_writeByte_same m a _ h]
    have hb : (BitVec.ofNat 8 x).toNat = x % 256 := by simp
    rw [hb, Nat.pow_succ', Nat.mod_mul]

/-- Memory after reset is in canonical form. -/
theorem reset_mem_wf : Memory.wf State.reset.d.mem = true := rfl

end Sys2Proof.Machine
end

