-- ==== Sys2Proof/Laws/State.lean ====
section
/-!
SUPPORT. What each update of the state leaves alone: one lemma per field per update.
-/

namespace Sys2Proof.Machine

/-! ## A step of the data plane keeps the management plane and the agenda (R22) -/

@[simp] theorem nextD_eq (s : State) (h : Data → Data) : nextD s h = .next { s with d := h s.d } := rfl
@[simp] theorem nextDM_eq (s : State) (h : Data → Data) (m : Mgmt → Mgmt) :
    nextDM s h m = .next { s with d := h s.d, mg := m s.mg } := rfl
@[simp] theorem hostWrite_eq (s : State) (h : Data → Data) :
    hostWrite s h = .next { s with d := if s.mg.boot = .started then h s.d else s.d } := rfl

/-! ## modFloe -/

@[simp] theorem modFloe_mem (d : Data) (f : Nat) (h : Floe → Floe) : (modFloe d f h).mem = d.mem := rfl
@[simp] theorem modFloe_poison (d : Data) (f : Nat) (h : Floe → Floe) : (modFloe d f h).poison = d.poison := rfl
@[simp] theorem modFloe_devFmt (d : Data) (f : Nat) (h : Floe → Floe) : (modFloe d f h).devFmt = d.devFmt := rfl
@[simp] theorem modFloe_dies (d : Data) (f : Nat) (h : Floe → Floe) : (modFloe d f h).dies = d.dies := rfl
@[simp] theorem modFloe_ios (d : Data) (f : Nat) (h : Floe → Floe) : (modFloe d f h).ios = d.ios := rfl
@[simp] theorem modFloe_swqs (d : Data) (f : Nat) (h : Floe → Floe) : (modFloe d f h).swqs = d.swqs := rfl
@[simp] theorem modFloe_regions (d : Data) (f : Nat) (h : Floe → Floe) : (modFloe d f h).regions = d.regions := rfl
@[simp] theorem modFloe_net (d : Data) (f : Nat) (h : Floe → Floe) : (modFloe d f h).net = d.net := rfl
@[simp] theorem modFloe_ptroot (d : Data) (f : Nat) (h : Floe → Floe) : (modFloe d f h).ptroot = d.ptroot := rfl
@[simp] theorem modFloe_tlbBusy (d : Data) (f : Nat) (h : Floe → Floe) : (modFloe d f h).tlbBusy = d.tlbBusy := rfl
@[simp] theorem modFloe_modid (d : Data) (f : Nat) (h : Floe → Floe) : (modFloe d f h).modid = d.modid := rfl
@[simp] theorem modFloe_hbar (d : Data) (f : Nat) (h : Floe → Floe) : (modFloe d f h).hbar = d.hbar := rfl
@[simp] theorem modFloe_staged (d : Data) (f : Nat) (h : Floe → Floe) : (modFloe d f h).staged = d.staged := rfl
@[simp] theorem modFloe_atcmd (d : Data) (f : Nat) (h : Floe → Floe) : (modFloe d f h).atcmd = d.atcmd := rfl
@[simp] theorem modFloe_acl (d : Data) (f : Nat) (h : Floe → Floe) : (modFloe d f h).acl = d.acl := rfl
@[simp] theorem modFloe_routes (d : Data) (f : Nat) (h : Floe → Floe) : (modFloe d f h).routes = d.routes := rfl
@[simp] theorem modFloe_widRoutes (d : Data) (f : Nat) (h : Floe → Floe) : (modFloe d f h).widRoutes = d.widRoutes := rfl
@[simp] theorem modFloe_hostHoles (d : Data) (f : Nat) (h : Floe → Floe) : (modFloe d f h).hostHoles = d.hostHoles := rfl
@[simp] theorem modFloe_replies (d : Data) (f : Nat) (h : Floe → Floe) : (modFloe d f h).replies = d.replies := rfl
@[simp] theorem modFloe_sent (d : Data) (f : Nat) (h : Floe → Floe) : (modFloe d f h).sent = d.sent := rfl
@[simp] theorem modFloe_embSent (d : Data) (f : Nat) (h : Floe → Floe) : (modFloe d f h).embSent = d.embSent := rfl
@[simp] theorem modFloe_bounced (d : Data) (f : Nat) (h : Floe → Floe) : (modFloe d f h).bounced = d.bounced := rfl
@[simp] theorem modFloe_peerNo (d : Data) (f : Nat) (h : Floe → Floe) : (modFloe d f h).peerNo = d.peerNo := rfl
@[simp] theorem modFloe_hdm (d : Data) (f : Nat) (h : Floe → Floe) : (modFloe d f h).hdm = d.hdm := rfl
@[simp] theorem modFloe_curF (d : Data) (f : Nat) (h : Floe → Floe) : (modFloe d f h).curF = d.curF := rfl
@[simp] theorem modFloe_curK (d : Data) (f : Nat) (h : Floe → Floe) : (modFloe d f h).curK = d.curK := rfl
@[simp] theorem modFloe_curR (d : Data) (f : Nat) (h : Floe → Floe) : (modFloe d f h).curR = d.curR := rfl
@[simp] theorem modFloe_curW (d : Data) (f : Nat) (h : Floe → Floe) : (modFloe d f h).curW = d.curW := rfl

/-! ## modSlot -/

@[simp] theorem modSlot_mem (d : Data) (f k : Nat) (h : Slot → Slot) : (modSlot d f k h).mem = d.mem := rfl
@[simp] theorem modSlot_poison (d : Data) (f k : Nat) (h : Slot → Slot) : (modSlot d f k h).poison = d.poison := rfl
@[simp] theorem modSlot_devFmt (d : Data) (f k : Nat) (h : Slot → Slot) : (modSlot d f k h).devFmt = d.devFmt := rfl
@[simp] theorem modSlot_dies (d : Data) (f k : Nat) (h : Slot → Slot) : (modSlot d f k h).dies = d.dies := rfl
@[simp] theorem modSlot_ios (d : Data) (f k : Nat) (h : Slot → Slot) : (modSlot d f k h).ios = d.ios := rfl
@[simp] theorem modSlot_swqs (d : Data) (f k : Nat) (h : Slot → Slot) : (modSlot d f k h).swqs = d.swqs := rfl
@[simp] theorem modSlot_regions (d : Data) (f k : Nat) (h : Slot → Slot) : (modSlot d f k h).regions = d.regions := rfl
@[simp] theorem modSlot_net (d : Data) (f k : Nat) (h : Slot → Slot) : (modSlot d f k h).net = d.net := rfl
@[simp] theorem modSlot_ptroot (d : Data) (f k : Nat) (h : Slot → Slot) : (modSlot d f k h).ptroot = d.ptroot := rfl
@[simp] theorem modSlot_tlbBusy (d : Data) (f k : Nat) (h : Slot → Slot) : (modSlot d f k h).tlbBusy = d.tlbBusy := rfl
@[simp] theorem modSlot_modid (d : Data) (f k : Nat) (h : Slot → Slot) : (modSlot d f k h).modid = d.modid := rfl
@[simp] theorem modSlot_hbar (d : Data) (f k : Nat) (h : Slot → Slot) : (modSlot d f k h).hbar = d.hbar := rfl
@[simp] theorem modSlot_staged (d : Data) (f k : Nat) (h : Slot → Slot) : (modSlot d f k h).staged = d.staged := rfl
@[simp] theorem modSlot_atcmd (d : Data) (f k : Nat) (h : Slot → Slot) : (modSlot d f k h).atcmd = d.atcmd := rfl
@[simp] theorem modSlot_acl (d : Data) (f k : Nat) (h : Slot → Slot) : (modSlot d f k h).acl = d.acl := rfl
@[simp] theorem modSlot_routes (d : Data) (f k : Nat) (h : Slot → Slot) : (modSlot d f k h).routes = d.routes := rfl
@[simp] theorem modSlot_widRoutes (d : Data) (f k : Nat) (h : Slot → Slot) : (modSlot d f k h).widRoutes = d.widRoutes := rfl
@[simp] theorem modSlot_hostHoles (d : Data) (f k : Nat) (h : Slot → Slot) : (modSlot d f k h).hostHoles = d.hostHoles := rfl
@[simp] theorem modSlot_replies (d : Data) (f k : Nat) (h : Slot → Slot) : (modSlot d f k h).replies = d.replies := rfl
@[simp] theorem modSlot_sent (d : Data) (f k : Nat) (h : Slot → Slot) : (modSlot d f k h).sent = d.sent := rfl
@[simp] theorem modSlot_embSent (d : Data) (f k : Nat) (h : Slot → Slot) : (modSlot d f k h).embSent = d.embSent := rfl
@[simp] theorem modSlot_bounced (d : Data) (f k : Nat) (h : Slot → Slot) : (modSlot d f k h).bounced = d.bounced := rfl
@[simp] theorem modSlot_peerNo (d : Data) (f k : Nat) (h : Slot → Slot) : (modSlot d f k h).peerNo = d.peerNo := rfl
@[simp] theorem modSlot_hdm (d : Data) (f k : Nat) (h : Slot → Slot) : (modSlot d f k h).hdm = d.hdm := rfl
@[simp] theorem modSlot_curF (d : Data) (f k : Nat) (h : Slot → Slot) : (modSlot d f k h).curF = d.curF := rfl
@[simp] theorem modSlot_curK (d : Data) (f k : Nat) (h : Slot → Slot) : (modSlot d f k h).curK = d.curK := rfl
@[simp] theorem modSlot_curR (d : Data) (f k : Nat) (h : Slot → Slot) : (modSlot d f k h).curR = d.curR := rfl
@[simp] theorem modSlot_curW (d : Data) (f k : Nat) (h : Slot → Slot) : (modSlot d f k h).curW = d.curW := rfl

/-! ## modTp -/

@[simp] theorem modTp_mem (d : Data) (f k : Nat) (h : Tp → Tp) : (modTp d f k h).mem = d.mem := rfl
@[simp] theorem modTp_poison (d : Data) (f k : Nat) (h : Tp → Tp) : (modTp d f k h).poison = d.poison := rfl
@[simp] theorem modTp_devFmt (d : Data) (f k : Nat) (h : Tp → Tp) : (modTp d f k h).devFmt = d.devFmt := rfl
@[simp] theorem modTp_dies (d : Data) (f k : Nat) (h : Tp → Tp) : (modTp d f k h).dies = d.dies := rfl
@[simp] theorem modTp_ios (d : Data) (f k : Nat) (h : Tp → Tp) : (modTp d f k h).ios = d.ios := rfl
@[simp] theorem modTp_swqs (d : Data) (f k : Nat) (h : Tp → Tp) : (modTp d f k h).swqs = d.swqs := rfl
@[simp] theorem modTp_regions (d : Data) (f k : Nat) (h : Tp → Tp) : (modTp d f k h).regions = d.regions := rfl
@[simp] theorem modTp_net (d : Data) (f k : Nat) (h : Tp → Tp) : (modTp d f k h).net = d.net := rfl
@[simp] theorem modTp_ptroot (d : Data) (f k : Nat) (h : Tp → Tp) : (modTp d f k h).ptroot = d.ptroot := rfl
@[simp] theorem modTp_tlbBusy (d : Data) (f k : Nat) (h : Tp → Tp) : (modTp d f k h).tlbBusy = d.tlbBusy := rfl
@[simp] theorem modTp_modid (d : Data) (f k : Nat) (h : Tp → Tp) : (modTp d f k h).modid = d.modid := rfl
@[simp] theorem modTp_hbar (d : Data) (f k : Nat) (h : Tp → Tp) : (modTp d f k h).hbar = d.hbar := rfl
@[simp] theorem modTp_staged (d : Data) (f k : Nat) (h : Tp → Tp) : (modTp d f k h).staged = d.staged := rfl
@[simp] theorem modTp_atcmd (d : Data) (f k : Nat) (h : Tp → Tp) : (modTp d f k h).atcmd = d.atcmd := rfl
@[simp] theorem modTp_acl (d : Data) (f k : Nat) (h : Tp → Tp) : (modTp d f k h).acl = d.acl := rfl
@[simp] theorem modTp_routes (d : Data) (f k : Nat) (h : Tp → Tp) : (modTp d f k h).routes = d.routes := rfl
@[simp] theorem modTp_widRoutes (d : Data) (f k : Nat) (h : Tp → Tp) : (modTp d f k h).widRoutes = d.widRoutes := rfl
@[simp] theorem modTp_hostHoles (d : Data) (f k : Nat) (h : Tp → Tp) : (modTp d f k h).hostHoles = d.hostHoles := rfl
@[simp] theorem modTp_replies (d : Data) (f k : Nat) (h : Tp → Tp) : (modTp d f k h).replies = d.replies := rfl
@[simp] theorem modTp_sent (d : Data) (f k : Nat) (h : Tp → Tp) : (modTp d f k h).sent = d.sent := rfl
@[simp] theorem modTp_embSent (d : Data) (f k : Nat) (h : Tp → Tp) : (modTp d f k h).embSent = d.embSent := rfl
@[simp] theorem modTp_bounced (d : Data) (f k : Nat) (h : Tp → Tp) : (modTp d f k h).bounced = d.bounced := rfl
@[simp] theorem modTp_peerNo (d : Data) (f k : Nat) (h : Tp → Tp) : (modTp d f k h).peerNo = d.peerNo := rfl
@[simp] theorem modTp_hdm (d : Data) (f k : Nat) (h : Tp → Tp) : (modTp d f k h).hdm = d.hdm := rfl
@[simp] theorem modTp_curF (d : Data) (f k : Nat) (h : Tp → Tp) : (modTp d f k h).curF = d.curF := rfl
@[simp] theorem modTp_curK (d : Data) (f k : Nat) (h : Tp → Tp) : (modTp d f k h).curK = d.curK := rfl
@[simp] theorem modTp_curR (d : Data) (f k : Nat) (h : Tp → Tp) : (modTp d f k h).curR = d.curR := rfl
@[simp] theorem modTp_curW (d : Data) (f k : Nat) (h : Tp → Tp) : (modTp d f k h).curW = d.curW := rfl

/-! ## modCur -/

@[simp] theorem modCur_mem (d : Data) (h : Tp → Tp) : (modCur d h).mem = d.mem := rfl
@[simp] theorem modCur_poison (d : Data) (h : Tp → Tp) : (modCur d h).poison = d.poison := rfl
@[simp] theorem modCur_devFmt (d : Data) (h : Tp → Tp) : (modCur d h).devFmt = d.devFmt := rfl
@[simp] theorem modCur_dies (d : Data) (h : Tp → Tp) : (modCur d h).dies = d.dies := rfl
@[simp] theorem modCur_ios (d : Data) (h : Tp → Tp) : (modCur d h).ios = d.ios := rfl
@[simp] theorem modCur_swqs (d : Data) (h : Tp → Tp) : (modCur d h).swqs = d.swqs := rfl
@[simp] theorem modCur_regions (d : Data) (h : Tp → Tp) : (modCur d h).regions = d.regions := rfl
@[simp] theorem modCur_net (d : Data) (h : Tp → Tp) : (modCur d h).net = d.net := rfl
@[simp] theorem modCur_ptroot (d : Data) (h : Tp → Tp) : (modCur d h).ptroot = d.ptroot := rfl
@[simp] theorem modCur_tlbBusy (d : Data) (h : Tp → Tp) : (modCur d h).tlbBusy = d.tlbBusy := rfl
@[simp] theorem modCur_modid (d : Data) (h : Tp → Tp) : (modCur d h).modid = d.modid := rfl
@[simp] theorem modCur_hbar (d : Data) (h : Tp → Tp) : (modCur d h).hbar = d.hbar := rfl
@[simp] theorem modCur_staged (d : Data) (h : Tp → Tp) : (modCur d h).staged = d.staged := rfl
@[simp] theorem modCur_atcmd (d : Data) (h : Tp → Tp) : (modCur d h).atcmd = d.atcmd := rfl
@[simp] theorem modCur_acl (d : Data) (h : Tp → Tp) : (modCur d h).acl = d.acl := rfl
@[simp] theorem modCur_routes (d : Data) (h : Tp → Tp) : (modCur d h).routes = d.routes := rfl
@[simp] theorem modCur_widRoutes (d : Data) (h : Tp → Tp) : (modCur d h).widRoutes = d.widRoutes := rfl
@[simp] theorem modCur_hostHoles (d : Data) (h : Tp → Tp) : (modCur d h).hostHoles = d.hostHoles := rfl
@[simp] theorem modCur_replies (d : Data) (h : Tp → Tp) : (modCur d h).replies = d.replies := rfl
@[simp] theorem modCur_sent (d : Data) (h : Tp → Tp) : (modCur d h).sent = d.sent := rfl
@[simp] theorem modCur_embSent (d : Data) (h : Tp → Tp) : (modCur d h).embSent = d.embSent := rfl
@[simp] theorem modCur_bounced (d : Data) (h : Tp → Tp) : (modCur d h).bounced = d.bounced := rfl
@[simp] theorem modCur_peerNo (d : Data) (h : Tp → Tp) : (modCur d h).peerNo = d.peerNo := rfl
@[simp] theorem modCur_hdm (d : Data) (h : Tp → Tp) : (modCur d h).hdm = d.hdm := rfl
@[simp] theorem modCur_curF (d : Data) (h : Tp → Tp) : (modCur d h).curF = d.curF := rfl
@[simp] theorem modCur_curK (d : Data) (h : Tp → Tp) : (modCur d h).curK = d.curK := rfl
@[simp] theorem modCur_curR (d : Data) (h : Tp → Tp) : (modCur d h).curR = d.curR := rfl
@[simp] theorem modCur_curW (d : Data) (h : Tp → Tp) : (modCur d h).curW = d.curW := rfl

/-! ## modCurSlot -/

@[simp] theorem modCurSlot_mem (d : Data) (h : Slot → Slot) : (modCurSlot d h).mem = d.mem := rfl
@[simp] theorem modCurSlot_poison (d : Data) (h : Slot → Slot) : (modCurSlot d h).poison = d.poison := rfl
@[simp] theorem modCurSlot_devFmt (d : Data) (h : Slot → Slot) : (modCurSlot d h).devFmt = d.devFmt := rfl
@[simp] theorem modCurSlot_dies (d : Data) (h : Slot → Slot) : (modCurSlot d h).dies = d.dies := rfl
@[simp] theorem modCurSlot_ios (d : Data) (h : Slot → Slot) : (modCurSlot d h).ios = d.ios := rfl
@[simp] theorem modCurSlot_swqs (d : Data) (h : Slot → Slot) : (modCurSlot d h).swqs = d.swqs := rfl
@[simp] theorem modCurSlot_regions (d : Data) (h : Slot → Slot) : (modCurSlot d h).regions = d.regions := rfl
@[simp] theorem modCurSlot_net (d : Data) (h : Slot → Slot) : (modCurSlot d h).net = d.net := rfl
@[simp] theorem modCurSlot_ptroot (d : Data) (h : Slot → Slot) : (modCurSlot d h).ptroot = d.ptroot := rfl
@[simp] theorem modCurSlot_tlbBusy (d : Data) (h : Slot → Slot) : (modCurSlot d h).tlbBusy = d.tlbBusy := rfl
@[simp] theorem modCurSlot_modid (d : Data) (h : Slot → Slot) : (modCurSlot d h).modid = d.modid := rfl
@[simp] theorem modCurSlot_hbar (d : Data) (h : Slot → Slot) : (modCurSlot d h).hbar = d.hbar := rfl
@[simp] theorem modCurSlot_staged (d : Data) (h : Slot → Slot) : (modCurSlot d h).staged = d.staged := rfl
@[simp] theorem modCurSlot_atcmd (d : Data) (h : Slot → Slot) : (modCurSlot d h).atcmd = d.atcmd := rfl
@[simp] theorem modCurSlot_acl (d : Data) (h : Slot → Slot) : (modCurSlot d h).acl = d.acl := rfl
@[simp] theorem modCurSlot_routes (d : Data) (h : Slot → Slot) : (modCurSlot d h).routes = d.routes := rfl
@[simp] theorem modCurSlot_widRoutes (d : Data) (h : Slot → Slot) : (modCurSlot d h).widRoutes = d.widRoutes := rfl
@[simp] theorem modCurSlot_hostHoles (d : Data) (h : Slot → Slot) : (modCurSlot d h).hostHoles = d.hostHoles := rfl
@[simp] theorem modCurSlot_replies (d : Data) (h : Slot → Slot) : (modCurSlot d h).replies = d.replies := rfl
@[simp] theorem modCurSlot_sent (d : Data) (h : Slot → Slot) : (modCurSlot d h).sent = d.sent := rfl
@[simp] theorem modCurSlot_embSent (d : Data) (h : Slot → Slot) : (modCurSlot d h).embSent = d.embSent := rfl
@[simp] theorem modCurSlot_bounced (d : Data) (h : Slot → Slot) : (modCurSlot d h).bounced = d.bounced := rfl
@[simp] theorem modCurSlot_peerNo (d : Data) (h : Slot → Slot) : (modCurSlot d h).peerNo = d.peerNo := rfl
@[simp] theorem modCurSlot_hdm (d : Data) (h : Slot → Slot) : (modCurSlot d h).hdm = d.hdm := rfl
@[simp] theorem modCurSlot_curF (d : Data) (h : Slot → Slot) : (modCurSlot d h).curF = d.curF := rfl
@[simp] theorem modCurSlot_curK (d : Data) (h : Slot → Slot) : (modCurSlot d h).curK = d.curK := rfl
@[simp] theorem modCurSlot_curR (d : Data) (h : Slot → Slot) : (modCurSlot d h).curR = d.curR := rfl
@[simp] theorem modCurSlot_curW (d : Data) (h : Slot → Slot) : (modCurSlot d h).curW = d.curW := rfl

/-! ## retire -/

@[simp] theorem retire_mem (d : Data) : (retire d).mem = d.mem := rfl
@[simp] theorem retire_poison (d : Data) : (retire d).poison = d.poison := rfl
@[simp] theorem retire_devFmt (d : Data) : (retire d).devFmt = d.devFmt := rfl
@[simp] theorem retire_dies (d : Data) : (retire d).dies = d.dies := rfl
@[simp] theorem retire_ios (d : Data) : (retire d).ios = d.ios := rfl
@[simp] theorem retire_swqs (d : Data) : (retire d).swqs = d.swqs := rfl
@[simp] theorem retire_regions (d : Data) : (retire d).regions = d.regions := rfl
@[simp] theorem retire_net (d : Data) : (retire d).net = d.net := rfl
@[simp] theorem retire_ptroot (d : Data) : (retire d).ptroot = d.ptroot := rfl
@[simp] theorem retire_tlbBusy (d : Data) : (retire d).tlbBusy = d.tlbBusy := rfl
@[simp] theorem retire_modid (d : Data) : (retire d).modid = d.modid := rfl
@[simp] theorem retire_hbar (d : Data) : (retire d).hbar = d.hbar := rfl
@[simp] theorem retire_staged (d : Data) : (retire d).staged = d.staged := rfl
@[simp] theorem retire_atcmd (d : Data) : (retire d).atcmd = d.atcmd := rfl
@[simp] theorem retire_acl (d : Data) : (retire d).acl = d.acl := rfl
@[simp] theorem retire_routes (d : Data) : (retire d).routes = d.routes := rfl
@[simp] theorem retire_widRoutes (d : Data) : (retire d).widRoutes = d.widRoutes := rfl
@[simp] theorem retire_hostHoles (d : Data) : (retire d).hostHoles = d.hostHoles := rfl
@[simp] theorem retire_replies (d : Data) : (retire d).replies = d.replies := rfl
@[simp] theorem retire_sent (d : Data) : (retire d).sent = d.sent := rfl
@[simp] theorem retire_embSent (d : Data) : (retire d).embSent = d.embSent := rfl
@[simp] theorem retire_bounced (d : Data) : (retire d).bounced = d.bounced := rfl
@[simp] theorem retire_peerNo (d : Data) : (retire d).peerNo = d.peerNo := rfl
@[simp] theorem retire_hdm (d : Data) : (retire d).hdm = d.hdm := rfl
@[simp] theorem retire_curF (d : Data) : (retire d).curF = d.curF := rfl
@[simp] theorem retire_curK (d : Data) : (retire d).curK = d.curK := rfl
@[simp] theorem retire_curR (d : Data) : (retire d).curR = d.curR := rfl
@[simp] theorem retire_curW (d : Data) : (retire d).curW = d.curW := rfl

/-! ## retireAt -/

@[simp] theorem retireAt_mem (d : Data) (f k : Nat) : (retireAt d f k).mem = d.mem := rfl
@[simp] theorem retireAt_poison (d : Data) (f k : Nat) : (retireAt d f k).poison = d.poison := rfl
@[simp] theorem retireAt_devFmt (d : Data) (f k : Nat) : (retireAt d f k).devFmt = d.devFmt := rfl
@[simp] theorem retireAt_dies (d : Data) (f k : Nat) : (retireAt d f k).dies = d.dies := rfl
@[simp] theorem retireAt_ios (d : Data) (f k : Nat) : (retireAt d f k).ios = d.ios := rfl
@[simp] theorem retireAt_swqs (d : Data) (f k : Nat) : (retireAt d f k).swqs = d.swqs := rfl
@[simp] theorem retireAt_regions (d : Data) (f k : Nat) : (retireAt d f k).regions = d.regions := rfl
@[simp] theorem retireAt_net (d : Data) (f k : Nat) : (retireAt d f k).net = d.net := rfl
@[simp] theorem retireAt_ptroot (d : Data) (f k : Nat) : (retireAt d f k).ptroot = d.ptroot := rfl
@[simp] theorem retireAt_tlbBusy (d : Data) (f k : Nat) : (retireAt d f k).tlbBusy = d.tlbBusy := rfl
@[simp] theorem retireAt_modid (d : Data) (f k : Nat) : (retireAt d f k).modid = d.modid := rfl
@[simp] theorem retireAt_hbar (d : Data) (f k : Nat) : (retireAt d f k).hbar = d.hbar := rfl
@[simp] theorem retireAt_staged (d : Data) (f k : Nat) : (retireAt d f k).staged = d.staged := rfl
@[simp] theorem retireAt_atcmd (d : Data) (f k : Nat) : (retireAt d f k).atcmd = d.atcmd := rfl
@[simp] theorem retireAt_acl (d : Data) (f k : Nat) : (retireAt d f k).acl = d.acl := rfl
@[simp] theorem retireAt_routes (d : Data) (f k : Nat) : (retireAt d f k).routes = d.routes := rfl
@[simp] theorem retireAt_widRoutes (d : Data) (f k : Nat) : (retireAt d f k).widRoutes = d.widRoutes := rfl
@[simp] theorem retireAt_hostHoles (d : Data) (f k : Nat) : (retireAt d f k).hostHoles = d.hostHoles := rfl
@[simp] theorem retireAt_replies (d : Data) (f k : Nat) : (retireAt d f k).replies = d.replies := rfl
@[simp] theorem retireAt_sent (d : Data) (f k : Nat) : (retireAt d f k).sent = d.sent := rfl
@[simp] theorem retireAt_embSent (d : Data) (f k : Nat) : (retireAt d f k).embSent = d.embSent := rfl
@[simp] theorem retireAt_bounced (d : Data) (f k : Nat) : (retireAt d f k).bounced = d.bounced := rfl
@[simp] theorem retireAt_peerNo (d : Data) (f k : Nat) : (retireAt d f k).peerNo = d.peerNo := rfl
@[simp] theorem retireAt_hdm (d : Data) (f k : Nat) : (retireAt d f k).hdm = d.hdm := rfl
@[simp] theorem retireAt_curF (d : Data) (f k : Nat) : (retireAt d f k).curF = d.curF := rfl
@[simp] theorem retireAt_curK (d : Data) (f k : Nat) : (retireAt d f k).curK = d.curK := rfl
@[simp] theorem retireAt_curR (d : Data) (f k : Nat) : (retireAt d f k).curR = d.curR := rfl
@[simp] theorem retireAt_curW (d : Data) (f k : Nat) : (retireAt d f k).curW = d.curW := rfl

/-! ## branchTo -/

@[simp] theorem branchTo_mem (d : Data) (a : BitVec 52) : (branchTo d a).mem = d.mem := rfl
@[simp] theorem branchTo_poison (d : Data) (a : BitVec 52) : (branchTo d a).poison = d.poison := rfl
@[simp] theorem branchTo_devFmt (d : Data) (a : BitVec 52) : (branchTo d a).devFmt = d.devFmt := rfl
@[simp] theorem branchTo_dies (d : Data) (a : BitVec 52) : (branchTo d a).dies = d.dies := rfl
@[simp] theorem branchTo_ios (d : Data) (a : BitVec 52) : (branchTo d a).ios = d.ios := rfl
@[simp] theorem branchTo_swqs (d : Data) (a : BitVec 52) : (branchTo d a).swqs = d.swqs := rfl
@[simp] theorem branchTo_regions (d : Data) (a : BitVec 52) : (branchTo d a).regions = d.regions := rfl
@[simp] theorem branchTo_net (d : Data) (a : BitVec 52) : (branchTo d a).net = d.net := rfl
@[simp] theorem branchTo_ptroot (d : Data) (a : BitVec 52) : (branchTo d a).ptroot = d.ptroot := rfl
@[simp] theorem branchTo_tlbBusy (d : Data) (a : BitVec 52) : (branchTo d a).tlbBusy = d.tlbBusy := rfl
@[simp] theorem branchTo_modid (d : Data) (a : BitVec 52) : (branchTo d a).modid = d.modid := rfl
@[simp] theorem branchTo_hbar (d : Data) (a : BitVec 52) : (branchTo d a).hbar = d.hbar := rfl
@[simp] theorem branchTo_staged (d : Data) (a : BitVec 52) : (branchTo d a).staged = d.staged := rfl
@[simp] theorem branchTo_atcmd (d : Data) (a : BitVec 52) : (branchTo d a).atcmd = d.atcmd := rfl
@[simp] theorem branchTo_acl (d : Data) (a : BitVec 52) : (branchTo d a).acl = d.acl := rfl
@[simp] theorem branchTo_routes (d : Data) (a : BitVec 52) : (branchTo d a).routes = d.routes := rfl
@[simp] theorem branchTo_widRoutes (d : Data) (a : BitVec 52) : (branchTo d a).widRoutes = d.widRoutes := rfl
@[simp] theorem branchTo_hostHoles (d : Data) (a : BitVec 52) : (branchTo d a).hostHoles = d.hostHoles := rfl
@[simp] theorem branchTo_replies (d : Data) (a : BitVec 52) : (branchTo d a).replies = d.replies := rfl
@[simp] theorem branchTo_sent (d : Data) (a : BitVec 52) : (branchTo d a).sent = d.sent := rfl
@[simp] theorem branchTo_embSent (d : Data) (a : BitVec 52) : (branchTo d a).embSent = d.embSent := rfl
@[simp] theorem branchTo_bounced (d : Data) (a : BitVec 52) : (branchTo d a).bounced = d.bounced := rfl
@[simp] theorem branchTo_peerNo (d : Data) (a : BitVec 52) : (branchTo d a).peerNo = d.peerNo := rfl
@[simp] theorem branchTo_hdm (d : Data) (a : BitVec 52) : (branchTo d a).hdm = d.hdm := rfl
@[simp] theorem branchTo_curF (d : Data) (a : BitVec 52) : (branchTo d a).curF = d.curF := rfl
@[simp] theorem branchTo_curK (d : Data) (a : BitVec 52) : (branchTo d a).curK = d.curK := rfl
@[simp] theorem branchTo_curR (d : Data) (a : BitVec 52) : (branchTo d a).curR = d.curR := rfl
@[simp] theorem branchTo_curW (d : Data) (a : BitVec 52) : (branchTo d a).curW = d.curW := rfl

/-! ## blockCur -/

@[simp] theorem blockCur_mem (d : Data) (b : Block) : (blockCur d b).mem = d.mem := rfl
@[simp] theorem blockCur_poison (d : Data) (b : Block) : (blockCur d b).poison = d.poison := rfl
@[simp] theorem blockCur_devFmt (d : Data) (b : Block) : (blockCur d b).devFmt = d.devFmt := rfl
@[simp] theorem blockCur_dies (d : Data) (b : Block) : (blockCur d b).dies = d.dies := rfl
@[simp] theorem blockCur_ios (d : Data) (b : Block) : (blockCur d b).ios = d.ios := rfl
@[simp] theorem blockCur_swqs (d : Data) (b : Block) : (blockCur d b).swqs = d.swqs := rfl
@[simp] theorem blockCur_regions (d : Data) (b : Block) : (blockCur d b).regions = d.regions := rfl
@[simp] theorem blockCur_net (d : Data) (b : Block) : (blockCur d b).net = d.net := rfl
@[simp] theorem blockCur_ptroot (d : Data) (b : Block) : (blockCur d b).ptroot = d.ptroot := rfl
@[simp] theorem blockCur_tlbBusy (d : Data) (b : Block) : (blockCur d b).tlbBusy = d.tlbBusy := rfl
@[simp] theorem blockCur_modid (d : Data) (b : Block) : (blockCur d b).modid = d.modid := rfl
@[simp] theorem blockCur_hbar (d : Data) (b : Block) : (blockCur d b).hbar = d.hbar := rfl
@[simp] theorem blockCur_staged (d : Data) (b : Block) : (blockCur d b).staged = d.staged := rfl
@[simp] theorem blockCur_atcmd (d : Data) (b : Block) : (blockCur d b).atcmd = d.atcmd := rfl
@[simp] theorem blockCur_acl (d : Data) (b : Block) : (blockCur d b).acl = d.acl := rfl
@[simp] theorem blockCur_routes (d : Data) (b : Block) : (blockCur d b).routes = d.routes := rfl
@[simp] theorem blockCur_widRoutes (d : Data) (b : Block) : (blockCur d b).widRoutes = d.widRoutes := rfl
@[simp] theorem blockCur_hostHoles (d : Data) (b : Block) : (blockCur d b).hostHoles = d.hostHoles := rfl
@[simp] theorem blockCur_replies (d : Data) (b : Block) : (blockCur d b).replies = d.replies := rfl
@[simp] theorem blockCur_sent (d : Data) (b : Block) : (blockCur d b).sent = d.sent := rfl
@[simp] theorem blockCur_embSent (d : Data) (b : Block) : (blockCur d b).embSent = d.embSent := rfl
@[simp] theorem blockCur_bounced (d : Data) (b : Block) : (blockCur d b).bounced = d.bounced := rfl
@[simp] theorem blockCur_peerNo (d : Data) (b : Block) : (blockCur d b).peerNo = d.peerNo := rfl
@[simp] theorem blockCur_hdm (d : Data) (b : Block) : (blockCur d b).hdm = d.hdm := rfl
@[simp] theorem blockCur_curF (d : Data) (b : Block) : (blockCur d b).curF = d.curF := rfl
@[simp] theorem blockCur_curK (d : Data) (b : Block) : (blockCur d b).curK = d.curK := rfl
@[simp] theorem blockCur_curR (d : Data) (b : Block) : (blockCur d b).curR = d.curR := rfl
@[simp] theorem blockCur_curW (d : Data) (b : Block) : (blockCur d b).curW = d.curW := rfl

/-! ## putEntry -/

@[simp] theorem putEntry_mem (d : Data) (e : BitVec 6) (l : List Word) : (putEntry d e l).mem = d.mem := rfl
@[simp] theorem putEntry_poison (d : Data) (e : BitVec 6) (l : List Word) : (putEntry d e l).poison = d.poison := rfl
@[simp] theorem putEntry_devFmt (d : Data) (e : BitVec 6) (l : List Word) : (putEntry d e l).devFmt = d.devFmt := rfl
@[simp] theorem putEntry_dies (d : Data) (e : BitVec 6) (l : List Word) : (putEntry d e l).dies = d.dies := rfl
@[simp] theorem putEntry_ios (d : Data) (e : BitVec 6) (l : List Word) : (putEntry d e l).ios = d.ios := rfl
@[simp] theorem putEntry_swqs (d : Data) (e : BitVec 6) (l : List Word) : (putEntry d e l).swqs = d.swqs := rfl
@[simp] theorem putEntry_regions (d : Data) (e : BitVec 6) (l : List Word) : (putEntry d e l).regions = d.regions := rfl
@[simp] theorem putEntry_net (d : Data) (e : BitVec 6) (l : List Word) : (putEntry d e l).net = d.net := rfl
@[simp] theorem putEntry_ptroot (d : Data) (e : BitVec 6) (l : List Word) : (putEntry d e l).ptroot = d.ptroot := rfl
@[simp] theorem putEntry_tlbBusy (d : Data) (e : BitVec 6) (l : List Word) : (putEntry d e l).tlbBusy = d.tlbBusy := rfl
@[simp] theorem putEntry_modid (d : Data) (e : BitVec 6) (l : List Word) : (putEntry d e l).modid = d.modid := rfl
@[simp] theorem putEntry_hbar (d : Data) (e : BitVec 6) (l : List Word) : (putEntry d e l).hbar = d.hbar := rfl
@[simp] theorem putEntry_staged (d : Data) (e : BitVec 6) (l : List Word) : (putEntry d e l).staged = d.staged := rfl
@[simp] theorem putEntry_atcmd (d : Data) (e : BitVec 6) (l : List Word) : (putEntry d e l).atcmd = d.atcmd := rfl
@[simp] theorem putEntry_acl (d : Data) (e : BitVec 6) (l : List Word) : (putEntry d e l).acl = d.acl := rfl
@[simp] theorem putEntry_routes (d : Data) (e : BitVec 6) (l : List Word) : (putEntry d e l).routes = d.routes := rfl
@[simp] theorem putEntry_widRoutes (d : Data) (e : BitVec 6) (l : List Word) : (putEntry d e l).widRoutes = d.widRoutes := rfl
@[simp] theorem putEntry_hostHoles (d : Data) (e : BitVec 6) (l : List Word) : (putEntry d e l).hostHoles = d.hostHoles := rfl
@[simp] theorem putEntry_replies (d : Data) (e : BitVec 6) (l : List Word) : (putEntry d e l).replies = d.replies := rfl
@[simp] theorem putEntry_sent (d : Data) (e : BitVec 6) (l : List Word) : (putEntry d e l).sent = d.sent := rfl
@[simp] theorem putEntry_embSent (d : Data) (e : BitVec 6) (l : List Word) : (putEntry d e l).embSent = d.embSent := rfl
@[simp] theorem putEntry_bounced (d : Data) (e : BitVec 6) (l : List Word) : (putEntry d e l).bounced = d.bounced := rfl
@[simp] theorem putEntry_peerNo (d : Data) (e : BitVec 6) (l : List Word) : (putEntry d e l).peerNo = d.peerNo := rfl
@[simp] theorem putEntry_hdm (d : Data) (e : BitVec 6) (l : List Word) : (putEntry d e l).hdm = d.hdm := rfl
@[simp] theorem putEntry_curF (d : Data) (e : BitVec 6) (l : List Word) : (putEntry d e l).curF = d.curF := rfl
@[simp] theorem putEntry_curK (d : Data) (e : BitVec 6) (l : List Word) : (putEntry d e l).curK = d.curK := rfl
@[simp] theorem putEntry_curR (d : Data) (e : BitVec 6) (l : List Word) : (putEntry d e l).curR = d.curR := rfl
@[simp] theorem putEntry_curW (d : Data) (e : BitVec 6) (l : List Word) : (putEntry d e l).curW = d.curW := rfl

/-! ## modDie -/

@[simp] theorem modDie_mem (d : Data) (c : Nat) (h : Die → Die) : (modDie d c h).mem = d.mem := rfl
@[simp] theorem modDie_poison (d : Data) (c : Nat) (h : Die → Die) : (modDie d c h).poison = d.poison := rfl
@[simp] theorem modDie_devFmt (d : Data) (c : Nat) (h : Die → Die) : (modDie d c h).devFmt = d.devFmt := rfl
@[simp] theorem modDie_floes (d : Data) (c : Nat) (h : Die → Die) : (modDie d c h).floes = d.floes := rfl
@[simp] theorem modDie_ios (d : Data) (c : Nat) (h : Die → Die) : (modDie d c h).ios = d.ios := rfl
@[simp] theorem modDie_swqs (d : Data) (c : Nat) (h : Die → Die) : (modDie d c h).swqs = d.swqs := rfl
@[simp] theorem modDie_regions (d : Data) (c : Nat) (h : Die → Die) : (modDie d c h).regions = d.regions := rfl
@[simp] theorem modDie_net (d : Data) (c : Nat) (h : Die → Die) : (modDie d c h).net = d.net := rfl
@[simp] theorem modDie_ptroot (d : Data) (c : Nat) (h : Die → Die) : (modDie d c h).ptroot = d.ptroot := rfl
@[simp] theorem modDie_tlbBusy (d : Data) (c : Nat) (h : Die → Die) : (modDie d c h).tlbBusy = d.tlbBusy := rfl
@[simp] theorem modDie_modid (d : Data) (c : Nat) (h : Die → Die) : (modDie d c h).modid = d.modid := rfl
@[simp] theorem modDie_hbar (d : Data) (c : Nat) (h : Die → Die) : (modDie d c h).hbar = d.hbar := rfl
@[simp] theorem modDie_staged (d : Data) (c : Nat) (h : Die → Die) : (modDie d c h).staged = d.staged := rfl
@[simp] theorem modDie_atcmd (d : Data) (c : Nat) (h : Die → Die) : (modDie d c h).atcmd = d.atcmd := rfl
@[simp] theorem modDie_acl (d : Data) (c : Nat) (h : Die → Die) : (modDie d c h).acl = d.acl := rfl
@[simp] theorem modDie_routes (d : Data) (c : Nat) (h : Die → Die) : (modDie d c h).routes = d.routes := rfl
@[simp] theorem modDie_widRoutes (d : Data) (c : Nat) (h : Die → Die) : (modDie d c h).widRoutes = d.widRoutes := rfl
@[simp] theorem modDie_hostHoles (d : Data) (c : Nat) (h : Die → Die) : (modDie d c h).hostHoles = d.hostHoles := rfl
@[simp] theorem modDie_replies (d : Data) (c : Nat) (h : Die → Die) : (modDie d c h).replies = d.replies := rfl
@[simp] theorem modDie_sent (d : Data) (c : Nat) (h : Die → Die) : (modDie d c h).sent = d.sent := rfl
@[simp] theorem modDie_embSent (d : Data) (c : Nat) (h : Die → Die) : (modDie d c h).embSent = d.embSent := rfl
@[simp] theorem modDie_bounced (d : Data) (c : Nat) (h : Die → Die) : (modDie d c h).bounced = d.bounced := rfl
@[simp] theorem modDie_peerNo (d : Data) (c : Nat) (h : Die → Die) : (modDie d c h).peerNo = d.peerNo := rfl
@[simp] theorem modDie_hdm (d : Data) (c : Nat) (h : Die → Die) : (modDie d c h).hdm = d.hdm := rfl
@[simp] theorem modDie_curF (d : Data) (c : Nat) (h : Die → Die) : (modDie d c h).curF = d.curF := rfl
@[simp] theorem modDie_curK (d : Data) (c : Nat) (h : Die → Die) : (modDie d c h).curK = d.curK := rfl
@[simp] theorem modDie_curR (d : Data) (c : Nat) (h : Die → Die) : (modDie d c h).curR = d.curR := rfl
@[simp] theorem modDie_curW (d : Data) (c : Nat) (h : Die → Die) : (modDie d c h).curW = d.curW := rfl

/-! ## modIo -/

@[simp] theorem modIo_mem (d : Data) (x : Nat) (h : IoDie → IoDie) : (modIo d x h).mem = d.mem := rfl
@[simp] theorem modIo_poison (d : Data) (x : Nat) (h : IoDie → IoDie) : (modIo d x h).poison = d.poison := rfl
@[simp] theorem modIo_devFmt (d : Data) (x : Nat) (h : IoDie → IoDie) : (modIo d x h).devFmt = d.devFmt := rfl
@[simp] theorem modIo_floes (d : Data) (x : Nat) (h : IoDie → IoDie) : (modIo d x h).floes = d.floes := rfl
@[simp] theorem modIo_dies (d : Data) (x : Nat) (h : IoDie → IoDie) : (modIo d x h).dies = d.dies := rfl
@[simp] theorem modIo_swqs (d : Data) (x : Nat) (h : IoDie → IoDie) : (modIo d x h).swqs = d.swqs := rfl
@[simp] theorem modIo_regions (d : Data) (x : Nat) (h : IoDie → IoDie) : (modIo d x h).regions = d.regions := rfl
@[simp] theorem modIo_net (d : Data) (x : Nat) (h : IoDie → IoDie) : (modIo d x h).net = d.net := rfl
@[simp] theorem modIo_ptroot (d : Data) (x : Nat) (h : IoDie → IoDie) : (modIo d x h).ptroot = d.ptroot := rfl
@[simp] theorem modIo_tlbBusy (d : Data) (x : Nat) (h : IoDie → IoDie) : (modIo d x h).tlbBusy = d.tlbBusy := rfl
@[simp] theorem modIo_modid (d : Data) (x : Nat) (h : IoDie → IoDie) : (modIo d x h).modid = d.modid := rfl
@[simp] theorem modIo_hbar (d : Data) (x : Nat) (h : IoDie → IoDie) : (modIo d x h).hbar = d.hbar := rfl
@[simp] theorem modIo_staged (d : Data) (x : Nat) (h : IoDie → IoDie) : (modIo d x h).staged = d.staged := rfl
@[simp] theorem modIo_atcmd (d : Data) (x : Nat) (h : IoDie → IoDie) : (modIo d x h).atcmd = d.atcmd := rfl
@[simp] theorem modIo_acl (d : Data) (x : Nat) (h : IoDie → IoDie) : (modIo d x h).acl = d.acl := rfl
@[simp] theorem modIo_routes (d : Data) (x : Nat) (h : IoDie → IoDie) : (modIo d x h).routes = d.routes := rfl
@[simp] theorem modIo_widRoutes (d : Data) (x : Nat) (h : IoDie → IoDie) : (modIo d x h).widRoutes = d.widRoutes := rfl
@[simp] theorem modIo_hostHoles (d : Data) (x : Nat) (h : IoDie → IoDie) : (modIo d x h).hostHoles = d.hostHoles := rfl
@[simp] theorem modIo_replies (d : Data) (x : Nat) (h : IoDie → IoDie) : (modIo d x h).replies = d.replies := rfl
@[simp] theorem modIo_sent (d : Data) (x : Nat) (h : IoDie → IoDie) : (modIo d x h).sent = d.sent := rfl
@[simp] theorem modIo_embSent (d : Data) (x : Nat) (h : IoDie → IoDie) : (modIo d x h).embSent = d.embSent := rfl
@[simp] theorem modIo_bounced (d : Data) (x : Nat) (h : IoDie → IoDie) : (modIo d x h).bounced = d.bounced := rfl
@[simp] theorem modIo_peerNo (d : Data) (x : Nat) (h : IoDie → IoDie) : (modIo d x h).peerNo = d.peerNo := rfl
@[simp] theorem modIo_hdm (d : Data) (x : Nat) (h : IoDie → IoDie) : (modIo d x h).hdm = d.hdm := rfl
@[simp] theorem modIo_curF (d : Data) (x : Nat) (h : IoDie → IoDie) : (modIo d x h).curF = d.curF := rfl
@[simp] theorem modIo_curK (d : Data) (x : Nat) (h : IoDie → IoDie) : (modIo d x h).curK = d.curK := rfl
@[simp] theorem modIo_curR (d : Data) (x : Nat) (h : IoDie → IoDie) : (modIo d x h).curR = d.curR := rfl
@[simp] theorem modIo_curW (d : Data) (x : Nat) (h : IoDie → IoDie) : (modIo d x h).curW = d.curW := rfl

/-! ## modRook -/

@[simp] theorem modRook_mem (d : Data) (r : Nat) (h : Rook → Rook) : (modRook d r h).mem = d.mem := rfl
@[simp] theorem modRook_poison (d : Data) (r : Nat) (h : Rook → Rook) : (modRook d r h).poison = d.poison := rfl
@[simp] theorem modRook_devFmt (d : Data) (r : Nat) (h : Rook → Rook) : (modRook d r h).devFmt = d.devFmt := rfl
@[simp] theorem modRook_floes (d : Data) (r : Nat) (h : Rook → Rook) : (modRook d r h).floes = d.floes := rfl
@[simp] theorem modRook_dies (d : Data) (r : Nat) (h : Rook → Rook) : (modRook d r h).dies = d.dies := rfl
@[simp] theorem modRook_swqs (d : Data) (r : Nat) (h : Rook → Rook) : (modRook d r h).swqs = d.swqs := rfl
@[simp] theorem modRook_regions (d : Data) (r : Nat) (h : Rook → Rook) : (modRook d r h).regions = d.regions := rfl
@[simp] theorem modRook_net (d : Data) (r : Nat) (h : Rook → Rook) : (modRook d r h).net = d.net := rfl
@[simp] theorem modRook_ptroot (d : Data) (r : Nat) (h : Rook → Rook) : (modRook d r h).ptroot = d.ptroot := rfl
@[simp] theorem modRook_tlbBusy (d : Data) (r : Nat) (h : Rook → Rook) : (modRook d r h).tlbBusy = d.tlbBusy := rfl
@[simp] theorem modRook_modid (d : Data) (r : Nat) (h : Rook → Rook) : (modRook d r h).modid = d.modid := rfl
@[simp] theorem modRook_hbar (d : Data) (r : Nat) (h : Rook → Rook) : (modRook d r h).hbar = d.hbar := rfl
@[simp] theorem modRook_staged (d : Data) (r : Nat) (h : Rook → Rook) : (modRook d r h).staged = d.staged := rfl
@[simp] theorem modRook_atcmd (d : Data) (r : Nat) (h : Rook → Rook) : (modRook d r h).atcmd = d.atcmd := rfl
@[simp] theorem modRook_acl (d : Data) (r : Nat) (h : Rook → Rook) : (modRook d r h).acl = d.acl := rfl
@[simp] theorem modRook_routes (d : Data) (r : Nat) (h : Rook → Rook) : (modRook d r h).routes = d.routes := rfl
@[simp] theorem modRook_widRoutes (d : Data) (r : Nat) (h : Rook → Rook) : (modRook d r h).widRoutes = d.widRoutes := rfl
@[simp] theorem modRook_hostHoles (d : Data) (r : Nat) (h : Rook → Rook) : (modRook d r h).hostHoles = d.hostHoles := rfl
@[simp] theorem modRook_replies (d : Data) (r : Nat) (h : Rook → Rook) : (modRook d r h).replies = d.replies := rfl
@[simp] theorem modRook_sent (d : Data) (r : Nat) (h : Rook → Rook) : (modRook d r h).sent = d.sent := rfl
@[simp] theorem modRook_embSent (d : Data) (r : Nat) (h : Rook → Rook) : (modRook d r h).embSent = d.embSent := rfl
@[simp] theorem modRook_bounced (d : Data) (r : Nat) (h : Rook → Rook) : (modRook d r h).bounced = d.bounced := rfl
@[simp] theorem modRook_peerNo (d : Data) (r : Nat) (h : Rook → Rook) : (modRook d r h).peerNo = d.peerNo := rfl
@[simp] theorem modRook_hdm (d : Data) (r : Nat) (h : Rook → Rook) : (modRook d r h).hdm = d.hdm := rfl
@[simp] theorem modRook_curF (d : Data) (r : Nat) (h : Rook → Rook) : (modRook d r h).curF = d.curF := rfl
@[simp] theorem modRook_curK (d : Data) (r : Nat) (h : Rook → Rook) : (modRook d r h).curK = d.curK := rfl
@[simp] theorem modRook_curR (d : Data) (r : Nat) (h : Rook → Rook) : (modRook d r h).curR = d.curR := rfl
@[simp] theorem modRook_curW (d : Data) (r : Nat) (h : Rook → Rook) : (modRook d r h).curW = d.curW := rfl

/-! ## modRegion -/

@[simp] theorem modRegion_mem (d : Data) (l : Nat) (h : Region → Region) : (modRegion d l h).mem = d.mem := rfl
@[simp] theorem modRegion_poison (d : Data) (l : Nat) (h : Region → Region) : (modRegion d l h).poison = d.poison := rfl
@[simp] theorem modRegion_devFmt (d : Data) (l : Nat) (h : Region → Region) : (modRegion d l h).devFmt = d.devFmt := rfl
@[simp] theorem modRegion_floes (d : Data) (l : Nat) (h : Region → Region) : (modRegion d l h).floes = d.floes := rfl
@[simp] theorem modRegion_dies (d : Data) (l : Nat) (h : Region → Region) : (modRegion d l h).dies = d.dies := rfl
@[simp] theorem modRegion_ios (d : Data) (l : Nat) (h : Region → Region) : (modRegion d l h).ios = d.ios := rfl
@[simp] theorem modRegion_swqs (d : Data) (l : Nat) (h : Region → Region) : (modRegion d l h).swqs = d.swqs := rfl
@[simp] theorem modRegion_net (d : Data) (l : Nat) (h : Region → Region) : (modRegion d l h).net = d.net := rfl
@[simp] theorem modRegion_ptroot (d : Data) (l : Nat) (h : Region → Region) : (modRegion d l h).ptroot = d.ptroot := rfl
@[simp] theorem modRegion_tlbBusy (d : Data) (l : Nat) (h : Region → Region) : (modRegion d l h).tlbBusy = d.tlbBusy := rfl
@[simp] theorem modRegion_modid (d : Data) (l : Nat) (h : Region → Region) : (modRegion d l h).modid = d.modid := rfl
@[simp] theorem modRegion_hbar (d : Data) (l : Nat) (h : Region → Region) : (modRegion d l h).hbar = d.hbar := rfl
@[simp] theorem modRegion_staged (d : Data) (l : Nat) (h : Region → Region) : (modRegion d l h).staged = d.staged := rfl
@[simp] theorem modRegion_atcmd (d : Data) (l : Nat) (h : Region → Region) : (modRegion d l h).atcmd = d.atcmd := rfl
@[simp] theorem modRegion_acl (d : Data) (l : Nat) (h : Region → Region) : (modRegion d l h).acl = d.acl := rfl
@[simp] theorem modRegion_routes (d : Data) (l : Nat) (h : Region → Region) : (modRegion d l h).routes = d.routes := rfl
@[simp] theorem modRegion_widRoutes (d : Data) (l : Nat) (h : Region → Region) : (modRegion d l h).widRoutes = d.widRoutes := rfl
@[simp] theorem modRegion_hostHoles (d : Data) (l : Nat) (h : Region → Region) : (modRegion d l h).hostHoles = d.hostHoles := rfl
@[simp] theorem modRegion_replies (d : Data) (l : Nat) (h : Region → Region) : (modRegion d l h).replies = d.replies := rfl
@[simp] theorem modRegion_sent (d : Data) (l : Nat) (h : Region → Region) : (modRegion d l h).sent = d.sent := rfl
@[simp] theorem modRegion_embSent (d : Data) (l : Nat) (h : Region → Region) : (modRegion d l h).embSent = d.embSent := rfl
@[simp] theorem modRegion_bounced (d : Data) (l : Nat) (h : Region → Region) : (modRegion d l h).bounced = d.bounced := rfl
@[simp] theorem modRegion_peerNo (d : Data) (l : Nat) (h : Region → Region) : (modRegion d l h).peerNo = d.peerNo := rfl
@[simp] theorem modRegion_hdm (d : Data) (l : Nat) (h : Region → Region) : (modRegion d l h).hdm = d.hdm := rfl
@[simp] theorem modRegion_curF (d : Data) (l : Nat) (h : Region → Region) : (modRegion d l h).curF = d.curF := rfl
@[simp] theorem modRegion_curK (d : Data) (l : Nat) (h : Region → Region) : (modRegion d l h).curK = d.curK := rfl
@[simp] theorem modRegion_curR (d : Data) (l : Nat) (h : Region → Region) : (modRegion d l h).curR = d.curR := rfl
@[simp] theorem modRegion_curW (d : Data) (l : Nat) (h : Region → Region) : (modRegion d l h).curW = d.curW := rfl

/-! ## modSwq -/

@[simp] theorem modSwq_mem (d : Data) (q : Nat) (h : Swq → Swq) : (modSwq d q h).mem = d.mem := rfl
@[simp] theorem modSwq_poison (d : Data) (q : Nat) (h : Swq → Swq) : (modSwq d q h).poison = d.poison := rfl
@[simp] theorem modSwq_devFmt (d : Data) (q : Nat) (h : Swq → Swq) : (modSwq d q h).devFmt = d.devFmt := rfl
@[simp] theorem modSwq_floes (d : Data) (q : Nat) (h : Swq → Swq) : (modSwq d q h).floes = d.floes := rfl
@[simp] theorem modSwq_dies (d : Data) (q : Nat) (h : Swq → Swq) : (modSwq d q h).dies = d.dies := rfl
@[simp] theorem modSwq_ios (d : Data) (q : Nat) (h : Swq → Swq) : (modSwq d q h).ios = d.ios := rfl
@[simp] theorem modSwq_regions (d : Data) (q : Nat) (h : Swq → Swq) : (modSwq d q h).regions = d.regions := rfl
@[simp] theorem modSwq_net (d : Data) (q : Nat) (h : Swq → Swq) : (modSwq d q h).net = d.net := rfl
@[simp] theorem modSwq_ptroot (d : Data) (q : Nat) (h : Swq → Swq) : (modSwq d q h).ptroot = d.ptroot := rfl
@[simp] theorem modSwq_tlbBusy (d : Data) (q : Nat) (h : Swq → Swq) : (modSwq d q h).tlbBusy = d.tlbBusy := rfl
@[simp] theorem modSwq_modid (d : Data) (q : Nat) (h : Swq → Swq) : (modSwq d q h).modid = d.modid := rfl
@[simp] theorem modSwq_hbar (d : Data) (q : Nat) (h : Swq → Swq) : (modSwq d q h).hbar = d.hbar := rfl
@[simp] theorem modSwq_staged (d : Data) (q : Nat) (h : Swq → Swq) : (modSwq d q h).staged = d.staged := rfl
@[simp] theorem modSwq_atcmd (d : Data) (q : Nat) (h : Swq → Swq) : (modSwq d q h).atcmd = d.atcmd := rfl
@[simp] theorem modSwq_acl (d : Data) (q : Nat) (h : Swq → Swq) : (modSwq d q h).acl = d.acl := rfl
@[simp] theorem modSwq_routes (d : Data) (q : Nat) (h : Swq → Swq) : (modSwq d q h).routes = d.routes := rfl
@[simp] theorem modSwq_widRoutes (d : Data) (q : Nat) (h : Swq → Swq) : (modSwq d q h).widRoutes = d.widRoutes := rfl
@[simp] theorem modSwq_hostHoles (d : Data) (q : Nat) (h : Swq → Swq) : (modSwq d q h).hostHoles = d.hostHoles := rfl
@[simp] theorem modSwq_replies (d : Data) (q : Nat) (h : Swq → Swq) : (modSwq d q h).replies = d.replies := rfl
@[simp] theorem modSwq_sent (d : Data) (q : Nat) (h : Swq → Swq) : (modSwq d q h).sent = d.sent := rfl
@[simp] theorem modSwq_embSent (d : Data) (q : Nat) (h : Swq → Swq) : (modSwq d q h).embSent = d.embSent := rfl
@[simp] theorem modSwq_bounced (d : Data) (q : Nat) (h : Swq → Swq) : (modSwq d q h).bounced = d.bounced := rfl
@[simp] theorem modSwq_peerNo (d : Data) (q : Nat) (h : Swq → Swq) : (modSwq d q h).peerNo = d.peerNo := rfl
@[simp] theorem modSwq_hdm (d : Data) (q : Nat) (h : Swq → Swq) : (modSwq d q h).hdm = d.hdm := rfl
@[simp] theorem modSwq_curF (d : Data) (q : Nat) (h : Swq → Swq) : (modSwq d q h).curF = d.curF := rfl
@[simp] theorem modSwq_curK (d : Data) (q : Nat) (h : Swq → Swq) : (modSwq d q h).curK = d.curK := rfl
@[simp] theorem modSwq_curR (d : Data) (q : Nat) (h : Swq → Swq) : (modSwq d q h).curR = d.curR := rfl
@[simp] theorem modSwq_curW (d : Data) (q : Nat) (h : Swq → Swq) : (modSwq d q h).curW = d.curW := rfl

end Sys2Proof.Machine
end

