-- ==== Sys2Proof/Laws/Ops.lean ====
section
/-!
SUPPORT. What each shared operation can do: an agent changed reads back, the others stand, two changes of one agent are
one, and an issue has three outcomes.
-/

namespace Sys2Proof.Machine

/-! ## Floes and slots -/

/-- A floe of the module reads back as it was changed. -/
@[simp] theorem getFloe_modFloe_same (d : Data) (f : Nat) (h : Floe → Floe) (hf : f < d.floes.length) :
    getFloe (modFloe d f h) f = h (getFloe d f) := by
  simp [getFloe, modFloe, List.getD_eq_getElem?_getD, hf]

/-- Every other floe stands. -/
theorem getFloe_modFloe_other (d : Data) (f g : Nat) (h : Floe → Floe) (hg : g ≠ f) :
    getFloe (modFloe d f h) g = getFloe d g := by
  simp [getFloe, modFloe, List.getD_eq_getElem?_getD, Ne.symm hg]

/-- The module keeps its floes. -/
@[simp] theorem modFloe_floes_length (d : Data) (f : Nat) (h : Floe → Floe) :
    (modFloe d f h).floes.length = d.floes.length := by simp [modFloe]

/-- A number of no floe changes nothing. -/
theorem modFloe_out (d : Data) (f : Nat) (h : Floe → Floe) (hf : d.floes.length ≤ f) : modFloe d f h = d := by
  simp [modFloe, List.set_eq_of_length_le hf]

/-- Two changes of one floe are one. -/
theorem modFloe_modFloe (d : Data) (f : Nat) (h h' : Floe → Floe) :
    modFloe (modFloe d f h) f h' = modFloe d f (fun fl => h' (h fl)) := by
  by_cases hf : f < d.floes.length
  · simp only [modFloe, List.set_set]
    congr 2
    simp [getFloe, List.getD_eq_getElem?_getD, hf]
  · rw [modFloe_out d f h (by omega), modFloe_out d f h' (by omega), modFloe_out d f _ (by omega)]

/-- Two changes of one slot are one. -/
theorem modSlot_modSlot (d : Data) (f k : Nat) (h h' : Slot → Slot) :
    modSlot (modSlot d f k h) f k h' = modSlot d f k (fun s => h' (h s)) := by
  simp only [modSlot, modFloe_modFloe]
  congr 1
  funext fl
  simp only [List.set_set]
  by_cases hk : k < fl.slots.length
  · simp [slotOf, List.getD_eq_getElem?_getD, hk]
  · rw [List.set_eq_of_length_le (by omega), List.set_eq_of_length_le (by omega)]

/-- Two changes of one TP are one. -/
theorem modTp_modTp (d : Data) (f k : Nat) (h h' : Tp → Tp) :
    modTp (modTp d f k h) f k h' = modTp d f k (fun t => h' (h t)) := by
  simp only [modTp, modSlot_modSlot]

/-- Two changes of the issuing TP are one. -/
theorem modCur_modCur (d : Data) (h h' : Tp → Tp) : modCur (modCur d h) h' = modCur d (fun t => h' (h t)) :=
  modTp_modTp d d.curF d.curK h h'

/-- A slot of the module reads back as it was changed. -/
theorem getSlot_modSlot_same (d : Data) (f k : Nat) (h : Slot → Slot) (hf : f < d.floes.length)
    (hk : k < (getFloe d f).slots.length) : getSlot (modSlot d f k h) f k = h (getSlot d f k) := by
  simp only [getSlot, modSlot, getFloe_modFloe_same d f _ hf]
  simp [slotOf, List.getD_eq_getElem?_getD, hk]

/-- Every other slot stands. -/
theorem getSlot_modSlot_other (d : Data) (f k g j : Nat) (h : Slot → Slot) (hn : g ≠ f ∨ j ≠ k) :
    getSlot (modSlot d f k h) g j = getSlot d g j := by
  by_cases hg : g = f
  · subst hg
    have hj : j ≠ k := by
      rcases hn with h1 | h1
      · exact absurd rfl h1
      · exact h1
    by_cases hf : g < d.floes.length
    · simp only [getSlot, modSlot, getFloe_modFloe_same d g _ hf]
      simp [slotOf, List.getD_eq_getElem?_getD, Ne.symm hj]
    · simp only [modSlot, modFloe_out d g _ (by omega)]
  · simp only [getSlot, modSlot, getFloe_modFloe_other d f g _ hg]

/-- A TP of the module reads back as it was changed. -/
theorem getTp_modTp_same (d : Data) (f k : Nat) (h : Tp → Tp) (hf : f < d.floes.length)
    (hk : k < (getFloe d f).slots.length) : getTp (modTp d f k h) f k = h (getTp d f k) := by
  simp only [getTp, modTp, getSlot_modSlot_same d f k _ hf hk]

/-- The issuing TP reads back as it was changed. -/
theorem curTp_modCur (d : Data) (h : Tp → Tp) (hf : d.curF < d.floes.length)
    (hk : d.curK < (getFloe d d.curF).slots.length) : curTp (modCur d h) = h (curTp d) :=
  getTp_modTp_same d d.curF d.curK h hf hk

/-! ## Dies and regions -/

/-- A compute die reads back as it was changed. -/
@[simp] theorem getDie_modDie_same (d : Data) (c : Nat) (h : Die → Die) (hc : c < d.dies.length) :
    getDie (modDie d c h) c = h (getDie d c) := by
  simp [getDie, modDie, List.getD_eq_getElem?_getD, hc]

/-- Every other compute die stands. -/
theorem getDie_modDie_other (d : Data) (c e : Nat) (h : Die → Die) (he : e ≠ c) :
    getDie (modDie d c h) e = getDie d e := by
  simp [getDie, modDie, List.getD_eq_getElem?_getD, Ne.symm he]

/-- An I/O die reads back as it was changed. -/
@[simp] theorem getIo_modIo_same (d : Data) (x : Nat) (h : IoDie → IoDie) (hx : x < d.ios.length) :
    getIo (modIo d x h) x = h (getIo d x) := by
  simp [getIo, modIo, List.getD_eq_getElem?_getD, hx]

/-- Every other I/O die stands. -/
theorem getIo_modIo_other (d : Data) (x y : Nat) (h : IoDie → IoDie) (hy : y ≠ x) :
    getIo (modIo d x h) y = getIo d y := by
  simp [getIo, modIo, List.getD_eq_getElem?_getD, Ne.symm hy]

/-! ## Registers (R27) -/

/-- s0 reads as 0. -/
@[simp] theorem sget_zero (t : Tp) : sget t 0 = 0 := rfl

/-- A write to s0 is discarded. -/
@[simp] theorem sput_zero (t : Tp) (v : Word) : sput t 0 v = t := rfl

/-- A register reads back. -/
@[simp] theorem sget_sput_same (t : Tp) (r : BitVec 5) (v : Word) (hr : r ≠ 0) (hl : t.regs.length = 32) :
    sget (sput t r v) r = v := by
  have : r.toNat < t.regs.length := by rw [hl]; exact r.isLt
  simp only [sget, sput, if_neg hr]
  simp [List.getD_eq_getElem?_getD, this]

/-- Every other register stands. -/
theorem sget_sput_other (t : Tp) (r q : BitVec 5) (v : Word) (hq : q ≠ r) : sget (sput t r v) q = sget t q := by
  have hn : r.toNat ≠ q.toNat := fun h => hq (BitVec.eq_of_toNat_eq h.symm)
  by_cases hr : r = 0
  · simp only [sput, if_pos hr]
  · by_cases h0 : q = 0
    · simp only [sget, if_pos h0]
    · simp only [sget, sput, if_neg hr, if_neg h0]
      simp [List.getD_eq_getElem?_getD, hn]

/-- p0 reads as 1. -/
@[simp] theorem pget_zero (t : Tp) : pget t 0 = true := rfl

/-- A write to p0 is discarded. -/
@[simp] theorem pput_zero (t : Tp) (v : Bool) : pput t 0 v = t := rfl

/-- A predicate reads back. -/
@[simp] theorem pget_pput_same (t : Tp) (r : BitVec 3) (v : Bool) (hr : r ≠ 0) (hl : t.preds.length = 8) :
    pget (pput t r v) r = v := by
  have : r.toNat < t.preds.length := by rw [hl]; exact r.isLt
  simp only [pget, pput, if_neg hr]
  simp [List.getD_eq_getElem?_getD, this]

/-! ## Issue (R305, R177, R390) -/

/-- What an issue can do: it takes its effect, it waits for a register, it traps on one that is uncorrectable, its guard's
predicate among them, or it is disabled and only passes. -/
theorem issue_cases (d : Data) (g : Guard) (regs : List (BitVec 5)) (effect : Data → Data) :
    (badSpec (curTp d) (predRegs [g.p]) = true ∧ issue d g regs effect = trap d 0x0C 8) ∨
    (badSpec (curTp d) (predRegs [g.p]) = false ∧ enabled (curTp d) g = true ∧
        regs.any (fun r => r != 0 && pendReg (curTp d) r) = false ∧
        badReg (curTp d) regs = false ∧ issue d g regs effect = effect d) ∨
    (badSpec (curTp d) (predRegs [g.p]) = false ∧ enabled (curTp d) g = true ∧
        regs.any (fun r => r != 0 && pendReg (curTp d) r) = false ∧
        badReg (curTp d) regs = true ∧ issue d g regs effect = trap d 0x0C 8) ∨
    (badSpec (curTp d) (predRegs [g.p]) = false ∧ enabled (curTp d) g = true ∧
        regs.any (fun r => r != 0 && pendReg (curTp d) r) = true ∧
        issue d g regs effect = blockCur d (.stall (.regs regs))) ∨
    (badSpec (curTp d) (predRegs [g.p]) = false ∧ enabled (curTp d) g = false ∧ issue d g regs effect = retire d) := by
  unfold issue
  cases badSpec (curTp d) (predRegs [g.p]) <;> cases enabled (curTp d) g <;> cases regs.any (fun r => r != 0 && pendReg (curTp d) r) <;>
    cases badReg (curTp d) regs <;> simp

/-- A disabled instruction only passes. -/
theorem issue_disabled (d : Data) (g : Guard) (regs : List (BitVec 5)) (effect : Data → Data)
    (hp : badSpec (curTp d) (predRegs [g.p]) = false) (h : enabled (curTp d) g = false) :
    issue d g regs effect = retire d := by simp [issue, hp, h]

/-- An enabled instruction whose registers are at hand and sound takes its effect. -/
theorem issue_effect (d : Data) (g : Guard) (regs : List (BitVec 5)) (effect : Data → Data)
    (hp : badSpec (curTp d) (predRegs [g.p]) = false)
    (h : enabled (curTp d) g = true) (hr : regs.any (fun r => r != 0 && pendReg (curTp d) r) = false)
    (hb : badReg (curTp d) regs = false) : issue d g regs effect = effect d := by
  rw [issue, if_neg (by rw [hp]; exact Bool.false_ne_true), if_pos h, if_neg (by rw [hr]; exact Bool.false_ne_true),
    if_neg (by rw [hb]; exact Bool.false_ne_true)]

/-- An instruction that uses other registers of its TP takes its effect where they are sound too. -/
theorem issueS_effect (d : Data) (g : Guard) (regs : List (BitVec 5)) (specs : List SpecReg) (effect : Data → Data)
    (hp : badSpec (curTp d) (predRegs [g.p]) = false)
    (h : enabled (curTp d) g = true) (hr : regs.any (fun r => r != 0 && pendReg (curTp d) r) = false)
    (hb : badReg (curTp d) regs = false) (hs : badSpec (curTp d) specs = false) :
    issueS d g regs specs effect = effect d := by
  rw [issueS, issue_effect d g regs _ hp h hr hb, if_neg (by rw [hs]; exact Bool.false_ne_true)]

/-- A scalar result and the step past the word are one change of the TP. -/
theorem retire_modCur (d : Data) (h : Tp → Tp) :
    retire (modCur d h) = modCur d (fun t => handled (h t) (h t).pc.toNat ((h t).pc + 4)) := by
  simp only [retire, modCur_modCur]

/-! ## Memory (R6, R281) -/

/-- Poison of a write changes no byte. -/
@[simp] theorem poisonWrite_mem (d : Data) (loc n : Nat) (psn : Bool) : (poisonWrite d loc n psn).mem = d.mem := by
  cases psn <;> rfl

/-- A store keeps the canonical form of memory. -/
theorem memWrite_wf (d : Data) (loc n x : Nat) (psn : Bool) (h : d.mem.wf = true) :
    (memWrite d loc n x psn).mem.wf = true := by
  simp only [memWrite, poisonWrite_mem]
  exact writeNum_wf d.mem loc n x h

/-- A store of bytes keeps the canonical form of memory. -/
theorem memWriteBytes_wf (d : Data) (loc : Nat) (bs : List Byte) (psn : Bool) (h : d.mem.wf = true) :
    (memWriteBytes d loc bs psn).mem.wf = true := by
  simp only [memWriteBytes, poisonWrite_mem]
  exact writeBytes_wf d.mem loc bs h

/-- A store of doublewords keeps the canonical form of memory. -/
theorem memWriteWords_wf (d : Data) (loc : Nat) (ws : List Word) (h : d.mem.wf = true) :
    (memWriteWords d loc ws).mem.wf = true := by
  induction ws generalizing d loc with
  | nil => exact h
  | cons w ws ih => exact ih _ _ (memWrite_wf d loc 8 w.toNat false h)

/-- A store of an element's pieces keeps the canonical form of memory. -/
theorem pieceStore_wf (m : Memory) (v : Nat) (ps : List Piece) (h : m.wf = true) : (pieceStore m v ps).wf = true := by
  induction ps generalizing m with
  | nil => exact h
  | cons p ps ih => exact ih _ (writeNum_wf m _ _ _ h)

/-- Poison of an element's pieces changes no byte. -/
theorem piecePoison_mem (ps : List Piece) (psn : Bool) (d : Data) :
    (ps.foldl (fun d p => if psn then poisonWrite d p.loc (pieceBytes p) true else d) d).mem = d.mem := by
  induction ps generalizing d with
  | nil => rfl
  | cons p ps ih =>
    simp only [List.foldl_cons]
    rw [ih]
    cases psn <;> simp

/-- Bytes taken out of device-format areas keep the canonical form of memory. -/
theorem pieceSettle_wf (d : Data) (ps : List Piece) (h : d.mem.wf = true) : (pieceSettle d ps).mem.wf = true := by
  induction ps generalizing d with
  | nil => exact h
  | cons p ps ih =>
    rw [pieceSettle]
    apply ih
    split
    · exact h
    · exact writeBytes_wf _ _ _ h

/-- With no area in the device's format there is nothing to take out. -/
theorem pieceSettle_none (d : Data) (ps : List Piece) (h : d.devFmt = []) : pieceSettle d ps = d := by
  induction ps with
  | nil => rfl
  | cons p ps ih => rw [pieceSettle, if_pos (by simp [h]), ih]

/-- A store of an element keeps the canonical form of memory. -/
theorem pieceWrite_wf (d : Data) (ps : List Piece) (v : Nat) (psn : Bool) (h : d.mem.wf = true) :
    (pieceWrite d ps v psn).mem.wf = true := by
  rw [pieceWrite, piecePoison_mem]
  exact pieceStore_wf _ v ps (pieceSettle_wf d ps h)

end Sys2Proof.Machine
end

