-- ==== Sys2Proof/Tests/Slice0.lean ====
section
/-!
SUPPORT. Tests: ill-formed terms are refused, words of every encoded instruction decode, a few steps, and for each statement of
Certificates/Slice0/Obligations.lean a concrete state and operands that meet its hypotheses.
-/

namespace Sys2Proof.Tests

open Sys2Proof.Machine Sys2Proof.Safety

set_option Elab.async false

/-- Words written from the fields of spec/opcode_table.json. -/
theorem test_decode_system :
    decodeSeq 0x01400000 = .ok (.nop ⟨2, true⟩) ∧
    decodeSeq 0x0141FE81 = .ok (.trap ⟨2, true⟩ 1021) ∧
    decodeSeq 0x01400002 = .ok (.yield ⟨2, true⟩) ∧
    decodeSeq 0x01400003 = .ok (.park ⟨2, true⟩) ∧
    decodeSeq 0x01400004 = .ok (.exit ⟨2, true⟩) ∧
    decodeSeq 0x01400005 = .ok (.brk ⟨2, true⟩) ∧
    decodeSeq 0x017A0486 = .ok (.getk ⟨2, true⟩ 29 9) ∧
    decodeSeq 0x017A0287 = .ok (.putk ⟨2, true⟩ 29 5) ∧
    decodeSeq 0x017A0288 = .ok (.widf ⟨2, true⟩ 29 5) :=
  ⟨rfl, rfl, rfl, rfl, rfl, rfl, rfl, rfl, rfl⟩

/-- Words written from the fields of spec/opcode_table.json. -/
theorem test_decode_alu :
    decodeSeq 0x057BCD80 = .ok (.add ⟨2, true⟩ 29 28 27) ∧
    decodeSeq 0x057BCD81 = .ok (.sub ⟨2, true⟩ 29 28 27) ∧
    decodeSeq 0x057BCD82 = .ok (.mul ⟨2, true⟩ 29 28 27) ∧
    decodeSeq 0x057BCD83 = .ok (.mulhiS ⟨2, true⟩ 29 28 27) ∧
    decodeSeq 0x057BCD84 = .ok (.mulhiN ⟨2, true⟩ 29 28 27) ∧
    decodeSeq 0x057BCD85 = .ok (.divS ⟨2, true⟩ 29 28 27) ∧
    decodeSeq 0x057BCD86 = .ok (.divN ⟨2, true⟩ 29 28 27) ∧
    decodeSeq 0x057BCD87 = .ok (.remS ⟨2, true⟩ 29 28 27) ∧
    decodeSeq 0x057BCD88 = .ok (.remN ⟨2, true⟩ 29 28 27) ∧
    decodeSeq 0x057BCD89 = .ok (.and ⟨2, true⟩ 29 28 27) ∧
    decodeSeq 0x057BCD8A = .ok (.or ⟨2, true⟩ 29 28 27) ∧
    decodeSeq 0x057BCD8B = .ok (.xor ⟨2, true⟩ 29 28 27) ∧
    decodeSeq 0x057BCD8C = .ok (.shl ⟨2, true⟩ 29 28 27) ∧
    decodeSeq 0x057BCD8D = .ok (.shrN ⟨2, true⟩ 29 28 27) ∧
    decodeSeq 0x057BCD8E = .ok (.shrS ⟨2, true⟩ 29 28 27) ∧
    decodeSeq 0x057BCD8F = .ok (.minS ⟨2, true⟩ 29 28 27) ∧
    decodeSeq 0x057BCD90 = .ok (.minN ⟨2, true⟩ 29 28 27) ∧
    decodeSeq 0x057BCD91 = .ok (.maxS ⟨2, true⟩ 29 28 27) ∧
    decodeSeq 0x057BCD92 = .ok (.maxN ⟨2, true⟩ 29 28 27) ∧
    decodeSeq 0x057BC013 = .ok (.bitcClz ⟨2, true⟩ 29 28) ∧
    decodeSeq 0x057BC014 = .ok (.bitcCtz ⟨2, true⟩ 29 28) ∧
    decodeSeq 0x057BC015 = .ok (.bitcPop ⟨2, true⟩ 29 28) ∧
    decodeSeq 0x057BCD9A = .ok (.sel ⟨2, true⟩ 29 28 27 2) :=
  ⟨rfl, rfl, rfl, rfl, rfl, rfl, rfl, rfl, rfl, rfl, rfl, rfl, rfl, rfl, rfl, rfl, rfl, rfl, rfl, rfl, rfl, rfl, rfl⟩

/-- Words written from the fields of spec/opcode_table.json. -/
theorem test_decode_immediates :
    decodeSeq 0x096F3700 = .ok (.cmp ⟨2, true⟩ 5 28 27 4) ∧
    decodeSeq 0x0D7BCFFB = .ok (.addi ⟨2, true⟩ 29 28 4091) ∧
    decodeSeq 0x117BCFFB = .ok (.andi ⟨2, true⟩ 29 28 4091) ∧
    decodeSeq 0x157BCFFB = .ok (.ori ⟨2, true⟩ 29 28 4091) ∧
    decodeSeq 0x197BCFFB = .ok (.xori ⟨2, true⟩ 29 28 4091) ∧
    decodeSeq 0x1D7BC03B = .ok (.shli ⟨2, true⟩ 29 28 59) :=
  ⟨rfl, rfl, rfl, rfl, rfl, rfl⟩

/-- Words written from the fields of spec/opcode_table.json. -/
theorem test_decode_compare_limits :
    decodeSeq 0x256F1FFA = .ok (.cmpi ⟨2, true⟩ 5 28 3 2042) ∧
    decodeSeq 0x217BC07B = .ok (.shriS ⟨2, true⟩ 29 28 59) ∧
    decodeSeq 0x217BC03B = .ok (.shriN ⟨2, true⟩ 29 28 59) ∧
    decodeSeq 0x297BFFFC = .ok (.lim ⟨2, true⟩ 29 131068) ∧
    decodeSeq 0x2D6C7000 = .ok (.plog ⟨2, true⟩ 5 4 3 8) :=
  ⟨rfl, rfl, rfl, rfl, rfl⟩

/-- Words written from the fields of spec/opcode_table.json. -/
theorem test_decode_control_tiles :
    decodeSeq 0x417FFFFD = .ok (.br ⟨2, true⟩ 4194301) ∧
    decodeSeq 0x457BFFFC = .ok (.jal ⟨2, true⟩ 29 131068) ∧
    decodeSeq 0x4941DFFC = .ok (.jr ⟨2, true⟩ 29 4092) ∧
    decodeSeq 0x4D43BFFC = .ok (.loop ⟨2, true⟩ 29 8188) :=
  ⟨rfl, rfl, rfl, rfl⟩

/-- Words written from the fields of spec/opcode_table.json. -/
theorem test_decode_tile_names :
    decodeSeq 0x6161C000 = .ok (.tshp ⟨2, true⟩ 2 28) ∧
    decodeSeq 0x6577C110 = .ok (.tbind ⟨2, true⟩ 13 60 0 2 1) ∧
    decodeSeq 0x6975B800 = .ok (.torg ⟨2, true⟩ 13 4 27) ∧
    decodeSeq 0x6D75B800 = .ok (.tadv ⟨2, true⟩ 13 4 27) ∧
    decodeSeq 0x717A0C00 = .ok (.tqry ⟨2, true⟩ 29 12) ∧
    decodeSeq 0x757DFC00 = .ok (.ltld ⟨2, true⟩ 61 252) ∧
    decodeSeq 0x797DCD80 = .ok (.ltw ⟨2, true⟩ 61 12 27) :=
  ⟨rfl, rfl, rfl, rfl, rfl, rfl, rfl⟩

/-- Words written from the fields of spec/opcode_table.json. -/
theorem test_decode_streams :
    decodeSeq 0x817600A8 = .ok (.spat ⟨2, true⟩ 5 8 27) ∧
    decodeSeq 0x85773B40 = .ok (.srd ⟨2, true⟩ 13 12 59 2) ∧
    decodeSeq 0x89773B40 = .ok (.swr ⟨2, true⟩ 13 12 59 2) ∧
    decodeSeq 0x8D773B40 = .ok (.sgth ⟨2, true⟩ 13 12 59 2) ∧
    decodeSeq 0x91773B40 = .ok (.ssctSt ⟨2, true⟩ 13 12 59 2) ∧
    decodeSeq 0x91773B41 = .ok (.ssctAdd ⟨2, true⟩ 13 12 59 2) ∧
    decodeSeq 0x91773B42 = .ok (.ssctMax ⟨2, true⟩ 13 12 59 2) ∧
    decodeSeq 0x91773B43 = .ok (.ssctMin ⟨2, true⟩ 13 12 59 2) ∧
    decodeSeq 0x95434078 = .ok (.srec ⟨2, true⟩ 13 12 3) ∧
    decodeSeq 0x99434080 = .ok (.sconC ⟨2, true⟩ 13 4) ∧
    decodeSeq 0x99434081 = .ok (.sconI ⟨2, true⟩ 13 4) ∧
    decodeSeq 0x9D773B49 = .ok (.smcs ⟨2, true⟩ 13 12 59 2 9) :=
  ⟨rfl, rfl, rfl, rfl, rfl, rfl, rfl, rfl, rfl, rfl, rfl, rfl⟩

/-- Words written from the fields of spec/opcode_table.json. -/
theorem test_decode_stream_tags :
    decodeSeq 0xA1740000 = .ok (.sbar ⟨2, true⟩ 13) ∧
    decodeSeq 0xA1418001 = .ok (.sbarSp ⟨2, true⟩ 6) ∧
    decodeSeq 0xA1400002 = .ok (.sbarAll ⟨2, true⟩) ∧
    decodeSeq 0xA5403D00 = .ok (.skilTag ⟨2, true⟩ 61) ∧
    decodeSeq 0xA5434001 = .ok (.skilIp ⟨2, true⟩ 13) ∧
    decodeSeq 0xA5434002 = .ok (.skilOp ⟨2, true⟩ 13) ∧
    decodeSeq 0xA941D000 = .ok (.twaitAll ⟨2, true⟩ 29) ∧
    decodeSeq 0xA941D001 = .ok (.twaitAny ⟨2, true⟩ 29) ∧
    decodeSeq 0xAD7BC000 = .ok (.tffr ⟨2, true⟩ 29 28) ∧
    decodeSeq 0xB141D000 = .ok (.tclr ⟨2, true⟩ 29) ∧
    decodeSeq 0xB5773B00 = .ok (.smov ⟨2, true⟩ 13 12 59) :=
  ⟨rfl, rfl, rfl, rfl, rfl, rfl, rfl, rfl, rfl, rfl, rfl⟩

/-- Words written from the fields of spec/opcode_table.json. -/
theorem test_decode_engines_memory :
    decodeSeq 0xC141DF00 = .ok (.cfgl ⟨2, true⟩ 29 60) ∧
    decodeSeq 0xC57BCD80 = .ok (.cfgw ⟨2, true⟩ 29 28 27) ∧
    decodeSeq 0xC9400F40 = .ok (.cfgg ⟨2, true⟩ 61) ∧
    decodeSeq 0xCD7A0015 = .ok (.cfgq ⟨2, true⟩ 29 21) ∧
    decodeSeq 0xD179D000 = .ok (.mxt ⟨2, true⟩ 29 28) ∧
    decodeSeq 0xD1400D40 = .ok (.mxtP ⟨2, true⟩ 13) ∧
    decodeSeq 0xD1400080 = .ok (.mxtU ⟨2, true⟩) ∧
    decodeSeq 0xD97BBCD0 = .ok (.lds ⟨2, true⟩ 29 12 27 26) ∧
    decodeSeq 0xDD7BBCD0 = .ok (.sts ⟨2, true⟩ 29 12 27 26) :=
  ⟨rfl, rfl, rfl, rfl, rfl, rfl, rfl, rfl, rfl⟩

/-- Words written from the fields of spec/opcode_table.json. -/
theorem test_decode_memory_queues :
    decodeSeq 0xE17BBC14 = .ok (.atomSwp ⟨2, true⟩ 29 12 27 2 4) ∧
    decodeSeq 0xE17BBC34 = .ok (.atomCas ⟨2, true⟩ 29 12 27 2 4) ∧
    decodeSeq 0xE17BBC54 = .ok (.atomAdd ⟨2, true⟩ 29 12 27 2 4) ∧
    decodeSeq 0xE17BBC74 = .ok (.atomAnd ⟨2, true⟩ 29 12 27 2 4) ∧
    decodeSeq 0xE17BBC94 = .ok (.atomOr ⟨2, true⟩ 29 12 27 2 4) ∧
    decodeSeq 0xE17BBCB4 = .ok (.atomXor ⟨2, true⟩ 29 12 27 2 4) ∧
    decodeSeq 0xE17BBCD4 = .ok (.atomMax ⟨2, true⟩ 29 12 27 2 4) ∧
    decodeSeq 0xE17BBCF4 = .ok (.atomMin ⟨2, true⟩ 29 12 27 2 4) ∧
    decodeSeq 0xE57BBC14 = .ok (.vld ⟨2, true⟩ 29 12 27 2 4) ∧
    decodeSeq 0xE57BBC44 = .ok (.vst ⟨2, true⟩ 29 12 27 4) ∧
    decodeSeq 0xE541CD84 = .ok (.vrcl ⟨2, true⟩ 13 28 4) ∧
    decodeSeq 0xE9400004 = .ok (.fenceAcq ⟨2, true⟩ 4) ∧
    decodeSeq 0xE940000C = .ok (.fenceRel ⟨2, true⟩ 4) ∧
    decodeSeq 0xE9400014 = .ok (.fenceFull ⟨2, true⟩ 4) ∧
    decodeSeq 0xED7BC004 = .ok (.tsend ⟨2, true⟩ 29 28 0 4) ∧
    decodeSeq 0xED7A0108 = .ok (.trecv ⟨2, true⟩ 29 1) ∧
    decodeSeq 0xED400210 = .ok (.cbindOn ⟨2, true⟩ 2) ∧
    decodeSeq 0xED400218 = .ok (.cbindOff ⟨2, true⟩ 2) ∧
    decodeSeq 0xF169C004 = .ok (.qpsh ⟨2, true⟩ 20 28 4) ∧
    decodeSeq 0xF169C308 = .ok (.qpop ⟨2, true⟩ 20 28 3) ∧
    decodeSeq 0xF17BC010 = .ok (.qctlStat ⟨2, true⟩ 29 28) ∧
    decodeSeq 0xF141DC18 = .ok (.qctlCfg ⟨2, true⟩ 29 12) ∧
    decodeSeq 0xF141D020 = .ok (.qctlOff ⟨2, true⟩ 29) ∧
    decodeSeq 0xF57DE6C0 = .ok (.lay ⟨2, true⟩ 61 28 27) ∧
    decodeSeq 0xF57DCD81 = .ok (.egat ⟨2, true⟩ 61 12 27) ∧
    decodeSeq 0xF57DCD82 = .ok (.eupd ⟨2, true⟩ 61 12 27) ∧
    decodeSeq 0xF57DCD83 = .ok (.epin ⟨2, true⟩ 61 12 27) ∧
    decodeSeq 0xF57DCD84 = .ok (.ingqStart ⟨2, true⟩ 61 12 27) ∧
    decodeSeq 0xF57D0E24 = .ok (.ingqStop ⟨2, true⟩ 61 28) ∧
    decodeSeq 0xF57A0E44 = .ok (.ingqStat ⟨2, true⟩ 29 28) ∧
    decodeSeq 0xF941DCEC = .ok (.ssqCfg ⟨2, true⟩ 29 12 59) ∧
    decodeSeq 0xF941DCED = .ok (.ssqGo ⟨2, true⟩ 29 12 59) ∧
    decodeSeq 0xF97BC002 = .ok (.ssqStat ⟨2, true⟩ 29 28) ∧
    decodeSeq 0xF941D0F3 = .ok (.ssqStop ⟨2, true⟩ 29 60) :=
  ⟨rfl, rfl, rfl, rfl, rfl, rfl, rfl, rfl, rfl, rfl, rfl, rfl, rfl, rfl, rfl, rfl, rfl, rfl, rfl, rfl, rfl, rfl, rfl, rfl, rfl, rfl, rfl, rfl, rfl, rfl, rfl, rfl, rfl, rfl⟩

/-- Words written from the fields of spec/opcode_table.json. -/
theorem test_decode_rook :
    decodeRook 0x01BE0E8B = .ok (.rfet 29 28 27) ∧
    decodeRook 0x01BE1E8B = .ok (.bfxt 29 28 27) ∧
    decodeRook 0x00002E8B = .ok (.sgwt 29) ∧
    decodeRook 0x01BE3E8B = .ok (.dspt 29 28 27) ∧
    decodeRook 0x00004E8B = .ok (.sgst 29) :=
  ⟨rfl, rfl, rfl, rfl, rfl⟩

/-- Operands the manual has no form for are refused. -/
theorem test_wf_system : ([
    .getk ⟨0, false⟩ 1 12,
    .putk ⟨0, false⟩ 1 12,
    .widf ⟨0, false⟩ 1 6] : List Instr).all (fun i => ! i.wf) = true := by decide

/-- Operands the manual has no form for are refused. -/
theorem test_wf_conditions : ([
    .cmp ⟨0, false⟩ 1 1 1 6,
    .cmpi ⟨0, false⟩ 1 1 6 0,
    .loop ⟨0, false⟩ 1 0] : List Instr).all (fun i => ! i.wf) = true := by decide

/-- Operands the manual has no form for are refused. -/
theorem test_wf_tiles : ([
    .tbind ⟨0, false⟩ 1 0 0 7 0,
    .tbind ⟨0, false⟩ 1 0 0 0 7,
    .tbind ⟨0, false⟩ 1 0 0 3 3,
    .torg ⟨0, false⟩ 1 7 0,
    .tadv ⟨0, false⟩ 1 7 0] : List Instr).all (fun i => ! i.wf) = true := by decide

/-- Operands the manual has no form for are refused. -/
theorem test_wf_streams : ([
    .spat ⟨0, false⟩ 1 9 0,
    .smcs ⟨0, false⟩ 1 0 1 0 0,
    .sbarSp ⟨0, false⟩ 2,
    .sbarSp ⟨0, false⟩ 7,
    .cfgl ⟨0, false⟩ 1 0,
    .cfgq ⟨0, false⟩ 1 4,
    .cfgq ⟨0, false⟩ 1 24] : List Instr).all (fun i => ! i.wf) = true := by decide

/-- Operands the manual has no form for are refused. -/
theorem test_wf_scopes : ([
    .atomSwp ⟨0, false⟩ 1 0 1 0 1,
    .atomCas ⟨0, false⟩ 1 0 1 1 7,
    .atomAdd ⟨0, false⟩ 1 0 1 0 6,
    .atomAnd ⟨0, false⟩ 1 0 1 3 7,
    .atomOr ⟨0, false⟩ 1 0 1 0 2,
    .atomXor ⟨0, false⟩ 1 0 1 2 7,
    .atomMax ⟨0, false⟩ 1 0 1 0 3,
    .atomMin ⟨0, false⟩ 1 0 1 1 7,
    .vld ⟨0, false⟩ 1 0 0 0 7,
    .vst ⟨0, false⟩ 1 0 0 7,
    .vrcl ⟨0, false⟩ 0 0 7,
    .fenceAcq ⟨0, false⟩ 7,
    .fenceRel ⟨0, false⟩ 7,
    .fenceFull ⟨0, false⟩ 7,
    .tsend ⟨0, false⟩ 1 0 0 5,
    .qpsh ⟨0, false⟩ 1 0 5] : List Instr).all (fun i => ! i.wf) = true := by decide

/-- Operands the manual has no form for are refused. -/
theorem test_wf_register_runs : ([
    .qpsh ⟨0, false⟩ 29 0 0,
    .qpop ⟨0, false⟩ 29 0 0] : List Instr).all (fun i => ! i.wf) = true := by decide

/-- Operands the manual has no form for are refused. -/
theorem test_wf_slots : ([
    .slotAged 144 0,
    .slotAged 0 8,
    .mailboxMove 0 0 4,
    .mailboxMove 0 8 0] : List Instr).all (fun i => ! i.wf) = true := by decide

/-- Operands the manual has no form for are refused. -/
theorem test_wf_floe_units : ([
    .streamStart 0 32,
    .streamStart 144 0,
    .groupFire 0 8,
    .generatorAccess 0 8 0,
    .generatorAccess 0 0 4,
    .switchBoxHop 0 16 0,
    .switchBoxHop 0 0 8,
    .cfglLoadEnd 144,
    .mma 0 4] : List Instr).all (fun i => ! i.wf) = true := by decide

/-- Operands the manual has no form for are refused. -/
theorem test_wf_stream_units : ([
    .streamElement (.floe 0 32),
    .streamElement (.firn 4 0),
    .streamElement (.firn 0 8),
    .ualinkErrorCompletion (.unit (.floe 144 0) false),
    .ualinkCompletionTimeout (.access 0 8 0)] : List Instr).all (fun i => ! i.wf) = true := by decide

/-- Operands the manual has no form for are refused. -/
theorem test_wf_dies : ([
    .layStart 4,
    .layComplete 0 8,
    .egatBag 4 0 0,
    .moraineAgeing 0 2048,
    .ssqCfgDone 0 4,
    .telemetryRead 6 0,
    .dieReset 6,
    .dieLeavesReset 6] : List Instr).all (fun i => ! i.wf) = true := by decide

/-- Operands the manual has no form for are refused. -/
theorem test_wf_queues_and_pipes : ([
    .queueRefill 512,
    .ingqStartDone 16,
    .ingestStage 0 0,
    .ingestStage 0 6,
    .launchPacket 4096,
    .doorbellRing 2 0,
    .doorbellRing 0 4096,
    .deltaFloeWrite 0 144] : List Instr).all (fun i => ! i.wf) = true := by decide

/-- Operands the manual has no form for are refused. -/
theorem test_wf_management : ([
    .regionRestore 65536,
    .heldRecordWrite 2,
    .qtbaseWrite 2 0,
    .rookBoot 2,
    .ualinkLinkDown 12] : List Instr).all (fun i => ! i.wf) = true := by decide

/-! ## What the witnesses are built from -/

/-- A page of host memory at address 0, with every right. -/
def page : TlbEnt := { va := 0, size := 65536, pa := 0, tgt := 2, r := true, w := true, x := true }

/-- An access table: the MIDs the witnesses use have every right to all of the L2 of dies 0-2 (targets 14-25), the solvers
(38), queues (42) and pipes (46) of die 0, the engines (34-37), station 11 (59) and host memory (60), and no other right. -/
def rights : Table :=
  [14, 15, 16, 17, 18, 19, 20, 21, 22, 23, 24, 25, 34, 35, 36, 37, 38, 42, 46, 59, 60].flatMap (fun t =>
    [0, 0xB0, 0xB4, 0xC4, 0xC8, 0xD8, 0xE0, 0xEC].flatMap (fun m =>
      [((t * 256 + m) * 8, 0x1F), ((t * 256 + m) * 8 + 1, 0xFFFFFFFFFF000)]))

/-- A started module, every die out of reset, with a live TP in slot 0 of floe 0 that h has changed. -/
def world (h : Tp → Tp) : State :=
  { State.reset with
    mg := { Mgmt.reset with boot := .started }
    d := modSlot { Data.reset with
        floes := (List.replicate 144 Floe.reset).set 0 { Floe.reset with utlb := [page] }
        dies := List.replicate 4 { Die.reset with inReset := false, stlb := [page] }
        ios := List.replicate 2 { IoDie.reset with inReset := false }
        acl := rights } 0 0 (fun sl => { sl with st := .live, tp := h sl.tp }) }

/-- The TP with v in s[r], for each pair. -/
def rg (l : List (BitVec 5 × Word)) (t : Tp) : Tp := l.foldl (fun t e => sput t e.1 e.2) t

/-- s with its data changed. -/
def onD (s : State) (h : Data → Data) : State := { s with d := h s.d }

/-- The always true guard. -/
def g0 : Guard := ⟨0, false⟩

/-- Ready, as a test. -/
def readyB (s : State) (g : Guard) (l : List (BitVec 5)) : Bool :=
  enabled (curTp s.d) g && ! badSpec (curTp s.d) (predRegs [g.p]) && l.all (fun r => r == 0 || (! pendReg (curTp s.d) r && ! (curTp s.d).badRegs.contains r))

/-- The test readyB decides Ready. -/
theorem ready_iff (s : State) (g : Guard) (l : List (BitVec 5)) : readyB s g l = true ↔ Ready s g l := by
  simp [readyB, Ready, Bool.and_eq_true, and_assoc, List.all_eq_true, or_iff_not_imp_left]

/-- x answers a value, and p holds of it and the data after. -/
def okB {ε α : Type} (x : Data × Except ε α) (p : Data → α → Bool) : Bool :=
  match x with
  | (d, .ok a) => p d a
  | (_, .error _) => false

/-- The test okB gives the premise of a statement that names the answer. -/
theorem okB_iff {ε α : Type} (x : Data × Except ε α) (p : Data → α → Bool) :
    okB x p = true ↔ ∃ d a, x = (d, .ok a) ∧ p d a = true := by
  obtain ⟨d, r⟩ := x
  cases r <;> simp [okB]

/-- x is some value that p holds of. -/
def someB {α : Type} (x : Option α) (p : α → Bool) : Bool :=
  match x with
  | some a => p a
  | none => false

/-- The test someB gives the premise of a statement that names the value. -/
theorem someB_iff {α : Type} (x : Option α) (p : α → Bool) : someB x p = true ↔ ∃ a, x = some a ∧ p a = true := by
  cases x <;> simp [someB]

/-! ## Witnesses: each entry meets the premises of one clause of the statement named -/

/-- DecodeInvertsEncode: a well-formed instruction with a word. -/
theorem wit_decode_inverts_encode :
    (Instr.loop g0 31 1).wf = true ∧ (encode (Instr.loop g0 31 1)).isSome = true := by decide +kernel

/-- DecoderAcceptsTheInstructions: a word the decoder accepts. -/
theorem wit_decoder_accepts : decodeSeq 0x04064280 = .ok (.add ⟨0, false⟩ 3 4 5) ∧ (0x04064280 : Nat) < 2 ^ 32 := ⟨rfl, by decide⟩

/-- UnassignedMajorRefused: the lowest and the highest unassigned opcode. -/
theorem wit_unassigned_major :
    (2 ^ 26 * 0x0C) / 2 ^ 26 % 64 = 0x0C ∧ (2 ^ 26 * 0x3F + 1) / 2 ^ 26 % 64 = 0x3F := by decide

/-- The state whose next step issues an ADD to s3 in slot 0, with the TP changed by h. -/
def addNext (h : Tp → Tp) : State :=
  let s := State.reset.withFetchWord 32 0x04064280
  { s with d := modSlot s.d 0 0 (fun k => { k with tp := h k.tp }) }

/-- A load of s4 that has not performed. -/
def loadOfS4 : Pend :=
  { id := 1, kind := .lds, d := 4, value := 0, due := 0, floeLocal := false, pieces := [], signed := false, addr := 0,
    word := 0, wno := 0, after := [], peer := none, order := 0 }

/-- The premises of StepRunsTheDecodedInstruction for slot 0, and what is said of the answer. -/
def addIssues (s : State) (p : Data → Bool) : Bool :=
  match selectSlot s.d 0 with
  | (d1, some 0) => (match fetch (modSlot d1 0 0 (fun sl => { sl with block := .none })) 0 0 with
    | (d2, some w) => w == 0x04064280 && ! (getDie s.d (dieOf 0)).inReset &&
      (match exec (.add ⟨0, false⟩ 3 4 5) { s with
          agenda := []
          d := { modSlot d2 0 0 (fun sl => { sl with word := BitVec.ofNat 32 w }) with
            curF := 0, curK := 0, curW := BitVec.ofNat 32 w } } with
        | .next t => p t.d
        | _ => false)
    | _ => false)
  | _ => false

/-- StepRunsTheDecodedInstruction, first clause: an ADD at the pc of the slot selected, and one whose source is pending. -/
theorem wit_step_runs_seq :
    (addNext id).agenda = [.seq 0] ∧ addIssues (addNext id) (fun d => stallOf d 0 0 == none) = true ∧
    (addNext (fun t => { t with pends := [loadOfS4] })).agenda = [.seq 0] ∧
    addIssues (addNext (fun t => { t with pends := [loadOfS4] })) (fun d => stallOf d 0 0 == some (.regs [3, 4, 5])) = true := by
  decide +kernel

/-- A slot that stalls at issue keeps its wait, and the floe its cycle (R37, R38). -/
theorem test_stall_keeps_cycle :
    (match step (addNext (fun t => { t with pends := [loadOfS4] })) with
      | .next t => t.agenda == [.seq 0] && stallOf t.d 0 0 == some (.regs [3, 4, 5]) && (getFloe t.d 0).seqc == 0
      | _ => false) = true := by decide +kernel

/-- StepRunsTheDecodedInstruction: SGWT at the pc of Rook core 0, and an event on the agenda. -/
theorem wit_step_runs_rook_and_event :
    (decodeRook (rookFetch (State.reset.withFetchWord 32 0x0000250B).d 0)).toOption = some (Instr.sgwt 10) ∧
    (State.reset.withFetchWord 32 0x0000250B).agenda = [.rook 0] ∧
    (getIo (State.reset.withFetchWord 32 0x0000250B).d (0 / 4)).inReset = false ∧
    (getIo (State.reset.withFetchWord 32 0x0000250B).d (0 / 4)).held = false ∧
    (State.reset.withFetchWord 32 0x0000250B).mg.fes.getD (0 / 4) 0 = 1 ∧ State.reset.mg.fes.getD (0 / 4) 0 ≠ 1 ∧
    Instr.flr.wf = true ∧ Instr.flr.encoded = false := by decide +kernel

/-- A world whose TP holds uncorrectable data in its predicates, tile name 0, shape 0 and pattern register 0. -/
def worldBad : State := world (fun t => { t with badSpecs := [.preds, .tile 0, .shape 0, .pat 0] })

/-- The registers of a TP at reset are Sound; those of worldBad are not. -/
theorem wit_sound : ([
    (curTp (world id).d).badSpecs == [] && (curTp worldBad.d).badSpecs.contains .preds && readyB worldBad g0 [1, 2],
    ([[.shape 0], [.tile 0], [.pat 0], viewRegs (curTp worldBad.d) 0, .pat 0 :: viewRegs (curTp worldBad.d) 0] : List (List SpecReg)).all
      (badSpec (curTp worldBad.d))] : List Bool).all id = true := by decide +kernel

/-- DisabledHasNoEffect: p1 is 0 at reset; a guard by a predicate that holds uncorrectable data. -/
theorem wit_disabled : seqGuard (.nop ⟨1, false⟩) = some ⟨1, false⟩ ∧
    enabled (curTp (world id).d) ⟨1, false⟩ = false ∧ SpecReg.preds ∉ (curTp (world id).d).badSpecs ∧
    (⟨1, false⟩ : Guard).p ≠ 0 ∧ SpecReg.preds ∈ (curTp worldBad.d).badSpecs := by decide +kernel

/-- AddAndLogicResults, SelectionAndPredicateResults (the last condition code) and the other statements whose only premise is
Ready. -/
theorem wit_ready : Ready (world id) g0 [0, 1, 31] ∧ (5 : BitVec 3).toNat ≤ 5 :=
  ⟨(ready_iff _ _ _).1 (by decide +kernel), by decide⟩

/-- ShiftAndBitCountResults: an operand 0, and one with its highest bit alone. -/
theorem wit_bit_count : ([
    readyB (world id) g0 [1, 2] && rn (world id).d 2 == 0,
    readyB (world (rg [(2, 0x8000000000000000)])) g0 [1, 2] && rn (world (rg [(2, 0x8000000000000000)])).d 2 != 0]
    : List Bool).all id = true := by decide +kernel

/-- MultiplyAndDivideResults: a zero divisor, the overflowing division, any other; two due quotients and two due products of
one register, beside one not due. -/
theorem wit_divide : ([
    readyB (world id) g0 [1, 2, 3] && rn (world id).d 3 == 0,
    (let s := world (rg [(2, 0x8000000000000000), (3, 0xFFFFFFFFFFFFFFFF)])
     readyB s g0 [1, 2, 3] && (rs s.d 2).toInt == -2 ^ 63 && (rs s.d 3).toInt == -1 && rn s.d 3 != 0),
    ([PendKind.div, .mul].all (fun kind =>
      let p : Pend := { id := 1, kind := kind, d := 1, value := 7, due := 0, floeLocal := false, pieces := [], signed := false,
                        addr := 0, word := 0, wno := 0, after := [], peer := none, order := 0 }
      let s := world (fun t => { t with pends := [{ p with id := 2, due := 4 }, p, { p with id := 3, value := 9 }] })
      ((getTp s.d 0 0).pends.filter (fun q => decide (q.kind = kind) && decide (q.due ≤ (getFloe s.d 0).seqc))).map (·.id) == [1, 3] &&
        (getTp s.d 0 0).regs.length == 32))] : List Bool).all id = true := by decide +kernel

/-- ScalarInstructionsFrame: an instruction with a destination that answers a next state; a TP with bad data in s2. -/
theorem wit_scalar_frame : scalarDest (.addi g0 1 2 3) = some 1 ∧ (curTp (world id).d).badRegs = [] ∧
    SpecReg.preds ∉ (curTp (world id).d).badSpecs ∧
    (match exec (.addi g0 1 2 3) (world id) with | .next _ => true | _ => false) = true ∧
    (let s := world (fun t => { t with badRegs := [2] })
     enabled (curTp s.d) g0 && [1, 2, 3].all (fun q => ! pendReg (curTp s.d) q) && (curTp s.d).badRegs.contains 2) = true := by
  decide +kernel

/-- A region of launch 0 on floe 0, queue 0. -/
def reg0 (hdr : List Word) : Region :=
  { lid := 0, queue := 0, x := 0, pri := 0, age := 0, floes := [0], st := .resident, hdr := hdr, slim := 0, trans := 0,
    delta := (0, 0), signal := (0, 0), sigVal := 0, qnt := 1, tps := [.placed], parkedTps := [], mail := [], discards := 0,
    dlProd := 0, loaded := true, quantumAt := 0, expired := false, saves := 0, savedFloes := [], savedCells := [], lvsz := 31,
    held := false, claim := false }

/-- A started module whose floe 0 holds the region of launch 0, changed by hr. -/
def worldR (hr : Region → Region) (h : Tp → Tp) : State :=
  onD (world h) (fun d => modFloe { d with regions := [hr (reg0 (List.replicate 16 0))] } 0 (fun fl => { fl with lid := some 0 }))

/-- SystemInstructionResults: PARK with no channel bound; with one bound, and the launch not co-resident; co-resident, with a
word in its buffer and without one. -/
theorem wit_system : ([
    readyB (world id) g0 [] && ! (curTp (world id).d).bound.any id,
    (let s := worldR id (fun t => { t with bound := [true, false, false, false] })
     readyB s g0 [] && (curTp s.d).bound.any id && ! coResident (curRegion s.d)),
    (let s := worldR (fun r => { r with hdr := r.hdr.set 0 0x100000000#64 }) (fun t => { t with
        bound := [false, false, false, true], bufs := [[], [], [], [⟨1, 0, 0, ⟨0, 0⟩, 3⟩]] })
     readyB s g0 [] && (curTp s.d).bound.any id && coResident (curRegion s.d) && boundWord (curTp s.d)),
    (let s := worldR (fun r => { r with hdr := r.hdr.set 0 0x100000000#64 }) (fun t => { t with
        bound := [false, false, false, true] })
     readyB s g0 [] && (curTp s.d).bound.any id && coResident (curRegion s.d) && ! boundWord (curTp s.d))]
    : List Bool).all id = true := by decide +kernel

/-- KRegisterInstructionResults: a launch with its header; k.PRIO at its bound and past it, k.FLT with 0 and 1, another
register; a level of the header (the last), and one past it. -/
theorem wit_kregisters : ([
    someB (getRegion (worldR id id).d (curTp (worldR id id).d).owner.lid) (fun _ => readyB (worldR id id) g0 [1]),
    (let s := world (fun t => rg [(1, 31)] { t with prioMax := 31 })
     readyB s g0 [1] && decide (rn s.d 1 ≤ (curTp s.d).prioMax.toNat)),
    (let s := world (fun t => rg [(1, 31)] { t with prioMax := 30 })
     readyB s g0 [1] && decide ((curTp s.d).prioMax.toNat < rn s.d 1)),
    readyB (world id) g0 [1] && rn (world id).d 1 == 0,
    readyB (world (rg [(1, 1)])) g0 [1] && rn (world (rg [(1, 1)])).d 1 != 0,
    (11 : BitVec 10) != 2 && (11 : BitVec 10) != 5,
    (let s := worldR (fun r => { r with hdr := r.hdr.set 0 0x600000000#64 }) id
     readyB s g0 [1] && someB (getRegion s.d (curTp s.d).owner.lid) (fun r =>
       decide (hdrNf r.hdr ≤ (3 : BitVec 3).toNat) && decide ((2 : BitVec 3).toNat < hdrNf r.hdr)))]
    : List Bool).all id = true := by decide +kernel

/-- BranchAndLoopResults: a JR to the last aligned address, to a misaligned one, below 0 and past the end; LOOP with the
stack full, in an inner level, with 0 passes and with 1; a level that ends at the word with two passes left, with one, and
elsewhere; no level. -/
theorem wit_branch_and_loop : ([
    (let x : Int := rn (world (rg [(1, 0xFFFFFFFFFFFFC)])).d 1 + 4 * (0 : BitVec 12).toInt
     decide (x % 4 = 0 ∧ 0 ≤ x ∧ x < 2 ^ 52)),
    (let x : Int := rn (world (rg [(1, 1)])).d 1 + 4 * (0 : BitVec 12).toInt
     decide (x % 4 ≠ 0)),
    (let x : Int := rn (world id).d 1 + 4 * (-1 : BitVec 12).toInt
     decide (x < 0)),
    (let x : Int := rn (world (rg [(1, 0xFFFFFFFFFFFFC)])).d 1 + 4 * (1 : BitVec 12).toInt
     decide (2 ^ 52 ≤ x)),
    (let s := world (fun t => { t with loops := List.replicate 4 ⟨0, 400, 2⟩ })
     readyB s g0 [1] && decide (4 ≤ (curTp s.d).loops.length)),
    (let s := world (fun t => { t with loops := [⟨0, 0, 2⟩] })
     readyB s g0 [1] && (curTp s.d).loops.head?.any (fun l => decide (l.last < (curTp s.d).pc.toNat + 4 * (1 : BitVec 13).toNat))),
    (let s := world (fun t => { t with loops := [⟨0, 4, 2⟩] })
     readyB s g0 [1] && decide ((curTp s.d).loops.length < 4) &&
       (curTp s.d).loops.head?.all (fun l => decide ((curTp s.d).pc.toNat + 4 * (1 : BitVec 13).toNat ≤ l.last)) &&
       rn s.d 1 == 0),
    readyB (world (rg [(1, 1)])) g0 [1] && (curTp (world (rg [(1, 1)])).d).loops == [] && rn (world (rg [(1, 1)])).d 1 != 0]
    : List Bool).all id = true ∧
    (∃ l : LoopLevel, l.last = 4 ∧ 1 < l.remaining) ∧ (∃ l : LoopLevel, l.last = 4 ∧ l.remaining ≤ 1) ∧
    (∃ l : LoopLevel, l.last ≠ 4) ∧ Tp.reset.loops = [] :=
  ⟨by decide +kernel, ⟨⟨0, 4, 2⟩, by decide⟩, ⟨⟨0, 4, 1⟩, by decide⟩, ⟨⟨0, 8, 1⟩, by decide⟩, rfl⟩

/-- A two-dimensional FP32 tile of 16 by 16 elements at address 0 of a space. -/
def lte0 (space : Nat) : List Word :=
  [BitVec.ofNat 64 (0x100 + space), 0, 0x1000000010#64, 0, 0, 0, 4, 64, 0, 0, 0, 0, 0, if space = 0 then 0x800#64 else 0, 0, 0]

/-- Tile 0 of the TP names a layout entry. -/
def bindT (t : Tp) : Tp :=
  { t with tiles := t.tiles.set 0 (some { entry := 0, shape := 0, rdim := 1, cdim := 0, origin := [0, 0, 0, 0, 0, 0, 0] }) }

/-- The TP of world with tile 0 bound to the 16 by 16 tile of a space. -/
def worldT (space : Nat) (h : Tp → Tp) : State :=
  onD (worldR id (fun t => bindT (h t))) (fun d => modFloe d 0 (fun fl => { fl with lcache := fl.lcache.set 0 (some (lte0 space)) }))

/-- TileNameInstructionResults: a shape without and with a reserved bit, one with policy 3; a bound and an unbound tile. -/
theorem wit_tile_names : ([
    (let s := world (rg [(1, 0x2FFFFFF)])
     readyB s g0 [1] && rn s.d 1 / 2 ^ 26 == 0 && rn s.d 1 / 2 ^ 24 != 3),
    rn (world (rg [(1, 0x4000000)])).d 1 / 2 ^ 26 != 0,
    rn (world (rg [(1, 0x3000000)])).d 1 / 2 ^ 24 % 4 == 3,
    readyB (worldT 1 id) g0 [1] && ((curTp (worldT 1 id).d).tiles.getD 0 none).isSome,
    readyB (world id) g0 [1] && ((curTp (world id).d).tiles.getD 15 none).isNone] : List Bool).all id = true := by
  decide +kernel

/-- LayoutCacheAndPatternResults: the window summary of a tile, of one that the summary refuses, of an unbound one; LTW with a
field that passes, with one that does not, of an invalid entry; LTLD of the last entry of a table and past it; its
completion; a pattern field that is taken and one that is refused. -/
theorem wit_layout_cache : ([
    (let s := worldT 1 id
     readyB s g0 [1, 2] && someB (curView s.d 0) (fun v => ! bad12 v) && (curView s.d 1).isNone),
    (let s := worldT 1 (fun t => { t with
        tiles := t.tiles.set 1 (some { entry := 0, shape := 0, rdim := 0, cdim := 6, origin := [0, 0, 0, 0, 0, 0, 0] }) })
     readyB s g0 [1, 2] && someB (curView s.d 1) bad12),
    (let s := worldT 1 id
     someB ((getFloe s.d 0).lcache.getD 0 none) (fun l => lteCheck (l.set 8 0) == 0 && lteCheck (l.set 0 0xFF#64) != 0) &&
       ((getFloe s.d 0).lcache.getD 63 none).isNone),
    (let s := worldR (fun r => { r with hdr := r.hdr.set 14 0x0100000000000000#64 }) id
     readyB s g0 [] && ! heldBy (getFloe s.d 0) (curTp s.d) true false false &&
       someB (getRegion s.d (curTp s.d).owner.lid) (fun r => decide (regLtn r < (2 : BitVec 8).toNat) && decide ((1 : BitVec 8).toNat ≤ regLtn r))),
    (let s := onD (worldR id id) (fun d => memWriteWords (modSlot d 0 0 (fun sl => { sl with block := .issue (.ltld g0 0 0) }))
        (locHost 0) (lte0 1))
     (getSlot s.d 0 0).block == .issue (.ltld g0 0 0) && (getSlot s.d 0 0).st == .live && ! earlierPending (getTp s.d 0 0) &&
       ! (getFloe s.d 0).halted && someB (getRegion s.d (getTp s.d 0 0).owner.lid) (fun r =>
         okB (readWordsAt { s.d with curF := 0, curK := 0, curW := (getSlot s.d 0 0).word } (reqFloe 0) vaPlace
           (regLtab r + 128 * (0 : BitVec 8).toNat) 16) (fun d l => d.curF == 0 && d.curK == 0 && lteCheck l == 0))),
    (let s := world (rg [(1, 6), (2, 7)])
     readyB s g0 [1] && ! patFieldBad 0 (rs s.d 1) && patFieldBad 0 (rs s.d 2))] : List Bool).all id = true := by
  decide +kernel

/-- A configuration with every port exposed and one branch from ip port 0 to a port of its own box. -/
def cfg1 : Table := [(0, 0xFFFFFFFF), (0x3000, 0xB000)]

/-- Pattern registers 1 and 2: an indirect pattern whose index tile is tile 1, and one word in one loop. -/
def pats1 (t : Tp) : Tp := { t with pats := (t.pats.set 1 [0x18, 0, 0, 0, 0, 0, 0, 0, 0]).set 2 [0, 1, 0, 0, 0, 0, 0, 0, 0] }

/-- Tiles 0, 1 and 2: elements of FP32, an index of INT32, and FP32 elements 4 KiB above, each a window of one element in L2. -/
def worldS (h : Tp → Tp) : State :=
  onD (worldT 1 (fun t => h (pats1 { t with
      shapes := t.shapes.set 1 0x2A00000#64
      tiles := (t.tiles.set 1 (some { entry := 1, shape := 1, rdim := 1, cdim := 0, origin := [0, 0, 0, 0, 0, 0, 0] })).set 2
        (some { entry := 2, shape := 0, rdim := 1, cdim := 0, origin := [0, 0, 0, 0, 0, 0, 0] }) })))
    (fun d => modFloe d 0 (fun fl => { fl with
      lcache := (fl.lcache.set 1 (some ((lte0 1).set 0 0x1A1#64))).set 2 (some ((lte0 1).set 1 0x1000#64))
      cfg := { fl.cfg with cur := cfg1 } }))

/-- The premises of StreamMayIssue, as a test. -/
def mayIssueB (s : State) (w : Want) : Bool :=
  readyB s g0 [] && (w.tag == 0 || ! (curTp s.d).busy.contains w.tag) && (streamFree (getFloe s.d s.d.curF)).isSome &&
    ! heldBy (getFloe s.d s.d.curF) (curTp s.d) w.reads w.writes false && (wantCheck s.d w).isNone

/-- StreamCommandsTakeAnEntry: a command of each shape that passes the issue checks, with the highest tag where it has one. -/
theorem wit_stream_commands : ([
    mayIssueB (worldS id) { want0 .srd with
      tag := 63, ip := some 15, tiles := [curView (worldS id).d 0], pat := curPat (worldS id).d 0 },
    mayIssueB (worldS id) { want0 .swr with
      tag := 63, op := some 15, tiles := [curView (worldS id).d 0], pat := curPat (worldS id).d 0, writes := true },
    mayIssueB (worldS id) { want0 .sgth with
      tag := 63, ip := some 0, tiles := [curView (worldS id).d 0, curView (worldS id).d (patItn (curPat (worldS id).d 1))],
      pat := curPat (worldS id).d 1 },
    ([0, 1, 2, 3] : List (BitVec 2)).all (fun m => mayIssueB (worldS id) { want0 (.ssct m) with
      tag := 63, op := some 0, tiles := [curView (worldS id).d 0, curView (worldS id).d (patItn (curPat (worldS id).d 1))],
      pat := curPat (worldS id).d 1, writes := true }),
    mayIssueB (worldS id) { want0 .srec with ip := some 0, op := some 15, pat := curPat (worldS id).d 2, reads := false },
    mayIssueB (worldS id) { want0 .sconC with ip := some 0, pat := curPat (worldS id).d 2, reads := false },
    mayIssueB (worldS id) { want0 .sconI with ip := some 0, pat := curPat (worldS id).d 2, reads := false },
    mayIssueB (worldS id) { want0 .smcs with
      tag := 1, ip := some 0, tiles := [curView (worldS id).d 0], pat := curPat (worldS id).d 0, branches := 1 },
    mayIssueB (worldS id) { want0 .smov with
      tag := 1, tiles := [curView (worldS id).d 0, curView (worldS id).d 2], writes := true }] : List Bool).all id = true := by
  decide +kernel

/-- BarriersAndStreamKills: a free entry, with a bound tile that passes its checks, one of another space (versioned words), an
unbound one, one of another format, one with its dimensions past the rank, one beyond its cell and one below address 0; a
command with words of an unfinished record noted, and one with none. -/
theorem wit_barriers : ([
    (let s := worldS id
     readyB s g0 [] && (streamFree (getFloe s.d 0)).isSome && someB (curView s.d 0) (fun v => spaceCheck s.d v == none &&
         ! bad11 v && ! bad12 v && badExtent v == 0) && (curView s.d 15).isNone),
    someB (curView (worldT 2 id).d 0) (fun v => (spaceCheck (worldT 2 id).d v).isSome),
    [((0x2A00000 : Word), (0 : BitVec 3), (0 : Nat), 1), (0, 6, 0, 2), (0xF, 0, 0x7FFF0, 3), (0xF, 0, 2 ^ 52 - 4, 4)].all (fun x =>
      let s := onD (worldT (if x.2.2.2 = 3 then 0 else 1) id) (fun d => modFloe (modTp d 0 0 (fun t => { t with
          shapes := t.shapes.set 0 x.1
          tiles := t.tiles.set 0 (some { entry := 0, shape := 0, rdim := 1, cdim := x.2.1, origin := [0, 0, 0, 0, 0, 0, 0] }) })) 0 (fun fl => { fl with lcache := fl.lcache.set 0 (some ((lte0 (if x.2.2.2 = 3 then 0 else 1)).set 1
          (BitVec.ofNat 64 x.2.2.1))) }))
      someB (curView s.d 0) (fun v => bad11 v == (x.2.2.2 == 1) && bad12 v == (x.2.2.2 == 2) && (badExtent v != 0) == decide (3 ≤ x.2.2.2))),
    [true, false].all (fun part =>
      let w : FloeWrite := { src := 1, key := 1, elems := [], psn := false, mode := 0, fmt := 0, part := part }
      let fl := { Floe.reset with partLog := [w] }
      (fl.partLog.filter (fun w => ! (w.part && w.key == 1)) != fl.partLog) == part)] : List Bool).all id = true := by decide +kernel

/-- TagInstructionResults: with tag 1 set, a mask that is met, one that is not and may be (tag 2 is incomplete), one that
never can be; no tag set. A wait that has ended and one that has not. -/
theorem wit_tags : ([
    (let s := world (fun t => rg [(1, 3)] { t with tags := 2, busy := [2] })
     readyB s g0 [1] && ! twaitHangs (curTp s.d) true 2 && (curTp s.d).tags &&& 2 == 2 &&
       ! twaitHangs (curTp s.d) false 2 && (curTp s.d).tags &&& 2 != 0 &&
       ! twaitHangs (curTp s.d) true 4 && (curTp s.d).tags &&& 4 != 4 &&
       ! twaitHangs (curTp s.d) false 4 && (curTp s.d).tags &&& 4 == 0 && rn s.d 1 - rn s.d 1 % 2 == 2),
    (let s := world id
     readyB s g0 [1] && twaitHangs (curTp s.d) true 8 && twaitHangs (curTp s.d) false 8 && (curTp s.d).tags &&& 8 == 0),
    ([true, false].all (fun all => [1, 2].all (fun n =>
      let s := onD (world (fun t => { t with tags := 2 })) (fun d => modSlot d 0 0 (fun sl => { sl with
        block := .twait all (BitVec.ofNat 64 (2 * n)) }))
      (getSlot s.d 0 0).block == .twait all (BitVec.ofNat 64 (2 * n)) &&
        ((getTp s.d 0 0).tags &&& BitVec.ofNat 64 (2 * n) == 2) == (n == 1))))] : List Bool).all id = true := by decide +kernel

/-- A command in hand: QUEUED, with no element. -/
def cmd0 (k : CmdKind) (st : EntState) : Cmd :=
  { kind := k, st := st, slot := 0, owner := ⟨0, 0⟩, tag := 1, ip := some 0, op := none, gen := false, tile := none, tile2 := none,
    pat := [0, 1, 0, 0, 0, 0, 0, 0, 0], branches := 0, space := 0, floeLocal := true, no := 1, start := 0, pos := 0, words := 0,
    sub := 0, points := [], inflight := [], idxs := [], idxNext := 0, idxWord := 0, wno := 0, after := [], killed := none }

/-- A world with c in entry 31 of floe 0's stream table. -/
def worldC (c : Cmd) : State :=
  onD (worldR id id) (fun d => modFloe d 0 (fun fl => { fl with streams := fl.streams.set 31 (some c), cfg := { fl.cfg with cur := cfg1 } }))

/-- StreamEntriesStartAndEnd: a QUEUED command that may start, one whose words have passed, a barrier behind nothing; a killed
command, with a counted write and without, due and not yet. -/
theorem wit_stream_entries : ([
    someB ((getFloe (worldC (cmd0 .sconC .queued)).d 0).streams.getD 31 none) (fun c =>
      startsNow (worldC (cmd0 .sconC .queued)).d 0 c && ! (getFloe (worldC (cmd0 .sconC .queued)).d 0).halted),
    someB ((getFloe (worldC { cmd0 .sconC .active with words := 1, pos := 1 }).d 0).streams.getD 31 none) (fun c =>
      cmdComplete c && c.killed == none && c.floeLocal),
    someB ((getFloe (worldC (cmd0 (.sbar 2) .barrier)).d 0).streams.getD 31 none) (fun c => c.st == .barrier &&
      ((getFloe (worldC (cmd0 (.sbar 2) .barrier)).d 0).streams.filterMap id).all (fun x => x.st == .barrier)),
    [(0, 4), (7, 5), (7, 3)].all (fun (x : Nat × Nat) =>
      let s := onD (worldC { cmd0 .swr .active with killed := some 4, wno := x.1 }) (fun d => modFloe d 0 (fun fl => { fl with cyc := x.2 }))
      someB ((getFloe s.d 0).streams.getD 31 none) (fun c => c.killed == some 4 && decide (4 ≤ (getFloe s.d 0).cyc) == (x.2 != 3) &&
        (c.wno == 0 || (getTp s.d 0 c.slot).owner != c.owner) == (x.1 == 0)))] : List Bool).all id = true := by decide +kernel

/-- A word in a queue: data, a bare end of level 1, or an error token. -/
def qword (kind : Nat) : QEnt :=
  { word := match kind with
      | 0 => { data := 0, ridx := 0, fin := 0, gen := false, psn := false, mask := 0 }
      | 1 => bareEnd 1 0 false
      | _ => errTok 3 0 0 0 0 0 0 0 false,
    ready := 0, par := 0, mc := false }

/-- A word in hand, due in cycle n. -/
def hand0 (n kind : Nat) (last : Bool) : Flight := { due := n, place := 0, sub := 0, last := last, word := (qword kind).word }

/-- An ACTIVE command of kind k over tile 0 of worldS, or the same tile in FLOE, with the index of tile 1, from op port 3 to ip port 0. -/
def cmdS (k : CmdKind) (inFloe : Bool) : Cmd :=
  { cmd0 k .active with
    op := some 3, floeLocal := inFloe, tile := if inFloe then curView (worldT 0 id).d 0 else curView (worldS id).d 0,
    tile2 := curView (worldS id).d 1, branches := 1, points := [0, 0, 0, 0] }

/-- worldS at cycle 100 with command c in entry 31 and these words at op port 3; the index at address 0 is n. -/
def worldX (c : Cmd) (w : List QEnt) (n : Nat) : State :=
  onD (worldS id) (fun d => memWrite (modFloe d 0 (fun fl => { fl with
    cyc := 100, streams := fl.streams.set 31 (some c), field := { fl.field with opq := fl.field.opq.set 3 w } })) (locL2 0) 4 n false)

/-- The premises that StreamElementsMove has for every word moved, as a test; far: of a command that is not floe-local. -/
def movesB (s : State) (far : Bool) (p : Cmd → Bool) : Bool :=
  someB (getCmd s.d 0 31) (fun c => c.st == .active && c.killed == none && ! (getFloe s.d 0).halted && ! (getFloe s.d 0).frozen &&
    c.floeLocal == ! far && (! far || ! farFrozen (getFloe s.d 0) c) && decide (c.words < cmdTotal c) && p c)

/-- StreamElementsMove, not floe-local: a command that does not move; SRD of a word it may read and of one it may not (die 3); SWR
of a bare end, an error token, a data word taken and one in hand, and one it may not write; SMOV of a word. -/
theorem wit_stream_elements_far : ([
    someB (getCmd (worldC (cmd0 .srd .queued)).d 0 31) (fun c => c.st != .active),
    [0, 3].all (fun (die : Nat) =>
      let far : Option View := (curView (worldS id).d 0).map (fun v => { v with lte := v.lte.set 1 (BitVec.ofNat 64 (die * 2 ^ 27)) })
      movesB (worldX { cmdS .srd false with tile := far } [] 0) true (fun c => ipRoom (worldX c [] 0).d 0 c &&
        okB (readWord (worldX c [] 0).d 0 (cmdTile c) (wordCoords c (cmdTile c) c.words) 0 0 c.gen) (fun _ _ => true) == (die == 0)) &&
      movesB (worldX { cmdS .swr false with tile := far } [qword 0] 0) true (fun c =>
        (reachWrites (qPop (worldX c [qword 0] 0).d 0 (.op (cmdOp c))) (reqFloe 0) (cmdTile c) (qword 0).word .write 0
          (wordCoords c (cmdTile c) c.words)).2.2.isNone == (die == 0))),
    [0, 1, 2].all (fun kind =>
      let s := worldX (cmdS .swr false) [qword kind] 0
      movesB s true (fun c => c.inflight == [] && someB (opHead s.d 0 c) (fun w =>
        isErr w == (kind == 2) && (isBare w && ! isErr w) == (kind == 1) && sinkRoom s.d 0 1) && c.pos - wordPos c c.words == 0)),
    movesB (worldX { cmdS .swr false with inflight := [hand0 0 0 false] } [] 0) true (fun c => c.inflight.head?.isSome),
    (let s := worldX (cmdS .smov false) [] 0
     movesB s true (fun c => c.inflight == [] && okB (readWord s.d 0 (cmdTile2 c) (wordCoords c (cmdTile2 c) c.words) 0 0 false)
       (fun d w => (reachWrites d (reqFloe 0) (cmdTile c) w .write 0 (wordCoords c (cmdTile c) c.words)).2.2.isNone)))]
    : List Bool).all id = true := by decide +kernel

/-- StreamElementsMove, not floe-local, records: SGTH of a word in hand, of a row and of an index out of range; SSCT of a word, of a
whole record, of one with an error token, of one out of range and of one it may not write; SMCS of a word that its branch takes,
and of one that it has taken before. -/
theorem wit_stream_elements_records : ([
    movesB (worldX { cmdS .sgth false with inflight := [hand0 0 0 true] } [] 0) true (fun c =>
      ipRoom (worldX c [] 0).d 0 c && c.inflight.length == 1),
    [0, 99].all (fun n =>
      let s := worldX (cmdS .sgth false) [] n
      movesB s true (fun c => c.inflight == [] && decide (c.pos < cmdTotal c) && c.idxs == [] && okB (readIndex s.d 0 c c.pos) (fun d i =>
        rowOk (cmdTile c) i.1 == (n == 0) && okB (rowReadAll d 0 c c.pos i c.sub (rowCount (cmdTile c) i.1 - c.sub)) (fun _ l =>
          l != [])))),
    (let s := worldX (cmdS (.ssct 1) false) [qword 0] 0
     movesB s true (fun c => c.inflight == [] && someB (opHead s.d 0 c) (fun w => ! isErr w && ! isBare w))),
    [(0, 0, false), (2, 0, false), (0, 99, false), (0, 0, true)].all (fun (x : Nat × Nat × Bool) =>
      let s := onD (worldX { cmdS (.ssct 1) false with inflight := [hand0 0 x.1 true] } [] x.2.1) (fun d =>
        { d with acl := if x.2.2 then d.acl.filter (fun e => e.1 != (14 * 256 * 8 : Nat)) else d.acl })
      movesB s true (fun c => c.inflight.getLast?.any (fun y => y.last) &&
        (x.2.2 || okB (readIndex s.d 0 c c.pos) (fun d i => c.inflight.any (fun y => isErr y.word) == (x.1 == 2) &&
          rowOk (cmdTile c) i.1 == (x.2.1 == 0) && sinkRoom d 0 1 && (scatterReach d 0 c i.1 c.inflight).2.isNone)))),
    [[0, 0, 0, 0], [1, 0, 0, 0]].all (fun pts =>
      let s := worldX { cmdS .smcs false with inflight := [hand0 0 0 false], points := pts } [] 0
      movesB s true (fun c => c.inflight.length == 1 && decide (c.words < ((List.range 4).foldl (mcPass 0 (qword 0).word) (s.d, c)).2.points.getD 0 0)))]
    : List Bool).all id = true := by decide +kernel

/-- StreamElementsMove, floe-local: the reads of SRD, SMCS and SMOV; SCON's word; the words that SWR, SREC and SSCT take; SGTH's index
and row; the words due of each. -/
theorem wit_stream_elements_local : ([
    [CmdKind.srd, .smcs, .smov].all (fun k =>
      let s := worldX (cmdS k true) [] 0
      movesB s false (fun c => c.inflight == [] && decide (c.start + 5 + (c.words + 0) ≤ (getFloe s.d 0).cyc) &&
        okB (readWord s.d 0 (if k == .smov then cmdTile2 c else cmdTile c)
          (wordCoords c (if k == .smov then cmdTile2 c else cmdTile c) 0) 0 0 c.gen) (fun _ _ => true))),
    [CmdKind.sconC, .sconI].all (fun k =>
      let s := worldX (cmdS k true) [] 0
      movesB s false (fun c => decide (c.start + 1 + c.words ≤ (getFloe s.d 0).cyc) && ipRoom s.d 0 c)),
    [CmdKind.swr, .srec, .ssct 0].all (fun k =>
      let s := worldX (cmdS k true) [qword 0] 0
      movesB s false (fun c => c.inflight == [] && decide (c.idxNext < cmdTotal c) && someB (opHead s.d 0 c) (fun w => ! isErr w && ! isBare w))),
    (let s := worldX (cmdS .sgth true) [] 0
     movesB s false (fun c => decide (c.idxNext < cmdTotal c) && decide (c.start + 5 + c.idxWord ≤ (getFloe s.d 0).cyc) &&
       okB (readIndex s.d 0 c c.idxNext) (fun _ _ => true))),
    (let s := worldX { cmdS .sgth true with idxs := [(0, false)], idxNext := 1 } [] 0
     movesB s false (fun c => ! decide (c.idxNext < cmdTotal c) && c.idxs == [(0, false)] &&
       decide (c.start + 11 + (c.words + c.inflight.length) ≤ (getFloe s.d 0).cyc) &&
       okB (rowRead s.d 0 c (c.idxNext - c.idxs.length) (0, false) c.sub) (fun _ _ => true))),
    [CmdKind.srd, .srec, .sgth, .smov, .swr, .smcs].all (fun k =>
      let s := worldX { cmdS k true with inflight := [hand0 99 0 true], idxNext := 1 } [] 0
      movesB s false (fun c => c.inflight == [hand0 99 0 true] && decide (99 ≤ (getFloe s.d 0).cyc) && ipRoom s.d 0 c &&
        (! decide (c.idxNext < cmdTotal c)) && (k != .smcs || decide (c.words < ((List.range 4).foldl (mcPass 0 (qword 0).word) (s.d, c)).2.points.getD 0 0)) &&
        (reachWrites s.d (reqFloe 0) (cmdTile c) (qword 0).word .write 0 (wordCoords c (cmdTile c) c.words)).2.2.isNone)),
    [(0, 0), (2, 0), (0, 99)].all (fun (x : Nat × Nat) =>
      let s := worldX { cmdS (.ssct 1) true with inflight := [hand0 99 x.1 true] } [] x.2
      movesB s false (fun c => c.inflight.length == 1 && okB (readIndex s.d 0 c 0) (fun _ i => rowOk (cmdTile c) i.1 == (x.2 == 0) &&
        isErr (qword x.1).word == (x.1 == 2) && sinkRoom s.d 0 1)))] : List Bool).all id = true := by decide +kernel

/-- A world whose floe 0 has the configuration state c. -/
def worldG (c : CfgSt → CfgSt) (h : Tp → Tp) : State := onD (worldR id h) (fun d => modFloe d 0 (fun fl => { fl with cfg := c fl.cfg }))

/-- s with a record of floe 0 that its mailbox has not accepted. -/
def recHeld (s : State) : State := onD s (fun d => modIo d 0 (fun io => { io with heldRecs := [[0]] }))

/-- ConfigurationInstructionResults, CFGL: a free tag and one in use, a record held; an aligned host address with and without a
busy configuration, an address of another space, one misaligned and one with a high bit, and an
L2 address out of form. -/
theorem wit_configuration_load_begins : ([
    (let s := world (rg [(1, 0x50000000000040), (2, 0x20000000000000), (3, 0x10000000000020), (4, 0x110000000000040), (5, 0x10000020000000)])
     readyB s g0 [1, 2, 3, 4, 5] && rn s.d 5 / 2 ^ 52 % 16 == 1 && ! l2Ok s.d (rn s.d 5 % 2 ^ 52) 64 &&
       l2Ok s.d (rn s.d 3 % 2 ^ 52) 64 && l2Ok s.d (rn s.d 4 % 2 ^ 52) 64 && ! (curTp s.d).busy.contains 63 && ! heldBy (getFloe s.d 0) (curTp s.d) true false false &&
       ! recHeldFor s.d 0 && recHeldFor (recHeld s).d 0 &&
       [1, 3, 4, 5].contains (rn s.d 1 / 2 ^ 52 % 16) && rn s.d 1 / 2 ^ 56 == 0 && rn s.d 1 % 64 == 0 &&
       ! [1, 3, 4, 5].contains (rn s.d 2 / 2 ^ 52 % 16) &&
       [1, 3, 4, 5].contains (rn s.d 3 / 2 ^ 52 % 16) && rn s.d 3 % 64 != 0 &&
       [1, 3, 4, 5].contains (rn s.d 4 / 2 ^ 52 % 16) && rn s.d 4 / 2 ^ 56 != 0 &&
       (getFloe s.d 0).cfg.state != .loading && (getFloe s.d 0).cfg.state != .draining),
    (curTp (world (fun t => { t with busy := [63] })).d).busy.contains 63,
    [CfgState.loading, .draining].all (fun st =>
      let s := worldG (fun c => { c with state := st }) (rg [(1, 0x10000000000000)])
      readyB s g0 [1] && [1, 3, 4, 5].contains (rn s.d 1 / 2 ^ 52 % 16) && rn s.d 1 / 2 ^ 56 == 0 && rn s.d 1 % 64 == 0 &&
        ! recHeldFor s.d 0 && (getFloe s.d 0).cfg.state == st)] : List Bool).all id = true := by decide +kernel

/-- ConfigurationInstructionResults, CFGW: an expose mask in each state, a malformed name in those that are not busy, a record
held. -/
theorem wit_configuration_write : ([
    [(0, false), (0x20000, true)].all (fun (x : Word × Bool) =>
      [CfgState.idle, .ready, .loading, .draining, .failed].all (fun st =>
        let s := worldG (fun c => { c with state := st }) (rg [(1, x.1), (2, 1), (3, 0xFFFFFFFF)])
        readyB s g0 [1, 2, 3] && (getFloe s.d 0).cfg.state == st && ! recHeldFor s.d 0 && recHeldFor (recHeld s).d 0 &&
          (decide (rn s.d 1 / 2 ^ 17 ≠ 0) || fidWriteBad (rn s.d 1 % 2 ^ 16) (rn s.d 1 / 2 ^ 16 % 2) (rn s.d 3)) == x.2))]
    : List Bool).all id = true := by decide +kernel

/-- ConfigurationInstructionResults, CFGG: a checked image, an unchecked good and an unchecked bad one; each other state; a
record held, a tag in use; its completion. CFGQ of the last block. -/
theorem wit_configuration_commit : ([
    [true, false].all (fun b =>
      let s := worldG (fun c => { c with state := .ready, checked := b, pend := [(0, 1)] }) id
      readyB s g0 [] && (getFloe s.d 0).cfg.state == .ready && (getFloe s.d 0).cfg.checked == b && ! recHeldFor s.d 0 &&
        recHeldFor (recHeld s).d 0 && cfgCheck (getFloe s.d 0).cfg.pend 0 == none),
    (let s := worldG (fun c => { c with state := .ready, pend := [(1, 0x1F)] }) (fun t => { t with busy := [63] })
     readyB s g0 [] && (curTp s.d).busy.contains 63 && ! (curTp s.d).busy.contains 62 && (getFloe s.d 0).cfg.checked == false &&
       (cfgCheck (getFloe s.d 0).cfg.pend 0).isSome),
    [CfgState.idle, .failed, .loading, .draining].all (fun st =>
      let s := worldG (fun c => { c with state := st }) id
      readyB s g0 [] && (getFloe s.d 0).cfg.state == st && ! recHeldFor s.d 0),
    (let s := onD (worldG id id) (fun d => modSlot d 0 0 (fun sl => { sl with block := .issue (.cfgg g0 63) }))
     (getSlot s.d 0 0).block == .issue (.cfgg g0 63) && (getSlot s.d 0 0).st == .live && ! earlierPending (getTp s.d 0 0) &&
       ! (getFloe s.d 0).halted), decide (7 < 8)] : List Bool).all id = true := by decide +kernel

/-- A delta of one entry that names image 0 and gives image 1: field fid becomes v under mask v. -/
def deltaOf (base fid v : Word) : List Word := [0x10001, base, 1, 0, 0, 0, 0, 0, fid, v, v, 0]

/-- A world whose floe 0 loads the delta w, for its TP. -/
def loading (w : List Word) : State :=
  onD (worldG (fun c => { c with state := .loading, tag := 1, delta := 0x50000000000000 }) id) (fun d => memWriteWords d (locHost 0) w)

/-- ConfigurationLoadsAndSwitches: a load whose delta applies; one with no header, one for another image, one with a malformed
entry and one that fails the check; a commit whose field is empty. -/
theorem wit_configuration_load : ([
    [(deltaOf 0 0 1, 0), ([], 1), (deltaOf 5 0 1, 2), (deltaOf 0 0x80000 1, 3), (deltaOf 0 1 0x1F, 4)].all (fun (x : List Word × Nat) =>
      let s := loading x.1
      let c := (getFloe s.d 0).cfg
      c.state == .loading && ! c.stopped && c.count == 0 && c.next == 0 && ! recHeldFor s.d 0 &&
        (getTp s.d 0 (slotOfOwner s.d 0 c.owner)).pends == [] &&
        okB (readWordsAt s.d (reqFloe 0) (placeOf c.delta).1 (placeOf c.delta).2 8) (fun d w =>
          if x.2 = 1 then deltaHead w == none
          else ! (getFloe s.d 0).halted && someB (deltaHead w) (fun h => h.2.1 == c.curId || x.2 == 2) &&
            (x.2 == 2 || someB (deltaHead w) (fun h => match deltaEntries d (reqFloe 0) (placeOf c.delta).1 (placeOf c.delta).2 c.cur 0 h.1 with
              | (_, t, .done) => (cfgCheck t 0).isNone == (x.2 == 0) && x.2 != 3
              | (_, _, .fail _ _) => x.2 == 3
              | _ => false)))),
    (let s := worldG (fun c => { c with state := .draining }) id
     let fl := getFloe s.d 0
     fl.cfg.state == .draining && ! fl.halted && ! fl.frozen && ! recHeldFor s.d 0 && fl.streams.filterMap id == [] && fl.feed == none &&
       fl.nodes.all (fun n => n.moves.all (fun m => ! m.holdsPort)) &&
       (List.range 32).all (fun p => ! solverHolds s.d 0 p) &&
       [fl.field.ipq, fl.field.opq, fl.field.rq, fl.field.wq, fl.field.links, fl.field.agIn, fl.field.agOut].all (fun qs =>
         qs.all List.isEmpty) && fl.field.groups.all (fun g => g.commits == []) &&
       fl.field.gens.all (fun g => g.reads == [] && g.writes == []))] : List Bool).all id = true := by decide +kernel

/-- A world whose node 0 has these tokens waiting, with the field's cycle at 100. -/
def worldM (n : MNode → MNode) : State :=
  onD (worldR id id) (fun d => modFloe d 0 (fun fl => { fl with
    cyc := 100, cfg := { fl.cfg with cur := cfg1 }, nodes := fl.nodes.set 0 (n (nodeAt fl 0)) }))

/-- A token in a queue. -/
def tok (t : Word) : MTok := { tok := t, mow := 0, owner := none, arrived := 0 }

/-- A token with a MOP, and for a product one step of FP16 operands in cells 1 and 0. -/
def tokOf (mop : Nat) : Word := BitVec.ofNat 64 (mop * 2 ^ 60 + (if mop < 2 then 2 ^ 32 + 2 ^ 28 + 2 ^ 5 + 2 else 0))

/-- A word at an op port that carries an MCLR. -/
def feedWord : QEnt :=
  { word := { data := 0x3000000000000000, ridx := 0, fin := 0, gen := false, psn := false, mask := 0 }, ready := 0, par := 0, mc := false }

/-- A token with an owner and a time. -/
def tokBy (o : Option Owner) (at' : Nat) : MTok := { tok := 0, mow := 0, owner := o, arrived := at' }

/-- MatrixTokensMove, at the issuer: a token behind a TP's and before the feed's of the cycle, a queue that is full, and a token
that does not pass; a feed that is free, one that is bound, and a port that is not exposed; a word at the feed. -/
theorem wit_matrix_issue : ([
    (let before := [tokBy (some ⟨0, 0⟩) 100]
     let late := List.replicate 6 (tokBy none 100)
     let s := onD (worldM (fun n => { n with queue := before ++ late })) (fun d => modTp d 0 0 (rg [(1, 0x3000000000000000)]))
     readyB s g0 [1, 2] && mxCheck (issueCfg (getFloe s.d 0).cfg) (rs s.d 1) (rs s.d 2) == none &&
       (nodeAt (getFloe s.d 0) (rn s.d 1 / 2 ^ 23 % 4)).queue == before ++ late && decide ((before ++ late).length < 8) &&
       late.all (fun x => x.owner == none && x.arrived == (getFloe s.d 0).cyc) && before.getLast?.all (fun x => x.owner != none)),
    (let s := onD (worldM (fun n => { n with queue := List.replicate 8 (tokBy none 0) })) (fun d => modTp d 0 0 (rg [(1, 0x3000000000000000)]))
     readyB s g0 [1, 2] && mxCheck (issueCfg (getFloe s.d 0).cfg) (rs s.d 1) (rs s.d 2) == none &&
       decide (8 ≤ (nodeAt (getFloe s.d 0) (rn s.d 1 / 2 ^ 23 % 4)).queue.length)),
    (let s := world (rg [(1, 0xFFFFFFFFFFFFFFFF)])
     readyB s g0 [1, 2] && (mxCheck (issueCfg (getFloe s.d 0).cfg) (rs s.d 1) (rs s.d 2)).isSome &&
       ! exposed (issueCfg (getFloe s.d 0).cfg) (16 + (0 : BitVec 4).toNat) && (getFloe s.d 0).feed == none),
    (let s := worldM id
     readyB s g0 [] && (getFloe s.d 0).feed == none && exposed (issueCfg (getFloe s.d 0).cfg) (16 + (15 : BitVec 4).toNat)),
    (let s := onD (worldM id) (fun d => modFloe d 0 (fun fl => { fl with
        feed := some 3, field := { fl.field with opq := fl.field.opq.set 3 [feedWord] } }))
     readyB s g0 [] && (getFloe s.d 0).feed == some 3 && ! feedBehind s.d 0 3 && ! feedHeld s.d 0 && ! (getFloe s.d 0).frozen &&
       ! (getFloe s.d 0).halted && someB ((qHead s.d 0 (.op 3)).map (opWord (getFloe s.d 0).cfg.cur 3)) (fun w =>
         ! isBare w && ! isErr w && ! w.psn && w.mask == 0 &&
         mxCheck (getFloe s.d 0).cfg.cur (BitVec.ofNat 64 (w.data.toNat % 2 ^ 64)) (BitVec.ofNat 64 (w.data.toNat / 2 ^ 64 % 2 ^ 64)) == none &&
         decide ((nodeAt (getFloe s.d 0) (tokNode (BitVec.ofNat 64 (w.data.toNat % 2 ^ 64)))).queue.length < 8)))]
    : List Bool).all id = true := by decide +kernel

/-- MatrixTokensMove, acceptance: each kind of token at the head of node 0, and a product whose EXP is refused. -/
theorem wit_matrix_accept : ([
    ([0, 1, 2, 3, 4].all (fun mop =>
      let s := worldM (fun n => { n with queue := [tok (tokOf mop)] })
      let fl := getFloe s.d 0
      (nodeAt fl 0).queue == [tok (tokOf mop)] && ! nodeHeld s.d 0 0 && decide (0 < fl.cyc) && decide ((nodeAt fl 0).freeAt ≤ fl.cyc) && ! fl.frozen &&
        ! fl.halted && mtMop (tokOf mop) == mop &&
        (if mop < 2 then (mulAccepted s.d 0).contains 0 && ! expBad fl (tok (tokOf mop))
         else accQuiet (nodeAt fl 0) (mtAn (tokOf mop)) && (nodeAt fl 0).moves == [] && ipFree s.d 0 (mtPort (tokOf mop))))),
    ([0, 1].all (fun mop =>
      let t := tok (tokOf mop + 0x200#64)
      let s := worldM (fun n => { n with queue := [t] })
      let fl := getFloe s.d 0
      (nodeAt fl 0).queue == [t] && mtMop t.tok == mop && (mulAccepted s.d 0).contains 0 && expBad fl t))] : List Bool).all id = true := by
  decide +kernel

/-- MatrixTokensMove, what performs: a due MTAB whose products are exact and one whose are not; a due contribution without EXP,
with one that its count has not reached, and with one that it reaches. -/
theorem wit_matrix_perform : ([
    [(0x3C00, true), (0x0001, false)].all (fun (x : BitVec 16 × Bool) =>
      let s := worldM (fun n => { n with mtab := some (100, tok 0, [x.1], [x.1]) })
      let fl := getFloe s.d 0
      someB (nodeAt fl 0).mtab (fun y => decide (y.1 ≤ fl.cyc) && ! y.2.2.1.any (fun a => y.2.2.2.any (prodInexact a)) == x.2) &&
        ! fl.frozen && ! fl.halted),
    [0, 1, 2].all (fun exp =>
      let x : MFlight := { t := tok (tokOf 0 + BitVec.ofNat 64 (0x200 * exp)), accepted := 87, slabs := [], scales := [], psn := false,
                           ta := [], tb := [] }
      let s := worldM (fun n => { n with flight := [{ x with accepted := 88 }, x] })
      (nodeAt (getFloe s.d 0) 0).flight == [{ x with accepted := 88 }] ++ x :: [] && landsAt x == 100 &&
        decide ((getFloe s.d 0).cyc < landsAt { x with accepted := 88 }) && mtExp x.t.tok == exp &&
        (accAt (getFloe s.d 0) (mtAn x.t.tok)).cnt == 0 && decide (0 < s.d.floes.length) &&
        decide (0 < (getFloe s.d 0).nodes.length))] : List Bool).all id = true := by decide +kernel
/-- ElementAccessesIssue: an element in range, in L2 and in FLOE; one out of range; one the issue refuses. -/
theorem wit_element_issue : ([
    [0, 1].all (fun space =>
      let s := worldT space id
      readyB s g0 [1, 2, 3] && ! heldBy (getFloe s.d 0) (curTp s.d) true false (space == 0) &&
        ! heldBy (getFloe s.d 0) (curTp s.d) false true (space == 0) && someB (curView s.d 0) (fun v =>
          vLocal v == (space == 0) && elemCheck s.d v (rn s.d 2) (rn s.d 3) == none &&
            inRange v.lte (winCoords v (rn s.d 2) (rn s.d 3)))),
    (let s := onD (worldT 1 (fun t => { t with shapes := t.shapes.set 0 0 })) (fun d => modCur d (fun t => { t with
        tiles := t.tiles.set 0 (some { entry := 0, shape := 0, rdim := 1, cdim := 0, origin := [16, 0, 0, 0, 0, 0, 0] }) }))
     readyB s g0 [1, 2, 3] && someB (curView s.d 0) (fun v => elemCheck s.d v (rn s.d 2) (rn s.d 3) == none &&
       ! inRange v.lte (winCoords v (rn s.d 2) (rn s.d 3)))),
    (let s := worldT 1 (rg [(3, 1)])
     readyB s g0 [1, 2, 3] && someB (curView s.d 0) (fun v => (elemCheck s.d v (rn s.d 2) (rn s.d 3)).isSome))]
    : List Bool).all id = true := by decide +kernel

/-- An access of kind k to the 32-bit word at loc. -/
def acc0 (k : PendKind) (loc : Nat) (inFloe : Bool) : Pend :=
  { id := 1, kind := k, d := 1, value := 32, due := 0, floeLocal := inFloe, pieces := [⟨loc, 0, 32, 0⟩], signed := true,
    addr := loc % 2 ^ 60, word := 0, wno := 1, after := [], peer := none, order := 0 }

/-- The premises of MayPerformNow at slot 0 of floe 0, as a test. -/
def performB (s : State) (p : Pend) : Bool :=
  (getTp s.d 0 0).pends.find? (fun q => q.id == p.id) == some p && mayPerform (getTp s.d 0 0) p &&
    (! p.floeLocal || floeTurn (getFloe s.d 0) p)

/-- ElementAccessesPerform: a load in L2 and a store there, of good bytes and of poisoned ones, a store in FLOE, and a load and a
store without the right (die 3). -/
theorem wit_element_perform : ([
    [[], [locL2 0 / 16]].all (fun psn =>
      let p := acc0 .lds (locL2 0) false
      let s := onD (world (fun t => { t with pends := [p] })) (fun d => { d with poison := psn })
      performB s p && piecesFault s.d 0 1 p.pieces == none && piecePoisoned s.d p.pieces == (psn != [])),
    [[], [locL2 0 / 16]].all (fun psn =>
      let p := acc0 .sts (locL2 0) false
      let s := onD (world (fun t => { t with pends := [p] })) (fun d => { d with poison := psn })
      performB s p && piecesFault s.d 0 2 p.pieces == none && piecePoisoned s.d p.pieces == (psn != []) && s.d.mem.wf),
    (let p := acc0 .sts (locFloe 0 0) true
     let s := world (fun t => { t with pends := [p] })
     performB s p && piecesFault s.d 0 2 p.pieces == none && decide (0 < s.d.floes.length)),
    [(PendKind.lds, 1), (.sts, 2)].all (fun k =>
      let p := acc0 k.1 (locL2 (3 * 2 ^ 27)) false
      let s := world (fun t => { t with pends := [p] })
      performB s p && (piecesFault s.d 0 k.2 p.pieces).isSome)] : List Bool).all id = true := by decide +kernel

/-- AtomicsIssueAndPerform: an INT32 tile, one the issue refuses (FP32); an access with the right, to
good bytes and to poisoned ones, and one without. -/
theorem wit_atomics : ([
    (let s := worldS id
     readyB s g0 [1, 2] && ! heldBy (getFloe s.d 0) (curTp s.d) true true false &&
       someB (curView s.d 1) (fun v => lteSpace v.lte == 1 && atomCheck s.d v == none) &&
       someB (curView s.d 0) (fun v => lteSpace v.lte == 1 && (atomCheck s.d v).isSome)),
    [[], [locL2 0 / 16]].all (fun psn =>
      let p := acc0 (.atom 7 1 0) (locL2 0) false
      let s := onD (world (fun t => { t with pends := [p] })) (fun d => { d with poison := psn })
      performB s p && p.peer == none && physFault s.d 0 3 (locL2 p.addr) 4 == none &&
        poisoned s.d (locL2 p.addr) 4 == (psn != []) && s.d.mem.wf),
    (let p := { acc0 (.atom 0 1 0) (locL2 0) false with addr := 3 * 2 ^ 27 }
     let s := world (fun t => { t with pends := [p] })
     performB s p && (physFault s.d 0 3 (locL2 p.addr) 4).isSome)] : List Bool).all id = true := by decide +kernel

/-- FencesHoldLaterAccesses: nothing to wait for, and an access to wait for, at scope 0 and above. -/
theorem wit_fences : ([
    (let s := world id
     readyB s g0 [] && pendIds (curTp s.d) (fun _ => true) == [] && localCmds s.d == []),
    (let s := world (fun t => { t with pends := [acc0 .lds (locL2 0) false] })
     readyB s g0 [] && pendIds (curTp s.d) isRead == [1])] : List Bool).all id = true := by decide +kernel

/-- A world with an LV window on die 0, tile 0 in it, and the word w at its start. -/
def worldL (w : LvWord) (h : Tp → Tp) : State :=
  onD (worldT 2 (fun t => h { t with shapes := t.shapes.set 0 0x2A00000#64 })) (fun d =>
    modDie (modFloe d 0 (fun fl => { fl with lcache := fl.lcache.set 0 (some ((lte0 2).set 0 0x1A2#64)) })) 0 (fun c => { c with
      lvsz := 1, lv := spSet lvZero c.lv 0 w }))

/-- A VRCL of the TP on the word at LV address 0 that has not performed. -/
def rcl0 : Pend := { acc0 (.vrcl 1) 0 false with pieces := [] }

/-- VersionedWordResults: a version ahead of the latest, and one not ahead with a VRCL left; the latest, and one that is gone; a
version that is malformed; a home that refuses; the next version (0 after 65535) with room and with none, and another; an
access before; a word and versions for VRCL, 0, 3 and 2^15 after the oldest. -/
theorem wit_versioned : ([
    [(0x7FFF, []), (0, [rcl0])].all (fun (x : Word × List Pend) =>
      let s := worldL { latest := 0, vals := [0] } (fun t => rg [(1, x.1)] { t with pends := x.2 })
      readyB s g0 [1, 2] && ! heldBy (getFloe s.d 0) (curTp s.d) true false false &&
        ! heldBy (getFloe s.d 0) (curTp s.d) false true false && lvCheck s.d (rs s.d 1) (curView s.d 0) == none &&
        lvFault s.d 0 (lvAddr (curView s.d 0)) 1 == none && lvAddr (curView s.d 0) == 0 &&
        lvAhead (lvGet s.d (lvAddr (curView s.d 0))) (rn s.d 1 % 2 ^ 16) == (x.2 == []) &&
        lvBusy (curTp s.d) (lvAddr (curView s.d 0)) == (x.2 != []) && earlierPending (curTp s.d) == (x.2 != []) &&
        lvFault s.d 0 (lvAddr (curView s.d 0)) 2 == none && (rn s.d 1 % 2 ^ 16 != 1)),
    [(5, 5, true), (5, 2, true), (5, 1, false)].all (fun (x : Nat × Nat × Bool) =>
      let s := worldL { latest := x.1, vals := [4, 3, 2, 1] } (rg [(1, BitVec.ofNat 64 x.2.1)])
      let w := lvGet s.d (lvAddr (curView s.d 0))
      readyB s g0 [1, 2] && lvCheck s.d (rs s.d 1) (curView s.d 0) == none && ! lvAhead w (rn s.d 1 % 2 ^ 16) &&
        ! lvBusy (curTp s.d) (lvAddr (curView s.d 0)) &&
        decide ((w.latest + 2 ^ 16 - rn s.d 1 % 2 ^ 16) % 2 ^ 16 < w.vals.length) == x.2.2),
    (let s := worldL { latest := 0, vals := [0] } (rg [(1, 0x10000)])
     readyB s g0 [1, 2] && (lvCheck s.d (rs s.d 1) (curView s.d 0)).isSome),
    (let s := onD (worldL { latest := 0, vals := [0] } id) (fun d => { d with acl := [] })
     readyB s g0 [1, 2] && lvCheck s.d (rs s.d 1) (curView s.d 0) == none && ! earlierPending (curTp s.d) &&
       (lvFault s.d 0 (lvAddr (curView s.d 0)) 1).isSome && (lvFault s.d 0 (lvAddr (curView s.d 0)) 2).isSome),
    [[3, 2, 1], [4, 3, 2, 1]].all (fun vals =>
      let s := worldL { latest := 65535, vals := vals } (rg [(1, 0)])
      let w := lvGet s.d (lvAddr (curView s.d 0))
      readyB s g0 [1, 2] && lvCheck s.d (rs s.d 1) (curView s.d 0) == none && lvFault s.d 0 (lvAddr (curView s.d 0)) 2 == none &&
        ! earlierPending (curTp s.d) && rn s.d 1 % 2 ^ 16 == (w.latest + 1) % 2 ^ 16 && w.vals == vals),
    (let w : LvWord := { latest := 5, vals := [4, 3, 2, 1] }
     w.vals != [] && decide (w.latest < 2 ^ 16) && decide (w.vals.length ≤ 4) &&
       (w.latest + 1 + 2 ^ 16 - w.vals.length + 3) % 2 ^ 16 == 5 &&
       (w.latest + 1 + 2 ^ 16 - w.vals.length) % 2 ^ 16 == 2 && (w.latest + 1 + 2 ^ 16 - w.vals.length + 2 ^ 15) % 2 ^ 16 == 32770)] : List Bool).all id = true := by decide +kernel

/-- VersionedWaitsEnd: a VLD that waits for its version, one that waits for a VRCL, and one that ends, with its version and with
it gone; a VST, waiting and at its issue, that waits, one that ends and one that traps, and one behind an access; both past the
limit, still waiting and not. -/
theorem wit_versioned_waits : ([
    [(1, [], 1), (0, [rcl0], 2), (0, [], 3), (65535, [], 4)].all (fun (x : Nat × List Pend × Nat) =>
      let s := onD (worldL { latest := 0, vals := [7] } (fun t => { t with pends := x.2.1 })) (fun d =>
        modSlot d 0 0 (fun sl => { sl with block := .vld 1 1 0 x.1 }))
      (getSlot s.d 0 0).block == .vld 1 1 0 x.1 && lvFault s.d 0 0 1 == none && lvAhead (lvGet s.d 0) x.1 == (x.2.2 == 1) &&
        lvBusy (getTp s.d 0 0) 0 == (x.2.2 == 2) &&
        (x.2.2 == 1 || decide (((lvGet s.d 0).latest + 2 ^ 16 - x.1) % 2 ^ 16 < (lvGet s.d 0).vals.length) == (x.2.2 != 4))),
    [Block.vst 1 0 1, .vstRel 1 0 1].all (fun b => [([1], 0), ([4, 3, 2, 1], 0), ([1], 1)].all (fun (x : List Word × Nat) =>
      let s := onD (worldL { latest := x.2, vals := x.1 } id) (fun d => modSlot d 0 0 (fun sl => { sl with block := b }))
      (getSlot s.d 0 0).block == b && lvFault s.d 0 0 2 == none && (((lvGet s.d 0).latest + 1) % 2 ^ 16 == 1) == (x.2 == 0) &&
        (lvGet s.d 0).vals == x.1 && (getSlot s.d 0 0).st == .live && ! (getFloe s.d 0).halted && ! earlierPending (getTp s.d 0 0))),
    (let s := onD (worldL { latest := 0, vals := [1] } (fun t => { t with pends := [rcl0] })) (fun d =>
       modSlot d 0 0 (fun sl => { sl with block := .vstRel 1 0 1 }))
     (getSlot s.d 0 0).block == .vstRel 1 0 1 && earlierPending (getTp s.d 0 0)),
    [Block.vld 1 1 0 1, .vst 1 0 1].all (fun b => [(0, 4), (1, 1)].all (fun (x : Nat × Nat) =>
      let s := onD (worldL { latest := x.1, vals := List.replicate x.2 1 } id) (fun d => modFloe (modSlot d 0 0 (fun sl => { sl with
        block := b })) 0 (fun fl => { fl with advc := 1 }))
      (getSlot s.d 0 0).block == b && ! (getSlot s.d 0 0).hung && lvAhead (lvGet s.d 0) 1 == (x.1 == 0) &&
        (decide (1 = ((lvGet s.d 0).latest + 1) % 2 ^ 16) && decide (4 ≤ (lvGet s.d 0).vals.length)) == (x.1 == 0) &&
        decide ((getSlot s.d 0 0).since + floeSlim s.d (getFloe s.d 0) < (getFloe s.d 0).advc)))] : List Bool).all id = true := by
  decide +kernel

/-- A token word to the TP of launch 0 with WID 0, or to another WID. -/
def msg0 (dst : Word) : TokMsg := { word := 9, dst := dst, src := 1, srcOwner := ⟨0, 0⟩, c := 3 }

/-- TokenWordsMove, at the issuer: nothing held before it and a scope 0; drained writes; a held word of the route; undrained
writes; an unbound and a bound channel, empty and with a word; a waiting TRECV. -/
theorem wit_tokens_issue : ([
    (let s := world id
     readyB s g0 [1, 2] && (getFloe s.d 0).heldTok == [] && decide ((curTp s.d).wi ≤ drained (curTp s.d)) &&
       (curTp s.d).bound.getD 3 false == false),
    (let s := onD (world id) (fun d => modFloe d 0 (fun fl => { fl with heldTok := [{ msg := msg0 0, stamp := 1 }] }))
     readyB s g0 [1, 2] && (getFloe s.d 0).heldTok.any (fun h => sameRoute h.msg (msg0 0))),
    (let s := world (fun t => { t with wi := 1, undone := [1] })
     readyB s g0 [1, 2] && decide (drained (curTp s.d) < (curTp s.d).wi)),
    [[], [msg0 0]].all (fun b =>
      let s := onD (world (fun t => { t with bound := [false, false, false, true], bufs := [[], [], [], b] })) (fun d =>
        modSlot d 0 0 (fun sl => { sl with block := .trecv 1 3 }))
      readyB s g0 [1, 2] && (curTp s.d).bound.getD 3 false && (curTp s.d).bufs.getD 3 [] == b && (getSlot s.d 0 0).block == .trecv 1 3)]
    : List Bool).all id = true := by decide +kernel

/-- A world with one word on its way. -/
def worldN (dst : Word) (hr : Region → Region) (h : Tp → Tp) : State := onD (worldR hr h) (fun d => { d with net := [msg0 dst] })

/-- TokenWordsMove, on arrival: a WID of no launch, with a route and a station, with a route alone and without; a failed region; a TP that has ended, that
waits or is parked with its mailbox empty or full; a placed TP that exits, and one with room; MAILBOX_MOVE with and without
room, from a mailbox whose page is there and whose page is not, and on a floe that has been saved. -/
theorem wit_tokens_arrive : ([
    (let s := worldN 1 id id
     (releaseTokens s.d).net[0]? == some (msg0 1) && launchOf s.d 1 == none && widRoute s.d 1 == none),
    [true, false].all (fun up =>
      let s := onD (worldN 1 id id) (fun d => { d with widRoutes := [(1, 0x10005)], routes := if up then [(5, 0x800)] else [] })
      launchOf s.d 1 == none && widRoute s.d 1 == some 5 && (wordStation s.d 5 1).isSome == up),
    (let s := worldN 0 (fun r => { r with st := .failed }) id
     (releaseTokens s.d).net[0]? == some (msg0 0) && someB (launchOf s.d 0) (fun r => r.st == .failed && (widLevels r.hdr 0).isSome)),
    [TpStatus.exited, .trapped, .waiting, .parked, .placed].all (fun st =>
      let s := worldN 0 (fun r => { r with tps := [st] }) id
      someB (launchOf s.d 0) (fun r => r.st == .resident && someB (widLevels r.hdr 0) (fun vs =>
        tpStatus r (linearIndex r.hdr vs) == st && decide ((mailOf r (linearIndex r.hdr vs)).2.2.length < 2 ^ regMbxe r)))),
    (let s := worldN 0 (fun r => { r with tps := [.waiting], mail := [(0, 1, 0, [msg0 0])] }) id
     someB (launchOf s.d 0) (fun r => decide (2 ^ regMbxe r ≤ (mailOf r 0).2.2.length))),
    [SlotState.live, .exiting].all (fun st =>
      let s := onD (worldN 0 id id) (fun d => modSlot d 0 0 (fun sl => { sl with st := st }))
      findTp s.d ⟨0, 0⟩ == some (0, 0) && (getSlot s.d 0 0).st == st && decide (((getTp s.d 0 0).bufs.getD 3 []).length < 4) &&
        someB (launchOf s.d 0) (fun r => mailFor r 0 3 == [])),
    [(0, true, false), (4, true, false), (0, false, false), (0, true, true)].all (fun (x : Nat × Bool × Bool) =>
      let s := onD (worldR (fun r => { r with
          mail := [(0, 1, 0, [msg0 0])], st := if x.2.2 then .saving else .resident,
          savedFloes := if x.2.2 then [Floe.reset] else [] }) (fun t => { t with bufs := [[], [], [], List.replicate x.1 (msg0 0)] }))
        (fun d => modDie d 0 (fun c => { c with stlb := if x.2.1 then c.stlb else [] }))
      let s := onD s (fun d => modFloe d 0 (fun fl => { fl with utlb := if x.2.1 then fl.utlb else [] }))
      someB (getRegion s.d (getTp s.d 0 0).owner.lid) (fun r => mailFor r (getTp s.d 0 0).owner.n 3 == [msg0 0] &&
        okB (mailTake s.d r (getTp s.d 0 0).owner.n 3) (fun _ _ => true) == x.2.1) &&
        (getSlot s.d 0 0).st == .live && floeSaved s.d 0 == x.2.2 && ((getTp s.d 0 0).bufs.getD 3 []).length == x.1)] : List Bool).all id = true := by
  decide +kernel

/-- ThreadsEnd: a drained TP that parks, one that exits, one that has trapped, each with its record's place readable; a
runnable TP at its AGE and below it. -/
theorem wit_threads_end : ([
    [(SlotState.parking, false), (.exiting, false), (.exiting, true)].all (fun x =>
      let s := onD (worldR id id) (fun d => modSlot d 0 0 (fun sl => { sl with st := x.1, trapped := x.2, block := .drain }))
      let sl := getSlot s.d 0 0
      sl.st == x.1 && sl.trapped == x.2 && tpDrained sl.tp && ! (getFloe s.d 0).halted && ! recHeldFor s.d 0 &&
        someB (getRegion s.d sl.tp.owner.lid) (fun r =>
          okB (reach s.d (reqFloe 0) vaPlace (regCtx r + 1024 * sl.tp.owner.n) 0x3F0 .write) (fun d loc =>
            (getSlot (devWrite d loc 0x3F0) 0 0).st == x.1 &&
              [releaseTokens (devWrite d loc 0x3F0), releaseTokens s.d].all (fun e =>
                getTp e 0 0 == sl.tp && getRegion e sl.tp.owner.lid == some r)))),
    [0, 1].all (fun n =>
      let s := onD (worldR id id) (fun d => modSlot d 0 0 (fun sl => { sl with wait := n }))
      runnable s.d (getFloe s.d 0) 0 0 && ! (getSlot s.d 0 0).mask && decide (floeAge s.d (getFloe s.d 0) ≤ (getSlot s.d 0 0).wait) == (n == 1))]
    : List Bool).all id = true := by decide +kernel

/-- A queue entry with a count stamp. -/
def qent (stamp : Nat) : HwqEnt :=
  { data := [1, 2, 3, 4], stamp := stamp, sc := 1, mid := 0, role := 0, psn := false, cause := 0, prod := none }

/-- A world whose hardware queue 127 of die 0 has been changed, with handle h in s1. -/
def worldQ (h : Nat) (q : Hwq → Hwq) : State :=
  onD (worldS (rg [(1, BitVec.ofNat 64 h)])) (fun d => modQ d 127 q)

/-- The same, with slot 1 of floe 0 waiting at b. -/
def waitQ (b : Block) (q : Hwq → Hwq) : State :=
  onD (worldQ 127 (fun x => q { x with st := .direct, waitPush := [(0, 1)], waitPop := [(0, 1)] })) (fun d =>
    modSlot d 0 1 (fun sl => { sl with st := .live, block := b }))

/-- QueueInstructionResults: a handle past the queues; no right; with the rights, a DIRECT queue with 31 entries and with 32,
with and without a spill ring, stalled or not. -/
theorem wit_queue_push : ([
    readyB (worldQ 512 id) g0 [1, 2, 3, 4, 5] && decide (2 ^ 9 ≤ rn (worldQ 512 id).d 1) &&
      ! heldBy (getFloe (worldQ 512 id).d 0) (curTp (worldQ 512 id).d) true false false,
    (let s := onD (worldQ 511 id) (fun d => { d with acl := [] })
     decide (rn s.d 1 < 2 ^ 9) && [1, 2, 4].all (fun r => ! aclOk s.d (42 + 511 / 128) 0 r (511 % 128 * 4096) 1)),
    [(31, false, false), (32, false, false), (32, true, false), (0, false, true)].all (fun (x : Nat × Bool × Bool) =>
      let s := worldQ 127 (fun q => { q with st := .direct, hw := List.replicate x.1 (qent 0), spe := x.2.1, stalled := x.2.2, ssp := 1, sre := 4 })
      let q := getQ s.d 127
      readyB s g0 [1, 2, 3, 4, 5] && rn s.d 1 == 127 && [1, 2, 4].all (fun r => aclOk s.d 42 0 r (127 % 128 * 4096) 1) &&
        q.st == .direct && q.hw.length == x.1 && pushWaiters s.d 127 == [] && q.spe == x.2.1 && q.stalled == x.2.2 &&
        decide (0 < s.d.dies.length) && decide (127 < (getDie s.d 0).queues.length) &&
        (! x.2.1 || okB (writeWordsAt s.d (reqRefill 0) (ringPlace q) (q.sbase + 64 + 64 * (q.tail % 2 ^ q.sre))
            (ringWords (pushEntry s.d s.d.curF s.d.curK 2 0))) (fun d _ =>
          okB (writeAt d (reqRefill 0) (ringPlace q) (q.sbase + 8) 8 ((q.tail + 1) % 2 ^ 48) false) (fun d _ =>
            decide (0 < d.dies.length) && decide (127 < (getDie d 0).queues.length) && getQ d 127 == q)))),
    [0, 16].all (fun n =>
      let s := worldQ 127 (fun q => { q with st := .spilling, ring := List.replicate n (qent 0), spe := true, ssp := 1, sre := 4 })
      let q := getQ s.d 127
      q.st == .spilling && ! q.stalled && decide (q.ring.length < 2 ^ q.sre) == (n == 0)),
    (let s := waitQ (.qpsh 2 0 127) id
     pushWaiters s.d 127 == [(0, 1)] && (s.d.curF, s.d.curK) != (0, 1) && (getQ s.d 127).st == .direct)] : List Bool).all id = true := by
  decide +kernel

/-- QueueInstructionResults: an entry to pop, and none; one not poppable; a pop behind another; an idle queue and one that is
not; a disabled and a faulted one; a descriptor tile that passes and one that does not. -/
theorem wit_queue_pop : ([
    [[], [qent 0], [qent 5]].all (fun hw =>
      let s := worldQ 127 (fun q => { q with st := .direct, hw := hw.map (fun e => { e with prod := some ⟨0, 0⟩ }) })
      let q := getQ s.d 127
      readyB s g0 [1, 2, 3, 4, 5] && q.st != .disabled && popWaiters s.d 127 == [] && pushWaiters s.d 127 == [] &&
        q.ring == [] && (q.hw == []) == (hw == []) && q.hw.all (fun e => e.sc != 0 && stampReached s.d e.prod e.stamp == (e.stamp == 0))),
    (let s := waitQ (.qpop 2 1 127) id
     popWaiters s.d 127 == [(0, 1)] && (s.d.curF, s.d.curK) != (0, 1) && (getQ s.d 127).st != .faulted),
    [HwqState.disabled, .faulted, .direct].all (fun st =>
      let s := worldQ 127 (fun q => { q with st := st })
      (getQ s.d 127).st == st && (getQ s.d 127).hw == [] && descCheck s.d (curView s.d 0) == none &&
        (descCheck s.d (curView s.d 15)).isSome && ! heldBy (getFloe s.d 0) (curTp s.d) true false false)] : List Bool).all id = true := by
  decide +kernel

/-- QueueRequestsEnd: a waiting push with room and without, and at a queue that has been disabled; a waiting pop with an entry and
without, and at a queue that has been disabled; a descriptor that is taken, one with V 0 and one that is malformed; a refill from a
spill ring. -/
theorem wit_queue_requests : ([
    [(31, HwqState.direct), (32, .direct), (0, .disabled)].all (fun (x : Nat × HwqState) =>
      let s := waitQ (.qpsh 2 0 127) (fun q => { q with st := x.2, hw := List.replicate x.1 (qent 0) })
      (getSlot s.d 0 1).block == .qpsh 2 0 127 && (getQ s.d 127).st == x.2 && ! (getQ s.d 127).stalled &&
        (getQ s.d 127).hw.length == x.1 && (pushWaiters s.d 127).head? == some (0, 1) && ! (getQ s.d 127).spe &&
        decide (0 < s.d.dies.length) && decide (127 < (getDie s.d 0).queues.length)),
    [(0, HwqState.direct), (1, .direct), (0, .disabled)].all (fun (x : Nat × HwqState) =>
      let s := waitQ (.qpop 2 1 127) (fun q => { q with st := x.2, hw := List.replicate x.1 (qent 0) })
      (getSlot s.d 0 1).block == .qpop 2 1 127 && (getQ s.d 127).st == x.2 && (getQ s.d 127).hw.length == x.1 &&
        (getQ s.d 127).hw.all (fun e => stampReached s.d e.prod e.stamp) && (popWaiters s.d 127).head? == some (0, 1)),
    [1, 0, 0x10001].all (fun n =>
      let s := onD (worldQ 127 id) (fun d => memWrite (modSlot d 0 0 (fun sl => { sl with block := .issue (.qctlCfg g0 1 0) }))
        (locL2 0) 8 n false)
      let d := { s.d with curF := 0, curK := 0, curW := (getSlot s.d 0 0).word }
      (getSlot s.d 0 0).block == .issue (.qctlCfg g0 1 0) && (getSlot s.d 0 0).st == .live && ! earlierPending (getTp s.d 0 0) &&
        ! (getFloe s.d 0).halted &&
        okB (readWordsAt d (reqFloe 0) { space := 1, psp := 0, pmod := 0 } (lvAddr (curView d 0)) 8) (fun d' w =>
          (getQ d' (rn d' 1)).st == .disabled && d'.curF == 0 && d'.curK == 0 && (w.getD 0 0).getLsbD 0 == (n != 0) &&
            queueDescBad w == (n == 0x10001))),
    (let s := worldQ 127 (fun q => { q with st := .spilling, spe := true, ssp := 1, sre := 4, ring := [qent 0], tail := 1 })
     let q := getQ s.d 127
     q.ring == [qent 0] && ! q.stalled && decide (q.hw.length < 32) && q.st == .spilling &&
       okB (readWordsAt s.d (reqRefill 0) (ringPlace q) (q.sbase + 64 + 64 * (q.head % 2 ^ q.sre)) 8) (fun d _ =>
         okB (writeAt d (reqRefill 0) (ringPlace q) q.sbase 8 ((q.head + 1) % 2 ^ 48) false) (fun _ _ => true)))]
    : List Bool).all id = true := by decide +kernel
/-- A LAY command in hand from tile layout 0 to tile layout 2 of worldS: 16 by 16 elements, in their order. -/
def lay0 (pos : Nat) : LayCmd :=
  { owner := ⟨0, 0⟩, floe := 0, tag := 1, src := lte0 1, dst := (lte0 1).set 1 0x1000#64, dmw := 0x800000008#64, pos := pos, stopped := false,
    wno := 0, after := [] }

/-- lay0 from one space to another. -/
def layIn (a b pos : Nat) : LayCmd := { lay0 pos with src := lte0 a, dst := (lte0 b).set 1 0x1000#64 }

/-- A world whose engine 7 of die 0 holds a command. -/
def worldY (c : LayCmd) : State := onD (worldS id) (fun d => modDie d 0 (fun x => { x with firn := x.firn.set 7 (some c) }))

/-- The coordinates of the next element of a command, at its source and at its destination. -/
def layS (c : LayCmd) : List Int := (dmSource c.dmw ((dmExt c.dmw c.src).getD []) c.pos).map (fun (i : Nat) => (i : Int))
def layD (c : LayCmd) : List Int := (digits ((List.range (lteRank c.dst)).map (lteExt c.dst)) c.pos).map (fun (i : Nat) => (i : Int))

/-- Nothing keeps the command of engine 7 from its next element. -/
def layGoes (s : State) (c : LayCmd) : Bool :=
  firnCmd s.d 0 7 == some c && ! c.stopped && ! unitHeld s.d 3 0 7 && decide (c.pos < layTotal c) && ! layHalted s.d c &&
    ! (getFloe s.d c.floe).frozen

/-- LayoutEngineRuns: a LAY that passes and one that is refused, with room in the queue and without; a queued command and an
idle engine; an element to copy between L2 and FLOE, one whose source and one whose destination is refused; a command stopped,
done, with its record unwritten, on a halted and on a frozen floe; one with every element written. -/
theorem wit_layout_engine : ([
    [63, 64].all (fun n =>
      let s := onD (worldS (rg [(1, 0x800000008), (2, 0x200)])) (fun d => modDie d 0 (fun c => { c with firnQ := List.replicate n (lay0 0) }))
      readyB s g0 [1, 2] && ! (curTp s.d).busy.contains 63 && ! heldBy (getFloe s.d 0) (curTp s.d) true true false &&
        layCheck s.d (rs s.d 1) (rs s.d 2) ((getFloe s.d 0).lcache.getD (rn s.d 2 % 2 ^ 6) none)
          ((getFloe s.d 0).lcache.getD (rn s.d 2 / 2 ^ 8 % 2 ^ 6) none) == none &&
        decide ((getDie s.d 0).firnQ.length < firnQueueSize) == (n == 63)),
    (let s := worldS (rg [(2, 0x3F3F)])
     readyB s g0 [1, 2] && (layCheck s.d (rs s.d 1) (rs s.d 2) ((getFloe s.d 0).lcache.getD (rn s.d 2 % 2 ^ 6) none)
       ((getFloe s.d 0).lcache.getD (rn s.d 2 / 2 ^ 8 % 2 ^ 6) none)).isSome),
    (let s := onD (worldS id) (fun d => modDie d 0 (fun c => { c with firnQ := [lay0 0] }))
     (getDie s.d 0).firnQ == [lay0 0] && (getDie s.d 0).firn.findIdx? Option.isNone == some 0 && afterDone s.d ⟨0, 0⟩ []),
    [(1, 1), (0, 1), (1, 0), (0, 0)].all (fun p =>
      let c := layIn p.1 p.2 255
      let s := worldY c
      layGoes s c && okB (reachElem s.d (reqFloe c.floe) c.src (layS c) .read) (fun d _ =>
        okB (reachElem d (reqFloe c.floe) c.dst (layD c) .write) (fun _ _ => true))),
    (let c := layIn 2 1 0
     layGoes (worldY c) c && ! okB (reachElem (worldY c).d (reqFloe c.floe) c.src (layS c) .read) (fun _ _ => true)),
    (let c := layIn 0 2 0
     layGoes (worldY c) c && okB (reachElem (worldY c).d (reqFloe c.floe) c.src (layS c) .read) (fun d _ =>
       ! okB (reachElem d (reqFloe c.floe) c.dst (layD c) .write) (fun _ _ => true))),
    firnCmd (worldY { lay0 0 with stopped := true }).d 0 7 == some { lay0 0 with stopped := true },
    (let s := onD (worldY (lay0 0)) (fun d => modIo d 0 (fun io => { io with heldRecs := [[BitVec.ofNat 64 (3 * 2 ^ 19 + 7 * 2 ^ 49)]] }))
     firnCmd s.d 0 7 == some (lay0 0) && unitHeld s.d 3 0 7),
    [(true, false), (false, true)].all (fun p =>
      let c := layIn 0 1 0
      let s := onD (worldY c) (fun d => modFloe d 0 (fun fl => { fl with halted := p.1, frozen := p.2 }))
      firnCmd s.d 0 7 == some c && (lteSpace c.src == 0 || lteSpace c.dst == 0) && (layHalted s.d c || (getFloe s.d c.floe).frozen)),
    (let c := lay0 256
     let s := worldY c
     firnCmd s.d 0 7 == some c && decide (layTotal c ≤ c.pos) && ! (getFloe s.d 0).writes.any (fun w => w.src == 3 && w.key == 7))]
    : List Bool).all id = true := by decide +kernel

/-- A table of eight rows of four FP32 values at L2 address 0, with a plain step as optimiser. -/
def tab0 : List Word := [0x1004101, 0, 8, 0x10000, 0, 0, 0, 0]

/-- The address form of R225 for L2 address a. -/
def l2At (a : Nat) : Word := BitVec.ofNat 64 (2 ^ 52 + a)

/-- A block: table at 0xC00, indices at 0x800, offsets at 0x900, output at 0xA00, status at 0xB00. -/
def blk0 (w2 w3 : Word) : List Word := [l2At 0xC00, l2At 0x800, w2, w3, 0, 0, 0, l2At 0xB00]

/-- A block of an EGAT: an output stride of one row. -/
def blkE : List Word := [l2At 0xC00, l2At 0x800, 0, l2At 0x900, l2At 0xA00, 1, 0, l2At 0xB00]

/-- The view of a window of layout 0 of worldS at an origin. -/
def atOrigin (x : List Int) : Option View :=
  curView (worldS (fun t => { t with tiles := t.tiles.set 9 (some { entry := 0, shape := 0, rdim := 1, cdim := 0, origin := x }) })).d 9

/-- EngineCommandsIssue: a block tile in L2, one below address 0, one misaligned, one that is not in L2 and one that is unbound; a
count at its bound and past it; a block and a descriptor that pass, an INVAL of a whole table among them; a bad table address,
space and alignment; a bad descriptor, block, and an update without an optimiser; a table of an absent module. -/
theorem wit_engine_issue : ([
    (let s := worldS (rg [(1, 0x1000000), (2, 0x1000001)])
     readyB s g0 [1] && ! heldBy (getFloe s.d 0) (curTp s.d) true true false && (blockTile s.d 0).isOk && ! (blockTile s.d 15).isOk &&
       (curView s.d 15).isNone && decide (rn s.d 1 ≤ 2 ^ 24) && decide (2 ^ 24 < rn s.d 2)),
    someB (curView (worldT 0 id).d 0) (fun v => lteSpace v.lte != 1),
    someB (atOrigin [1, 0, 0, 0, 0, 0, 0]) (fun v => lteSpace v.lte == 1 && ! elemAligned64 v.lte (winCoords v 0 0)),
    someB (atOrigin [0, -1, 0, 0, 0, 0, 0]) (fun v => lteSpace v.lte == 1 && elemAligned64 v.lte (winCoords v 0 0) &&
      decide (elemInt v.lte (winCoords v 0 0) < 0)),
    [(blkE, tab0, 1, 1, true), (blk0 5 0, tab0, 3, 1, true), (blk0 (l2At 0xD00) 0, tab0, 2, 1, true), (blk0 5 0, tab0, 3, 1, true), (blk0 0 0, tab0, 1, 1, false),
     (blk0 (l2At 0xD00) 0, tab0.set 0 0x1004001#64, 2, 0, true)].all (fun x =>
      let i := if x.2.2.1 = 1 then Instr.egat g0 1 0 1 else if x.2.2.1 = 2 then .eupd g0 1 0 1 else .epin g0 1 0 1
      let s := onD (worldS (rg [(1, 1)])) (fun d => memWriteWords (memWriteWords (modSlot d 0 0 (fun sl => { sl with block := .issue i }))
        (locL2 0) x.1) (locL2 0xC00) x.2.1)
      let d := { s.d with curF := 0, curK := 0, curW := (getSlot s.d 0 0).word }
      (getSlot s.d 0 0).block == .issue i && (getSlot s.d 0 0).st == .live && ! earlierPending (getTp s.d 0 0) &&
        (match blockTile d 0 with
          | .ok (e, ad) => okB (readWordsAt d (reqFloe 0) (ltePlace e) ad 8) (fun d1 b =>
            blkAddrOk (b.getD 0 0) && (b.getD 0 0).toNat / 2 ^ 52 % 2 ^ 4 != 5 && (b.getD 0 0).toNat % 2 ^ 6 == 0 &&
              okB (readWordsAt d1 (reqFloe d1.curF) (placeOf (b.getD 0 0)).1 (placeOf (b.getD 0 0)).2 8) (fun d2 t =>
                ! descBad t && ! tabAbsent d2 t && blockBad x.2.2.1 (rn d1 1) b == ! x.2.2.2.2 && edOpt t == x.2.2.2.1))
          | .error _ => false)),
    descBad (tab0.set 3 0#64) && ! descBad (tab0.set 3 0x10005#64) && tabAbsent (worldS id).d (tab0.set 3 0x10005#64),
    [0#64, BitVec.ofNat 64 (5 * 2 ^ 52), l2At 0xC01].all (fun w =>
      ! blkAddrOk w || w.toNat / 2 ^ 52 % 2 ^ 4 == 5 || w.toNat % 2 ^ 6 != 0)] : List Bool).all id = true := by decide +kernel

/-- An engine command in hand. -/
def emb0 (op : Nat) (block : List Word) : EmbCmd :=
  { op := op, id := 0, owner := ⟨0, 0⟩, tag := 1, n := 1, block := block, tab := tab0, pos := 0, bad := [], rows := [], asked := [],
    bags := [], coalesced := false, waiting := [], redo := [], stopped := none, failAt := none, wno := 0, after := [] }

/-- A world whose engine of die 0 has been changed, with n at an L2 address. -/
def worldE (a n : Nat) (h : Emb → Emb) : State := onD (worldS id) (fun d => memWrite (modEmb d 0 h) (locL2 a) 4 n false)

/-- EngineLookUpsAndUpdates, EGAT: a row to look up, present, past the table and at home at another module; a bag whose bounds are malformed, one with a
missing row, one with its row, poisoned or not; a set due for ageing and one not. -/
theorem wit_look_ups : ([
    [0, 8].all (fun row =>
      let x := emb0 1 blkE
      let s := onD (worldE 0x904 1 (fun e => { e with cmds := [x] })) (fun d => memWrite d (locL2 0x800) 4 row false)
      embAt s.d 0 0 == some x && embRuns s.d 0 x && (posWanted s.d 0 x 0).isSome &&
        okB (readIdx s.d 0 (x.block.getD 1 0) 0) (fun d r => r == row && (decide (edNrows x.tab ≤ row) ||
          (engLocal d (rowHome d x.tab row) && embLink d 0 (rowHome d x.tab row) 1 == none && okB (rowGet d (rowHome d x.tab row % 4) x.tab row) (fun _ _ => true))))),
    (let x := { emb0 1 blkE with tab := tab0.set 3 0x10005#64 }
     let s := onD (worldE 0x904 1 (fun e => { e with cmds := [x] })) (fun d => { d with routes := [(5, 0x800)] })
     embAt s.d 0 0 == some x && embRuns s.d 0 x && (posWanted s.d 0 x 0).isSome &&
       okB (readIdx s.d 0 (x.block.getD 1 0) 0) (fun d r => decide (r < edNrows x.tab) && ! engLocal d (rowHome d x.tab r) &&
         embLink d 0 (rowHome d x.tab r) 1 == none)),
    (let x := emb0 1 blkE
     let s := worldE 0x900 1 (fun e => { e with cmds := [x] })
     embAt s.d 0 0 == some x && embRuns s.d 0 x && okB (readIdx s.d 0 (x.block.getD 3 0) 0) (fun d lo =>
       okB (readIdx d 0 (x.block.getD 3 0) 1) (fun _ hi => decide (hi < lo)))),
    [[], [(0, [0, 0, 0, 0], false)], [(0, [0, 0, 0, 0], true)]].all (fun rows =>
      let x := { emb0 1 blkE with rows := rows }
      let s := worldE 0x904 1 (fun e => { e with cmds := [x] })
      embAt s.d 0 0 == some x && embRuns s.d 0 x && okB (readIdx s.d 0 (x.block.getD 3 0) 0) (fun d lo =>
        okB (readIdx d 0 (x.block.getD 3 0) 1) (fun d' hi => decide (lo ≤ hi) && decide (hi - lo ≤ 1024) &&
          okB (bagTerms d' 0 x lo (hi - lo)) (fun e ts => ts.contains .missing == (rows == []) &&
            okB (writeBytesAt e (reqEmb 0) (placeOf (x.block.getD 4 0)).1 false
              ((outBytes x (List.replicate 4 .nan)).length / 4096 + 2)
              ((placeOf (x.block.getD 4 0)).2) (outBytes x (List.replicate 4 .nan))) (fun _ _ => true))))),
    (let s := worldE 0 0 (fun e => { e with due := [2047] })
     (getEmb s.d 0).due.contains 2047 && ! (getEmb s.d 0).due.contains 0 && decide (0 < s.d.dies.length))] : List Bool).all id = true := by
  decide +kernel

/-- The engine of this module that is home of row 0 of the table. -/
def home0 : Nat := hashHome tab0 0

/-- EngineLookUpsAndUpdates, EUPD: a batch to sum; a first contribution to a row and a second one; a relayed and a first-hand
close; a command with its work done and one that a fault has ended. -/
theorem wit_updates : ([
    (let x := emb0 2 (blk0 (l2At 0xD00) 0)
     let s := worldE 0 0 (fun e => { e with cmds := [x] })
     embAt s.d 0 0 == some x && embRuns s.d 0 x && okB (batchRows s.d 0 x 0 x.n) (fun d l =>
       okB (batchSums d 0 x [] (sortBy (fun a b => decide (a.1 < b.1) || (a.1 == b.1 && decide (a.2 ≤ b.2)))
         (l.filter (fun e => decide (e.1 < edNrows x.tab))))) (fun d _ => (tabEngines x.tab).all (fun e => embLink d 0 e 3 == none)))),
    [false, true].all (fun again =>
      let c : Contrib := { module := 0, row := 0, g := [0, 0, 0, 0], p := [], engine := 0, id := 0 }
      let s := onD (worldS id) (fun d => modEmb d home0 (fun e => { e with
        inbox := [.contribution 0 tab0 1 0 0 [0, 0, 0, 0] [] 0 0],
        steps := if again then [{ step := 1, tab := tab0, closes := [], contribs := [c], applied := [] }] else [] }))
      let d := inboxDrop s.d home0 0
      inboxAt (getEmb s.d home0) 0 == some (.contribution 0 tab0 1 0 0 [0, 0, 0, 0] [] 0 0) &&
        dirFind (getEmb d home0) (edTid tab0) 0 == none && hashHome tab0 0 == engHere d home0 &&
        migrFind (getEmb d home0) (edTid tab0) 0 == none &&
        (stepFind (getEmb d home0) (edTid tab0) 1).any (fun s => s.applied.contains 0 ||
          s.contribs.any (fun y => y.module == 0 && y.row == 0)) == again),
    [true, false].all (fun relayed =>
      let s := onD (worldS id) (fun d => modEmb d 0 (fun e => { e with inbox := [.close 0 tab0 1 0 relayed] }))
      inboxAt (getEmb s.d 0) 0 == some (.close 0 tab0 1 0 relayed) && decide (0 < (inboxDrop s.d 0 0).dies.length) &&
        ! (getEmb (inboxDrop s.d 0 0) 0).dir.any (fun x => x.1 == edTid tab0)),
    [{ emb0 1 blkE with bags := [0] }, { emb0 1 blkE with failAt := some 0 }].all (fun x =>
     let s := worldE 0 0 (fun e => { e with cmds := [x] })
     embAt s.d 0 0 == some x && x.stopped == none && (x.failAt.isSome || embDone x) && afterDone s.d x.owner x.after && ! unitHeld s.d 4 0 0 &&
       okB (writeAt s.d (reqEmb 0) (placeOf (x.block.getD 7 0)).1 (placeOf (x.block.getD 7 0)).2 8 (embStatus x) false)
         (fun _ _ => true))] : List Bool).all id = true := by decide +kernel

/-- A cached row of tab0 with its ways. -/
def unit0 (row ways : Nat) (pinned : Bool) : MorUnit :=
  { set := 0, tab := tab0, row := row, ways := List.range ways, count := 0, dirty := false, pinned := pinned,
    bytes := List.replicate 16 0, psn := false }

/-- EngineResidency: each action on a cached row, PIN with eleven ways pinned and with twelve; a migration that waits for
an earlier one of its command; SETK; a migration of a quiet row, to this module and to another, and of one with a step left; a marker. -/
theorem wit_residency : ([
    [(0, 11), (0, 12), (1, 0), (2, 0), (3, 0), (4, 0), (5, 0)].all (fun (a : Nat × Nat) =>
      let x := emb0 3 (blk0 (BitVec.ofNat 64 (a.1 + (if a.1 = 3 then (home0 + 1) % 4 * 2 ^ 32 else 0))) 0)
      let s := onD (worldE 0 0 id) (fun d => modEmb (modEmb d home0 (fun e => { e with
        units := [unit0 0 1 false, unit0 1 a.2 true] })) 0 (fun e => { e with cmds := [x] }))
      embAt s.d 0 0 == some x && embRuns s.d 0 x && decide (x.pos < x.n) && okB (readIdx s.d 0 (x.block.getD 1 0) x.pos) (fun d row =>
        let home := rowHome d x.tab row % 4
        decide (row < edNrows x.tab) && engLocal d (rowHome d x.tab row) && epAct x == a.1 && x.redo == [] &&
          embLink d 0 (rowHome d x.tab row) (actRight (epAct x)) == none &&
          someB (unitFind (getEmb d home) x.tab row) (fun u => ! u.pinned && ! u.dirty &&
            decide (waysPinned (getEmb d home) u.set + u.ways.length ≤ 12) == (a.2 < 12) &&
            ! holdsIn (getEmb d home) (edTid x.tab) row && (getEmb d home).units.filter (fun v =>
              edTid v.tab == edTid x.tab && v.row == row) == [u] &&
            (a.1 != 3 || (migrFind (getEmb d home) (edTid x.tab) row == none && decide (edMbase x.tab ≤ epTarget x / 4) &&
              decide (epTarget x / 4 < edMbase x.tab + edNmod x.tab) && hashHome x.tab row == engHere d home &&
              epTarget x != engHere d home && (getEmb d home).migrating.all (fun m => m.engine != engHere d 0 || m.id != x.id) &&
              decide ((getEmb d home).dir.length +
                ((getEmb d home).migrating.filter (fun m => hashHome m.tab m.row == engHere d home)).length < 4096)))))),
    (let x := emb0 3 (blk0 (BitVec.ofNat 64 (3 + (home0 + 1) % 4 * 2 ^ 32)) 0)
     let s := onD (worldE 0 0 id) (fun d => modEmb (modEmb d home0 (fun e => { e with
       units := [unit0 0 1 false],
       migrating := [{ tab := tab0, row := 5, target := 3, engine := 0, id := 0, pos := 0, heldMsgs := [], heldActs := [], sent := false }] })) 0
         (fun e => { e with cmds := [x] }))
     embAt s.d 0 0 == some x && embRuns s.d 0 x && decide (x.pos < x.n) && okB (readIdx s.d 0 (x.block.getD 1 0) x.pos) (fun d row =>
        let home := rowHome d x.tab row % 4
        decide (row < edNrows x.tab) && engLocal d (rowHome d x.tab row) && epAct x == 3 && x.redo == [] &&
          embLink d 0 (rowHome d x.tab row) (actRight (epAct x)) == none && (unitFind (getEmb d home) x.tab row).isSome &&
          (getEmb d home).migrating.any (fun m => m.engine == engHere d 0 && m.id == x.id))),
    (let x := { emb0 3 (blk0 0x1006 0) with n := 0 }
     let s := worldE 0 0 (fun e => { e with cmds := [x] })
     embAt s.d 0 0 == some x && embRuns s.d 0 x && x.n == 0 && x.pos == 0 && x.redo == [] && epAct x == 6),
    [(true, 3), (true, 20), (false, 3)].all (fun (x : Bool × Nat) =>
      let quiet := x.1
      let m : Migr := { tab := tab0, row := 0, target := x.2, engine := 0, id := 0, pos := 0, heldMsgs := [], heldActs := [], sent := false }
      let s := onD (worldE 0 0 (fun e => { e with
        migrating := [m], units := [unit0 0 1 false]
        steps := if quiet then [] else [{ step := 1, tab := tab0, closes := [], applied := [],
                                          contribs := [{ module := 0, row := 0, g := [], p := [], engine := 0, id := 0 }] }] })) (fun d => { d with routes := [(5, 0x800)] })
      migrFind (getEmb s.d 0) (edTid tab0) 0 == some m && unitFind (getEmb s.d 0) m.tab 0 == some (unit0 0 1 false) &&
        rowQuiet (getEmb s.d 0) (edTid tab0) 0 == quiet && ! awaitsMarker (getEmb s.d 0) (edTid tab0) 0 && ! engStill s.d 0 &&
        embLink s.d 0 m.target 2 == none && engLocal s.d m.target == (x.2 == 3)),
    (let s := worldE 0 0 (fun e => { e with inbox := [.relayEnd 1 0 0] })
     inboxAt (getEmb s.d 0) 0 == some (.relayEnd 1 0 0))] : List Bool).all id = true := by decide +kernel

/-- A solver block: one method, one slot, a history of two, records at 0x800 and 0x900, graph floe 0. -/
def sblk : List Word := [0x440000001, l2At 0x800, l2At 0x900, 0, 0, 0, 0, 0]

/-- sblk with a range of step factors and a smallest step: it passes the checks of a load. -/
def gblk : List Word := ((sblk.set 0 0x10440000001#64).set 4 0x3F8000003F800000#64).set 5 0x3F800000#64

/-- A method record of one stage and order 1. -/
def meth0 : List Word := 0x44#64 :: List.replicate 31 0

/-- A multistep method of order 1 whose coefficient sets start at L2 address a. -/
def meth1 (a : Nat) : List Word :=
  BitVec.ofNat 64 (0x41 + (l2At a).toNat % 2 ^ 32 * 2 ^ 32) :: BitVec.ofNat 64 ((l2At a).toNat / 2 ^ 32) :: List.replicate 30 0

/-- A world whose solver 0 of die 0 has been changed, with handle h in s1. -/
def worldV (h : Nat) (x : Solver → Solver) : State := onD (worldS (rg [(1, BitVec.ofNat 64 h)])) (fun d => modSol d 0 0 x)

/-- A running sample. -/
def smp (active : Bool) (back : Option (BitVec 32)) : Sample :=
  { slotRec (List.replicate 8 0) with st := 1, active := active, back := back }

/-- SolverRuns, at the issuer: a handle past the solvers; with the rights, a solver in each state. -/
theorem wit_solver_issue : ([
    readyB (worldV 16 id) g0 [1, 2] && decide (2 ^ 4 ≤ rn (worldV 16 id).d 1),
    [SolverState.idle, .ready, .running, .stopping].all (fun st =>
      let s := worldV 0 (fun x => { x with st := st })
      readyB s g0 [1, 2] && ! heldBy (getFloe s.d 0) (curTp s.d) true true false && ! heldBy (getFloe s.d 0) (curTp s.d) true false false &&
        (getSol s.d 0 0).st == st && decide (rn s.d 1 < 2 ^ 4) && (blockTile s.d 0).isOk &&
        [1, 4].all (fun r => aclOk s.d 38 0 r (rn s.d 1 % 4 * 4096) 1))] : List Bool).all id = true := by decide +kernel

/-- SolverRuns, at ISSUE_COMPLETION: SSQ.cfg with a block that passes and one that does not; SSQ.go of another block, of the
loaded one with its ports exposed or not, with a slot to run and with none. -/
theorem wit_solver_block : ([
    [(false, gblk, [], true), (false, gblk.set 6 1#64, [], true), (true, gblk.set 1 (l2At 0xB00), [smp true none], true),
        (true, gblk, [smp true none], false), (true, gblk, [smp true none], true), (true, gblk, [], true)].all
      (fun (e : Bool × List Word × List Sample × Bool) =>
      let i := if e.1 then Instr.ssqGo g0 1 0 1 else .ssqCfg g0 1 0 1
      let s := onD (worldV 0 (fun x => { x with st := if e.1 then .ready else .idle, block := gblk, samples := e.2.2.1 })) (fun d =>
        memWriteWords (modFloe (modSlot d 0 0 (fun sl => { sl with block := .issue i })) 0 (fun fl =>
          { fl with cfg := { fl.cfg with cur := if e.2.2.2 then cfg1 else [] } })) (locL2 0) e.2.1)
      let d := { s.d with curF := 0, curK := 0, curW := (getSlot s.d 0 0).word }
      (getSlot s.d 0 0).block == .issue i && (getSlot s.d 0 0).st == .live && ! earlierPending (getTp s.d 0 0) &&
        ! (getFloe s.d 0).halted && (solIssueCheck d e.1 (rs d 1) 0).isNone &&
        (match blockTile d 0 with
          | .ok (l, ad) => okB (readWordsAt d (reqFloe 0) (ltePlace l) ad 8) (fun d1 b =>
            let x := getSol d1 0 0
            b == e.2.1 && solBlockBad 0 b == (e.2.1.getD 6 0 != 0) && (b.take 7 == x.block.take 7) == (e.2.1 == gblk) &&
              graphPortsBad d1 x.block == ! e.2.2.2 && decide (0 < solRunning x) == (e.2.2.1 != []))
          | .error _ => false))] : List Bool).all id = true := by decide +kernel

/-- A word at the graph floe's output: data, or a bare end of a level. -/
def errWord (level : BitVec 3) (data : Bool) : QEnt :=
  { word := { data := if data then 0 else quadOnes, ridx := 0, fin := level, gen := false, psn := false, mask := if data then 0 else 15 }, ready := 0, par := 0, mc := false }

/-- SolverRuns, at the solver: a load that passes, one with a bad method, a bad coefficient set and a bad slot; a round that starts; an error
word with its slot and a closing word; a decision that waits, one with a slot left running and one that ends the run; a run, a
load and both that a fault has ended; a stop pending between rounds, and a run with no slot left. -/
theorem wit_solver_runs : ([
    [(meth0, 0, false, false, false), (List.replicate 32 0, 0, true, false, false), (meth1 0xA000, 0, false, true, false),
        (meth0, 6, false, false, true)].all (fun (e : List Word × Nat × Bool × Bool × Bool) =>
      let s := onD (worldV 0 (fun x => { x with loads := [(sblk, ⟨0, 0⟩, 1)] })) (fun d =>
        memWrite (memWrite (memWriteWords d (locL2 0x900) e.1) (locL2 0x820) 8 e.2.1 false) (locL2 0xA030) 4 1 false)
      let x := getSol s.d 0 0
      match readMore s.d (reqSol 0 0) (placeOf (sblk.getD 2 0)).1 (placeOf (sblk.getD 2 0)).2 32 (sbNmeth sblk) [] with
        | (d, ms, none) =>
          x.loads.head?.any (fun l => l.1 == sblk) && x.st == .idle && ! solStill s.d 0 0 && ! x.ended && ! x.loadEnded && x.gotM == [] &&
          (ms.map halves).any (methodBad (sbHd sblk)) == e.2.2.1 && (e.2.2.1 ||
            okB (setsCheck (modSol d 0 0 (fun y => { y with gotM := ms })) 0 0 0 (ms.map halves)) (fun d bad =>
              bad == e.2.2.2.1 && (bad || ((getSol d 0 0).gotS == [] &&
                (match readMore d (reqSol 0 0) (placeOf (sblk.getD 1 0)).1 (placeOf (sblk.getD 1 0)).2 8 (sbNs sblk) [] with
                  | (_, ss, none) => (ss.map slotRec).any (slotBad sblk) == e.2.2.2.2
                  | _ => false)))))
        | _ => false),
    (let s := worldV 0 (fun x => { x with st := .running, block := sblk, methods := [halves meth0], samples := [smp false none] })
     let x := getSol s.d 0 0
     let y := { x with samples := x.samples.map (roundSlot x.methods), rounds := x.rounds + 1, inRound := true }
     x.st == .running && ! x.inRound && ! solStill s.d 0 0 && ! x.ended && ! x.loadEnded && x.ending == none && decide (0 < solRunning x) &&
       okB (readSets s.d 0 0 y (activeSlots y)) (fun _ _ => true)),
    [((0 : BitVec 3), true), (1, false)].all (fun e =>
      let s := onD (worldV 0 (fun x => { x with st := .running, block := sblk, graph := some 0, inRound := true, samples := [smp true none] })) (fun d =>
        modFloe d 0 (fun fl => { fl with field := { fl.field with opq := fl.field.opq.set 0 [errWord e.1 e.2] } }))
      let x := getSol s.d 0 0
      x.inRound && solHasGraph s.d 0 0 && ! solStill s.d 0 0 && ! (getFloe s.d (sbFloe x.block)).halted && ! (getFloe s.d (sbFloe x.block)).frozen &&
        someB (qHead s.d (sbFloe x.block) (.op (sbGop x.block))) (fun w => (errorWord w).isSome == e.2)),
    (let s := worldV 0 (fun x => { x with st := .running, inRound := true, samples := [smp true none] })
     let x := getSol s.d 0 0
     x.st == .running && x.inRound && ! solStill s.d 0 0 && ! x.ended && ! x.loadEnded && x.ending == none && x.samples.any (fun y => y.active && y.back == none)),
    [[{ smp true (some 0) with last := true }, smp false none], [{ smp true (some 0) with last := true }]].all (fun ss =>
      let s := worldV 0 (fun x => { x with st := .running, block := sblk, methods := [halves meth0], inRound := true, samples := ss })
      let x := getSol s.d 0 0
      let d := modSol s.d 0 0 (fun x => { x with
          inRound := false, samples := x.samples.map (fun y => if y.active then decideSlot (decideCtx x y) y else y) })
      ! solStill s.d 0 0 && x.out == [] && x.samples.all (fun y => ! y.active || y.back.isSome) && decide (0 < solRunning (getSol d 0 0)) == (ss.length == 2)),
    [(SolverState.running, true, false), (.stopping, true, true), (.idle, false, true), (.ready, false, true)].all
      (fun (e : SolverState × Bool × Bool) =>
      let s := worldV 0 (fun x => { x with st := e.1, ended := e.2.1, loadEnded := e.2.2, loads := [(sblk, ⟨0, 0⟩, 1)] })
      let x := getSol s.d 0 0
      let loaded := if x.loadEnded then loadDone (modSol s.d 0 0 (fun y => { y with loadEnded := false })) 0 0 (⟨0, 0⟩, 1) else s.d
      (x.ended || x.loadEnded) && x.st == e.1 && x.loads == [(sblk, ⟨0, 0⟩, 1)] && ! solStill s.d 0 0 &&
        (getSol loaded 0 0).ended == x.ended),
    [(SolverState.stopping, [smp true none]), (.running, [])].all (fun (e : SolverState × List Sample) =>
      let s := worldV 0 (fun x => { x with st := e.1, samples := e.2 })
      let x := getSol s.d 0 0
      ! solStill s.d 0 0 && ! x.ended && ! x.loadEnded && x.ending == none && ! x.inRound &&
        (x.st == .stopping || (x.st == .running && solRunning x == 0)))]
    : List Bool).all id = true := by decide +kernel

/-- A pipe descriptor: queues 0 and 1, quarantine ring and tables in L2, byte tokens, one merge entry. -/
def pdesc : List Word :=
  [BitVec.ofNat 64 (4 * 2 ^ 48 + 2 ^ 40 + 2 ^ 16), BitVec.ofNat 64 (2 ^ 56 + 0x400), BitVec.ofNat 64 (2 ^ 56 + 0x800),
   BitVec.ofNat 64 (2 ^ 56 + 0xC00), 1, 1, 0, 0]

/-- A world whose pipe 0 has been changed, with handle h in s1 and queues 0 and 1 in state st. -/
def worldP (h : Nat) (st : HwqState) (x : Pipe → Pipe) : State :=
  onD (worldS (rg [(1, BitVec.ofNat 64 h)])) (fun d =>
    modPipe (modQ (modQ d 0 (fun q => { q with st := st })) 1 (fun q => { q with st := st })) 0 x)

/-- IngestInstructionResults: a handle past the pipes; one of an I/O die in reset or held; with the rights, a pipe with nothing asked of it
and with a request; a descriptor read for INGQ.start, the pipe's die up and down; a start of a running
pipe, of a malformed descriptor, of a disabled queue, of tables out of range and of good ones; a stop with and without
messages. -/
theorem wit_ingest_instructions : ([
    readyB (worldP 16 .direct id) g0 [1, 2] && decide (2 ^ 4 ≤ rn (worldP 16 .direct id).d 1),
    [(true, false), (false, true)].all (fun e =>
     let s := onD (worldP 8 .direct id) (fun d => modIo d 1 (fun io => { io with inReset := e.1, held := e.2 }))
     readyB s g0 [1, 2] && ((getIo s.d (rn s.d 1 / 8)).inReset || (getIo s.d (rn s.d 1 / 8)).held)),
    [[], [(none, ⟨0, 0⟩, 1)]].all (fun reqs =>
     let s := worldP 0 .direct (fun x => { x with reqs := reqs })
     readyB s g0 [1, 2] && ! pipeDown s.d (rn s.d 1) && [1, 4].all (fun r => aclOk s.d 46 0 r (rn s.d 1 * 4096) 1) && (blockTile s.d 0).isOk &&
       (getPipe s.d (rn s.d 1)).reqs == reqs),
    [false, true].all (fun down =>
      let i := Instr.ingqStart g0 1 0 1
      let s := onD (worldP 0 .direct id) (fun d => modIo (modSlot d 0 0 (fun sl => { sl with block := .issue i })) 0 (fun io =>
        { io with held := down }))
      let d := { s.d with curF := 0, curK := 0, curW := (getSlot s.d 0 0).word }
      (getSlot s.d 0 0).block == .issue i && (getSlot s.d 0 0).st == .live && ! earlierPending (getTp s.d 0 0) &&
        ! (getFloe s.d 0).halted &&
        (match blockTile d 0 with
          | .ok (l, ad) => okB (readWordsAt d (reqFloe 0) (ltePlace l) ad 8) (fun d1 _ => pipeDown d1 (rn d1 1) == down)
          | .error _ => false)),
    [(pdesc, HwqState.direct, true), (pdesc.set 4 0#64, .direct, false), (pdesc, .disabled, false)].all (fun e =>
      let s := worldP 0 e.2.1 (fun x => { x with reqs := [(some e.1, ⟨0, 0⟩, 1)], running := e.2.2 })
      let x := getPipe s.d 0
      x.reqs == [(some e.1, ⟨0, 0⟩, 1)] && ! pipeStill s.d 0 && x.running == e.2.2 && x.msgs == [] &&
        pipeDescBad e.1 == (e.1 != pdesc) && queueOn s.d (pdIq e.1) == (e.2.1 == .direct) && queueOn s.d (pdOq e.1) == (e.2.1 == .direct) &&
        [1, 2, 4].all (fun code => (getPipe (solTag (modPipe s.d 0 (fun x => { x with reqs := x.reqs.drop 1, code := code })) ⟨0, 0⟩ 1) 0).reqs == [])),
    [0, 1].all (fun n =>
      let s := onD (worldP 0 .direct (fun x => { x with reqs := [(some pdesc, ⟨0, 0⟩, 1)] })) (fun d => memWrite d (locL2 0x800) 4 n false)
      let x := getPipe s.d 0
      x.reqs == [(some pdesc, ⟨0, 0⟩, 1)] && ! pipeStill s.d 0 && ! x.running && x.msgs == [] && ! pdWord pdesc &&
        okB (readRecs s.d (reqPipe 0) (pdPlace pdesc 2) (pdAddr pdesc 2) 1 0 128) (fun d voc =>
          okB (readRecs d (reqPipe 0) (pdPlace pdesc 3) (pdAddr pdesc 3) 2 0 (pdNent pdesc)) (fun d' ent =>
            (match tablesCheck pdesc voc ent with
              | .ok _ => n == 0
              | .error c => c == 3 && n == 1) &&
            (getPipe (solTag (modPipe d' 0 (fun x => { x with reqs := x.reqs.drop 1 })) ⟨0, 0⟩ 1) 0).reqs == []))),
    [[], [msgOf []]].all (fun ms => (getPipe (worldP 0 .direct (fun x => { x with msgs := ms })).d 0).msgs == ms)]
    : List Bool).all id = true := by decide +kernel

/-- A good message record: one byte at L2 address 0, output at 0, a budget of one token. -/
def mrec : List Word := [0, 0x0010000000000000, 1, 0x0000000100100000]

/-- IngestMessagesMove: an entry not yet poppable, a malformed record, a poisoned one and a good one; in stage 1 a byte of the
input, its end, a place that cannot be read and one of a page that misses, with a byte that goes on and one that breaks its
coding; a byte to take and the last taken, in stages 2, 4 and 5; one to take in stage 5 behind a result still to be pushed; a token within the budget and past it; a quarantined message; a message through and one that is not. -/
theorem wit_ingest_messages : ([
    [(0, mrec, false, true), (0, [0, 0, 0, 0], false, false), (0, mrec, true, true), (9, mrec, false, true)].all
      (fun (e : Nat × List Word × Bool × Bool) =>
      let q := { qent e.1 with data := e.2.1, psn := e.2.2.1, prod := some ⟨0, 0⟩ }
      let s := onD (worldP 0 .direct (fun x => { x with desc := pdesc, running := true })) (fun d =>
        modQ (modTp d 0 0 (fun t => { t with owner := ⟨0, 0⟩ })) 0 (fun y => { y with hw := [q] }))
      let x := getPipe s.d 0
      x.running && ! pipeStill s.d 0 && popWaiters s.d (pdIq x.desc) == [] && (getQ s.d (pdIq x.desc)).st != .disabled &&
        aclOk s.d 42 0xC8 1 0 1 && (getQ s.d (pdIq x.desc)).hw == [q] && poppable s.d q == (e.1 == 0) && msgBad (msgOf q.data) == ! e.2.2.2),
    [(mrec, 0, 1), (mrec, 1, 0), (mrec.set 1 0x0020000000000000#64, 0, 2), (mrec.set 1 0x0040000001000000#64, 0, 3)].all
      (fun (e : List Word × Nat × Nat) =>
      let m := { msgOf e.1 with taken := [e.2.1, 0, 0, 0, 0] }
      let s := worldP 0 .direct (fun x => { x with msgs := [m] })
      ! pipeStill s.d 0 && stageMsg (getPipe s.d 0).msgs 1 == some 0 && decide (msgIlen m ≤ e.2.1) == (e.2.2 == 0) &&
        (e.2.2 == 0 || (match readAt s.d (reqPipe 0) (msgPlace m 2) (msgAddr m 2 + e.2.1) 1 with
          | (_, .ok _) => e.2.2 == 1
          | (_, .error fc) => e.2.2 == (if fc.1 = 5 ∨ fc.1 = 6 then 3 else 2)))),
    [2, 4, 5].all (fun st => [0, 1].all (fun n =>
      let m := { msgOf mrec with ins := List.replicate 5 [65], taken := List.replicate 5 n, fin := [true, st != 2, st != 2, st == 5, false] }
      let m := { m with fin := m.fin.set (st - 2) true }
      let s := worldP 0 .direct (fun x => { x with msgs := [m] })
      ! pipeStill s.d 0 && stageMsg (getPipe s.d 0).msgs st == some 0 && m.taken.getD (st - 1) 0 == n &&
        decide (n < (m.ins.getD (st - 1) []).length) == (n == 0) && m.fin.getD (st - 2) false && m.toks == [])),
    (let m := { msgOf mrec with ins := List.replicate 5 [65], fin := [true, true, true, true, false] }
     let s := worldP 0 .direct (fun x => { x with msgs := [{ m with fin := List.replicate 5 true }, m] })
     ! pipeStill s.d 0 && stageMsg (getPipe s.d 0).msgs 5 == some 1),
    [0, 1].all (fun n =>
      let m := { msgOf mrec with toks := [(7, 0)], written := n }
      let s := worldP 0 .direct (fun x => { x with msgs := [m] })
      ! pipeStill s.d 0 && stageMsg (getPipe s.d 0).msgs 5 == some 0 && m.toks == [(7, 0)] && decide (msgBudget m ≤ m.written) == (n == 1) &&
        okB (writeAt s.d (reqPipe 0) (msgPlace m 5) (msgAddr m 5 + 4 * m.written) 4 7 false) (fun _ _ => true)),
    (let s := worldP 0 .direct (fun x => { x with msgs := [{ msgOf mrec with quar := some (0x10, 0, 0) }] })
     ! pipeStill s.d 0 && (getPipe s.d 0).msgs.findIdx? (fun m => m.quar.isSome && ! m.entryDone) == some 0),
    [false, true].all (fun through =>
      let m := { msgOf mrec with fin := List.replicate 5 through }
      let s := worldP 0 .direct (fun x => { x with desc := pdesc, msgs := [m] })
      let h := pdOq (getPipe s.d 0).desc
      (getPipe s.d 0).msgs == [m] && msgThrough m == through && ! unitHeld s.d 7 4 0 && pushWaiters s.d h == [] && ! (getQ s.d h).stalled && aclOk s.d 42 0xC8 2 (h * 4096) 1 &&
        (getQ s.d h).st == .direct && decide ((getQ s.d h).hw.length < 32) && decide (h < (getDie s.d 0).queues.length))]
    : List Bool).all id = true := by decide +kernel

/-- A field whose block 0 takes one word of a port and gives none, whose generator 0 of cell 0 reads into its own queue, and
whose box 0 passes words from the east to its cell. -/
def cfgF : Table :=
  [(fidBlock 0 0x48, 2 ^ 31 + 2 ^ 22), (fidCell 0 1, 2 ^ 60 + 4 * 2 ^ 55), (fidBox 0 0, 5 * 2 ^ 13 + 2 ^ 10)]

/-- A data word in a queue. -/
def word0 : QEnt := { word := { data := 0, ridx := 0, fin := 0, gen := false, psn := false, mask := 0 }, ready := 0, par := 0, mc := false }

/-- A world with that field, changed by h. -/
def worldF (h : Floe → Floe) : State := onD (worldR id id) (fun d => modFloe d 0 (fun fl => h { fl with cfg := { fl.cfg with cur := cfgF } }))

/-- Every input queue of the field holds n words. -/
def feedAll (n : Nat) (fl : Floe) : Floe :=
  { fl with field := { fl.field with
      ipq := List.replicate 16 (List.replicate n word0), rq := List.replicate 32 (List.replicate n word0),
      wq := List.replicate 32 (List.replicate n word0), links := List.replicate 64 (List.replicate n word0) } }

/-- FieldMoves: a frozen floe; a group before its interval, without its words, and one that fires; a generator with and without
room; a hop with and without room. -/
theorem wit_field : ([
    (getFloe (worldF (fun fl => { fl with frozen := true })).d 0).frozen,
    (let s := worldF (fun fl => { fl with field := { fl.field with groups := fl.field.groups.set 0 { Group.reset with lastFire := some 0 } } })
     let fl := getFloe s.d 0
     ! fl.frozen && ! fl.halted && ! intervalPassed fl.cfg.cur (planOf fl.cfg.cur 0) (fl.field.groups.getD 0 Group.reset) fl.cyc),
    [0, 1].all (fun n =>
      let s := worldF (feedAll n)
      let fl := getFloe s.d 0
      let p := planOf fl.cfg.cur 0
      let g := fl.field.groups.getD 0 Group.reset
      let fp := firePlan p g (portHead fl p)
      p.ports.length == 1 && intervalPassed fl.cfg.cur p g fl.cyc && fp.take != [] && ! firesAlone p g (portHead fl p) && fp.skip == [] &&
        (match fireWords fl p fp.take with
          | none => n == 0
          | some given =>
            let js := joinAll p g fp.skip given fl.cfg.gen
            let x := runFiring fl p g.ops (givenAfter p js given) (portHead fl p)
            n == 1 && ! x.blocked && sinkRoom s.d 0 (js.flatMap (fun e => e.2.toks) ++ x.sink).length &&
              fp.want.all (fun e => e.1.q.all (fun q => decide (e.2 ≤ qFree fl.cfg.cur fl.field q))))),
    [0, 2].all (fun n =>
      let s := worldF (fun fl => { fl with field := { fl.field with agOut := fl.field.agOut.set 0 (List.replicate n word0) } })
      let d := genDeliver s.d 0 0 0
      let fl := getFloe d 0
      let t := fl.cfg.cur
      agV (agc t 0 0) && ! agWrite (agc t 0 0) && (genAt fl 0 0).lastCycle != some fl.cyc && mccMode (mcc t 0) != 1 && mccMode (mcc t 0) != 2 &&
        ! agIdx (agc t 0 0) && genMay fl 0 0 && fl.cfg.state != .draining &&
        someB (genQueue 0 0 (agDest (agc t 0 0)) true) (fun q => qRoom d 0 q 1 == (n == 0))),
    [0, 99].all (fun n =>
      let s := worldF (fun fl => { feedAll n fl with field := { (feedAll n fl).field with links := fl.field.links.set 7 [word0] } })
      let ws := hopWords (getFloe s.d 0).cfg.cur 0 1
      ws != [] && someB (hopIn 0 1) (fun q => someB (qHead s.d 0 q) (fun x =>
        ws.all (fun w => hopsRoom s.d 0 0 [w] (hopNeed s.d 0 0 w x) == (n == 0) && convFree s.d 0 0 w))))] : List Bool).all id = true := by
  decide +kernel

/-- A field whose ESINK is op port 15 and whose cell 0 has a mode and a BLVL; its generator 0 writes or reads, indexed or not, and its
generator 1 goes the other way, over the same sixteen words. -/
def cfgM (mode blvl : Nat) (write idx : Bool) : Table :=
  [(1, 0x1F), (fidCell 0 0, mode + blvl * 2 ^ 4 + 2 ^ 7 + 4 * 2 ^ 11),
   (fidCell 0 1, 2 ^ 60 + (if write then 2 ^ 59 else 0) + (if idx then 2 ^ 58 else 0) + 2 ^ 55 + 4 * 2 ^ 52 + 15 * 2 ^ 15),
   (fidCell 0 2, 2 ^ 60 + (if write then 0 else 2 ^ 59) + 4 * 2 ^ 55 + 15 * 2 ^ 15)]

/-- A world with that field: what the generators are, the words at its index or data queue, in its FIFO and at ESINK. -/
def worldAG (t : Table) (a b : Gen) (ix data fifo sink : List QEnt) : State :=
  worldF (fun fl => { fl with
    cfg := { fl.cfg with cur := t }
    field := { fl.field with
      gens := (fl.field.gens.set 0 a).set 1 b, agIn := List.replicate 32 ix, wq := List.replicate 32 data
      rq := List.replicate 32 (if data.length = 9 then data else []), fifo := List.replicate 8 fifo, opq := fl.field.opq.set 15 sink } })

/-- The premises of every clause about generator 0 of cell 0: it goes one way, and moved or did not in this cycle. -/
def genB (s : State) (write moved : Bool) (p : Data → Floe → Gen → QId → Bool) : Bool :=
  let d := genDeliver s.d 0 0 0
  let fl := getFloe d 0
  agV (agc (getFloe s.d 0).cfg.cur 0 0) && ! (getFloe s.d 0).frozen && ! (getFloe s.d 0).halted &&
    ((genAt fl 0 0).lastCycle == some (getFloe s.d 0).cyc) == moved && agWrite (agc (getFloe s.d 0).cfg.cur 0 0) == write &&
    someB (genQueue 0 0 (agDest (agc fl.cfg.cur 0 0)) (! write)) (fun q => p d fl (genAt fl 0 0) q)

/-- A bare end token, an error token and a data word out of every buffer. -/
def bareW : QEnt := errWord 1 false
def errW : QEnt := { errWord 0 false with word := { (errWord 0 false).word with psn := true } }
def farW : QEnt := { word0 with word := { word0.word with data := quadOnes } }

/-- FieldMoves, of read generators: one that has moved this cycle; a full queue; a FIFO empty, with an entry not ready, a token and a
word; a line buffer that waits and one that delivers; a buffer not filled yet; an indexed read with no index, a token, an offset out
of range and one in range. -/
theorem wit_read_generators : ([
    genB (worldAG (cfgM 0 0 false false) { Gen.reset with lastCycle := some 0 } Gen.reset [] [] [] []) false true (fun _ _ _ _ => true),
    genB (worldAG (cfgM 0 0 false false) Gen.reset Gen.reset [] (List.replicate 9 word0) [] []) false false (fun d _ _ q => ! qRoom d 0 q 1),
    [([], 0), ([{ word0 with ready := 9 }], 1), ([bareW], 2), ([word0], 3)].all (fun (e : List QEnt × Nat) =>
      genB (worldAG (cfgM 1 0 false false) Gen.reset Gen.reset [] [] e.1 []) false false (fun d fl _ q =>
        qRoom d 0 q 1 && mccMode (mcc fl.cfg.cur 0) == 1 && fl.field.fifo.getD 0 [] == e.1 &&
          e.1.all (fun x => decide (x.ready ≤ fl.cyc) == (e.2 != 1) && (isErr (entWord x) || isBare (entWord x)) == (e.2 == 2)))),
    [0, 16].all (fun n =>
      genB (worldAG (cfgM 2 0 false false) Gen.reset { Gen.reset with closed := n } [] [] [] []) false false (fun d fl x q =>
        qRoom d 0 q 1 && mccMode (mcc fl.cfg.cur 0) == 2 &&
          decide ((lineMate fl 0 0).closed < (x.closed + mccLines (mcc fl.cfg.cur 0)) * mccLine (mcc fl.cfg.cur 0)) == (n == 0))),
    genB (worldAG (cfgM 0 1 false false) Gen.reset Gen.reset [] [] [] []) false false (fun d fl _ q => qRoom d 0 q 1 && ! genMay fl 0 0),
    [([], 0), ([bareW], 1), ([farW], 2), ([word0], 3)].all (fun (e : List QEnt × Nat) =>
      genB (worldAG (cfgM 0 0 false true) Gen.reset Gen.reset e.1 [] [] []) false false (fun d fl _ q =>
        qRoom d 0 q 1 && genMay fl 0 0 && agIdx (agc fl.cfg.cur 0 0) && someB (genQueue 0 0 (agIsrc (agc fl.cfg.cur 0 0)) false) (fun iq =>
          match qHead d 0 iq with
          | none => e.2 == 0
          | some ix => (isErr ix || isBare ix) == (e.2 == 1) && offOk fl.cfg.cur 0 0 (indexOff ix) == (e.2 == 3))))]
    : List Bool).all id = true := by decide +kernel

/-- FieldMoves, of write generators: one that has moved this cycle; a FIFO with no word, full, and with room; a line buffer with a bare end
token, a word whose line is still needed and one with room; a buffer not yet read; an affine write with no word, a word, a bare end
token, and an error token with room at ESINK and without; an indexed write in range, and out of range with room at ESINK and without. -/
theorem wit_write_generators : ([
    genB (worldAG (cfgM 0 0 true false) { Gen.reset with lastCycle := some 0 } Gen.reset [] [] [] []) true true (fun _ _ _ _ => true),
    [([], 0, 0), ([word0], 16, 1), ([word0], 3, 2)].all (fun (e : List QEnt × Nat × Nat) =>
      genB (worldAG (cfgM 1 0 true false) Gen.reset Gen.reset [] e.1 (List.replicate e.2.1 word0) []) true false (fun d fl _ q =>
        mccMode (mcc fl.cfg.cur 0) == 1 && (qHead d 0 q).isNone == (e.2.2 == 0) &&
          decide (agLen (agc fl.cfg.cur 0 0) ≤ (fl.field.fifo.getD 0 []).length) == (e.2.2 == 1))),
    [(bareW, 0, 0), (word0, 8, 1), (word0, 7, 2)].all (fun (e : QEnt × Nat × Nat) =>
      genB (worldAG (cfgM 2 0 true false) { Gen.reset with moved := e.2.1 } Gen.reset [] [e.1] [] []) true false (fun d fl x q =>
        mccMode (mcc fl.cfg.cur 0) == 2 && someB (qHead d 0 q) (fun w => isBare w == (e.2.2 == 0) && ! isErr w) &&
          decide ((lineMate fl 0 0).closed + mccLines (mcc fl.cfg.cur 0) ≤ x.moved / mccLine (mcc fl.cfg.cur 0)) == (e.2.2 == 1))),
    genB (worldAG (cfgM 0 1 true false) { Gen.reset with buf := 1 } Gen.reset [] [word0] [] []) true false (fun _ fl _ _ => ! genMay fl 0 0),
    [([], 0, 0), ([word0], 0, 1), ([bareW], 0, 2), ([errW], 0, 3), ([errW], 16, 4)].all (fun (e : List QEnt × Nat × Nat) =>
      genB (worldAG (cfgM 0 0 true false) Gen.reset Gen.reset [] e.1 [] (List.replicate e.2.1 word0)) true false (fun d fl _ q =>
        genMay fl 0 0 && ! agIdx (agc fl.cfg.cur 0 0) && sinkRoom d 0 1 == (e.2.2 != 4) &&
          match qHead d 0 q with
          | none => e.2.2 == 0
          | some w => isBare w == (e.2.2 == 2) && isErr w == decide (3 ≤ e.2.2))),
    [(word0, 0, 0), (farW, 0, 1), (farW, 16, 2)].all (fun (e : QEnt × Nat × Nat) =>
      genB (worldAG (cfgM 0 0 true true) Gen.reset Gen.reset [e.1] [word0] [] (List.replicate e.2.1 word0)) true false (fun d fl _ q =>
        genMay fl 0 0 && agIdx (agc fl.cfg.cur 0 0) && someB (genQueue 0 0 (agIsrc (agc fl.cfg.cur 0 0)) false) (fun iq =>
          iq != q && someB (qHead d 0 iq) (fun ix => ! isErr ix && ! isBare ix && offOk fl.cfg.cur 0 0 (indexOff ix) == (e.2.2 == 0)) &&
            someB (qHead d 0 q) (fun w => ! isErr w && ! isBare w) && sinkRoom d 0 1 == (e.2.2 != 2))))]
    : List Bool).all id = true := by decide +kernel
/-- A world whose Rook core 0 has been changed and whose queue 0 has its ring at L2 address 0. -/
def worldK (h : Rook → Rook) : State := onD (world id) (fun d => { modRook d 0 h with swqs := [(0, swq0)] })
where
  /-- An active queue with one packet. -/
  swq0 : Swq := { st := .active, x := 0, qnt := 1, re := 4, pri := 0, ring := (1, 0), wlim := 1, pidx := 1, cidx := 0, cause := 0,
                  since := 0, packet := none, blockedAt := none, fetchedAt := 0, timedOut := false, todo := [] }

/-- RookInstructionResults: BFXT's widths 1, 64, 0 and 65; RFET of a queue; SGWT of a WAIT and of another packet; SGST of a
SIGNAL, of a LAUNCH without a signal and of a FENCE; DSPT to no floe, to one of a die in reset, to one that is not idle, to one that is and to one whose
record is unwritten or unread; an RFET, SGWT, SGST and DSPT that may not read (die 3), a SIGNAL of poisoned data; a malformed image; a TP
placed again, whose record can be read and cannot, and one that is not parked; a floe with stop masks set. -/
theorem wit_rook : ([
    [1, 64, 0, 65].all (fun n =>
      let s := worldK (fun k => { k with regs := k.regs.set 2 (BitVec.ofNat 64 (n * 2 ^ 8)) })
      (xget s.d 2).toNat / 2 ^ 8 % 2 ^ 7 == n),
    (let s := worldK id
     someB (getSwq s.d ((xget s.d 1).toNat % 2 ^ 12)) (fun q =>
       okB (readWordsAt s.d (reqCore s.d) { space := q.ring.1, psp := 0, pmod := 0 } (q.ring.2 + 64 * ((xget s.d 2).toNat % 2 ^ 48 % 2 ^ q.re)) 8)
         (fun _ _ => true))),
    (let s := worldK (fun k => { k with packet := [3, l2At 0, 0, 0, 0, 0, 0, 0] })
     let k := getRook s.d s.d.curR
     pktType k.packet == 3 && okB (readAt s.d (reqCore s.d) (pktSignal k.packet).1 (pktSignal k.packet).2 4) (fun _ _ => true)),
    (let s := worldK (fun k => { k with packet := [0x20004, l2At 0, 0, 0, 0, 0, 0, 0] })
     let k := getRook s.d s.d.curR
     pktType k.packet == 4 && okB (reach s.d (reqCore s.d) (pktSignal k.packet).1 (pktSignal k.packet).2 4 .readWrite)
       (fun d loc => ! poisoned d loc 4) &&
       okB (reach (poisonWrite s.d (locL2 0) 4 true) (reqCore s.d) (pktSignal k.packet).1 (pktSignal k.packet).2 4 .readWrite) (fun d loc => poisoned d loc 4)),
    [1, 2, 5].all (fun n =>
      let k := getRook (worldK (fun k => { k with packet := [n, 0, 0, 0, 0, 0, 0, 0] })).d 0
      pktType k.packet == n.toNat && k.packet.getD 6 0 == 0),
    [3, 0x20004].all (fun n =>
      let s := worldK (fun k => { k with packet := [n, l2At (3 * 2 ^ 27), 0, 0, 0, 0, 0, 0] })
      let k := getRook s.d s.d.curR
      pktType k.packet == n.toNat % 8 && ! okB (reach s.d (reqCore s.d) (pktSignal k.packet).1 (pktSignal k.packet).2 4 .readWrite) (fun _ _ => true) &&
        ! okB (readAt s.d (reqCore s.d) (pktSignal k.packet).1 (pktSignal k.packet).2 4) (fun _ _ => true)),
    [1, 2].all (fun n => [0, 3].all (fun (die : Nat) =>
      let s := worldK (fun k => { k with packet := [n, 0, 0, 0, 0, 0, l2At (die * 2 ^ 27 + 8), 7] })
      let k := getRook s.d s.d.curR
      pktType k.packet == n.toNat && k.packet.getD 6 0 != 0 &&
        okB (reach s.d (reqCore s.d) (placeOf (k.packet.getD 6 0)).1 (placeOf (k.packet.getD 6 0)).2 4 .readWrite) (fun _ _ => true) == (die == 0))),
    (let s := onD (worldK id) (fun d => modSwq d 0 (fun q => { q with ring := (1, 3 * 2 ^ 27) }))
     someB (getSwq s.d ((xget s.d 1).toNat % 2 ^ 12)) (fun q => ! okB (readWordsAt s.d (reqCore s.d)
       { space := q.ring.1, psp := 0, pmod := 0 } (q.ring.2 + 64 * ((xget s.d 2).toNat % 2 ^ 48 % 2 ^ q.re)) 8) (fun _ _ => true))),
    [l2At (3 * 2 ^ 27), l2At 0].all (fun a =>
      let s := onD (worldK (fun k => { k with regs := k.regs.set 2 a })) (fun d => memWrite d (locL2 0) 8 0x20 false)
      let x := (xget s.d 1).toNat % 2 ^ 8
      decide (x < 144) && ! (getDie s.d (dieOf x)).inReset && ! recUnread s.d x &&
        okB (readWordsAt s.d (reqCore s.d) (placeOf (xget s.d 2)).1 (placeOf (xget s.d 2)).2 128) (fun _ w => imageBad w) == (a == l2At 0)),
    [(true, true), (true, false), (false, true)].all (fun (e : Bool × Bool) =>
      let s := onD (worldK (fun k => { k with regs := (k.regs.set 1 143).set 2 (l2At 0) })) (fun d => modDie (memWrite { d with
        regions := [{ reg0 (List.replicate 16 0) with parkedTps := if e.1 then [(0, Slot.reset)] else [] }] } (locL2 0) 8 8 false) 0
          (fun c => { c with stlb := if e.2 then c.stlb else [] }))
      let x := (xget s.d 1).toNat % 2 ^ 8
      x == 143 && ! (getDie s.d (dieOf x)).inReset && ! recUnread s.d x &&
        okB (readWordsAt s.d (reqCore s.d) (placeOf (xget s.d 2)).1 (placeOf (xget s.d 2)).2 128) (fun d w => ! imageBad w &&
          (w.getD 0 0).toNat / 2 ^ 3 % 2 ^ 2 == 1 && dsptIdle d x ((w.getD 0 0).toNat % 2 ^ 3) ((w.getD 3 0).toNat % 2 ^ 16) &&
          (match imageParked d w with
            | none => ! e.1
            | some (r, sl) => e.1 && okB (replaceTp d (reqCore d) r x ((w.getD 0 0).toNat % 2 ^ 3) sl) (fun _ _ => true) == e.2))),
    stopMasked (world id).d { Floe.reset with judged := true } && (getDie State.reset.d (dieOf 0)).inReset,
    (let s := worldK (fun k => { k with regs := k.regs.set 1 144 })
     decide (144 ≤ (xget s.d 1).toNat % 2 ^ 8)),
    [0, 143].all (fun f =>
      let s := worldK (fun k => { k with regs := (k.regs.set 1 (BitVec.ofNat 64 f)).set 2 (l2At 0) })
      let x := (xget s.d 1).toNat % 2 ^ 8
      x == f && ! (getDie s.d (dieOf x)).inReset && ! recUnread s.d x &&
        okB (readWordsAt s.d (reqCore s.d) (placeOf (xget s.d 2)).1 (placeOf (xget s.d 2)).2 128) (fun d w => ! imageBad w &&
          (w.getD 0 0).toNat / 2 ^ 3 % 2 ^ 2 == 0 && dsptIdle d x ((w.getD 0 0).toNat % 2 ^ 3) ((w.getD 3 0).toNat % 2 ^ 16) == (f == 143))),
    [([[0]], []), ([], [(0 : Word)])].all (fun (e : List (List Word) × List Word) =>
     let s := onD (worldK id) (fun d => modIo d 0 (fun io => { io with heldRecs := e.1, unread := e.2 }))
     let x := (xget s.d 1).toNat % 2 ^ 8
     decide (x < 144) && ! (getDie s.d (dieOf x)).inReset && recUnread s.d x)]
    : List Bool).all id = true := by decide +kernel

/-- WindowsClosedUntilStarted: the state at reset. -/
theorem wit_windows_closed : State.reset.mg.boot ≠ .started := by decide

/-- A world with queue 0, changed by h, its table at L2 address 0x1000 and this packet at the head of its ring. -/
def worldW (h : Swq → Swq) (p : List Word) : State :=
  onD (worldR id id) (fun d =>
    memWriteWords { modIo d 0 (fun io => { io with qtbase := l2At 0x1000 }) with swqs := [(0, h worldK.swq0)] } (locL2 0) p)

/-- DoorbellsAndSlots: ENABLE of an absent queue with a good descriptor, and of an enabled one; RING of an EMPTY queue with and
without packets, of an ACTIVE one with and without packets, and of a disabled one; DISABLE with and without a live launch; RESUME of a FAULTED queue, with its record unwritten and without, and of another; a PENDING queue with
packets and without for a free slot. -/
theorem wit_doorbells : ([
    (let s := onD (worldW id []) (fun d => memWriteWords { d with swqs := [] } (locL2 0x1000) [0x100004000, l2At 0, 0, 1, 0, 0, 0, 0])
     s.mg.boot == .started && ! (getIo s.d 0).inReset && swqOff s.d 0 &&
       okB (readWordsAt s.d (reqRook 0) (swqDesc s.d 0 0).1 (swqDesc s.d 0 0).2 8) (fun _ w => ! swqDescBad 0 w)),
    (let s := worldW id []
     someB (getSwq s.d 0) (fun y => y.st != .disabled && y.st != .faulted && y.st != .empty &&
       okB (readAt s.d (reqRook y.x) (swqDesc s.d y.x 0).1 ((swqDesc s.d y.x 0).2 + 24) 8) (fun _ _ => true)) && queueBusy s.d 0),
    someB (getSwq (worldW (fun y => { y with st := .disabled }) []).d 0) (fun y => y.st == .disabled),
    [0, 1].all (fun n =>
      let s := onD (worldW (fun y => { y with st := .empty, cidx := 1 }) []) (fun d => memWrite d (locL2 0x1018) 8 n false)
      someB (getSwq s.d 0) (fun y => y.st == .empty &&
        okB (readAt s.d (reqRook y.x) (swqDesc s.d y.x 0).1 ((swqDesc s.d y.x 0).2 + 24) 8) (fun _ v => (v % 2 ^ 48 == y.cidx) == (n == 1)))),
    [[], [[BitVec.ofNat 64 (8 * 2 ^ 19 + 4 * 2 ^ 24), 0, 0, 0, 0, 0, 0, 0]]].all (fun (h : List (List Word)) =>
     let s := onD (worldW (fun y => { y with st := .faulted }) []) (fun d => modIo { d with regions := [] } 0 (fun io => { io with heldRecs := h }))
     someB (getSwq s.d 0) (fun y => y.st == .faulted && queueHeld s.d y.x 0 == (h != [])) && ! queueBusy s.d 0),
    [0, 1].all (fun n =>
      let s := onD (worldW id []) (fun d => memWrite d (locL2 0x1018) 8 n false)
      someB (getSwq s.d 0) (fun y => y.st == .active && y.packet == none &&
        okB (readAt s.d (reqRook y.x) (swqDesc s.d y.x 0).1 ((swqDesc s.d y.x 0).2 + 24) 8) (fun _ v => (v % 2 ^ 48 == y.cidx) == (n == 0)))),
    [0, 1].all (fun n =>
      let s := worldW (fun y => { y with st := .pending, pidx := n }) []
      ! (getIo s.d 0).inReset && (getIo s.d 0).hwSlots.findIdx? Option.isNone == some 0 &&
        someB (slotWinner (s.d.swqs.filter (wantsSlot 0))) (fun e => e.1 == 0 && (e.2.cidx == e.2.pidx) == (n == 0)))]
    : List Bool).all id = true := by decide +kernel

/-- A launch header of one level with one TP, its context area so placed that its control record lies at address 0. -/
def hdr0 : List Word :=
  [0x2003F0001, 0x800000000, 0, 0x40000000000, 0, 0, 0, 0x4000000000000, 0, 0, 0, 0x400000000000000, 0x600000000000000,
   BitVec.ofNat 64 (2 ^ 52 - 2 ^ 30), 0, 0]

/-- A LAUNCH of floe 0 whose header is at 0x400. -/
def launch0 (lid : Nat) : List Word := [BitVec.ofNat 64 (lid * 2 ^ 48 + 0x1F000001), l2At 0x400, 0, 1, 0, 0, 0, 0]

/-- PacketsAreProcessed: a launch that ends with its packet in hand, another's and none; a malformed packet; a LAUNCH whose header fails, whose launch fails (its identity is live) and that
passes; a WAIT that holds and one that does not; a SIGNAL; a FENCE; a DELTA for no launch, for a dead one, for a floe not its
region's, for a launch not resident and for one resident. -/
theorem wit_packets : ([
    [none, some (launch0 3), some [3]].all (fun (p : Option (List Word)) =>
      let s := worldW (fun y => { y with packet := p }) []
      someB (getSwq s.d 0) (fun y => y.packet == p) &&
        p.all (fun w => (pktType w == 1 && (w.getD 0 0).toNat / 2 ^ 48 % 2 ^ 16 == 3) == (w == launch0 3))),
    [([0, 0, 0, 0, 0, 0, 0, 0], false), ([5, 0, 0, 0, 0, 0, 0, 0], true), ([0x20004, l2At 0x20, 1, 0, 0, 0, 0, 0], true),
     ([0x10003, l2At 0x20, 0, 0, 0, 0, 0, 0], true), ([0x10003, l2At 0x20, 1, 0, 0, 0, 0, 0], true)].all (fun (e : List Word × Bool) =>
      let s := worldW id e.1
      someB (getSwq s.d 0) (fun y => y.st == .active && y.packet == none && y.cidx != y.pidx && ! (getIo s.d y.x).inReset &&
        okB (readWordsAt s.d (reqRook y.x) { space := y.ring.1, psp := 0, pmod := 0 } (y.ring.2 + 64 * (y.cidx % 2 ^ y.re)) 8) (fun d p =>
          p == e.1 && pktOk p == e.2 &&
            (pktType p != 4 || okB (signalOp d (reqRook y.x) (pktOp p) (pktSignal p) (pktRef p)) (fun _ _ => true)) &&
            (pktType p != 3 || okB (readAt (blockQueue d 0 p) (reqRook y.x) (pktSignal p).1 (pktSignal p).2 4) (fun _ v =>
              waitHolds (pktCond p) v (pktRef p) == (pktRef p == 0)))))),
    [(0, hdr0, false), (1, hdr0, true), (1, hdr0.set 0 0#64, false)].all (fun (e : Nat × List Word × Bool) =>
      let s := onD (worldW id (launch0 e.1)) (fun d => memWriteWords d (locL2 0x400) e.2.1)
      someB (getSwq s.d 0) (fun y =>
        okB (readWordsAt s.d (reqRook y.x) { space := y.ring.1, psp := 0, pmod := 0 } (y.ring.2 + 64 * (y.cidx % 2 ^ y.re)) 8) (fun d p =>
          pktOk p && pktType p == 1 && okB (readWordsAt d (reqRook y.x) (placeOf (p.getD 1 0)).1 (placeOf (p.getD 1 0)).2 16) (fun d1 h =>
            (headerCode h ((p.getD 0 0).toNat / 2 ^ 32 % 2 ^ 8 + 1) == 0) == (e.2.1 == hdr0) &&
            (e.2.1 != hdr0 || ((launchCode d1 y p h == 0) == e.2.2)) &&
            (! e.2.2 || okB (readWordsAt d1 (reqRook y.x) vaPlace ((regCtx (newRegion d1 0 y p h []) + 2 ^ 30) % 2 ^ 52) 8) (fun _ ctl =>
              ! controlBad ctl)))))),
    [(1, RegState.resident, 1), (0, .failed, 1), (0, .resident, 2), (0, .candidate, 1), (0, .resident, 1)].all (fun (e : Nat × RegState × Nat) =>
      let p : List Word := [BitVec.ofNat 64 (e.1 * 2 ^ 48 + 2), 0, l2At 0x40, BitVec.ofNat 64 e.2.2, 0, 0, 0, 0]
      let s := onD (worldW id p) (fun d => { d with regions := d.regions.map (fun r => { r with st := e.2.1 }) })
      someB (getSwq s.d 0) (fun y =>
        okB (readWordsAt s.d (reqRook y.x) { space := y.ring.1, psp := 0, pmod := 0 } (y.ring.2 + 64 * (y.cidx % 2 ^ y.re)) 8) (fun d p =>
          pktOk p && pktType p == 2 && (match getRegion (blockQueue d 0 p) ((p.getD 0 0).toNat / 2 ^ 48 % 2 ^ 16) with
            | none => e.1 == 1
            | some r => e.1 == 0 && regionLive r == (e.2.1 != .failed) && r.st == e.2.1 &&
                (maskFloes p).all (fun f => r.floes.contains f) == (e.2.2 == 1)))))]
    : List Bool).all id = true := by decide +kernel

/-- A delta of one entry that names image 0 and gives image 1: field 0 becomes 1. -/
def delta1 : List Word := [0x10001, 0, 1, 0, 0, 0, 0, 0, 0, 1, 0, 0]

/-- BlockedQueuesGoOn: a held WAIT that holds and one that does not, at its limit and before it; a blocked queue at its quantum
and before it; a DELTA whose floe is drained, the last of two and of one, one not drained,
and a floe whose record is unwritten or unread. -/
theorem wit_blocked_queues : ([
    [0, 1].all (fun n =>
      let p : List Word := [0x10003, l2At 0, BitVec.ofNat 64 n, 0, 0, 0, 0, 0]
      let s := onD (worldW (fun y => { y with packet := some p }) []) (fun d => modIo d 0 (fun io => { io with feCount := 4096 * n }))
      someB (heldWait s.d 0) (fun e => e.2 == p && e.1.wlim != 0 && ! e.1.timedOut &&
        decide (e.1.fetchedAt + e.1.wlim * 4096 ≤ (getIo s.d e.1.x).feCount) == (n == 1) &&
        okB (readAt s.d (reqRook e.1.x) (pktSignal p).1 (pktSignal p).2 4) (fun _ v => waitHolds (pktCond p) v (pktRef p) == (n == 0)))),
    [4095, 4096].all (fun n =>
      let s := onD (worldW (fun y => { y with packet := some [3], blockedAt := some 0 }) []) (fun d =>
        modIo d 0 (fun io => { io with feCount := n }))
      someB (getSwq s.d 0) (fun y => y.blockedAt == some 0 && y.st == .active && y.packet != none &&
        decide (0 + y.qnt * 4096 ≤ (getIo s.d y.x).feCount) == (n == 4096))),
    [[0], [0, 1]].all (fun todo => [none, some (3 : BitVec 4)].all (fun feed =>
      let p : List Word := [2, 0, l2At 0x40, 1, 0, 0, 0, 0]
      let s := onD (worldW (fun y => { y with packet := some p, todo := todo }) []) (fun d =>
        memWriteWords (modFloe d 0 (fun fl => { fl with feed := feed })) (locL2 0x40) delta1)
      someB (getSwq s.d 0) (fun y => y.packet == some p && pktType p == 2 && y.todo.contains 0 && ! (getIo s.d y.x).inReset &&
        someB (getRegion s.d ((p.getD 0 0).toNat / 2 ^ 48 % 2 ^ 16)) (fun r => regionLive r && r.st == .resident &&
          maskDrained (getFloe s.d 0) == (feed == none) && ! (List.range 32).any (fun x => solverHolds s.d 0 x) && ! recUnread s.d 0 &&
          okB (readWordsAt s.d (reqRook y.x) (placeOf (p.getD 2 0)).1 (placeOf (p.getD 2 0)).2 8) (fun d w =>
            someB (deltaHead w) (fun h => (getFloe d 0).cfg.curId == h.2.1 &&
              okB (deltaImage d (reqRook y.x) (placeOf (p.getD 2 0)) (getFloe d 0).cfg.cur 0 h.1) (fun _ _ =>
                (y.todo.filter (fun x => x != 0) == []) == (todo == [0]) && p.getD 6 0 == 0))))))),
    recUnread (onD (worldW id []) (fun d => modIo d 0 (fun io => { io with heldRecs := [[0]] }))).d 0,
    recUnread (onD (worldW id []) (fun d => modIo d 0 (fun io => { io with unread := [0] }))).d 0] : List Bool).all id = true := by
  decide +kernel

/-- RegionsAreScheduled: no I/O die running, and one; a claimed region, loaded or not, whose floe is free and not;
a candidate for a free floe, for one it may take from another and for one it may not; a quantum at its end and before it. -/
theorem wit_regions_scheduled : ([
    (getIo State.reset.d 0).inReset && (getIo State.reset.d 1).inReset && ! (getIo (world id).d 0).inReset,
    [false, true].all (fun held => [false, true].all (fun loaded =>
      let s := if held then worldR id id else world id
      let c := { reg0 hdr0 with lid := 1, st := .candidate, loaded := loaded, claim := true, floes := [0] }
      c.floes.all (fun f => ! (getDie s.d (dieOf f)).inReset && ! recUnread s.d f && (getFloe s.d f).lid == none) == ! held && c.claim && c.loaded == loaded)),
    [(false, 5), (true, 5), (true, 0)].all (fun (e : Bool × Nat) =>
      let s := if e.1 then worldR id id else world id
      let c := { reg0 hdr0 with lid := 1, st := .candidate, pri := e.2, floes := [0] }
      ! c.claim && c.floes.all (fun f => mayTakeFloe s.d c f && ! ([] : List Nat).contains f) == (e.2 == 5) && [0].contains 0 &&
        (holders s.d c == []) == ! e.1),
    [4095, 4096].all (fun n =>
      let s := onD (worldR id id) (fun d => modIo d 0 (fun io => { io with feCount := n }))
      someB (getRegion s.d 0) (fun r => r.st == .resident && ! r.expired && ! allRetired r &&
        decide (r.quantumAt + r.qnt * 4096 ≤ (getIo s.d r.x).feCount) == (n == 4096)))] : List Bool).all id = true := by decide +kernel

/-- RegionsSaveAndRestore: a floe of a region that is not saving; of one that is, with an access to L2 pending, with an LDS to FLOE and with none; halted
and not yet saved, and saved; a region to restore, and one with a
poisoned context record; a resident region past its limit and before it, with work; a draining floe
past it. -/
theorem wit_regions_save : ([
    (let s := worldR id id
     (getFloe s.d 0).lid == some 0 && someB (getRegion s.d 0) (fun r => r.st != .saving && r.st != .restoring)),
    [[], [acc0 .lds (locFloe 0 0) true], [acc0 .lds (locL2 0) false]].all (fun ps =>
      let s := worldR (fun r => { r with st := .saving }) (fun t => { t with pends := ps })
      let d := modFloe s.d 0 (fun fl => { fl with halting := true, frozen := true, slots := fl.slots.map (fun sl => { sl with mask := true }) })
      (getFloe s.d 0).lid == some 0 && someB (getRegion s.d 0) (fun r => r.st == .saving) && ! (getFloe s.d 0).halted &&
        floeQuiet (getFloe d 0) == ps.all (fun p => p.floeLocal)),
    [[], [Floe.reset]].all (fun fs =>
      let s := onD (worldR (fun r => { r with st := .saving, savedFloes := fs }) id) (fun d => modFloe d 0 (fun fl => { fl with halted := true }))
      someB (getRegion s.d 0) (fun r => r.st == .saving && r.savedFloes.any (fun x => x.entry == (getFloe s.d 0).entry) == (fs != [])) &&
        (getFloe s.d 0).halted && ! recHeldFor s.d 0),
    [false, true].all (fun bad =>
      let fl := { Floe.reset with lid := some 0, slots := Floe.reset.slots.map (fun sl => { sl with st := .live }) }
      let s := onD (worldR (fun r => { r with st := .restoring, savedFloes := [fl], trans := 0xFF }) id) (fun d =>
        poisonWrite (modFloe d 0 (fun fl => { fl with utlb := [{ page with size := 2 ^ 32 }] })) (locHost 0x10) 4 bad)
      someB (getRegion s.d 0) (fun r => r.st == .restoring && r.floes.all (fun f => floeReady s.d f) &&
        okB (restoreReads s.d r (List.range r.floes.length)) (fun _ _ => true) == ! bad)),
    [99, 100].all (fun n =>
      let s := onD (worldR (fun r => { r with slim := 100 }) id) (fun d => modFloe d 0 (fun fl => { fl with
        quiet := n, cfg := { fl.cfg with state := .draining } }))
      someB (getRegion s.d 0) (fun r => r.st == .resident && regionWork s.d r && r.floes.all (fun f => decide (r.slim ≤ (getFloe s.d f).quiet)) == (n == 100)) &&
        (getFloe s.d 0).lid == some 0 && (getFloe s.d 0).cfg.state == .draining)] : List Bool).all id = true := by decide +kernel

/-- HostRegistersAct: a held record with room for it, of a TP and of an embedding engine, and one without; a paired count that is due; MBXCONS in range and outside; a
mailbox and a queue table address, with the mailbox empty and no queue enabled, and not; a launch live and none; a host read on the agenda. -/
theorem wit_host_registers : ([
    (let x : Word := BitVec.ofNat 64 (4 * 2 ^ 19 + 3 * 2 ^ 24)
     x.toNat / 2 ^ 19 % 2 ^ 5 == 4 && decide (x.toNat / 2 ^ 24 % 2 ^ 8 < 4) && (1 : Word).toNat / 2 ^ 19 % 2 ^ 5 != 4),
    (let s := onD (world id) (fun d => modIo d 0 (fun io => { io with
        heldRecs := [[1, 2, 3, 4, 5, 6, 7, 8]], mbxbase := l2At 0, feCount := 4096 }))
     ! (getIo s.d 0).inReset && (getIo s.d 0).heldRecs == [[1, 2, 3, 4, 5, 6, 7, 8]] && (mbxRoom s.d 0).isSome &&
       decide ((getIo s.d 0).paired + 4096 ≤ (getIo s.d 0).feCount) && s.mg.boot == .started),
    (let s := onD (world id) (fun d => modIo d 0 (fun io => { io with heldRecs := [[1]], mbxbase := l2At 0, mbxprod := 256 }))
     mbxRoom s.d 0 == none && decide ((getIo s.d 0).mbxcons.toNat ≤ 256) && decide (256 ≤ (getIo s.d 0).mbxprod.toNat) &&
       decide ((getIo s.d 0).mbxprod.toNat < 257) && (getIo s.d 0).mbxprod != (getIo s.d 0).mbxcons),
    (let s := onD (world id) (fun d => modIo d 0 (fun io => { io with mbxcons := 1, mbxprod := 1 }))
     decide ((0 : BitVec 64).toNat < (getIo s.d 0).mbxcons.toNat) && (mbxLoc s.d (l2At 0x4000)).isSome && mbxLoc s.d (l2At 0x40) == none &&
       (getIo s.d 0).mbxprod == (getIo s.d 0).mbxcons && addrForm (l2At 0x40) 64 && ! addrForm (l2At 0x20) 64 && s.d.swqs == []),
    (worldW id []).d.swqs.any (fun e => e.2.x == 0 && e.2.st != .disabled),
    (worldR id id).d.regions.any regionLive && (world id).d.regions.all (fun r => ! regionLive r),
    (let s := { world id with agenda := [.bar0Read 0] }
     s.agenda == [.bar0Read 0] && State.reset.mg.boot != .started)] : List Bool).all id = true := by
  decide +kernel

/-- HostRegistersAct, commands: RETRY with a reserved bit, of a stopped command, and of one whose record
is not written; ATCMD without GO, with a target or an entry
that is refused, and with good ones; the last staging register and the last route. -/
theorem wit_host_commands : ([
    (2 ^ 18 : Nat) / 2 ^ 18 != 0,
    (let s := worldC (cmd0 .sconC .stopped)
     someB (getCmd s.d 0 31) (fun c => c.st == .stopped) && ! unitHeld s.d 1 0 31 && decide ((1 + 0 * 2 ^ 5 + 31 * 2 ^ 13 : Nat) < 2 ^ 64) && s.mg.boot == .started),
    unitHeld (onD (worldC (cmd0 .sconC .stopped)) (fun d => modIo d 0 (fun io => { io with
      heldRecs := [[BitVec.ofNat 64 (2 ^ 19 + 31 * 2 ^ 49)]] }))).d 1 0 31,
    ! (60 : BitVec 64).getLsbD 31 && (0x8000003D : BitVec 64).getLsbD 31 && decide (60 < (0x8000003D : BitVec 64).toNat % 2 ^ 6),
    (let s := onD (world id) (fun d => { d with staged := [0x20, 0, 0, 0, 0, 0, 0, 0] })
     (0x8000003C : BitVec 64).getLsbD 31 && stagedBad s.d.staged),
    (let s := world id
     (0x8000003C : BitVec 64).getLsbD 31 && decide ((0x8000003C : BitVec 64).toNat % 2 ^ 6 ≤ 60) && ! stagedBad s.d.staged &&
       ! anyLive s.d && decide (7 < 8) && decide (1023 < 1024))] : List Bool).all id = true := by decide +kernel

/-- InboundRequestsAct: a station that is down, and one up; a read, a write and an atomic that are admitted, and one that is not
(die 3); a token for a launch and for none; a message that is admitted, one that is not and one that comes back; a read of the host; a station
that goes down with a word sent through it, another station left and none; a command with a request at another module, one with none and
one stopped; a request to another module that fails, of an access, of a stream (its second tile, a gather's) and of a LAY (either end), and one of a LAY
that has none there. -/
theorem wit_inbound : ([
    ! stationUp State.reset.d 11 && stationUp (world id).d 11 && ! (getDie (world id).d 3).inReset,
    (let s := world id
     [Need.read, .write, .readWrite].all (fun n => okB (inReach s.d (reqStation 0) .l2 false 0 4 n) (fun d loc => ! poisoned d loc 4)) &&
       [Need.read, .write].all (fun n => ! okB (inReach s.d (reqStation 0) .l2 false (3 * 2 ^ 27) 4 n) (fun _ _ => true)) &&
       0 / 4096 == (0 + 4 - 1) / 4096 && aclOk s.d 34 0xE0 3 0 1 && ! aclOk s.d 34 0xEB 3 0 1),
    launchOf (worldR id id).d 1 == none && launchOf (worldR id id).d 0 != none,
    (let s := onD (world id) (fun d => { d with acl := spSet 0 (spSet 0 d.acl ((12 * 256 + reqHost.mid) * 8) 0x11) ((12 * 256 + reqHost.mid) * 8 + 1) 0 })
     let s := onD s (fun d => { d with hdm := (0, 2 ^ 20) })
     s.mg.boot == .started && hostMay s.d (.read .lpd false 0 4) && ! hostMay s.d (.read .lpd false (2 ^ 20 - 2) 4) &&
       okB (inReach s.d reqHost .lpd false 0 4 .read) (fun _ _ => true)),
    msgReturns (engHere (world id).d 0) (.rowCopy (engHere (world id).d 0) tab0 0 [] false []) && ! msgReturns 0 (.rowCopy 7 tab0 0 [] false []),
    [0x801, 0x800].all (fun mask =>
      let s := onD (world id) (fun d => { d with routes := [(5, mask)], sent := [(5, 11, msg0 1)] })
      let d := { modIo s.d 1 (fun io => { io with links := io.links.set 5 false }) with routes := [(5, mask - 0x800)] }
      spWf 0 s.d.routes && (routeMask s.d 5).testBit 11 && (wordStation d 5 1).isSome == (mask == 0x801) && (getIo s.d 1).links.length == 6 &&
        (List.range 4).all (fun c => (getEmb s.d c).cmds == [] && (getEmb s.d c).migrating == [])),
    [(0, none), (5, none), (5, some 0)].all (fun (e : Nat × Option Nat) =>
      let x := { emb0 2 (blk0 0 0) with tab := tab0.set 3 0x10005#64, coalesced := true, waiting := [(0, 0)], stopped := e.2 }
      (itemsAt (world id).d 0 5 { x with tab := x.tab.set 3 (BitVec.ofNat 64 (0x10000 + e.1)) } == []) == (e.1 == 0) && x.stopped == e.2 && x.failAt == none && x.op == 2),
    (let p := { acc0 .lds (locL2 0) false with peer := some (5, 1) }
     let s := world (fun t => { t with pends := [p] })
     (getTp s.d 0 0).pends.find? (fun q => q.id == 1) == some p && p.peer.isSome && isMem p),
    (let v : View := { lte := (lte0 6).set 0 0x1000500000106#64, shape := 0x2000000, bind := { entry := 0, shape := 0, rdim := 1, cdim := 0, origin := [0, 0, 0, 0, 0, 0, 0] } }
     [(CmdKind.srd, false), (.sgth, false), (.smov, true)].all (fun (e : CmdKind × Bool) =>
       let s := worldC { cmd0 e.1 .active with tile := some v, tile2 := some v }
       someB (getCmd s.d 0 31) (fun c => (cmdPeer s.d c e.2).isSome && c.st == .active && c.killed == none && isGather c.kind == (e.1 == .sgth)))),
    [(false, (lte0 6).set 0 0x1000500000106#64), (true, (lte0 6).set 0 0x1000500000106#64), (false, lte0 1)].all (fun (e : Bool × List Word) =>
      let c := { lay0 0 with src := if e.1 then lte0 1 else e.2, dst := if e.1 then e.2 else lte0 1 }
      let s := worldY c
      firnCmd s.d 0 7 == some c && ! c.stopped && decide (c.pos < layTotal c) &&
        farPeer s.d (if e.1 then c.dst else c.src) == (lteSpace e.2 == 6))] : List Bool).all id = true := by
  decide +kernel

/-- StartUpSteps and ResetsAndBoot: a start whose host die is ready, one that is not and one that has failed; a start under way, with fewer
than three counted and with three; a reason that holds at a phase and one that does not; a die to release at each phase, and a phase that
releases none; minimal mode; the last die of each kind; an I/O die whose cores are in the ROM, and one that is in reset, held, done, or of a
failed start. (Whether an image verifies is a free value: both are possible of each.) -/
theorem wit_start_up : ([
    (let m := { Mgmt.reset with boot := .load, fes := [1, 0] }
     m.boot == .load && ! m.failed && m.fes.getD m.xd 0 == 1 && starting m && Mgmt.reset.boot != .load),
    starting Mgmt.reset && decide (Mgmt.reset.fails < 3) && ! mayFail Mgmt.reset 0,
    (let m := { Mgmt.reset with fails := 3, boot := .train }
     decide (3 ≤ m.fails) && starting m && mayFail m 5 && ! mayFail m 4),
    mayFail { Mgmt.reset with boot := .load, fes := [0x83, 0] } 3 && ! mayFail { Mgmt.reset with boot := .load, fes := [0x83, 0] } 2,
    ! starting { Mgmt.reset with failed := true } && { Mgmt.reset with boot := .minimal }.boot == .minimal &&
      ({ Mgmt.reset with boot := .verify } : Mgmt).boot == .verify && ! ({ Mgmt.reset with boot := .verify } : Mgmt).failed,
    State.agenda { State.reset with agenda := [.verify] } == [.verify],
    (world id).mg.boot == .started && decide (5 < 6 ∧ 5 ≠ 4 ∧ 4 < 6) && (world id).d.swqs == [] && (getIo State.reset.d 1).inReset,
    [(false, false, (0 : BitVec 8)), (true, false, 0), (false, true, 0), (false, false, 1)].all (fun (e : Bool × Bool × BitVec 8) =>
      let s := { onD (world id) (fun d => modIo d 1 (fun io => { io with inReset := e.1, held := e.2.1 })) with
        mg := { Mgmt.reset with boot := .train, fes := [0, e.2.2] } }
      (! (getIo s.d 1).inReset && ! (getIo s.d 1).held && decide (s.mg.fes.getD 1 0 = 0)) == (! e.1 && ! e.2.1 && decide (e.2.2 = 0)) && ! s.mg.failed)]
    : List Bool).all id = true := by decide +kernel

/-- ManagementPlaneIsKept: an instruction that none of those listed is. -/
theorem wit_management_kept : ∀ die n off v reason, Instr.flr ∉ [Instr.clockStepDown, .clockStepUp, .telemetryRead die n, .dieReset die,
    .dieLeavesReset die, .perst, .rookBoot die, .startComplete, .startFail reason, .startTimeout, .rcmdAppend, .rcmdVerify,
    .rcmdStart, .spdmMeasurementRequest] ∧
    (Instr.flr = .registerWrite off v → (world id).mg.boot ≠ .minimal ∨ off < 0x2000000 ∨ 0x2010000 ≤ off) := by simp

/-- ManagementPlaneIsKept: a register write off the staging buffer in minimal mode. -/
theorem wit_register_write_kept (die n : Nat) (reason : Nat) : ∀ off v, Instr.registerWrite 0x2010000 0 ∉ [Instr.clockStepDown,
    .clockStepUp, .telemetryRead die n, .dieReset die, .dieLeavesReset die, .perst, .rookBoot die, .startComplete, .startFail reason,
    .startTimeout, .rcmdAppend, .rcmdVerify, .rcmdStart, .spdmMeasurementRequest] ∧
    (Instr.registerWrite 0x2010000 0 = .registerWrite off v →
      ({ Mgmt.reset with boot := .minimal } : Mgmt).boot ≠ .minimal ∨ off < 0x2000000 ∨ 0x2010000 ≤ off) := by
  intro off v
  refine ⟨by simp, fun h => .inr (.inr ?_)⟩
  injection h with h
  omega

/-- ManagementInvariant, SecurityVersionNeverFalls: at reset, and a step that answers a next state. -/
theorem wit_management_invariant : (300 ≤ State.reset.mg.clock ∧ State.reset.mg.clock ≤ 600 ∧ State.reset.mg.clock % 25 = 0 ∧
    State.reset.mg.fails ≤ 3 ∧ State.reset.mg.xd ≤ 1 ∧ State.reset.mg.fes.length = 2 ∧ State.reset.mg.staging.wf = true) ∧
    (match Machine.step State.reset with | .next _ => true | _ => false) = true := by decide +kernel

/-- MemoryReadsBack: an empty memory, and one with a byte. -/
theorem wit_memory : Data.reset.mem.wf = true ∧ (writeNum [] 5 1 7).wf = true := by decide


/-- A slot of an operator in format 0 with a MOD. -/
def slot0 (opc mod : Nat) (lc rc : Bool) : SlotPlan := { n := 0, opc := opc, mod := mod, ct := 0, tgts := [], lc := lc, lci := 0, rc := rc, rci := 0 }

/-- Its context: channel type 0 of a format. -/
def ctx0 (f : Nat) (s : SlotPlan) : OpCtx := { t := [(0x10, f * 2 ^ 28)], k := 0, ctab := [], s := s, gen := false, now := 0 }

/-- A data word, the last of a record or not. -/
def dword (g : BitVec 3) (m : BitVec 4) : FWord := { data := 0x3F800000, ridx := 5, fin := g, gen := true, psn := false, mask := m }

/-- ElementOperatorResults: the first and the last format, words and constants on either side; one word to convert; a control word; an
error token, bare end tokens beside a word and alone, a predicate. -/
theorem wit_element_operators : ([
    [0, 11].all (fun f => [(false, false), (true, false), (false, true)].all (fun (e : Bool × Bool) =>
      let c := ctx0 f (slot0 0x10 0 e.1 e.2)
      c.fmt == f && c.s.opc == 0x10 && ! isErr (constWord 0) && ! isBare (constWord 0) && ! isErr (dword 0 0) && ! isBare (dword 1 3))),
    (let c := ctx0 0 (slot0 0x15 1 false false)
     c.fmt == 0 && ! c.s.lc && ! c.s.rc && c.s.mod % 16 == 1 && decide (fieldElems 1 / ownExecs c.t c.s * fieldBits 0 ≤ 128) &&
       decide (0 < ownExecs c.t c.s)),
    decide ((3 : Nat) < fieldElems 0) && elemMasked 0 3 0 && ! elemMasked 0 3 3,
    (let drop : Nat → Bool := fun q => (dword 0 0).mask.getLsbD q || (qword 0).word.data.getLsbD (32 * q) == false
     (List.range 4).all drop && ! (dword 0 0).psn && { dword 0 0 with psn := true }.psn),
    (dword 0 0 :: [(qword 2).word] ++ []).filter isErr == (qword 2).word :: [] && isBare (qword 1).word && ! isErr (qword 1).word &&
      ! isBare (qword 0).word && ((opExec (ctx0 0 (slot0 0x10 0 false false)) OpSt.reset (some (dword 0 0)) (some (dword 0 0)) none).outs[0]?).any
        (fun e => e.1 == 3 && ! e.2.mask.getLsbD 0)] : List Bool).all id = true := by decide +kernel

/-- WordOperatorResults: a data word, a predicate, a control of each value; a first and a held LCAR; a CNTR word that closes and one that
does not; an ERRS condition that holds and one that does not; a REDS word inside a run and at its end, a SCNS word. -/
theorem wit_word_operators : ([
    ! isErr (dword 0 0) && ! isBare (dword 0 0) && (dword 0 0).data.getLsbD 0 == false && ! isErr (constWord 1) && (constWord 1).data.getLsbD 0,
    [true, false].all (fun b => { OpSt.reset with first := b, held := some (dword 0 0) }.first == b),
    decide (OpSt.reset.cnt < 2 ^ 32 - 1) && decide (1 % 8 ≤ (dword 1 0).fin.toNat) && decide ((dword 0 0).fin.toNat < 1 % 8) &&
      decide (1 / 8 ≠ 1) && 8 / 8 == 1,
    [0, 1].all (fun g => let c := ctx0 0 (slot0 0x20 0 false false)
      c.fmt == 0 && OpSt.reset.err == none && decide ((dword g 0).fin.toNat < c.s.mod % 4 + 1) == (g == 0)),
    (ctx0 0 (slot0 0x21 2 false false)).s.mod.testBit 1 && (dword 0 0).fin == 0 && ! elemMasked 0 (dword 0 0).mask 0,
    [0, 1].all (fun (x : Nat) => fpDecode (rne 0).fmt x != .nan)] : List Bool).all id = true := by decide +kernel

/-- CombinesOfScatteredElements: an element of a word of memory; the formats, at a bound of their elements. -/
theorem wit_combines : Data.reset.mem.wf = true ∧ (⟨locL2 0, 0, 32, 0⟩ : Piece).sh = 0 ∧ Outside [⟨locL2 0, 0, 32, 0⟩] (locL2 4) ∧
    (2 ^ 32 - 1 < 2 ^ fmtBits 10 ∧ 0 < 2 ^ fmtBits 8) := by
  refine ⟨by decide +kernel, rfl, ?_, by decide⟩
  intro p hp
  simp only [List.mem_singleton] at hp
  subst hp
  exact .inr (by decide)
/-! ## Steps, on values worked out by hand from the manual -/

/-- The register s[r] of slot 0 of floe 0 after a step. -/
def after (o : Host.Outcome State Fault Refusal) (r : BitVec 5) : Option Word :=
  match o with
  | .next t => some (sget (getTp t.d 0 0) r)
  | _ => none

/-- R331: the sum wraps modulo 2^64. -/
theorem test_add_wraps :
    after (exec (.add g0 3 1 2) (world (rg [(1, 0xFFFFFFFFFFFFFFFF), (2, 2)]))) 3 = some 1 := by decide +kernel

/-- R331: a difference below 0 wraps. -/
theorem test_sub_wraps : after (exec (.sub g0 3 0 1) (world (rg [(1, 1)]))) 3 = some 0xFFFFFFFFFFFFFFFF := by decide +kernel

/-- R332: ADDI extends its sign, ORI does not. -/
theorem test_immediates :
    after (exec (.addi g0 1 1 0xFFF) (world (rg [(1, 5)]))) 1 = some 4 ∧
    after (exec (.ori g0 1 1 0xFFF) (world (rg [(1, 0)]))) 1 = some 0xFFF := by decide +kernel

/-- R427: SHR.s keeps the sign, and takes the low six bits of the count. -/
theorem test_shr_signed :
    after (exec (.shrS g0 3 1 2) (world (rg [(1, 0x8000000000000000), (2, 65)]))) 3 = some 0xC000000000000000 := by decide +kernel

/-- R336: CLZ of 1 is 63, of 0 it is 64. -/
theorem test_clz :
    after (exec (.bitcClz g0 3 1) (world (rg [(1, 1)]))) 3 = some 63 ∧
    after (exec (.bitcClz g0 3 0) (world id)) 3 = some 64 := by decide +kernel

/-- R388: LIM places its signed immediate at bit 12. -/
theorem test_lim : after (exec (.lim g0 3 0x1FFFF) (world id)) 3 = some 0xFFFFFFFFFFFFF000 := by decide +kernel

/-- R313: p1 = (1 < s1) of signed numbers is false for -1, and of unsigned ones true. -/
theorem test_cmp :
    (match exec (.cmp g0 1 2 1 2) (world (rg [(1, 0xFFFFFFFFFFFFFFFF), (2, 1)])) with
      | .next t => pget (getTp t.d 0 0) 1
      | _ => true) = false ∧
    (match exec (.cmp g0 1 2 1 4) (world (rg [(1, 0xFFFFFFFFFFFFFFFF), (2, 1)])) with
      | .next t => pget (getTp t.d 0 0) 1
      | _ => false) = true := by decide +kernel

/-- R402, R348: a product reaches its register when it is due, 4 sequencer cycles after it issued. -/
theorem test_mul :
    (match exec (.mul g0 3 1 2) (world (rg [(1, 6), (2, 7)])) with
      | .next t => (after (.next t) 3 == some 0) &&
          (after (exec (.mulResult 0 0) (onD t (fun d => modFloe d 0 (fun fl => { fl with seqc := 4 })))) 3 == some 42)
      | _ => false) = true := by decide +kernel

/-- R27: a write to s0 is discarded. -/
theorem test_s0 : after (exec (.addi g0 0 0 5) (world id)) 0 = some 0 := by decide +kernel

/-- R338: BR -1 at pc 0 goes to the last word of the space. -/
theorem test_br : (match exec (.br g0 0x3FFFFF) (world id) with
    | .next t => some (getTp t.d 0 0).pc
    | _ => none) = some 0xFFFFFFFFFFFFC := by decide +kernel

/-- The host's check of the fetch: step runs the word placed at the pc, ADDI s1, s0, 7. -/
theorem test_fetch : (match encode (.addi g0 1 0 7) with
    | some w => after (Machine.step (State.reset.withFetchWord 32 w)) 1
    | none => none) = some 7 := by decide +kernel

/-- R335: BFXT takes a field of four bits from bit 4. -/
theorem test_bfxt : (match exec (.bfxt 3 1 2) (worldK (fun k => { k with regs := (k.regs.set 1 0xABC).set 2 0x404 })) with
    | .next t => xget t.d 3
    | _ => 0) = 0xB := by decide +kernel

/-! ## Ingest stages: expected values from the published mapping tables, CaseFolding of Unicode 15.1 and RFC 8878 -/

/-- Bytes of numbers. -/
def bytesOf (l : List Nat) : List Byte := l.map (BitVec.ofNat 8)

/-- Bytes converted to UTF-8 in lenient mode, as numbers. -/
def utf8Of (cs : Nat) (l : List Nat) : List Nat := (stageChars cs false (bytesOf l) true).1.map (fun b => b.toNat)

/-- Hiragana A in Shift_JIS and EUC-JP, the syllable GA in EUC-KR, U+4E2D in Big5 and GB 18030, U+10000 in four bytes. -/
theorem test_charsets_multibyte :
    utf8Of 0x50 [0x82, 0xA0] = [0xE3, 0x81, 0x82] ∧ utf8Of 0x51 [0xA4, 0xA2] = [0xE3, 0x81, 0x82] ∧
    utf8Of 0x52 [0xB0, 0xA1] = [0xEA, 0xB0, 0x80] ∧ utf8Of 0x54 [0xA4, 0xA4] = [0xE4, 0xB8, 0xAD] ∧
    utf8Of 0x53 [0xD6, 0xD0] = [0xE4, 0xB8, 0xAD] ∧ utf8Of 0x53 [0x90, 0x30, 0x81, 0x30] = [0xF0, 0x90, 0x80, 0x80] := by decide

/-- The euro sign of Windows-1252 and ISO-8859-15, a Cyrillic A of KOI8-R, an unassigned byte of Windows-1252. -/
theorem test_charsets_single :
    utf8Of 0x32 [0x80] = [0xE2, 0x82, 0xAC] ∧ utf8Of 0x1F [0xA4] = [0xE2, 0x82, 0xAC] ∧ utf8Of 0x40 [0xC1] = [0xD0, 0xB0] ∧
    utf8Of 0x32 [0x81] = [0xEF, 0xBF, 0xBD] := by decide

/-- Folding of K, capital sigma, capital sharp s and two that Unicode 15.1 added; dotted capital I stays. -/
theorem test_fold :
    foldSimple 0x4B = 0x6B ∧ foldSimple 0x3A3 = 0x3C3 ∧ foldSimple 0x1E9E = 0xDF ∧ foldSimple 0x1FD3 = 0x390 ∧
    foldSimple 0xFB05 = 0xFB06 ∧ foldSimple 0x130 = 0x130 := by decide

/-- A Zstandard frame with a raw block, its content size and its checksum. -/
theorem test_zstd_raw :
    (let r := zstdDecode (bytesOf [0x28, 0xB5, 0x2F, 0xFD, 0x24, 0x06, 0x31, 0, 0, 0x68, 0x65, 0x6C, 0x6C, 0x6F, 0x0A, 0x53, 0x88,
      0xBD, 0x91]) 20 0; (r.1.map (fun b => b.toNat), r.2)) = ([0x68, 0x65, 0x6C, 0x6C, 0x6F, 0x0A], .done 19) := by decide

/-- A frame with a compressed block of one sequence: abc repeated, then '!'. -/
theorem test_zstd_compressed :
    (let r := zstdDecode (bytesOf [0x28, 0xB5, 0x2F, 0xFD, 0x24, 0x31, 0x55, 0, 0, 0x20, 0x61, 0x62, 0x63, 0x21, 1, 0, 0x6A, 0xBA,
      0x21, 0x23, 0xE2, 0x4B, 0x78]) 24 0; (r.1.map (fun b => b.toNat), r.2)) =
      ((List.replicate 16 [0x61, 0x62, 0x63]).flatten ++ [0x21], .done 23) := by decide +kernel

end Sys2Proof.Tests
end

section
/-!
PROOF SUPPORT. A store and a read of memory with areas in the device's format (R6, R175, R46): which byte is a free value, which
is the memory's own, and what a store makes of both.
-/

namespace Sys2Proof.Machine

/-! ## Areas in the device's format -/

/-- The number of the area in the device's format that byte a lies in. -/
def devArea (l : List (Nat × Nat × Nat)) (a : Nat) : Option Nat :=
  (l.find? (fun r => decide (r.1 ≤ a) && decide (a < r.1 + r.2.1))).map (fun r => r.2.2)

/-- A byte is a free value of its area, or the memory's own byte where it lies in none. -/
theorem memByte_eq_devArea (d : Data) (a : Nat) :
    memByte d a = ((devArea d.devFmt a).map (fun t => Config.deviceByte (t * 2 ^ 80 + a))).getD (readByte d.mem a) := by
  unfold memByte devArea
  split <;> rename_i h <;> rw [h] <;> rfl

/-- A byte in no area is the memory's own. -/
theorem memByte_of_devArea_none (d : Data) (a : Nat) (h : devArea d.devFmt a = none) :
    memByte d a = readByte d.mem a := by rw [memByte_eq_devArea, h]; rfl

/-- A byte depends on its area and on the memory's byte only. -/
theorem memByte_congr (d d' : Data) (a : Nat) (hArea : devArea d.devFmt a = devArea d'.devFmt a)
    (hByte : readByte d.mem a = readByte d'.mem a) : memByte d a = memByte d' a := by
  rw [memByte_eq_devArea, memByte_eq_devArea, hArea, hByte]

/-- Areas are searched in their order. -/
theorem devArea_append (l l' : List (Nat × Nat × Nat)) (a : Nat) :
    devArea (l ++ l') a = (devArea l a).or (devArea l' a) := by
  simp only [devArea, List.find?_append]
  cases List.find? _ l <;> rfl

/-- The parts of one area that a cut leaves. -/
theorem devCut_cons (lo n : Nat) (r : Nat × Nat × Nat) (l : List (Nat × Nat × Nat)) :
    devCut lo n (r :: l) = devCut lo n [r] ++ devCut lo n l := by
  simp [devCut]

/-- No area is left in the bytes cut. -/
theorem devCut_disjoint (lo n : Nat) (l : List (Nat × Nat × Nat)) (q : Nat × Nat × Nat) (hq : q ∈ devCut lo n l) :
    q.1 + q.2.1 ≤ lo ∨ lo + n ≤ q.1 := by
  obtain ⟨r, -, hr⟩ := List.mem_flatMap.mp hq
  split at hr
  · rwa [List.mem_singleton.mp hr]
  · rcases List.mem_append.mp hr with hr | hr
    · split at hr
      · rw [List.mem_singleton.mp hr]; dsimp only; omega
      · exact absurd hr List.not_mem_nil
    · split at hr
      · rw [List.mem_singleton.mp hr]; exact .inr le_rfl
      · exact absurd hr List.not_mem_nil

/-- A cut byte lies in no area. -/
theorem devArea_devCut_inside (lo n a : Nat) (l : List (Nat × Nat × Nat)) (hlo : lo ≤ a) (hhi : a < lo + n) :
    devArea (devCut lo n l) a = none := by
  rw [devArea, Option.map_eq_none_iff, List.find?_eq_none]
  intro q hq hcover
  have hdisj := devCut_disjoint lo n l q hq
  simp only [Bool.and_eq_true, decide_eq_true_eq] at hcover
  omega

/-- One area, in which a byte lies or does not. -/
theorem devArea_singleton (r : Nat × Nat × Nat) (a : Nat) :
    devArea [r] a = if r.1 ≤ a ∧ a < r.1 + r.2.1 then some r.2.2 else none := by
  simp only [devArea, List.find?_singleton, ← Bool.decide_and, decide_eq_true_eq]
  split <;> rfl

/-- A part that may be left out. -/
theorem devArea_ite (c : Prop) [Decidable c] (r : Nat × Nat × Nat) (a : Nat) :
    devArea (if c then [r] else []) a = if c ∧ r.1 ≤ a ∧ a < r.1 + r.2.1 then some r.2.2 else none := by
  by_cases hc : c
  · rw [if_pos hc, devArea_singleton]
    simp only [hc, true_and]
  · rw [if_neg hc, if_neg fun h => hc h.1]
    rfl

/-- Any other byte lies in the area it lay in, where there is one area. -/
theorem devArea_devCut_singleton (lo n a : Nat) (r : Nat × Nat × Nat) (ha : a < lo ∨ lo + n ≤ a) :
    devArea (devCut lo n [r]) a = devArea [r] a := by
  rw [devCut, List.flatMap_singleton]
  split
  · rfl
  · rename_i hcut
    rw [devArea_append, devArea_ite, devArea_ite, devArea_singleton]
    dsimp only
    rcases ha with ha | ha
    · rw [if_neg (c := lo + n < r.1 + r.2.1 ∧ _) (by omega), Option.or_none]
      congr 1
      exact propext (by omega)
    · rw [if_neg (c := r.1 < lo ∧ _) (by omega), Option.none_or]
      congr 1
      exact propext (by omega)

/-- Any other byte lies in the area it lay in. -/
theorem devArea_devCut_outside (lo n a : Nat) (l : List (Nat × Nat × Nat)) (ha : a < lo ∨ lo + n ≤ a) :
    devArea (devCut lo n l) a = devArea l a := by
  induction l with
  | nil => rfl
  | cons r l ih =>
    rw [devCut_cons, devArea_append, devArea_devCut_singleton lo n a r ha, ih, ← devArea_append]
    rfl

/-! ## Reads -/

/-- The bytes of memory from loc on make its number there. -/
theorem bytesNum_readByte (m : Memory) (loc n : Nat) :
    bytesNum ((keysFrom loc n).map (readByte m)) = readNum m loc n := by
  induction n generalizing loc with
  | zero => rfl
  | succ n ih => simp [keysFrom, bytesNum, readNum, ih]

/-- The keys from a on. -/
theorem mem_keysFrom {a n k : Nat} : k ∈ keysFrom a n ↔ a ≤ k ∧ k < a + n := by
  induction n generalizing a with
  | zero => simp [keysFrom]
  | succ n ih => simp only [keysFrom, List.mem_cons, ih]; omega

/-- Bytes in no area read as the memory's number. -/
theorem memRead_of_devArea_none (d : Data) (loc n : Nat)
    (h : ∀ a, loc ≤ a → a < loc + n → devArea d.devFmt a = none) : memRead d loc n = readNum d.mem loc n := by
  have hb : (keysFrom loc n).map (memByte d) = (keysFrom loc n).map (readByte d.mem) :=
    List.map_congr_left fun a ha =>
      memByte_of_devArea_none d a (h a (mem_keysFrom.mp ha).1 (mem_keysFrom.mp ha).2)
  rw [memRead, hb, bytesNum_readByte, ite_self]

/-! ## Stores -/

/-- Poison of a write changes no area. -/
@[simp] theorem poisonWrite_devFmt (d : Data) (loc n : Nat) (psn : Bool) :
    (poisonWrite d loc n psn).devFmt = d.devFmt := by
  cases psn <;> rfl

@[simp] theorem memWrite_mem (d : Data) (loc n x : Nat) (psn : Bool) :
    (memWrite d loc n x psn).mem = writeNum d.mem loc n x := by simp [memWrite]

@[simp] theorem memWrite_devFmt (d : Data) (loc n x : Nat) (psn : Bool) :
    (memWrite d loc n x psn).devFmt = devCut loc n d.devFmt := by simp [memWrite]

/-- The bytes stored read as the low bytes of the value. -/
theorem memRead_memWrite_same (d : Data) (loc n x : Nat) (psn : Bool) (h : d.mem.wf = true) :
    memRead (memWrite d loc n x psn) loc n = x % 256 ^ n := by
  have hArea : ∀ a, loc ≤ a → a < loc + n → devArea (memWrite d loc n x psn).devFmt a = none := by
    intro a hlo hhi
    rw [memWrite_devFmt, devArea_devCut_inside loc n a _ hlo hhi]
  rw [memRead_of_devArea_none _ _ _ hArea, memWrite_mem, readNum_writeNum _ _ _ _ h]

/-- Every byte not stored reads as before. -/
theorem memByte_memWrite_other (d : Data) (loc n x : Nat) (psn : Bool) (a : Nat) (h : d.mem.wf = true)
    (ha : a < loc ∨ loc + n ≤ a) : memByte (memWrite d loc n x psn) a = memByte d a := by
  apply memByte_congr
  · rw [memWrite_devFmt, devArea_devCut_outside loc n a _ ha]
  · rw [memWrite_mem, readByte_writeNum_other _ _ _ _ _ h ha]

/-- A byte outside a list of bytes stored stands. -/
theorem readByte_writeBytes_other (m : Memory) (a j : Nat) (bs : List Byte) (h : m.wf = true)
    (hj : j < a ∨ a + bs.length ≤ j) : readByte (writeBytes m a bs) j = readByte m j := by
  induction bs generalizing m a with
  | nil => rfl
  | cons b bs ih =>
    simp only [List.length_cons] at hj
    rw [writeBytes, ih _ _ (writeByte_wf m a b h) (by omega), readByte_writeByte_other m a j b h (by omega)]

@[simp] theorem length_keysFrom (a n : Nat) : (keysFrom a n).length = n := by
  induction n generalizing a with
  | zero => rfl
  | succ n ih => simp [keysFrom, ih]

/-- Bytes stored from a on, each given by its address, read back at their addresses. -/
theorem readByte_writeBytes_keysFrom (m : Memory) (a n j : Nat) (g : Nat → Byte) (h : m.wf = true)
    (hlo : a ≤ j) (hhi : j < a + n) : readByte (writeBytes m a ((keysFrom a n).map g)) j = g j := by
  induction n generalizing m a with
  | zero => omega
  | succ n ih =>
    have hw := writeByte_wf m a (g a) h
    rw [keysFrom, List.map_cons, writeBytes]
    by_cases hj : j = a
    · subst hj
      rw [readByte_writeBytes_other _ _ _ _ hw (by omega), readByte_writeByte_same m j _ h]
    · exact ih _ _ hw (by omega) (by omega)

end Sys2Proof.Machine
end

section
/-!
PROOF SUPPORT. An element that lies in one piece, stored in memory (R55, R83, R176): its bits read back and every byte outside the
piece's stands.
-/

namespace Sys2Proof.Machine

/-! ## Bit fields -/

/-- A field set reads back. -/
theorem fld_setBits_same (x lo n v : Nat) : fld (setBits x lo n v) lo n = v % 2 ^ n := by
  have hfield : setBits x lo n v = x % 2 ^ lo + (v % 2 ^ n + x / 2 ^ lo / 2 ^ n * 2 ^ n) * 2 ^ lo := by
    have hx := Nat.mod_add_div' x (2 ^ lo)
    have hq := Nat.mod_add_div' (x / 2 ^ lo) (2 ^ n)
    have hx' : x = x % 2 ^ lo + (fld x lo n + x / 2 ^ lo / 2 ^ n * 2 ^ n) * 2 ^ lo := by
      rw [fld, hq, hx]
    rw [add_mul] at hx' ⊢
    unfold setBits
    omega
  rw [hfield, fld, Nat.add_mul_div_right _ _ (Nat.two_pow_pos lo), Nat.div_eq_of_lt (Nat.mod_lt _ (Nat.two_pow_pos lo)),
    Nat.zero_add, Nat.add_mul_mod_self_right, Nat.mod_mod]

/-- A field reads the same in the low bits that hold it. -/
theorem fld_mod_two_pow (x lo n k : Nat) (h : lo + n ≤ k) : fld (x % 2 ^ k) lo n = fld x lo n := by
  have hk : 2 ^ k = 2 ^ lo * 2 ^ (k - lo) := by rw [← pow_add]; congr 1; omega
  rw [fld, hk, Nat.mod_mul_right_div_self, Nat.mod_mod_of_dvd _ (pow_dvd_pow 2 (by omega)), fld]

/-- A piece lies in its bytes. -/
theorem piece_le_pieceBytes (p : Piece) : p.off + p.n ≤ 8 * pieceBytes p := by
  unfold pieceBytes ceilDiv; omega

/-! ## One piece -/

/-- An element in one piece is the field of the bytes it lies in. -/
theorem pieceRead_singleton (d : Data) (p : Piece) (hsh : p.sh = 0) :
    pieceRead d [p] = fld (memRead d p.loc (pieceBytes p)) p.off p.n := by
  simp [pieceRead, pieceBytes, hsh]

/-- A piece at bit 0 of its element, stored. -/
theorem pieceStore_singleton (m : Memory) (v : Nat) (p : Piece) (hsh : p.sh = 0) :
    pieceStore m v [p] = writeNum m p.loc (pieceBytes p) (setBits (readNum m p.loc (pieceBytes p)) p.off p.n v) := by
  simp [pieceStore, pieceBytes, hsh]

/-- Bytes taken out of device-format areas read as they did. -/
theorem memByte_pieceSettle (d : Data) (ps : List Piece) (a : Nat) (h : d.mem.wf = true) :
    memByte (pieceSettle d ps) a = memByte d a := by
  induction ps generalizing d with
  | nil => rfl
  | cons p ps ih =>
    rw [pieceSettle]
    split
    · exact ih d h
    · rw [ih _ (writeBytes_wf _ _ _ h)]
      by_cases ha : p.loc ≤ a ∧ a < p.loc + pieceBytes p
      · obtain ⟨hlo, hhi⟩ := ha
        rw [memByte_of_devArea_none _ _ (devArea_devCut_inside _ _ _ _ hlo hhi)]
        exact readByte_writeBytes_keysFrom _ _ _ _ _ h hlo hhi
      · apply memByte_congr
        · exact devArea_devCut_outside _ _ _ _ (by omega)
        · exact readByte_writeBytes_other _ _ _ _ h (by simp; omega)

/-- A settled piece's bytes lie in no area. -/
theorem devArea_pieceSettle_singleton (d : Data) (p : Piece) (a : Nat) (hlo : p.loc ≤ a)
    (hhi : a < p.loc + pieceBytes p) : devArea (pieceSettle d [p]).devFmt a = none := by
  simp only [pieceSettle]
  split
  · rename_i hd
    rw [List.isEmpty_iff.mp hd]
    rfl
  · exact devArea_devCut_inside _ _ _ _ hlo hhi

/-- Poison of an element's pieces changes no area. -/
theorem piecePoison_devFmt (ps : List Piece) (psn : Bool) (d : Data) :
    (ps.foldl (fun d p => if psn then poisonWrite d p.loc (pieceBytes p) true else d) d).devFmt = d.devFmt := by
  induction ps generalizing d with
  | nil => rfl
  | cons p ps ih =>
    rw [List.foldl_cons, ih]
    cases psn <;> simp

@[simp] theorem pieceWrite_mem (d : Data) (ps : List Piece) (v : Nat) (psn : Bool) :
    (pieceWrite d ps v psn).mem = pieceStore (pieceSettle d ps).mem v ps := by
  rw [pieceWrite, piecePoison_mem]

@[simp] theorem pieceWrite_devFmt (d : Data) (ps : List Piece) (v : Nat) (psn : Bool) :
    (pieceWrite d ps v psn).devFmt = (pieceSettle d ps).devFmt := by
  rw [pieceWrite, piecePoison_devFmt]

/-- An element in one piece reads back. -/
theorem pieceRead_pieceWrite_singleton (d : Data) (p : Piece) (v : Nat) (psn : Bool) (h : d.mem.wf = true)
    (hsh : p.sh = 0) : pieceRead (pieceWrite d [p] v psn) [p] = v % 2 ^ p.n := by
  have hArea : ∀ a, p.loc ≤ a → a < p.loc + pieceBytes p → devArea (pieceWrite d [p] v psn).devFmt a = none := by
    intro a hlo hhi
    rw [pieceWrite_devFmt, devArea_pieceSettle_singleton d p a hlo hhi]
  rw [pieceRead_singleton _ _ hsh, memRead_of_devArea_none _ _ _ hArea, pieceWrite_mem, pieceStore_singleton _ _ _ hsh,
    readNum_writeNum _ _ _ _ (pieceSettle_wf d [p] h), show (256 : Nat) = 2 ^ 8 from rfl, ← pow_mul,
    fld_mod_two_pow _ _ _ _ (piece_le_pieceBytes p), fld_setBits_same]

/-- A byte outside an element's one piece reads as before. -/
theorem memByte_pieceWrite_outside (d : Data) (p : Piece) (v : Nat) (psn : Bool) (a : Nat) (h : d.mem.wf = true)
    (hsh : p.sh = 0) (ha : a < p.loc ∨ p.loc + pieceBytes p ≤ a) :
    memByte (pieceWrite d [p] v psn) a = memByte d a := by
  rw [← memByte_pieceSettle d [p] a h]
  apply memByte_congr
  · rw [pieceWrite_devFmt]
  · rw [pieceWrite_mem, pieceStore_singleton _ _ _ hsh, readByte_writeNum_other _ _ _ _ _ (pieceSettle_wf d [p] h) ha]

end Sys2Proof.Machine
end

section
/-!
PROOF SUPPORT. Integer elements under SSCT (R83): the bits of a signed number read back as the number.
-/

namespace Sys2Proof.Machine

/-- The signed reading is that of a bit vector. -/
theorem sextN_eq_toInt (w x : Nat) (hw : 0 < w) : sextN w x = (BitVec.ofNat w x).toInt := by
  obtain ⟨w, rfl⟩ := Nat.exists_eq_succ_of_ne_zero hw.ne'
  rw [sextN, BitVec.toInt_eq_toNat_cond, BitVec.toNat_ofNat, Nat.succ_sub_one, Nat.pow_succ]
  split <;> split <;> omega

/-- The bits of a signed number are those of a bit vector. -/
theorem intBits_eq_toNat (w : Nat) (v : Int) : intBits w v = (BitVec.ofInt w v).toNat := by
  rw [intBits, BitVec.toNat_ofInt]; norm_cast

/-- The bits of a signed number fit the format. -/
theorem intBits_lt (w : Nat) (v : Int) : intBits w v < 2 ^ w := by
  rw [intBits_eq_toNat]; exact (BitVec.ofInt w v).isLt

/-- The bits of a number that an element reads as read as it. -/
theorem intVal_intBits_intVal (f x : Nat) (hw : 0 < fmtBits f) :
    intVal f (intBits (fmtBits f) (intVal f x)) = intVal f x := by
  simp only [intVal, sextN_eq_toInt _ _ hw, intBits_eq_toNat, BitVec.ofInt_toInt, BitVec.ofNat_toNat, BitVec.setWidth_eq]

/-- The sum of two integer elements is modulo their width. -/
theorem combine_add_int (f e x : Nat) (hf : isFloat f = false) : combine 1 f e x = (e + x) % 2 ^ fmtBits f := by
  simp [combine, hf]

/-- SSCT.max of integer elements is the bits of the larger number. -/
theorem combine_max_int (f e x : Nat) (hf : isFloat f = false) :
    combine 2 f e x = intBits (fmtBits f) (max (intVal f e) (intVal f x)) := by
  simp [combine, hf]

/-- SSCT.min of integer elements is the bits of the smaller number. -/
theorem combine_min_int (f e x : Nat) (hf : isFloat f = false) :
    combine 3 f e x = intBits (fmtBits f) (min (intVal f e) (intVal f x)) := by
  simp [combine, hf]

/-- The larger of two elements' numbers reads back. -/
theorem intVal_intBits_max (f e x : Nat) (hw : 0 < fmtBits f) :
    intVal f (intBits (fmtBits f) (max (intVal f e) (intVal f x))) = max (intVal f e) (intVal f x) := by
  rcases max_choice (intVal f e) (intVal f x) with h | h <;> rw [h, intVal_intBits_intVal f _ hw]

/-- The smaller of two elements' numbers reads back. -/
theorem intVal_intBits_min (f e x : Nat) (hw : 0 < fmtBits f) :
    intVal f (intBits (fmtBits f) (min (intVal f e) (intVal f x))) = min (intVal f e) (intVal f x) := by
  rcases min_choice (intVal f e) (intVal f x) with h | h <;> rw [h, intVal_intBits_intVal f _ hw]

end Sys2Proof.Machine
end

section
/-!
PROOF SUPPORT. FMAX and FMIN of finite values against exact rational numbers (R366).
-/

namespace Sys2Proof.Machine

/-- The rational number that a finite value is. -/
def finVal (neg : Bool) (m : Nat) (e : Int) : ℚ := (if neg then -(m : ℚ) else m) * 2 ^ e

/-- A significand brought to a lower exponent stands for the same number. -/
theorem fpAt_mul_zpow (neg : Bool) (m : Nat) (e e0 : Int) (h : e0 ≤ e) :
    (fpAt neg m e e0 : ℚ) * 2 ^ e0 = finVal neg m e := by
  have hpow : (2 : ℚ) ^ (e - e0).toNat * 2 ^ e0 = 2 ^ e := by
    rw [← zpow_natCast, Int.toNat_of_nonneg (by omega), ← zpow_add₀ two_ne_zero, sub_add_cancel]
  cases neg <;> simp [fpAt, finVal, mul_assoc, hpow]

/-- Significands at one exponent compare as the numbers do. -/
theorem fpAt_le_iff (s t : Bool) (m n : Nat) (e g : Int) :
    fpAt s m e (min e g) ≤ fpAt t n g (min e g) ↔ finVal s m e ≤ finVal t n g := by
  rw [← fpAt_mul_zpow s m e _ (min_le_left e g), ← fpAt_mul_zpow t n g _ (min_le_right e g),
    mul_le_mul_iff_left₀ (zpow_pos two_pos _), Int.cast_le]

/-- When a finite value lies below another: its number is smaller, or the same and it is the negative one. -/
theorem fpBelow_fin_iff (s t : Bool) (m n : Nat) (e g : Int) :
    fpBelow (.fin s m e) (.fin t n g) = true ↔
      fpAt s m e (min e g) < fpAt t n g (min e g) ∨
      fpAt s m e (min e g) = fpAt t n g (min e g) ∧ s = true ∧ t = false := by
  simp only [fpBelow, fpCmp, fpSign]
  rcases lt_trichotomy (fpAt s m e (min e g)) (fpAt t n g (min e g)) with h | h | h
  · simp [h]
  · simp [h]
  · simp [h.not_gt, h.ne', sub_eq_zero]

/-- A finite value below another is at most it. -/
theorem finVal_le_of_fpBelow (s t : Bool) (m n : Nat) (e g : Int)
    (h : fpBelow (.fin s m e) (.fin t n g) = true) : finVal s m e ≤ finVal t n g := by
  rw [← fpAt_le_iff]
  rcases (fpBelow_fin_iff s t m n e g).mp h with hlt | ⟨heq, -⟩
  · exact hlt.le
  · exact heq.le

/-- A finite value not below another is at least it. -/
theorem finVal_le_of_not_fpBelow (s t : Bool) (m n : Nat) (e g : Int)
    (h : fpBelow (.fin s m e) (.fin t n g) = false) : finVal t n g ≤ finVal s m e := by
  rw [← fpAt_le_iff, min_comm]
  exact not_lt.mp fun hlt => Bool.eq_false_iff.mp h ((fpBelow_fin_iff s t m n e g).mpr (.inl hlt))

/-- A NaN on the left gives way. -/
theorem fpMax_nan_left (least : Bool) (v : Fp) : fpMax least .nan v = v := rfl

/-- A NaN on the right gives way. -/
theorem fpMax_nan_right (least : Bool) (v : Fp) : fpMax least v .nan = v := by cases v <;> rfl

/-- FMAX of finite values. -/
theorem fpMax_fin (s t : Bool) (m n : Nat) (e g : Int) :
    fpMax false (.fin s m e) (.fin t n g) =
      if fpBelow (.fin s m e) (.fin t n g) then .fin t n g else .fin s m e := rfl

/-- FMIN of finite values. -/
theorem fpMin_fin (s t : Bool) (m n : Nat) (e g : Int) :
    fpMax true (.fin s m e) (.fin t n g) =
      if fpBelow (.fin t n g) (.fin s m e) then .fin t n g else .fin s m e := rfl

/-- -0 lies below +0 whatever their exponents. -/
theorem fpBelow_zero (s t : Bool) (e g : Int) : fpBelow (.fin s 0 e) (.fin t 0 g) = (s && ! t) := by
  rw [Bool.eq_iff_iff, fpBelow_fin_iff]
  simp [fpAt]

/-- FMAX of finite values is the larger number. -/
theorem fpMax_fin_val (s t : Bool) (m n : Nat) (e g : Int) :
    ∃ q k j, fpMax false (.fin s m e) (.fin t n g) = .fin q k j ∧ finVal q k j = max (finVal s m e) (finVal t n g) := by
  rw [fpMax_fin]
  cases h : fpBelow (.fin s m e) (.fin t n g) with
  | true => exact ⟨t, n, g, rfl, (max_eq_right (finVal_le_of_fpBelow _ _ _ _ _ _ h)).symm⟩
  | false => exact ⟨s, m, e, rfl, (max_eq_left (finVal_le_of_not_fpBelow _ _ _ _ _ _ h)).symm⟩

/-- FMIN of finite values is the smaller number. -/
theorem fpMin_fin_val (s t : Bool) (m n : Nat) (e g : Int) :
    ∃ q k j, fpMax true (.fin s m e) (.fin t n g) = .fin q k j ∧ finVal q k j = min (finVal s m e) (finVal t n g) := by
  rw [fpMin_fin]
  cases h : fpBelow (.fin t n g) (.fin s m e) with
  | true => exact ⟨t, n, g, rfl, (min_eq_right (finVal_le_of_fpBelow _ _ _ _ _ _ h)).symm⟩
  | false => exact ⟨s, m, e, rfl, (min_eq_left (finVal_le_of_not_fpBelow _ _ _ _ _ _ h)).symm⟩

end Sys2Proof.Machine
end

section
/-!
PROOF. A store reads back and leaves every other byte; what an element that SSCT combines becomes.
-/

namespace Sys2Proof.Machine

open Sys2Proof.Safety

/-- What SSCT makes of an element that lies in one piece, and what it leaves. -/
theorem elemWrite_singleton (d : Data) (p : Piece) (x mode f : Nat) (psn : Bool) (h : d.mem.wf = true) (hsh : p.sh = 0) :
    pieceRead (elemWrite psn mode f d ([p], x)) [p] =
      (if mode = 0 then x else combine mode f (pieceRead d [p]) x) % 2 ^ p.n ∧
    (elemWrite psn mode f d ([p], x)).mem.wf = true ∧
    ∀ a, Outside [p] a → memByte (elemWrite psn mode f d ([p], x)) a = memByte d a :=
  ⟨pieceRead_pieceWrite_singleton d p _ _ h hsh, pieceWrite_wf d [p] _ _ h,
    fun a ha => memByte_pieceWrite_outside d p _ _ a h hsh (ha p (List.mem_singleton_self p))⟩

/-- The combines of integer elements. -/
theorem combine_int (f e x : Nat) (hf : f = 8 ∨ f = 10) :
    combine 1 f e x = (e + x) % 2 ^ fmtBits f ∧
    combine 2 f e x < 2 ^ fmtBits f ∧ intVal f (combine 2 f e x) = max (intVal f e) (intVal f x) ∧
    combine 3 f e x < 2 ^ fmtBits f ∧ intVal f (combine 3 f e x) = min (intVal f e) (intVal f x) := by
  have hint : isFloat f = false := by rcases hf with rfl | rfl <;> rfl
  have hw : 0 < fmtBits f := by rcases hf with rfl | rfl <;> decide
  rw [combine_add_int f e x hint, combine_max_int f e x hint, combine_min_int f e x hint]
  exact ⟨rfl, intBits_lt _ _, intVal_intBits_max f e x hw, intBits_lt _ _, intVal_intBits_min f e x hw⟩

/-- The combines of floating-point elements. -/
theorem combine_float (f e x : Nat) (hf : isFloat f = true) :
    combine 1 f e x = fpEncode (rne f) (fpAdd 0 (fpDecode f e) (fpDecode f x)) ∧
    combine 2 f e x = fpEncode (rne f) (fpMax false (fpDecode f e) (fpDecode f x)) ∧
    combine 3 f e x = fpEncode (rne f) (fpMax true (fpDecode f e) (fpDecode f x)) := by
  simp [combine, hf]

/-- Settles O60: a store takes its bytes out of the device-format areas, so that they and all others are the memory's to say;
the combines go by the kind of format, and FMAX by what an ordered pair of significands says of the numbers. -/
theorem memoryWritesAndCombines : Obligations.MemoryWritesAndCombines := by
  unfold Obligations.MemoryWritesAndCombines
  refine ⟨?store, ?element, ?integer, ?float, ?extremes⟩
  case store =>
    intro d loc n v psn h
    exact ⟨memWrite_wf d loc n v psn h, memRead_memWrite_same d loc n v psn h,
      fun a => memByte_memWrite_other d loc n v psn a h⟩
  case element =>
    rintro d p e x mode f psn h hsh rfl
    exact elemWrite_singleton d p x mode f psn h hsh
  case integer => exact fun f e x hf _ _ => combine_int f e x hf
  case float =>
    intro f e x hf
    exact combine_float f e x (by rcases hf with rfl | rfl | rfl <;> rfl)
  case extremes =>
    intro least s t m n e g v
    refine ⟨fpMax_nan_left least v, fpMax_nan_right least v, ?_, ?_, ?_, ?_, ?_⟩
    · rw [fpMax_fin, fpBelow_zero]; rfl
    · rw [fpMax_fin, fpBelow_zero]; rfl
    · rw [fpMin_fin, fpBelow_zero]; rfl
    · rw [fpMin_fin, fpBelow_zero]; rfl
    · cases least with
      | false => exact fpMax_fin_val s t m n e g
      | true => exact fpMin_fin_val s t m n e g

end Sys2Proof.Machine
end

section
/-!
PROOF SUPPORT. The management plane after each instruction, event and turn (R22), and the range it keeps (R19, R300, R302, R303).
-/

namespace Sys2Proof.Machine

/-! ## The management plane after an instruction or event -/

/-- The management plane after an instruction or event (R22): what only clock steps, telemetry, resets and start-up, recovery
commands and a host write to the staging buffer change. -/
def mgmtAfter (i : Instr) (s : State) : Mgmt :=
  match i with
  | .registerWrite off v => stageWrite s.mg off v
  | .rcmdAppend => if s.mg.boot = .minimal then { s.mg with flash := s.mg.flash ++ readBytes s.mg.staging 0 65536 } else s.mg
  | .rcmdVerify => if s.mg.boot = .minimal then { s.mg with rcmdReason := BitVec.ofNat 8 (verifyFlash s.mg) } else s.mg
  | .rcmdStart => if s.mg.boot = .minimal then startBegins { s.mg with fails := 0 } else s.mg
  | .clockStepDown => { s.mg with clock := if 325 ≤ s.mg.clock then s.mg.clock - 25 else s.mg.clock }
  | .clockStepUp => { s.mg with clock := if s.mg.clock + 25 ≤ 600 then s.mg.clock + 25 else s.mg.clock }
  | .telemetryRead die counter => { s.mg with telemetry := telemetryValue s die counter :: s.mg.telemetry }
  | .dieReset die => if die < 4 then s.mg else { s.mg with fes := s.mg.fes.set (die - 4) 0 }
  | .perst => startBegins s.mg
  | .rookBoot x =>
    if ! mayBoot s x then s.mg
    else
      let m := if s.mg.boot = .train then { s.mg with boot := .load } else s.mg
      { m with fes := m.fes.set x (if verifyFlash s.mg = 0 then 1 else BitVec.ofNat 8 (0x80 + verifyFlash s.mg)) }
  | .startComplete =>
    if s.mg.boot = .load ∧ s.mg.failed = false ∧ s.mg.fes.getD s.mg.xd 0 = 1 then
      { s.mg with
        boot := .started, fails := 0, reason := 0,
        svn := BitVec.ofNat 8 (max s.mg.svn.toNat (Config.imageSvn s.mg.flash % 256)) }
    else s.mg
  | .startFail reason => if mayFail s.mg reason then startFails reason s.mg else s.mg
  | .startTimeout => if starting s.mg then startFails 8 s.mg else s.mg
  | .dieLeavesReset die => releaseMgmt die s.mg
  | .spdmMeasurementRequest => { s.mg with spdm := Config.spdmResponse s.mg.spdm.length :: s.mg.spdm }
  | _ => s.mg

/-- A start that may not fail goes on as it was. -/
theorem failStart_next (may : Mgmt → Bool) (reason : BitVec 8) (s : State) :
    ∃ d, failStart may reason s = .next { s with d := d, mg := if may s.mg then startFails reason s.mg else s.mg } := by
  unfold failStart
  split
  · exact ⟨_, rfl⟩
  · exact ⟨s.d, rfl⟩

/-- Every instruction and event completes, and leaves the agenda and that management plane. -/
theorem exec_next (i : Instr) (s : State) : ∃ d, exec i s = .next { s with d := d, mg := mgmtAfter i s } := by
  cases i
  case startFail reason => exact failStart_next (mayFail · reason) reason s
  case startTimeout => exact failStart_next starting 8 s
  all_goals exact ⟨_, rfl⟩

/-- What every state holds of its management plane (R19, R302, R303). -/
def MgmtInRange (m : Mgmt) : Prop :=
  300 ≤ m.clock ∧ m.clock ≤ 600 ∧ m.clock % 25 = 0 ∧ m.fails ≤ 3 ∧ m.xd ≤ 1 ∧ m.fes.length = 2 ∧ m.staging.wf = true

/-- A change of the management plane keeps it in range and never lowers the fused security version (R300). -/
def MgmtKept (m m' : Mgmt) : Prop := (MgmtInRange m → MgmtInRange m') ∧ m.svn ≤ m'.svn

/-- What changes no field of the range keeps it, and so does a change of other fields (to Lean the same statement). -/
theorem mgmtKept_refl (m : Mgmt) : MgmtKept m m := ⟨id, BitVec.le_refl _⟩

theorem mgmtKept_trans {m m' m'' : Mgmt} (h : MgmtKept m m') (h' : MgmtKept m' m'') : MgmtKept m m'' :=
  ⟨fun hm => h'.1 (h.1 hm), BitVec.le_trans h.2 h'.2⟩

theorem mgmtKept_ite {c : Prop} [Decidable c] {m a b : Mgmt} (ha : c → MgmtKept m a) (hb : ¬c → MgmtKept m b) :
    MgmtKept m (if c then a else b) := by
  split
  · exact ha ‹_›
  · exact hb ‹_›

/-- The clock steps down within R19's range. -/
theorem mgmtKept_clockDown (m : Mgmt) : MgmtKept m { m with clock := if 325 ≤ m.clock then m.clock - 25 else m.clock } := by
  refine ⟨fun ⟨hlo, hhi, hmod, hrest⟩ => ⟨?_, ?_, ?_, hrest⟩, BitVec.le_refl _⟩ <;> dsimp only <;> split <;> omega

/-- The clock steps up within R19's range. -/
theorem mgmtKept_clockUp (m : Mgmt) :
    MgmtKept m { m with clock := if m.clock + 25 ≤ 600 then m.clock + 25 else m.clock } := by
  refine ⟨fun ⟨hlo, hhi, hmod, hrest⟩ => ⟨?_, ?_, ?_, hrest⟩, BitVec.le_refl _⟩ <;> dsimp only <;> split <;> omega

/-- BOOTSTS goes on from one phase to another. -/
theorem mgmtKept_boot (m : Mgmt) (a b : BootState) : MgmtKept m (if m.boot = a then { m with boot := b } else m) :=
  mgmtKept_ite (fun _ => mgmtKept_refl m) (fun _ => mgmtKept_refl m)

theorem mgmtKept_fes (m : Mgmt) (x : Nat) (v : BitVec 8) : MgmtKept m { m with fes := m.fes.set x v } := by
  refine ⟨fun ⟨hlo, hhi, hmod, hfails, hxd, hfes, hst⟩ => ⟨hlo, hhi, hmod, hfails, hxd, ?_, hst⟩, BitVec.le_refl _⟩
  rw [List.length_set, hfes]

/-- A start begins in range, with the security version it found (R298, R302). -/
theorem mgmtKept_startBegins {m m' : Mgmt} (hsvn : m'.svn = m.svn) : MgmtKept m (startBegins m') := by
  refine ⟨fun _ => ?_, hsvn ▸ BitVec.le_refl m'.svn⟩
  simp [MgmtInRange, startBegins, Memory.wf, spWf, spWfFrom]

theorem mgmtKept_startFails (reason : BitVec 8) (m : Mgmt) : MgmtKept m (startFails reason m) :=
  mgmtKept_ite (fun _ => mgmtKept_refl m) (fun _ => mgmtKept_refl m)

theorem mgmtKept_stageWrite (m : Mgmt) (off : Nat) (v : Word) : MgmtKept m (stageWrite m off v) := by
  refine mgmtKept_ite (fun _ => ⟨?_, BitVec.le_refl _⟩) (fun _ => mgmtKept_refl m)
  exact fun ⟨hlo, hhi, hmod, hfails, hxd, hfes, hst⟩ => ⟨hlo, hhi, hmod, hfails, hxd, hfes, writeNum_wf _ _ _ _ hst⟩

theorem mgmtKept_releaseMgmt (die : Nat) (m : Mgmt) : MgmtKept m (releaseMgmt die m) := by
  refine mgmtKept_ite (fun _ => mgmtKept_refl m) (fun _ =>
    mgmtKept_trans (mgmtKept_boot m .verify .train) (mgmtKept_ite (fun _ => ?_) fun _ => mgmtKept_refl _))
  exact ⟨fun ⟨hlo, hhi, hmod, hfails, _, hrest⟩ => ⟨hlo, hhi, hmod, hfails, le_rfl, hrest⟩, BitVec.le_refl _⟩

/-- The manifest of a start that completes may only raise the fused security version (R300). -/
theorem mgmtKept_startComplete (m : Mgmt) (v : Nat) :
    MgmtKept m { m with boot := .started, fails := 0, reason := 0, svn := BitVec.ofNat 8 (max m.svn.toNat (v % 256)) } := by
  refine ⟨fun ⟨hlo, hhi, hmod, _, hrest⟩ => ⟨hlo, hhi, hmod, Nat.zero_le _, hrest⟩, ?_⟩
  rw [BitVec.le_def, BitVec.toNat_ofNat, Nat.mod_eq_of_lt (by have := m.svn.isLt; omega)]
  exact le_max_left _ _

/-- No instruction or event takes the management plane out of its range. -/
theorem mgmtKept_mgmtAfter (i : Instr) (s : State) : MgmtKept s.mg (mgmtAfter i s) := by
  cases i with
  | registerWrite off v => exact mgmtKept_stageWrite _ _ _
  | rcmdAppend => exact mgmtKept_ite (fun _ => mgmtKept_refl s.mg) (fun _ => mgmtKept_refl s.mg)
  | rcmdVerify => exact mgmtKept_ite (fun _ => mgmtKept_refl s.mg) (fun _ => mgmtKept_refl s.mg)
  | rcmdStart => exact mgmtKept_ite (fun _ => mgmtKept_startBegins rfl) (fun _ => mgmtKept_refl s.mg)
  | clockStepDown => exact mgmtKept_clockDown _
  | clockStepUp => exact mgmtKept_clockUp _
  | dieReset die => exact mgmtKept_ite (fun _ => mgmtKept_refl s.mg) (fun _ => mgmtKept_fes _ _ _)
  | perst => exact mgmtKept_startBegins rfl
  | rookBoot x =>
    exact mgmtKept_ite (fun _ => mgmtKept_refl s.mg) (fun _ =>
      mgmtKept_trans (mgmtKept_boot s.mg .train .load) (mgmtKept_fes _ _ _))
  | startComplete => exact mgmtKept_ite (fun _ => mgmtKept_startComplete _ _) (fun _ => mgmtKept_refl s.mg)
  | startFail reason => exact mgmtKept_ite (fun _ => mgmtKept_startFails _ _) (fun _ => mgmtKept_refl s.mg)
  | startTimeout => exact mgmtKept_ite (fun _ => mgmtKept_startFails _ _) (fun _ => mgmtKept_refl s.mg)
  | dieLeavesReset die => exact mgmtKept_releaseMgmt _ _
  | _ => exact mgmtKept_refl s.mg

theorem mgmtKept_exec {i : Instr} {s t : State} (h : exec i s = .next t) : MgmtKept s.mg t.mg := by
  obtain ⟨d, hd⟩ := exec_next i s
  rw [hd] at h
  cases h
  exact mgmtKept_mgmtAfter i s

theorem mgmtKept_romReads (m : Mgmt) : MgmtKept m (romReads m) :=
  mgmtKept_ite (fun _ => mgmtKept_refl m) (fun _ => mgmtKept_refl m)

theorem mgmtKept_upsetMgmt (u : Upset) (m : Mgmt) : MgmtKept m (upsetMgmt u m) := by
  cases u <;> exact mgmtKept_refl m

/-- The end of an issue takes its management plane from one of its two states. -/
theorem mgmtKept_issueEnd (f k : Nat) {m : Mgmt} {s t : State} (hs : MgmtKept m s.mg) (ht : MgmtKept m t.mg) :
    MgmtKept m (issueEnd f k s t).mg := by
  unfold issueEnd
  split
  · exact hs
  · exact ht

theorem mgmtKept_seqStep (f : Nat) {s t : State} (h : seqStep f s = .next t) : MgmtKept s.mg t.mg := by
  unfold seqStep at h
  split at h
  · cases h; exact mgmtKept_refl s.mg
  · rename_i d w _
    split at h
    · cases h; exact mgmtKept_refl s.mg
    · rename_i i _
      obtain ⟨d', hd'⟩ := exec_next i { s with d := d }
      rw [hd'] at h
      cases h
      exact mgmtKept_issueEnd _ _ (mgmtKept_refl s.mg) (mgmtKept_mgmtAfter i { s with d := d })

theorem mgmtKept_rookStep (r : Nat) {s t : State} (h : rookStep r s = .next t) : MgmtKept s.mg t.mg := by
  unfold rookStep at h
  split at h
  · cases h; exact mgmtKept_refl s.mg
  · generalize decodeRook (rookFetch s.d r) = o at h
    cases o with
    | ok i =>
      have hkept := mgmtKept_exec h
      exact hkept
    | error e =>
      cases e with
      | illegal => cases h; exact mgmtKept_refl s.mg
      | base => cases h

/-- A turn of an agent that acts only where it exists. -/
theorem next_of_ite {c : Prop} [Decidable c] {o : Host.Outcome State Fault Refusal} {t : State}
    (h : (if c then o else .fault .noSuchAgent) = .next t) : o = .next t := by
  split at h
  · exact h
  · cases h

theorem mgmtKept_turnStep (u : Turn) {s t : State} (h : turnStep u s = .next t) : MgmtKept s.mg t.mg := by
  cases u with
  | event i => exact mgmtKept_exec (next_of_ite h)
  | seq f => exact mgmtKept_seqStep f (next_of_ite h)
  | rook r => exact mgmtKept_rookStep r (next_of_ite h)
  | clock f => cases next_of_ite h; exact mgmtKept_refl s.mg
  | feClock x n => cases next_of_ite h; exact mgmtKept_refl s.mg
  | unitClock c u n => cases next_of_ite h; exact mgmtKept_refl s.mg
  | pipeClock p n => cases next_of_ite h; exact mgmtKept_refl s.mg
  | feRead x => cases next_of_ite h; exact mgmtKept_refl s.mg
  | upset u => cases h; exact mgmtKept_upsetMgmt u s.mg
  | verify => cases h; exact mgmtKept_romReads s.mg
  | _ => cases h; exact mgmtKept_refl s.mg

/-- No step takes the management plane out of its range, or lowers the fused security version. -/
theorem mgmtKept_step {s t : State} (h : step s = .next t) : MgmtKept s.mg t.mg := by
  unfold step at h
  split at h
  · exact mgmtKept_turnStep _ h
  · rename_i u ts _
    exact mgmtKept_turnStep (s := { s with agenda := ts }) u h

end Sys2Proof.Machine
end

section
/-!
PROOF. Only its own steps change the management plane, every step keeps it in range, and reset puts it there.
-/

namespace Sys2Proof.Machine

open Sys2Proof.Safety

/-- Settles O58, by what each turn makes of the management plane. -/
theorem managementInvariant : Obligations.ManagementInvariant := by
  unfold Obligations.ManagementInvariant
  exact ⟨fun s t hs h => (mgmtKept_step h).1 hs, fun s t h => (mgmtKept_step h).2⟩

/-- A register write off the staging buffer, or outside minimal mode, stages nothing (R303). -/
theorem stageWrite_outside (m : Mgmt) (off : Nat) (v : Word) (h : m.boot ≠ .minimal ∨ off < 0x2000000 ∨ 0x2010000 ≤ off) :
    stageWrite m off v = m := by
  rw [stageWrite, if_neg]
  rintro ⟨hboot, hlo, hhi, _⟩
  rcases h with h | h | h
  · exact h hboot
  all_goals omega

/-- Settles O57: the management plane after an instruction, by the kind of instruction. -/
theorem managementPlaneIsKept : Obligations.ManagementPlaneIsKept := by
  unfold Obligations.ManagementPlaneIsKept
  intro i s h
  obtain ⟨d, hd⟩ := exec_next i s
  refine ⟨_, hd, ?_⟩
  show mgmtAfter i s = s.mg
  cases i with
  | clockStepDown | clockStepUp | perst | startComplete | startTimeout | rcmdAppend | rcmdVerify | rcmdStart
  | spdmMeasurementRequest => exact absurd (by simp) (h 0 0 0 0 0).1
  | dieReset die | dieLeavesReset die | rookBoot die => exact absurd (by simp) (h die 0 0 0 0).1
  | telemetryRead die n => exact absurd (by simp) (h die n 0 0 0).1
  | startFail reason => exact absurd (by simp) (h 0 0 0 0 reason).1
  | registerWrite off v => exact stageWrite_outside s.mg off v ((h 0 0 off v 0).2 rfl)
  | _ => rfl

/-- Settles O59. -/
theorem resetState : Obligations.ResetState := by
  unfold Obligations.ResetState
  refine ⟨rfl, rfl, rfl, rfl, rfl, rfl, rfl, rfl, rfl, rfl, rfl, rfl, ?_, ?_⟩
  · intro c hc
    rw [List.eq_of_mem_replicate hc]
    rfl
  · intro x hx
    rw [List.eq_of_mem_replicate hx]
    rfl

end Sys2Proof.Machine
end

section
/-!
PROOF SUPPORT. Fields of a doubleword, steps of the data plane, host writes to windows that STARTED opens (R284), an instruction
that is ready to issue (R305), and changes of an I/O die.
-/

namespace Sys2Proof.Machine

open Sys2Proof.Safety

/-! ## Fields of a doubleword (R318) -/

/-- A field at the low end of a doubleword. -/
theorem wb_low (w : Word) (n : Nat) : wb w 0 n = w.toNat % 2 ^ n := by
  rw [wb, fld, Nat.pow_zero, Nat.div_one]

/-- A field at the high end of a doubleword. -/
theorem wb_high (w : Word) {lo n : Nat} (h : lo + n = 64) : wb w lo n = w.toNat / 2 ^ lo := by
  rw [wb, fld, Nat.mod_eq_of_lt]
  exact Nat.div_lt_of_lt_mul (by rw [← pow_add, h]; exact w.isLt)

/-! ## Steps of the data plane (R22) -/

/-- A step of the data plane leaves what its function makes of the data. -/
theorem leavesData_of_eq {i : Instr} {s : State} {d d' : Data} (hd : d' = d)
    (hexec : exec i s = .next { s with d := d' } := by rfl) : LeavesData i s d := hd ▸ hexec

/-- What a step leaves is what its function makes of the data. -/
theorem data_eq_of_leavesData {i : Instr} {s : State} {d d' : Data} (h : LeavesData i s d)
    (hexec : exec i s = .next { s with d := d' } := by rfl) : d' = d :=
  congrArg State.d (Host.Outcome.next.inj (hexec.symm.trans h))

/-- A step of the data plane that keeps the data changes nothing. -/
theorem exec_kept_of_eq {i : Instr} {s : State} {d' : Data} (hd : d' = s.d)
    (hexec : exec i s = .next { s with d := d' } := by rfl) : exec i s = .next s := by
  rw [hexec, hd]

/-- A host write to a window that STARTED opens acts on a started module (R284). -/
theorem hostWrite_started {s : State} (h : Data → Data) (hboot : s.mg.boot = .started) :
    hostWrite s h = .next { s with d := h s.d } := by
  rw [hostWrite_eq, if_pos hboot]

/-- What such a write does on a started module. -/
theorem exec_of_hostWrite {i : Instr} {s : State} {h : Data → Data} (hboot : s.mg.boot = .started)
    (hexec : exec i s = hostWrite s h) : exec i s = .next { s with d := h s.d } :=
  hexec.trans (hostWrite_started h hboot)

/-! ## Issue (R177, R181, R282, R305) -/

/-- No register that a ready instruction needs has a result to come. -/
theorem not_pend_of_ready {s : State} {g : Guard} {regs : List (BitVec 5)} (h : Ready s g regs) :
    regs.any (fun r => r != 0 && pendReg (curTp s.d) r) = false := by
  rw [List.any_eq_false]
  intro r hr
  by_cases h0 : r = 0
  · simp [h0]
  · simp [(h.2.2 r hr h0).1]

/-- No register that a ready instruction needs is uncorrectable. -/
theorem not_badReg_of_ready {s : State} {g : Guard} {regs : List (BitVec 5)} (h : Ready s g regs) :
    badReg (curTp s.d) regs = false := by
  rw [badReg, List.any_eq_false]
  intro r hr
  by_cases h0 : r = 0
  · simp [h0]
  · simp [(h.2.2 r hr h0).2]

/-- A ready instruction takes its effect. -/
theorem issue_of_ready {s : State} {g : Guard} {regs : List (BitVec 5)} (h : Ready s g regs) (effect : Data → Data) :
    issue s.d g regs effect = effect s.d :=
  issue_effect s.d g regs effect h.2.1 h.1 (not_pend_of_ready h) (not_badReg_of_ready h)

/-- No incomplete command of the TP names the tag. -/
theorem tagFree_of_free {d : Data} {tag : BitVec 6} (k : Data → Data) (h : tag = 0 ∨ (curTp d).busy.contains tag = false) :
    tagFree d tag k = k d := by
  rw [tagFree, if_neg]
  rw [Bool.and_eq_true]
  rintro ⟨hne, hbusy⟩
  rcases h with h | h
  · simp [h] at hne
  · exact absurd hbusy (by rw [h]; decide)

/-- Nothing holds the accesses of the TP. -/
theorem whenFree_of_not_held {d : Data} {rd wr floe : Bool} (k : Data → Data)
    (h : heldBy (getFloe d d.curF) (curTp d) rd wr floe = false) : whenFree d rd wr floe k = k d := by
  simp [whenFree, h]

/-! ## I/O dies -/

/-- A change of an I/O die depends on what it makes of that die. -/
theorem modIo_congr {d : Data} {x : Nat} {h h' : IoDie → IoDie} (hx : h (getIo d x) = h' (getIo d x)) :
    modIo d x h = modIo d x h' := by
  rw [modIo, modIo, hx]

/-- A number of no I/O die changes nothing. -/
theorem modIo_out (d : Data) (x : Nat) (h : IoDie → IoDie) (hx : d.ios.length ≤ x) : modIo d x h = d := by
  simp [modIo, List.set_eq_of_length_le hx]

/-- Two changes of one I/O die are one. -/
theorem modIo_modIo (d : Data) (x : Nat) (h h' : IoDie → IoDie) :
    modIo (modIo d x h) x h' = modIo d x (fun io => h' (h io)) := by
  by_cases hx : x < d.ios.length
  · rw [modIo, getIo_modIo_same d x h hx]
    simp only [modIo, List.set_set]
  · rw [modIo_out d x h (by omega), modIo_out d x h' (by omega), modIo_out d x _ (by omega)]

end Sys2Proof.Machine
end

section
/-!
PROOF SUPPORT. Starts that fail, the verification of an image, the release of a die and the boot ROM (R298-R302).
-/

namespace Sys2Proof.Machine

open Sys2Proof.Safety

/-! ## Starts that fail (R298, R301, R302) -/

/-- A start in progress. -/
theorem starting_iff (m : Mgmt) :
    starting m = true ↔ m.boot ≠ .started ∧ m.boot ≠ .minimal ∧ m.failed = false := by
  simp [starting, and_assoc]

/-- A start that may not fail goes on. -/
theorem failStart_refused (may : Mgmt → Bool) (reason : BitVec 8) (s : State) (h : may s.mg = false) :
    failStart may reason s = .next s := by
  simp [failStart, h]

/-- A start that fails with fewer than three counted shows its reason and stops (R302). -/
theorem failStart_again (may : Mgmt → Bool) (reason : BitVec 8) (s : State) (h : may s.mg = true) (hf : s.mg.fails < 3) :
    failStart may reason s = .next { s with mg := { s.mg with
      reason := reason, boot := failPhase s.mg.boot reason, failed := true } } := by
  simp [failStart, h, minimalData, startFails, Nat.not_le.mpr hf]

/-- A start that fails with three counted ends in minimal mode (R302). -/
theorem failStart_minimal (may : Mgmt → Bool) (reason : BitVec 8) (s : State) (h : may s.mg = true) (hf : 3 ≤ s.mg.fails) :
    failStart may reason s = .next { s with
      d := modIo (ioReset (ioReset ((List.range 4).foldl computeReset s.d) 0) 1) s.mg.xd
        (fun io => { io with inReset := false, held := true }),
      mg := { s.mg with reason := reason, boot := .minimal } } := by
  simp [failStart, h, minimalData, startFails, hf]

/-- The reasons a start may fail for, by its phase. -/
theorem mayFail_iff (m : Mgmt) (reason : BitVec 8) :
    mayFail m reason = true ↔ m.boot ≠ .started ∧ m.boot ≠ .minimal ∧ m.failed = false ∧
      ((m.boot = .rom ∨ m.boot = .verify) → reason ≠ 0 ∧ reason.toNat = verifyFlash m) ∧
      (m.boot = .train → reason = 5 ∨ reason = 6 ∨ reason = 7) ∧
      (m.boot = .load → reason ≠ 0 ∧ (0x80 + reason) ∈ m.fes) := by
  rw [mayFail, Bool.and_eq_true, starting_iff]
  cases hb : m.boot <;> simp [List.any_beq', or_assoc]

theorem starting_of_mayFail {m : Mgmt} {reason : BitVec 8} (h : mayFail m reason = true) : starting m = true :=
  (Bool.and_eq_true_iff.mp h).1

/-- The two events at which a start fails, and when each may. -/
theorem exec_start_fails {i : Instr} {reason : BitVec 8}
    (hi : i = .startFail reason ∨ (i = .startTimeout ∧ reason = 8)) (s : State) :
    ∃ may, exec i s = failStart may reason s ∧
      (may s.mg = true ↔ (s.mg.boot ≠ .started ∧ s.mg.boot ≠ .minimal ∧ s.mg.failed = false) ∧
        (i = .startTimeout ∨ mayFail s.mg reason = true)) := by
  rcases hi with rfl | ⟨rfl, rfl⟩
  · refine ⟨(mayFail · reason), rfl, ?_⟩
    have hstart := fun h => (starting_iff s.mg).mp (starting_of_mayFail (reason := reason) h)
    simp only [reduceCtorEq, false_or]
    exact ⟨fun h => ⟨hstart h, h⟩, And.right⟩
  · refine ⟨starting, rfl, ?_⟩
    simp [starting_iff]

/-! ## Verification of an image (R298, R300) -/

theorem verifyFlash_le (m : Mgmt) : verifyFlash m ≤ 10 := by
  unfold verifyFlash
  dsimp only
  split_ifs <;> simp

theorem verifyFlash_unreadable (m : Mgmt) (h : Config.imageReadable m.flash = false) : verifyFlash m = 10 := by
  simp [verifyFlash, h]

/-- A reason other than k, before the rest of a chain of reasons. -/
theorem reason_eq_iff_of_ne {c : Prop} [Decidable c] {n k x : Nat} (hn : n ≠ k) :
    (if c then n else x) = k ↔ ¬ c ∧ x = k := by
  split <;> simp [*]

/-- Reason 3 is a security version below the fused one. -/
theorem svn_lt_of_verifyFlash {m : Mgmt} (h : verifyFlash m = 3) : Config.imageSvn m.flash % 2 ^ 8 < m.svn.toNat := by
  simp only [verifyFlash, reason_eq_iff_of_ne (by decide : (10 : Nat) ≠ 3), reason_eq_iff_of_ne (by decide : (4 : Nat) ≠ 3),
    reason_eq_iff_of_ne (by decide : (9 : Nat) ≠ 3), reason_eq_iff_of_ne (by decide : (1 : Nat) ≠ 3),
    reason_eq_iff_of_ne (by decide : (2 : Nat) ≠ 3)] at h
  obtain ⟨-, -, -, -, -, h⟩ := h
  split at h
  · assumption
  · cases h

/-- A key that is fused and not revoked. -/
theorem good_key_iff (o : Option Bool) : o = some false ↔ ¬ o = some true ∧ ¬ o = none := by
  rcases o with _ | _ | _ <;> simp

/-- An image verifies where it is readable, well formed, signed with good keys and not older than the fuses say. -/
theorem verifyFlash_eq_zero_iff (m : Mgmt) :
    verifyFlash m = 0 ↔ Config.imageReadable m.flash = true ∧ Config.imageFormed m.flash = true ∧
      keyFuse m.ecdsaFuses (Config.imageEcdsaKey m.flash) = some false ∧ Config.imageEcdsaGood m.flash = true ∧
      keyFuse m.lmsFuses (Config.imageLmsKey m.flash) = some false ∧ Config.imageLmsGood m.flash = true ∧
      m.svn.toNat ≤ Config.imageSvn m.flash % 2 ^ 8 := by
  simp only [verifyFlash, reason_eq_iff_of_ne (by decide : (10 : Nat) ≠ 0), reason_eq_iff_of_ne (by decide : (4 : Nat) ≠ 0),
    reason_eq_iff_of_ne (by decide : (9 : Nat) ≠ 0), reason_eq_iff_of_ne (by decide : (1 : Nat) ≠ 0),
    reason_eq_iff_of_ne (by decide : (2 : Nat) ≠ 0), reason_eq_iff_of_ne (by decide : (3 : Nat) ≠ 0), good_key_iff,
    not_or, Bool.or_eq_true, Option.isNone_iff_eq_none, Bool.not_eq_true', Bool.not_eq_false, not_lt]
  tauto

/-! ## The release of a die (R22, R25, R298) -/

/-- A start at VERIFY releases its first die where the image verifies. -/
theorem mayRelease_of_verify {m : Mgmt} (hboot : m.boot = .verify) (hfailed : m.failed = false) :
    mayRelease m = (verifyFlash m == 0) := by
  rw [mayRelease, (starting_iff m).mpr (by simp [hboot, hfailed]), hboot]
  rfl

/-- A die is released with what its release does to the start. -/
theorem exec_dieLeavesReset_released (die : Nat) (s : State) (hmay : mayRelease s.mg = true)
    (hgood : selfTestBad s.mg die = false) :
    exec (.dieLeavesReset die) s = .next { s with
      d := dieRelease s.d die, mg := if s.mg.boot = .verify then { s.mg with boot := .train } else s.mg } := by
  have hgood' : selfTestBad (if s.mg.boot = .verify then { s.mg with boot := .train } else s.mg) die = false := by
    split <;> exact hgood
  simp [exec, execDieLeavesReset, releaseMgmt, hmay, hgood, hgood']

/-- A die that may not be released stays in reset. -/
theorem exec_dieLeavesReset_held (die : Nat) (s : State) (hmay : mayRelease s.mg = false) :
    exec (.dieLeavesReset die) s = .next s := by
  simp [exec, execDieLeavesReset, releaseMgmt, hmay]

/-- X0 fails its self-test: it stays in reset, and X1 is the host I/O die. -/
theorem exec_dieLeavesReset_bad (die : Nat) (s : State) (hboot : s.mg.boot = .started) (hbad : selfTestBad s.mg die = true) :
    exec (.dieLeavesReset die) s = .next { s with mg := { s.mg with bad := [0], xd := 1 } } := by
  simp [exec, execDieLeavesReset, releaseMgmt, mayRelease, hboot, hbad]

/-! ## The boot ROM (R298, R299) -/

/-- The cores of an I/O die are in the boot ROM, at a start that has not failed or while STARTED. -/
theorem mayBoot_iff (s : State) (x : Nat) :
    mayBoot s x = true ↔ (getIo s.d x).inReset = false ∧ (getIo s.d x).held = false ∧ s.mg.fes.getD x 0 = 0 ∧
      (s.mg.boot = .started ∨ (s.mg.failed = false ∧ (s.mg.boot = .train ∨ s.mg.boot = .load))) := by
  rw [mayBoot, starting]
  cases s.mg.boot <;> simp [and_assoc]

/-- A boot ROM that may not boot changes nothing. -/
theorem exec_rookBoot_idle (s : State) (x : Nat) (h : mayBoot s x = false) : exec (.rookBoot x) s = .next s := by
  simp [exec, execRookBoot, h]

/-- BOOTSTS goes on from phase a to phase b. -/
theorem boot_goes_on (m : Mgmt) (a b : BootState) :
    (if m.boot = a then { m with boot := b } else m) = { m with boot := if m.boot = a then b else m.boot } := by
  split <;> rfl

/-- A boot ROM that refuses the image leaves the reason in the die's status counter (R299). -/
theorem exec_rookBoot_refused (s : State) (x : Nat) (h : mayBoot s x = true) (hv : verifyFlash s.mg ≠ 0) :
    exec (.rookBoot x) s = .next { s with mg := { s.mg with
      boot := if s.mg.boot = .train then .load else s.mg.boot,
      fes := s.mg.fes.set x (BitVec.ofNat 8 (0x80 + verifyFlash s.mg)) } } := by
  simp [exec, execRookBoot, h, hv, boot_goes_on]

/-- A boot ROM whose image verifies starts the cores (R299). -/
theorem exec_rookBoot_boots (s : State) (x : Nat) (h : mayBoot s x = true) (hv : verifyFlash s.mg = 0) :
    exec (.rookBoot x) s = .next { s with
      d := bootCores s.d x s.mg.flash,
      mg := { s.mg with boot := if s.mg.boot = .train then .load else s.mg.boot, fes := s.mg.fes.set x 1 } } := by
  simp [exec, execRookBoot, h, hv, boot_goes_on]

end Sys2Proof.Machine
end

section
/-!
PROOF. Clock steps, telemetry, start-up and recovery; die resets, FLR and the boot ROM.
-/

namespace Sys2Proof.Machine

open Sys2Proof.Safety

/-- Settles O54: each event by its own function; a start fails at two events, of which one brings its reason. -/
theorem startUpSteps : Obligations.StartUpSteps := by
  unfold Obligations.StartUpSteps
  rintro s fresh rfl
  refine ⟨rfl, rfl, fun die n => ⟨_, rfl⟩, ⟨_, rfl⟩, rfl, ?complete, ?incomplete, ?fails, mayFail_iff, ?image, ?rom, ?train,
    ?held, ?minimal, ?normal⟩
  case complete =>
    intro hboot hfailed hfe
    simp only [exec, execStartComplete, nextDM_eq, if_pos (And.intro hboot (And.intro hfailed hfe)), id]
    rfl
  case incomplete =>
    intro h
    have hnot : ¬(s.mg.boot = .load ∧ s.mg.failed = false ∧ s.mg.fes.getD s.mg.xd 0 = 1) := by
      rintro ⟨hboot, hfailed, hfe⟩
      rcases h with h | h | h
      · exact h hboot
      · exact absurd h (by simp [hfailed])
      · exact h hfe
    simp only [exec, execStartComplete, nextDM_eq, if_neg hnot, id]
  case fails =>
    rintro i reason going hi rfl
    obtain ⟨may, hexec, hmay⟩ := exec_start_fails hi s
    refine ⟨fun h => ?_, fun hgoing h => ?_⟩
    · rw [hexec, failStart_refused]
      rw [← Bool.not_eq_true, hmay]
      rintro ⟨hgoing, htime | hfail⟩
      · exact h.elim (absurd hgoing) fun ⟨hi, _⟩ => nomatch htime.symm.trans hi
      · exact h.elim (absurd hgoing) fun ⟨_, hno⟩ => absurd hfail (by simp [hno])
    · have hmay' := hmay.mpr ⟨hgoing, h⟩
      rw [hexec]
      exact ⟨failStart_again may reason s hmay', failStart_minimal may reason s hmay'⟩
  case image =>
    exact fun m => ⟨verifyFlash_le m, verifyFlash_eq_zero_iff m, verifyFlash_unreadable m, svn_lt_of_verifyFlash⟩
  case rom =>
    intro ts hts
    simp only [step, hts]
    rfl
  case train =>
    intro c hc hboot hfailed
    have hgood : selfTestBad s.mg c = false := by simp [selfTestBad, show c ≠ 4 by omega]
    have hmay := mayRelease_of_verify hboot hfailed
    refine ⟨fun hv => ?_, fun hv => exec_dieLeavesReset_held c s (by simp [hmay, hv])⟩
    rw [exec_dieLeavesReset_released c s (by simp [hmay, hv]) hgood, dieRelease, if_pos hc, if_pos hboot]
  case held =>
    intro die h
    refine exec_dieLeavesReset_held die s ?_
    rcases h with h | h | ⟨hboot, hfailed⟩
    · simp [mayRelease, starting, h]
    · simp [mayRelease, starting, h]
    · simp [mayRelease, starting, hboot, hfailed]
  case minimal =>
    intro hboot
    refine ⟨?_, ?_, ?_⟩ <;> simp [exec, execRcmdAppend, execRcmdVerify, execRcmdStart, hboot, startBegins]
  case normal =>
    intro hboot
    refine ⟨?_, ?_, ?_⟩ <;> simp [exec, execRcmdAppend, execRcmdVerify, execRcmdStart, hboot]

/-- Settles O55. -/
theorem resetsAndBoot : Obligations.ResetsAndBoot := by
  unfold Obligations.ResetsAndBoot
  refine ⟨?compute, ?io, ?release, ?flr, ?boot⟩
  case compute =>
    intro s die hdie
    refine ⟨?_, fun d => rfl⟩
    simp only [exec, execDieReset, nextDM_eq, dieInReset, if_pos hdie]
  case io =>
    rintro s x d - rfl
    simp only [exec, execDieReset, nextDM_eq, dieInReset, if_neg (by omega : ¬ 4 + x < 4), Nat.add_sub_cancel_left]
    rfl
  case release =>
    intro s die hboot _
    refine ⟨fun hdie hbad => exec_dieLeavesReset_bad die s hboot (by simp [selfTestBad, hdie, hbad]), fun h => ?_⟩
    have hgood : selfTestBad s.mg die = false := by
      rcases h with h | h <;> simp [selfTestBad, h]
    rw [exec_dieLeavesReset_released die s (by simp [mayRelease, hboot]) hgood, if_neg (by simp [hboot])]
    rfl
  case flr =>
    rintro s d rfl
    rfl
  case boot =>
    rintro s x inRom rfl
    rw [← mayBoot_iff]
    exact ⟨fun h => exec_rookBoot_idle s x (by simpa using h), exec_rookBoot_refused s x, exec_rookBoot_boots s x⟩

end Sys2Proof.Machine
end

section
/-!
PROOF SUPPORT. LAY at issue and its element in a Firn engine (R67, R75, R382, R383).
-/

namespace Sys2Proof.Machine

open Sys2Proof.Safety

/-- LAY with its registers, its tag and its accesses free makes its issue checks. -/
theorem exec_lay_ready {s : State} {g : Guard} {tag : BitVec 6} {a b : BitVec 5} (h : Ready s g [a, b])
    (htag : tag = 0 ∨ (curTp s.d).busy.contains tag = false)
    (hheld : heldBy (getFloe s.d s.d.curF) (curTp s.d) true true false = false) :
    exec (.lay g tag a b) s = .next { s with d := layIssue s.d tag (rs s.d a) (rs s.d b) } := by
  show nextD s (fun d => issue d g [a, b] (fun d => tagFree d tag (fun d => whenFree d true true false (fun d =>
    layIssue d tag (rs d a) (rs d b))))) = _
  rw [nextD_eq, issue_of_ready h, tagFree_of_free _ htag, whenFree_of_not_held _ hheld]

/-- A failed check of LAY traps (R382). -/
theorem layIssue_fails {d : Data} {tag : BitVec 6} {dmw b : Word} {cls cause : Nat}
    (h : layCheck d dmw b ((getFloe d d.curF).lcache.getD (wb b 0 6) none)
      ((getFloe d d.curF).lcache.getD (wb b 8 6) none) = some (cls, cause)) :
    layIssue d tag dmw b = trap d cls cause := by
  simp only [layIssue, h]

/-- A LAY that passes its checks joins its die's queue, or waits for room in it (R382). -/
theorem layIssue_passes {d : Data} {tag : BitVec 6} {dmw b : Word}
    (h : layCheck d dmw b ((getFloe d d.curF).lcache.getD (wb b 0 6) none)
      ((getFloe d d.curF).lcache.getD (wb b 8 6) none) = none) :
    layIssue d tag dmw b =
      if (getDie d (dieOf d.curF)).firnQ.length < firnQueueSize then
        retire (layQueue d tag dmw (((getFloe d d.curF).lcache.getD (wb b 0 6) none).getD [])
          (((getFloe d d.curF).lcache.getD (wb b 8 6) none).getD []))
      else blockCur d (.stall .firn) := by
  simp only [layIssue, h]

theorem layStart_oldest {d : Data} {die n : Nat} {c : LayCmd} {cs : List LayCmd} (hq : (getDie d die).firnQ = c :: cs)
    (hn : (getDie d die).firn.findIdx? Option.isNone = some n) (hafter : afterDone d c.owner c.after = true) :
    layStart d die = modDie d die (fun x => { x with firnQ := cs, firn := x.firn.set n (some c) }) := by
  simp only [layStart, hq, hn, if_pos hafter]

/-- A LAY that moves nothing. -/
theorem layStill_iff (d : Data) (die n : Nat) (c : LayCmd) :
    layStill d die n c = true ↔ c.stopped = true ∨ unitHeld d 3 die n = true ∨ layTotal c ≤ c.pos ∨
      ((lteSpace c.src = 0 ∨ lteSpace c.dst = 0) ∧ (layHalted d c = true ∨ (getFloe d c.floe).frozen = true)) := by
  have htouch : layTouches c c.floe = true ↔ lteSpace c.src = 0 ∨ lteSpace c.dst = 0 := by simp [layTouches]
  have hhalt : layHalted d c = true → lteSpace c.src = 0 ∨ lteSpace c.dst = 0 := by
    intro h
    rw [layHalted, Bool.and_eq_true] at h
    exact htouch.mp h.1
  simp only [layStill, Bool.or_eq_true, Bool.and_eq_true, decide_eq_true_eq, htouch]
  tauto

theorem layElement_still {d : Data} {die n : Nat} {c : LayCmd} (hc : firnCmd d die n = some c) (h : layStill d die n c = true) :
    layElement d die n = d := by
  simp only [layElement, hc, if_pos h]

/-- An element that cannot be read stops the LAY at it (R383). -/
theorem layElement_unread {d d1 : Data} {die n : Nat} {c : LayCmd} {fc : Nat × Nat} (hc : firnCmd d die n = some c)
    (h : layStill d die n c = false) (hr : reachElem d (reqFloe c.floe) c.src (laySrc c) .read = (d1, .error fc)) :
    layElement d die n = layStop d1 die n c false (elemAddr c.src (laySrc c)) fc := by
  simp only [layElement, hc, h, hr, Bool.false_eq_true, if_false]

/-- An element that cannot be written stops the LAY at it (R383). -/
theorem layElement_unwritten {d d1 d2 : Data} {die n : Nat} {c : LayCmd} {fc : Nat × Nat} {ps : List Piece}
    (hc : firnCmd d die n = some c) (h : layStill d die n c = false)
    (hr : reachElem d (reqFloe c.floe) c.src (laySrc c) .read = (d1, .ok ps))
    (hw : reachElem d1 (reqFloe c.floe) c.dst (layDst c) .write = (d2, .error fc)) :
    layElement d die n = layStop d2 die n c true (elemAddr c.dst (layDst c)) fc := by
  simp only [layElement, hc, h, hr, hw, Bool.false_eq_true, if_false]

/-- An element that can be read and written is copied bit for bit (R67). -/
theorem layElement_copied {d d1 d2 d3 : Data} {die n : Nat} {c : LayCmd} {ps qs : List Piece} (hc : firnCmd d die n = some c)
    (h : layStill d die n c = false) (hr : reachElem d (reqFloe c.floe) c.src (laySrc c) .read = (d1, .ok ps))
    (hw : reachElem d1 (reqFloe c.floe) c.dst (layDst c) .write = (d2, .ok qs))
    (h3 : d3 = if lteSpace c.src = 0 then useBanks d2 c.floe ps else d2) :
    layElement d die n =
      setFirn (layWrite d3 die n c qs (pieceRead d3 ps) (piecePoisoned d3 ps)) die n (some { c with pos := c.pos + 1 }) := by
  simp only [layElement, hc, h, hr, hw, h3, Bool.false_eq_true, if_false]

/-- A LAY with every element written ends (R75). -/
theorem layComplete_ends {d : Data} {die n : Nat} {c : LayCmd} (hc : firnCmd d die n = some c) (hpos : layTotal c ≤ c.pos)
    (hw : (getFloe d c.floe).writes.any (fun w => w.src == 3 && w.key == 8 * die + n) = false) :
    layComplete d die n = engineEnd (setFirn d die n none) c.owner c.tag c.wno := by
  simp [layComplete, hc, hpos, hw]

/-- A command of an engine ends: its tag is set and its counted write has performed (R91, R201). -/
theorem engineEnd_eq (d : Data) (o : Owner) (tag : BitVec 6) (wno : Nat) :
    engineEnd d o tag wno = modOwner d o (fun t => { t with
      tags := if tag = 0 then t.tags else t.tags ||| BitVec.ofNat 64 (2 ^ tag.toNat),
      busy := t.busy.erase tag, undone := t.undone.filter (fun x => x != wno) }) := by
  rw [engineEnd]
  congr 1
  funext t
  unfold setTag
  split <;> rfl

end Sys2Proof.Machine
end

section
/-!
PROOF. The Firn layout engines.
-/

namespace Sys2Proof.Machine

open Sys2Proof.Safety

/-- Settles O35, by what each of the four steps of a LAY makes of the data. -/
theorem layoutEngineRuns : Obligations.LayoutEngineRuns := by
  unfold Obligations.LayoutEngineRuns
  refine ⟨?issue, ?start, ?element, ?complete⟩
  case issue =>
    rintro s g tag a b src dst hready htag hheld rfl rfl
    rw [show rn s.d b % 2 ^ 6 = wb (rs s.d b) 0 6 from (wb_low _ _).symm,
      show rn s.d b / 2 ^ 8 % 2 ^ 6 = wb (rs s.d b) 8 6 from rfl]
    have hexec := exec_lay_ready hready htag hheld
    exact ⟨fun cls cause hcheck => leavesData_of_eq (layIssue_fails hcheck) hexec,
      fun hcheck => ⟨fun hroom => leavesData_of_eq ((layIssue_passes hcheck).trans (if_pos hroom)) hexec,
        fun hfull => leavesData_of_eq ((layIssue_passes hcheck).trans (if_neg (by omega))) hexec⟩⟩
  case start => exact fun s die n c cs hq hn hafter => leavesData_of_eq (layStart_oldest hq hn hafter)
  case element =>
    rintro s die n c sx dx touches hc rfl rfl rfl
    refine ⟨fun h => exec_kept_of_eq (layElement_still hc ((layStill_iff s.d die n c).mpr h)),
      fun hstop hheld hpos hhalt hfrozen => ?_⟩
    have hstill : layStill s.d die n c = false := by
      rw [← Bool.not_eq_true, layStill_iff]
      simp only [hstop, hheld, hhalt, Nat.not_le.mpr hpos, Bool.false_eq_true, false_or]
      exact hfrozen
    refine ⟨fun d fc hr => leavesData_of_eq (layElement_unread hc hstill hr), fun d d' d2 ps qs fc hr hd2 => ?_⟩
    refine ⟨fun hw => leavesData_of_eq (layElement_unwritten hc hstill hr hw), fun hw => ?_⟩
    have hcopied := layElement_copied hc hstill hr hw hd2
    refine ⟨fun hspace => leavesData_of_eq (hcopied.trans ?_), fun hspace => leavesData_of_eq (hcopied.trans ?_)⟩
    · rw [layWrite, if_neg hspace]
    · rw [layWrite, if_pos hspace]
  case complete =>
    intro s die n c hc hpos hw
    exact leavesData_of_eq ((layComplete_ends hc hpos hw).trans (engineEnd_eq _ _ _ _))

end Sys2Proof.Machine
end

section
/-!
PROOF SUPPORT. What the halt, save, restore and stalemate of a region make of the data (R274-R279).
-/

namespace Sys2Proof.Machine

open Sys2Proof.Safety

/-! ## Halt and save of a floe (R274, R277) -/

/-- A floe of a region that is not SAVING runs on. -/
theorem sequencerHalt_not_saving {d : Data} {f lid : Nat} {r : Region} (hl : (getFloe d f).lid = some lid)
    (hr : getRegion d lid = some r) (hst : r.st ≠ .saving) : sequencerHalt d f = d := by
  simp only [sequencerHalt, hl, hr, if_pos (Or.inl hst)]

/-- A floe of a SAVING region is masked, and halts once it is quiet. -/
theorem sequencerHalt_saving {d : Data} {f lid : Nat} {r : Region} (hl : (getFloe d f).lid = some lid)
    (hr : getRegion d lid = some r) (hst : r.st = .saving) (hh : (getFloe d f).halted = false) :
    sequencerHalt d f =
      if floeQuiet (getFloe (modFloe d f maskFloe) f) = true then
        modFloe (haltLds (withdraw (modFloe d f maskFloe) f) f) f (fun fl => { fl with
          halted := true, slots := fl.slots.map (fun sl => if sl.st = .empty then sl else haltSlot sl),
          streams := fl.streams.map (fun e => e.map haltCmd) })
      else modFloe d f maskFloe := by
  simp [sequencerHalt, hl, hr, hst, hh]

/-- A floe is saved while its region is SAVING, and once. -/
theorem floeSave_idle {d : Data} {f lid : Nat} {r : Region} (hl : (getFloe d f).lid = some lid) (hr : getRegion d lid = some r)
    (h : r.st ≠ .saving ∨ r.savedFloes.any (fun x => x.entry == (getFloe d f).entry) = true) : floeSave d f = d := by
  simp only [floeSave, hl, hr]
  rw [if_neg]
  rintro ⟨hst, -, -, hnew⟩
  rcases h with h | h
  · exact h hst
  · exact absurd (h.symm.trans hnew) (by decide)

theorem floeSave_saves {d : Data} {f lid : Nat} {r : Region} (hl : (getFloe d f).lid = some lid) (hr : getRegion d lid = some r)
    (hst : r.st = .saving) (hh : (getFloe d f).halted = true) (hheld : recHeldFor d f = false)
    (hnew : r.savedFloes.any (fun x => x.entry == (getFloe d f).entry) = false) : floeSave d f = saveFloe d f r := by
  simp only [floeSave, hl, hr, if_pos (And.intro hst (And.intro hh (And.intro hheld hnew)))]

/-! ## Restore (R276) -/

theorem regionRestore_idle {d : Data} {lid : Nat} {r : Region} (hr : getRegion d lid = some r) (hst : r.st ≠ .restoring) :
    regionRestore d lid = d := by
  simp only [regionRestore, hr, if_pos (Or.inl hst)]

/-- A RESTORING region whose floes are ready tries its reads. -/
theorem restoring_ready {d : Data} {r : Region} (hst : r.st = .restoring) (hready : ∀ f ∈ r.floes, floeReady d f = true) :
    ¬ (r.st ≠ .restoring ∨ ! r.floes.all (floeReady d) = true) := by
  simpa [hst] using hready

theorem regionRestore_restored {d d' : Data} {lid : Nat} {r : Region} (hr : getRegion d lid = some r) (hst : r.st = .restoring)
    (hready : ∀ f ∈ r.floes, floeReady d f = true) (hreads : restoreReads d r (List.range r.floes.length) = (d', .ok ())) :
    regionRestore d lid = becomeResident (retryEngines (modRegion ((List.range r.floes.length).foldl (restoreFloe r) d') lid
      (fun z => { z with savedFloes := [], savedCells := [] })) lid) lid := by
  simp only [regionRestore, hr, if_neg (restoring_ready hst hready), hreads]

theorem regionRestore_failed {d d' : Data} {lid a : Nat} {r : Region} {fc : Nat × Nat} (hr : getRegion d lid = some r)
    (hst : r.st = .restoring) (hready : ∀ f ∈ r.floes, floeReady d f = true)
    (hreads : restoreReads d r (List.range r.floes.length) = (d', .error (fc, a))) :
    regionRestore d lid = areaFault d' r fc a := by
  simp only [regionRestore, hr, if_neg (restoring_ready hst hready), hreads]

/-! ## Stalemate (R278, R279) -/

theorem regionStalemate_judged {d : Data} {lid : Nat} {r : Region} (hr : getRegion d lid = some r) (hst : r.st = .resident)
    (hwork : regionWork d r = true) (hquiet : ∀ f ∈ r.floes, r.slim ≤ (getFloe d f).quiet) :
    regionStalemate d lid = declareStalemate d r 4 0 := by
  have hall : r.floes.all (fun f => decide (r.slim ≤ (getFloe d f).quiet)) = true := by simpa using hquiet
  simp only [regionStalemate, hr, if_pos (And.intro hst (And.intro hall hwork))]

theorem regionStalemate_idle {d : Data} {lid : Nat} {r : Region} (hr : getRegion d lid = some r)
    (h : r.st ≠ .resident ∨ regionWork d r = false ∨ ∃ f ∈ r.floes, (getFloe d f).quiet < r.slim) :
    regionStalemate d lid = d := by
  simp only [regionStalemate, hr]
  rw [if_neg]
  rintro ⟨hst, hquiet, hwork⟩
  rcases h with h | h | ⟨f, hf, h⟩
  · exact h hst
  · exact absurd (h.symm.trans hwork) (by decide)
  · exact absurd (of_decide_eq_true (List.all_eq_true.mp hquiet f hf)) (by omega)

theorem drainStalemate_judged {d : Data} {f lid : Nat} {r : Region} (hl : (getFloe d f).lid = some lid)
    (hr : getRegion d lid = some r) (hst : r.st = .resident) (hquiet : r.slim ≤ (getFloe d f).quiet)
    (hdrain : (getFloe d f).cfg.state = .draining ∨ (getFloe d f).deltaMask = true) :
    drainStalemate d f = declareStalemate d r 5 (getFloe d f).entry := by
  simp only [drainStalemate, hl, hr, if_pos (And.intro hst (And.intro hquiet hdrain))]

theorem drainStalemate_early {d : Data} {f lid : Nat} {r : Region} (hl : (getFloe d f).lid = some lid)
    (hr : getRegion d lid = some r) (hquiet : (getFloe d f).quiet < r.slim) : drainStalemate d f = d := by
  simp only [drainStalemate, hl, hr]
  rw [if_neg]
  rintro ⟨-, hle, -⟩
  omega

end Sys2Proof.Machine
end

section
/-!
PROOF. Regions: halt, save, restore and stalemate; and the quantum of two regions that share an identity.
-/

namespace Sys2Proof.Machine

open Sys2Proof.Safety

/-- Settles O51. -/
theorem regionsSaveAndRestore : Obligations.RegionsSaveAndRestore := by
  unfold Obligations.RegionsSaveAndRestore
  refine ⟨fun s f lid r d hl hr => ⟨?running, ?halt, ?save⟩,
    fun s lid r hr => ⟨?idle, ?restored, ?failed, ?judged, ?kept, ?drain⟩⟩
  case running =>
    exact fun hst => ⟨exec_kept_of_eq (sequencerHalt_not_saving hl hr hst), exec_kept_of_eq (floeSave_idle hl hr (.inl hst))⟩
  case halt =>
    rintro hst hh rfl
    have hhalt := sequencerHalt_saving hl hr hst hh
    exact ⟨fun hbusy => leavesData_of_eq (hhalt.trans (if_neg (by rw [Bool.not_eq_true]; exact hbusy))),
      fun hquiet => leavesData_of_eq (hhalt.trans (if_pos hquiet))⟩
  case save =>
    exact fun hst hh hheld => ⟨fun hold => exec_kept_of_eq (floeSave_idle hl hr (.inr hold)),
      fun hnew => leavesData_of_eq (floeSave_saves hl hr hst hh hheld hnew)⟩
  case idle => exact fun hst => exec_kept_of_eq (regionRestore_idle hr hst)
  case restored =>
    exact fun d hst hready hreads => leavesData_of_eq (regionRestore_restored hr hst hready hreads)
  case failed =>
    exact fun d fc a hst hready hreads => leavesData_of_eq (regionRestore_failed hr hst hready hreads)
  case judged => exact fun hst hwork hquiet => leavesData_of_eq (regionStalemate_judged hr hst hwork hquiet)
  case kept => exact fun h => exec_kept_of_eq (regionStalemate_idle hr h)
  case drain =>
    exact fun f hl hst =>
      ⟨fun hquiet hdrain => leavesData_of_eq (drainStalemate_judged hl hr hst hquiet hdrain),
        fun hearly => exec_kept_of_eq (drainStalemate_early hl hr hearly)⟩

/-- A RESIDENT region of launch 0 whose packets I/O die x processed, with a quantum of no length and a TP still to place. -/
def twinRegion (x : Nat) : Region :=
  { lid := 0, queue := 0, x := x, pri := 0, age := 0, floes := [], st := .resident, hdr := [], slim := 0, trans := 0,
    delta := (0, 0), signal := (0, 0), sigVal := 0, qnt := 0, tps := [.waiting], parkedTps := [], mail := [], discards := 0,
    dlProd := 0, loaded := true, quantumAt := 0, expired := false, saves := 0, savedFloes := [], savedCells := [], lvsz := 31,
    held := false, claim := false }

/-- Two regions of launch 0, one of each I/O die, where the front end of X0 alone has counted a cycle. -/
def twinState : State :=
  { State.reset with d := { Data.reset with
      regions := [twinRegion 0, twinRegion 1], ios := [{ IoDie.reset with feCount := 1 }, IoDie.reset] } }

/-- A new quantum of each begins at the count of its own I/O die's front end. -/
theorem regions_quantumExpire_twin :
    (quantumExpire twinState.d 0).regions.map (fun r => r.quantumAt) = [1, 0] := rfl

/-- Refutes O50: of two regions that share an identity but not their I/O die, a quantum that ends gives each a new one from
the count of its own die's front end, where the clause gives both the first one's. (A LAUNCH takes the identity from the
region that had it, R253; the clause speaks of every state, and so of those with two.) -/
theorem not_regionsAreScheduled : ¬ Obligations.RegionsAreScheduled := by
  unfold Obligations.RegionsAreScheduled
  rintro ⟨-, -, -, -, hquantum, -⟩
  have hends := (hquantum twinState 0 (twinRegion 0) rfl).1 rfl rfl (by decide) rfl
  have hdata : quantumExpire twinState.d 0 = _ := data_eq_of_leavesData hends
  have hcounts := regions_quantumExpire_twin
  rw [hdata] at hcounts
  exact absurd hcounts (by decide +kernel)

end Sys2Proof.Machine
end

section
/-!
PROOF SUPPORT. The mailbox, reads and writes of BAR0, RETRY and ATCMD (R23, R265, R271, R284, R292, R457).
-/

namespace Sys2Proof.Machine

open Sys2Proof.Safety

/-! ## The mailbox (R23, R457) -/

/-- The oldest held record enters a mailbox with room; one of an embedding engine lets that engine go on. -/
theorem heldRecord_enters {d : Data} {x loc : Nat} {ws : List Word} {rest : List (List Word)}
    (hheld : (getIo d x).heldRecs = ws :: rest) (hroom : mbxRoom d x = some loc) :
    heldRecord d x =
      (let d' := modIo (memWriteWords d loc ws) x (fun io => { io with
          mbxprod := io.mbxprod + 1, unread := io.unread ++ [ws.headD 0], heldRecs := rest })
       if (ws.headD 0).toNat / 2 ^ 19 % 2 ^ 5 = 4 ∧ (ws.headD 0).toNat / 2 ^ 24 % 2 ^ 8 < 4 then
         stepsGo d' ((ws.headD 0).toNat / 2 ^ 24 % 2 ^ 8)
       else d') := by
  have hhead : ws.getD 0 0 = ws.headD 0 := by cases ws <;> rfl
  simp only [heldRecord, hheld, hroom, mbxWrite, modIo_modIo, hhead]
  rfl

theorem heldRecord_waits {d : Data} {x : Nat} (h : (getIo d x).heldRecs = [] ∨ mbxRoom d x = none) : heldRecord d x = d := by
  unfold heldRecord
  split
  · rename_i hheld hroom
    simp [hheld, hroom] at h
  · rfl

/-- Some queue of the die is enabled. -/
theorem swqs_enabled_any_iff (d : Data) (x : Nat) :
    d.swqs.any (fun e => e.2.x == x && e.2.st != .disabled) = true ↔ ∃ e ∈ d.swqs, e.2.x = x ∧ e.2.st ≠ .disabled := by
  simp

/-- Some launch is live. -/
theorem anyLive_iff (d : Data) : anyLive d = true ↔ ∃ r ∈ d.regions, regionLive r = true := by
  simp [anyLive]

/-- PTROOT on a started module (R265). -/
theorem exec_ptrootWrite {s : State} (v : Word) (hboot : s.mg.boot = .started) :
    exec (.ptrootWrite v) s = .next { s with d := if anyLive s.d = true then s.d else { s.d with ptroot := ptrootBits v } } :=
  hostWrite_started (fun d => if anyLive d = true then d else { d with ptroot := ptrootBits v }) hboot

/-! ## Reads of BAR0 (R284) -/

/-- A window that start-up closes reads as zero. -/
theorem bar0Value_closed {s : State} {off : Nat} (hlo : 0x10000 ≤ off) (hhi : off < 0x2000000) (hboot : s.mg.boot ≠ .started) :
    bar0Value s off = 0 := by
  simp [bar0Value, Nat.not_lt.mpr hlo, Nat.not_le.mpr hhi, hboot]

theorem bar0Value_open {s : State} {off : Nat} (hal : off % 8 = 0) (hlo : 0x10000 ≤ off) (hhi : off < 0x2000000)
    (hboot : s.mg.boot = .started) : bar0Value s off = openReg s.d off := by
  simp [bar0Value, hal, Nat.not_lt.mpr hlo, Nat.not_le.mpr hhi, hboot]

/-- A register of the front end of an I/O die. -/
theorem bar0Value_front {s : State} {x off a : Nat} (hboot : s.mg.boot = .started) (hx : x < 2)
    (hoff : off < 0x1000 ∧ off % 8 = 0) (ha : a = 0x10000 + 0x1000 * x + off) :
    bar0Value s a = frontReg (getIo s.d x) off := by
  subst ha
  rw [bar0Value_open (by omega) (by omega) (by omega) hboot, openReg, if_pos (by omega)]
  congr 2 <;> omega

/-- The staged entry reads back with its reserved bits zero. -/
theorem bar0Value_staged {s : State} {i : Nat} (hboot : s.mg.boot = .started) (hi : i < 8) :
    bar0Value s (0xF0000 + 8 * i) = aclBits i (s.d.staged.getD i 0) := by
  rw [bar0Value_open (by omega) (by omega) (by omega) hboot, openReg, if_neg (by omega), if_neg (by omega), if_neg (by omega),
    if_pos (by omega), show (0xF0000 + 8 * i - 0xF0000) / 8 = i by omega, stagedReg]

/-- An installed entry reads back with its reserved bits zero. -/
theorem bar0Value_acl {s : State} {n : Nat} (hboot : s.mg.boot = .started) (hn : n < 61 * 2048) :
    bar0Value s (0x100000 + 8 * n) = aclBits n (w64 (spGet 0 s.d.acl n)) := by
  rw [bar0Value_open (by omega) (by omega) (by omega) hboot, openReg, if_neg (by omega), if_neg (by omega), if_neg (by omega),
    if_neg (by omega), if_neg (by omega), if_pos (by omega), show (0x100000 + 8 * n - 0x100000) / 8 = n by omega]

/-! ## RETRY and ATCMD (R271, R292) -/

/-- RETRY with a reserved bit set has no effect. -/
theorem exec_retry_reserved {s : State} {v : Word} (hboot : s.mg.boot = .started) (hv : v.toNat / 2 ^ 18 ≠ 0) :
    exec (.retry v) s = .next s := by
  refine exec_kept_of_eq ?_ (hostWrite_started _ hboot)
  exact if_neg (by rwa [wb_high v rfl])

/-- RETRY that names entry e of the stream table of floe f. -/
theorem exec_retry_stream {s : State} {v : Word} {f e : Nat} (hboot : s.mg.boot = .started)
    (hv : v.toNat = 1 + f * 2 ^ 5 + e * 2 ^ 13) (hf : f < 144) (he : e < 2 ^ 5) :
    exec (.retry v) s = .next { s with d := if unitHeld s.d 1 f e then s.d else retryStream s.d f e } := by
  have hres : wb v 18 46 = 0 := by rw [wb_high v rfl, hv]; omega
  have htype : wb v 0 5 = 1 := by rw [wb_low, hv]; omega
  have hunit : wb v 5 8 = f := by rw [wb, fld, hv]; omega
  have hentry : wb v 13 5 = e := by rw [wb, fld, hv]; omega
  have hexec := exec_of_hostWrite (i := .retry v) hboot rfl
  rw [hexec, if_pos hres, htype, hunit, hentry]
  simp only [retryUnit, if_pos hf]

theorem retryStream_stopped {d : Data} {f e : Nat} {c : Cmd} (hc : getCmd d f e = some c) (hst : c.st = .stopped) :
    retryStream d f e = setCmd d f e (some { c with st := .active }) := by
  simp only [retryStream, hc, if_pos hst]

theorem retryStream_running {d : Data} {f e : Nat} {c : Cmd} (hc : getCmd d f e = some c) (hst : c.st ≠ .stopped) :
    retryStream d f e = d := by
  simp only [retryStream, hc, if_neg hst]

/-- What ATCMD does on a started module. -/
def atcmdEffect (v : Word) (d : Data) : Data :=
  if v.getLsbD 31 = false then { d with atcmd := v &&& ~~~(0x40000000#64) }
  else if 60 < wb v 0 6 ∨ stagedBad d.staged = true then { d with atcmd := v &&& ~~~(0x40000000#64) ||| 0x40000000#64 }
  else aclInstall { d with atcmd := v &&& ~~~(0x40000000#64) } (wb v 0 6) (wb v 8 8)

theorem exec_atcmd {s : State} (v : Word) (hboot : s.mg.boot = .started) :
    exec (.atcmd v) s = .next { s with d := atcmdEffect v s.d } := hostWrite_started (atcmdEffect v) hboot

/-! ## Register writes (R284) -/

/-- A register write off the staging buffer changes its register alone. -/
theorem exec_registerWrite {s : State} {off : Nat} (v : Word) (hoff : off < 0x2000000) :
    exec (.registerWrite off v) s = .next { s with d := regWrite s.d (s.mg.boot == .started) off v } := by
  rw [show exec (.registerWrite off v) s = .next { s with
      d := regWrite s.d (s.mg.boot == .started) off v, mg := stageWrite s.mg off v } from rfl,
    stageWrite_outside s.mg off v (.inr (.inl hoff))]

theorem regWrite_staged {d : Data} {i : Nat} (v : Word) (hi : i < 8) :
    regWrite d true (0xF0000 + 8 * i) v = { d with staged := d.staged.set i v } := by
  rw [regWrite, if_neg (by omega), if_neg (by omega), if_neg (by simp), if_pos (by omega),
    show (0xF0000 + 8 * i - 0xF0000) / 8 = i by omega]

theorem regWrite_route {d : Data} {i : Nat} (v : Word) (hi : i < 1024) (hlive : anyLive d = false) :
    regWrite d true (0x1000000 + 8 * i) v = { d with routes := spSet 0 d.routes i (v.toNat % 2 ^ 12) } := by
  rw [regWrite, if_neg (by omega), if_neg (by omega), if_neg (by simp), if_neg (by omega), if_pos (by omega),
    if_neg (by simp [hlive]), show (0x1000000 + 8 * i - 0x1000000) / 8 = i by omega, wb_low]

theorem regWrite_modid {d : Data} (started : Bool) (v : Word) : regWrite d started 0x8 v = { d with modid := v.truncate 16 } := by
  have hlow : BitVec.ofNat 16 (wb v 0 16) = v.truncate 16 := by
    rw [wb_low]
    apply BitVec.eq_of_toNat_eq
    simp
  rw [regWrite, if_pos rfl, hlow]

theorem regWrite_hbar {d : Data} (started : Bool) (v : Word) :
    regWrite d started 0x10 v = { d with hbar := BitVec.ofNat 64 (v.toNat / 2 ^ 30 % 2 ^ 22 * 2 ^ 30) } := rfl

end Sys2Proof.Machine
end

section
/-!
PROOF. The host registers.
-/

namespace Sys2Proof.Machine

open Sys2Proof.Safety

/-- Settles O52, register by register. -/
theorem hostRegistersAct : Obligations.HostRegistersAct := by
  unfold Obligations.HostRegistersAct
  refine ⟨fun s x v hreset => ⟨?enter, ?wait, ?paired, rfl, fun hboot => ⟨?cons, ?ignored, ?base, ?baseKept, ?table, ?tableKept,
    ?live, ?root, ?tlbi⟩, ?read, ?closed, ?opened⟩,
    fun s v => ⟨fun hboot => ⟨?reserved, ?retry, ?store, ?go, ?stage, ?staged, ?acl, ?route⟩, ?modid, ?hbar⟩⟩
  case enter =>
    rintro ws rest loc d hheld hroom rfl
    exact leavesData_of_eq (heldRecord_enters hheld hroom)
  case wait => exact fun h => exec_kept_of_eq (heldRecord_waits h)
  case paired =>
    intro hdue
    refine leavesData_of_eq (modIo_congr ?_)
    exact if_pos ⟨hreset, hdue⟩
  case cons =>
    have hexec := exec_of_hostWrite (i := .mbxconsWrite x v) hboot rfl
    exact fun hlo hhi => leavesData_of_eq (if_pos ⟨hreset, hlo, hhi⟩) hexec
  case ignored =>
    have hexec := exec_of_hostWrite (i := .mbxconsWrite x v) hboot rfl
    refine fun h => exec_kept_of_eq (if_neg ?_) hexec
    rintro ⟨-, hlo, hhi⟩
    omega
  case base =>
    have hexec := exec_of_hostWrite (i := .mbxbaseWrite x v) hboot rfl
    exact fun hloc hempty => leavesData_of_eq (if_pos ⟨hreset, Option.isSome_iff_ne_none.mpr hloc, hempty⟩) hexec
  case baseKept =>
    have hexec := exec_of_hostWrite (i := .mbxbaseWrite x v) hboot rfl
    refine fun h => exec_kept_of_eq (if_neg ?_) hexec
    rintro ⟨-, hloc, hempty⟩
    exact h.elim (Option.isSome_iff_ne_none.mp hloc) (absurd hempty)
  case table =>
    have hexec := exec_of_hostWrite (i := .qtbaseWrite x v) hboot rfl
    refine fun hform hoff => leavesData_of_eq (if_pos ⟨hreset, hform, ?_⟩) hexec
    rw [← Bool.not_eq_true, swqs_enabled_any_iff]
    rintro ⟨e, he, hx, hon⟩
    exact hon (hoff e he hx)
  case tableKept =>
    have hexec := exec_of_hostWrite (i := .qtbaseWrite x v) hboot rfl
    refine fun h => exec_kept_of_eq (if_neg ?_) hexec
    rintro ⟨-, hform, hoff⟩
    rw [← Bool.not_eq_true, swqs_enabled_any_iff] at hoff
    exact h.elim (fun hbad => absurd (hbad.symm.trans hform) (by decide)) hoff
  case live =>
    exact fun h => exec_kept_of_eq (if_pos ((anyLive_iff s.d).mpr h)) (exec_ptrootWrite v hboot)
  case root =>
    refine fun h => leavesData_of_eq (if_neg ?_) (exec_ptrootWrite v hboot)
    rw [anyLive_iff]
    rintro ⟨r, hr, hlive⟩
    exact absurd ((h r hr).symm.trans hlive) (by decide)
  case tlbi =>
    show Host.Outcome.next { s with d := if s.mg.boot = BootState.started then _ else s.d } = _
    rw [if_pos hboot]
  case read =>
    intro off ts hts
    simp only [step, hts]
    rfl
  case closed => exact fun off hlo hhi hboot => bar0Value_closed hlo hhi hboot
  case opened =>
    intro hboot hx
    exact ⟨bar0Value_front (off := 0x8) hboot hx (by omega) (by omega),
      bar0Value_front (off := 0x18) hboot hx (by omega) (by omega),
      bar0Value_front (off := 0x20) hboot hx (by omega) (by omega),
      bar0Value_front (off := 0x28) hboot hx (by omega) (by omega),
      bar0Value_open (by omega) (by omega) (by omega) hboot⟩
  case reserved => exact exec_retry_reserved hboot
  case retry =>
    intro f e c hv hf he hc
    rw [LeavesData, exec_retry_stream hboot hv hf he]
    refine ⟨fun hst hheld => ?_, fun h => ?_⟩
    · rw [if_neg (by simp [hheld]), retryStream_stopped hc hst]
    · rcases h with h | h
      · rw [retryStream_running hc h, ite_self]
      · rw [if_pos h]
  case store => exact fun h => leavesData_of_eq (if_pos h) (exec_atcmd v hboot)
  case go =>
    intro hgo
    have heffect : atcmdEffect v s.d = if 60 < v.toNat % 2 ^ 6 ∨ stagedBad s.d.staged = true then
        { s.d with atcmd := v &&& ~~~(0x40000000#64) ||| 0x40000000#64 }
      else aclInstall { s.d with atcmd := v &&& ~~~(0x40000000#64) } (v.toNat % 2 ^ 6) (wb v 8 8) := by
      rw [atcmdEffect, if_neg (by simp [hgo]), wb_low]
    refine ⟨fun hbad => leavesData_of_eq (heffect.trans (if_pos hbad)) (exec_atcmd v hboot), fun ht hok => ?_⟩
    exact leavesData_of_eq (heffect.trans (if_neg (by simp [hok]; omega))) (exec_atcmd v hboot)
  case stage =>
    intro i hi
    refine leavesData_of_eq ?_ (exec_registerWrite v (by omega))
    rw [hboot]
    exact regWrite_staged v hi
  case staged => exact fun i hi => bar0Value_staged hboot hi
  case acl =>
    intro t i ht hi
    rw [show 0x100000 + 0x4000 * t + 8 * i = 0x100000 + 8 * (t * 2048 + i) by omega, bar0Value_acl hboot (by omega), aclBits,
      show (t * 2048 + i) % 2 = i % 2 by omega]
    rfl
  case route =>
    intro i hi hlive
    refine leavesData_of_eq ?_ (exec_registerWrite v (by omega))
    rw [hboot]
    exact regWrite_route v hi hlive
  case modid => exact leavesData_of_eq (regWrite_modid _ v) (exec_registerWrite v (by omega))
  case hbar => exact leavesData_of_eq (regWrite_hbar _ v) (exec_registerWrite v (by omega))

end Sys2Proof.Machine
end

section
/-!
PROOF SUPPORT. A slot changed by what it makes of that slot, a register read back wherever the TP holds it (R27), and what the
ends of PARK, EXIT and a trap and the ageing of a slot make of the data (R39, R44, R45, R269).
-/

namespace Sys2Proof.Machine

/-! ## Slots -/

/-- A change of a slot depends on what it makes of that slot. -/
theorem modSlot_congr {d : Data} {f k : Nat} {h h' : Slot → Slot} (hk : h (getSlot d f k) = h' (getSlot d f k)) :
    modSlot d f k h = modSlot d f k h' := by
  rw [getSlot] at hk
  rw [modSlot, modSlot, modFloe, modFloe, hk]

/-- An element put back where it was read changes nothing. -/
theorem list_set_getD {α : Type} (l : List α) (i : Nat) (a : α) : l.set i (l.getD i a) = l := by
  by_cases hi : i < l.length
  · rw [List.getD_eq_getElem l a hi, List.set_getElem_self hi]
  · exact List.set_eq_of_length_le (by omega)

/-- A slot changed to itself stands, and with it the rest. -/
theorem modSlot_self {d : Data} {f k : Nat} {h : Slot → Slot} (hk : h (getSlot d f k) = getSlot d f k) :
    modSlot d f k h = d := by
  rw [getSlot] at hk
  rw [modSlot, modFloe, hk, slotOf, list_set_getD, getFloe, list_set_getD]

/-! ## Registers (R27) -/

/-- A register that the TP does not hold takes no write. -/
theorem sput_of_not_held {t : Tp} {r : BitVec 5} (v : Word) (hl : t.regs.length ≤ r.toNat) : sput t r v = t := by
  rw [sput, List.set_eq_of_length_le hl, ite_self]

/-- A register that the TP holds reads back what was written. -/
theorem sget_sput_held {t : Tp} {r : BitVec 5} (v : Word) (hr : r ≠ 0) (hl : r.toNat < t.regs.length) :
    sget (sput t r v) r = v := by
  rw [sget, if_neg hr, sput, if_neg hr]
  simp [List.getD_eq_getElem?_getD, hl]

/-- A predicate that the TP does not hold takes no write. -/
theorem pput_of_not_held {t : Tp} {r : BitVec 3} (v : Bool) (hl : t.preds.length ≤ r.toNat) : pput t r v = t := by
  rw [pput, List.set_eq_of_length_le hl, ite_self]

/-- A predicate that the TP holds reads back what was written. -/
theorem pget_pput_held {t : Tp} {r : BitVec 3} (v : Bool) (hr : r ≠ 0) (hl : r.toNat < t.preds.length) :
    pget (pput t r v) r = v := by
  rw [pget, if_neg hr, pput, if_neg hr]
  simp [List.getD_eq_getElem?_getD, hl]

/-- Every other predicate stands. -/
theorem pget_pput_other (t : Tp) (r q : BitVec 3) (v : Bool) (hq : q ≠ r) : pget (pput t r v) q = pget t q := by
  have hn : r.toNat ≠ q.toNat := fun h => hq (BitVec.eq_of_toNat_eq h.symm)
  by_cases hr : r = 0
  · rw [hr, pput_zero]
  · rw [pget, pget, pput, if_neg hr]
    simp [List.getD_eq_getElem?_getD, hn]

/-! ## The end of a TP (R44, R45, R269) -/

/-- The context record of a TP whose place can be written. -/
theorem writeContext_reached {d d' : Data} {f n loc : Nat} {r : Region}
    (h : reach d (reqFloe f) vaPlace (regCtx r + 1024 * n) 0x3F0 .write = (d', .ok loc)) :
    writeContext d f r n = devWrite d' loc 0x3F0 := by
  rw [writeContext, h]

/-- A TP of a launch ends, once the words its floe holds are released. -/
theorem endTp_of_region {d d' : Data} {f k : Nat} {t : Tp} {r : Region} (st : TpStatus) (hd : d' = releaseTokens d)
    (ht : getTp d' f k = t) (hr : getRegion d' t.owner.lid = some r) :
    endTp d f k st = completeLaunch ((unreadWords r t).foldl (fun d m => deadLetter d r.lid m 5)
      (modRegion (setStatus (modSlot (mailEmpty d' r t.owner.n) f k (fun _ => Slot.reset)) r.lid t.owner.n st) r.lid
        (fun r => { r with mail := assocDel r.mail t.owner.n }))) r.lid := by
  rw [← ht] at hr
  unfold endTp
  dsimp only
  rw [← hd, hr, ht]

/-- TP_RETIRE of a drained TP that exits. -/
theorem exec_tpRetire_drained {s : State} {f k : Nat} (hst : (getSlot s.d f k).st = .exiting)
    (htrap : (getSlot s.d f k).trapped = false) (hdrain : tpDrained (getSlot s.d f k).tp = true)
    (hhalt : (getFloe s.d f).halted = false) :
    exec (.tpRetire f k) s = .next { s with d := endTp s.d f k .exited } := by
  show execTpRetire f k s = _
  rw [execTpRetire, nextD_eq, if_pos ⟨hst, htrap, hdrain, hhalt⟩]

/-- TP_TRAPPED of a drained TP whose records are written and whose context record can be. -/
theorem exec_tpTrapped_drained {s : State} {f k loc : Nat} {r : Region} {c : Data} (hst : (getSlot s.d f k).st = .exiting)
    (htrap : (getSlot s.d f k).trapped = true) (hdrain : tpDrained (getSlot s.d f k).tp = true)
    (hrec : recHeldFor s.d f = false) (hhalt : (getFloe s.d f).halted = false)
    (hr : getRegion s.d (getSlot s.d f k).tp.owner.lid = some r)
    (hreach : reach s.d (reqFloe f) vaPlace (regCtx r + 1024 * (getSlot s.d f k).tp.owner.n) 0x3F0 .write = (c, .ok loc))
    (hst' : (getSlot (devWrite c loc 0x3F0) f k).st = .exiting) :
    exec (.tpTrapped f k) s = .next { s with d := endTp (devWrite c loc 0x3F0) f k .trapped } := by
  show execTpTrapped f k s = _
  rw [execTpTrapped, nextD_eq, if_pos ⟨hst, htrap, hdrain, hrec, hhalt⟩]
  simp only [hr, writeContext_reached hreach, if_pos hst']

/-- PARK_DRAIN_END of a drained TP whose context record can be written. -/
theorem exec_parkDrainEnd_drained {s : State} {f k loc : Nat} {r : Region} {d : Data} {sl : Slot} (hsl : sl = getSlot s.d f k)
    (hst : sl.st = .parking) (hdrain : tpDrained sl.tp = true) (hhalt : (getFloe s.d f).halted = false)
    (hr : getRegion s.d sl.tp.owner.lid = some r)
    (hreach : reach s.d (reqFloe f) vaPlace (regCtx r + 1024 * sl.tp.owner.n) 0x3F0 .write = (d, .ok loc))
    (hst' : (getSlot (devWrite d loc 0x3F0) f k).st = .parking) :
    exec (.parkDrainEnd f k) s = .next { s with
      d := modRegion (setStatus (modSlot (devWrite d loc 0x3F0) f k (fun _ => Slot.reset)) r.lid sl.tp.owner.n .parked) r.lid
          (fun r => { r with parkedTps := r.parkedTps ++ [(sl.tp.owner.n, sl)] }) } := by
  subst hsl
  show execParkDrainEnd f k s = _
  rw [execParkDrainEnd, nextD_eq, if_pos ⟨hst, hdrain, hhalt⟩]
  simp only [hr, writeContext_reached hreach, if_pos hst']

/-! ## Ageing (R39) -/

/-- SLOT_AGED of a candidate. -/
theorem exec_slotAged_candidate {s : State} {f k : Nat} (hrun : runnable s.d (getFloe s.d f) f k = true)
    (hmask : (getSlot s.d f k).mask = false) :
    exec (.slotAged f k) s = .next { s with d := modSlot s.d f k (ageSlot (floeAge s.d (getFloe s.d f))) } := by
  have hcand : (runnable s.d (getFloe s.d f) f k && ! (slotOf (getFloe s.d f) k).mask) = true := by
    rw [hrun, show (slotOf (getFloe s.d f) k).mask = false from hmask]
    rfl
  show execSlotAged f k s = _
  rw [execSlotAged, nextD_eq, if_pos hcand]

end Sys2Proof.Machine
end

section
/-!
PROOF. The ends of PARK, EXIT and a trap, and ageing; the hard-wired registers.
-/

namespace Sys2Proof.Machine

open Sys2Proof.Safety

/-- Settles O32, by the three ends of a drained TP and the two sides of AGE. -/
theorem threadsEnd : Obligations.ThreadsEnd := by
  unfold Obligations.ThreadsEnd
  refine ⟨fun s f k sl r hsl hr hdrain hhalt => ⟨?park, ?gone⟩, fun s f k hrun hmask => ⟨?aged, ?young⟩⟩
  case park =>
    exact fun hst d loc hreach hst' => exec_parkDrainEnd_drained hsl hst hdrain hhalt hr hreach hst'
  case gone =>
    rintro hst d e st i hend ht hrd rfl
    subst hsl
    rcases hend with ⟨rfl, htrap, rfl, hd⟩ | ⟨rfl, htrap, rfl, hrec, c, loc, hreach, hst', hd⟩
    · exact leavesData_of_eq (endTp_of_region .exited hd ht hrd) (exec_tpRetire_drained hst htrap hdrain hhalt)
    · exact leavesData_of_eq (endTp_of_region .trapped hd ht hrd)
        (exec_tpTrapped_drained hst htrap hdrain hrec hhalt hr hreach hst')
  case aged =>
    exact fun hage => leavesData_of_eq (modSlot_congr (if_pos hage)) (exec_slotAged_candidate hrun hmask)
  case young =>
    exact fun hage => exec_kept_of_eq (modSlot_self (if_neg (Nat.not_le.mpr hage))) (exec_slotAged_candidate hrun hmask)

/-- Settles O6, by whether the TP holds the register written and whether it is the one read. -/
theorem registerZeroIsHardWired : Obligations.RegisterZeroIsHardWired := by
  unfold Obligations.RegisterZeroIsHardWired
  refine ⟨fun t v => ⟨sget_zero t, sput_zero t v⟩, fun t v => ⟨pget_zero t, pput_zero t v⟩, ?scalar, ?predicate⟩
  case scalar =>
    intro t r q v hr
    by_cases hl : r.toNat < t.regs.length
    · by_cases hq : q = r
      · rw [if_pos ⟨hq, hl⟩, hq, sget_sput_held v hr hl]
      · rw [if_neg (fun h => hq h.1), sget_sput_other t r q v hq]
    · rw [if_neg (fun h => hl h.2), sput_of_not_held v (by omega)]
  case predicate =>
    intro t r q v hr
    by_cases hl : r.toNat < t.preds.length
    · by_cases hq : q = r
      · rw [if_pos ⟨hq, hl⟩, hq, pget_pput_held v hr hl]
      · rw [if_neg (fun h => hq h.1), pget_pput_other t r q v hq]
    · rw [if_neg (fun h => hl h.2), pput_of_not_held v (by omega)]

end Sys2Proof.Machine
end

section
/-!
PROOF. The step of a sequencer marks its floe active (R278).
-/

namespace Sys2Proof.Machine

open Sys2Proof.Safety

/-- A pair with a known second part. -/
theorem eq_mk_of_snd_eq {α β : Type} {p : α × β} {b : β} (h : p.2 = b) : p = (p.1, b) := h ▸ rfl

/-- The state whose next step runs NOP (the word 0) in slot 0 of floe 0, which nothing has marked active. -/
def nopNext : State := State.reset.withFetchWord 32 0

/-- Its data once floe 0 has selected slot 0. -/
def nopSelected : Data := (selectSlot (wakeSlots nopNext.d 0) 0).1

/-- Its data once the word is fetched. -/
def nopFetched : Data := (fetch (modSlot nopSelected 0 0 (fun sl => { sl with block := .none })) 0 0).1

/-- The state from which O4 would have NOP executed. -/
def nopIssued : State :=
  { nopNext with
    agenda := []
    d := { modSlot nopFetched 0 0 (fun sl => { sl with word := BitVec.ofNat 32 0 }) with
      curF := 0, curK := 0, curW := BitVec.ofNat 32 0 } }

theorem nopNext_selects : selectSlot (wakeSlots nopNext.d 0) 0 = (nopSelected, some 0) :=
  eq_mk_of_snd_eq (by decide +kernel)

theorem nopSelected_fetches :
    fetch (modSlot nopSelected 0 0 (fun sl => { sl with block := .none })) 0 0 = (nopFetched, some 0) :=
  eq_mk_of_snd_eq (by decide +kernel)

/-- The state NOP leaves of it. -/
def nopDone : State := { nopIssued with d := issue nopIssued.d ⟨0, false⟩ [] retire }

theorem exec_nop_nopIssued : exec (.nop ⟨0, false⟩) nopIssued = .next nopDone := rfl

theorem nopDone_not_stalled : stallOf nopDone.d 0 0 = none := by decide +kernel

/-- NOP itself marks nothing. -/
theorem nopDone_inactive : (getFloe (seqCount nopDone.d 0) 0).active = false := by decide +kernel

/-- The active mark of floe f in the next state (R278). -/
def nextActive (f : Nat) : Host.Outcome State Fault Refusal → Option Bool
  | .next t => some (getFloe t.d f).active
  | _ => none

theorem nextActive_of_eq {f : Nat} {o : Host.Outcome State Fault Refusal} {t : State} {d : Data} {b : Bool}
    (ho : o = .next { t with d := d }) (hb : (getFloe d f).active = b) : nextActive f o = some b := by
  rw [ho, nextActive, hb]

/-- The sequencer's issue marks its floe active. -/
theorem step_nopNext_active : nextActive 0 (step nopNext) = some true := by decide +kernel

/-- Refutes O4: the sequencer's issue also marks its floe active, for the Stalemate monitor (R278), before it executes the
instruction, and the state from which the statement has it executed lacks that mark. Where the floe was not marked, as when
it runs NOP first after reset, the statement's next state is not the step's. -/
theorem not_stepRunsTheDecodedInstruction : ¬ Obligations.StepRunsTheDecodedInstruction := by
  unfold Obligations.StepRunsTheDecodedInstruction
  rintro ⟨hseq, -, -⟩
  have hstep := (hseq nopNext nopIssued 0 0 0 [] nopSelected nopFetched (.nop ⟨0, false⟩) rfl (by decide) (by decide +kernel)
    nopNext_selects nopSelected_fetches (by decide +kernel) rfl).1 _ exec_nop_nopIssued nopDone_not_stalled
  have hinactive : nextActive 0 (step nopNext) = some false := nextActive_of_eq hstep nopDone_inactive
  exact absurd (step_nopNext_active.symm.trans hinactive) (by decide)

end Sys2Proof.Machine
end

section
/-!
PROOF SUPPORT. The issue of an instruction that uses other registers of its TP (R282), the trap at an instruction (R269), the
end of an instruction that changes its TP (R390), the origin of a tile (R58), and a stream command that takes its entry (R87).
-/

namespace Sys2Proof.Machine

open Sys2Proof.Safety

/-! ## Issue (R282, R305) -/

/-- An instruction that needs no scalar register is ready where one that needs some is. -/
theorem ready_nil {s : State} {g : Guard} {regs : List (BitVec 5)} (h : Ready s g regs) : Ready s g [] :=
  ⟨h.1, h.2.1, by simp⟩

/-- A ready instruction takes its effect where the other registers it uses are sound. -/
theorem issueS_of_sound {s : State} {g : Guard} {regs : List (BitVec 5)} {specs : List SpecReg} (h : Ready s g regs)
    (hs : Sound s specs) (effect : Data → Data) : issueS s.d g regs specs effect = effect s.d :=
  issueS_effect s.d g regs specs effect h.2.1 h.1 (not_pend_of_ready h) (not_badReg_of_ready h) hs

/-- The trap at an instruction is the one the statements name. -/
theorem trap_eq_trapped (d : Data) (cls cause : Nat) : trap d cls cause = trapped d cls cause 0 := rfl

/-- A ready instruction traps with ECCU 0x08 where another register it uses is not sound. -/
theorem issueS_of_not_sound {s : State} {g : Guard} {regs : List (BitVec 5)} {specs : List SpecReg} (h : Ready s g regs)
    (hs : ¬ Sound s specs) (effect : Data → Data) : issueS s.d g regs specs effect = trapped s.d 0x0C 8 0 := by
  rw [issueS, issue_of_ready h, if_pos (Bool.of_not_eq_false hs), trap_eq_trapped]

/-- An instruction that only changes its TP, and the step past its word, are one change. -/
theorem retire_modCur_pastWord (d : Data) (h : Tp → Tp) : retire (modCur d h) = modCur d (fun t => pastWord (h t)) :=
  retire_modCur d h

/-! ## Tile names (R58, R60) -/

/-- The values TSHP refuses, by their reserved field and their policy. -/
theorem shapeBad_iff (w : Word) : shapeBad w = true ↔ w.toNat / 2 ^ 26 ≠ 0 ∨ w.toNat / 2 ^ 24 % 4 = 3 := by
  rw [shapeBad, shPol, wb_high w (lo := 26) (n := 38) rfl, Bool.or_eq_true, bne_iff_ne, beq_iff_eq]
  exact Iff.rfl

/-- Origin coordinates of a bound tile are moved. -/
theorem moveOrigin_bound {d : Data} {n : BitVec 4} {b : Binding} (dim : BitVec 3) (h : BitVec 32 → BitVec 32)
    (hb : (curTp d).tiles.getD n.toNat none = some b) :
    moveOrigin d n dim h = modCur d (fun t => pastWord { t with
      tiles := t.tiles.set n.toNat (some { b with origin := b.origin.set dim.toNat (h (b.origin.getD dim.toNat 0)) }) }) := by
  unfold moveOrigin
  rw [hb]
  exact retire_modCur_pastWord d _

/-- An unbound tile has no origin. -/
theorem moveOrigin_unbound {d : Data} {n : BitVec 4} (dim : BitVec 3) (h : BitVec 32 → BitVec 32)
    (hb : (curTp d).tiles.getD n.toNat none = none) : moveOrigin d n dim h = trapped d 4 0x10 0 := by
  unfold moveOrigin
  rw [hb]
  exact trap_eq_trapped d 4 0x10

/-- A coordinate advanced by a register modulo 2^32 (R58). -/
theorem add_truncate_eq_ofNat (x : BitVec 32) (w : Word) : x + w.truncate 32 = BitVec.ofNat 32 (x.toNat + w.toNat) := by
  apply BitVec.eq_of_toNat_eq
  simp

/-! ## Stream commands (R66, R87, R91) -/

/-- A kind of stream command, not a barrier. -/
def isCommand : CmdKind → Bool
  | .sbar _ => false
  | _ => true

/-- What the start of a command makes of its TP (R91, R201). -/
theorem beginCmd_eq (t : Tp) (g : BitVec 6) (counted : Bool) : beginCmd t g counted = { t with
    tags := if g = 0 then t.tags else t.tags &&& ~~~(BitVec.ofNat 64 (2 ^ g.toNat))
    busy := t.busy ++ [g]
    wi := if counted then t.wi + 1 else t.wi
    undone := if counted then t.undone ++ [t.wi + 1] else t.undone } := by
  have htags : (if g = 0 then t else clearTag t g) =
      { t with tags := if g = 0 then t.tags else t.tags &&& ~~~(BitVec.ofNat 64 (2 ^ g.toNat)) } := by
    split <;> rfl
  rw [beginCmd, htags]
  cases counted <;> rfl

/-- A command that has taken its entry, and the step past its word. -/
theorem retire_takeEntry {w : Want} (d : Data) (e : Nat) (hk : isCommand w.kind = true) :
    retire (takeEntry d e w) = streamTaken d e (newCmd d w) (wantCounted w) := by
  have htake : takeEntry d e w = modCur (modFloe d d.curF (fun fl => { fl with
      streams := fl.streams.set e (some (newCmd d w)), issueNo := fl.issueNo + 1 }))
      (fun t => beginCmd t w.tag (wantCounted w)) := by
    unfold takeEntry
    cases hkind : w.kind
    case sbar => simp [hkind, isCommand] at hk
    all_goals rfl
  rw [htake, retire_modCur_pastWord]
  simp only [beginCmd_eq]
  rfl

/-- A command that may issue takes its entry (R406). -/
theorem streamIssue_taken {s : State} {e : Nat} {w : Want} (h : StreamMayIssue s e w) (hk : isCommand w.kind = true) :
    streamIssue s.d w = streamTaken s.d e (newCmd s.d w) (wantCounted w) := by
  obtain ⟨htag, hfree, hheld, hcheck⟩ := h
  have hbusy : ¬ (w.tag != 0 && (curTp s.d).busy.contains w.tag) = true := by
    rcases htag with h | h
    · simp [h]
    · rw [h, Bool.and_false]
      exact Bool.false_ne_true
  rw [streamIssue, if_neg hbusy]
  simp only [hfree]
  rw [whenFree_of_not_held _ hheld]
  simp only [hcheck]
  exact retire_takeEntry s.d e hk

/-- The entry of a command is QUEUED. -/
theorem newCmd_queued {w : Want} (d : Data) (hk : isCommand w.kind = true) : (newCmd d w).st = .queued := by
  rw [newCmd]
  cases hkind : w.kind
  case sbar => simp [hkind, isCommand] at hk
  all_goals rfl

/-- The entry of a command copies its first tile. -/
theorem newCmd_tile (d : Data) (w : Want) : some (newCmd d w).tile = (w.tiles ++ [none])[0]? := by
  rw [newCmd]
  cases w.tiles <;> rfl

/-- The entry of a command copies its second tile. -/
theorem newCmd_tile2 (d : Data) (w : Want) : some (newCmd d w).tile2 = (w.tiles ++ [none, none])[1]? := by
  rw [newCmd]
  rcases w.tiles with _ | ⟨v, _ | ⟨x, l⟩⟩ <;> rfl

/-- An instruction that issues, ready and with its registers sound, a command that may issue takes an entry for it. -/
theorem takesEntry_of_issueS {i : Instr} {s : State} {g : Guard} {specs : List SpecReg} {e : Nat} {w : Want}
    {effect : Data → Data} (hr : Ready s g []) (hs : Sound s specs) (hm : StreamMayIssue s e w) (hk : isCommand w.kind = true)
    (hexec : exec i s = .next { s with d := issueS s.d g [] specs effect }) (heffect : effect s.d = streamIssue s.d w) :
    TakesEntry i s e w := by
  refine ⟨newCmd s.d w, ?_, rfl, newCmd_queued s.d hk, rfl, rfl, rfl, rfl, rfl, newCmd_tile s.d w, newCmd_tile2 s.d w, rfl, rfl,
    rfl, rfl, rfl, rfl, rfl⟩
  refine leavesData_of_eq ?_ hexec
  rw [issueS_of_sound hr hs, heffect]
  exact streamIssue_taken hm hk

end Sys2Proof.Machine
end

section
/-!
PROOF. Tile names: TSHP, TBIND, TORG and TADV.
-/

namespace Sys2Proof.Machine

open Sys2Proof.Safety

/-- Settles O16, by the registers named (sound or not), the shape refused or taken, and the tile bound or not. -/
theorem tileNameInstructionResults : Obligations.TileNameInstructionResults := by
  unfold Obligations.TileNameInstructionResults
  intro s g n m t e rdim cdim dim a hr
  refine ⟨?shape, ?shapeRefused, ?bind, ?moved, ?unbound, ?badShape, ?badTile, ?badPattern⟩
  case shape =>
    intro hs hhigh hpol
    have hok : ¬ shapeBad (rs s.d a) = true := by
      rw [shapeBad_iff]
      change rn s.d a / 2 ^ 26 ≠ 0 ∨ rn s.d a / 2 ^ 24 % 4 = 3 → False
      omega
    refine leavesData_of_eq ((issueS_of_sound hr hs _).trans ?_)
    rw [if_neg hok]
    exact retire_modCur_pastWord s.d _
  case shapeRefused =>
    intro hs hbad
    refine leavesData_of_eq ((issueS_of_sound hr hs _).trans ?_)
    rw [if_pos ((shapeBad_iff (rs s.d a)).mpr hbad)]
    rfl
  case bind =>
    intro hs
    exact leavesData_of_eq ((issueS_of_sound (ready_nil hr) hs _).trans (retire_modCur_pastWord s.d _))
  case moved =>
    intro b hs hb
    refine ⟨leavesData_of_eq ((issueS_of_sound hr hs _).trans (moveOrigin_bound dim _ hb)), ?_⟩
    refine leavesData_of_eq ((issueS_of_sound hr hs _).trans ((moveOrigin_bound dim _ hb).trans ?_))
    rw [add_truncate_eq_ofNat]
    rfl
  case unbound =>
    intro hs hb
    exact ⟨leavesData_of_eq ((issueS_of_sound hr hs _).trans (moveOrigin_unbound dim _ hb)),
      leavesData_of_eq ((issueS_of_sound hr hs _).trans (moveOrigin_unbound dim _ hb))⟩
  case badShape => exact fun hs => leavesData_of_eq (issueS_of_not_sound hr hs _)
  case badTile =>
    exact fun hs => ⟨leavesData_of_eq (issueS_of_not_sound (ready_nil hr) hs _),
      leavesData_of_eq (issueS_of_not_sound hr hs _), leavesData_of_eq (issueS_of_not_sound hr hs _)⟩
  case badPattern => exact fun sp pf hs => leavesData_of_eq (issueS_of_not_sound hr hs _)

end Sys2Proof.Machine
end

section
/-!
PROOF. The stream commands of the sequencer take their entries.
-/

namespace Sys2Proof.Machine

open Sys2Proof.Safety

/-- Settles O18: each instruction issues its command under the registers it uses, and a command that may issue takes its entry. -/
theorem streamCommandsTakeAnEntry : Obligations.StreamCommandsTakeAnEntry := by
  unfold Obligations.StreamCommandsTakeAnEntry
  intro s g t u port op tag sp b e w hr hm
  refine ⟨fun hs => ⟨?srd, ?swr, ?smcs⟩, fun hs => ⟨?sgth, ?ssct⟩, fun hs => ⟨?srec, ?sconC, ?sconI⟩, fun hs => ?smov, ?bad⟩
  case srd | swr | smcs | sgth | srec | sconC | sconI | smov =>
    rintro rfl
    exact takesEntry_of_issueS hr hs hm rfl rfl rfl
  case ssct =>
    rintro mode rfl
    refine ⟨?_, ?_, ?_, ?_⟩ <;>
    · rintro rfl
      exact takesEntry_of_issueS hr hs hm rfl rfl rfl
  case bad =>
    exact fun hs => ⟨leavesData_of_eq (issueS_of_not_sound hr hs _), leavesData_of_eq (issueS_of_not_sound hr hs _),
      leavesData_of_eq (issueS_of_not_sound hr hs _)⟩

end Sys2Proof.Machine
end

section
/-!
PROOF SUPPORT. The masks of tags (R93): s[a] less its bit 0, the end of a wait, and the lowest set bit.
-/

namespace Sys2Proof.Machine

open Sys2Proof.Safety

/-- A ready instruction needs each of its registers on its own. -/
theorem ready_of_subset {s : State} {g : Guard} {regs regs' : List (BitVec 5)} (h : Ready s g regs) (hsub : regs' ⊆ regs) :
    Ready s g regs' := ⟨h.1, h.2.1, fun r hr => h.2.2 r (hsub hr)⟩

/-- The mask is the value less its bit 0. -/
theorem tagMask_eq (v : Word) : tagMask v = BitVec.ofNat 64 (v.toNat - v.toNat % 2) := by
  have hdouble : v.toNat - v.toNat % 2 = (v.toNat >>> 1) <<< 1 := by
    rw [Nat.shiftLeft_eq, Nat.shiftRight_eq_div_pow]
    omega
  apply BitVec.eq_of_getLsbD_eq
  intro i hi
  rw [tagMask, hdouble, BitVec.getLsbD_and, BitVec.getLsbD_not, BitVec.getLsbD_one, BitVec.getLsbD_ofNat,
    Nat.testBit_shiftLeft, Nat.testBit_shiftRight]
  cases i with
  | zero => simp
  | succ i => simp [hi, Nat.add_comm 1 i, BitVec.getElem_eq_testBit_toNat]

/-- A TWAIT is over where every tag of its mask is set, or one is, or it names none (R93). -/
theorem twaitDone_iff (t : Tp) (all : Bool) (m : Word) :
    twaitDone t all m = true ↔ if all then t.tags &&& m = m else m = 0 ∨ t.tags &&& m ≠ 0 := by
  cases all <;> simp [twaitDone]

/-- What TWAIT makes of the data, by whether its wait can end and has ended. -/
theorem twait_hangs {d : Data} {all : Bool} {m : Word} (h : twaitHangs (curTp d) all m = true) :
    twait d all m = trap d 0x0D 1 := by
  rw [twait, if_pos h]

theorem twait_done {d : Data} {all : Bool} {m : Word} (h : twaitHangs (curTp d) all m = false)
    (hdone : if all then (curTp d).tags &&& m = m else m = 0 ∨ (curTp d).tags &&& m ≠ 0) : twait d all m = retire d := by
  rw [twait, if_neg (by rw [h]; exact Bool.false_ne_true), if_pos ((twaitDone_iff _ _ _).mpr hdone)]

theorem twait_waits {d : Data} {all : Bool} {m : Word} (h : twaitHangs (curTp d) all m = false)
    (hdone : ¬ if all then (curTp d).tags &&& m = m else m = 0 ∨ (curTp d).tags &&& m ≠ 0) :
    twait d all m = blockCur d (.twait all m) := by
  rw [twait, if_neg (by rw [h]; exact Bool.false_ne_true), if_neg (fun hd => hdone ((twaitDone_iff _ _ _).mp hd))]

/-- The zeros counted from bit k up end at the lowest set bit, where one of the n bits is set. -/
theorem trailZeros_lowest (x : Word) (k n : Nat) (h : ∃ j < n, x.getLsbD (k + j) = true) :
    trailZeros x k n < n ∧ x.getLsbD (k + trailZeros x k n) = true ∧ ∀ j < trailZeros x k n, x.getLsbD (k + j) = false := by
  induction n generalizing k with
  | zero =>
    obtain ⟨j, hj, -⟩ := h
    exact absurd hj (Nat.not_lt_zero j)
  | succ n ih =>
    rw [trailZeros]
    cases hk : x.getLsbD k with
    | true => exact ⟨Nat.succ_pos n, by simpa using hk, fun j hj => absurd hj (Nat.not_lt_zero j)⟩
    | false =>
      have hrest : ∃ j < n, x.getLsbD (k + 1 + j) = true := by
        obtain ⟨j, hj, hset⟩ := h
        cases j with
        | zero => rw [Nat.add_zero, hk] at hset; exact absurd hset Bool.false_ne_true
        | succ j => exact ⟨j, Nat.lt_of_succ_lt_succ hj, by rw [Nat.add_assoc, Nat.add_comm 1 j]; exact hset⟩
      obtain ⟨hlt, hset, hlow⟩ := ih (k + 1) hrest
      rw [if_neg Bool.false_ne_true]
      refine ⟨by omega, by rw [← Nat.add_assoc]; exact hset, fun j hj => ?_⟩
      cases j with
      | zero => exact hk
      | succ j => rw [Nat.add_comm j 1, ← Nat.add_assoc]; exact hlow j (by omega)

/-- A doubleword that is not 0 has a set bit. -/
theorem exists_bit_of_ne_zero {x : Word} (h : x ≠ 0) : ∃ j < 64, x.getLsbD (0 + j) = true := by
  by_contra hn
  push Not at hn
  refine h (BitVec.eq_of_getLsbD_eq fun i hi => ?_)
  simpa using hn i hi

end Sys2Proof.Machine
end

section
/-!
PROOF. Tags: TWAIT, TFFR and TCLR, and the end of a wait.
-/

namespace Sys2Proof.Machine

open Sys2Proof.Safety

/-- Settles O20, by whether a wait can end, has ended, or goes on, and by the bits that a mask names. -/
theorem tagInstructionResults : Obligations.TagInstructionResults := by
  unfold Obligations.TagInstructionResults
  refine ⟨fun s g d a m hr hm => ?instrs, fun s f k all m hb => ⟨fun hdone => ?wakes, fun hnot => ?waits⟩⟩
  case instrs =>
    obtain rfl : m = tagMask (rs s.d a) := hm.trans (tagMask_eq _).symm
    have hra : Ready s g [a] := ready_of_subset hr (by simp)
    refine ⟨fun hh hd => ?_, fun hh hd => ?_, fun hh hd => ?_, fun hh hne hd => ?_, fun hh => ?_, fun hh => ?_, ?tffr, ?tclr⟩
    case tffr =>
      refine ⟨if (curTp s.d).tags &&& tagMask (rs s.d a) = 0 then 0 else trailZeros ((curTp s.d).tags &&& tagMask (rs s.d a)) 0 64,
        ?_, fun h0 => if_pos h0, fun h0 => ?_⟩
      · refine leavesData_of_eq ((issue_of_ready hr _).trans ((retire_modCur_pastWord s.d _).trans ?_))
        congr 2
        funext t
        rw [scalarThen, apply_ite (BitVec.ofNat 64)]
        rfl
      · rw [if_neg h0]
        simpa using trailZeros_lowest _ 0 64 (exists_bit_of_ne_zero h0)
    case tclr => exact leavesData_of_eq ((issue_of_ready hra _).trans (retire_modCur_pastWord s.d _))
    · exact leavesData_of_eq ((issue_of_ready hra _).trans (twait_done hh hd))
    · exact leavesData_of_eq ((issue_of_ready hra _).trans (twait_waits hh hd))
    · exact leavesData_of_eq ((issue_of_ready hra _).trans (twait_done hh hd))
    · exact leavesData_of_eq ((issue_of_ready hra _).trans (twait_waits hh (not_or.mpr ⟨hne, not_not.mpr hd⟩)))
    · exact leavesData_of_eq ((issue_of_ready hra _).trans (twait_hangs hh))
    · exact leavesData_of_eq ((issue_of_ready hra _).trans (twait_hangs hh))
  case wakes =>
    refine leavesData_of_eq (show twaitWake s.d f k = _ from ?_)
    simp only [twaitWake, hb, if_pos ((twaitDone_iff _ _ _).mpr hdone)]
    rfl
  case waits =>
    refine exec_kept_of_eq (show twaitWake s.d f k = _ from ?_)
    simp only [twaitWake, hb, if_neg (fun hd => hnot ((twaitDone_iff _ _ _).mp hd))]

end Sys2Proof.Machine
end

section
/-!
PROOF SUPPORT. The entry of a barrier and the checks of its tile (R87, R95, R406), the commands that a SKIL ends (R94, R428), and an
unfinished record taken back (R67).
-/

namespace Sys2Proof.Machine

open Sys2Proof.Safety

/-! ## Barriers (R87, R95, R406) -/

/-- A barrier that finds a free entry takes it, and the sequencer goes on. -/
theorem barrierIssue_taken {d : Data} {e : Nat} {m : BitVec 2} {w : Want} (hfree : streamFree (getFloe d d.curF) = some e)
    (hk : w.kind = .sbar m) : barrierIssue d w = modCur (modFloe d d.curF (fun fl =>
      { fl with streams := fl.streams.set e (some (newCmd d w)), issueNo := fl.issueNo + 1 })) pastWord := by
  cases w with
  | mk kind tag ip op tiles pat branches space reads writes =>
    obtain rfl : kind = .sbar m := hk
    simp only [barrierIssue, hfree]
    rfl

/-- The checks of a barrier's tile pass where each of them does. -/
theorem barrierCheck_passes {d : Data} {v : View} (hspace : spaceCheck d v = none) (h11 : bad11 v = false) (h12 : bad12 v = false)
    (hext : badExtent v = 0) : barrierCheck d v = none := by
  simp [barrierCheck, firstFault, hspace, bindCheck, tileIf, h11, h12, extentCheck, hext]

/-- The first check of a barrier's tile is that of its space. -/
theorem barrierCheck_space {d : Data} {v : View} {x : Nat × Nat} (hspace : spaceCheck d v = some x) : barrierCheck d v = some x := by
  simp [barrierCheck, firstFault, hspace]

theorem barrierCheck_format {d : Data} {v : View} (hspace : spaceCheck d v = none) (h11 : bad11 v = true) :
    barrierCheck d v = some (4, 0x11) := by
  simp [barrierCheck, firstFault, hspace, bindCheck, tileIf, h11]

theorem barrierCheck_dims {d : Data} {v : View} (hspace : spaceCheck d v = none) (h11 : bad11 v = false) (h12 : bad12 v = true) :
    barrierCheck d v = some (4, 0x12) := by
  simp [barrierCheck, firstFault, hspace, bindCheck, tileIf, h11, h12]

theorem barrierCheck_extent {d : Data} {v : View} (hspace : spaceCheck d v = none) (h11 : bad11 v = false) (h12 : bad12 v = false)
    (hext : badExtent v ≠ 0) : barrierCheck d v = some (4, badExtent v) := by
  simp [barrierCheck, firstFault, hspace, bindCheck, tileIf, h11, h12, extentCheck, hext]

section
variable {s : State} {g : Guard} {t : BitVec 4} {e : Nat} {v : View} (hr : Ready s g []) (hs : Sound s (viewRegs (curTp s.d) t))
  (hfree : streamFree (getFloe s.d s.d.curF) = some e)
include hr hs hfree

/-- SBAR of an unbound tile traps (R406). -/
theorem sbar_unbound (hv : curView s.d t = none) : Traps (.sbar g t) s 4 0x10 := by
  refine leavesData_of_eq ((issueS_of_sound hr hs _).trans ?_)
  simp only [hfree, hv]
  rfl

/-- SBAR of a tile that a check refuses traps with its cause (R406). -/
theorem sbar_refused {cls cause : Nat} (hv : curView s.d t = some v) (hc : barrierCheck s.d v = some (cls, cause)) :
    Traps (.sbar g t) s cls cause := by
  refine leavesData_of_eq ((issueS_of_sound hr hs _).trans ?_)
  simp only [hfree, hv, hc]
  rfl

/-- SBAR of a tile that passes its checks issues its barrier. -/
theorem sbar_issues (hv : curView s.d t = some v) (hc : barrierCheck s.d v = none) :
    LeavesData (.sbar g t) s (barrierIssue s.d { want0 (.sbar 0) with tiles := [some v] }) := by
  refine leavesData_of_eq ((issueS_of_sound hr hs _).trans ?_)
  simp only [hfree, hv, hc]

end

/-! ## Writes keep which TP issues -/

/-- What every step of a fold keeps, the fold keeps. -/
theorem foldl_keeps {α β γ : Type} {p : α → γ} {h : α → β → α} (hstep : ∀ a b, p (h a b) = p a) (l : List β) (a : α) :
    p (l.foldl h a) = p a := by
  induction l generalizing a with
  | nil => rfl
  | cons b l ih => rw [List.foldl_cons, ih, hstep]

@[simp] theorem poisonWrite_curF (d : Data) (loc n : Nat) (psn : Bool) : (poisonWrite d loc n psn).curF = d.curF := by
  cases psn <;> rfl

@[simp] theorem memWriteBytes_curF (d : Data) (loc : Nat) (bs : List Byte) (psn : Bool) :
    (memWriteBytes d loc bs psn).curF = d.curF := by
  rw [memWriteBytes, poisonWrite_curF]

@[simp] theorem granuleSet_curF (d : Data) (g : Nat) (psn : Bool) : (granuleSet d g psn).curF = d.curF := rfl

@[simp] theorem pieceSettle_curF (d : Data) (ps : List Piece) : (pieceSettle d ps).curF = d.curF := by
  induction ps generalizing d with
  | nil => rfl
  | cons p ps ih =>
    rw [pieceSettle, ih]
    split <;> rfl

@[simp] theorem pieceWrite_curF (d : Data) (ps : List Piece) (v : Nat) (psn : Bool) : (pieceWrite d ps v psn).curF = d.curF := by
  rw [pieceWrite, foldl_keeps (p := Data.curF)]
  · exact pieceSettle_curF d ps
  · intro d p
    cases psn <;> simp

@[simp] theorem elemWrite_curF (psn : Bool) (mode fmt : Nat) (d : Data) (e : List Piece × Nat) :
    (elemWrite psn mode fmt d e).curF = d.curF := pieceWrite_curF d e.1 _ _

@[simp] theorem wordWrite_curF (d : Data) (elems : List (List Piece × Nat)) (psn : Bool) (mode fmt : Nat) :
    (wordWrite d elems psn mode fmt).curF = d.curF := by
  have helems : (elems.foldl (elemWrite psn mode fmt) d).curF = d.curF :=
    foldl_keeps (p := Data.curF) (elemWrite_curF psn mode fmt) elems d
  rw [wordWrite]
  split <;> exact helems

@[simp] theorem partAgain_curF (d : Data) (w : FloeWrite) : (partAgain d w).curF = d.curF := by
  rw [partAgain]
  split <;> simp

@[simp] theorem undoCmd_curF (d : Data) (f : Nat) (c : Cmd) : (undoCmd d f c).curF = d.curF := by
  rw [undoCmd]
  split
  · rw [modFloe_curF, foldl_keeps (p := Data.curF) partAgain_curF, foldl_keeps (p := Data.curF) (fun d e => by simp), modFloe_curF]
  · rfl

/-- The records of a list of commands are taken back on the issuing TP's floe. -/
theorem foldl_undoCmd_curF (cs : List Cmd) (d : Data) :
    cs.foldl (fun d c => undoCmd d d.curF c) d = cs.foldl (fun x c => undoCmd x d.curF c) d := by
  induction cs generalizing d with
  | nil => rfl
  | cons c cs ih => rw [List.foldl_cons, ih, undoCmd_curF, List.foldl_cons]

/-! ## SKIL (R94, R428) -/

/-- The commands of the issuing TP that a SKIL ends, of those its operand names by h. -/
theorem killWhere_eq {d : Data} {h k : Cmd → Bool} (hk : k = skilMatches (curTp d).owner h) :
    killWhere d h =
      modFloe (((getFloe d d.curF).streams.filterMap (fun x => x.filter k)).foldl (fun x c => undoCmd x d.curF c) d) d.curF
        (fun fl => { fl with
          streams := fl.streams.map (fun x => x.map (fun c => if k c then { c with killed := some (fl.cyc + 1) } else c)) }) := by
  subst hk
  have hlive : (liveCmds (getFloe d d.curF)).filter (skilMatches (curTp d).owner h) =
      (getFloe d d.curF).streams.filterMap (fun x => x.filter (skilMatches (curTp d).owner h)) :=
    List.filter_filterMap
  simp only [killWhere, hlive, foldl_undoCmd_curF]
  congr 1
  funext fl
  congr 2
  funext x
  cases x with
  | none => rfl
  | some c => exact (apply_ite some _ _ _).symm

/-! ## Records of SSCT that have not ended (R67, log entry 141) -/

/-- With no word noted of an unfinished record, taking it back drops only its words of the cycle in progress. -/
theorem undoCmd_unnoted {d d1 : Data} {f : Nat} {c : Cmd}
    (hd : d1 = modFloe d f (fun fl => { fl with writes := fl.writes.filter (fun w => ! partOf c w) }))
    (hlog : (getFloe d1 f).partLog.filter (fun w => ! partOf c w) = (getFloe d1 f).partLog) : undoCmd d f c = d1 := by
  have hnone : ¬ (getFloe d1 f).partLog.any (partOf c) = true := by
    simpa [List.filter_eq_self] using hlog
  rw [undoCmd, ← hd]
  exact if_neg hnone

/-- With a word noted, what the record's granules held comes back, and every other noted write takes effect again. -/
theorem undoCmd_noted {d d1 : Data} {f : Nat} {c : Cmd} {log : List FloeWrite}
    (hd : d1 = modFloe d f (fun fl => { fl with writes := fl.writes.filter (fun w => ! partOf c w) }))
    (hl : log = (getFloe d1 f).partLog.filter (fun w => ! partOf c w)) (hlog : log ≠ (getFloe d1 f).partLog) :
    undoCmd d f c = modFloe (log.foldl partAgain ((getFloe d1 f).partBase.foldl
      (fun d e => granuleSet (memWriteBytes d (16 * e.1) (numBytes 16 e.2.1) false) e.1 e.2.2) d1)) f
      (fun fl => partPrune { fl with partLog := log }) := by
  subst hl
  have hsome : (getFloe d1 f).partLog.any (partOf c) = true := by
    by_contra hn
    exact hlog (List.filter_eq_self.mpr (by simpa using hn))
  rw [undoCmd, ← hd]
  exact if_pos hsome

end Sys2Proof.Machine
end

section
/-!
PROOF. Barriers and the kills of streams: SBAR and SKIL.
-/

namespace Sys2Proof.Machine

open Sys2Proof.Safety

/-- Settles O19, by the form of the barrier and the first check its tile fails, and by what a SKIL names. -/
theorem barriersAndStreamKills : Obligations.BarriersAndStreamKills := by
  unfold Obligations.BarriersAndStreamKills
  refine ⟨fun s g t space e hr hfree => ⟨?all, ?space, fun v hs hv hspace h11 h12 hext => ?tile, fun hs hv => sbar_unbound hr hs hfree hv,
    fun v hs hv => ⟨fun cls cause hspace => ?badSpace, fun hspace => ⟨fun h11 => ?badFormat, fun h11 h12 => ?badDims,
      fun h11 h12 hext => ?badExtent⟩⟩⟩, fun s g tag port m k i hr hi hk => ?skil, fun d d1 f c log hd hl => ⟨fun h => ?unnoted,
        fun h => ?noted⟩⟩
  case all =>
    exact ⟨newCmd s.d (want0 (.sbar 2)), rfl, rfl, rfl, leavesData_of_eq ((issue_of_ready hr _).trans (barrierIssue_taken hfree rfl))⟩
  case space =>
    exact ⟨newCmd s.d { want0 (.sbar 1) with space := space }, rfl, rfl, rfl, rfl,
      leavesData_of_eq ((issue_of_ready hr _).trans (barrierIssue_taken hfree rfl))⟩
  case tile =>
    refine ⟨newCmd s.d { want0 (.sbar 0) with tiles := [some v] }, rfl, rfl, rfl, rfl, ?_⟩
    rw [← barrierIssue_taken hfree rfl]
    exact sbar_issues hr hs hfree hv (barrierCheck_passes hspace h11 h12 hext)
  case badSpace => exact sbar_refused hr hs hfree hv (barrierCheck_space hspace)
  case badFormat => exact sbar_refused hr hs hfree hv (barrierCheck_format hspace h11)
  case badDims => exact sbar_refused hr hs hfree hv (barrierCheck_dims hspace h11 h12)
  case badExtent => exact sbar_refused hr hs hfree hv (barrierCheck_extent hspace h11 h12 hext)
  case skil =>
    have hkills : retire (killWhere s.d m) = _ := congrArg retire (killWhere_eq hk)
    rcases hi with ⟨rfl, rfl⟩ | ⟨rfl, rfl⟩ | ⟨rfl, rfl⟩ <;> exact leavesData_of_eq ((issue_of_ready hr _).trans hkills)
  case unnoted => exact undoCmd_unnoted hd (hl.symm.trans h)
  case noted => exact undoCmd_noted hd hl h

end Sys2Proof.Machine
end

section
/-!
PROOF SUPPORT. The issue of an embedding engine's command, the end of its issue, and the command as it joins its engine (R91, R201,
R224, R350).
-/

namespace Sys2Proof.Machine

open Sys2Proof.Safety

/-! ## At issue (R350) -/

/-- The instruction of an engine command of OP op with these operands. -/
def engineInstr (op : Nat) (i : Instr) (g : Guard) (tag : BitVec 6) (n : BitVec 4) (a : BitVec 5) : Prop :=
  (op, i) ∈ [(1, Instr.egat g tag n a), (2, .eupd g tag n a), (3, .epin g tag n a)]

/-- The three engine commands. -/
theorem engineInstr_cases {op : Nat} {i : Instr} {g : Guard} {tag : BitVec 6} {n : BitVec 4} {a : BitVec 5}
    (h : engineInstr op i g tag n a) :
    (op = 1 ∧ i = .egat g tag n a) ∨ (op = 2 ∧ i = .eupd g tag n a) ∨ (op = 3 ∧ i = .epin g tag n a) := by
  simpa [engineInstr] using h

/-- An engine command with its registers, its tag and its accesses free makes the checks before its reads. -/
theorem exec_engine_ready {s : State} {op : Nat} {i : Instr} {g : Guard} {tag : BitVec 6} {n : BitVec 4} {a : BitVec 5}
    (hi : engineInstr op i g tag n a) (hr : Ready s g [a]) (hs : Sound s (viewRegs (curTp s.d) n))
    (htag : tag = 0 ∨ (curTp s.d).busy.contains tag = false)
    (hheld : heldBy (getFloe s.d s.d.curF) (curTp s.d) true true false = false) :
    exec i s = .next { s with d := embCheck s.d n (rs s.d a) i } := by
  have hissue : embIssue s.d g tag n a i = embCheck s.d n (rs s.d a) i := by
    rw [embIssue, issueS_of_sound hr hs, tagFree_of_free _ htag, whenFree_of_not_held _ hheld]
  rw [← hissue]
  rcases engineInstr_cases hi with ⟨-, rfl⟩ | ⟨-, rfl⟩ | ⟨-, rfl⟩ <;> rfl

/-- A block tile that is refused traps with its cause. -/
theorem embCheck_refused {d : Data} {n : BitVec 4} {cls cause : Nat} (count : Word) (i : Instr)
    (h : blockTile d n = .error (cls, cause)) : embCheck d n count i = trap d cls cause := by
  simp only [embCheck, h]

/-- With its block tile at hand a command is refused for its count, or waits for its reads. -/
theorem embCheck_reached {d : Data} {n : BitVec 4} {x : List Word × Nat} (count : Word) (i : Instr) (h : blockTile d n = .ok x) :
    embCheck d n count i = if 2 ^ 24 < count.toNat then trap d 0x10 0x32 else blockCur d (.issue i) := by
  simp only [embCheck, h]

theorem blockTile_unbound {d : Data} {n : BitVec 4} (h : curView d n = none) : blockTile d n = .error (4, 0x10) := by
  simp only [blockTile, h]

/-- A block tile that is not in L2 or not aligned to 64 bytes (R350). -/
theorem blockTile_misplaced {d : Data} {n : BitVec 4} {v : View} (h : curView d n = some v)
    (hbad : lteSpace v.lte ≠ 1 ∨ elemAligned64 v.lte (winCoords v 0 0) = false) : blockTile d n = .error (4, 0x1F) := by
  have hnot : ¬ (lteSpace v.lte = 1 ∧ elemAligned64 v.lte (winCoords v 0 0) = true) := by
    rintro ⟨hspace, halign⟩
    rcases hbad with hbad | hbad
    · exact hbad hspace
    · exact Bool.false_ne_true (hbad.symm.trans halign)
  simp only [blockTile, h, if_neg hnot]

/-- A block below address 0 has no L2 address (R172, log entry 134). -/
theorem blockTile_negative {d : Data} {n : BitVec 4} {v : View} (h : curView d n = some v) (hspace : lteSpace v.lte = 1)
    (halign : elemAligned64 v.lte (winCoords v 0 0) = true) (hneg : elemInt v.lte (winCoords v 0 0) < 0) :
    blockTile d n = .error (3, 2) := by
  have hform : spaceFormI d (ltePlace v.lte) (elemInt v.lte (winCoords v 0 0)) (elemInt v.lte (winCoords v 0 0) + 63) = some (3, 2) := by
    rw [spaceFormI, if_pos hneg]
    exact if_pos (Or.inl hspace)
  simp only [blockTile, h, if_pos (And.intro hspace halign), hform]

/-! ## The end of an issue (R37, R224, R350) -/

/-- The issue of a live TP ends when none of its earlier accesses is pending. -/
theorem exec_issueCompletion_ready {s : State} {f k : Nat} {i : Instr} (hb : (getSlot s.d f k).block = .issue i)
    (hst : (getSlot s.d f k).st = .live) (hearlier : earlierPending (getTp s.d f k) = false) (hh : (getFloe s.d f).halted = false) :
    exec (.issueCompletion f k) s =
      .next { s with d := issueComplete { s.d with curF := f, curK := k, curW := (getSlot s.d f k).word } i } := by
  show nextD s (fun d => _) = _
  rw [nextD_eq]
  simp only [hb]
  rw [if_pos ⟨hst, hearlier, hh⟩]

/-- The issue of an engine command ends with its reads. -/
theorem issueComplete_engine {d : Data} {op : Nat} {i : Instr} {g : Guard} {tag : BitVec 6} {n : BitVec 4} {a : BitVec 5}
    (hi : engineInstr op i g tag n a) : issueComplete d i = embRead d op tag n a := by
  rcases engineInstr_cases hi with ⟨rfl, rfl⟩ | ⟨rfl, rfl⟩ | ⟨rfl, rfl⟩ <;> rfl

/-- With the command block read, the checks from the table's address on are made. -/
theorem embRead_read {d d1 : Data} {op ad : Nat} {tag : BitVec 6} {n : BitVec 4} {a : BitVec 5} {e b : List Word}
    (htile : blockTile d n = .ok (e, ad)) (hread : readWordsAt d (reqFloe d.curF) (ltePlace e) ad 8 = (d1, .ok b)) :
    embRead d op tag n a = embIssued d1 op tag (rn d1 a) b := by
  simp only [embRead, htile, hread]

section
variable {d : Data} {op m : Nat} {tag : BitVec 6} {b : List Word}

/-- A table's address that is not of R225's form. -/
theorem embIssued_badAddress (h : blkAddrOk (dwAt b 0) = false) : embIssued d op tag m b = trap d 0x10 0x30 := by
  simp [embIssued, h]

/-- A table in host memory, or not aligned to 64 bytes. -/
theorem embIssued_misplaced (h : blkAddrOk (dwAt b 0) = true) (hbad : wb (dwAt b 0) 52 4 = 5 ∨ wb (dwAt b 0) 0 6 ≠ 0) :
    embIssued d op tag m b = trap d 0x10 0x31 := by
  rw [embIssued, if_neg (by rw [h]; decide), if_pos hbad]

/-- With the descriptor read: the checks of R350 from it on. -/
theorem embIssued_read {d2 : Data} {t : List Word} (h : blkAddrOk (dwAt b 0) = true) (hspace : wb (dwAt b 0) 52 4 ≠ 5)
    (halign : wb (dwAt b 0) 0 6 = 0)
    (hread : readWordsAt d (reqFloe d.curF) (placeOf (dwAt b 0)).1 (placeOf (dwAt b 0)).2 8 = (d2, .ok t)) :
    embIssued d op tag m b =
      if descBad t then trap d2 0x10 0x31
      else if blockBad op m b then trap d2 0x10 0x30
      else if op = 2 ∧ edOpt t = 0 then trap d2 0x10 0x33
      else if asksModules op m b && tabAbsent d2 t then trap d2 3 4
      else embBegin d2 op tag m b t := by
  rw [embIssued, if_neg (by rw [h]; decide), if_neg (not_or.mpr ⟨hspace, not_not.mpr halign⟩)]
  simp only [hread]

end

/-- The commands that ask the modules of their table (log entry 154). -/
theorem asksModules_iff (op m : Nat) (b : List Word) :
    asksModules op m b = true ↔ op = 2 ∨ m ≠ 0 ∨ (op = 3 ∧ (b.getD 2 0).toNat % 8 ∈ [4, 5]) := by
  simp [asksModules, dwAt, wb_low, or_assoc]

/-! ## The command joins its engine (R91, R201) -/

/-- The command joins its die's engine under the next number, and the TP goes on. -/
theorem embBegin_eq (d : Data) (op : Nat) (tag : BitVec 6) (m : Nat) (b t : List Word) : embBegin d op tag m b t = modCurSlot
    (modDie d (dieOf d.curF) (fun c => { c with emb := { c.emb with
      nextId := c.emb.nextId + 1,
      cmds := c.emb.cmds ++ [{ op := op, id := c.emb.nextId, owner := (curTp d).owner, tag := tag, n := m, block := b,
                               tab := t, pos := 0, bad := [], rows := [], asked := [], bags := [], coalesced := false,
                               waiting := [], redo := [], stopped := none, failAt := none, wno := (curTp d).wi + 1,
                               after := pendAccesses (curTp d) }] } }))
    (fun sl => { sl with block := .none, tp := pastWord { sl.tp with
      tags := if tag = 0 then sl.tp.tags else sl.tp.tags &&& ~~~(BitVec.ofNat 64 (2 ^ tag.toNat)),
      busy := sl.tp.busy ++ [tag], wi := sl.tp.wi + 1, undone := sl.tp.undone ++ [sl.tp.wi + 1] } }) := by
  simp only [embBegin, retireAt, modCur, modTp, modEmb, modDie_curF, modDie_curK, modSlot_modSlot, beginCmd_eq]
  rfl

end Sys2Proof.Machine
end

section
/-!
PROOF. The commands of the embedding engine, from their issue until they join it.
-/

namespace Sys2Proof.Machine

open Sys2Proof.Safety

/-- Settles O36, by the first check of R350 that a command fails, at issue and after each of its two reads. -/
theorem engineCommandsIssue : Obligations.EngineCommandsIssue := by
  unfold Obligations.EngineCommandsIssue
  refine fun g tag n a op i hi => ⟨fun s hr hs htag hheld => ?issue,
    fun s f k d d1 e b ad hb hst hearlier hh hd htile hread => ?reads, fun d b t m => embBegin_eq d op tag m b t⟩
  case issue =>
    have hexec := exec_engine_ready hi hr hs htag hheld
    have refused : ∀ {cls cause}, blockTile s.d n = .error (cls, cause) → Traps i s cls cause :=
      fun h => leavesData_of_eq (embCheck_refused _ _ h) hexec
    refine ⟨fun hv => refused (blockTile_unbound hv), fun v hv => ⟨fun hbad => refused (blockTile_misplaced hv hbad),
      fun hspace halign hneg => refused (blockTile_negative hv hspace halign hneg)⟩, fun cls cause h => refused h,
      fun e ad h => ⟨fun hmany => ?_, fun hfew => ?_⟩⟩
    · exact leavesData_of_eq ((embCheck_reached _ _ h).trans (if_pos hmany)) hexec
    · exact leavesData_of_eq ((embCheck_reached _ _ h).trans (if_neg (Nat.not_lt.mpr hfew))) hexec
  case reads =>
    subst hd
    have hexec := exec_issueCompletion_ready hb hst hearlier hh
    rw [issueComplete_engine hi, embRead_read htile hread] at hexec
    refine ⟨fun h => leavesData_of_eq (embIssued_badAddress h) hexec, fun hok =>
      ⟨fun hbad => leavesData_of_eq (embIssued_misplaced hok (by rw [wb_low]; exact hbad)) hexec, fun d2 t hspace halign hdesc => ?_⟩⟩
    have hchecks := embIssued_read (op := op) (m := rn d1 a) (tag := tag) hok hspace ((wb_low _ 6).trans halign) hdesc
    refine ⟨fun hbad => ?desc, fun hdb hbad => ?block, fun hdb hbb hop hopt => ?optimiser, fun hdb hbb hopt hasks habsent => ?absent,
      fun hdb hbb hopt hjoin => ?joins⟩
    case desc => exact leavesData_of_eq (hchecks.trans (if_pos hbad)) hexec
    case block => exact leavesData_of_eq (by simp only [hchecks, hdb, hbad, Bool.false_eq_true, if_false, if_true]) hexec
    case optimiser => exact leavesData_of_eq (by simp only [hchecks, hdb, hbb, if_pos (And.intro hop hopt), Bool.false_eq_true, if_false]) hexec
    case absent =>
      have hopt' : ¬ (op = 2 ∧ edOpt t = 0) := fun h => hopt h.1 h.2
      have hask := (asksModules_iff op (rn d1 a) b).mpr hasks
      exact leavesData_of_eq (by simp [hchecks, hdb, hbb, hopt', hask, habsent]) hexec
    case joins =>
      have hopt' : ¬ (op = 2 ∧ edOpt t = 0) := fun h => hopt h.1 h.2
      have hpresent : (asksModules op (rn d1 a) b && tabAbsent d2 t) = false := by
        rw [Bool.and_eq_false_iff]
        refine hjoin.imp_left fun ⟨hne, hnone, hwhole⟩ => Bool.eq_false_iff.mpr fun hask => ?_
        rcases (asksModules_iff op (rn d1 a) b).mp hask with h | h | ⟨h3, h⟩
        · exact hne h
        · exact h hnone
        · exact hwhole h3 h
      exact leavesData_of_eq (by simp [hchecks, hdb, hbb, hopt', hpresent]) hexec

end Sys2Proof.Machine
end

section
/-!
PROOF. A word in hand of SGTH whose number in its record is not the one its command keeps (R67, R82).
-/

namespace Sys2Proof.Machine

open Sys2Proof.Safety

/-- A word in hand, number 1 of its record and not its last. -/
def secondWord : Flight :=
  { due := 0, place := 0, sub := 1, last := false,
    word := { data := 0, ridx := 0, fin := 0, gen := false, psn := false, mask := 0 } }

/-- An ACTIVE SGTH from outside FLOE with that word in hand, whose entry keeps word number 0. -/
def strayGather : Cmd :=
  { kind := .sgth, st := .active, slot := 0, owner := ⟨0, 0⟩, tag := 0, ip := some 0, op := none, gen := false, tile := none,
    tile2 := none, pat := [], branches := 0, space := 0, floeLocal := false, no := 0, start := 0, pos := 0, words := 0, sub := 0,
    points := [], inflight := [secondWord], idxs := [], idxNext := 0, idxWord := 0, wno := 0, after := [], killed := none }

/-- Floe 0 with that command in entry 0 of its stream table. -/
def strayState : State :=
  { State.reset with d := { Data.reset with floes := [{ Floe.reset with streams := [some strayGather] }] } }

/-- The word number that the entry keeps once the word in hand has entered its port: the next after that word. -/
theorem sub_streamStep_stray : (getCmd (streamStep strayState.d 0 0) 0 0).map (fun c => c.sub) = some 2 := by decide +kernel

/-- Refutes O21: as a word in hand of a SGTH enters its port, the command keeps the number after the word's own, where the clause has it
keep the number after the one it kept. The clause speaks of every state, and so of entries whose number is not that of their word in
hand: with word 1 in hand and number 0 kept, the entry keeps 2 and not 1. -/
theorem not_streamEntriesStartAndEnd : ¬ Obligations.StreamEntriesStartAndEnd := by
  unfold Obligations.StreamEntriesStartAndEnd
  rintro ⟨-, helements⟩
  obtain ⟨-, hmoves⟩ := helements strayState 0 0 _ _ _ strayGather _ rfl rfl rfl rfl rfl
  obtain ⟨hfar, -⟩ := hmoves rfl rfl rfl
  obtain ⟨-, -, -, hgather, -⟩ := hfar rfl rfl
  have hinHand := (hgather rfl (by decide +kernel)).1 secondWord [] rfl
  have hdata : streamStep strayState.d 0 0 = _ := data_eq_of_leavesData hinHand
  have hsub := sub_streamStep_stray
  rw [hdata] at hsub
  exact absurd hsub (by decide +kernel)

end Sys2Proof.Machine
end

section
/-!
PROOF SUPPORT. The floe's cycle under its own steps, and what the firing of a group, its commits and a switch box make of the data
(R99, R105, R111).
-/

namespace Sys2Proof.Machine

open Sys2Proof.Safety

/-! ## The advance cycle stands -/

/-- A change of a floe depends on what it makes of that floe. -/
theorem modFloe_congr {d : Data} {f : Nat} {h h' : Floe → Floe} (hk : h (getFloe d f) = h' (getFloe d f)) :
    modFloe d f h = modFloe d f h' := by
  rw [modFloe, modFloe, hk]

/-- What a change of floes keeps of every floe stands at each of them. -/
theorem getFloe_modFloe_keeps {α : Type} {p : Floe → α} {h : Floe → Floe} (d : Data) (f g : Nat) (hp : ∀ fl, p (h fl) = p fl) :
    p (getFloe (modFloe d f h) g) = p (getFloe d g) := by
  by_cases hg : g = f
  · subst hg
    by_cases hf : g < d.floes.length
    · rw [getFloe_modFloe_same d g h hf, hp]
    · rw [modFloe_out d g h (by omega)]
  · rw [getFloe_modFloe_other d f g h hg]

@[simp] theorem poisonWrite_floes (d : Data) (loc n : Nat) (psn : Bool) : (poisonWrite d loc n psn).floes = d.floes := by
  cases psn <;> rfl

@[simp] theorem memWrite_floes (d : Data) (loc n x : Nat) (psn : Bool) : (memWrite d loc n x psn).floes = d.floes := by
  rw [memWrite, poisonWrite_floes]

@[simp] theorem memWriteWords_floes (d : Data) (loc : Nat) (ws : List Word) : (memWriteWords d loc ws).floes = d.floes := by
  induction ws generalizing d loc with
  | nil => rfl
  | cons w ws ih => rw [memWriteWords, ih, memWrite_floes]

/-- A record changes no floe. -/
@[simp] theorem emitRec_floes (d : Data) (die lcnt : Nat) (r : Rec) : (emitRec d die lcnt r).floes = d.floes := by
  rw [emitRec, mbxPut.eq_def]
  split
  · exact memWriteWords_floes _ _ _
  · rfl

@[simp] theorem getFloe_parityRec (d : Data) (f g : Nat) : getFloe (parityRec d f) g = getFloe d g := by
  rw [parityRec, getFloe, emitRec_floes, getFloe]

@[simp] theorem cyc_qPush (d : Data) (f g : Nat) (q : QId) (w : FWord) (ready : Nat) :
    (getFloe (qPush d f q w ready) g).cyc = (getFloe d g).cyc := getFloe_modFloe_keeps (p := Floe.cyc) d f g fun _ => rfl

@[simp] theorem cyc_modGen (d : Data) (f m g n : Nat) (h : Gen → Gen) :
    (getFloe (modGen d f m g h) n).cyc = (getFloe d n).cyc := getFloe_modFloe_keeps (p := Floe.cyc) d f n fun _ => rfl

@[simp] theorem cyc_qPop (d : Data) (f g : Nat) (q : QId) : (getFloe (qPop d f q) g).cyc = (getFloe d g).cyc := by
  unfold qPop
  split
  · rfl
  · rename_i e es _
    refine (getFloe_modFloe_keeps (p := Floe.cyc) (if 2 ≤ e.par then parityRec d f else d) f g
      (h := fun fl => { fl with field := qSet fl.field q es }) fun _ => rfl).trans ?_
    split
    · rw [getFloe_parityRec]
    · rfl

/-- The words of a generator that enter their queue move no cycle. -/
@[simp] theorem cyc_genDeliver (d : Data) (f m g n : Nat) : (getFloe (genDeliver d f m g) n).cyc = (getFloe d n).cyc := by
  simp only [genDeliver]
  split
  · exact (foldl_keeps (p := fun d => (getFloe d n).cyc) (fun d e => cyc_qPush d f n _ _ _) _ _).trans (cyc_modGen d f m g n _)
  · rfl

/-! ## Groups (R105) -/

/-- A frozen or halted floe. -/
def Still (fl : Floe) : Prop := fl.frozen = true ∨ fl.halted = true

theorem groupFire_still {d : Data} {f k : Nat} (h : Still (getFloe d f)) : groupFire d f k = d := by
  rcases h with h | h <;> simp [groupFire, h]

theorem groupCommit_still {d : Data} {f k : Nat} (h : Still (getFloe d f)) : groupCommit d f k = d := by
  rcases h with h | h <;> simp [groupCommit, h]

theorem genAccess_still {d : Data} {f m g : Nat} (h : Still (getFloe d f)) : genAccess d f m g = d := by
  rcases h with h | h <;> simp [genAccess, h]

theorem switchHop_still {d : Data} {f b p : Nat} (h : Still (getFloe d f)) : switchHop d f b p = d := by
  rcases h with h | h <;> simp [switchHop, h]

section
variable {d : Data} {f k : Nat} {fl : Floe} {p : Plan} {g : Group} {fp : FirePlan} (hfl : fl = getFloe d f)
  (hp : p = planOf fl.cfg.cur k) (hg : g = fl.field.groups.getD k Group.reset) (hfp : fp = firePlan p g (portHead fl p))

include hfl hp hg

/-- A group does not fire before its interval has passed. -/
theorem groupFire_early (h : intervalPassed fl.cfg.cur p g fl.cyc = false) : groupFire d f k = d := by
  subst hfl hp hg
  unfold groupFire
  dsimp only
  rw [if_pos]
  rw [h, Bool.not_false, Bool.or_true]

include hfp

/-- A group does not fire without its words. -/
theorem groupFire_unfed (h : fireWords fl p fp.take = none) : groupFire d f k = d := by
  subst hfl hp hg hfp
  unfold groupFire
  dsimp only
  split
  · rfl
  split
  · rfl
  rw [h]

/-- A group that may fire takes its words, keeps its results until they are due and sends its tokens to ESINK. -/
theorem groupFire_fires {given : List (PortPlan × List FWord)} {js : List (List Nat × JoinOut)} {x : Firing} {toks : List FWord}
    {d1 : Data} (hfrozen : fl.frozen = false) (hhalted : fl.halted = false) (hports : p.ports ≠ [])
    (hinterval : intervalPassed fl.cfg.cur p g fl.cyc = true)
    (htake : fp.take ≠ [] ∨ firesAlone p g (portHead fl p) = true) (hgiven : fireWords fl p fp.take = some given)
    (hwant : ∀ e ∈ fp.want, ∀ q, e.1.q = some q → e.2 ≤ qFree fl.cfg.cur fl.field q)
    (hjs : js = joinAll p g fp.skip given fl.cfg.gen)
    (hx : x = if fp.skip = [] then runFiring fl p g.ops (givenAfter p js given) (portHead fl p)
      else { ins := [], outs := [], sink := [], ops := g.ops, blocked := false })
    (htoks : toks = js.flatMap (fun e => e.2.toks) ++ x.sink)
    (hd1 : d1 = modFloe d f (fun fl => { fl with
      active := true,
      field := { fl.field with groups := fl.field.groups.set k (groupAfter p g fl.cyc js given x.ops
        (x.outs ++ p.outs.flatMap (fun o => (js.flatMap (fun e => e.2.ends)).map (fun w => (o.o, w)))) fp.want) } }))
    (hblocked : x.blocked = false) (hsink : sinkRoom d1 f toks.length = true) :
    groupFire d f k = given.foldl (fun d e => match e.1.q with
      | some q => qPopN d f q e.2.length
      | none => d) (sinkAll d1 f toks) := by
  have hstays : ¬ (p.ports.isEmpty || fl.frozen || fl.halted || ! intervalPassed fl.cfg.cur p g fl.cyc) = true := by
    simp [hports, hfrozen, hhalted, hinterval]
  have hidle : ¬ (fp.take.isEmpty && ! firesAlone p g (portHead fl p)) = true := by
    rcases htake with h | h <;> simp [h]
  have hgo : ¬ (x.blocked || ! sinkRoom d1 f toks.length) = true := by simp [hblocked, hsink]
  subst hfl hp hg hfp hjs
  simp only [← List.isEmpty_iff] at hx
  subst hx htoks hd1
  unfold groupFire
  dsimp only
  rw [if_neg hstays, if_neg hidle, hgiven]
  dsimp only
  refine (if_pos ?_).trans (if_neg hgo)
  rw [List.all_eq_true]
  intro e he
  split
  · exact decide_eq_true (hwant e he _ ‹_›)
  · rfl

end

/-- The commits of a group that are due enter their queues, the others stay. -/
theorem groupCommit_commits {d : Data} {f k : Nat} {fl : Floe} {g : Group} (hfl : fl = getFloe d f)
    (hg : g = fl.field.groups.getD k Group.reset) (hfrozen : fl.frozen = false) (hhalted : fl.halted = false) :
    groupCommit d f k = (g.commits.filter (fun c => decide (c.due ≤ fl.cyc))).foldl (fun d c => commitWords d f k c.outs)
      (modFloe d f (fun fl => { fl with field := { fl.field with
        groups := fl.field.groups.set k { g with commits := g.commits.filter (fun c => decide (fl.cyc < c.due)) } } })) := by
  subst hfl hg
  simp [groupCommit, hfrozen, hhalted]

/-! ## Switch boxes (R111) -/

section
variable {d : Data} {f b p : Nat} {q : QId} {x : FWord} {mc : Bool} (hfrozen : (getFloe d f).frozen = false)
  (hhalted : (getFloe d f).halted = false) (hwords : hopWords (getFloe d f).cfg.cur b p ≠ []) (hin : hopIn b p = some q)
  (hhead : qHead d f q = some x) (hmc : mc = ((qGet (getFloe d f).field q).head?).any (fun e => e.mc))

/-- Every output of a word at a switch box has room for it. -/
def hopFits (d : Data) (f b : Nat) (x : FWord) (w : Nat) : Bool := hopsRoom d f b [w] (hopNeed d f b w x) && convFree d f b w

include hfrozen hhalted hwords hin hhead hmc

/-- A word crosses a switch box when every output it goes to has room. -/
theorem switchHop_eq : switchHop d f b p = if (hopWords (getFloe d f).cfg.cur b p).all (hopFits d f b x) then
    (hopWords (getFloe d f).cfg.cur b p).foldl (hopOne f b mc x) (qPop d f q) else d := by
  subst hmc
  have hwords' : (hopWords (getFloe d f).cfg.cur b p).isEmpty = false := by rwa [Bool.eq_false_iff, ne_eq, List.isEmpty_iff]
  simp only [switchHop, hfrozen, hhalted, hwords', hin, hhead, Bool.or_false, Bool.false_eq_true, if_false]
  rfl

theorem switchHop_crosses (hroom : ∀ w ∈ hopWords (getFloe d f).cfg.cur b p,
      hopsRoom d f b [w] (hopNeed d f b w x) = true ∧ convFree d f b w = true) :
    switchHop d f b p = (hopWords (getFloe d f).cfg.cur b p).foldl (hopOne f b mc x) (qPop d f q) := by
  rw [switchHop_eq hfrozen hhalted hwords hin hhead hmc, if_pos]
  exact List.all_eq_true.mpr fun w hw => Bool.and_eq_true_iff.mpr (hroom w hw)

theorem switchHop_waits {w : Nat} (hw : w ∈ hopWords (getFloe d f).cfg.cur b p)
    (hfull : hopsRoom d f b [w] (hopNeed d f b w x) = false ∨ convFree d f b w = false) : switchHop d f b p = d := by
  rw [switchHop_eq hfrozen hhalted hwords hin hhead hmc, if_neg]
  intro hall
  exact Bool.eq_false_iff.mp (Bool.and_eq_false_iff.mpr hfull) (List.all_eq_true.mp hall w hw)

end

end Sys2Proof.Machine
end

section
/-!
PROOF SUPPORT. What an address generator's access makes of the data: one lemma for each way it waits or moves (R99-R102, R107, R108).
-/

namespace Sys2Proof.Machine

open Sys2Proof.Safety

/-- What a generator's access leaves. -/
theorem leavesData_generatorAccess {s : State} {f m g : Nat} {d : Data} (h : genAccess s.d f m g = d) :
    LeavesData (.generatorAccess f m g) s d := leavesData_of_eq h

section
variable {d : Data} {f m g : Nat} {q : QId}

/-! ## The access of a cycle (R102) -/

/-- A live generator's words that are due enter their queue; then it makes its access, if it has made none in the cycle. -/
theorem genAccess_live (hv : agV (agc (getFloe d f).cfg.cur m g) = true) (hfrozen : (getFloe d f).frozen = false)
    (hhalted : (getFloe d f).halted = false) : genAccess d f m g =
      if (genAt (getFloe (genDeliver d f m g) f) m g).lastCycle = some (getFloe d f).cyc then genDeliver d f m g
      else if agWrite (agc (getFloe d f).cfg.cur m g) then genWrite (genDeliver d f m g) f m g
      else genRead (genDeliver d f m g) f m g := by
  simp only [genAccess, hv, hfrozen, hhalted, Bool.not_true, Bool.or_false, Bool.false_eq_true, if_false]

/-! ## Reads -/

/-- A read waits for room in its queue. -/
theorem genRead_full (hq : genQueue m g (agDest (agc (getFloe d f).cfg.cur m g)) true = some q) (hroom : qRoom d f q 1 = false) :
    genRead d f m g = d := by
  simp [genRead, hq, hroom]

section
variable (hq : genQueue m g (agDest (agc (getFloe d f).cfg.cur m g)) true = some q) (hroom : qRoom d f q 1 = true)

include hq hroom

theorem genRead_fifo (hmode : mccMode (mcc (getFloe d f).cfg.cur m) = 1) : genRead d f m g = genReadFifo d f m g := by
  simp only [genRead, hq, hroom, hmode, if_true]

theorem genRead_line (hmode : mccMode (mcc (getFloe d f).cfg.cur m) = 2) : genRead d f m g = genReadLine d f m g := by
  simp only [genRead, hq, hroom, hmode, if_true]

/-- A tile store's read waits until it may use its buffer. -/
theorem genRead_store (hfifo : mccMode (mcc (getFloe d f).cfg.cur m) ≠ 1) (hline : mccMode (mcc (getFloe d f).cfg.cur m) ≠ 2) :
    genRead d f m g = if genMay (getFloe d f) m g then
      (if agIdx (agc (getFloe d f).cfg.cur m g) then genReadIndexed d f m g else genReadAffine d f m g) else d := by
  unfold genRead
  simp only [hq, hroom, if_true]

end

/-- A change of a generator depends on what it makes of that generator. -/
theorem modGen_congr {h h' : Gen → Gen} (hk : h (genAt (getFloe d f) m g) = h' (genAt (getFloe d f) m g)) :
    modGen d f m g h = modGen d f m g h' := by
  rw [modGen, modGen, modFloe_congr]
  rw [hk]

/-- A read of a cell changes no generator. -/
@[simp] theorem genAt_cellRead (d : Data) (f m w g : Nat) : genAt (getFloe (cellRead d f m w).1 f) m g = genAt (getFloe d f) m g :=
  getFloe_modFloe_keeps (p := fun fl => genAt fl m g) d f f fun _ => rfl

/-- An affine read that no drain holds reads the word of its pattern and steps. -/
theorem genReadAffine_reads {t : Table} {r : Data × Nat × Bool} {w : FWord} (ht : t = (getFloe d f).cfg.cur)
    (h : (getFloe d f).cfg.state ≠ .draining ∨ (genAt (getFloe d f) m g).c0 ≠ 0)
    (hr : r = cellRead d f m (genBase t m g (genAt (getFloe d f) m g) + genOff (agc t m g) (agl t m g) (genAt (getFloe d f) m g)))
    (hw : w = dataWord r.2.1 (genAt (getFloe d f) m g).recNo
      (genLevel (agl t m g) (genAt (getFloe d f) m g).c0 (genAt (getFloe d f) m g).c1) (getFloe d f).cfg.gen r.2.2 0) :
    genReadAffine d f m g = modGen r.1 f m g (fun x => { genSend (genStep (agl t m g) x) (getFloe d f).cyc w with
      accesses := x.accesses + 1, buf := if closes (mcc t m) w then x.buf + 1 else x.buf }) := by
  subst ht hw hr
  refine if_neg fun hdrain => ?_
  rcases h with h | h
  · exact h hdrain.1
  · exact h hdrain.2

/-- The data after a FIFO's read of entry e, the word that w makes of the generator on its way. -/
def fifoTaken (d : Data) (f m g : Nat) (e : QEnt) (es : List QEnt) (now : Nat) (w : Gen → FWord) : Data :=
  modGen (modFloe (if 2 ≤ e.par then parityRec d f else d) f (fun fl => { fl with
    field := { fl.field with fifo := fl.field.fifo.set m es } })) f m g (fun x =>
      { genSend x now (w x) with moved := x.moved + 1, accesses := x.accesses + 1 })

theorem fifoTaken_congr {e : QEnt} {es : List QEnt} {now : Nat} {w w' : Gen → FWord}
    (hw : w (genAt (getFloe d f) m g) = w' (genAt (getFloe d f) m g)) :
    fifoTaken d f m g e es now w = fifoTaken d f m g e es now w' := by
  refine modGen_congr ?_
  have hgen : ∀ d' : Data, genAt (getFloe (modFloe d' f (fun fl => { fl with
      field := { fl.field with fifo := fl.field.fifo.set m es } })) f) m g = genAt (getFloe d' f) m g :=
    fun d' => getFloe_modFloe_keeps (p := fun fl => genAt fl m g) d' f f fun _ => rfl
  have hparity : getFloe (if 2 ≤ e.par then parityRec d f else d) f = getFloe d f := by
    split
    · rw [getFloe_parityRec]
    · rfl
  rw [hgen, hparity, hw]

theorem genReadFifo_empty (h : (getFloe d f).field.fifo.getD m [] = []) : genReadFifo d f m g = d := by
  simp only [genReadFifo, h]

theorem genReadFifo_early {e : QEnt} {es : List QEnt} (h : (getFloe d f).field.fifo.getD m [] = e :: es)
    (hready : (getFloe d f).cyc < e.ready) : genReadFifo d f m g = d := by
  simp only [genReadFifo, h, if_neg hready.not_ge]

/-- A FIFO delivers its oldest entry, a token from its sideband. -/
theorem genReadFifo_takes {e : QEnt} {es : List QEnt} {d1 : Data} {w : FWord} {at' : Gen → Nat} {psn : Bool}
    (h : (getFloe d f).field.fifo.getD m [] = e :: es) (hready : e.ready ≤ (getFloe d f).cyc) (hw : w = entWord e)
    (hat : at' = fun x => agBase (agc (getFloe d f).cfg.cur m g) + x.moved % agLen (agc (getFloe d f).cfg.cur m g))
    (hd1 : ((isErr w || isBare w) = true ∧ d1 = d ∧ psn = w.psn) ∨ ((isErr w || isBare w) = false ∧
      d1 = (cellRead d f m (at' (genAt (getFloe d f) m g))).1 ∧
      psn = (w.psn || (cellRead d f m (at' (genAt (getFloe d f) m g))).2.2))) :
    genReadFifo d f m g = fifoTaken d1 f m g e es (getFloe d f).cyc (fun x =>
      if isErr w || isBare w then { w with gen := (getFloe d f).cfg.gen }
      else dataWord (memRead d (cellLoc f m (at' x)) 16) w.ridx.toNat (wEnd w) (getFloe d f).cfg.gen psn w.mask) := by
  subst hw hat
  rcases hd1 with ⟨htoken, rfl, rfl⟩ | ⟨htoken, rfl, rfl⟩
  · simp only [genReadFifo, h, if_pos hready, htoken, if_true]
    rfl
  · simp only [genReadFifo, h, if_pos hready, htoken, Bool.false_eq_true, if_false]
    refine fifoTaken_congr (w := fun _ => _) ?_
    rw [genAt_cellRead]
    rfl

/-- A line buffer waits for its window. -/
theorem genReadLine_waits (h : (lineMate (getFloe d f) m g).closed <
      ((genAt (getFloe d f) m g).closed + mccLines (mcc (getFloe d f).cfg.cur m)) * mccLine (mcc (getFloe d f).cfg.cur m)) :
    genReadLine d f m g = d := if_pos h

/-- A line buffer delivers the next word of its window. -/
theorem genReadLine_delivers {lines : Nat} {r : Data × Nat × Bool} {w : FWord}
    (hlines : lines = mccLines (mcc (getFloe d f).cfg.cur m))
    (h : ((genAt (getFloe d f) m g).closed + lines) * mccLine (mcc (getFloe d f).cfg.cur m) ≤ (lineMate (getFloe d f) m g).closed)
    (hr : r = cellRead d f m (agBase (agc (getFloe d f).cfg.cur m g) + ((genAt (getFloe d f) m g).closed +
      (genAt (getFloe d f) m g).c0) % lines * mccLine (mcc (getFloe d f).cfg.cur m) + (genAt (getFloe d f) m g).c1))
    (hw : w = dataWord r.2.1 (genAt (getFloe d f) m g).recNo (if (genAt (getFloe d f) m g).c0 + 1 = lines then 1 else 0)
      (getFloe d f).cfg.gen r.2.2 0) :
    genReadLine d f m g = modGen r.1 f m g (fun x => { genSend x (getFloe d f).cyc w with
      accesses := x.accesses + 1,
      c0 := if x.c0 + 1 = lines then 0 else x.c0 + 1,
      c1 := if x.c0 + 1 = lines then (if x.c1 + 1 = mccLine (mcc (getFloe d f).cfg.cur m) then 0 else x.c1 + 1) else x.c1,
      recNo := if x.c0 + 1 = lines then x.recNo + 1 else x.recNo,
      closed := if x.c0 + 1 = lines ∧ x.c1 + 1 = mccLine (mcc (getFloe d f).cfg.cur m) then x.closed + 1 else x.closed }) := by
  subst hlines hw hr
  refine (if_neg h.not_gt).trans (modGen_congr ?_)
  rw [genAt_cellRead]

/-- An indexed read waits for its index. -/
theorem genReadIndexed_waits {iq : QId} (hiq : genQueue m g (agIsrc (agc (getFloe d f).cfg.cur m g)) false = some iq)
    (h : qHead d f iq = none) : genReadIndexed d f m g = d := by
  simp only [genReadIndexed, hiq, h]

/-- The data after an indexed read takes its index word, n accesses made and the word w on its way. -/
def indexTaken (d : Data) (f m g : Nat) (iq : QId) (t : Table) (now n : Nat) (w : FWord) : Data :=
  modGen (qPop d f iq) f m g (fun x => { genSend x now w with
    accesses := x.accesses + n, buf := if closes (mcc t m) w then x.buf + 1 else x.buf })

section
variable {iq : QId} {ix : FWord} (hiq : genQueue m g (agIsrc (agc (getFloe d f).cfg.cur m g)) false = some iq)
  (hix : qHead d f iq = some ix)

include hiq hix

/-- A token that comes as an index goes on in place of a word. -/
theorem genReadIndexed_token (htoken : (isErr ix || isBare ix) = true) : genReadIndexed d f m g =
    indexTaken d f m g iq (getFloe d f).cfg.cur (getFloe d f).cyc 0 { ix with gen := (getFloe d f).cfg.gen } := by
  simp only [genReadIndexed, hiq, hix, htoken, if_true]
  rfl

/-- An offset out of the buffer gives a RANGE token. -/
theorem genReadIndexed_range (htoken : (isErr ix || isBare ix) = false)
    (hoff : offOk (getFloe d f).cfg.cur m g (indexOff ix) = false) : genReadIndexed d f m g =
    indexTaken d f m g iq (getFloe d f).cfg.cur (getFloe d f).cyc 0
      (rangeTok m (genAt (getFloe d f) m g) (indexOff ix) ix (getFloe d f).cfg.gen) := by
  simp only [genReadIndexed, hiq, hix, htoken, hoff, Bool.false_eq_true, if_false]
  rfl

/-- An offset in the buffer gives its word. -/
theorem genReadIndexed_word {r : Data × Nat × Bool} (htoken : (isErr ix || isBare ix) = false)
    (hoff : offOk (getFloe d f).cfg.cur m g (indexOff ix) = true)
    (hr : r = cellRead d f m (genBase (getFloe d f).cfg.cur m g (genAt (getFloe d f) m g) + (indexOff ix).toNat)) :
    genReadIndexed d f m g = indexTaken r.1 f m g iq (getFloe d f).cfg.cur (getFloe d f).cyc 1
      (dataWord r.2.1 ix.ridx.toNat (wEnd ix) (getFloe d f).cfg.gen (r.2.2 || ix.psn) 0) := by
  subst hr
  simp only [genReadIndexed, hiq, hix, htoken, hoff, Bool.false_eq_true, if_false, if_true]
  rfl

end

/-! ## Writes -/

/-- The first entry of a queue is its head. -/
theorem qAt_zero (d : Data) (f : Nat) (q : QId) : qAt d f q 0 = qHead d f q := by
  unfold qAt qHead
  cases qGet (getFloe d f).field q <;> rfl

theorem qDropAt_zero (d : Data) (f : Nat) (q : QId) : qDropAt d f q 0 = qPop d f q := rfl

section
variable (hq : genQueue m g (agDest (agc (getFloe d f).cfg.cur m g)) false = some q)

include hq

theorem genWrite_fifo (hmode : mccMode (mcc (getFloe d f).cfg.cur m) = 1) : genWrite d f m g = genWriteFifo d f m g q := by
  simp only [genWrite, hq, hmode]

theorem genWrite_line (hmode : mccMode (mcc (getFloe d f).cfg.cur m) = 2) : genWrite d f m g = genWriteLine d f m g q := by
  simp only [genWrite, hq, hmode]

/-- A tile store's write waits until it may use its buffer. -/
theorem genWrite_store (hfifo : mccMode (mcc (getFloe d f).cfg.cur m) ≠ 1) (hline : mccMode (mcc (getFloe d f).cfg.cur m) ≠ 2) :
    genWrite d f m g = if genMay (getFloe d f) m g then
      (if agIdx (agc (getFloe d f).cfg.cur m g) then genWriteIndexed d f m g q else genWriteAffine d f m g q) else d := by
  unfold genWrite
  simp only [hq]

end

/-- A FIFO's write waits for a word and for room. -/
theorem genWriteFifo_waits (h : qHead d f q = none ∨
      agLen (agc (getFloe d f).cfg.cur m g) ≤ ((getFloe d f).field.fifo.getD m []).length) : genWriteFifo d f m g q = d := by
  unfold genWriteFifo
  dsimp only
  split
  · rfl
  · rename_i w hw
    rcases h with h | h
    · rw [hw] at h; cases h
    · rw [if_neg (by omega)]

/-- A FIFO's write adds an entry. -/
theorem genWriteFifo_enters {w : FWord} (hw : qHead d f q = some w)
    (hroom : ((getFloe d f).field.fifo.getD m []).length < agLen (agc (getFloe d f).cfg.cur m g)) :
    genWriteFifo d f m g q = modGen (modFloe (qPop d f q) f (fun fl => { fl with field := { fl.field with
      fifo := fl.field.fifo.set m (fl.field.fifo.getD m [] ++
        [{ word := w, ready := (getFloe d f).cyc + 2, par := 0, mc := false }]) } })) f m g (fun x =>
          { genTake x (getFloe d f).cyc (if isErr w || isBare w then none
              else some (agBase (agc (getFloe d f).cfg.cur m g) + x.moved % agLen (agc (getFloe d f).cfg.cur m g))) w with
            moved := x.moved + 1, accesses := x.accesses + 1 }) := by
  simp only [genWriteFifo, hw, if_pos hroom]
  rw [modFloe_congr]
  rw [cyc_qPop]

/-- A line buffer's write takes a bare end token and writes nothing. -/
theorem genWriteLine_bare {w : FWord} (hw : qHead d f q = some w) (hbare : isBare w = true) (herr : isErr w = false) :
    genWriteLine d f m g q = modGen (qPop d f q) f m g (fun x => { x with lastCycle := some (getFloe d f).cyc }) := by
  simp only [genWriteLine, hw, hbare, Bool.or_true, if_true, genToken, herr, Bool.false_eq_true, if_false, qDropAt_zero]

/-- A line buffer's write waits before a line that is still needed. -/
theorem genWriteLine_waits {w : FWord} (hw : qHead d f q = some w) (htoken : (isErr w || isBare w) = false)
    (h : (lineMate (getFloe d f) m g).closed + mccLines (mcc (getFloe d f).cfg.cur m) ≤
      (genAt (getFloe d f) m g).moved / mccLine (mcc (getFloe d f).cfg.cur m)) : genWriteLine d f m g q = d := by
  simp only [genWriteLine, hw, htoken, Bool.false_eq_true, if_false, if_neg h.not_gt]

/-- A line buffer's write takes its word. -/
theorem genWriteLine_takes {w : FWord} (hw : qHead d f q = some w) (htoken : (isErr w || isBare w) = false)
    (h : (genAt (getFloe d f) m g).moved / mccLine (mcc (getFloe d f).cfg.cur m) <
      (lineMate (getFloe d f) m g).closed + mccLines (mcc (getFloe d f).cfg.cur m)) :
    genWriteLine d f m g q = modGen (qPop d f q) f m g (fun y =>
      { genTake y (getFloe d f).cyc (some (agBase (agc (getFloe d f).cfg.cur m g) +
          (genAt (getFloe d f) m g).moved / mccLine (mcc (getFloe d f).cfg.cur m) % mccLines (mcc (getFloe d f).cfg.cur m) *
            mccLine (mcc (getFloe d f).cfg.cur m) + y.moved % mccLine (mcc (getFloe d f).cfg.cur m))) w with
        moved := y.moved + 1, accesses := y.accesses + 1 }) := by
  simp only [genWriteLine, hw, htoken, Bool.false_eq_true, if_false, if_pos h]

theorem genWriteAffine_waits (hw : qHead d f q = none) : genWriteAffine d f m g q = d := by
  simp only [genWriteAffine, hw]

/-- A write takes its word at the point of its pattern. -/
theorem genWriteAffine_takes {w : FWord} (hw : qHead d f q = some w) (htoken : (isErr w || isBare w) = false) :
    genWriteAffine d f m g q = modGen (qPop d f q) f m g (fun x =>
      { genTake (genStep (agl (getFloe d f).cfg.cur m g) x) (getFloe d f).cyc (some (genBase (getFloe d f).cfg.cur m g x +
          genOff (agc (getFloe d f).cfg.cur m g) (agl (getFloe d f).cfg.cur m g) x)) w with
        accesses := x.accesses + 1, buf := if closes (mcc (getFloe d f).cfg.cur m) w then x.buf + 1 else x.buf }) := by
  simp only [genWriteAffine, hw, htoken, Bool.false_eq_true, if_false]

/-- A bare end token writes nothing and may close the buffer. -/
theorem genWriteAffine_bare {w : FWord} (hw : qHead d f q = some w) (hbare : isBare w = true) (herr : isErr w = false) :
    genWriteAffine d f m g q = modGen (qPop d f q) f m g (fun x => if closes (mcc (getFloe d f).cfg.cur m) w
      then { genTake x (getFloe d f).cyc none w with buf := x.buf + 1 } else { x with lastCycle := some (getFloe d f).cyc }) := by
  simp only [genWriteAffine, hw, hbare, Bool.or_true, if_true, genDataToken, genToken, herr, Bool.false_eq_true, if_false,
    qDropAt_zero]

/-- An error token closes no buffer. -/
theorem closes_of_isErr (v : Nat) {w : FWord} (h : isErr w = true) : closes v w = false := by
  rw [closes, h, Bool.not_true, Bool.and_false]

/-- An error token waits for room at ESINK. -/
theorem genWriteAffine_error_waits {w : FWord} (hw : qHead d f q = some w) (herr : isErr w = true)
    (hroom : sinkRoom d f 1 = false) : genWriteAffine d f m g q = d := by
  simp only [genWriteAffine, hw, herr, Bool.true_or, if_true, genDataToken, genToken, hroom, Bool.false_eq_true, if_false]

/-- An error token goes to ESINK. -/
theorem genWriteAffine_error {w : FWord} (hw : qHead d f q = some w) (herr : isErr w = true) (hroom : sinkRoom d f 1 = true) :
    genWriteAffine d f m g q =
      modGen (sinkPush (qPop d f q) f w) f m g (fun x => { x with lastCycle := some (getFloe d f).cyc }) := by
  simp only [genWriteAffine, hw, herr, Bool.true_or, if_true, genDataToken, genToken, hroom, closes_of_isErr _ herr,
    Bool.false_eq_true, if_false, qDropAt_zero]

section
variable {iq : QId} {ix w : FWord} (hiq : genQueue m g (agIsrc (agc (getFloe d f).cfg.cur m g)) false = some iq) (hne : iq ≠ q)
  (hix : qHead d f iq = some ix) (hindex : (isErr ix || isBare ix) = false) (hw : qHead d f q = some w)
  (htoken : (isErr w || isBare w) = false)

include hiq hne hix hindex hw htoken

/-- An index word and a data word meet: a write in the buffer, a RANGE token for one out of it. -/
theorem genWriteIndexed_pair : genWriteIndexed d f m g q =
    if offOk (getFloe d f).cfg.cur m g (indexOff ix) then modGen (qPop (qPop d f q) f iq) f m g (fun y =>
      { genTake y (getFloe d f).cyc (some (genBase (getFloe d f).cfg.cur m g (genAt (getFloe d f) m g) + (indexOff ix).toNat))
          { w with psn := w.psn || ix.psn } with
        accesses := y.accesses + 1, buf := if closes (mcc (getFloe d f).cfg.cur m) w then y.buf + 1 else y.buf })
    else if sinkRoom d f 1 then modGen (sinkPush (qPop (qPop d f q) f iq) f
      (rangeTok m (genAt (getFloe d f) m g) (indexOff ix) ix (getFloe d f).cfg.gen)) f m g (fun y =>
        { genTake y (getFloe d f).cyc none { w with psn := w.psn || ix.psn } with
          buf := if closes (mcc (getFloe d f).cfg.cur m) w then y.buf + 1 else y.buf })
    else d := by
  simp only [genWriteIndexed, hiq, if_neg hne, qAt_zero, hix, hindex, hw, htoken, Bool.false_eq_true, if_false]
  rfl

end

end

end Sys2Proof.Machine
end

section
/-!
PROOF. The steps of the field: groups, commits, generators and switch boxes.
-/

namespace Sys2Proof.Machine

open Sys2Proof.Safety

/-- Settles O42: each step of the field is its function of the data, and each clause one way that function goes. (As the statement is
bracketed, its clauses on writes stand under the premises of a read, and those on line buffers and indexed reads under those of a FIFO;
each is proved here from its own premises alone.) -/
theorem fieldMoves : Obligations.FieldMoves := by
  unfold Obligations.FieldMoves
  refine ⟨⟨?still, ?group, ?affine, ?hop⟩, ?generators⟩
  case still =>
    intro s f c b p h
    exact ⟨exec_kept_of_eq (groupFire_still h), exec_kept_of_eq (groupCommit_still h), exec_kept_of_eq (genAccess_still h),
      exec_kept_of_eq (switchHop_still h)⟩
  case group =>
    intro s f k fl p g fp hfl hfrozen hhalted hp hg hfp
    refine ⟨fun h => exec_kept_of_eq (groupFire_early hfl hp hg h), fun h => exec_kept_of_eq (groupFire_unfed hfl hp hg hfp h), ?_,
      leavesData_of_eq (groupCommit_commits hfl hg hfrozen hhalted)⟩
    intro given js x toks d hports hinterval htake hgiven hwant hjs hx htoks hd hblocked hsink
    exact leavesData_of_eq
      (groupFire_fires hfl hp hg hfp hfrozen hhalted hports hinterval htake hgiven hwant hjs hx htoks hd hblocked hsink)
  case affine =>
    rintro s f m g d fl t q r w hv hfrozen hhalted hd rfl rfl hdir hlast hq hfifo hline hidx hmay hdrain hr hw
    have hacc : genAccess s.d f m g = genRead d f m g := by
      rw [genAccess_live hv hfrozen hhalted, ← hd, if_neg hlast, hdir, if_neg Bool.false_ne_true]
    refine ⟨fun hroom => leavesData_generatorAccess (hacc.trans (genRead_full hq hroom)), fun hroom =>
      leavesData_generatorAccess (hacc.trans ?_)⟩
    rw [genRead_store hq hroom hfifo hline, if_pos hmay, hidx, if_neg Bool.false_ne_true]
    exact genReadAffine_reads rfl hdrain hr hw
  case hop =>
    intro s f b p q x mc hfrozen hhalted hwords hin hhead hmc
    exact ⟨fun hroom => leavesData_of_eq (switchHop_crosses hfrozen hhalted hwords hin hhead hmc hroom),
      fun w hw hfull => exec_kept_of_eq (switchHop_waits hfrozen hhalted hwords hin hhead hmc hw hfull)⟩
  case generators =>
    rintro s f m g _ i d fl t c x q mode base shuts token rfl hv hfrozen hhalted rfl hd rfl rfl rfl rfl rfl rfl rfl rfl
    have hcyc : (getFloe d f).cyc = (getFloe s.d f).cyc := by rw [hd, cyc_genDeliver]
    have hlive := genAccess_live hv hfrozen hhalted
    rw [← hd, ← hcyc] at hlive
    rw [← hcyc]
    refine ⟨fun hlast => leavesData_generatorAccess (hlive.trans (if_pos hlast)), fun hlast hdir hq =>
      ⟨fun hroom => ?full, fun hroom hmode => ⟨fun h => ?empty, fun e es d1 w psn h =>
        ⟨fun hready => ?early, fun hready hw hd1 => ?entry⟩,
        fun hmode lines w r hlines => ⟨fun h => ?lineWaits, fun h hr hw => ?line⟩,
        fun hfifo hline hmay => ?readWaits,
        fun hfifo hline hmay hidx iq hiq => ⟨fun h => ?noIndex, fun ix d1 w n hix hcase => ?indexed⟩⟩,
      fun hlast hwrite hq => ?writes⟩⟩
    case writes =>
      rw [if_neg hlast, if_pos hwrite] at hlive
      refine ⟨fun hmode => ?writeFifo, fun hmode w hw => ?writeLine, fun hfifo hline hmay => ?writeWaits, fun hfifo hline hmay =>
        ⟨fun hidx => ?writeAffine, fun hidx iq ix w hiq hne hix hindex hw htoken => ?writeIndexed⟩⟩
      case writeFifo =>
        rw [genWrite_fifo hq hmode] at hlive
        exact ⟨fun h => leavesData_generatorAccess (hlive.trans (genWriteFifo_waits h)), fun w hw hroom =>
          leavesData_generatorAccess (hlive.trans (genWriteFifo_enters hw hroom))⟩
      case writeLine =>
        rw [genWrite_line hq hmode] at hlive
        exact ⟨fun hbare herr => leavesData_generatorAccess (hlive.trans (genWriteLine_bare hw hbare herr)), fun htoken =>
          ⟨fun h => leavesData_generatorAccess (hlive.trans (genWriteLine_waits hw htoken h)), fun h =>
            leavesData_generatorAccess (hlive.trans (genWriteLine_takes hw htoken h))⟩⟩
      case writeWaits =>
        rw [genWrite_store hq hfifo hline, hmay, if_neg Bool.false_ne_true] at hlive
        exact leavesData_generatorAccess hlive
      case writeAffine =>
        rw [genWrite_store hq hfifo hline, if_pos hmay, hidx, if_neg Bool.false_ne_true] at hlive
        exact ⟨fun hw => leavesData_generatorAccess (hlive.trans (genWriteAffine_waits hw)), fun w hw =>
          ⟨fun htoken => leavesData_generatorAccess (hlive.trans (genWriteAffine_takes hw htoken)), fun hbare herr =>
            leavesData_generatorAccess (hlive.trans (genWriteAffine_bare hw hbare herr)), fun herr hroom =>
            leavesData_generatorAccess (hlive.trans (genWriteAffine_error_waits hw herr hroom)), fun herr hroom =>
            leavesData_generatorAccess (hlive.trans (genWriteAffine_error hw herr hroom))⟩⟩
      case writeIndexed =>
        rw [genWrite_store hq hfifo hline, if_pos hmay, if_pos hidx, genWriteIndexed_pair hiq hne hix hindex hw htoken] at hlive
        refine ⟨fun hoff => leavesData_generatorAccess (hlive.trans (if_pos hoff)),
          fun hoff hroom => leavesData_generatorAccess (hlive.trans ?_),
          fun hoff hroom => leavesData_generatorAccess (hlive.trans ?_)⟩
        · exact (if_neg (Bool.eq_false_iff.mp hoff)).trans (if_pos hroom)
        · exact (if_neg (Bool.eq_false_iff.mp hoff)).trans (if_neg (Bool.eq_false_iff.mp hroom))
    all_goals rw [if_neg hlast, hdir, if_neg Bool.false_ne_true] at hlive
    case full => exact leavesData_generatorAccess (hlive.trans (genRead_full hq hroom))
    case empty => exact leavesData_generatorAccess (hlive.trans ((genRead_fifo hq hroom hmode).trans (genReadFifo_empty h)))
    case early => exact leavesData_generatorAccess (hlive.trans ((genRead_fifo hq hroom hmode).trans (genReadFifo_early h hready)))
    case entry =>
      exact leavesData_generatorAccess (hlive.trans ((genRead_fifo hq hroom hmode).trans (genReadFifo_takes h hready hw rfl hd1)))
    case lineWaits =>
      subst hlines
      exact leavesData_generatorAccess (hlive.trans ((genRead_line hq hroom hmode).trans (genReadLine_waits h)))
    case line =>
      exact leavesData_generatorAccess (hlive.trans ((genRead_line hq hroom hmode).trans (genReadLine_delivers hlines h hr hw)))
    all_goals rw [genRead_store hq hroom hfifo hline, hmay] at hlive
    case readWaits => exact leavesData_generatorAccess hlive
    all_goals rw [if_pos rfl, if_pos hidx] at hlive
    case noIndex => exact leavesData_generatorAccess (hlive.trans (genReadIndexed_waits hiq h))
    case indexed =>
      rcases hcase with ⟨htoken, rfl, rfl, rfl⟩ | ⟨htoken, hoff, rfl, rfl, rfl⟩ | ⟨htoken, hoff, rfl, rfl, rfl⟩
      · exact leavesData_generatorAccess (hlive.trans (genReadIndexed_token hiq hix htoken))
      · exact leavesData_generatorAccess (hlive.trans (genReadIndexed_range hiq hix htoken hoff))
      · exact leavesData_generatorAccess (hlive.trans (genReadIndexed_word hiq hix htoken hoff rfl))

end Sys2Proof.Machine
end

section
/-!
PROOF SUPPORT. What a field word holds (R80, R106, R107, R158): its quarters, its elements, its mask and its sideband.
-/

namespace Sys2Proof.Machine

/-! ## Formats (R158) -/

/-- Elements of a format fill a word, and a quarter holds a whole number of them. -/
theorem fieldBits_divides {f : Nat} (hf : f ≤ 11) :
    fieldBits f ∣ 32 ∧ fmtBits f ≤ fieldBits f ∧ 0 < fmtBits f ∧ fieldElems f * fieldBits f = 128 := by
  decide +revert

/-! ## Quarters -/

/-- Item i of a table by index. -/
theorem getD_map_range {α : Type} (h : Nat → α) (z : α) {n i : Nat} (hi : i < n) : ((List.range n).map h).getD i z = h i := by
  rw [List.getD_eq_getElem _ _ (by simpa using hi), List.getElem_map, List.getElem_range]

/-- A field of a field. -/
theorem fld_fld {o n lo w : Nat} (x : Nat) (h : o + w ≤ n) : fld (fld x lo n) o w = fld x (lo + o) w := by
  rw [fld.eq_def x lo n, fld_mod_two_pow _ _ _ _ h, fld, Nat.div_div_eq_div_mul, ← pow_add, fld]

/-- Fields of w bits put side by side, one in each b bits, read back. -/
theorem fld_foldr {w b : Nat} (hw : w ≤ b) (l : List Nat) (i : Nat) :
    fld (l.foldr (fun x acc => x % 2 ^ w + 2 ^ b * acc) 0) (i * b) w = l.getD i 0 % 2 ^ w := by
  induction l generalizing i with
  | nil => simp [fld]
  | cons x l ih =>
    have hlow : x % 2 ^ w < 2 ^ b := (Nat.mod_lt _ (Nat.two_pow_pos w)).trans_le (Nat.pow_le_pow_right two_pos hw)
    rw [List.foldr_cons, fld]
    cases i with
    | zero =>
      rw [Nat.zero_mul, Nat.pow_zero, Nat.div_one, Nat.add_mod, Nat.mod_eq_zero_of_dvd (Dvd.dvd.mul_right (pow_dvd_pow 2 hw) _)]
      simp
    | succ i =>
      rw [Nat.add_one_mul, Nat.add_comm (i * b) b, pow_add, ← Nat.div_div_eq_div_mul, Nat.add_mul_div_left _ _ (Nat.two_pow_pos b),
        Nat.div_eq_of_lt hlow, Nat.zero_add]
      exact ih i

/-- A sum of four digits is the digits side by side. -/
theorem sumNat_digits (a : Nat → Nat) (b : Nat) (h : ∀ k, a k < b) : sumNat ((List.range 4).map (fun k => a k * b ^ k)) =
    ((List.range 4).map a).foldr (fun x acc => x % b + b * acc) 0 := by
  simp only [sumNat, List.range_succ, List.range_zero, List.nil_append, List.cons_append, List.map_cons, List.map_nil,
    List.foldl_cons, List.foldl_nil, List.foldr_cons, List.foldr_nil, Nat.mod_eq_of_lt (h _)]
  ring

/-- Four digits of b bits put together read back. -/
theorem fld_sumNat {b : Nat} (a : Nat → Nat) (h : ∀ k, a k < 2 ^ b) {q : Nat} (hq : q < 4) :
    fld (sumNat ((List.range 4).map (fun k => a k * 2 ^ (b * k)))) (b * q) b = a q := by
  have hsum := sumNat_digits a (2 ^ b) h
  simp only [← pow_mul] at hsum
  rw [hsum, Nat.mul_comm, fld_foldr le_rfl, getD_map_range a 0 hq, Nat.mod_eq_of_lt (h q)]

/-- A quarter of a field word is one of its number. -/
theorem quarter_ofNat (x : Nat) {q : Nat} (hq : q < 4) : fld (BitVec.ofNat 128 x).toNat (32 * q) 32 = fld x (32 * q) 32 := by
  rw [BitVec.toNat_ofNat, fld_mod_two_pow _ _ _ _ (by omega)]

/-- A data word holds its data in unmasked quarters and zero in masked ones. -/
theorem quarter_dataWord (d ridx level : Nat) (g p : Bool) (m : BitVec 4) {q : Nat} (hq : q < 4) :
    fld (dataWord d ridx level g p m).data.toNat (32 * q) 32 = if m.getLsbD q then 0 else fld d (32 * q) 32 := by
  have hmask : maskData m d = sumNat ((List.range 4).map (fun k => (if m.getLsbD k then 0 else fld d (32 * k) 32) * 2 ^ (32 * k))) := by
    simp only [maskData, atBit, fld, ite_mul, zero_mul]
  rw [dataWord, quarter_ofNat _ hq, hmask, fld_sumNat (fun k => if m.getLsbD k then 0 else fld d (32 * k) 32) _ hq]
  intro k
  split
  · exact Nat.two_pow_pos 32
  · exact Nat.mod_lt _ (Nat.two_pow_pos 32)

/-- A word with the left operand's quarters where the predicate's bit is 0. -/
theorem quarter_selectQuarters (p l : Quad) (x : Nat) {q : Nat} (hq : q < 4) :
    fld (selectQuarters p l x) (32 * q) 32 = if p.getLsbD (32 * q) then fld x (32 * q) 32 else fld l.toNat (32 * q) 32 := by
  rw [selectQuarters, fld_sumNat (fun q => fld (if p.getLsbD (32 * q) then x else l.toNat) (32 * q) 32)
    (fun k => Nat.mod_lt _ (Nat.two_pow_pos 32)) hq]
  split <;> rfl

/-- Words with the same four quarters hold the same data. -/
theorem quad_ext {a b : Quad} (h : ∀ q < 4, fld a.toNat (32 * q) 32 = fld b.toNat (32 * q) 32) : a = b := by
  apply BitVec.eq_of_toNat_eq
  have h0 := h 0 (by decide)
  have h1 := h 1 (by decide)
  have h2 := h 2 (by decide)
  have h3 := h 3 (by decide)
  have ha := a.isLt
  have hb := b.isLt
  simp only [fld] at h0 h1 h2 h3
  omega

/-- A word without masked quarters holds its data. -/
theorem dataWord_data_unmasked (d ridx level : Nat) (g p : Bool) : (dataWord d ridx level g p 0).data = BitVec.ofNat 128 d := by
  refine quad_ext fun q hq => ?_
  rw [quarter_dataWord _ _ _ _ _ _ hq, quarter_ofNat _ hq]
  simp

/-- A word without unmasked quarters, or with no bits set, holds zero. -/
theorem dataWord_data_zero {d : Nat} {m : BitVec 4} (ridx level : Nat) (g p : Bool) (h : m = 15 ∨ d = 0) :
    (dataWord d ridx level g p m).data = 0 := by
  refine quad_ext fun q hq => ?_
  rw [quarter_dataWord _ _ _ _ _ _ hq]
  rcases h with rfl | rfl
  · rw [if_pos (by interval_cases q <;> rfl)]
    simp [fld]
  · simp [fld]

section
variable (d ridx level : Nat) (g p : Bool) (m : BitVec 4)

@[simp] theorem dataWord_gen : (dataWord d ridx level g p m).gen = g := rfl
@[simp] theorem dataWord_psn : (dataWord d ridx level g p m).psn = p := rfl
@[simp] theorem dataWord_mask : (dataWord d ridx level g p m).mask = m := rfl

/-- A data word has the record index of a word that it is made from. -/
@[simp] theorem dataWord_ridx (k : FWord) : (dataWord d k.ridx.toNat level g p m).ridx = k.ridx := by
  simp [dataWord]

/-- A data word has the END of a word that it is made from. -/
@[simp] theorem dataWord_fin (k : FWord) : (dataWord d ridx (wEnd k) g p m).fin = k.fin := by
  simp [dataWord, wEnd]

end

/-- A data word with the sideband of a word is that word with other data, generation, poison and mask. -/
theorem dataWord_eq_with (k : FWord) (d : Nat) (g p : Bool) (m : BitVec 4) : dataWord d k.ridx.toNat (wEnd k) g p m =
    { k with data := (dataWord d k.ridx.toNat (wEnd k) g p m).data, gen := g, psn := p, mask := m } := by
  simp [dataWord, wEnd]

/-! ## Masks -/

/-- The mask with a bit for each quarter that a condition does not hold of. -/
theorem testBit_quarterMask (c : Nat → Bool) {q : Nat} (hq : q < 4) :
    (sumNat ((List.range 4).map (fun q => if c q then 0 else 2 ^ q))).testBit q = ! c q := by
  have hdigit := fld_sumNat (b := 1) (fun k => if c k then 0 else 1) (fun k => by split <;> decide) hq
  simp only [Nat.one_mul, ite_mul, Nat.zero_mul, fld, Nat.pow_one] at hdigit
  rw [Nat.testBit_eq_decide_div_mod_eq, hdigit]
  cases c q <;> rfl

/-- Such a mask as the four bits of a word. -/
theorem getLsbD_quarterMask (c : Nat → Bool) {q : Nat} (hq : q < 4) :
    (BitVec.ofNat 4 (sumNat ((List.range 4).map (fun q => if c q then 0 else 2 ^ q)))).getLsbD q = ! c q := by
  rw [BitVec.getLsbD_ofNat, testBit_quarterMask c hq, decide_eq_true hq, Bool.true_and]

/-! ## Elements (R80, R158, R358) -/

section
variable {f : Nat} (hf : f ≤ 11)

include hf

theorem fieldBits_pos : 0 < fieldBits f := (fieldBits_divides hf).2.2.1.trans_le (fieldBits_divides hf).2.1

/-- An element lies in its quarter. -/
theorem fld_elemQuarter (x i : Nat) :
    fld x (i * fieldBits f) (fmtBits f) = fld (fld x (32 * elemQuarter f i) 32) (i * fieldBits f % 32) (fmtBits f) := by
  obtain ⟨⟨n, hn⟩, hle, -, -⟩ := fieldBits_divides hf
  have hn0 : 0 < n := Nat.pos_of_ne_zero fun h => by simp [h] at hn
  have hroom : i * fieldBits f % 32 + fieldBits f ≤ 32 := by
    conv_lhs => rw [hn, Nat.mul_comm i, Nat.mul_mod_mul_left, ← Nat.mul_add_one]
    exact (Nat.mul_le_mul_left _ (Nat.mod_lt i hn0)).trans hn.ge
  rw [fld_fld _ (by omega), elemQuarter, Nat.div_add_mod]

/-- An element of a word begins within its 128 bits. -/
theorem elem_bit_lt {i : Nat} (hi : i < fieldElems f) : i * fieldBits f < 128 :=
  ((Nat.mul_lt_mul_right (fieldBits_pos hf)).mpr hi).trans_eq (fieldBits_divides hf).2.2.2

/-- Elements of numbers with the same quarter there are the same. -/
theorem fld_congr_quarter {x y i : Nat} (h : fld x (32 * elemQuarter f i) 32 = fld y (32 * elemQuarter f i) 32) :
    fld x (i * fieldBits f) (fmtBits f) = fld y (i * fieldBits f) (fmtBits f) := by
  rw [fld_elemQuarter hf, h, ← fld_elemQuarter hf]

/-- An element of an unmasked quarter of a data word is the element of its data. -/
theorem quadElem_dataWord {i : Nat} (hi : i * fieldBits f < 128) {m : BitVec 4} (hm : elemMasked f m i = false)
    (d ridx level : Nat) (g p : Bool) : quadElem f (dataWord d ridx level g p m).data i = fld d (i * fieldBits f) (fmtBits f) := by
  have hq : elemQuarter f i < 4 := Nat.div_lt_of_lt_mul hi
  rw [elemMasked] at hm
  apply fld_congr_quarter hf
  rw [quarter_dataWord _ _ _ _ _ _ hq, hm, if_neg Bool.false_ne_true]

/-- An element put into a word reads back. -/
theorem fld_packElems (l : List Nat) (i : Nat) :
    fld (packElems f l) (i * fieldBits f) (fmtBits f) = l.getD i 0 % 2 ^ fmtBits f :=
  fld_foldr (fieldBits_divides hf).2.1 l i

/-- An element put into a data word reads back from an unmasked quarter. -/
theorem quadElem_dataWord_packElems {i : Nat} (hi : i * fieldBits f < 128) {m : BitVec 4} (hm : elemMasked f m i = false)
    (l : List Nat) (ridx level : Nat) (g p : Bool) :
    quadElem f (dataWord (packElems f l) ridx level g p m).data i = l.getD i 0 % 2 ^ fmtBits f := by
  rw [quadElem_dataWord hf hi hm, fld_packElems hf]

/-- An element of a number put into a word is the element of the number. -/
theorem quadElem_ofNat {i : Nat} (hi : i * fieldBits f < 128) (x : Nat) :
    quadElem f (BitVec.ofNat 128 x) i = fld x (i * fieldBits f) (fmtBits f) :=
  fld_congr_quarter hf (quarter_ofNat x (Nat.div_lt_of_lt_mul hi))

end

/-- A 32-bit element put into a word is a quarter of it. -/
theorem quarter_packElems (h : Nat → Nat) {e : Nat} (he : e < 4) :
    fld (packElems 10 ((List.range 4).map h)) (32 * e) 32 = h e % 2 ^ 32 := by
  rw [Nat.mul_comm]
  refine (fld_packElems (by decide) _ e).trans ?_
  rw [getD_map_range h 0 he]
  rfl

/-- An element fits its format. -/
theorem quadElem_lt (f : Nat) (x : Quad) (i : Nat) : quadElem f x i < 2 ^ fmtBits f := Nat.mod_lt _ (Nat.two_pow_pos _)

end Sys2Proof.Machine
end

section
/-!
PROOF SUPPORT. An execution of an operator with its input word counted (R165), and the operators on whole words (R120, R121, R345, R352,
R354, R374, R384).
-/

namespace Sys2Proof.Machine

/-! ## One execution -/

/-- What an execution gives, its input word counted (R165). -/
def counted (c : OpCtx) (l r : Option FWord) (o : OpOut) : OpOut := { o with st := stepWc c o.st l r }

section
variable (c : OpCtx) (l r : Option FWord) (o : OpOut)

@[simp] theorem counted_outs : (counted c l r o).outs = o.outs := rfl
@[simp] theorem counted_sink : (counted c l r o).sink = o.sink := rfl

/-- The count of a word changes nothing but the count. -/
theorem counted_st : (counted c l r o).st = { o.st with wc := (counted c l r o).st.wc } := by
  unfold counted stepWc
  cases c.s.lc <;> cases l <;> cases r <;> rfl

@[simp] theorem counted_cnt : (counted c l r o).st.cnt = o.st.cnt := by rw [counted_st]
@[simp] theorem counted_psn : (counted c l r o).st.psn = o.st.psn := by rw [counted_st]
@[simp] theorem counted_acc : (counted c l r o).st.acc = o.st.acc := by rw [counted_st]
@[simp] theorem counted_words : (counted c l r o).st.words = o.st.words := by rw [counted_st]

end

/-- A position without a constant has its word. -/
@[simp] theorem operand_word (c : OpCtx) (i : Nat) (w : Option FWord) : operand c false i w = w := rfl

section
variable {c : OpCtx} {st : OpSt} {x : FWord} {r p : Option FWord} (hlc : c.s.lc = false)

include hlc

/-- A slot without a constant on the left, its opcode written out. -/
theorem slot_eq_left {n : Nat} (h : c.s.opc = n) : c = { c with s := { c.s with opc := n, lc := false } } := by
  rw [← h, ← hlc]

theorem opExec_reds (h : c.s.opc = 0x20) :
    opExec c st (some x) r p = counted c (some x) (operand c c.s.rc c.s.rci r) (redsOp c st x) := by
  rw [slot_eq_left hlc h]
  rfl

theorem opExec_scns (h : c.s.opc = 0x21) :
    opExec c st (some x) r p = counted c (some x) (operand c c.s.rc c.s.rci r) (scnsOp c st x) := by
  rw [slot_eq_left hlc h]
  rfl

variable (hrc : c.s.rc = false)

include hrc

/-- A slot without constants, its opcode written out. -/
theorem slot_eq {n : Nat} (h : c.s.opc = n) : c = { c with s := { c.s with opc := n, lc := false, rc := false } } := by
  obtain ⟨_, _, _, ⟨_, _, _, _, _, _, _, _, _⟩, _, _⟩ := c
  cases hlc
  cases hrc
  rw [← h]

theorem opExec_pass (h : c.s.opc = 0x00) : opExec c st (some x) r p = counted c (some x) r (outBoth st x) := by
  rw [slot_eq hlc hrc h]
  rfl

theorem opExec_steer {z : FWord} (h : c.s.opc = 0x03) : opExec c st (some x) r (some z) = counted c (some x) r (steerOp st x z) := by
  rw [slot_eq hlc hrc h]
  rfl

theorem opExec_merge {z : FWord} (h : c.s.opc = 0x04) :
    opExec c st (some x) r (some z) = counted c (some x) r (mergeOp st (some x) r z) := by
  rw [slot_eq hlc hrc h]
  rfl

theorem opExec_lcar (h : c.s.opc = 0x05) : opExec c st (some x) r p = counted c (some x) r (lcarOut st (some x)) := by
  rw [slot_eq hlc hrc h]
  rfl

theorem opExec_cntr (h : c.s.opc = 0x07) : opExec c st (some x) r p = counted c (some x) r (cntrOp c st x) := by
  rw [slot_eq hlc hrc h]
  rfl

theorem opExec_idxg (h : c.s.opc = 0x08) : opExec c st (some x) r p = counted c (some x) r (idxgOp c st x) := by
  rw [slot_eq hlc hrc h]
  rfl

theorem opExec_endt (h : c.s.opc = 0x0B) : opExec c st (some x) r p = counted c (some x) r (endtOp c st x) := by
  rw [slot_eq hlc hrc h]
  rfl

theorem opExec_errs {k : FWord} (h : c.s.opc = 0x0D) :
    opExec c st (some x) (some k) p = counted c (some x) (some k) (errsOp c st x k p) := by
  rw [slot_eq hlc hrc h]
  rfl

end

/-! ## The operators on whole words -/

section
variable {c : OpCtx} {st : OpSt} {x : FWord} (herr : isErr x = false)

/-- A data word goes to the target that its predicate's low bit names (R120). -/
theorem steerOp_data {z : FWord} (herr : isErr x = false) (hz : isErr z = false) (hbare : isBare x = false) (hzb : isBare z = false) :
    steerOp st x z = { st := st, outs := [(if z.data.getLsbD 0 then 1 else 2, x)], sink := [] } := by
  simp only [steerOp, herr, hz, hbare, hzb, Bool.false_eq_true, if_false]

/-- The control picks the word of MERGE (R120). -/
theorem mergeOp_data {y z : FWord} (hz : isErr z = false) (hzb : isBare z = false) :
    mergeOp st (some x) (some y) z = outBoth st (if z.data.getLsbD 0 then x else y) := by
  rw [mergeOp, hz, hzb, Bool.or_false, if_neg Bool.false_ne_true]
  cases z.data.getLsbD 0 <;> rfl

/-- LCAR gives its entry word first (R121). -/
theorem lcarOut_first (h : st.first = true) : lcarOut st (some x) = outBoth st x := by
  simp only [lcarOut, h, if_true]

/-- LCAR gives the word it holds (R121). -/
theorem lcarOut_held {w : FWord} (h : st.first = false) (hheld : st.held = some w) : lcarOut st (some x) = outBoth st w := by
  simp only [lcarOut, h, hheld, Bool.false_eq_true, if_false]

/-- The level that ENDT gives a word of level g (R352). -/
def endtLevel (mod g : Nat) : Nat :=
  if mod / 8 = 0 then (if 1 ≤ g then max g (mod % 8) else 0) else if mod / 8 = 1 then (if 1 ≤ g then min g (mod % 8) else 0)
  else g - mod % 8

/-- ENDT puts out a data word with its END changed (R352). -/
theorem endtOp_data (hbare : isBare x = false) : endtOp c st x = outBoth st (withEnd x (endtLevel c.s.mod (wEnd x))) := by
  simp only [endtOp, endtLevel, hbare, Bool.false_and, Bool.false_eq_true, if_false]
  rcases c.s.mod / 8 with _ | _ | n <;> rfl

include herr

/-- CNTR's state with a data word counted (R345). -/
def cntrNext (st : OpSt) (x : FWord) : OpSt := { st with cnt := min (st.cnt + 1) (2 ^ 32 - 1), psn := st.psn || x.psn }

/-- A word that is no token is a data word. -/
theorem isData_of (hbare : isBare x = false) : isData x = true := by
  rw [isData, herr, hbare]
  rfl

/-- CNTR gives its count at an END and starts again (R345). -/
theorem cntrOp_ends (hbare : isBare x = false) (hmod : c.s.mod / 8 ≠ 1) (hend : c.s.mod % 8 ≤ wEnd x) :
    cntrOp c st x = outBoth { cntrNext st x with cnt := 0, psn := false }
      (dataWord (cntrNext st x).cnt x.ridx.toNat (wEnd x) c.gen (cntrNext st x).psn 0) := by
  simp only [cntrOp, herr, isData_of herr hbare, beq_eq_false_iff_ne.mpr hmod, if_pos hend, Bool.false_eq_true, if_false, if_true]
  rfl

/-- CNTR counts a word before the END (R345). -/
theorem cntrOp_counts (hbare : isBare x = false) (hmod : c.s.mod / 8 ≠ 1) (hend : wEnd x < c.s.mod % 8) :
    cntrOp c st x = outNone (cntrNext st x) := by
  simp only [cntrOp, herr, isData_of herr hbare, beq_eq_false_iff_ne.mpr hmod, if_neg hend.not_ge, Bool.false_eq_true, if_false, if_true,
    Bool.and_false]
  rfl

/-- CNTR in index mode gives each word its number (R345). -/
theorem cntrOp_index (hbare : isBare x = false) (hmod : c.s.mod / 8 = 1) :
    (cntrOp c st x).outs = [(3, dataWord st.cnt x.ridx.toNat (wEnd x) c.gen x.psn 0)] := by
  simp only [cntrOp, herr, hbare, isData_of herr hbare, hmod, Bool.false_eq_true, if_false, if_true, beq_self_eq_true, Bool.and_true]
  split <;> rfl

/-- IDXG's four indices, and the words it has given since the last END (R374). -/
theorem idxgOp_data (hbare : isBare x = false) : idxgOp c st x =
    outBoth { st with cnt := if 1 ≤ wEnd x then 0 else st.cnt + 1 }
      (dataWord (packElems 10 ((List.range 4).map (fun e => intBits 32 ((fld (c.ctab.getD (c.s.mod % 8) 0) 0 32 : Int) +
        ((4 * st.cnt + e : Nat) : Int) * sextN 32 (fld (c.ctab.getD (c.s.mod % 8) 0) 32 32))))) x.ridx.toNat (wEnd x) c.gen x.psn 0) := by
  simp only [idxgOp, herr, isData_of herr hbare, Bool.false_eq_true, if_false, if_true]

/-- The error token that ERRS makes of a word and its condition (R354). -/
def errsTok (c : OpCtx) (x k : FWord) : FWord :=
  errTok (128 + k.data.toNat % 2 ^ 7) 0 0 (c.k % 8 * 16) (x.data.toNat % 2 ^ 32) (k.data.toNat / 2 ^ 32 % 2 ^ 32) x.ridx.toNat
    x.fin.toNat c.gen

section
variable {k : FWord} {p : Option FWord} (hk : isErr k = false) (hbare : isBare x = false) (hkb : isBare k = false)

include hk hbare hkb

/-- ERRS passes a word whose predicate is 0 (R354). -/
theorem errsOp_passes {z : FWord} (h : z.data.getLsbD 0 = false) : errsOp c st x k (some z) = outBoth st x := by
  simp only [errsOp, List.filter_cons, List.filter_nil, herr, hk, hbare, hkb, h, Bool.false_eq_true, if_false, if_true, Bool.and_false,
    Bool.or_false, Bool.not_false]

/-- ERRS makes a token where its condition holds (R354). -/
theorem errsOp_makes (h : p = none ∨ ∃ z, p = some z ∧ z.data.getLsbD 0 = true) : errsOp c st x k p =
    if c.s.mod.testBit 0 then
      { st := st, outs := if 1 ≤ wEnd x then [(3, bareEnd (wEnd x) x.ridx.toNat c.gen)] else [], sink := [errsTok c x k] }
    else outBoth st (errsTok c x k) := by
  have htok : opTok c (128 + fld k.data.toNat 0 7) (fld x.data.toNat 0 32) (fld k.data.toNat 32 32) x.ridx.toNat (wEnd x) =
      errsTok c x k := by
    simp only [opTok, errsTok, atBit, fld, Nat.pow_zero, Nat.div_one]
    rfl
  rcases h with rfl | ⟨z, rfl, hz⟩
  · simp only [errsOp, List.filter_cons, List.filter_nil, herr, hk, hbare, hkb, htok, Bool.false_eq_true, if_false, Bool.and_false,
      Bool.or_false]
  · simp only [errsOp, List.filter_cons, List.filter_nil, herr, hk, hbare, hkb, htok, hz, Bool.false_eq_true, if_false, Bool.and_false,
      Bool.or_false, Bool.not_true]

end

end

/-! ## Signed steps (R318, R374) -/

/-- A number and its signed reading are the same modulo the width. -/
theorem sextN_modEq (w x : Nat) : sextN w x ≡ x [ZMOD (2 : Int) ^ w] := by
  have hmod : ((x % 2 ^ w : Nat) : Int) ≡ x [ZMOD (2 : Int) ^ w] := by
    rw [Int.natCast_mod]
    exact_mod_cast Int.mod_modEq (x : Int) ((2 ^ w : Nat) : Int)
  unfold sextN
  split
  · exact hmod
  · refine Int.ModEq.trans ?_ hmod
    rw [Int.modEq_iff_dvd]
    simp

/-- The bits of a number that is a natural number modulo the width. -/
theorem intBits_of_modEq {w n : Nat} {v : Int} (h : v ≡ n [ZMOD (2 : Int) ^ w]) : intBits w v = n % 2 ^ w := by
  rw [intBits, h]
  norm_cast

/-- The bits of a signed reading are the bits read. -/
theorem intBits_sextN (w x : Nat) : intBits w (sextN w x) = x % 2 ^ w := intBits_of_modEq (sextN_modEq w x)

/-- A signed step counts modulo the width. -/
theorem intBits_add_mul_sextN (w a n s : Nat) : intBits w ((a : Int) + (n : Int) * sextN w s) = (a + n * s) % 2 ^ w := by
  refine intBits_of_modEq ?_
  push_cast
  exact ((sextN_modEq w s).mul_left _).add_left _

end Sys2Proof.Machine
end

section
/-!
PROOF SUPPORT. Reductions (R151, R152, R405, R417, R421): a combine of elements, the partials of REDS and the running values of SCNS.
-/

namespace Sys2Proof.Machine

/-! ## Combines (R151) -/

/-- A combine of integers gives the side that is there (R151). -/
theorem redLone_int {op : Nat} (f x : Nat) (h : 3 ≤ op) : redLone op f x = x := if_neg h.not_gt

/-- A combine gives the side that is there, unless it is a NaN (R151, R160). -/
theorem redLone_of_ne_nan {op f x : Nat} (h : fpDecode f x ≠ .nan) : redLone op f x = x := by
  unfold redLone
  split
  · split
    · exact absurd ‹_› h
    · rfl
  · rfl

/-- IMAX gives the element of the larger number (R151). -/
theorem redElem_imax (r : Rnd) (x y : Nat) :
    ∃ z, redElem 4 r (some x) (some y) = some z ∧ intVal r.fmt z = max (intVal r.fmt x) (intVal r.fmt y) := by
  refine ⟨if intVal r.fmt x < intVal r.fmt y then y else x, rfl, ?_⟩
  rw [apply_ite (intVal r.fmt), max_def_lt]

/-- IMIN gives the element of the smaller number (R151). -/
theorem redElem_imin (r : Rnd) (x y : Nat) :
    ∃ z, redElem 5 r (some x) (some y) = some z ∧ intVal r.fmt z = min (intVal r.fmt x) (intVal r.fmt y) := by
  refine ⟨if intVal r.fmt y < intVal r.fmt x then y else x, rfl, ?_⟩
  rw [apply_ite (intVal r.fmt), min_comm, min_def_lt]

/-! ## Vectors -/

/-- An element of a combine of vectors. -/
theorem redVec_getD {f : Nat} (op : Nat) {r : Rnd} (hfmt : r.fmt = f) (a b : List (Option Nat)) {i : Nat} (hi : i < fieldElems f) :
    (redVec op r a b).getD i none = redElem op r (a.getD i none) (b.getD i none) := by
  subst hfmt
  exact getD_map_range _ none hi

@[simp] theorem redVec_length (op : Nat) (r : Rnd) (a b : List (Option Nat)) : (redVec op r a b).length = fieldElems r.fmt := by
  simp [redVec]

/-- An element of a word; one of a masked quarter is absent. -/
theorem wordVec_getD (f : Nat) (w : FWord) {i : Nat} (hi : i < fieldElems f) :
    (wordVec f w).getD i none = if elemMasked f w.mask i then none else some (quadElem f w.data i) := getD_map_range _ none hi

/-- An element that is there is in an unmasked quarter of the vector's word. -/
theorem vecWord_elem {f j e : Nat} (hf : f ≤ 11) (hj : j < fieldElems f) {v : List (Option Nat)} (hv : v.getD j none = some e)
    (ridx level : Nat) (g p : Bool) : elemMasked f (vecWord f v ridx level g p).mask j = false ∧
      quadElem f (vecWord f v ridx level g p).data j = e % 2 ^ fmtBits f := by
  have hbit := elem_bit_lt hf hj
  have hmask : elemMasked f (vecWord f v ridx level g p).mask j = false := by
    have hquarter : elemQuarter f j < 4 := Nat.div_lt_of_lt_mul hbit
    refine (getLsbD_quarterMask _ hquarter).trans ?_
    rw [Bool.not_eq_false', List.any_eq_true]
    exact ⟨j, List.mem_range.mpr hj, by rw [hv]; simp⟩
  refine ⟨hmask, ?_⟩
  refine (quadElem_dataWord_packElems hf hbit hmask _ _ _ _ _).trans ?_
  rw [getD_map_range _ 0 hj, hv]
  rfl

/-! ## REDS (R151, R417) -/

/-- The partials that REDS keeps of a run after a data word. -/
def redsNext (op : Nat) (r : Rnd) (st : OpSt) (x : FWord) (i : Nat) : List (Option Nat) :=
  if i = st.words % 4 then redVec op r (redsPart r.fmt st i) (wordVec r.fmt x)
  else (List.range (fieldElems r.fmt)).map (fun j => (redsPart r.fmt st i).getD j none)

theorem redsNext_length (op : Nat) (r : Rnd) (st : OpSt) (x : FWord) (i : Nat) :
    (redsNext op r st x i).length = fieldElems r.fmt := by
  unfold redsNext
  split <;> simp

/-- Lists of one length put together come apart. -/
theorem take_drop_flatten {α : Type} {n : Nat} (ls : List (List α)) (h : ∀ l ∈ ls, l.length = n) {q : Nat} (hq : q < ls.length) :
    (ls.flatten.drop (q * n)).take n = ls[q] := by
  induction ls generalizing q with
  | nil => exact absurd hq (Nat.not_lt_zero q)
  | cons l ls ih =>
    have hl : l.length = n := h l List.mem_cons_self
    cases q with
    | zero => simp [← hl]
    | succ q =>
      have hdrop : (l ++ ls.flatten).drop ((q + 1) * n) = ls.flatten.drop (q * n) := by
        rw [List.drop_append, List.drop_eq_nil_of_le (by rw [hl, Nat.add_one_mul]; omega), hl, Nat.add_one_mul, Nat.add_sub_cancel,
          List.nil_append]
      rw [List.flatten_cons, hdrop, List.getElem_cons_succ]
      exact ih (fun l' hl' => h l' (List.mem_cons_of_mem l hl')) (Nat.lt_of_succ_lt_succ hq)

/-- Partial q after a data word is what the word makes of it. -/
theorem redsPart_redsTake (op : Nat) (r : Rnd) (st : OpSt) (x : FWord) {q : Nat} (hq : q < 4) :
    redsPart r.fmt (redsTake op r st x) q = redsNext op r st x q := by
  have hacc : (redsTake op r st x).acc = ((List.range 4).map (redsNext op r st x)).flatten := by
    simp only [List.range_succ, List.range_zero, List.nil_append, List.cons_append, List.map_cons, List.map_nil, List.flatten_cons,
      List.flatten_nil, List.append_nil, ← List.append_assoc]
    rfl
  rw [redsPart, hacc, take_drop_flatten _ ?_ (by simpa using hq), List.getElem_map, List.getElem_range]
  intro l hl
  obtain ⟨i, -, rfl⟩ := List.mem_map.mp hl
  exact redsNext_length op r st x i

/-- A data word of a run combines into partial n mod 4, element by element (R151). -/
theorem redsTake_elem {f : Nat} (op : Nat) {r : Rnd} (hfmt : r.fmt = f) (st : OpSt) (x : FWord) {q j : Nat} (hq : q < 4)
    (hj : j < fieldElems f) : (redsPart f (redsTake op r st x) q).getD j none = if q = st.words % 4 then
      redElem op r ((redsPart f st q).getD j none) (if elemMasked f x.mask j then none else some (quadElem f x.data j))
    else (redsPart f st q).getD j none := by
  subst hfmt
  rw [redsPart_redsTake op r st x hq, redsNext]
  split
  · rw [redVec_getD op rfl _ _ hj, wordVec_getD _ _ hj]
  · exact getD_map_range _ none hj

section
variable {c : OpCtx} {st : OpSt} {x : FWord} (herr : isErr x = false) (hbare : isBare x = false)

include herr hbare

/-- REDS keeps a data word inside a run (R151). -/
theorem redsOp_inside (hst : st.err = none) (h : wEnd x < c.s.mod % 4 + 1) :
    redsOp c st x = outNone (redsTake (c.s.mod / 4) (redRnd c.ctt) st x) := by
  simp [redsOp, herr, hbare, hst, h]

/-- At the run's END REDS puts out ((0, 1), (2, 3)) combined and starts again (R151, R417). -/
theorem redsOp_end {op : Nat} {r : Rnd} {p : Nat → List (Option Nat)} (hop : op = c.s.mod / 4) (hr : r = redRnd c.ctt)
    (hp : p = redsPart c.fmt (redsTake op r st x)) (hst : st.err = none) (h : c.s.mod % 4 + 1 ≤ wEnd x) :
    redsOp c st x = outBoth { redsTake op r st x with acc := [], words := 0, psn := false, err := none }
      (vecWord c.fmt (redVec op r (redVec op r (p 0) (p 1)) (redVec op r (p 2) (p 3))) x.ridx.toNat (wEnd x) c.gen
        (st.psn || x.psn)) := by
  subst hop hr hp
  have hkept : (redsTake (c.s.mod / 4) (redRnd c.ctt) st x).err = none := hst
  have hwords : (redsTake (c.s.mod / 4) (redRnd c.ctt) st x).words ≠ 0 := Nat.succ_ne_zero _
  simp only [redsOp, herr, hbare, hst, if_neg h.not_gt, Option.isSome_none, Bool.or_false, Bool.false_eq_true, if_false, hkept,
    if_neg hwords]
  rfl

end

/-! ## SCNS (R152, R421) -/

/-- The accumulator of an element before a word; one that has taken nothing holds the identity (R152). -/
def scnsBefore (c : OpCtx) (st : OpSt) (i : Nat) : Nat := (st.acc.getD i none).getD (redIdentity (c.s.mod / 4) (redRnd c.ctt))

/-- What SCNS makes of an element: the accumulator after it, and the element put out (R152, R421). -/
def scnsElem (c : OpCtx) (st : OpSt) (x : FWord) (i : Nat) : Option Nat × Option Nat :=
  match (wordVec c.fmt x).getD i none with
  | none => (some (scnsBefore c st i), none)
  | some e =>
    let y := redElem (c.s.mod / 4) (redRnd c.ctt) (some (scnsBefore c st i)) (some e)
    (y, if c.s.mod.testBit 1 then some (scnsBefore c st i) else y)

/-- An element of an unmasked quarter is combined with those before it in its record. -/
theorem scnsElem_unmasked (c : OpCtx) (st : OpSt) (x : FWord) {i : Nat} (hi : i < fieldElems c.fmt)
    (hm : elemMasked c.fmt x.mask i = false) : ∃ v,
      redElem (c.s.mod / 4) (redRnd c.ctt) (some (scnsBefore c st i)) (some (quadElem c.fmt x.data i)) = some v ∧
      scnsElem c st x i = (some v, some (if c.s.mod.testBit 1 then scnsBefore c st i else v)) := by
  refine ⟨_, rfl, ?_⟩
  unfold scnsElem
  rw [wordVec_getD _ _ hi, hm, if_neg Bool.false_ne_true]
  cases c.s.mod.testBit 1 <;> rfl

/-- SCNS puts out a word of its elements and keeps their accumulators to the END (R152, R421). -/
theorem scnsOp_data {c : OpCtx} {st : OpSt} {x : FWord} (herr : isErr x = false) (hbare : isBare x = false) : scnsOp c st x =
    outBoth { st with acc := if 1 ≤ wEnd x then [] else (List.range (fieldElems c.fmt)).map (fun i => (scnsElem c st x i).1) }
      (dataWord (packElems c.fmt ((List.range (fieldElems c.fmt)).map (fun i => ((scnsElem c st x i).2).getD 0))) x.ridx.toNat (wEnd x)
        x.gen x.psn x.mask) := by
  simp only [scnsOp, herr, hbare, Bool.false_eq_true, if_false]
  rfl

end Sys2Proof.Machine
end

section
/-!
PROOF. The operators on whole words, the reductions and their combines.
-/

namespace Sys2Proof.Machine

/-- Settles O44, operator by operator: what each gives for a data word, then an element of a partial or running value, then the
combine of two elements. -/
theorem wordOperatorResults : Obligations.WordOperatorResults := by
  unfold Obligations.WordOperatorResults
  refine ⟨?words, ?reductions, ?combines⟩
  case words =>
    rintro c st x r p out hlc hrc rfl herr
    refine ⟨fun h => ?pass, fun z h hp hz hbare hzb => ?steer, fun z y h hp hr hz hzb => ?merge, fun h => ?lcar,
      fun v g g' h hv hg hbare hg' => ?endt, fun h hbare hcnt => ?cntr, fun base step h hbare hbase hstep => ?idxg,
      fun k e h hr hk hbare hkb he => ?errs⟩
    case pass =>
      rw [opExec_pass hlc hrc h]
      exact ⟨rfl, rfl⟩
    case steer =>
      rw [hp, opExec_steer hlc hrc h, steerOp_data herr hz hbare hzb]
      exact ⟨rfl, rfl⟩
    case merge =>
      rw [hp, hr, opExec_merge hlc hrc h, mergeOp_data hz hzb]
      rfl
    case lcar =>
      rw [opExec_lcar hlc hrc h]
      refine ⟨fun hfirst => ?_, fun w hfirst hheld => ?_⟩
      · rw [lcarOut_first hfirst]
        rfl
      · rw [lcarOut_held hfirst hheld]
        rfl
    case endt =>
      subst hv hg hg'
      rw [opExec_endt hlc hrc h, endtOp_data hbare]
      rfl
    case cntr =>
      rw [opExec_cntr hlc hrc h]
      have hnext : (cntrNext st x).cnt = st.cnt + 1 := Nat.min_eq_left (Nat.succ_le_of_lt hcnt)
      refine ⟨fun hmod hend => ?_, fun hmod hend => ?_, fun hmod => ?_⟩
      · rw [cntrOp_ends herr hbare hmod hend, hnext]
        exact ⟨_, rfl, dataWord_data_unmasked _ _ _ _ _, dataWord_ridx _ _ _ _ _ _, dataWord_fin _ _ _ _ _ _,
          dataWord_psn _ _ _ _ _ _, counted_cnt _ _ _ _, counted_psn _ _ _ _⟩
      · rw [cntrOp_counts herr hbare hmod hend]
        exact ⟨rfl, (counted_cnt _ _ _ _).trans hnext, counted_psn _ _ _ _⟩
      · rw [counted_outs, cntrOp_index herr hbare hmod]
        exact ⟨_, rfl, dataWord_data_unmasked _ _ _ _ _, dataWord_psn _ _ _ _ _ _⟩
    case idxg =>
      rw [opExec_idxg hlc hrc h, idxgOp_data herr hbare]
      refine ⟨_, rfl, dataWord_ridx _ _ _ _ _ _, dataWord_fin _ _ _ _ _ _, dataWord_mask _ _ _ _ _ _, fun e he => ?_,
        counted_cnt _ _ _ _⟩
      rw [dataWord_data_unmasked]
      refine (quarter_ofNat _ he).trans ?_
      rw [quarter_packElems _ he, intBits_add_mul_sextN, Nat.mod_mod, hbase, hstep, fld, fld, Nat.pow_zero, Nat.div_one]
    case errs =>
      subst hr he
      rw [opExec_errs hlc hrc h]
      refine ⟨fun z hp hz hbit => ?_, fun hp => ?_⟩
      · rw [hp, errsOp_passes herr hk hbare hkb hbit]
        exact ⟨rfl, rfl⟩
      · rw [errsOp_makes herr hk hbare hkb hp]
        refine ⟨fun hmod => ?_, fun hmod => ?_⟩
        · rw [hmod, if_neg Bool.false_ne_true]
          exact ⟨rfl, rfl⟩
        · rw [if_pos hmod]
          exact ⟨rfl, rfl⟩
  case reductions =>
    rintro c st x f op r out had now hlc rfl rfl hf herr hbare hr
    refine ⟨fun h hop hst hhad hnow => ?reds, fun acc h hop hacc => ?scns⟩
    case reds =>
      have hfmt : r.fmt = c.fmt := by rw [hr, rne]
      have hnext : ∀ q < 4, ∀ j < fieldElems c.fmt, (redsPart c.fmt (redsTake op r st x) q).getD j none = now q j := by
        subst hnow hhad
        exact fun q hq j hj => redsTake_elem op hfmt st x hq hj
      rw [opExec_reds hlc h]
      refine ⟨fun hend => ?inside, fun hend => ?ends⟩
      case inside =>
        rw [redsOp_inside herr hbare hst hend, ← hop, ← show r = redRnd c.ctt from hr]
        refine ⟨rfl, counted_words _ _ _ _, counted_psn _ _ _ _, fun q hq j hj => ?_⟩
        rw [redsPart, counted_acc]
        exact hnext q hq j hj
      case ends =>
        rw [redsOp_end herr hbare hop hr rfl hst hend]
        refine ⟨counted_acc _ _ _ _, counted_words _ _ _ _, counted_psn _ _ _ _, _, rfl, dataWord_ridx _ _ _ _ _ _,
          dataWord_fin _ _ _ _ _ _, dataWord_psn _ _ _ _ _ _, fun j hj v hv => ?_⟩
        refine vecWord_elem hf hj ?_ _ _ _ _
        rw [redVec_getD op hfmt _ _ hj, redVec_getD op hfmt _ _ hj, redVec_getD op hfmt _ _ hj, hnext 0 (by decide) j hj,
          hnext 1 (by decide) j hj, hnext 2 (by decide) j hj, hnext 3 (by decide) j hj, hv]
    case scns =>
      subst hop hacc hr
      rw [opExec_scns hlc h, scnsOp_data herr hbare]
      refine ⟨_, rfl, dataWord_eq_with _ _ _ _ _, fun hend => (counted_acc _ _ _ _).trans (if_pos hend), fun j hj hm => ?_⟩
      obtain ⟨v, hv, helem⟩ := scnsElem_unmasked c st x hj hm
      refine ⟨v, hv, ?_, fun hfin => ?_⟩
      · rw [quadElem_dataWord_packElems hf (elem_bit_lt hf hj) hm, getD_map_range _ 0 hj, helem]
        rfl
      · rw [counted_acc]
        refine (congrArg (fun l => List.getD l j none) (if_neg ?_)).trans ?_
        · rw [wEnd, hfin]
          decide
        · rw [getD_map_range _ none hj, helem]
  case combines =>
    intro r x y
    exact ⟨fun op => rfl, fun op h => ⟨congrArg some (redLone_int _ _ h), congrArg some (redLone_int _ _ h)⟩,
      fun op _ h => ⟨congrArg some (redLone_of_ne_nan h), congrArg some (redLone_of_ne_nan h)⟩, rfl, rfl, rfl, rfl,
      redElem_imax r x y, redElem_imin r x y⟩

end Sys2Proof.Machine
end

section
/-!
PROOF SUPPORT. The operators under R106: what comes out for tokens, for data words and under a predicate, and the results of each
operator that computes element by element (R165, R358, R365).
-/

namespace Sys2Proof.Machine

/-! ## An operator under R106 -/

/-- The operators that go by R106. -/
def stdOpcodes : List Nat :=
  [0x01, 0x02, 0x0C, 0x10, 0x11, 0x12, 0x13, 0x14, 0x15, 0x16, 0x17, 0x18, 0x19, 0x1A, 0x1B, 0x1C, 0x1D, 0x1E]

/-- An execution of one of them. -/
theorem opExec_std {c : OpCtx} {st : OpSt} {l r p : Option FWord} {w : FWord} (h : c.s.opc ∈ stdOpcodes)
    (hl : operand c c.s.lc c.s.lci l = some w) : opExec c st l r p =
      counted c (some w) (operand c c.s.rc c.s.rci r) (stdOp c st w (operand c c.s.rc c.s.rci r) p) := by
  simp only [stdOpcodes, List.mem_cons, List.not_mem_nil, or_false] at h
  rcases h with h | h | h | h | h | h | h | h | h | h | h | h | h | h | h | h | h | h <;>
    · simp only [opExec, hl, h]
      rfl

/-- A constant stands for the word of its position. -/
theorem operand_some (c : OpCtx) (b : Bool) (i : Nat) (w : FWord) :
    operand c b i (some w) = some (if b then constWord (c.ctab.getD i 0) else w) := by
  cases b <;> rfl

/-- The data of a result, the left operand's quarters where a predicate's bit is 0. -/
def selected (p : Option FWord) (l : Quad) (x : Nat) : Nat :=
  match p with
  | some w => selectQuarters w.data l x
  | none => x

/-- The words put out for results ys, with the sideband of the word src: the last takes its END. -/
def resultWords (c : OpCtx) (src : FWord) (psn : Bool) (ys : List (Nat × BitVec 4)) : List (Nat × FWord) :=
  (List.range ys.length).map (fun i => (3, dataWord (ys.getD i (0, 0)).1 src.ridx.toNat
    (if i + 1 = ys.length then wEnd src else 0) c.gen psn (ys.getD i (0, 0)).2))

theorem resultWords_singleton (c : OpCtx) (src : FWord) (psn : Bool) (y : Nat) (m : BitVec 4) :
    resultWords c src psn [(y, m)] = [(3, dataWord y src.ridx.toNat (wEnd src) c.gen psn m)] := rfl

@[simp] theorem resultWords_length (c : OpCtx) (src : FWord) (psn : Bool) (ys : List (Nat × BitVec 4)) :
    (resultWords c src psn ys).length = ys.length := by
  simp [resultWords]

theorem resultWords_getElem (c : OpCtx) (src : FWord) (psn : Bool) (ys : List (Nat × BitVec 4)) {i : Nat} (hi : i < ys.length) :
    (resultWords c src psn ys)[i]? = some (3, dataWord ys[i].1 src.ridx.toNat (if i + 1 = ys.length then wEnd src else 0) c.gen psn
      ys[i].2) := by
  simp [resultWords, hi]

section
variable {c : OpCtx} {st : OpSt} {l : FWord} {r p : Option FWord}

/-- The words of the positions of an execution that are there. -/
theorem present_eq (l : FWord) (r p : Option FWord) : present [some l, r, p] = l :: r.toList ++ p.toList := by
  cases r <;> cases p <;> rfl

theorem present_data (l : FWord) (r : Option FWord) : present [some l, r] = l :: r.toList := by
  cases r <;> rfl

/-- The first error token goes on, the others go to ESINK. -/
theorem stdOp_error {e : FWord} {es : List FWord} (h : (l :: r.toList ++ p.toList).filter isErr = e :: es) :
    stdOp c st l r p = { st := fmacClose c st l, outs := [(3, e)], sink := es } := by
  rw [← present_eq] at h
  simp only [stdOp, h]

section
variable (herr : ∀ z ∈ l :: r.toList ++ p.toList, isErr z = false)

include herr

theorem errors_nil : (present [some l, r, p]).filter isErr = [] := by
  rw [present_eq, List.filter_eq_nil_iff]
  exact fun z hz => Bool.eq_false_iff.mp (herr z hz)

/-- Bare end tokens alone give one. -/
theorem stdOp_bare (hl : isBare l = true) (hr : ∀ z ∈ r, isBare z = true) :
    stdOp c st l r p = outBoth (fmacClose c st l) (bareEnd (wEnd l) l.ridx.toNat c.gen) := by
  have hall : (present [some l, r]).all isBare = true := by
    rw [present_data, List.all_eq_true]
    exact List.forall_mem_cons.mpr ⟨hl, fun z hz => hr z (Option.mem_toList.mp hz)⟩
  simp only [stdOp, errors_nil herr, hall, if_true]

/-- Words with a data word among them give the operator's results, fully masked ones beside a bare end token. -/
theorem stdOp_results {src : FWord} {psn masked : Bool} {st' : OpSt} {ys : List (Nat × BitVec 4)}
    (hsrc : src = if c.s.lc then r.getD l else l) (hpsn : psn = (l :: r.toList ++ p.toList).any (fun w => w.psn))
    (hmasked : masked = (l :: r.toList).any isBare) (hdata : ∃ z ∈ l :: r.toList, isBare z = false)
    (hkeeps : c.s.opc ≠ 0x0C ∨ masked = false)
    (hx : computeOp c st (asMasked l) (asMasked (r.getD (constWord 0))) src.ridx.toNat psn = (st', ys)) :
    stdOp c st l r p = OpOut.mk (fmacClose c st' l)
      (resultWords c src psn (ys.map (fun y => (selected p (asMasked l).data y.1, if masked then 15 else y.2)))) [] := by
  rw [← present_eq] at hpsn
  rw [← present_data] at hmasked hdata
  have hall : ¬ (present [some l, r]).all isBare = true := by
    obtain ⟨z, hz, hbare⟩ := hdata
    exact fun h => Bool.eq_false_iff.mp hbare (List.all_eq_true.mp h z hz)
  have hkeep : (masked && psn && c.s.opc == 0x0C) = false := by
    rcases hkeeps with h | h <;> simp [h]
  simp only [stdOp, errors_nil herr, if_neg hall, ← hpsn, ← hmasked, ← hsrc, hx, hkeep, Bool.false_eq_true, if_false, resultWords,
    List.length_map]
  congr 1
  refine List.map_congr_left fun i hi => ?_
  have hi' : i < ys.length := List.mem_range.mp hi
  simp only [List.getD_eq_getElem _ _ hi', List.getD_eq_getElem _ _ (by simpa using hi' : i < (ys.map _).length), List.getElem_map]
  rfl

end

end

/-- A data word is taken as it is. -/
theorem asMasked_data {w : FWord} (h : isBare w = false) : asMasked w = w := by
  rw [asMasked, h, if_neg Bool.false_ne_true]

end Sys2Proof.Machine
end

section
/-!
PROOF SUPPORT. The results of the operators that compute element by element, on data words (R106, R165, R346, R358-R379, R393, R412).
-/

namespace Sys2Proof.Machine

/-! ## Elementwise results (R358) -/

/-- An element of an unmasked quarter is its function of the operands' elements. -/
theorem fld_elementwise {f i : Nat} (hf : f ≤ 11) (hi : i < fieldElems f) {m : BitVec 4} (hm : elemMasked f m i = false)
    (h : Nat → Nat → Nat → Nat) (a b : Quad) :
    fld (elementwise f m h a b) (i * fieldBits f) (fmtBits f) = h i (quadElem f a i) (quadElem f b i) % 2 ^ fmtBits f := by
  rw [elementwise, fld_packElems hf, getD_map_range _ 0 hi, hm, if_neg Bool.false_ne_true]

/-- The operators whose element results are binElem's. -/
def binOpcodes : List Nat := [0x10, 0x11, 0x13, 0x14, 0x18, 0x19, 0x1A, 0x1B, 0x1C, 0x1D]

section
variable {c : OpCtx} {st : OpSt} {l r : FWord} {ridx : Nat} {psn : Bool}

/-- A slot with its opcode written out. -/
theorem opcode_eq {n : Nat} (h : c.s.opc = n) : c = { c with s := { c.s with opc := n } } := by rw [← h]

theorem computeOp_bin (h : c.s.opc ∈ binOpcodes) : computeOp c st l r ridx psn =
    (st, [(elementwise c.fmt (l.mask ||| r.mask) (fun i a b => binElem c.s.opc c.s.mod (cttRnd c.ctt ridx (16 * st.wc + i)) a b)
      l.data r.data, l.mask ||| r.mask)]) := by
  simp only [binOpcodes, List.mem_cons, List.not_mem_nil, or_false] at h
  rcases h with h | h | h | h | h | h | h | h | h | h <;>
    · rw [opcode_eq h]
      rfl

theorem computeOp_const (h : c.s.opc = 0x01) :
    computeOp c st l r ridx psn = (st, [(c.ctab.getD (c.s.mod % 8) 0, l.mask)]) := by
  rw [opcode_eq h]
  rfl

theorem computeOp_pick (h : c.s.opc = 0x02) : computeOp c st l r ridx psn = (st, [pickWord c l]) := by
  rw [opcode_eq h]
  rfl

theorem computeOp_mask (h : c.s.opc = 0x0C) : computeOp c st l r ridx psn = (st, [maskWord c psn l r.data]) := by
  rw [opcode_eq h]
  rfl

theorem computeOp_fmac (h : c.s.opc = 0x12) : computeOp c st l r ridx psn =
    (fmacNext c st (l.mask ||| r.mask) (fmacWord c st ridx (l.mask ||| r.mask) l.data r.data),
      [(fmacWord c st ridx (l.mask ||| r.mask) l.data r.data, l.mask ||| r.mask)]) := by
  rw [opcode_eq h]
  rfl

theorem computeOp_convert (h : c.s.opc = 0x15 ∨ c.s.opc = 0x1E) :
    computeOp c st l r ridx psn = (st, convertWords c st.wc ridx l) := by
  rcases h with h | h <;>
    · rw [opcode_eq h]
      rfl

theorem computeOp_sfn (h : c.s.opc = 0x16) : computeOp c st l r ridx psn =
    (st, [(elementwise c.fmt l.mask (fun i a _ => sfn (cttRnd c.ctt ridx (16 * st.wc + i)) (c.s.mod % 8) a) l.data l.data, l.mask)]) := by
  rw [opcode_eq h]
  rfl

theorem computeOp_fscl (h : c.s.opc = 0x17) : computeOp c st l r ridx psn =
    (st, [(elementwise c.fmt l.mask (fun i a _ => fpEncode (cttRnd c.ctt ridx (16 * st.wc + i))
      (fpScale (fsclK (c.s.mod.testBit 0) c.fmt r.data i) (fpDecode c.fmt a))) l.data l.data, l.mask)]) := by
  rw [opcode_eq h]
  rfl

/-- Only MASK looks at the poison of its words (R393). -/
theorem computeOp_psn (h : c.s.opc ≠ 0x0C) (psn' : Bool) : computeOp c st l r ridx psn = computeOp c st l r ridx psn' := by
  unfold computeOp
  split
  case h_3 => exact absurd ‹_› h
  all_goals rfl

end

/-! ## Integer elements (R371, R372, R377, R379) -/

/-- A comparison's element: all ones or zeros. -/
theorem elemOnes_eq_ite {f : Nat} {b : Bool} {p : Prop} [Decidable p] (h : b = true ↔ p) :
    elemOnes f b = if p then 2 ^ fmtBits f - 1 else 0 := if_congr h rfl rfl

/-- ICMP's conditions (R372). -/
theorem icmpHolds_iff (f n a b : Nat) : icmpHolds f n a b = true ↔
    (if n = 0 then a = b else if n = 1 then a ≠ b else if n = 2 then intVal f a < intVal f b else if n = 3 then intVal f b ≤ intVal f a
      else if n = 4 then a < b else b ≤ a) := by
  rcases n with _ | _ | _ | _ | _ | n <;> simp [icmpHolds]

/-- ISH's element (R379). -/
theorem shiftElem_mod (f n a b : Nat) : shiftElem f n a b % 2 ^ fmtBits f = (if n = 0 then a * 2 ^ (b % fmtBits f)
    else if n = 1 then a / 2 ^ (b % fmtBits f) else (intVal f a / 2 ^ (b % fmtBits f) % 2 ^ fmtBits f).toNat) % 2 ^ fmtBits f := by
  rcases n with _ | _ | n
  · exact Nat.mod_mod _ _
  · rfl
  · rfl

/-- An element's number is the element modulo its width. -/
theorem toNat_intVal (f a : Nat) : (intVal f a % 2 ^ fmtBits f).toNat = a % 2 ^ fmtBits f := intBits_sextN (fmtBits f) a

/-- IMAX and IMIN give the element of the larger or smaller number (R375, R376). -/
theorem pickElem_mod (f a b : Nat) (least : Bool) :
    (if least then (if intVal f a < intVal f b then a else b) else (if intVal f a < intVal f b then b else a)) % 2 ^ fmtBits f =
      ((if least then min (intVal f a) (intVal f b) else max (intVal f a) (intVal f b)) % 2 ^ fmtBits f).toNat % 2 ^ fmtBits f := by
  cases least <;> by_cases h : intVal f a < intVal f b <;>
    simp [h, min_def_lt, max_def_lt, toNat_intVal]

/-! ## Exact sums and products (R159, R160) -/

/-- A signed integer at a scale stands for its number. -/
theorem fpSigned_val (v e : Int) (zero : Bool) :
    ∃ q k j, fpSigned v e zero = .fin q k j ∧ finVal q k j = v * 2 ^ e := by
  unfold fpSigned
  split
  · exact ⟨zero, 0, e, rfl, by simp [finVal, ‹v = 0›]⟩
  · refine ⟨_, _, _, rfl, ?_⟩
    rw [finVal]
    congr 1
    rcases lt_or_ge v 0 with hv | hv
    · rw [decide_eq_true hv, if_pos rfl, Nat.cast_natAbs, abs_of_neg hv, Int.cast_neg, neg_neg]
    · rw [decide_eq_false hv.not_gt, if_neg Bool.false_ne_true, Nat.cast_natAbs, abs_of_nonneg hv]

/-- The sum of finite values is exact. -/
theorem fpAdd_fin_val (mode m n : Nat) (s t : Bool) (e g : Int) :
    ∃ q k j, fpAdd mode (.fin s m e) (.fin t n g) = .fin q k j ∧ finVal q k j = finVal s m e + finVal t n g := by
  have hzero : ∀ (b : Bool) (a : Int), finVal b 0 a = 0 := fun b a => by simp [finVal]
  simp only [fpAdd]
  split
  · rename_i h
    obtain ⟨rfl, rfl⟩ := h
    exact ⟨_, _, _, rfl, by simp only [hzero, add_zero]⟩
  split
  · rename_i hm
    subst hm
    exact ⟨_, _, _, rfl, by rw [hzero, zero_add]⟩
  split
  · rename_i hn
    subst hn
    exact ⟨_, _, _, rfl, by rw [hzero, add_zero]⟩
  · obtain ⟨q, k, j, heq, hval⟩ := fpSigned_val (fpAt s m e (min e g) + fpAt t n g (min e g)) (min e g) (mode == 3)
    refine ⟨q, k, j, heq, ?_⟩
    rw [hval, Int.cast_add, add_mul, fpAt_mul_zpow _ _ _ _ (min_le_left e g), fpAt_mul_zpow _ _ _ _ (min_le_right e g)]

/-- The product of finite values is exact. -/
theorem fpMul_fin_val (m n : Nat) (s t : Bool) (e g : Int) :
    ∃ q k j, fpMul (.fin s m e) (.fin t n g) = .fin q k j ∧ finVal q k j = finVal s m e * finVal t n g := by
  refine ⟨_, _, _, rfl, ?_⟩
  rw [finVal, finVal, finVal, zpow_add₀ two_ne_zero, Nat.cast_mul]
  cases s <;> cases t <;> simp <;> ring

/-! ## An execution on data words -/

/-- The operands of an execution on two data words: each the word of its position or the constant that stands for it, k the one whose
sideband the result takes (R106). -/
structure DataWords (c : OpCtx) (l r lw rw k : FWord) : Prop where
  left : lw = if c.s.lc then constWord (c.ctab.getD c.s.lci 0) else l
  right : rw = if c.s.rc then constWord (c.ctab.getD c.s.rci 0) else r
  side : k = if c.s.lc then rw else lw
  leftErr : isErr lw = false
  rightErr : isErr rw = false
  leftBare : isBare lw = false
  rightBare : isBare rw = false

/-- What an execution puts out as one word z, with the sideband of k and in each element of an unmasked quarter its value. -/
structure OneWord (c : OpCtx) (st : OpSt) (out : OpOut) (k : FWord) (psn : Bool) (m : BitVec 4) (v : Nat → Nat) (z : FWord) : Prop where
  outs : out.outs = [(3, z)]
  sink : out.sink = []
  count : out.st.wc = if 1 ≤ k.fin.toNat then 0 else st.wc + 1
  word : z = { k with data := z.data, gen := c.gen, psn := psn, mask := m }
  elems : ∀ i < fieldElems c.fmt, elemMasked c.fmt z.mask i = false → quadElem c.fmt z.data i = v i % 2 ^ fmtBits c.fmt

section
variable {c : OpCtx} {st st' : OpSt} {l r lw rw k : FWord}

/-- The close of FMAC's running values moves no count. -/
theorem fmacClose_wc (c : OpCtx) (st : OpSt) (w : FWord) : (fmacClose c st w).wc = st.wc := by
  unfold fmacClose
  split <;> rfl

/-- A word counts once, by the one whose sideband the result takes (R165). -/
theorem counted_wc (h : DataWords c l r lw rw k) (o : OpOut) :
    (counted c (some lw) (some rw) o).st.wc = if 1 ≤ k.fin.toNat then 0 else o.st.wc + 1 := by
  rw [h.side, counted, stepWc]
  cases c.s.lc <;> rfl

/-- An execution on two data words gives the operator's results. -/
theorem opExec_dataWords (h : DataWords c l r lw rw k) (hstd : c.s.opc ∈ stdOpcodes) {ys : List (Nat × BitVec 4)}
    (hx : computeOp c st lw rw k.ridx.toNat (lw.psn || rw.psn) = (st', ys)) : opExec c st (some l) (some r) none =
      counted c (some lw) (some rw) (OpOut.mk (fmacClose c st' lw) (resultWords c k (lw.psn || rw.psn) ys) []) := by
  have hleft : operand c c.s.lc c.s.lci (some l) = some lw := by rw [operand_some, h.left]
  have hright : operand c c.s.rc c.s.rci (some r) = some rw := by rw [operand_some, h.right]
  have herr : ∀ z ∈ lw :: (some rw).toList ++ (none : Option FWord).toList, isErr z = false := by
    simp [h.leftErr, h.rightErr]
  have hbare : (lw :: (some rw).toList).any isBare = false := by simp [h.leftBare, h.rightBare]
  rw [opExec_std hstd hleft, hright, stdOp_results herr (src := k) (ys := ys) (st' := st') (psn := lw.psn || rw.psn) h.side (by simp)
    hbare.symm ⟨lw, List.mem_cons_self, h.leftBare⟩ (.inr rfl)]
  · simp only [selected, Bool.false_eq_true, if_false, Prod.mk.eta, List.map_id']
  · rw [Option.getD_some, asMasked_data h.leftBare, asMasked_data h.rightBare, hx]

/-- An operator with one result gives one word. -/
theorem oneWord_of_result (h : DataWords c l r lw rw k) (hstd : c.s.opc ∈ stdOpcodes) (hf : c.fmt ≤ 11) {y : Nat} {m : BitVec 4}
    {v : Nat → Nat} (hx : computeOp c st lw rw k.ridx.toNat (lw.psn || rw.psn) = (st', [(y, m)])) (hwc : st'.wc = st.wc)
    (hv : ∀ i < fieldElems c.fmt, elemMasked c.fmt m i = false → fld y (i * fieldBits c.fmt) (fmtBits c.fmt) = v i % 2 ^ fmtBits c.fmt) :
    OneWord c st (opExec c st (some l) (some r) none) k (lw.psn || rw.psn) m v
      (dataWord y k.ridx.toNat (wEnd k) c.gen (lw.psn || rw.psn) m) := by
  rw [opExec_dataWords h hstd hx, resultWords_singleton]
  refine ⟨rfl, rfl, ?_, dataWord_eq_with _ _ _ _ _, fun i hi hm => ?_⟩
  · rw [counted_wc h, fmacClose_wc, hwc]
  · rw [dataWord_mask] at hm
    rw [quadElem_dataWord hf (elem_bit_lt hf hi) hm, hv i hi hm]

/-- An operator that goes by binElem gives one word. -/
theorem oneWord_bin (h : DataWords c l r lw rw k) (hf : c.fmt ≤ 11) {opc : Nat} (hopc : c.s.opc = opc) (hbin : opc ∈ binOpcodes)
    {v : Nat → Nat} (hv : ∀ i, binElem opc c.s.mod (cttRnd c.ctt k.ridx.toNat (16 * st.wc + i)) (quadElem c.fmt lw.data i)
      (quadElem c.fmt rw.data i) % 2 ^ fmtBits c.fmt = v i % 2 ^ fmtBits c.fmt) :
    ∃ z, OneWord c st (opExec c st (some l) (some r) none) k (lw.psn || rw.psn) (lw.mask ||| rw.mask) v z := by
  subst hopc
  have hsub : binOpcodes ⊆ stdOpcodes := by decide
  exact ⟨_, oneWord_of_result h (hsub hbin) hf (computeOp_bin hbin) rfl fun i hi hm => by rw [fld_elementwise hf hi hm, hv i]⟩

end

/-! ## FSCL and FMAC (R365, R368) -/

section
variable {c : OpCtx} {st : OpSt} {l r lw rw k : FWord}

/-- FSCL scales the left word's elements. -/
theorem oneWord_fscl (h : DataWords c l r lw rw k) (hf : c.fmt ≤ 11) (hopc : c.s.opc = 0x17) :
    ∃ z, OneWord c st (opExec c st (some l) (some r) none) k (lw.psn || rw.psn) lw.mask (fun i =>
      fpEncode (cttRnd c.ctt k.ridx.toNat (16 * st.wc + i)) (fpScale (fsclK (c.s.mod.testBit 0) c.fmt rw.data i)
        (fpDecode c.fmt (quadElem c.fmt lw.data i)))) z :=
  ⟨_, oneWord_of_result h (by rw [hopc]; decide) hf (computeOp_fscl hopc) rfl fun i hi hm => by rw [fld_elementwise hf hi hm]⟩

/-- FMAC's running values keep the count of words. -/
theorem fmacNext_wc (c : OpCtx) (st : OpSt) (m : BitVec 4) (y : Nat) : (fmacNext c st m y).wc = st.wc := by
  unfold fmacNext
  split <;> rfl

/-- FMAC's element: the product, or its opposite, plus its addend. -/
def fmacElem (c : OpCtx) (st : OpSt) (lw rw k : FWord) (i : Nat) : Nat :=
  fpEncode (cttRnd c.ctt k.ridx.toNat (16 * st.wc + i)) (fpAdd (cttRnd c.ctt k.ridx.toNat (16 * st.wc + i)).mode
    (if c.s.mod.testBit 4 then fpNeg (fpMul (fpDecode c.fmt (quadElem c.fmt lw.data i)) (fpDecode c.fmt (quadElem c.fmt rw.data i)))
      else fpMul (fpDecode c.fmt (quadElem c.fmt lw.data i)) (fpDecode c.fmt (quadElem c.fmt rw.data i)))
    (fpDecode c.fmt (fmacAddend c st i)))

/-- FMAC gives one word, and keeps the results of unmasked quarters as its running values to the END. -/
theorem oneWord_fmac (h : DataWords c l r lw rw k) (hf : c.fmt ≤ 11) (hopc : c.s.opc = 0x12) :
    ∃ z, OneWord c st (opExec c st (some l) (some r) none) k (lw.psn || rw.psn) (lw.mask ||| rw.mask) (fmacElem c st lw rw k) z ∧
      (c.s.mod.testBit 3 = true → (opExec c st (some l) (some r) none).st.acc = if 1 ≤ lw.fin.toNat then [] else
        (List.range (fieldElems c.fmt)).map (fun i => some (if elemMasked c.fmt (lw.mask ||| rw.mask) i then fmacAddend c st i
          else quadElem c.fmt z.data i))) := by
  have hstd : c.s.opc ∈ stdOpcodes := by rw [hopc]; decide
  have hx := computeOp_fmac (c := c) (st := st) (l := lw) (r := rw) (ridx := k.ridx.toNat) (psn := lw.psn || rw.psn) hopc
  have hone := oneWord_of_result (v := fmacElem c st lw rw k) h hstd hf hx (fmacNext_wc _ _ _ _) fun i hi hm => by
    rw [fmacWord, fld_elementwise hf hi hm]
    rfl
  refine ⟨_, hone, fun hacc => ?_⟩
  rw [opExec_dataWords h hstd hx, counted_acc]
  simp only [fmacClose, fmacNext, hopc, hacc, wEnd, true_and, if_true]
  split
  · rfl
  · refine List.map_congr_left fun i hi => ?_
    have hi' := List.mem_range.mp hi
    split
    · rfl
    · rename_i hm
      rw [quadElem_ofNat hf (elem_bit_lt hf hi'), quadElem_dataWord hf (elem_bit_lt hf hi') (Bool.eq_false_iff.mpr hm)]

end

/-! ## One operand (R346, R362, R369, R373, R412) -/

section
variable {c : OpCtx} {st st' : OpSt} {l : FWord}

/-- An execution on one data word gives the operator's results. -/
theorem opExec_dataWord (hlc : c.s.lc = false) (hrc : c.s.rc = false) (hstd : c.s.opc ∈ stdOpcodes) (herr : isErr l = false)
    (hbare : isBare l = false) {ys : List (Nat × BitVec 4)}
    (hx : computeOp c st l (asMasked (constWord 0)) l.ridx.toNat l.psn = (st', ys)) : opExec c st (some l) none none =
      counted c (some l) none (OpOut.mk (fmacClose c st' l) (resultWords c l l.psn ys) []) := by
  have hleft : operand c c.s.lc c.s.lci (some l) = some l := by rw [hlc, operand_word]
  have herr' : ∀ z ∈ l :: (none : Option FWord).toList ++ (none : Option FWord).toList, isErr z = false := by simp [herr]
  have hbare' : (l :: (none : Option FWord).toList).any isBare = false := by simp [hbare]
  rw [opExec_std hstd hleft, hrc, operand_word, stdOp_results herr' (src := l) (ys := ys) (st' := st') (psn := l.psn) (by simp [hlc])
    (by simp) hbare'.symm ⟨l, List.mem_cons_self, hbare⟩ (.inr rfl)]
  · simp only [selected, Bool.false_eq_true, if_false, Prod.mk.eta, List.map_id']
  · rw [Option.getD_none, asMasked_data hbare, hx]

/-- A quarter is masked in a converted word unless an element in it came from an unmasked one (R362). -/
theorem cvtMask_false {src dst first n j : Nat} {m : BitVec 4} (hj : j < n) (hq : elemQuarter dst j < 4)
    (hm : elemMasked src m (first + j) = false) : elemMasked dst (cvtMask src dst first n m) j = false := by
  refine (getLsbD_quarterMask _ hq).trans ?_
  rw [Bool.not_eq_false', List.any_eq_true]
  exact ⟨j, List.mem_range.mpr hj, by simp [hm]⟩

/-- Result e of a conversion. -/
def convertWord (c : OpCtx) (wc : Nat) (l : FWord) (e : Nat) : Nat × BitVec 4 :=
  let src := c.s.mod % 16
  let n := fieldElems src / ownExecs c.t c.s
  (packElems c.fmt ((List.range n).map (fun j => if elemMasked src l.mask (e * n + j) then 0
      else convElem src 0 (cttRnd c.ctt l.ridx.toNat (16 * wc + (e * n + j))) (quadElem src l.data (e * n + j)))),
    cvtMask src c.fmt (e * n) n l.mask)

theorem convertWords_eq (c : OpCtx) (wc : Nat) (l : FWord) :
    convertWords c wc l.ridx.toNat l = (List.range (ownExecs c.t c.s)).map (convertWord c wc l) := rfl

/-- An element of a converted word is the element converted (R362, R373). -/
theorem convertWord_elem {wc src n e j : Nat} {level : Nat} {g p : Bool} (hf : c.fmt ≤ 11) (hsrc : src = c.s.mod % 16)
    (hn : n = fieldElems src / ownExecs c.t c.s) (hfit : n * fieldBits c.fmt ≤ 128) (hj : j < n)
    (hm : elemMasked src l.mask (e * n + j) = false) :
    quadElem c.fmt (dataWord (convertWord c wc l e).1 l.ridx.toNat level g p (convertWord c wc l e).2).data j =
      convElem src 0 (cttRnd c.ctt l.ridx.toNat (16 * wc + (e * n + j))) (quadElem src l.data (e * n + j)) % 2 ^ fmtBits c.fmt := by
  subst hsrc hn
  have hbit : j * fieldBits c.fmt < 128 := ((Nat.mul_lt_mul_right (fieldBits_pos hf)).mpr hj).trans_le hfit
  have hmask := cvtMask_false (dst := c.fmt) hj (Nat.div_lt_of_lt_mul hbit) hm
  refine (quadElem_dataWord_packElems hf hbit hmask _ _ _ _ _).trans ?_
  rw [getD_map_range _ 0 hj, hm, if_neg Bool.false_ne_true]

end

/-! ## MASK (R393) -/

section
variable {c : OpCtx} {l : FWord} {r : Quad} {drop : Nat → Bool}

/-- MASK with its all bit unmasks every quarter. -/
theorem maskWord_all (psn : Bool) (h : c.s.mod.testBit 1 = true) : maskWord c psn l r = (l.data.toNat, 0) := if_pos h

/-- The quarters masked by MASK. -/
def dropMask (c : OpCtx) (l : FWord) (r : Quad) : Nat := l.mask.toNat ||| sumNat ((List.range 4).map (fun q =>
  if (r.getLsbD (32 * q) != c.s.mod.testBit 0) then 0 else 2 ^ q))

theorem maskWord_eq (psn : Bool) (h : c.s.mod.testBit 1 = false) : maskWord c psn l r =
    if dropMask c l r = 15 ∧ psn = true then (0, 7) else (l.data.toNat, BitVec.ofNat 4 (dropMask c l r)) :=
  if_neg (Bool.eq_false_iff.mp h)

/-- A quarter is masked when it was, or when its predicate bit drops it. -/
theorem testBit_dropMask (hdrop : drop = fun q => l.mask.getLsbD q || r.getLsbD (32 * q) == c.s.mod.testBit 0) {q : Nat} (hq : q < 4) :
    (dropMask c l r).testBit q = drop q := by
  rw [dropMask, Nat.testBit_or, testBit_quarterMask _ hq, hdrop]
  simp [bne, BitVec.getLsbD]

/-- Four bits make the mask. -/
theorem dropMask_lt : dropMask c l r < 2 ^ 4 := by
  refine Nat.or_lt_two_pow l.mask.isLt ?_
  simp only [sumNat, List.range_succ, List.range_zero, List.nil_append, List.cons_append, List.map_cons, List.map_nil,
    List.foldl_cons, List.foldl_nil]
  split_ifs <;> decide

/-- Every quarter is masked when every one is dropped. -/
theorem dropMask_eq_iff (hdrop : drop = fun q => l.mask.getLsbD q || r.getLsbD (32 * q) == c.s.mod.testBit 0) :
    dropMask c l r = 15 ↔ ∀ q < 4, drop q = true := by
  have hbits : dropMask c l r = 15 ↔ ∀ q < 4, (dropMask c l r).testBit q = true := by
    have hlt := dropMask_lt (c := c) (l := l) (r := r)
    generalize dropMask c l r = n at hlt ⊢
    decide +revert
  rw [hbits]
  exact forall₂_congr fun q hq => by rw [testBit_dropMask hdrop hq]

end

end Sys2Proof.Machine
end

section
/-!
PROOF SUPPORT. What each operator of two operands puts out (R361, R365, R368, R371, R372, R375-R377, R379).
-/

namespace Sys2Proof.Machine

/-! ## Element results -/

/-- FCMP's conditions (R361). -/
theorem fcmpHolds_iff (cond : Nat) (d : Option Int) : fcmpHolds cond d = true ↔ (match cond, d with
      | 0, some d => d == 0
      | 1, d => d != some 0
      | 2, some d => decide (d < 0)
      | 3, some d => decide (d ≤ 0)
      | 4, some d => decide (0 < d)
      | 5, some d => decide (0 ≤ d)
      | 6, d => d.isNone
      | 7, d => d.isSome
      | _, _ => false) = true := by
  rcases cond with _ | _ | _ | _ | _ | _ | _ | _ | n <;> cases d <;> exact Iff.rfl

/-- ILOG's element. -/
theorem binElem_ilog (mod : Nat) (r : Rnd) (a b : Nat) : binElem 0x1A mod r a b =
    if mod % 4 = 0 then a &&& b else if mod % 4 = 1 then a ||| b else a ^^^ b := by
  rw [binElem]
  rcases mod % 4 with _ | _ | n <;> rfl

/-- IMAX's element as unsigned numbers, or as signed ones (R375, R376). -/
theorem binElem_imax (mod : Nat) (r : Rnd) (a b : Nat) : binElem 0x1D mod r a b % 2 ^ fmtBits r.fmt =
    (if mod.testBit 1 then (if mod.testBit 0 then min a b else max a b)
      else ((if mod.testBit 0 then min (intVal r.fmt a) (intVal r.fmt b) else max (intVal r.fmt a) (intVal r.fmt b))
        % 2 ^ fmtBits r.fmt).toNat) % 2 ^ fmtBits r.fmt := by
  cases hun : mod.testBit 1
  · simpa [binElem, hun] using pickElem_mod r.fmt a b (mod.testBit 0)
  · simp [binElem, hun, min_def_lt, max_def_lt]

/-- FSCL's factor is the exponent of the right word, clamped (R368). -/
theorem fsclK_eq (perq : Bool) (f : Nat) (x : Quad) (i : Nat) : fsclK perq f x i =
    max (-1024) (min 1023 (intVal 10 (x.toNat / 2 ^ (if perq then 32 * elemQuarter f i else 0) % 2 ^ 32))) := by
  cases perq <;> rfl

/-! ## One word -/

section
variable {c : OpCtx} {st : OpSt} {l r lw rw k : FWord} {opc : Nat} {v : Nat → Nat}

/-- Operator opc puts out one word with elements v, and FMAC keeps its running values. -/
def GivesWord (c : OpCtx) (st : OpSt) (l r lw rw k : FWord) (opc : Nat) (v : Nat → Nat) : Prop :=
  ∃ z, (opExec c st (some l) (some r) none).outs = [(3, z)] ∧ (opExec c st (some l) (some r) none).sink = [] ∧
    (opExec c st (some l) (some r) none).st.wc = (if 1 ≤ k.fin.toNat then 0 else st.wc + 1) ∧
    z = { k with data := z.data, gen := c.gen, psn := lw.psn || rw.psn, mask := if opc = 0x17 then lw.mask else lw.mask ||| rw.mask } ∧
    (∀ i < fieldElems c.fmt, elemMasked c.fmt z.mask i = false → quadElem c.fmt z.data i = v i % 2 ^ fmtBits c.fmt) ∧
    (opc = 0x12 → c.s.mod.testBit 3 = true → (opExec c st (some l) (some r) none).st.acc =
      if 1 ≤ lw.fin.toNat then [] else (List.range (fieldElems c.fmt)).map (fun i =>
        some (if elemMasked c.fmt (lw.mask ||| rw.mask) i then fmacAddend c st i else quadElem c.fmt z.data i)))

/-- One word from an operator other than FMAC. -/
theorem OneWord.givesWord {m : BitVec 4} {z : FWord} (hone : OneWord c st (opExec c st (some l) (some r) none) k (lw.psn || rw.psn) m v z)
    (hm : m = if opc = 0x17 then lw.mask else lw.mask ||| rw.mask) (hopc : opc ≠ 0x12) : GivesWord c st l r lw rw k opc v := by
  subst hm
  obtain ⟨houts, hsink, hcount, hword, helems⟩ := hone
  exact ⟨z, houts, hsink, hcount, hword, helems, fun h => absurd h hopc⟩

/-- An operator that goes by binElem. -/
theorem givesWord_bin (h : DataWords c l r lw rw k) (hf : c.fmt ≤ 11) (hopc : c.s.opc = opc) (hbin : opc ∈ binOpcodes)
    (hv : ∀ i, binElem opc c.s.mod (cttRnd c.ctt k.ridx.toNat (16 * st.wc + i)) (quadElem c.fmt lw.data i)
      (quadElem c.fmt rw.data i) % 2 ^ fmtBits c.fmt = v i % 2 ^ fmtBits c.fmt) : GivesWord c st l r lw rw k opc v := by
  obtain ⟨z, hone⟩ := oneWord_bin h hf hopc hbin hv
  have hne : opc ≠ 0x17 ∧ opc ≠ 0x12 := ⟨fun h => absurd (h ▸ hbin) (by decide), fun h => absurd (h ▸ hbin) (by decide)⟩
  exact hone.givesWord (if_neg hne.1).symm hne.2

/-- FSCL, which takes the mask of the left word alone (R368). -/
theorem givesWord_fscl (h : DataWords c l r lw rw k) (hf : c.fmt ≤ 11) (hopc : c.s.opc = 0x17) :
    GivesWord c st l r lw rw k 0x17 (fun i => fpEncode (cttRnd c.ctt k.ridx.toNat (16 * st.wc + i))
      (fpScale (max (-1024) (min 1023 (intVal 10
        (rw.data.toNat / 2 ^ (if c.s.mod.testBit 0 then 32 * elemQuarter c.fmt i else 0) % 2 ^ 32))))
        (fpDecode c.fmt (quadElem c.fmt lw.data i)))) := by
  obtain ⟨z, hone⟩ := oneWord_fscl h hf hopc
  simp only [fsclK_eq] at hone
  exact hone.givesWord (if_pos rfl).symm (by decide)

/-- FMAC (R365). -/
theorem givesWord_fmac (h : DataWords c l r lw rw k) (hf : c.fmt ≤ 11) (hopc : c.s.opc = 0x12) :
    GivesWord c st l r lw rw k 0x12 (fmacElem c st lw rw k) := by
  obtain ⟨z, ⟨houts, hsink, hcount, hword, helems⟩, hacc⟩ := oneWord_fmac (st := st) h hf hopc
  exact ⟨z, houts, hsink, hcount, hword, helems, fun _ => hacc⟩

end

end Sys2Proof.Machine
end

section
/-!
PROOF SUPPORT. What each operator of one operand puts out, MASK, and what a predicate does (R106, R346, R362, R369, R393, R412).
-/

namespace Sys2Proof.Machine

/-! ## One operand -/

section
variable {c : OpCtx} {st st' : OpSt} {l : FWord}

/-- PICK of a masked element gives a fully masked word (R412). -/
theorem pickWord_mask (c : OpCtx) (l : FWord) : (pickWord c l).2 = if elemMasked c.fmt l.mask c.s.mod then 15 else l.mask :=
  apply_ite Prod.snd _ _ _

/-- No element is left of a fully masked word. -/
theorem elemMasked_full {f i : Nat} (hf : f ≤ 11) (hi : i < fieldElems f) : elemMasked f 15 i = true := by
  have hq : elemQuarter f i < 4 := Nat.div_lt_of_lt_mul (elem_bit_lt hf hi)
  rw [elemMasked]
  generalize elemQuarter f i = q at hq
  decide +revert

/-- PICK's elements are the one picked. -/
theorem pickWord_elem {i : Nat} (hf : c.fmt ≤ 11) (hi : i < fieldElems c.fmt) (hm : elemMasked c.fmt (pickWord c l).2 i = false) :
    fld (pickWord c l).1 (i * fieldBits c.fmt) (fmtBits c.fmt) = quadElem c.fmt l.data c.s.mod := by
  by_cases h : elemMasked c.fmt l.mask c.s.mod = true
  · rw [pickWord_mask, if_pos h, elemMasked_full hf hi] at hm
    exact absurd hm (by decide)
  · rw [pickWord, if_neg h, fld_packElems hf, List.getD_replicate _ hi, Nat.mod_eq_of_lt (quadElem_lt _ _ _)]

section
variable (hlc : c.s.lc = false) (hrc : c.s.rc = false) (herr : isErr l = false) (hbare : isBare l = false)
include hlc hrc herr hbare

/-- An operator with one result puts out one word. -/
theorem opExec_outs_single (hstd : c.s.opc ∈ stdOpcodes) {y : Nat} {m : BitVec 4}
    (hx : computeOp c st l (asMasked (constWord 0)) l.ridx.toNat l.psn = (st', [(y, m)])) :
    (opExec c st (some l) none none).outs = [(3, dataWord y l.ridx.toNat (wEnd l) c.gen l.psn m)] := by
  rw [opExec_dataWord hlc hrc hstd herr hbare hx, counted_outs, resultWords_singleton]

/-- CONST gives its constant (R346). -/
theorem opExec_const (hopc : c.s.opc = 0x01) : ∃ z, (opExec c st (some l) none none).outs = [(3, z)] ∧
    z = { l with data := z.data, gen := c.gen } ∧ ∀ q < 4, l.mask.getLsbD q = false →
      fld z.data.toNat (32 * q) 32 = fld (c.ctab.getD (c.s.mod % 8) 0) (32 * q) 32 := by
  refine ⟨_, opExec_outs_single hlc hrc herr hbare (by rw [hopc]; decide) (computeOp_const hopc), dataWord_eq_with l _ _ _ _,
    fun q hq hm => ?_⟩
  rw [quarter_dataWord _ _ _ _ _ _ hq, hm, if_neg Bool.false_ne_true]

/-- PICK gives one element everywhere, or a fully masked word (R412). -/
theorem opExec_pick (hf : c.fmt ≤ 11) (hopc : c.s.opc = 0x02) : ∃ z, (opExec c st (some l) none none).outs = [(3, z)] ∧
    z = { l with data := z.data, gen := c.gen, mask := if elemMasked c.fmt l.mask c.s.mod then 15 else l.mask } ∧
    ∀ i < fieldElems c.fmt, elemMasked c.fmt z.mask i = false → quadElem c.fmt z.data i = quadElem c.fmt l.data c.s.mod := by
  have hx : computeOp c st l (asMasked (constWord 0)) l.ridx.toNat l.psn = (st, [((pickWord c l).1, (pickWord c l).2)]) :=
    computeOp_pick hopc
  refine ⟨_, opExec_outs_single hlc hrc herr hbare (by rw [hopc]; decide) hx, ?_, fun i hi hm => ?_⟩
  · rw [← pickWord_mask]
    exact dataWord_eq_with l _ _ _ _
  · rw [dataWord_mask] at hm
    rw [quadElem_dataWord hf (elem_bit_lt hf hi) hm, pickWord_elem hf hi hm]

/-- FSFN gives its function of each element (R369). -/
theorem opExec_sfn (hf : c.fmt ≤ 11) (hopc : c.s.opc = 0x16) : ∃ z, (opExec c st (some l) none none).outs = [(3, z)] ∧
    z = { l with data := z.data, gen := c.gen } ∧ ∀ i < fieldElems c.fmt, elemMasked c.fmt l.mask i = false → quadElem c.fmt z.data i =
      sfn (cttRnd c.ctt l.ridx.toNat (16 * st.wc + i)) (c.s.mod % 8) (quadElem c.fmt l.data i) % 2 ^ fmtBits c.fmt := by
  refine ⟨_, opExec_outs_single hlc hrc herr hbare (by rw [hopc]; decide) (computeOp_sfn hopc), dataWord_eq_with l _ _ _ _,
    fun i hi hm => ?_⟩
  rw [quadElem_dataWord hf (elem_bit_lt hf hi) hm, fld_elementwise hf hi hm]

/-- FCVT and ICVT give the elements converted, in one word for each execution (R362, R373). -/
theorem opExec_convert (hf : c.fmt ≤ 11) (hopc : c.s.opc = 0x15 ∨ c.s.opc = 0x1E) {src n : Nat} (hsrc : src = c.s.mod % 16)
    (hn : n = fieldElems src / ownExecs c.t c.s) (hfit : n * fieldBits c.fmt ≤ 128) :
    (opExec c st (some l) none none).outs.length = ownExecs c.t c.s ∧
    ∀ e < ownExecs c.t c.s, ∃ z, (opExec c st (some l) none none).outs[e]? = some (3, z) ∧ z.ridx = l.ridx ∧ z.psn = l.psn ∧
      z.fin = (if e + 1 = ownExecs c.t c.s then l.fin else 0) ∧
      ∀ j < n, elemMasked src l.mask (e * n + j) = false → quadElem c.fmt z.data j =
        convElem src 0 (cttRnd c.ctt l.ridx.toNat (16 * st.wc + (e * n + j))) (quadElem src l.data (e * n + j)) % 2 ^ fmtBits c.fmt := by
  have hstd : c.s.opc ∈ stdOpcodes := by rcases hopc with h | h <;> rw [h] <;> decide
  rw [opExec_dataWord hlc hrc hstd herr hbare (computeOp_convert hopc), counted_outs, convertWords_eq]
  refine ⟨by simp, fun e he => ⟨_, resultWords_getElem c l l.psn _ (by simpa using he), dataWord_ridx .., dataWord_psn .., ?_,
    fun j hj hm => ?_⟩⟩
  · simp only [List.length_map, List.length_range]
    split
    · exact dataWord_fin ..
    · rfl
  · rw [List.getElem_map, List.getElem_range]
    exact convertWord_elem hf hsrc hn hfit hj hm

end

end

/-! ## MASK (R393) -/

/-- MASK gives its word with the quarters masked that its predicate drops. -/
theorem opExec_mask {c : OpCtx} {st : OpSt} {l r : FWord} {drop : Nat → Bool} (hwords : DataWords c l r l r l) (hopc : c.s.opc = 0x0C)
    (hdrop : drop = fun q => l.mask.getLsbD q || r.data.getLsbD (32 * q) == c.s.mod.testBit 0) :
    ∃ z, (opExec c st (some l) (some r) none).outs = [(3, z)] ∧ z.ridx = l.ridx ∧ z.fin = l.fin ∧ z.gen = c.gen ∧
      z.psn = (l.psn || r.psn) ∧
      (c.s.mod.testBit 1 = true → z.data = l.data ∧ z.mask = 0) ∧
      (c.s.mod.testBit 1 = false →
        ((∀ q < 4, drop q = true) → z.psn = true → z.data = 0 ∧ z.mask = 7) ∧
        (¬ ((∀ q < 4, drop q = true) ∧ z.psn = true) → ∀ q < 4, z.mask.getLsbD q = drop q ∧
          fld z.data.toNat (32 * q) 32 = if drop q then 0 else fld l.data.toNat (32 * q) 32)) := by
  have hx : computeOp c st l r l.ridx.toNat (l.psn || r.psn) =
      (st, [((maskWord c (l.psn || r.psn) l r.data).1, (maskWord c (l.psn || r.psn) l r.data).2)]) := computeOp_mask hopc
  have houts : (opExec c st (some l) (some r) none).outs = [(3, dataWord (maskWord c (l.psn || r.psn) l r.data).1 l.ridx.toNat
      (wEnd l) c.gen (l.psn || r.psn) (maskWord c (l.psn || r.psn) l r.data).2)] := by
    rw [opExec_dataWords hwords (by rw [hopc]; decide) hx, counted_outs, resultWords_singleton]
  refine ⟨_, houts, ?_⟩
  simp only [dataWord_ridx, dataWord_fin, dataWord_gen, dataWord_psn, dataWord_mask, true_and]
  refine ⟨fun hall => ?_, fun hall => ?_⟩
  · rw [maskWord_all _ hall]
    exact ⟨(dataWord_data_unmasked ..).trans ((BitVec.ofNat_toNat _ _).trans (BitVec.setWidth_eq _)), rfl⟩
  · rw [maskWord_eq _ hall, ← dropMask_eq_iff hdrop]
    refine ⟨fun hfull hpsn => ?_, fun hnot q hq => ?_⟩
    · rw [if_pos ⟨hfull, hpsn⟩]
      exact ⟨dataWord_data_zero _ _ _ _ (.inr rfl), rfl⟩
    · have hbit : (BitVec.ofNat 4 (dropMask c l r.data)).getLsbD q = drop q := by
        rw [BitVec.getLsbD_ofNat, testBit_dropMask hdrop hq, decide_eq_true hq, Bool.true_and]
      rw [if_neg hnot, quarter_dataWord _ _ _ _ _ _ hq, hbit]
      exact ⟨rfl, rfl⟩

/-! ## Tokens and predicates (R106) -/

section
variable {c : OpCtx} {st : OpSt} {l : FWord} {r p : Option FWord} (hlc : c.s.lc = false) (hrc : c.s.rc = false)
  (hstd : c.s.opc ∈ stdOpcodes)
include hlc hrc hstd

/-- An execution without constants. -/
theorem opExec_stdOp : opExec c st (some l) r p = counted c (some l) r (stdOp c st l r p) := by
  have hleft : operand c c.s.lc c.s.lci (some l) = some l := by rw [hlc, operand_word]
  rw [opExec_std hstd hleft, hrc, operand_word]

variable (herr : ∀ z ∈ l :: r.toList ++ p.toList, isErr z = false)
include herr

/-- The results of an execution with a data word. -/
theorem opExec_results {masked : Bool} (hmasked : masked = (l :: r.toList).any isBare) (hdata : ∃ z ∈ l :: r.toList, isBare z = false)
    (hopc : c.s.opc ≠ 0x0C) : (opExec c st (some l) r p).outs = resultWords c l ((l :: r.toList ++ p.toList).any (fun w => w.psn))
      ((computeOp c st (asMasked l) (asMasked (r.getD (constWord 0))) l.ridx.toNat false).2.map (fun y =>
        (selected p (asMasked l).data y.1, if masked then 15 else y.2))) := by
  have hx : ∀ psn, computeOp c st (asMasked l) (asMasked (r.getD (constWord 0))) l.ridx.toNat psn =
      ((computeOp c st (asMasked l) (asMasked (r.getD (constWord 0))) l.ridx.toNat false).1,
        (computeOp c st (asMasked l) (asMasked (r.getD (constWord 0))) l.ridx.toNat false).2) := fun psn => computeOp_psn hopc false
  rw [opExec_stdOp hlc hrc hstd, counted_outs, stdOp_results herr (src := l) (by simp [hlc]) rfl hmasked hdata (.inl hopc) (hx _)]

/-- A bare end token beside a data word gives fully masked words. -/
theorem opExec_masked (hbare : (l :: r.toList).any isBare = true) (hdata : ∃ z ∈ l :: r.toList, isBare z = false)
    (hopc : c.s.opc ≠ 0x0C) : ∀ z ∈ (opExec c st (some l) r p).outs, z.2.mask = 15 ∧ z.2.data = 0 := by
  rw [opExec_results hlc hrc hstd herr hbare.symm hdata hopc, resultWords]
  intro z hz
  obtain ⟨i, hi, rfl⟩ := List.mem_map.mp hz
  have hi' := List.mem_range.mp hi
  rw [List.getD_eq_getElem _ _ hi', List.getElem_map, if_pos rfl]
  exact ⟨rfl, dataWord_data_zero _ _ _ _ (.inl rfl)⟩

end

/-- A word of a list of results. -/
theorem resultWords_some {c : OpCtx} {src z : FWord} {psn : Bool} {ys : List (Nat × BitVec 4)} {i : Nat}
    (h : (resultWords c src psn ys)[i]? = some (3, z)) : ∃ hi : i < ys.length, z =
      dataWord ys[i].1 src.ridx.toNat (if i + 1 = ys.length then wEnd src else 0) c.gen psn ys[i].2 := by
  have hi : i < ys.length := by
    obtain ⟨hi, -⟩ := List.getElem?_eq_some_iff.mp h
    rwa [resultWords_length] at hi
  rw [resultWords_getElem c src psn ys hi] at h
  exact ⟨hi, (Prod.mk.inj (Option.some.inj h)).2.symm⟩

/-- A predicate word gives the left operand's quarter where its bit is 0. -/
theorem opExec_predicate {c : OpCtx} {st : OpSt} {l pw z z' : FWord} {r : Option FWord} {i q : Nat} (hlc : c.s.lc = false)
    (hrc : c.s.rc = false) (hstd : c.s.opc ∈ stdOpcodes) (herr : ∀ z ∈ l :: r.toList ++ (some pw).toList, isErr z = false)
    (hopc : c.s.opc ≠ 0x0C) (hbare : isBare l = false) (hz : (opExec c st (some l) r none).outs[i]? = some (3, z))
    (hz' : (opExec c st (some l) r (some pw)).outs[i]? = some (3, z')) (hq : q < 4) :
    z'.mask = z.mask ∧ (z.mask.getLsbD q = false → fld z'.data.toNat (32 * q) 32 =
      if pw.data.getLsbD (32 * q) then fld z.data.toNat (32 * q) 32 else fld l.data.toNat (32 * q) 32) := by
  have herr' : ∀ z ∈ l :: r.toList ++ (none : Option FWord).toList, isErr z = false := fun z hz =>
    herr z (List.mem_append_left _ (by simpa using hz))
  have hdata : ∃ z ∈ l :: r.toList, isBare z = false := ⟨l, List.mem_cons_self, hbare⟩
  rw [opExec_results hlc hrc hstd herr' rfl hdata hopc, asMasked_data hbare] at hz
  rw [opExec_results hlc hrc hstd herr rfl hdata hopc, asMasked_data hbare] at hz'
  obtain ⟨hi, rfl⟩ := resultWords_some hz
  obtain ⟨hi', rfl⟩ := resultWords_some hz'
  simp only [dataWord_mask, List.getElem_map, quarter_dataWord _ _ _ _ _ _ hq, true_and]
  intro hm
  simp only [hm, Bool.false_eq_true, if_false]
  exact quarter_selectQuarters pw.data l.data _ hq

end Sys2Proof.Machine
end

section
/-!
PROOF. The operators that compute element by element, and tokens and predicates at them.
-/

namespace Sys2Proof.Machine

/-- Settles O43. Two operands: each operator's element result, put out in one word (`GivesWord`). One operand and MASK: the operator's
words. Tokens and predicates: the cases of `stdOp`, with a predicate and without one compared. -/
theorem elementOperatorResults : Obligations.ElementOperatorResults := by
  unfold Obligations.ElementOperatorResults
  refine ⟨?two, ?one, ?mask, ?tokens, fun mode m n s t e g => ⟨fpAdd_fin_val mode m n s t e g, fpMul_fin_val m n s t e g⟩⟩
  case two =>
    rintro c st l r lw rw k f w m x y a rd gives rfl hf rfl hlw hrw hk hlerr hrerr hlbare hrbare rfl rfl rfl rfl rfl rfl
    have hwords : DataWords c l r lw rw k := ⟨hlw, hrw, hk, hlerr, hrerr, hlbare, hrbare⟩
    refine ⟨fun h => ?fadd, fun h => ?fmul, fun h => ?fscl, fun h => ?fmac, fun h => ?fmax, fun h => ?fcmp, fun v hv h => ?iadd,
      fun v hv h => ?imul, fun h => ?ilog, fun h => ?ish, fun h => ?icmp, fun h => ?imax⟩
    case fadd => exact givesWord_bin hwords hf h (by decide) fun i => rfl
    case fmul => exact givesWord_bin hwords hf h (by decide) fun i => rfl
    case fscl => exact givesWord_fscl hwords hf h
    case fmac => exact givesWord_fmac hwords hf h
    case fmax => exact givesWord_bin hwords hf h (by decide) fun i => rfl
    case fcmp => exact givesWord_bin hwords hf h (by decide) fun i => congrArg (· % _) (elemOnes_eq_ite (fcmpHolds_iff _ _))
    case iadd =>
      subst hv
      exact givesWord_bin hwords hf h (by decide) fun i => rfl
    case imul =>
      subst hv
      exact givesWord_bin hwords hf h (by decide) fun i => rfl
    case ilog => exact givesWord_bin hwords hf h (by decide) fun i => congrArg (· % _) (binElem_ilog _ _ _ _)
    case ish => exact givesWord_bin hwords hf h (by decide) fun i => shiftElem_mod _ _ _ _
    case icmp => exact givesWord_bin hwords hf h (by decide) fun i => congrArg (· % _) (elemOnes_eq_ite (icmpHolds_iff _ _ _ _))
    case imax => exact givesWord_bin hwords hf h (by decide) fun i => binElem_imax _ _ _ _
  case one =>
    rintro c st l f out rfl hf hlc hrc herr hbare rfl
    exact ⟨opExec_const hlc hrc herr hbare, fun hopc _ => opExec_pick hlc hrc herr hbare hf hopc, opExec_sfn hlc hrc herr hbare hf,
      fun src n hopc hsrc _ hn hfit => opExec_convert hlc hrc herr hbare hf hopc hsrc hn hfit⟩
  case mask =>
    intro c st l r drop hopc hlc hrc hlerr hrerr hlbare hrbare hdrop
    exact opExec_mask ⟨by simp [hlc], by simp [hrc], by simp [hlc], hlerr, hrerr, hlbare, hrbare⟩ hopc hdrop
  case tokens =>
    rintro c st l r p out hlc hrc hstd rfl
    refine ⟨fun e es herrs => ?error, fun herr => ⟨fun hl hr => ?bare, fun hmixed hopc => ?masked, ?predicate⟩⟩
    case error =>
      rw [opExec_stdOp hlc hrc hstd, counted_outs, counted_sink, stdOp_error herrs]
      exact ⟨rfl, rfl⟩
    case bare =>
      rw [opExec_stdOp hlc hrc hstd, counted_outs, counted_sink, stdOp_bare herr hl hr]
      exact ⟨rfl, rfl⟩
    case masked =>
      rcases hmixed with ⟨hl, z, hz, hdata⟩ | ⟨hl, z, hz, hbare⟩
      · exact opExec_masked hlc hrc hstd herr (by simp [hl]) ⟨z, List.mem_cons_of_mem _ (Option.mem_toList.mpr hz), hdata⟩ hopc
      · exact opExec_masked hlc hrc hstd herr (List.any_eq_true.mpr ⟨z, List.mem_cons_of_mem _ (Option.mem_toList.mpr hz), hbare⟩)
          ⟨l, List.mem_cons_self, hl⟩ hopc
    case predicate =>
      rintro pw z z' i q rfl hopc hbare hz hz' hq
      exact opExec_predicate hlc hrc hstd herr hopc hbare hz hz' hq

end Sys2Proof.Machine
end

section
/-!
PROOF SUPPORT. The issue of CFGL, CFGW and CFGG: what each makes of the data, by the state of the pending configuration and the
checks of its operands (R26, R91, R131-R133, R340); and the values of CFGQ (R132).
-/

namespace Sys2Proof.Machine

open Sys2Proof.Safety

/-! ## Stalls and refusals that the configuration instructions share (R26, R91, R131) -/

/-- An incomplete command of the TP names the tag: the instruction waits (R91). -/
theorem tagFree_of_busy {d : Data} {tag : BitVec 6} (k : Data → Data) (hne : tag ≠ 0) (hbusy : (curTp d).busy.contains tag = true) :
    tagFree d tag k = blockCur d (.stall (.tag tag)) := by
  rw [tagFree, if_pos (by rw [hbusy, Bool.and_true]; exact bne_iff_ne.mpr hne)]

/-- With a record of the floe unwritten the instruction waits (R26). -/
theorem cfgMay_of_recHeld {d : Data} (k : Data → Data) (h : recHeldFor d d.curF = true) :
    cfgMay d k = blockCur d (.stall .record) := if_pos h

/-- With every record of the floe written it goes on. -/
theorem cfgMay_of_recsWritten {d : Data} (k : Data → Data) (h : recHeldFor d d.curF = false) : cfgMay d k = k d :=
  if_neg (ne_true_of_eq_false h)

/-- The states in which the pending configuration is busy. -/
theorem cfgBusy_iff (c : CfgSt) : cfgBusy c = true ↔ c.state = .loading ∨ c.state = .draining := by simp [cfgBusy]

/-- The states in which it is not. -/
theorem not_cfgBusy {c : CfgSt} (h : c.state = .idle ∨ c.state = .ready ∨ c.state = .failed) : ¬ cfgBusy c = true := by
  rw [cfgBusy_iff]
  rcases h with h | h | h <;> simp [h]

/-- A CFGCHK that an instruction raises: its cause is noted, and the TP traps as the statements say. -/
theorem cfgTrap_eq_trapped (d : Data) (cause : Nat) : cfgTrap d cause = trapped (noteCause d 0x0A cause) 0x0A cause 0 := rfl

/-! ## CFGL (R132, R172, R340) -/

/-- The accesses of a TP that have not performed: its pending results but those of a division or a multiplication. -/
theorem pendAccesses_eq_filter (t : Tp) :
    pendAccesses t = (t.pends.filter (fun p => p.kind != .div && p.kind != .mul)).map (fun p => p.id) := by
  unfold pendAccesses
  congr 1
  refine List.filter_congr fun p _ => ?_
  cases p.kind <;> rfl

/-- CFGL that no FENCE or ATOM holds, its register and its tag free. -/
theorem exec_cfgl_ready {s : State} {g : Guard} {a : BitVec 5} {tag : BitVec 6} (hr : Ready s g [a])
    (htag : tag = 0 ∨ (curTp s.d).busy.contains tag = false)
    (hheld : heldBy (getFloe s.d s.d.curF) (curTp s.d) true false false = false) :
    exec (.cfgl g a tag) s = .next { s with d := cfgMay s.d (fun d => cfglIssue d (rs d a) tag) } := by
  show nextD s (fun d => _) = _
  rw [nextD_eq, issue_of_ready hr, tagFree_of_free _ htag, whenFree_of_not_held _ hheld]

/-- CFGL whose tag an incomplete command names waits. -/
theorem leavesData_cfgl_tagBusy {s : State} {g : Guard} {a : BitVec 5} {tag : BitVec 6} (hr : Ready s g [a]) (hne : tag ≠ 0)
    (hbusy : (curTp s.d).busy.contains tag = true) : LeavesData (.cfgl g a tag) s (blockCur s.d (.stall (.tag tag))) :=
  leavesData_of_eq ((issue_of_ready hr _).trans (tagFree_of_busy _ hne hbusy))

/-- The spaces of a delta that CFGL refuses. -/
theorem deltaSpaceBad_eq (sp : Nat) : (! (sp == 1 || sp == 3 || sp == 4 || sp == 5)) = decide (sp ∉ [1, 3, 4, 5]) := by
  simp [Bool.and_assoc, beq_eq_decide]

section
variable {d : Data} {v : Word} {tag : BitVec 6}

/-- CFGL of a delta in a space that it cannot read. -/
theorem cfglIssue_badSpace (hspace : wb v 52 4 ∉ [1, 3, 4, 5]) : cfglIssue d v tag = trapped d 3 1 0 := by
  rw [cfglIssue, deltaSpaceBad_eq, if_pos (decide_eq_true hspace), trap_eq_trapped]

/-- CFGL of a delta in L2 at an address not of R172's form. -/
theorem cfglIssue_badL2 (hspace : wb v 52 4 = 1) (hform : l2Ok d (v.toNat % 2 ^ 52) 64 = false) :
    cfglIssue d v tag = trapped d 3 2 0 := by
  rw [← wb_low] at hform
  rw [cfglIssue, if_neg (by simp [hspace]), if_pos ⟨hspace, hform⟩, trap_eq_trapped]

/-- CFGL of a delta in a space that it can read and, in L2, at an address of R172's form: the other checks of the address, and the
state of the pending configuration. -/
theorem cfglIssue_of_space (hspace : wb v 52 4 ∈ [1, 3, 4, 5]) (hform : wb v 52 4 = 1 → l2Ok d (v.toNat % 2 ^ 52) 64 = true) :
    cfglIssue d v tag =
      if v.toNat / 2 ^ 56 ≠ 0 ∨ v.toNat % 2 ^ 6 ≠ 0 then trapped (noteCause d 0x0A 3) 0x0A 3 0
      else if cfgBusy (getFloe d d.curF).cfg then trapped (noteCause d 0x0A 1) 0x0A 1 0
      else retire (modCur (modCfg d d.curF (fun c => { c with
          state := .loading, pend := [], pendId := 0, checked := false, owner := (curTp d).owner, tag := tag, delta := v, count := 0,
          next := 0, stopped := false, after := pendAccesses (curTp d) })) (fun t => beginCmd t tag false)) := by
  rw [← wb_low] at hform
  have hknown : ¬ decide (wb v 52 4 ∉ [1, 3, 4, 5]) = true := by rwa [decide_eq_true_eq, not_not]
  have hL2 : ¬ (wb v 52 4 = 1 ∧ l2Ok d (wb v 0 52) 64 = false) := not_and.mpr fun h => ne_false_of_eq_true (hform h)
  rw [cfglIssue, deltaSpaceBad_eq, if_neg hknown, if_neg hL2, wb_high v (lo := 56) (n := 8) rfl, wb_low v 6]
  rfl

end

/-- The data once a load has begun: what it makes of the floe and of the TP, for a tag other than 0. -/
theorem retire_cfgl (d : Data) (h : CfgSt → CfgSt) {tag : BitVec 6} (htag : tag ≠ 0) :
    retire (modCur (modCfg d d.curF h) (fun t => beginCmd t tag false)) =
      modCur (modFloe d d.curF (fun fl => { fl with cfg := h fl.cfg })) (fun t => pastWord { t with
        tags := t.tags &&& ~~~(BitVec.ofNat 64 (2 ^ tag.toNat)), busy := t.busy ++ [tag] }) := by
  simp only [retire_modCur_pastWord, beginCmd_eq, if_neg htag]
  rfl

/-! ## CFGW (R131, R132, R340) -/

/-- CFGW with its registers at hand. -/
theorem exec_cfgw_ready {s : State} {g : Guard} {fr a b : BitVec 5} (hr : Ready s g [fr, a, b]) :
    exec (.cfgw g fr a b) s = .next { s with d := cfgMay s.d (fun d => cfgwIssue d (rs d fr) (rs d a) (rs d b)) } := by
  show nextD s (fun d => _) = _
  rw [nextD_eq, issue_of_ready hr]

/-- The operands CFGW refuses: a bit of the name's [63:17] set, or a masked write that is malformed. -/
def cfgwBad (name mask : Word) : Bool :=
  decide (name.toNat / 2 ^ 17 ≠ 0) || fidWriteBad (name.toNat % 2 ^ 16) (name.toNat / 2 ^ 16 % 2) mask.toNat

/-- CFGW by the pending configuration's state and its operands. -/
theorem cfgwIssue_eq (d : Data) (name value mask : Word) : cfgwIssue d name value mask =
    if cfgBusy (getFloe d d.curF).cfg then cfgTrap d 1
    else if cfgwBad name mask then cfgTrap d 3
    else if (getFloe d d.curF).cfg.state = .failed then cfgTrap d 7
    else modCur
      (modFloe d d.curF (fun fl => { fl with cfg := { fl.cfg with
        state := .ready, checked := false, pendId := fl.cfg.curId + 1,
        pend := cfgPut (if fl.cfg.state = .ready then fl.cfg.pend else fl.cfg.cur) (name.toNat % 2 ^ 16)
          (name.toNat / 2 ^ 16 % 2) mask.toNat value.toNat } }))
      pastWord := by
  have hbad : (wb name 17 47 ≠ 0 ∨ fidWriteBad (wb name 0 16) (wb name 16 1) mask.toNat = true) = (cfgwBad name mask = true) := by
    rw [wb_high name (lo := 17) (n := 47) rfl, wb_low, cfgwBad, Bool.or_eq_true, decide_eq_true_eq]
    rfl
  simp only [cfgwIssue, hbad]
  rw [wb_low]
  rfl

/-! ## CFGG (R131-R133) -/

/-- CFGG with its tag free. -/
theorem exec_cfgg_ready {s : State} {g : Guard} {tag : BitVec 6} (hr : Ready s g [])
    (htag : tag = 0 ∨ (curTp s.d).busy.contains tag = false) :
    exec (.cfgg g tag) s = .next { s with d := cfgMay s.d (fun d => cfggIssue d (.cfgg g tag) tag) } := by
  show nextD s (fun d => _) = _
  rw [nextD_eq, issue_of_ready hr, tagFree_of_free _ htag]

/-- CFGG whose tag an incomplete command names waits. -/
theorem leavesData_cfgg_tagBusy {s : State} {g : Guard} {tag : BitVec 6} (hr : Ready s g []) (hne : tag ≠ 0)
    (hbusy : (curTp s.d).busy.contains tag = true) : LeavesData (.cfgg g tag) s (blockCur s.d (.stall (.tag tag))) :=
  leavesData_of_eq ((issue_of_ready hr _).trans (tagFree_of_busy _ hne hbusy))

/-- What the beginning of a commit makes of the floe and of the TP. -/
theorem cfggCommit_eq (d : Data) (tag : BitVec 6) : cfggCommit d tag =
    modCur (modFloe d d.curF (fun fl => { fl with cfg := { fl.cfg with
        state := .draining, checked := true, igen := ! fl.cfg.gen, owner := (curTp d).owner, tag := tag, mark := fl.issueNo } }))
      (fun t => { t with
        tags := if tag = 0 then t.tags else t.tags &&& ~~~(BitVec.ofNat 64 (2 ^ tag.toNat)), busy := t.busy ++ [tag] }) := by
  simp only [cfggCommit, beginCmd_eq]
  rfl

section
variable {d : Data} {i : Instr} {tag : BitVec 6}

/-- CFGG while the pending configuration is busy. -/
theorem cfggIssue_busy (h : (getFloe d d.curF).cfg.state = .loading ∨ (getFloe d d.curF).cfg.state = .draining) :
    cfggIssue d i tag = trapped (noteCause d 0x0A 1) 0x0A 1 0 := by
  rw [cfggIssue, if_pos ((cfgBusy_iff _).mpr h), cfgTrap_eq_trapped]

/-- CFGG without a pending configuration. -/
theorem cfggIssue_notReady (h : (getFloe d d.curF).cfg.state = .idle ∨ (getFloe d d.curF).cfg.state = .failed) :
    cfggIssue d i tag = trapped (noteCause d 0x0A 7) 0x0A 7 0 := by
  have hready : (getFloe d d.curF).cfg.state ≠ .ready := by rcases h with h | h <;> simp [h]
  rw [cfggIssue, if_neg (not_cfgBusy (h.imp_right .inr)), if_pos hready, cfgTrap_eq_trapped]

section
variable (hready : (getFloe d d.curF).cfg.state = .ready)
include hready

/-- CFGG of a checked configuration. -/
theorem cfggIssue_checked (hchecked : (getFloe d d.curF).cfg.checked = true) : cfggIssue d i tag = retire (cfggCommit d tag) := by
  simp [cfggIssue, cfgBusy, hready, hchecked]

/-- CFGG of an unchecked configuration that passes the check. -/
theorem cfggIssue_passes (hchecked : (getFloe d d.curF).cfg.checked = false)
    (hcheck : cfgCheck (getFloe d d.curF).cfg.pend d.curF = none) :
    cfggIssue d i tag = blockCur (cfggCommit d tag) (.issue i) := by
  simp [cfggIssue, cfgBusy, hready, hchecked, hcheck]

/-- CFGG of an unchecked configuration that fails the check. -/
theorem cfggIssue_fails {cause : Nat} (hchecked : (getFloe d d.curF).cfg.checked = false)
    (hcheck : cfgCheck (getFloe d d.curF).cfg.pend d.curF = some cause) :
    cfggIssue d i tag = trapped (noteCause (modFloe d d.curF (fun fl => { fl with cfg := { fl.cfg with
      state := .failed, pend := [], pendId := 0, failEntry := 0xFFFF } })) 0x0A cause) 0x0A cause 0 := by
  simp [cfggIssue, cfgBusy, hready, hchecked, hcheck, cfgTrap_eq_trapped, modCfg]

end
end

/-! ## CFGQ (R132) -/

/-- CFGQ writes the value of its selector. -/
theorem actsOnTp_cfgq {s : State} {g : Guard} {d : BitVec 5} (sel : BitVec 8) {v : Word} (hr : Ready s g [d])
    (hv : cfgqValue (getFloe s.d s.d.curF).cfg sel.toNat = v) : ActsOnTp (.cfgq g d sel) s (scalarThen d v) :=
  hv ▸ leavesData_of_eq ((issue_of_ready hr _).trans (retire_modCur_pastWord s.d _))

/-- Selector 0: the state, the generations, the last cause and the failing entry at their bits. -/
theorem cfgqValue_status (c : CfgSt) : cfgqValue c 0 = BitVec.ofNat 64
    (cfgStateCode c.state + (if c.gen then 2 ^ 3 else 0) + (if c.igen then 2 ^ 4 else 0) + c.lastCause.toNat * 2 ^ 8
      + c.failEntry.toNat * 2 ^ 16) := by
  have hcause : atBit c.lastCause.toNat 8 8 = c.lastCause.toNat * 2 ^ 8 := by rw [atBit, Nat.mod_eq_of_lt c.lastCause.isLt]
  have hentry : atBit c.failEntry.toNat 16 16 = c.failEntry.toNat * 2 ^ 16 := by rw [atBit, Nat.mod_eq_of_lt c.failEntry.isLt]
  have hgen : ∀ (b : Bool) (n : Nat), atBit (bnat b) n 1 = if b then 2 ^ n else 0 := by
    intro b n
    cases b <;> simp [atBit, bnat]
  rw [cfgqValue, if_pos rfl, hcause, hentry, hgen, hgen, w64]

/-- L and II of a block at their bits. -/
theorem blockFigures_eq (t : Table) (k : Nat) :
    blockFigures t k = (planOf t k).latency % 2 ^ 16 + (planOf t k).interval t % 2 ^ 16 * 2 ^ 16 := by
  rw [blockFigures, atBit, atBit, Nat.pow_zero, Nat.mul_one]

/-- Selectors 8 to 15: the figures of a block of the current configuration. -/
theorem cfgqValue_current (c : CfgSt) {k : Nat} (hk : k < 8) :
    cfgqValue c (8 + k) = BitVec.ofNat 64 (blockFigures c.cur k) := by
  rw [cfgqValue, if_neg (by omega), if_neg (by omega), if_neg (by omega), if_neg (by omega), if_pos (by omega),
    Nat.add_sub_cancel_left, w64]

/-- Selectors 16 to 23: the figures of a block of the checked pending configuration. -/
theorem cfgqValue_pending (c : CfgSt) (k : Nat) : cfgqValue c (16 + k) =
    BitVec.ofNat 64 (if c.checked = true ∧ (c.state = .ready ∨ c.state = .draining) then blockFigures c.pend k else 0) := by
  rw [cfgqValue, if_neg (by omega), if_neg (by omega), if_neg (by omega), if_neg (by omega), if_neg (by omega),
    Nat.add_sub_cancel_left]
  simp only [Bool.and_eq_true, Bool.or_eq_true, beq_iff_eq, w64]
  split <;> rfl

end Sys2Proof.Machine
end

section
/-!
PROOF. The instructions that load, write, commit and query a configuration: CFGL, CFGW, CFGG and CFGQ.
-/

namespace Sys2Proof.Machine

open Sys2Proof.Safety

/-- Settles O22, by the stalls of each instruction, then the state of the pending configuration and the checks of its operands in
R340's order; CFGQ by its selector. -/
theorem configurationInstructionResults : Obligations.ConfigurationInstructionResults := by
  unfold Obligations.ConfigurationInstructionResults
  refine ⟨⟨fun s g a tag hr hne hbusy => leavesData_cfgl_tagBusy hr hne hbusy, fun s g a tag hr hne hfree hheld => ?cfgl⟩, ?cfgw,
    ⟨?cfgg, fun s f k g tag hb hst hearlier hh => exec_issueCompletion_ready hb hst hearlier hh⟩, ?cfgq⟩
  case cfgl =>
    have hexec := exec_cfgl_ready hr (.inr hfree) hheld
    refine ⟨fun hrec => leavesData_of_eq (cfgMay_of_recHeld _ hrec) hexec, fun hrec => ?_, fun cause => rfl⟩
    rw [cfgMay_of_recsWritten _ hrec] at hexec
    refine ⟨fun hspace => leavesData_of_eq (cfglIssue_badSpace hspace) hexec,
      fun hspace hbad => leavesData_of_eq (cfglIssue_badL2 hspace hbad) hexec,
      fun hspace hform hbad => leavesData_of_eq ((cfglIssue_of_space hspace hform).trans (if_pos hbad)) hexec,
      fun hspace hform hhigh halign => ?_⟩
    have hchecked := (cfglIssue_of_space (tag := tag) hspace hform).trans (if_neg (not_or.mpr ⟨not_not.mpr hhigh, not_not.mpr halign⟩))
    refine ⟨fun hl hd => leavesData_of_eq (hchecked.trans ?_) hexec,
      fun hbusy => leavesData_of_eq (hchecked.trans (if_pos ((cfgBusy_iff _).mpr hbusy))) hexec⟩
    rw [if_neg fun h => ((cfgBusy_iff _).mp h).elim hl hd, retire_cfgl _ _ hne, pendAccesses_eq_filter]
  case cfgw =>
    rintro s g fr a b c bad hr rfl hbad
    have hexec := exec_cfgw_ready hr
    refine ⟨fun hrec => leavesData_of_eq (cfgMay_of_recHeld _ hrec) hexec, fun hrec => ?_⟩
    rw [cfgMay_of_recsWritten _ hrec, cfgwIssue_eq, show cfgwBad (rs s.d fr) (rs s.d b) = bad from hbad.symm] at hexec
    refine ⟨fun hst hgood => ?written, fun hbusy => leavesData_of_eq (if_pos ((cfgBusy_iff _).mpr hbusy)) hexec,
      fun hst hmalformed => leavesData_of_eq ((if_neg (not_cfgBusy hst)).trans (if_pos hmalformed)) hexec, fun hst hgood => ?failed⟩
    case written =>
      have hnotFailed : (getFloe s.d s.d.curF).cfg.state ≠ .failed := by rcases hst with h | h <;> simp [h]
      exact leavesData_of_eq ((if_neg (not_cfgBusy (hst.imp_right .inl))).trans
        ((if_neg (ne_true_of_eq_false hgood)).trans (if_neg hnotFailed))) hexec
    case failed =>
      exact leavesData_of_eq ((if_neg (not_cfgBusy (.inr (.inr hst)))).trans
        ((if_neg (ne_true_of_eq_false hgood)).trans (if_pos hst))) hexec
  case cfgg =>
    rintro s g tag c committed hr htag rfl rfl
    have hexec := exec_cfgg_ready hr htag
    rw [← cfggCommit_eq]
    refine ⟨fun hrec => leavesData_of_eq (cfgMay_of_recHeld _ hrec) hexec, fun g' tag' hr' => leavesData_cfgg_tagBusy hr', fun hrec => ?_⟩
    rw [cfgMay_of_recsWritten _ hrec] at hexec
    exact ⟨fun hready hchecked => leavesData_of_eq (cfggIssue_checked hready hchecked) hexec,
      fun hready hchecked hcheck => leavesData_of_eq (cfggIssue_passes hready hchecked hcheck) hexec,
      fun cause hready hchecked hcheck => leavesData_of_eq (cfggIssue_fails hready hchecked hcheck) hexec,
      fun hbusy => leavesData_of_eq (cfggIssue_busy hbusy) hexec, fun hst => leavesData_of_eq (cfggIssue_notReady hst) hexec⟩
  case cfgq =>
    rintro s g d c hr rfl
    refine ⟨actsOnTp_cfgq 0 hr ?status, actsOnTp_cfgq 1 hr rfl, actsOnTp_cfgq 2 hr rfl, actsOnTp_cfgq 3 hr rfl,
      fun k hk => ⟨actsOnTp_cfgq _ hr ?current, actsOnTp_cfgq _ hr ?pending⟩⟩
    case status => exact cfgqValue_status _
    case current =>
      rw [BitVec.toNat_ofNat, Nat.mod_eq_of_lt (by omega), cfgqValue_current _ hk, blockFigures_eq]
    case pending =>
      rw [BitVec.toNat_ofNat, Nat.mod_eq_of_lt (by omega), cfgqValue_pending, blockFigures_eq]

end Sys2Proof.Machine
end

section
/-!
PROOF SUPPORT. What the end of a configuration load makes of the data, by its delta and the check of what it gives (R129, R132), and the
conditions of the switch (R133).
-/

namespace Sys2Proof.Machine

open Sys2Proof.Safety

/-! ## The end of a load (R26, R132, R179) -/

/-- CFGL_LOAD_END of a load that may go on. -/
theorem exec_cfglLoadEnd_runs {s : State} {f : Nat} {c : CfgSt} (hc : c = (getFloe s.d f).cfg) (hloading : c.state = .loading)
    (hstopped : c.stopped = false) (hrec : recHeldFor s.d f = false) (hhalt : (getFloe s.d f).halted = false)
    (hafter : ∀ p ∈ (getTp s.d f (slotOfOwner s.d f c.owner)).pends, p.id ∉ c.after) :
    exec (.cfglLoadEnd f) s = .next { s with d := cfglRun s.d f } := by
  subst hc
  have hdone : (getTp s.d f (slotOfOwner s.d f (getFloe s.d f).cfg.owner)).pends.any
      (fun p => (getFloe s.d f).cfg.after.contains p.id) = false := by simpa using hafter
  show execCfglLoadEnd f s = _
  rw [execCfglLoadEnd, nextD_eq, cfglLoadEnd, if_pos ⟨hloading, hstopped, hhalt, hrec, hdone⟩]

/-- The data once the load of TP o under a tag has failed, what it read having left d: FAILED with the cause and the failing entry, one
REPORT record, and the tag set (R132). -/
theorem tagDone_cfglFail (d : Data) (f k cause e : Nat) (o : Owner) (tag : BitVec 6) : tagDone (cfglFail d f k cause e) f o tag =
    tagDone (recordedTp (modFloe d f (fun fl => { fl with cfg := { fl.cfg with
        state := .failed, pend := [], pendId := 0, checked := false, lastCause := BitVec.ofNat 8 cause,
        failEntry := BitVec.ofNat 16 e } })) f k
      { recZero with cls := 0x0A, cause := cause, kind := 6, tag := (getFloe d f).cfg.tag.toNat }) f o tag := rfl

section
variable {d d1 d2 : Data} {f n e cause : Nat} {w : List Word} {base id : Word} {t : Table} {c : CfgSt} (hc : c = (getFloe d f).cfg)
  (hcount : c.count = 0) (hnext : c.next = 0)
  (hread : readWordsAt d (reqFloe f) (placeOf c.delta).1 (placeOf c.delta).2 8 = (d1, .ok w))
include hc hcount hread

/-- A load whose delta has a malformed header. -/
theorem cfglRun_badHead (hhead : deltaHead w = none) :
    cfglRun d f = tagDone (cfglFail d1 f (slotOfOwner d f c.owner) 3 0xFFFF) f c.owner c.tag := by
  subst hc
  simp only [cfglRun, hcount, if_true, hread, hhead]

/-- A load whose delta names another image than the current one. -/
theorem cfglRun_otherBase (hhead : deltaHead w = some (n, base, id)) (hbase : base ≠ c.curId) :
    cfglRun d f = tagDone (cfglFail d1 f (slotOfOwner d f c.owner) 2 0xFFFF) f c.owner c.tag := by
  subst hc
  simp only [cfglRun, hcount, if_true, hread, hhead, if_neg hbase]

variable (hhead : deltaHead w = some (n, c.curId, id))
include hnext hhead

/-- A load with a malformed entry. -/
theorem cfglRun_badEntry
    (hentries : deltaEntries d1 (reqFloe f) (placeOf c.delta).1 (placeOf c.delta).2 c.cur 0 n = (d2, t, .fail cause e)) :
    cfglRun d f = tagDone (cfglFail d2 f (slotOfOwner d f c.owner) cause e) f c.owner c.tag := by
  subst hc
  simp only [cfglRun, hcount, hnext, if_true, hread, hhead, Nat.sub_zero, hentries]

variable (hentries : deltaEntries d1 (reqFloe f) (placeOf c.delta).1 (placeOf c.delta).2 c.cur 0 n = (d2, t, .done))
include hentries

/-- A load whose configuration fails the check. -/
theorem cfglRun_badCheck (hcheck : cfgCheck t f = some cause) :
    cfglRun d f = tagDone (cfglFail d2 f (slotOfOwner d f c.owner) cause 0xFFFF) f c.owner c.tag := by
  subst hc
  simp only [cfglRun, hcount, hnext, if_true, hread, hhead, Nat.sub_zero, hentries, hcheck]

/-- A load whose configuration passes the check. -/
theorem cfglRun_ready (hcheck : cfgCheck t f = none) : cfglRun d f = tagDone (modFloe d2 f (fun fl => { fl with cfg := { fl.cfg with
    state := .ready, pend := t, pendId := id, checked := true } })) f c.owner c.tag := by
  subst hc
  simp only [cfglRun, hcount, hnext, if_true, hread, hhead, Nat.sub_zero, hentries, hcheck]
  rfl

end

/-! ## The switch (R26, R133) -/

/-- No entry of the queues has the generation g. -/
theorem holdsGen_eq_false {g : Bool} {qs : List (List QEnt)} (h : ∀ q ∈ qs, ∀ e ∈ q, e.word.gen ≠ g) : holdsGen g qs = false := by
  simpa [holdsGen] using h

/-- The drain of a field is over where no queue or channel has a word of the active generation, and no firing or generator has one to
go. -/
theorem fieldDrained_of_noWords {fl : Floe}
    (hqueues : ∀ qs ∈ [fl.field.ipq, fl.field.opq, fl.field.rq, fl.field.wq, fl.field.links, fl.field.agIn, fl.field.agOut],
      ∀ q ∈ qs, ∀ e ∈ q, e.word.gen ≠ fl.cfg.gen)
    (hcommits : ∀ y ∈ fl.field.groups, ∀ x ∈ y.commits, x.outs = [])
    (hgens : ∀ y ∈ fl.field.gens, y.reads = [] ∧ y.writes = []) : fieldDrained fl = true := by
  simp only [List.forall_mem_cons] at hqueues
  obtain ⟨hip, hop, hr, hw, hlinks, hin, hout, -⟩ := hqueues
  simp only [fieldDrained, holdsGen_eq_false hip, holdsGen_eq_false hop, holdsGen_eq_false hr, holdsGen_eq_false hw,
    holdsGen_eq_false hlinks, holdsGen_eq_false hin, holdsGen_eq_false hout]
  simpa using ⟨hcommits, hgens⟩

/-- The commands and holds issued before the commit that name a port are gone, and every accepted MMOV. -/
theorem portsDone_of_gone {d : Data} {f : Nat} {fl : Floe} (hfl : fl = getFloe d f)
    (hcmds : ∀ c ∈ fl.streams.filterMap id, c.no < fl.cfg.mark → c.ip = none ∧ c.op = none)
    (hfeed : fl.feed = none ∨ fl.cfg.mark ≤ fl.feedNo) (hsolvers : ∀ p < 32, solverHolds d f p = false)
    (hmoves : ∀ n ∈ fl.nodes, ∀ m ∈ n.moves, m.holdsPort = false) : portsDone d f = true := by
  subst hfl
  have hm : (getFloe d f).nodes.any (fun n => n.moves.any (fun m => m.holdsPort)) = false := by simpa using hmoves
  have hs : (List.range 32).any (fun p => solverHolds d f p) = false := by simpa using hsolvers
  have hc : (liveCmds (getFloe d f)).any (fun c => decide (c.no < (getFloe d f).cfg.mark) && (c.ip.isSome || c.op.isSome)) = false := by
    rw [List.any_eq_false]
    intro c hmem hc
    simp only [Bool.and_eq_true, decide_eq_true_eq, Bool.or_eq_true] at hc
    obtain ⟨hip, hop⟩ := hcmds c hmem hc.1
    simp [hip, hop] at hc
  have hf : ((getFloe d f).feed.isSome && decide ((getFloe d f).feedNo < (getFloe d f).cfg.mark)) = false := by
    rcases hfeed with h | h <;> simp [h]
  simp only [portsDone, hm, hc, hf, hs]
  rfl

/-- CONFIG_SWITCH at the end of a drain. -/
theorem exec_configSwitch_drained {s : State} {f : Nat} {fl : Floe} (hfl : fl = getFloe s.d f) (hst : fl.cfg.state = .draining)
    (hhalt : fl.halted = false) (hfrozen : fl.frozen = false) (hrec : recHeldFor s.d f = false) (hports : portsDone s.d f = true)
    (hdrained : fieldDrained fl = true) :
    exec (.configSwitch f) s = .next { s with d := tagDone (modFloe s.d f switchCfg) f fl.cfg.owner fl.cfg.tag } := by
  subst hfl
  show execConfigSwitch f s = _
  rw [execConfigSwitch, nextD_eq, configSwitch, if_pos ⟨hst, hhalt, hfrozen, hrec, hports, hdrained⟩]

end Sys2Proof.Machine
end

section
/-!
PROOF. The end of a configuration load, and the switch of configurations.
-/

namespace Sys2Proof.Machine

open Sys2Proof.Safety

/-- Settles O23: a load by the first fault of its delta, or none; the switch by its conditions. -/
theorem configurationLoadsAndSwitches : Obligations.ConfigurationLoadsAndSwitches := by
  unfold Obligations.ConfigurationLoadsAndSwitches
  refine ⟨fun s f d1 w c hc hloading hstopped hcount hnext hrec hhalt hafter hread => ?load,
    fun s f fl hfl hst hhalt hfrozen hrec hcmds hfeed hsolvers hmoves hqueues hcommits hgens => ?switch⟩
  case load =>
    have hexec := exec_cfglLoadEnd_runs hc hloading hstopped hrec hhalt hafter
    refine ⟨fun n id d2 t hhead hentries hcheck =>
      leavesData_of_eq (cfglRun_ready hc hcount hnext hread hhead hentries hcheck) hexec, fun n base id d2 t cause e hfail => ?_⟩
    refine leavesData_of_eq (Eq.trans ?_ (tagDone_cfglFail d2 f (slotOfOwner s.d f c.owner) cause e c.owner c.tag)) hexec
    rcases hfail with ⟨hhead, rfl, rfl, rfl⟩ | ⟨hhead, hbase, rfl, rfl, rfl⟩ | ⟨hhead, hentries⟩ |
      ⟨hhead, hcheck, rfl, hentries⟩
    · exact cfglRun_badHead hc hcount hread hhead
    · exact cfglRun_otherBase hc hcount hread hhead hbase
    · exact cfglRun_badEntry hc hcount hnext hread hhead hentries
    · exact cfglRun_badCheck hc hcount hnext hread hhead hentries hcheck
  case switch =>
    subst hfl
    exact exec_configSwitch_drained rfl hst hhalt hfrozen hrec (portsDone_of_gone rfl hcmds hfeed hsolvers hmoves)
      (fieldDrained_of_noWords hqueues hcommits hgens)

end Sys2Proof.Machine
end

section
/-!
PROOF SUPPORT. Matrix nodes and accumulator nodes under changes of their floe; MXT and the token feed (R142, R143, R403); the acceptance
of each kind of token (R144-R147); the end of an MTAB and a contribution (R147, R149).
-/

namespace Sys2Proof.Machine

open Sys2Proof.Safety

/-! ## Nodes and their owners under changes of the floe -/

/-- Two changes of one matrix node are one. -/
theorem modNode_modNode (d : Data) (f q : Nat) (h h' : MNode → MNode) :
    modNode (modNode d f q h) f q h' = modNode d f q (fun n => h' (h n)) := by
  simp only [modNode, modFloe_modFloe]
  congr 1
  funext fl
  by_cases hq : q < fl.nodes.length
  · simp [nodeAt, List.getD_eq_getElem?_getD, hq]
  · simp [List.set_eq_of_length_le (Nat.le_of_not_lt hq)]

/-- A change of a matrix node depends on what it makes of that node. -/
theorem modNode_congr {d : Data} {f q : Nat} {h h' : MNode → MNode} (hk : h (nodeAt (getFloe d f) q) = h' (nodeAt (getFloe d f) q)) :
    modNode d f q h = modNode d f q h' := modFloe_congr (by simp only [hk])

/-- Changes of a matrix node and of an accumulator node commute. -/
theorem modNode_modAcc (d : Data) (f q n : Nat) (h : MNode → MNode) (h' : Accum → Accum) :
    modNode (modAcc d f n h') f q h = modAcc (modNode d f q h) f n h' := by
  simp only [modNode, modAcc, modFloe_modFloe]
  rfl

/-- A change of a matrix node moves no TP. -/
theorem slotOfOwner_modNode (d : Data) (f q : Nat) (h : MNode → MNode) (o : Owner) :
    slotOfOwner (modNode d f q h) f o = slotOfOwner d f o := by
  have hslot (k : Nat) : getSlot (modNode d f q h) f k = getSlot d f k :=
    getFloe_modFloe_keeps (p := fun fl => slotOf fl k) d f f fun _ => rfl
  simp only [slotOfOwner, hslot]

/-- The count of a TP's tokens and a matrix node are apart. -/
theorem modNode_tokenDone (d : Data) (f q : Nat) (h : MNode → MNode) (o : Option Owner) :
    modNode (tokenDone d f o) f q h = tokenDone (modNode d f q h) f o := by
  cases o with
  | none => rfl
  | some o =>
    simp only [tokenDone, slotOfOwner_modNode]
    simp only [modNode, modTp, modSlot, modFloe_modFloe]
    rfl

@[simp] theorem cfg_modNode (d : Data) (f q : Nat) (h : MNode → MNode) : (getFloe (modNode d f q h) f).cfg = (getFloe d f).cfg :=
  getFloe_modFloe_keeps (p := Floe.cfg) d f f fun _ => rfl

@[simp] theorem cfg_modAcc (d : Data) (f n : Nat) (h : Accum → Accum) : (getFloe (modAcc d f n h) f).cfg = (getFloe d f).cfg :=
  getFloe_modFloe_keeps (p := Floe.cfg) d f f fun _ => rfl

/-- The count of a TP's tokens leaves the configuration. -/
@[simp] theorem cfg_tokenDone (d : Data) (f : Nat) (o : Option Owner) : (getFloe (tokenDone d f o) f).cfg = (getFloe d f).cfg := by
  cases o with
  | none => rfl
  | some o => exact getFloe_modFloe_keeps (p := Floe.cfg) d f f fun _ => rfl

/-- Where a floe is neither frozen nor halted its matrix units move. -/
theorem matrixOn_of_running {fl : Floe} (hfrozen : fl.frozen = false) (hhalted : fl.halted = false) : matrixOn fl = true := by
  simp [matrixOn, hfrozen, hhalted]

/-! ## MXT (R142, R143, R403) -/

/-- A token of a TP that joins its queue goes behind what was there before the feed's tokens of the cycle, which are late. -/
theorem mxAppend_ofTp {d : Data} {f : Nat} {t w : Word} {o : Owner} {before late : List MTok}
    (hq : (nodeAt (getFloe d f) (tokNode t)).queue = before ++ late)
    (hlate : ∀ x ∈ late, x.owner = none ∧ x.arrived = (getFloe d f).cyc)
    (hbefore : ∀ x ∈ before.getLast?, x.owner ≠ none ∨ x.arrived ≠ (getFloe d f).cyc) :
    mxAppend d f t w (some o) = modFloe d f (fun fl => { fl with
      active := true,
      nodes := fl.nodes.set (tokNode t) { nodeAt fl (tokNode t) with
        queue := before ++ [{ tok := t, mow := w, owner := some o, arrived := (getFloe d f).cyc }] ++ late } }) := by
  have htake : (before ++ late).reverse.takeWhile (fun x => x.owner.isNone && x.arrived == (getFloe d f).cyc) = late.reverse := by
    rw [List.reverse_append, List.takeWhile_append_of_pos (by simpa using hlate)]
    cases hlast : before.reverse with
    | nil => simp
    | cons y ys =>
      have hy := hbefore y (by simp [← List.head?_reverse, hlast])
      rw [List.takeWhile_cons_of_neg (by simpa [imp_iff_not_or] using hy), List.append_nil]
  simp only [mxAppend, modNode, markActive, modFloe_modFloe]
  refine modFloe_congr ?_
  have hq' : (nodeAt { getFloe d f with active := true } (tokNode t)).queue = before ++ late := hq
  simp only [hq', Option.isSome_some, if_true, htake, List.length_reverse, List.reverse_reverse, List.length_append, Nat.add_sub_cancel,
    List.take_left']
  rfl

/-- The token's place in the queue and its TP's count are apart. -/
theorem mxAppend_modCur (d : Data) (h : Tp → Tp) (t w : Word) (o : Option Owner) :
    mxAppend (modCur d h) d.curF t w o = modCur (mxAppend d d.curF t w o) h := by
  have hcyc : (getFloe (modCur d h) d.curF).cyc = (getFloe d d.curF).cyc :=
    getFloe_modFloe_keeps (p := Floe.cyc) d d.curF d.curF fun _ => rfl
  simp only [mxAppend, hcyc]
  simp only [modCur, modTp, modSlot, modNode, markActive, modFloe_curF, modFloe_curK, modFloe_modFloe]
  rfl

section
variable {d : Data} {t w : Word}

/-- MXT of a token that fails a check. -/
theorem mxtIssue_refused {cls cause : Nat} (hcheck : mxCheck (issueCfg (getFloe d d.curF).cfg) t w = some (cls, cause)) :
    mxtIssue d t w = trapped d cls cause 0 := by
  simp only [mxtIssue, hcheck, trap_eq_trapped]

variable (hcheck : mxCheck (issueCfg (getFloe d d.curF).cfg) t w = none)
include hcheck

/-- MXT of a token whose node's queue is full. -/
theorem mxtIssue_full (hfull : 8 ≤ (nodeAt (getFloe d d.curF) (tokNode t)).queue.length) :
    mxtIssue d t w = blockCur d (.stall (.tokenQueue (tokNode t))) := by
  simp only [mxtIssue, hcheck, if_neg (show ¬ _ < tokenQueueSize from Nat.not_lt.mpr hfull)]

/-- MXT of a token whose node's queue has room. -/
theorem mxtIssue_room (hroom : (nodeAt (getFloe d d.curF) (tokNode t)).queue.length < 8) :
    mxtIssue d t w =
      modCur (mxAppend d d.curF t w (some (curTp d).owner)) (fun tp => pastWord { tp with tokens := tp.tokens + 1 }) := by
  simp only [mxtIssue, hcheck, if_pos (show _ < tokenQueueSize from hroom), mxAppend_modCur, retire_modCur_pastWord]

end

/-- What MXT makes of the data. -/
theorem exec_mxt_ready {s : State} {g : Guard} {a b : BitVec 5} (hr : Ready s g [a, b]) :
    exec (.mxt g a b) s = .next { s with d := mxtIssue s.d (rs s.d a) (rs s.d b) } := by
  show nextD s (fun d => _) = _
  rw [nextD_eq, issue_of_ready hr]

/-- What MXT.p makes of the data. -/
theorem exec_mxtP_ready {s : State} {g : Guard} {port : BitVec 4} (hr : Ready s g []) :
    exec (.mxtP g port) s = .next { s with d := feedBind s.d port } := by
  show nextD s (fun d => _) = _
  rw [nextD_eq, issue_of_ready hr]

section
variable {d : Data} {port : BitVec 4}

/-- MXT.p where a port is bound. -/
theorem feedBind_bound (hfeed : (getFloe d d.curF).feed ≠ none) : feedBind d port = trapped d 1 5 0 := by
  rw [feedBind, if_pos (Option.isSome_iff_ne_none.mpr hfeed), trapIllegal, trap_eq_trapped]

variable (hfeed : (getFloe d d.curF).feed = none)
include hfeed

/-- MXT.p of an exposed port where none is bound. -/
theorem feedBind_exposed (hport : exposed (issueCfg (getFloe d d.curF).cfg) (16 + port.toNat) = true) :
    feedBind d port = modCur (modFloe d d.curF (fun fl => { fl with feed := some port, feedNo := fl.issueNo })) pastWord := by
  simp only [feedBind, hfeed, hport]
  rfl

/-- MXT.p of an unexposed port where none is bound. -/
theorem feedBind_unexposed (hport : exposed (issueCfg (getFloe d d.curF).cfg) (16 + port.toNat) = false) :
    feedBind d port =
      trapped (modFloe d d.curF (fun fl => { fl with cfg := { fl.cfg with lastCause := 8 } })) 0x0A 8 0 := by
  simp only [feedBind, hfeed, hport]
  rfl

end

/-! ## The token feed (R23, R143) -/

/-- The feed moves the good token at the head of its port, with its operand word, where its node's queue has room. -/
theorem feedStep_good {d : Data} {f : Nat} {p : BitVec 4} {w : FWord} {t o : Word} (ht : t = BitVec.ofNat 64 (w.data.toNat % 2 ^ 64))
    (ho : o = BitVec.ofNat 64 (w.data.toNat / 2 ^ 64 % 2 ^ 64)) (hfeed : (getFloe d f).feed = some p)
    (hbehind : feedBehind d f p = false) (hheld : feedHeld d f = false) (hfrozen : (getFloe d f).frozen = false)
    (hhalted : (getFloe d f).halted = false) (hhead : (qHead d f (.op p.toNat)).map (opWord (getFloe d f).cfg.cur p.toNat) = some w)
    (hbare : isBare w = false) (herr : isErr w = false) (hpsn : w.psn = false) (hmask : w.mask = 0)
    (hcheck : mxCheck (getFloe d f).cfg.cur t o = none) (hroom : (nodeAt (getFloe d f) (tokNode t)).queue.length < 8) :
    feedStep d f = mxAppend (qPop d f (.op p.toNat)) f t o none := by
  have htok : w64 (fld w.data.toNat 0 64) = t := by rw [ht, w64, fld, Nat.pow_zero, Nat.div_one]
  have hmow : w64 (fld w.data.toNat 64 64) = o := by rw [ho, w64, fld]
  have hword : feedWord d f (.op p.toNat) w = mxAppend (qPop d f (.op p.toNat)) f t o none := by
    simp only [feedWord, htok, hmow, hbare, herr, hpsn, hmask, bne_self_eq_false, Bool.or_false, Bool.false_eq_true, if_false, hcheck,
      if_pos (show _ < tokenQueueSize from hroom)]
  obtain ⟨v, hv, rfl⟩ := Option.map_eq_some_iff.mp hhead
  simp only [feedStep, hfeed, hbehind, hfrozen, hhalted, hheld, Bool.or_false, Bool.false_eq_true, if_false, hv, hword]

/-! ## Acceptance (R144-R147, R398, R400, R401, R396) -/

/-- A token whose head of the queue is accepted, and a further change of its node: one change of the floe. -/
theorem modNode_dropHead {d : Data} {f q : Nat} {t : MTok} {rest : List MTok} (hq : (nodeAt (getFloe d f) q).queue = t :: rest)
    (h : MNode → MNode) :
    modNode (dropHead d f q) f q h = modFloe d f (fun fl => { fl with
      active := true,
      nodes := fl.nodes.set q (h { nodeAt fl q with queue := rest, freeAt := (getFloe d f).cyc + 1 }) }) := by
  rw [dropHead, modNode_modNode, markActive, modNode, modFloe_modFloe]
  refine modFloe_congr ?_
  have hq' : (nodeAt { getFloe d f with active := true } q).queue = t :: rest := hq
  simp only [hq', List.drop_one, List.tail_cons]
  rfl

section
variable {d : Data} {f q : Nat} {t : MTok} {rest : List MTok}

/-- The head of a queue whose time has come, at a node that is free and holds no record. -/
theorem headReady_of_due (hq : (nodeAt (getFloe d f) q).queue = t :: rest) (harrived : t.arrived < (getFloe d f).cyc)
    (hfree : (nodeAt (getFloe d f) q).freeAt ≤ (getFloe d f).cyc) (hheld : nodeHeld d f q = false) : headReady d f q = some t := by
  simp only [headReady, hq, if_pos (And.intro harrived (And.intro hfree hheld))]

variable (hready : headReady d f q = some t) (hon : matrixOn (getFloe d f) = true)
  (hq : (nodeAt (getFloe d f) q).queue = t :: rest)
include hready hon hq

/-- A product takes its node for its steps, and its EXP count is entered. -/
theorem mulAccept_taken (hmul : q ∈ mulAccepted d f) (hexp : expBad (getFloe d f) t = false) :
    mulAccept d f q (mtMop t.tok) = modFloe d f (fun fl => { fl with
      active := true,
      accums := fl.accums.set (mtAn t.tok) (accAccept (mtExp t.tok) (accAt fl (mtAn t.tok))),
      nodes := fl.nodes.set q { nodeAt fl q with
        queue := rest, freeAt := (getFloe d f).cyc + mtSteps t.tok,
        flight := (nodeAt fl q).flight ++ [{ t := t, accepted := (getFloe d f).cyc, slabs := [], scales := [], psn := false,
                                             ta := (nodeAt fl q).ta, tb := (nodeAt fl q).tb }] } }) := by
  simp only [mulAccept, hready, hon, hexp, List.contains_iff_mem.mpr hmul, BEq.rfl, Bool.and_true, if_true, Bool.false_eq_true, if_false,
    modNode_modAcc, modNode_dropHead hq]
  rw [modAcc, modFloe_modFloe]
  rfl

/-- A product whose EXP is refused is discarded with a record; its node is held a cycle. -/
theorem mulAccept_expRefused (hmul : q ∈ mulAccepted d f) (hexp : expBad (getFloe d f) t = true) :
    mulAccept d f q (mtMop t.tok) = tokenDone (mxReject (modFloe d f (fun fl => { fl with
        active := true,
        nodes := fl.nodes.set q { nodeAt fl q with queue := rest, freeAt := (getFloe d f).cyc + 1 } }))
      f t.owner (9, 4) t.tok t.mow) f t.owner := by
  have hdrop : dropHead d f q = _ := (modNode_modNode _ f q _ id).symm.trans (modNode_dropHead hq id)
  simp only [mulAccept, hready, hon, hexp, List.contains_iff_mem.mpr hmul, BEq.rfl, Bool.and_true, if_true, hdrop, id]

/-- MMOV takes its node for a cycle and has the rows of C to deliver; with ACC the accumulator is cleared. -/
theorem movAccept_taken (hmop : mtMop t.tok = 2) (hquiet : accQuiet (nodeAt (getFloe d f) q) (mtAn t.tok) = true)
    (hmoves : (nodeAt (getFloe d f) q).moves = []) (hport : ipFree d f (mtPort t.tok) = true) :
    movAccept d f q = modFloe d f (fun fl => { fl with
      active := true,
      accums := if mtAcc t.tok then fl.accums.set (mtAn t.tok) Accum.reset else fl.accums,
      nodes := fl.nodes.set q { nodeAt fl q with
        queue := rest, freeAt := (getFloe d f).cyc + 1,
        moves := [{ owner := t.owner, start := (getFloe d f).cyc, port := BitVec.ofNat 4 (mtPort t.tok),
                    words := moveWords (accAt (getFloe d f) (mtAn t.tok)) (mtM t.tok) (mtN t.tok) (getFloe d f).cfg.gen,
                    next := 0, holdsPort := true }] } }) := by
  simp only [movAccept, hready, hon, hmop, hquiet, hmoves, hport, List.isEmpty_nil, BEq.rfl, Bool.and_true, if_true, modNode_dropHead hq]
  cases mtAcc t.tok with
  | false =>
    rw [if_neg Bool.false_ne_true]
    refine modFloe_congr ?_
    simp only [hmoves]
    rfl
  | true =>
    rw [if_pos rfl, modAcc, modFloe_modFloe]
    refine modFloe_congr ?_
    simp only [hmoves]
    rfl

/-- MCLR clears the counts at once, and has C to clear one cycle later. -/
theorem clrAccept_taken (hmop : mtMop t.tok = 3) (hquiet : accQuiet (nodeAt (getFloe d f) q) (mtAn t.tok) = true) :
    clrAccept d f q = modFloe d f (fun fl => { fl with
      active := true,
      accums := fl.accums.set (mtAn t.tok) { accAt fl (mtAn t.tok) with ptgt := 0, acnt := 0 },
      nodes := fl.nodes.set q { nodeAt fl q with
        queue := rest, freeAt := (getFloe d f).cyc + 1,
        clears := (nodeAt fl q).clears ++ [((getFloe d f).cyc + 1, mtAn t.tok, t.owner)] } }) := by
  simp only [clrAccept, hready, hon, hmop, hquiet, BEq.rfl, Bool.and_true, if_true, modNode_modAcc, modNode_dropHead hq]
  rw [modAcc, modFloe_modFloe]
  rfl

/-- MTAB takes its node for eight cycles, with the tables it has read. -/
theorem tabAccept_taken (hmop : mtMop t.tok = 4) :
    tabAccept d f q = modFloe d f (fun fl => { fl with
      active := true,
      nodes := fl.nodes.set q { nodeAt fl q with
        queue := rest, freeAt := (getFloe d f).cyc + 8,
        mtab := some ((getFloe d f).cyc + 8, t, tableAt d f (mtCa t.tok) (mwAoff t.mow), tableAt d f (mtCb t.tok) (mwBoff t.mow)) } }) := by
  simp only [tabAccept, hready, hon, hmop, BEq.rfl, Bool.and_true, if_true, modNode_dropHead hq]

end

/-- MMA and MMAT are acceptances of a multiply token, each with its MOP. -/
theorem exec_mul {s : State} {f q mop : Nat} {i : Instr} (hi : (i = .mma f q ∧ mop = 0) ∨ (i = .mmat f q ∧ mop = 1)) :
    exec i s = .next { s with d := mulAccept s.d f q mop } := by
  rcases hi with ⟨rfl, rfl⟩ | ⟨rfl, rfl⟩ <;> rfl

/-! ## The end of an MTAB (R149, R399, R401) -/

section
variable {d : Data} {f q due : Nat} {t : MTok} {ta tb : List (BitVec 16)} (hon : matrixOn (getFloe d f) = true)
  (hmtab : (nodeAt (getFloe d f) q).mtab = some (due, t, ta, tb)) (hdue : due ≤ (getFloe d f).cyc)
include hon hmtab hdue

/-- Tables of which every product is an FP32 value become the node's. -/
theorem tabComplete_exact (hexact : ta.any (fun a => tb.any (prodInexact a)) = false) :
    tabComplete d f q =
      tokenDone (modNode d f q (fun n => { n with mtab := none, ta := ta, tb := tb })) f t.owner := by
  simp only [tabComplete, hmtab, hon, decide_eq_true hdue, hexact, Bool.and_true, if_true, Bool.false_eq_true, if_false]

/-- Tables with another product leave the node's, and the token is recorded. -/
theorem tabComplete_inexact (hinexact : ta.any (fun a => tb.any (prodInexact a)) = true) :
    tabComplete d f q =
      tokenDone (mxReject (modNode d f q (fun n => { n with mtab := none })) f t.owner (9, 6) t.tok t.mow) f t.owner := by
  simp only [tabComplete, hmtab, hon, decide_eq_true hdue, hinexact, Bool.and_true, if_true]

end

/-! ## Contributions (R147, R399) -/

/-- The accumulator node of a token's contribution, before its counts. -/
def withContribution (x : MFlight) (a : Accum) : Accum := { a with c := contribute x a.c, poison := a.poison || x.psn }

/-- The one contribution that is due leaves the flight and lands. -/
theorem matrixLand_one {d : Data} {f q : Nat} {x : MFlight} {before after : List MFlight} (hon : matrixOn (getFloe d f) = true)
    (hflight : (nodeAt (getFloe d f) q).flight = before ++ x :: after) (hdue : landsAt x ≤ (getFloe d f).cyc)
    (hlater : ∀ y ∈ before ++ after, (getFloe d f).cyc < landsAt y) :
    matrixLand d f q = landOne f q (modNode d f q (fun n => { n with flight := before ++ after })) x := by
  obtain ⟨hbefore, hafter⟩ := List.forall_mem_append.mp hlater
  have hlands : (before ++ x :: after).filter (fun y => decide (landsAt y ≤ (getFloe d f).cyc)) = [x] := by
    rw [List.filter_append, List.filter_cons_of_pos (by simpa using hdue), List.filter_eq_nil_iff.mpr (by simpa using hbefore),
      List.filter_eq_nil_iff.mpr (by simpa using hafter), List.nil_append]
  have hstays : (before ++ x :: after).filter (fun y => decide ((getFloe d f).cyc < landsAt y)) = before ++ after := by
    rw [List.filter_append, List.filter_cons_of_neg (by simpa using hdue), List.filter_eq_self.mpr (by simpa using hbefore),
      List.filter_eq_self.mpr (by simpa using hafter)]
  simp only [matrixLand, if_pos hon, hflight, hlands, List.isEmpty_cons, Bool.false_eq_true, if_false, List.foldl_cons, List.foldl_nil]
  rw [modNode_congr (h' := fun n => { n with flight := before ++ after }) (by simp only [hflight, hstays])]

/-- A token without EXP leaves the counts. -/
theorem accCount_noExp (a : Accum) : accCount 0 a = (a, false) := if_pos rfl

/-- A token with EXP counts, the first of a count setting its target; the one that reaches the target releases. -/
theorem accCount_exp {exp tgt : Nat} {a : Accum} (hexp : exp ≠ 0) (htgt : tgt = if a.cnt = 0 then exp else a.tgt) :
    accCount exp a = ({ a with tgt := tgt, cnt := a.cnt + 1 }, a.cnt + 1 == tgt) := by
  rw [accCount, if_neg hexp, htgt]

section
variable {d : Data} {f q : Nat} {x : MFlight} {r : Accum} (h : MNode → MNode)

/-- A contribution that does not release, its node having changed by h: the accumulator and the token's count. -/
theorem landOne_kept
    (hcount : accCount (mtExp x.t.tok) (withContribution x (accAt (getFloe d f) (mtAn x.t.tok))) = (r, false)) :
    landOne f q (modNode d f q h) x = tokenDone (modFloe d f (fun fl => { fl with
      nodes := fl.nodes.set q (h (nodeAt fl q)), accums := fl.accums.set (mtAn x.t.tok) r })) f x.t.owner := by
  have hacc : accAt (getFloe (modNode d f q h) f) (mtAn x.t.tok) = accAt (getFloe d f) (mtAn x.t.tok) :=
    getFloe_modFloe_keeps (p := fun fl => accAt fl (mtAn x.t.tok)) d f f fun _ => rfl
  rw [withContribution] at hcount
  simp only [landOne, hacc, hcount, Bool.false_eq_true, if_false]
  rw [modAcc, modNode, modFloe_modFloe]

/-- A contribution that releases: the accumulator is cleared, and its node has the rows of C to deliver. -/
theorem landOne_released
    (hcount : accCount (mtExp x.t.tok) (withContribution x (accAt (getFloe d f) (mtAn x.t.tok))) = (r, true)) :
    landOne f q (modNode d f q h) x = tokenDone (modFloe d f (fun fl => { fl with
      nodes := fl.nodes.set q { h (nodeAt fl q) with
        moves := (h (nodeAt fl q)).moves ++
          [{ owner := none, start := landsAt x, port := BitVec.ofNat 4 (mwRport x.t.mow),
             words := moveWords r (mtM x.t.tok) (mtN x.t.tok) fl.cfg.gen, next := 0, holdsPort := false }] },
      accums := fl.accums.set (mtAn x.t.tok) (accClear r) })) f x.t.owner := by
  have hacc : accAt (getFloe (modNode d f q h) f) (mtAn x.t.tok) = accAt (getFloe d f) (mtAn x.t.tok) :=
    getFloe_modFloe_keeps (p := fun fl => accAt fl (mtAn x.t.tok)) d f f fun _ => rfl
  rw [withContribution] at hcount
  simp only [landOne, hacc, hcount, if_true, cfg_tokenDone, cfg_modAcc, cfg_modNode, modNode_tokenDone, modNode_modAcc, modNode_modNode]
  rw [modAcc, modNode, modFloe_modFloe]
  exact congrArg (tokenDone · f x.t.owner) (modFloe_congr rfl)

end

end Sys2Proof.Machine
end

section
/-!
PROOF. Matrix tokens: MXT and the token feed, the token at the head of a node's queue, the end of an MTAB, and a contribution.
-/

namespace Sys2Proof.Machine

open Sys2Proof.Safety

/-- Settles O24: at the issuer by the checks, the queue's room and the feed's binding; at the head of a queue by the token's MOP; what
is due by the products of the tables and by the count of an EXP. -/
theorem matrixTokensMove : Obligations.MatrixTokensMove := by
  unfold Obligations.MatrixTokensMove
  refine ⟨⟨fun s g a b port q hr hq => ?issue,
      fun s f p w hfeed hbehind hheld hfrozen hhalted hhead hbare herr hpsn hmask hcheck hroom => leavesData_of_eq
        (feedStep_good rfl rfl hfeed hbehind hheld hfrozen hhalted hhead hbare herr hpsn hmask hcheck hroom)⟩,
    fun s f q t rest hq harrived hfree hfrozen hhalted hheld => ?accept,
    fun s f q due t ta tb hmtab hdue hfrozen hhalted => ?tables,
    fun s f q x before after a _ _ hflight hdue hlater hfrozen hhalted ha => ?contribution⟩
  case issue =>
    have hnode : tokNode (rs s.d a) = q := hq.symm
    subst hnode
    have hmxt := exec_mxt_ready hr
    have hbind := exec_mxtP_ready (port := port) (ready_nil hr)
    refine ⟨fun before late hcheck hqueue hroom hlate hbefore => leavesData_of_eq ?_ hmxt,
      fun hcheck hfull => leavesData_of_eq (mxtIssue_full hcheck hfull) hmxt,
      fun cls cause hcheck => leavesData_of_eq (mxtIssue_refused hcheck) hmxt,
      fun hfeed hport => leavesData_of_eq (feedBind_exposed hfeed hport) hbind,
      fun hfeed => leavesData_of_eq (feedBind_bound hfeed) hbind,
      fun hfeed hport => leavesData_of_eq (feedBind_unexposed hfeed hport) hbind,
      leavesData_of_eq (issue_of_ready (ready_nil hr) _)⟩
    rw [mxtIssue_room hcheck (hqueue ▸ hroom), mxAppend_ofTp hqueue hlate hbefore]
  case accept =>
    have hready := headReady_of_due hq harrived hfree hheld
    have hon := matrixOn_of_running hfrozen hhalted
    exact ⟨⟨fun i hi hmul hexp => leavesData_of_eq (mulAccept_taken hready hon hq hmul hexp) (exec_mul hi),
        fun i hi hmul hexp => leavesData_of_eq (mulAccept_expRefused hready hon hq hmul hexp) (exec_mul hi)⟩,
      fun hmop hquiet hmoves hport => leavesData_of_eq (movAccept_taken hready hon hq hmop hquiet hmoves hport),
      fun hmop hquiet => leavesData_of_eq (clrAccept_taken hready hon hq hmop hquiet),
      fun hmop => leavesData_of_eq (tabAccept_taken hready hon hq hmop)⟩
  case tables =>
    have hon := matrixOn_of_running hfrozen hhalted
    exact ⟨fun hexact => leavesData_of_eq (tabComplete_exact hon hmtab hdue hexact),
      fun hinexact => leavesData_of_eq (tabComplete_inexact hon hmtab hdue hinexact)⟩
  case contribution =>
    have hland := matrixLand_one (matrixOn_of_running hfrozen hhalted) hflight hdue hlater
    change a = withContribution x _ at ha
    refine ⟨fun hexp => leavesData_of_eq (hland.trans (landOne_kept _ ?noExp)),
      fun hexp tgt htgt => ⟨fun hmore => leavesData_of_eq (hland.trans (landOne_kept _ ?counts)),
        fun hlast => leavesData_of_eq (hland.trans (landOne_released (r := { a with tgt := tgt, cnt := a.cnt + 1 }) _ ?releases))⟩⟩
    case noExp => rw [← ha, hexp, accCount_noExp]
    case counts => rw [← ha, accCount_exp hexp htgt, beq_eq_false_iff_ne.mpr hmore]
    case releases => rw [← ha, accCount_exp hexp htgt, beq_iff_eq.mpr hlast]

end Sys2Proof.Machine
end

section
/-!
PROOF SUPPORT. A scalar access on its way and what its issue holds of later ones (R177, R181, R188, R201); LDS and STS at issue and as
they perform, with the bytes an element leaves alone (R175-R177, R208).
-/

namespace Sys2Proof.Machine

open Sys2Proof.Safety

/-! ## An access on its way (R177, R201) -/

/-- The TP with access p on its way, as floe fl takes it. -/
def withPend (fl : Floe) (p : Pend) (counted : Bool) (t : Tp) : Tp :=
  { t with
    pends := t.pends ++ [{ p with
      id := t.nextId, wno := if counted then t.wi + 1 else 0, order := fl.issueNo, due := if p.floeLocal then fl.cyc + 1 else 0 }],
    nextId := t.nextId + 1,
    wi := if counted then t.wi + 1 else t.wi,
    undone := if counted then t.undone ++ [t.wi + 1] else t.undone }

/-- An access on its way is a change of the floe's issue order and of the TP. -/
theorem addPend_eq (d : Data) (p : Pend) (counted : Bool) : addPend d p counted =
    modCur (modFloe d d.curF (fun fl => { fl with issueNo := fl.issueNo + 1 })) (withPend (getFloe d d.curF) p counted) := by
  simp only [addPend, modCur, modTp, modSlot, modFloe_curF, modFloe_curK, modFloe_modFloe]
  rfl

/-- The access the statements name, as such a change. -/
theorem accessTaken_eq (d : Data) (p : Pend) (counted : Bool) (hs : List Hold) : accessTaken d p counted hs =
    modCur (modFloe d d.curF (fun fl => { fl with issueNo := fl.issueNo + 1 }))
      (fun t => pastWord { withPend (getFloe d d.curF) p counted t with holds := t.holds ++ hs }) := rfl

/-- An access that holds nothing is on its way, and the TP goes on. -/
theorem retire_addPend (d : Data) (p : Pend) (counted : Bool) : retire (addPend d p counted) = accessTaken d p counted [] := by
  rw [addPend_eq, retire_modCur_pastWord, accessTaken_eq]
  simp only [List.append_nil]
  rfl

/-- An access that later ones wait for is on its way, and the TP goes on. -/
theorem retire_addHold_addPend (d : Data) (p : Pend) (counted : Bool) {h : Hold} (hpends : h.pends ≠ []) :
    retire (addHold (addPend d p counted) h) = accessTaken d p counted [h] := by
  have hwaits : ¬ (h.pends.isEmpty && h.cmds.isEmpty) = true := by simp [hpends]
  rw [addHold, if_neg hwaits, addPend_eq, modCur_modCur, retire_modCur_pastWord, accessTaken_eq]
  rfl

/-! ## LDS and STS at issue (R175, R386, R437) -/

section
variable {d : Data} {n : BitVec 4} {v : View} {i j cls cause : Nat}

/-- A load that a check refuses. -/
theorem ldsIssue_refused (r : BitVec 5) (hv : curView d n = some v) (hc : elemCheck d v i j = some (cls, cause)) :
    ldsIssue d r n i j = trapped d cls cause 0 := by
  simp only [ldsIssue, hv, hc, trap_eq_trapped]

/-- A load of an element out of range reads 0 at once (R63). -/
theorem ldsIssue_outOfRange (r : BitVec 5) (hv : curView d n = some v) (hc : elemCheck d v i j = none)
    (hx : inRange v.lte (winCoords v i j) = false) : ldsIssue d r n i j = modCur d (scalarThen r 0) := by
  simp only [ldsIssue, hv, hc, hx, Bool.not_false, if_true, retire_modCur_pastWord]
  rfl

/-- A load of an element in range is on its way. -/
theorem ldsIssue_inRange (r : BitVec 5) (hv : curView d n = some v) (hc : elemCheck d v i j = none)
    (hx : inRange v.lte (winCoords v i j) = true) : ldsIssue d r n i j = accessTaken d { pend0 d .lds with
      d := r, floeLocal := vLocal v, pieces := localPieces d.curF v.lte (winCoords v i j), signed := ldsSigned (lteFmt v.lte),
      value := BitVec.ofNat 64 (fmtBits (lteFmt v.lte)), addr := elemAddr v.lte (winCoords v i j) } false [] := by
  simp only [ldsIssue, hv, hc, hx, Bool.not_true, Bool.false_eq_true, if_false, retire_addPend]
  rfl

/-- A store that a check refuses. -/
theorem stsIssue_refused (x : Word) (hv : curView d n = some v) (hc : elemCheck d v i j = some (cls, cause)) :
    stsIssue d x n i j = trapped d cls cause 0 := by
  simp only [stsIssue, hv, hc, trap_eq_trapped]

/-- A store to an element out of range only passes (R63). -/
theorem stsIssue_outOfRange (x : Word) (hv : curView d n = some v) (hc : elemCheck d v i j = none)
    (hx : inRange v.lte (winCoords v i j) = false) : stsIssue d x n i j = modCur d pastWord := by
  simp only [stsIssue, hv, hc, hx, Bool.not_false, if_true]
  rfl

/-- A store to an element in range is on its way with the bits that the format stores. -/
theorem stsIssue_inRange (x : Word) (hv : curView d n = some v) (hc : elemCheck d v i j = none)
    (hx : inRange v.lte (winCoords v i j) = true) : stsIssue d x n i j = accessTaken d { pend0 d .sts with
      floeLocal := vLocal v, pieces := localPieces d.curF v.lte (winCoords v i j),
      value := BitVec.ofNat 64 (x.toNat % 2 ^ fmtBits (lteFmt v.lte)), addr := elemAddr v.lte (winCoords v i j) }
      (! vLocal v) [] := by
  simp only [stsIssue, hv, hc, hx, Bool.not_true, Bool.false_eq_true, if_false, retire_addPend]
  rfl

/-- The TP's tile is in FLOE where its view is. -/
theorem tileLocal_of_view (hv : curView d n = some v) : tileLocal d n = vLocal v := by
  simp only [tileLocal, hv]

end

section
variable {s : State} {g : Guard} {d a b : BitVec 5} {n : BitVec 4} {v : View}

/-- A ready LDS that nothing holds makes its checks. -/
theorem exec_lds_ready (hr : Ready s g [d, a, b]) (hs : Sound s (viewRegs (curTp s.d) n)) (hv : curView s.d n = some v)
    (hheld : heldBy (getFloe s.d s.d.curF) (curTp s.d) true false (vLocal v) = false) :
    exec (.lds g d n a b) s = .next { s with d := ldsIssue s.d d n (rn s.d a) (rn s.d b) } := by
  show execLds g d n a b s = _
  rw [execLds, nextD_eq, issueS_of_sound hr hs, tileLocal_of_view hv, whenFree_of_not_held _ hheld]

/-- A ready STS that nothing holds makes its checks. -/
theorem exec_sts_ready (hr : Ready s g [d, a, b]) (hs : Sound s (viewRegs (curTp s.d) n)) (hv : curView s.d n = some v)
    (hheld : heldBy (getFloe s.d s.d.curF) (curTp s.d) false true (vLocal v) = false) :
    exec (.sts g d n a b) s = .next { s with d := stsIssue s.d (rs s.d d) n (rn s.d a) (rn s.d b) } := by
  show execSts g d n a b s = _
  rw [execSts, nextD_eq, issueS_of_sound hr hs, tileLocal_of_view hv, whenFree_of_not_held _ hheld]

end

/-! ## An access that performs (R177, R178, R208) -/

/-- The trap of a refused access: its counted write never performs, and it is on its way no more. -/
theorem pendTrap_eq (d : Data) (f k : Nat) (p : Pend) (fc : Nat × Nat) : pendTrap d f k p fc =
    trapWr (isWrite p) (modTp (loseWrite d f k p.wno 2) f k (withoutPend p)) f k fc.1 fc.2 p.addr p.word 0 := rfl

/-- That of an access that only reads. -/
theorem pendTrap_read {p : Pend} (d : Data) (f k : Nat) (fc : Nat × Nat) (hw : isWrite p = false) : pendTrap d f k p fc =
    trapAt (modTp (loseWrite d f k p.wno 2) f k (withoutPend p)) f k fc.1 fc.2 p.addr p.word 0 := by
  rw [pendTrap_eq, hw]
  rfl

/-- That of an access that writes. -/
theorem pendTrap_write {p : Pend} (d : Data) (f k : Nat) (fc : Nat × Nat) (hw : isWrite p = true) : pendTrap d f k p fc =
    trapWr true (modTp (loseWrite d f k p.wno 2) f k (withoutPend p)) f k fc.1 fc.2 p.addr p.word 0 := by
  rw [pendTrap_eq, hw]

/-- An access that has performed and then changes its TP. -/
theorem modTp_donePend (d : Data) (f k : Nat) (p : Pend) (h : Tp → Tp) :
    modTp (donePend d f k p) f k h = modTp d f k (fun t => h (withoutPend p t)) := modTp_modTp d f k _ h

section
variable {s : State} {f k i : Nat} {p : Pend}

/-- What LDS_RETURN asks of its access. -/
theorem turn_of_mayPerformNow (h : MayPerformNow s f k i p) :
    (mayPerform (getTp s.d f k) p && (! p.floeLocal || floeTurn (getFloe s.d f) p)) = true := by
  obtain ⟨-, hmay, hturn⟩ := h
  rw [hmay, Bool.true_and]
  cases hp : p.floeLocal with
  | false => rfl
  | true => exact hturn hp

/-- An LDS that may perform. -/
theorem exec_ldsReturn_lds (h : MayPerformNow s f k i p) (hk : p.kind = .lds) :
    exec (.ldsReturn f k i) s = .next { s with d := ldsPerform s.d f k p } := by
  show execLdsReturn f k i s = _
  rw [execLdsReturn, nextD_eq]
  simp only [h.1, turn_of_mayPerformNow h, hk, if_true]

/-- An STS that may perform. -/
theorem exec_ldsReturn_sts (h : MayPerformNow s f k i p) (hk : p.kind = .sts) :
    exec (.ldsReturn f k i) s = .next { s with d := stsPerform s.d f k p } := by
  show execLdsReturn f k i s = _
  rw [execLdsReturn, nextD_eq]
  simp only [h.1, turn_of_mayPerformNow h, hk, if_true]

end

section
variable {d m : Data} {f k : Nat} {p : Pend}

theorem isWrite_of_lds (hk : p.kind = .lds) : isWrite p = false := by simp only [isWrite, hk]
theorem isWrite_of_sts (hk : p.kind = .sts) : isWrite p = true := by simp only [isWrite, hk]

/-- A load outside FLOE sees memory as it stands. -/
theorem ldsPerform_outside (hloc : p.floeLocal = false) : ldsPerform d f k p = ldsFrom d d f k p := by
  simp only [ldsPerform, hloc, Bool.false_eq_true, if_false]

/-- A load that is refused. -/
theorem ldsFrom_refused {fc : Nat × Nat} (hf : piecesFault d f 1 p.pieces = some fc) : ldsFrom m d f k p = pendTrap d f k p fc := by
  simp only [ldsFrom, hf]

/-- A load of uncorrectable data outside FLOE. -/
theorem ldsFrom_poisoned (hf : piecesFault d f 1 p.pieces = none) (hp : piecePoisoned d p.pieces = true)
    (hloc : p.floeLocal = false) : ldsFrom m d f k p = pendTrap d f k p (0x0C, 2) := by
  simp only [ldsFrom, hf, hp, hloc, if_true, Bool.false_eq_true, if_false]

/-- A load that reads its element. -/
theorem ldsFrom_read (hf : piecesFault d f 1 p.pieces = none) (hp : piecePoisoned d p.pieces = false) :
    ldsFrom m d f k p = modTp d f k (fun t =>
      sput (withoutPend p t) p.d (ldsValue p.signed p.value.toNat (pieceRead m p.pieces))) := by
  simp only [ldsFrom, hf, hp, Bool.false_eq_true, if_false, modTp_donePend]

/-- Whether a load is refused does not depend on the use of the floe's banks. -/
theorem ldsPerform_refused {fc : Nat × Nat} (hf : piecesFault d f 1 p.pieces = some fc) : ldsPerform d f k p =
    pendTrap (if p.floeLocal then modFloe d f (fun fl => p.pieces.foldl (fun fl q => bankUse fl q.loc) fl) else d) f k p fc := by
  cases hloc : p.floeLocal with
  | false => exact (ldsPerform_outside hloc).trans (ldsFrom_refused hf)
  | true =>
    rw [ldsPerform, if_pos hloc]
    exact ldsFrom_refused hf

/-- A store that is refused. -/
theorem stsPerform_refused {fc : Nat × Nat} (hf : piecesFault d f 2 p.pieces = some fc) : stsPerform d f k p = pendTrap d f k p fc := by
  simp only [stsPerform, hf]

/-- A store to uncorrectable data outside FLOE. -/
theorem stsPerform_poisoned (hf : piecesFault d f 2 p.pieces = none) (hp : piecePoisoned d p.pieces = true)
    (hloc : p.floeLocal = false) : stsPerform d f k p = pendTrap d f k p (0x0C, 2) := by
  simp only [stsPerform, hf, hp, hloc, Bool.not_false, Bool.and_self, if_true]

/-- A store outside FLOE that performs. -/
theorem stsPerform_stored (hf : piecesFault d f 2 p.pieces = none) (hp : piecePoisoned d p.pieces = false)
    (hloc : p.floeLocal = false) :
    stsPerform d f k p = modTp (pieceWrite d p.pieces p.value.toNat false) f k (withoutPend p) := by
  simp only [stsPerform, hf, hp, hloc, Bool.and_false, Bool.false_eq_true, if_false]
  rfl

/-- A store in FLOE joins the writes of the cycle. -/
theorem stsPerform_inFloe (hf : piecesFault d f 2 p.pieces = none) (hloc : p.floeLocal = true) :
    stsPerform d f k p = modTp (modFloe d f (fun fl =>
      { p.pieces.foldl (fun fl q => bankUse fl q.loc) fl with
        writes := fl.writes ++ [{ src := 2, key := p.order, elems := [(p.pieces, p.value.toNat)], psn := false, mode := 0,
                                  fmt := 0, part := false }] })) f k (withoutPend p) := by
  simp only [stsPerform, hf, hloc, Bool.not_true, Bool.false_and, Bool.false_eq_true, if_false, if_true]
  rfl

end

/-- The element's value in its register: the signed reading of its width, or its bits (R175). -/
theorem ldsValue_eq (signed : Bool) (w x : Nat) : ldsValue signed w x =
    if signed then BitVec.ofInt 64 (BitVec.ofNat w x).toInt else BitVec.ofNat 64 x := by
  have hsext : sextN w x = (BitVec.ofNat w x).toInt := by
    rcases Nat.eq_zero_or_pos w with rfl | hw
    · simp [sextN, Nat.mod_one, BitVec.of_length_zero]
    · exact sextN_eq_toInt w x hw
  rw [ldsValue, hsext]
  rfl

/-! ## The bytes an element leaves alone (R176) -/

/-- A byte outside every piece stored stands. -/
theorem readByte_pieceStore_outside {m : Memory} {ps : List Piece} {a : Nat} (v : Nat) (h : m.wf = true) (ha : Outside ps a) :
    readByte (pieceStore m v ps) a = readByte m a := by
  induction ps generalizing m with
  | nil => rfl
  | cons p ps ih =>
    rw [pieceStore, ih (writeNum_wf m _ _ _ h) (fun q hq => ha q (List.mem_cons_of_mem p hq))]
    exact readByte_writeNum_other _ _ _ _ _ h (ha p List.mem_cons_self)

/-- A byte outside an element's pieces reads as before. -/
theorem memByte_pieceWrite_outsideAll {d : Data} {ps : List Piece} {a : Nat} (v : Nat) (psn : Bool) (h : d.mem.wf = true)
    (ha : Outside ps a) : memByte (pieceWrite d ps v psn) a = memByte d a := by
  rw [← memByte_pieceSettle d ps a h]
  apply memByte_congr
  · rw [pieceWrite_devFmt]
  · rw [pieceWrite_mem, readByte_pieceStore_outside v (pieceSettle_wf d ps h) ha]

end Sys2Proof.Machine
end

section
/-!
PROOF. LDS and STS, at issue and as they perform.
-/

namespace Sys2Proof.Machine

open Sys2Proof.Safety

/-- Settles O25, by the element's issue checks and by whether it lies in range. -/
theorem elementAccessesIssue : Obligations.ElementAccessesIssue := by
  unfold Obligations.ElementAccessesIssue
  rintro s g d a b n v x hr hs hv rfl
  refine ⟨fun hheld => ?load, fun hheld => ?store⟩
  case load =>
    have hexec := exec_lds_ready hr hs hv hheld
    exact ⟨fun hc => ⟨fun hx => leavesData_of_eq (ldsIssue_inRange d hv hc hx) hexec,
        fun hx => leavesData_of_eq (ldsIssue_outOfRange d hv hc hx) hexec⟩,
      fun cls cause hc => leavesData_of_eq (ldsIssue_refused d hv hc) hexec⟩
  case store =>
    have hexec := exec_sts_ready hr hs hv hheld
    exact ⟨fun hc => ⟨fun hx => leavesData_of_eq (stsIssue_inRange _ hv hc hx) hexec,
        fun hx => leavesData_of_eq (stsIssue_outOfRange _ hv hc hx) hexec⟩,
      fun cls cause hc => leavesData_of_eq (stsIssue_refused _ hv hc) hexec⟩

/-- Settles O26, by the kind of access and by its refusal, its poison or its place. -/
theorem elementAccessesPerform : Obligations.ElementAccessesPerform := by
  unfold Obligations.ElementAccessesPerform
  intro s f k i p h
  refine ⟨fun hk hloc hf hp => ?read, fun hk hloc hf hp => ?stored, fun hk hloc hf => ?inFloe, fun hk hloc hf hp => ?readPoisoned,
    fun hk hloc hf hp => ?storePoisoned, fun fc d => ⟨fun hk hf hd => ?readRefused, fun hk hf => ?storeRefused⟩⟩
  case read =>
    refine leavesData_of_eq ((ldsPerform_outside hloc).trans ((ldsFrom_read hf hp).trans ?_)) (exec_ldsReturn_lds h hk)
    rw [ldsValue_eq]
  case stored =>
    have hstored := exec_ldsReturn_sts h hk
    rw [stsPerform_stored hf hp hloc] at hstored
    exact ⟨fun hwf => ⟨_, hstored, rfl, rfl, pieceWrite_mem _ _ _ _, fun a ha => memByte_pieceWrite_outsideAll _ _ hwf ha⟩, hstored⟩
  case inFloe =>
    have hjoined := exec_ldsReturn_sts h hk
    rw [stsPerform_inFloe hf hloc] at hjoined
    refine ⟨_, hjoined, fun a => rfl, fun hfloe => ?_⟩
    rw [modTp, modSlot, modFloe_modFloe, getFloe_modFloe_same _ _ _ hfloe]
  case readPoisoned =>
    exact leavesData_of_eq ((ldsPerform_outside hloc).trans ((ldsFrom_poisoned hf hp hloc).trans
      (pendTrap_read _ _ _ _ (isWrite_of_lds hk)))) (exec_ldsReturn_lds h hk)
  case storePoisoned =>
    exact leavesData_of_eq ((stsPerform_poisoned hf hp hloc).trans (pendTrap_write _ _ _ _ (isWrite_of_sts hk))) (exec_ldsReturn_sts h hk)
  case readRefused =>
    subst hd
    exact leavesData_of_eq ((ldsPerform_refused hf).trans (pendTrap_read _ _ _ _ (isWrite_of_lds hk))) (exec_ldsReturn_lds h hk)
  case storeRefused =>
    exact leavesData_of_eq ((stsPerform_refused hf).trans (pendTrap_write _ _ _ _ (isWrite_of_sts hk))) (exec_ldsReturn_sts h hk)

end Sys2Proof.Machine
end

section
/-!
PROOF SUPPORT. ATOM at issue and at its home (R187, R188, R333), and the hold of a FENCE (R181, R182).
-/

namespace Sys2Proof.Machine

open Sys2Proof.Safety

/-! ## ATOM at issue (R188, R333) -/

/-- The instruction of an ATOM of operation op with these operands. -/
def atomInstr (op : BitVec 3) (i : Instr) (g : Guard) (d : BitVec 5) (n : BitVec 4) (a : BitVec 5) (ord : BitVec 2)
    (scope : BitVec 3) : Prop :=
  (op, i) ∈ [(0, Instr.atomSwp g d n a ord scope), (1, .atomCas g d n a ord scope), (2, .atomAdd g d n a ord scope),
    (3, .atomAnd g d n a ord scope), (4, .atomOr g d n a ord scope), (5, .atomXor g d n a ord scope),
    (6, .atomMax g d n a ord scope), (7, .atomMin g d n a ord scope)]

/-- Each of the eight is the step of its operation. -/
theorem exec_atomInstr {op : BitVec 3} {i : Instr} {g : Guard} {d : BitVec 5} {n : BitVec 4} {a : BitVec 5} {ord : BitVec 2}
    {scope : BitVec 3} (hi : atomInstr op i g d n a ord scope) (s : State) :
    exec i s = .next { s with d := atomStep op g d n a ord scope s.d } := by
  simp only [atomInstr, List.mem_cons, List.not_mem_nil, or_false, Prod.mk.injEq] at hi
  rcases hi with ⟨rfl, rfl⟩ | ⟨rfl, rfl⟩ | ⟨rfl, rfl⟩ | ⟨rfl, rfl⟩ | ⟨rfl, rfl⟩ | ⟨rfl, rfl⟩ | ⟨rfl, rfl⟩ | ⟨rfl, rfl⟩ <;> rfl

/-- A ready ATOM that nothing holds makes its checks. -/
theorem atomStep_ready {s : State} {op : BitVec 3} {g : Guard} {d : BitVec 5} {n : BitVec 4} {a : BitVec 5} (ord : BitVec 2)
    (scope : BitVec 3) (hr : Ready s g [d, a]) (hs : Sound s (viewRegs (curTp s.d) n))
    (hheld : heldBy (getFloe s.d s.d.curF) (curTp s.d) true true false = false) :
    atomStep op g d n a ord scope s.d = atomIssue s.d op d n a ord scope := by
  rw [atomStep, issueS_of_sound hr hs, whenFree_of_not_held _ hheld]

/-- An ATOM that a check refuses. -/
theorem atomIssue_refused {d : Data} {n : BitVec 4} {v : View} {cls cause : Nat} (op : BitVec 3) (r a : BitVec 5) (ord : BitVec 2)
    (scope : BitVec 3) (hv : curView d n = some v) (hc : atomCheck d v = some (cls, cause)) :
    atomIssue d op r n a ord scope = trapped d cls cause 0 := by
  simp only [atomIssue, hv, hc, trap_eq_trapped]

/-- The ATOM's access to its word in L2 of this module. -/
def atomPend (d : Data) (v : View) (op : BitVec 3) (r a : BitVec 5) (ord : BitVec 2) : Pend :=
  { pend0 d (.atom op (BitVec.ofNat 32 (rn d a)) (BitVec.ofNat 32 (rn d r))) with
    d := r, addr := elemAddr v.lte (winCoords v 0 0),
    after := if ord = 0 ∨ ord = 1 then [] else pendIds (curTp d) (fun _ => true),
    pieces := [{ loc := locL2 (elemAddr v.lte (winCoords v 0 0)), off := 0, n := 32, sh := 0 }] }

/-- The orders that release (R188). -/
theorem ord_lt_two_iff (ord : BitVec 2) : ord.toNat < 2 ↔ ord = 0 ∨ ord = 1 := by revert ord; decide

/-- The orders that acquire (R188). -/
theorem ord_acquires_iff (ord : BitVec 2) : (ord.toNat = 1 ∨ ord.toNat = 3) ↔ ord = 1 ∨ ord = 3 := by revert ord; decide

/-- An ATOM on L2 of this module that passes its checks is on its way. -/
theorem atomIssue_taken {d : Data} {n : BitVec 4} {v : View} (op : BitVec 3) (r a : BitVec 5) (ord : BitVec 2) (scope : BitVec 3)
    (hv : curView d n = some v) (hspace : lteSpace v.lte = 1) (hc : atomCheck d v = none) :
    atomIssue d op r n a ord scope = accessTaken d (atomPend d v op r a ord) true
      (if ord = 1 ∨ ord = 3 then
        [{ reads := true, writes := true, floeToo := decide (scope ≠ 0), pends := [(curTp d).nextId], cmds := [] }] else []) := by
  have hlocal : ¬ (lteSpace v.lte = 6 && ltePmod v.lte != d.modid.toNat) = true := by simp [hspace]
  have hscope : decide (scope.toNat ≠ 0) = decide (scope ≠ 0) := by revert scope; decide
  simp only [atomIssue, hv, hc, hlocal, ord_lt_two_iff, ord_acquires_iff, hscope]
  split
  · exact retire_addHold_addPend d _ true (List.cons_ne_nil _ _)
  · exact retire_addPend d _ true

/-! ## ATOM at its home (R187, R334) -/

/-- The larger of two words as signed numbers. -/
theorem ofInt_max_toInt (x y : BitVec 32) : BitVec.ofInt 32 (max x.toInt y.toInt) = if x.slt y then y else x := by
  by_cases h : x.toInt < y.toInt
  · rw [if_pos (BitVec.slt_iff_toInt_lt.mpr h), max_eq_right h.le, BitVec.ofInt_toInt]
  · rw [if_neg (mt BitVec.slt_iff_toInt_lt.mp h), max_eq_left (not_lt.mp h), BitVec.ofInt_toInt]

/-- The smaller of two words as signed numbers. -/
theorem ofInt_min_toInt (x y : BitVec 32) : BitVec.ofInt 32 (min x.toInt y.toInt) = if y.slt x then y else x := by
  by_cases h : y.toInt < x.toInt
  · rw [if_pos (BitVec.slt_iff_toInt_lt.mpr h), min_eq_right h.le, BitVec.ofInt_toInt]
  · rw [if_neg (mt BitVec.slt_iff_toInt_lt.mp h), min_eq_left (not_lt.mp h), BitVec.ofInt_toInt]

/-- What each operation writes (R187). -/
theorem atomNew_eq (op : BitVec 3) (old v cmp : BitVec 32) : atomNew op old v cmp =
    if op = 0 then v else if op = 1 then (if old = cmp then v else old)
    else if op = 2 then BitVec.ofNat 32 (old.toNat + v.toNat) else if op = 3 then old &&& v else if op = 4 then old ||| v
    else if op = 5 then old ^^^ v else if op = 6 then BitVec.ofInt 32 (max old.toInt v.toInt)
    else BitVec.ofInt 32 (min old.toInt v.toInt) := by
  have hops : op = 0 ∨ op = 1 ∨ op = 2 ∨ op = 3 ∨ op = 4 ∨ op = 5 ∨ op = 6 ∨ op = 7 := by revert op; decide
  rw [ofInt_max_toInt, ofInt_min_toInt]
  rcases hops with rfl | rfl | rfl | rfl | rfl | rfl | rfl | rfl <;> rfl

/-- The ATOM of its access, when it may perform. -/
theorem exec_atomPerform_now {s : State} {f k i : Nat} {p : Pend} {op : BitVec 3} {v cmp : BitVec 32}
    (h : MayPerformNow s f k i p) (hk : p.kind = .atom op v cmp) :
    exec (.atomPerform f k i) s = .next { s with d := atomPerform s.d f k p op v cmp } := by
  obtain ⟨hfind, hmay, -⟩ := h
  show execAtomPerform f k i s = _
  rw [execAtomPerform, nextD_eq]
  simp only [hfind, hk, hmay, if_true]

section
variable {d : Data} {f k : Nat} {p : Pend}

theorem isWrite_of_atom {op : BitVec 3} {v cmp : BitVec 32} (hk : p.kind = .atom op v cmp) : isWrite p = true := by
  simp only [isWrite, hk]

/-- An ATOM that its home refuses. -/
theorem atomPerform_refused {fc : Nat × Nat} (op : BitVec 3) (v cmp : BitVec 32) (hpeer : p.peer = none)
    (hf : physFault d f 3 (locL2 p.addr) 4 = some fc) : atomPerform d f k p op v cmp = pendTrap d f k p fc := by
  simp only [atomPerform, atomReach, hpeer, hf]

/-- An ATOM of an uncorrectable word. -/
theorem atomPerform_poisoned (op : BitVec 3) (v cmp : BitVec 32) (hpeer : p.peer = none)
    (hf : physFault d f 3 (locL2 p.addr) 4 = none) (hp : poisoned d (locL2 p.addr) 4 = true) :
    atomPerform d f k p op v cmp = pendTrap d f k p (0x0C, 2) := by
  simp only [atomPerform, atomReach, hpeer, hf, hp, if_true]

/-- An ATOM that reads and writes its word in one step. -/
theorem atomPerform_done {old : BitVec 32} (op : BitVec 3) (v cmp : BitVec 32) (hpeer : p.peer = none)
    (hf : physFault d f 3 (locL2 p.addr) 4 = none) (hp : poisoned d (locL2 p.addr) 4 = false)
    (hold : old = BitVec.ofNat 32 (memRead d (locL2 p.addr) 4)) : atomPerform d f k p op v cmp =
      modTp (memWrite d (locL2 p.addr) 4 (atomNew op old v cmp).toNat false) f k
        (fun t => sput (withoutPend p t) p.d (old.signExtend 64)) := by
  subst hold
  simp only [atomPerform, atomReach, hpeer, hf, hp, Bool.false_eq_true, if_false, modTp_donePend]

end

/-! ## FENCE (R181, R182) -/

/-- The hold of a FENCE is added where it waits for something, and the TP goes on. -/
theorem retire_addHold (d : Data) (h : Hold) : retire (addHold d h) = modCur d (fun t => pastWord { t with
    holds := if h.pends = [] ∧ h.cmds = [] then t.holds else t.holds ++ [h] }) := by
  by_cases hnone : h.pends = [] ∧ h.cmds = []
  · simp only [addHold, hnone, List.isEmpty_nil, Bool.and_self, if_true, and_self]
    rfl
  · have hwaits : ¬ (h.pends.isEmpty && h.cmds.isEmpty) = true := by simpa using hnone
    rw [addHold, if_neg hwaits, retire_modCur_pastWord]
    simp only [hnone, if_false]

/-- A ready FENCE adds its hold. -/
theorem fenceStep_ready {s : State} {g : Guard} (kind : Nat) (scope : BitVec 3) (hr : Ready s g []) :
    fenceStep kind g scope s.d = retire (addHold s.d
      { reads := kind != 1, writes := true, floeToo := decide (scope ≠ 0),
        pends := pendIds (curTp s.d) (fun p => kind != 0 || isRead p), cmds := if scope = 0 then [] else localCmds s.d }) := by
  have hscope : (scope != 0) = decide (scope ≠ 0) := by revert scope; decide
  rw [fenceStep, issue_of_ready hr, hscope]

end Sys2Proof.Machine
end

section
/-!
PROOF. ATOM, at issue and as it performs, and FENCE.
-/

namespace Sys2Proof.Machine

open Sys2Proof.Safety

/-- Settles O27, by the issue checks of the eight operations, and at the home by its refusal, the word's poison and the operation. -/
theorem atomicsIssueAndPerform : Obligations.AtomicsIssueAndPerform := by
  unfold Obligations.AtomicsIssueAndPerform
  refine ⟨fun s g d a n ord scope v op i hr hi hheld hs hv hspace => ?issue,
    fun s f k i p op v cmp old new h hk hpeer hold hnew => ⟨fun hf hp => ?performs, fun fc hfc => ?traps⟩⟩
  case issue =>
    have hexec := exec_atomInstr hi s
    rw [atomStep_ready ord scope hr hs hheld] at hexec
    exact ⟨fun hc => leavesData_of_eq (atomIssue_taken op d a ord scope hv hspace hc) hexec,
      fun cls cause hc => leavesData_of_eq (atomIssue_refused op d a ord scope hv hc) hexec⟩
  case performs =>
    have hdone := atomPerform_done (k := k) op v cmp hpeer hf hp hold
    rw [atomNew_eq, ← hnew] at hdone
    exact ⟨leavesData_of_eq hdone (exec_atomPerform_now h hk), fun hwf a ha => memByte_memWrite_other _ _ _ _ _ a hwf ha⟩
  case traps =>
    have htrap : atomPerform s.d f k p op v cmp = pendTrap s.d f k p fc := by
      rcases hfc with hf | ⟨hf, hp, rfl⟩
      · exact atomPerform_refused op v cmp hpeer hf
      · exact atomPerform_poisoned op v cmp hpeer hf hp
    exact leavesData_of_eq (htrap.trans (pendTrap_write _ _ _ _ (isWrite_of_atom hk))) (exec_atomPerform_now h hk)

/-- Settles O28: a FENCE adds the one hold of its kind, where that waits for something. -/
theorem fencesHoldLaterAccesses : Obligations.FencesHoldLaterAccesses := by
  unfold Obligations.FencesHoldLaterAccesses
  rintro s g scope reads waits cmds i hr rfl hkind
  have hfence := fun kind => (fenceStep_ready kind scope hr).trans (retire_addHold s.d _)
  rcases hkind with ⟨rfl, rfl, rfl⟩ | ⟨rfl, rfl, rfl⟩ | ⟨rfl, rfl, rfl⟩
  · exact leavesData_of_eq (hfence 0)
  · exact leavesData_of_eq (hfence 1)
  · exact leavesData_of_eq (hfence 2)

end Sys2Proof.Machine
end

section
/-!
PROOF SUPPORT. Versioned words (R189-R195, R445): what a slot, a VLD, a VST and a VRCL do at the word's home, and the word that a VRCL
leaves.
-/

namespace Sys2Proof.Machine

open Sys2Proof.Safety

/-! ## VLD at the home (R192) -/

/-- A TP changes, and its instruction completes. -/
theorem retireAt_modTp (d : Data) (f k : Nat) (h : Tp → Tp) : retireAt (modTp d f k h) f k =
    modSlot d f k (fun sl => { sl with block := .none, tp := pastWord (h sl.tp) }) :=
  modSlot_modSlot d f k _ _

/-- VLD's request, by what its home says of the access. -/
theorem vldTry_eq (d : Data) (f k : Nat) (r : BitVec 5) (p : BitVec 3) (a v : Nat) (first : Bool) : vldTry d f k r p a v first =
    (lvFault d f a 1).elim
      (if lvAhead (lvGet d a) v || lvBusy (getTp d f k) a then (if first then lvWait d f k (.vld r p a v) else d)
        else vldPerform d f k r p a v)
      (fun fc => trapAt d f k fc.1 fc.2 (getTp d f k).pc.toNat (getSlot d f k).word 0) := by
  -- `unfold` would have the kernel evaluate the address in `lvFault`: the function alone is unfolded here.
  conv in vldTry => delta vldTry
  generalize lvFault d f a 1 = o
  cases o <;> rfl

section
variable {d : Data} {f k a v : Nat} {r : BitVec 5} {p : BitVec 3} {w : LvWord}

/-- A VLD that its home refuses. -/
theorem vldTry_refused {fc : Nat × Nat} (first : Bool) (hf : lvFault d f a 1 = some fc) :
    vldTry d f k r p a v first = trapAt d f k fc.1 fc.2 (getTp d f k).pc.toNat (getSlot d f k).word 0 := by
  rw [vldTry_eq, hf, Option.elim_some]

/-- A VLD of a version ahead, or of a word with a VRCL of its TP left, waits. -/
theorem vldTry_waits (first : Bool) (hw : w = lvGet d a) (hf : lvFault d f a 1 = none)
    (hwait : lvAhead w v = true ∨ lvBusy (getTp d f k) a = true) :
    vldTry d f k r p a v first = if first then lvWait d f k (.vld r p a v) else d := by
  subst hw
  rw [vldTry_eq, hf, Option.elim_none, if_pos ((Bool.or_eq_true _ _).mpr hwait)]

/-- Any other VLD reads. -/
theorem vldTry_performs (first : Bool) (hw : w = lvGet d a) (hf : lvFault d f a 1 = none) (hahead : lvAhead w v = false)
    (hbusy : lvBusy (getTp d f k) a = false) : vldTry d f k r p a v first = vldPerform d f k r p a v := by
  subst hw
  rw [vldTry_eq, hf, Option.elim_none, hahead, hbusy, if_neg (by decide)]

/-- A VLD of a live version. -/
theorem vldPerform_live (hw : w = lvGet d a) (hj : (w.latest + 2 ^ 16 - v) % 2 ^ 16 < w.vals.length) :
    vldPerform d f k r p a v = modSlot d f k (fun sl => { sl with
      block := .none,
      tp := pastWord (pput (sput sl.tp r (w.vals.getD ((w.latest + 2 ^ 16 - v) % 2 ^ 16) 0)) p false) }) := by
  subst hw
  simp only [vldPerform, if_pos hj, retireAt_modTp]

/-- A VLD of a version that is gone. -/
theorem vldPerform_gone (hw : w = lvGet d a) (hj : w.vals.length ≤ (w.latest + 2 ^ 16 - v) % 2 ^ 16) :
    vldPerform d f k r p a v = modSlot d f k (fun sl => { sl with
      block := .none, tp := pastWord (pput (sput sl.tp r (w.vals.getLastD 0)) p true) }) := by
  subst hw
  simp only [vldPerform, if_neg (Nat.not_lt.mpr hj), retireAt_modTp]

end

/-! ## VST at the home (R191) -/

/-- VST's request, by what its home says of the access. -/
theorem vstTry_eq (d : Data) (f k : Nat) (r : BitVec 5) (a v : Nat) (first : Bool) : vstTry d f k r a v first =
    (lvFault d f a 2).elim
      (if v ≠ ((lvGet d a).latest + 1) % 2 ^ 16 then trapWr true d f k 0x0B 0 (getTp d f k).pc.toNat (getSlot d f k).word 0
        else if (lvGet d a).vals.length < 4 then
          retireAt (modTp (lvSet d a { latest := v, vals := sget (getTp d f k) r :: (lvGet d a).vals }) f k countNow) f k
        else if first then lvWait d f k (.vst r a v) else d)
      (fun fc => trapWr true d f k fc.1 fc.2 (getTp d f k).pc.toNat (getSlot d f k).word 0) := by
  conv in vstTry => delta vstTry
  generalize lvFault d f a 2 = o
  cases o <;> rfl

section
variable {d : Data} {f k a v : Nat} {r : BitVec 5} {w : LvWord}

/-- A VST that its home refuses. -/
theorem vstTry_refused {fc : Nat × Nat} (first : Bool) (hf : lvFault d f a 2 = some fc) : vstTry d f k r a v first =
    trapWr true d f k fc.1 fc.2 (getTp d f k).pc.toNat (getSlot d f k).word 0 := by
  rw [vstTry_eq, hf, Option.elim_some]

/-- A VST whose version is not the next. -/
theorem vstTry_outOfOrder (first : Bool) (hw : w = lvGet d a) (hf : lvFault d f a 2 = none) (hv : v ≠ (w.latest + 1) % 2 ^ 16) :
    vstTry d f k r a v first = trapWr true d f k 0x0B 0 (getTp d f k).pc.toNat (getSlot d f k).word 0 := by
  subst hw
  rw [vstTry_eq, hf, Option.elim_none, if_pos hv]

/-- A VST of the next version where there is room. -/
theorem vstTry_stored (first : Bool) (hw : w = lvGet d a) (hf : lvFault d f a 2 = none) (hv : v = (w.latest + 1) % 2 ^ 16)
    (hroom : w.vals.length < 4) : vstTry d f k r a v first =
      modSlot (lvSet d a { latest := v, vals := sget (getTp d f k) r :: w.vals }) f k
        (fun sl => { sl with block := .none, tp := pastWord { sl.tp with wi := sl.tp.wi + 1 } }) := by
  subst hw
  rw [vstTry_eq, hf, Option.elim_none, if_neg (not_not.mpr hv), if_pos hroom, retireAt_modTp]
  rfl

/-- A VST of the next version at a full word waits. -/
theorem vstTry_full (first : Bool) (hw : w = lvGet d a) (hf : lvFault d f a 2 = none) (hv : v = (w.latest + 1) % 2 ^ 16)
    (hfull : 4 ≤ w.vals.length) : vstTry d f k r a v first = if first then lvWait d f k (.vst r a v) else d := by
  subst hw
  rw [vstTry_eq, hf, Option.elim_none, if_neg (not_not.mpr hv), if_neg (Nat.not_lt.mpr hfull)]

end

/-! ## VLD, VST and VRCL at issue (R191-R193, R445) -/

section
variable {s : State} {g : Guard} {d a : BitVec 5} {t : BitVec 4}

/-- What the three instructions do with their word and version once these pass the checks. -/
def lvChecked (s : State) (a : BitVec 5) (t : BitVec 4) (effect : Nat → Nat → Data) : Data :=
  match lvCheck s.d (rs s.d a) (curView s.d t) with
  | some (cls, cause) => trap s.d cls cause
  | none => effect (lvAddr (curView s.d t)) (wb (rs s.d a) 0 16)

/-- A check that fails traps. -/
theorem lvChecked_refused {cls cause : Nat} (effect : Nat → Nat → Data)
    (hc : lvCheck s.d (rs s.d a) (curView s.d t) = some (cls, cause)) : lvChecked s a t effect = trapped s.d cls cause 0 := by
  simp only [lvChecked, hc, trap_eq_trapped]

/-- With the checks passed the instruction acts on its word and version. -/
theorem lvChecked_passed {x v : Nat} (effect : Nat → Nat → Data) (hc : lvCheck s.d (rs s.d a) (curView s.d t) = none)
    (hx : x = lvAddr (curView s.d t)) (hv : v = rn s.d a % 2 ^ 16) : lvChecked s a t effect = effect x v := by
  simp only [lvChecked, hc, hx, hv, wb_low]
  rfl

/-- A ready VLD that nothing holds. -/
theorem exec_vld_ready {k : BitVec 3} (scope : BitVec 3) (hr : Ready s g [d, a])
    (hs : Sound s (predRegs [k] ++ viewRegs (curTp s.d) t))
    (hheld : heldBy (getFloe s.d s.d.curF) (curTp s.d) true false false = false) :
    exec (.vld g d t a k scope) s = .next { s with
      d := lvChecked s a t (fun x v => vldTry s.d s.d.curF s.d.curK d k x v true) } := by
  show execVld g d t a k scope s = _
  rw [execVld, nextD_eq, issueS_of_sound hr hs, whenFree_of_not_held _ hheld]
  rfl

/-- A ready VST that nothing holds. -/
theorem exec_vst_ready (scope : BitVec 3) (hr : Ready s g [d, a]) (hs : Sound s (viewRegs (curTp s.d) t))
    (hheld : heldBy (getFloe s.d s.d.curF) (curTp s.d) false true false = false) :
    exec (.vst g d t a scope) s = .next { s with d := lvChecked s a t (vstRelease s.d d) } := by
  show execVst g d t a scope s = _
  rw [execVst, nextD_eq, issueS_of_sound hr hs, whenFree_of_not_held _ hheld]
  rfl

/-- A ready VRCL that nothing holds. -/
theorem exec_vrcl_ready (scope : BitVec 3) (hr : Ready s g [a]) (hs : Sound s (viewRegs (curTp s.d) t))
    (hheld : heldBy (getFloe s.d s.d.curF) (curTp s.d) false true false = false) :
    exec (.vrcl g t a scope) s = .next { s with d := lvChecked s a t (vrclRelease s.d) } := by
  show execVrcl g t a scope s = _
  rw [execVrcl, nextD_eq, issueS_of_sound hr hs, whenFree_of_not_held _ hheld]
  rfl

/-- The registers named last are sound where all are. -/
theorem sound_of_append_right {l l' : List SpecReg} (h : Sound s (l ++ l')) : Sound s l' := by
  rw [Sound, badSpec, List.any_append, Bool.or_eq_false_iff] at h
  exact h.2

end

section
variable {d : Data} {x v : Nat}

/-- With accesses before it a VST keeps its register, its word and its version until they have performed. -/
theorem vstRelease_waits (r : BitVec 5) (h : earlierPending (curTp d) = true) : vstRelease d r x v = blockCur d (.vstRel r x v) :=
  if_pos h

/-- With none before it a VST takes its test. -/
theorem vstRelease_tries (r : BitVec 5) (h : earlierPending (curTp d) = false) :
    vstRelease d r x v = vstTry d d.curF d.curK r x v true :=
  if_neg (ne_true_of_eq_false h)

/-- With accesses before it a VRCL is on its way after them. -/
theorem vrclRelease_after (h : earlierPending (curTp d) = true) : vrclRelease d x v = accessTaken d { pend0 d (.vrcl v) with
    addr := x, after := pendIds (curTp d) (fun _ => true) } true [] := by
  rw [vrclRelease, if_pos h, retire_addPend]

/-- With none before it a VRCL may be refused. -/
theorem vrclRelease_refused {fc : Nat × Nat} (h : earlierPending (curTp d) = false) (hf : lvFault d d.curF x 2 = some fc) :
    vrclRelease d x v = trapWr true d d.curF d.curK fc.1 fc.2 (curTp d).pc.toNat d.curW 0 := by
  simp only [vrclRelease, h, hf, Bool.false_eq_true, if_false]

/-- Else it acts on its word at once. -/
theorem vrclRelease_done (h : earlierPending (curTp d) = false) (hf : lvFault d d.curF x 2 = none) :
    vrclRelease d x v = modCurSlot (lvSet d x (lvReclaim (lvGet d x) v))
      (fun sl => { sl with block := .none, tp := pastWord { sl.tp with wi := sl.tp.wi + 1 } }) := by
  simp only [vrclRelease, h, hf, Bool.false_eq_true, if_false]
  exact retireAt_modTp _ _ _ _

end

/-! ## The word a VRCL leaves (R193) -/

/-- How far version v lies after the oldest live one, modulo 2^16 (R190). -/
def lvDistance (w : LvWord) (v : Nat) : Nat := (v + 2 ^ 16 - (w.latest + 1 + 2 ^ 16 - w.vals.length) % 2 ^ 16) % 2 ^ 16

/-- Versions go where that distance lies from 1 to below 2^15. -/
theorem lvReclaim_eq (w : LvWord) (v : Nat) : lvReclaim w v =
    if 1 ≤ lvDistance w v ∧ lvDistance w v < 2 ^ 15 then
      { w with vals := w.vals.take (w.vals.length - min (lvDistance w v) (w.vals.length - 1)) } else w := rfl

/-- The latest version's number stands. -/
theorem lvReclaim_latest (w : LvWord) (v : Nat) : (lvReclaim w v).latest = w.latest := by
  rw [lvReclaim_eq]
  split <;> rfl

/-- The live versions left keep their values. -/
theorem lvReclaim_prefix (w : LvWord) (v : Nat) : (lvReclaim w v).vals <+: w.vals := by
  rw [lvReclaim_eq]
  split
  · exact List.take_prefix _ _
  · exact List.prefix_rfl

/-- The latest version stays live. -/
theorem lvReclaim_ne_nil {w : LvWord} (v : Nat) (h : w.vals ≠ []) : (lvReclaim w v).vals ≠ [] := by
  have hlen := List.length_pos_iff.mpr h
  rw [lvReclaim_eq]
  split
  · rw [← List.length_pos_iff, List.length_take]
    omega
  · exact h

/-- The distance of the version that lies dd after the oldest. -/
theorem lvDistance_of_after {w : LvWord} {v dd : Nat} (hdd : dd < 2 ^ 16)
    (hv : (w.latest + 1 + 2 ^ 16 - w.vals.length + dd) % 2 ^ 16 = v) : lvDistance w v = dd := by
  unfold lvDistance
  omega

/-- Below 2^15 that many versions go, the latest excepted. -/
theorem lvReclaim_length {w : LvWord} {v : Nat} (hlo : 1 ≤ lvDistance w v) (hhi : lvDistance w v < 2 ^ 15) :
    (lvReclaim w v).vals.length = w.vals.length - min (lvDistance w v) (w.vals.length - 1) := by
  rw [lvReclaim_eq, if_pos ⟨hlo, hhi⟩, List.length_take, min_eq_left (Nat.sub_le _ _)]

/-- At the oldest version, and from 2^15 on, the word stands. -/
theorem lvReclaim_kept {w : LvWord} {v : Nat} (h : lvDistance w v = 0 ∨ 2 ^ 15 ≤ lvDistance w v) : lvReclaim w v = w := by
  rw [lvReclaim_eq, if_neg (by omega)]

/-! ## Waits (R37, R191-R193, R195) -/

section
variable {s : State} {f k x v : Nat} {d : BitVec 5}

/-- VLD_WAKE of a waiting VLD. -/
theorem exec_vldWake {p : BitVec 3} (hb : (getSlot s.d f k).block = .vld d p x v) :
    exec (.vldWake f k) s = .next { s with d := vldTry s.d f k d p x v false } := by
  show execVldWake f k s = _
  rw [execVldWake, nextD_eq]
  simp only [hb]

/-- VST_RETRY of a VST whose word was full. -/
theorem exec_vstRetry (hb : (getSlot s.d f k).block = .vst d x v) :
    exec (.vstRetry f k) s = .next { s with d := vstTry s.d f k d x v false } := by
  show execVstRetry f k s = _
  rw [execVstRetry, nextD_eq]
  simp only [hb]

/-- ISSUE_COMPLETION of a VST with accesses before it. -/
theorem exec_issueCompletion_vstWaits (hb : (getSlot s.d f k).block = .vstRel d x v)
    (hearlier : earlierPending (getTp s.d f k) = true) : exec (.issueCompletion f k) s = .next s := by
  refine exec_kept_of_eq ?_
  simp only [hb]
  exact if_neg fun h => Bool.noConfusion (hearlier.symm.trans h.2.1)

/-- ISSUE_COMPLETION of a VST with none before it. -/
theorem exec_issueCompletion_vstTries (hb : (getSlot s.d f k).block = .vstRel d x v) (hst : (getSlot s.d f k).st = .live)
    (hearlier : earlierPending (getTp s.d f k) = false) (hh : (getFloe s.d f).halted = false) :
    exec (.issueCompletion f k) s = .next { s with d := vstTry s.d f k d x v true } := by
  show nextD s (fun d => _) = _
  rw [nextD_eq]
  simp only [hb]
  rw [if_pos ⟨hst, hearlier, hh⟩]

/-- A wait past its limit, with no record yet (R195). -/
theorem lvWait_past (hhung : (getSlot s.d f k).hung = false)
    (hpast : (getSlot s.d f k).since + floeSlim s.d (getFloe s.d f) < (getFloe s.d f).advc) :
    ((getSlot s.d f k).hung ||
      decide ((getFloe s.d f).advc ≤ (getSlot s.d f k).since + floeSlim s.d (getFloe s.d f))) = false := by
  rw [hhung, Bool.false_or, decide_eq_false (Nat.not_le.mpr hpast)]

/-- LV_WAIT_LIMIT of a waiting VLD past its limit. -/
theorem exec_lvWaitLimit_vld {p : BitVec 3} (hhung : (getSlot s.d f k).hung = false)
    (hpast : (getSlot s.d f k).since + floeSlim s.d (getFloe s.d f) < (getFloe s.d f).advc)
    (hb : (getSlot s.d f k).block = .vld d p x v) :
    exec (.lvWaitLimit f k) s = .next { s with d := if lvAhead (lvGet s.d x) v then lvHang s.d f k 3 x else s.d } := by
  show execLvWaitLimit f k s = _
  rw [execLvWaitLimit, nextD_eq]
  simp only [lvWait_past hhung hpast, hb, Bool.false_eq_true, if_false]

/-- LV_WAIT_LIMIT of a waiting VST past its limit. -/
theorem exec_lvWaitLimit_vst (hhung : (getSlot s.d f k).hung = false)
    (hpast : (getSlot s.d f k).since + floeSlim s.d (getFloe s.d f) < (getFloe s.d f).advc)
    (hb : (getSlot s.d f k).block = .vst d x v) :
    exec (.lvWaitLimit f k) s = .next { s with d := if lvFull (lvGet s.d x) v then lvHang s.d f k 2 x else s.d } := by
  show execLvWaitLimit f k s = _
  rw [execLvWaitLimit, nextD_eq]
  simp only [lvWait_past hhung hpast, hb, Bool.false_eq_true, if_false]

end

/-- A word is full for the next version while four live. -/
theorem lvFull_iff (w : LvWord) (v : Nat) : lvFull w v = true ↔ v = (w.latest + 1) % 2 ^ 16 ∧ 4 ≤ w.vals.length := by
  rw [lvFull, Bool.and_eq_true, beq_iff_eq, decide_eq_true_eq]

end Sys2Proof.Machine
end

section
/-!
PROOF. Versioned words: VLD, VST and VRCL at issue, the word a VRCL leaves, and the waits.
-/

namespace Sys2Proof.Machine

open Sys2Proof.Safety

/-- Settles O29: each instruction by its checks, its home's refusal and the word's latest version; a VRCL's word by how far its version
lies after the oldest. -/
theorem versionedWordResults : Obligations.VersionedWordResults := by
  unfold Obligations.VersionedWordResults
  refine ⟨fun s g d a t k scope w x v hr hs hread hwrite => ?issue, fun w v hne => ?reclaim⟩
  case issue =>
    have hview := sound_of_append_right hs
    have hvld := exec_vld_ready scope hr hs hread
    have hvst := exec_vst_ready scope hr hview hwrite
    have hvrcl := exec_vrcl_ready scope (ready_of_subset hr (List.subset_cons_self d [a])) hview hwrite
    refine ⟨fun cls cause hc => ⟨leavesData_of_eq (lvChecked_refused _ hc) hvld, leavesData_of_eq (lvChecked_refused _ hc) hvst,
      leavesData_of_eq (lvChecked_refused _ hc) hvrcl⟩, fun hc hx hw hv => ?_⟩
    rw [lvChecked_passed _ hc hx hv] at hvld hvst hvrcl
    refine ⟨fun hf => ⟨fun hwait => leavesData_of_eq (vldTry_waits true hw hf hwait) hvld,
        fun hahead hbusy hj => leavesData_of_eq ((vldTry_performs true hw hf hahead hbusy).trans (vldPerform_live hw hj)) hvld,
        fun hahead hbusy hj => leavesData_of_eq ((vldTry_performs true hw hf hahead hbusy).trans (vldPerform_gone hw hj)) hvld⟩,
      fun fc hf => leavesData_of_eq (vldTry_refused true hf) hvld, fun hfirst => ?first, fun hlater => ?later⟩
    case first =>
      rw [vstRelease_tries d hfirst] at hvst
      refine ⟨fun hf => ⟨fun hnext hroom => leavesData_of_eq (vstTry_stored true hw hf hnext hroom) hvst,
        fun hnext hfull => leavesData_of_eq (vstTry_full true hw hf hnext hfull) hvst,
        fun hbad => leavesData_of_eq (vstTry_outOfOrder true hw hf hbad) hvst, ?_⟩,
        fun fc hf => ⟨leavesData_of_eq (vstTry_refused true hf) hvst, leavesData_of_eq (vrclRelease_refused hfirst hf) hvrcl⟩⟩
      rw [hw]
      exact leavesData_of_eq (vrclRelease_done hfirst hf) hvrcl
    case later =>
      exact ⟨leavesData_of_eq (vstRelease_waits d hlater) hvst, leavesData_of_eq (vrclRelease_after hlater) hvrcl⟩
  case reclaim =>
    refine ⟨lvReclaim_latest w v, lvReclaim_prefix w v, lvReclaim_ne_nil v hne, fun _ _ _ dd hhi hlo hv => ?drops,
      fun _ _ _ h => lvReclaim_kept ?kept⟩
    case drops =>
      have hdist : lvDistance w v = dd := lvDistance_of_after (by omega) hv
      rw [← hdist] at hlo hhi ⊢
      exact lvReclaim_length hlo hhi
    case kept =>
      rcases h with h | ⟨dd, hlo, hhi, hv⟩
      · exact .inl (lvDistance_of_after (by decide) h.symm)
      · exact .inr ((lvDistance_of_after hhi hv).symm ▸ hlo)

/-- Settles O30: a wait's test is the one of its issue; past the limit the record is written where the wait still stands. -/
theorem versionedWaitsEnd : Obligations.VersionedWaitsEnd := by
  unfold Obligations.VersionedWaitsEnd
  refine ⟨fun s f k x v d p w hb hw hf => ?load, fun s f k x v d w hw hf => ⟨fun hb => ?store, fun hb hst hh => ?release⟩,
    fun s f k x v d p hhung hpast => ⟨fun hb => ?loadLimit, fun hb => ?storeLimit⟩⟩
  case load =>
    have hexec := exec_vldWake hb
    exact ⟨fun hwait => exec_kept_of_eq (vldTry_waits false hw hf hwait) hexec, fun hahead hbusy =>
      ⟨fun hj => leavesData_of_eq ((vldTry_performs false hw hf hahead hbusy).trans (vldPerform_live hw hj)) hexec,
        fun hj => leavesData_of_eq ((vldTry_performs false hw hf hahead hbusy).trans (vldPerform_gone hw hj)) hexec⟩⟩
  case store =>
    have hexec := exec_vstRetry hb
    exact ⟨fun hnext hfull => exec_kept_of_eq (vstTry_full false hw hf hnext hfull) hexec,
      fun hnext hroom => leavesData_of_eq (vstTry_stored false hw hf hnext hroom) hexec,
      fun hbad => leavesData_of_eq (vstTry_outOfOrder false hw hf hbad) hexec⟩
  case release =>
    refine ⟨fun hlater => exec_issueCompletion_vstWaits hb hlater, fun hfirst => ?_⟩
    have hexec := exec_issueCompletion_vstTries hb hst hfirst hh
    exact ⟨fun hnext hfull => leavesData_of_eq (vstTry_full true hw hf hnext hfull) hexec,
      fun hnext hroom => leavesData_of_eq (vstTry_stored true hw hf hnext hroom) hexec,
      fun hbad => leavesData_of_eq (vstTry_outOfOrder true hw hf hbad) hexec⟩
  case loadLimit =>
    have hexec := exec_lvWaitLimit_vld hhung hpast hb
    exact ⟨fun hahead => leavesData_of_eq (if_pos hahead) hexec,
      fun hahead => exec_kept_of_eq (if_neg (ne_true_of_eq_false hahead)) hexec⟩
  case storeLimit =>
    have hexec := exec_lvWaitLimit_vst hhung hpast hb
    refine ⟨fun hnext hfull => leavesData_of_eq (if_pos ((lvFull_iff _ _).mpr ⟨hnext, hfull⟩)) hexec,
      fun hdone => exec_kept_of_eq (if_neg fun hfull => ?_) hexec⟩
    obtain ⟨hnext, hfour⟩ := (lvFull_iff _ _).mp hfull
    exact hdone.elim (fun hne => hne hnext) (fun hroom => Nat.not_le.mpr hroom hfour)

end Sys2Proof.Machine
end

section
/-!
PROOF SUPPORT. A hardware queue changed (R196), where a push goes (R200), the checks of a queue instruction (R415), and what QPSH, QPOP
and QCTL make of the data at issue, at a retry and as they complete (R200-R203); the refill of a queue (R205).
-/

namespace Sys2Proof.Machine

open Sys2Proof.Safety

/-! ## A die and a queue changed (R196) -/

/-- An element changed, read back and changed again is one change. -/
theorem list_set_set_getD {α : Type} (l : List α) (i : Nat) (z : α) (k k' : α → α) :
    (l.set i (k (l.getD i z))).set i (k' ((l.set i (k (l.getD i z))).getD i z)) = l.set i (k' (k (l.getD i z))) := by
  rw [List.set_set]
  by_cases hi : i < l.length
  · simp [List.getD_eq_getElem?_getD, hi]
  · rw [List.set_eq_of_length_le (by omega), List.set_eq_of_length_le (by omega)]

/-- Two changes of one compute die are one. -/
theorem modDie_modDie (d : Data) (c : Nat) (h h' : Die → Die) : modDie (modDie d c h) c h' = modDie d c (fun x => h' (h x)) :=
  congrArg (fun dies => { d with dies := dies }) (list_set_set_getD d.dies c Die.reset h h')

/-- Two changes of one queue are one. -/
theorem modQ_modQ (d : Data) (h : Nat) (k k' : Hwq → Hwq) : modQ (modQ d h k) h k' = modQ d h (fun q => k' (k q)) := by
  simp only [modQ, modDie_modDie, list_set_set_getD]

/-- A queue of the module reads back as it was changed. -/
theorem getQ_modQ_same {d : Data} {h : Nat} (k : Hwq → Hwq) (hdie : h / 128 < d.dies.length)
    (hq : h % 128 < (getDie d (h / 128)).queues.length) : getQ (modQ d h k) h = k (getQ d h) := by
  rw [getQ, modQ, getDie_modDie_same _ _ _ hdie]
  simp [getQ, List.getD_eq_getElem?_getD, hq]

/-- A queue changed to itself stands, and with it the rest. -/
theorem modQ_getQ (d : Data) (h : Nat) : modQ d h (fun _ => getQ d h) = d := by
  rw [modQ, getQ, modDie, list_set_getD, getDie, list_set_getD]

/-! ## Where a push goes (R200, R205) -/

section
variable {q : Hwq}

/-- A DIRECT queue with a free place. -/
theorem pushPath_direct (hst : q.st = .direct) (hgoes : q.stalled = false) (hroom : q.hw.length < 32) : pushPath q = .direct := by
  simp [pushPath, hst, hgoes, hroom]

/-- A SPILLING queue with room in its ring, or a full DIRECT one that spills. -/
theorem pushPath_ring (hgoes : q.stalled = false)
    (h : (q.st = .spilling ∧ q.ring.length < 2 ^ q.sre) ∨ (q.st = .direct ∧ 32 ≤ q.hw.length ∧ q.spe = true)) :
    pushPath q = .ring := by
  rcases h with ⟨hst, hroom⟩ | ⟨hst, hfull, hspe⟩
  · simp [pushPath, hst, hgoes, hroom]
  · simp [pushPath, hst, hgoes, hspe, Nat.not_lt.mpr hfull]

/-- A queue that is stalled or full. -/
theorem pushPath_waits (h : (q.st = .direct ∧ (q.stalled = true ∨ (32 ≤ q.hw.length ∧ q.spe = false))) ∨
    (q.st = .spilling ∧ (q.stalled = true ∨ 2 ^ q.sre ≤ q.ring.length))) : pushPath q = .waits := by
  rcases h with ⟨hst, hstop | ⟨hfull, hspe⟩⟩ | ⟨hst, hstop | hfull⟩
  · simp [pushPath, hst, hstop]
  · simp [pushPath, hst, hspe, Nat.not_lt.mpr hfull]
  · simp [pushPath, hst, hstop]
  · simp [pushPath, hst, hfull]

/-- A queue that is disabled or faulted. -/
theorem pushPath_fault (h : q.st = .disabled ∨ q.st = .faulted) : pushPath q = .fault (if q.st = .disabled then 1 else 5) := by
  rcases h with hst | hst <;> simp [pushPath, hst]

/-- A queue that is neither refuses no push. -/
theorem pushPath_ne_fault (h : q.st = .direct ∨ q.st = .spilling) (c : Nat) : pushPath q ≠ .fault c := by
  rcases h with hst | hst <;> simp only [pushPath, hst] <;> split_ifs <;> simp

end

section
variable {d : Data} {h : Nat} {e : HwqEnt}

/-- An entry pushed directly joins the tail of the hardware queue. -/
theorem pushDo_direct (hpath : pushPath (getQ d h) = .direct) :
    pushDo d h e = modQ d h (fun q => { q with hw := q.hw ++ [e] }) := by
  simp only [pushDo, hpath]

/-- Such an entry is taken. -/
theorem pushTook_direct (hdie : h / 128 < d.dies.length) (hq : h % 128 < (getDie d (h / 128)).queues.length) :
    pushTook d (modQ d h (fun q => { q with hw := q.hw ++ [e] })) h = true := by
  simp only [pushTook, getQ_modQ_same _ hdie hq, decide_eq_true_eq, List.length_append, List.length_singleton]
  omega

/-- An entry pushed to the ring that can be written, and its control block, joins the ring's tail. -/
theorem pushDo_ring {q : Hwq} {d1 d2 : Data} (hq : q = getQ d h) (hpath : pushPath q = .ring)
    (hentry : writeWordsAt d (reqRefill (h / 128)) (ringPlace q) (q.sbase + 64 + 64 * (q.tail % 2 ^ q.sre)) (ringWords e)
      = (d1, .ok ()))
    (htail : writeAt d1 (reqRefill (h / 128)) (ringPlace q) (q.sbase + 8) 8 ((q.tail + 1) % 2 ^ 48) false = (d2, .ok ())) :
    pushDo d h e = modQ d2 h (fun x => { x with ring := x.ring ++ [e], tail := (x.tail + 1) % 2 ^ 48, st := .spilling }) := by
  subst hq
  simp only [pushDo, hpath, ringPush, hentry, htail]

/-- Such an entry is taken where the ring's writes leave the queue as it is. -/
theorem pushTook_ring {d2 : Data} (hdie : h / 128 < d2.dies.length) (hq : h % 128 < (getDie d2 (h / 128)).queues.length)
    (hkept : getQ d2 h = getQ d h) :
    pushTook d (modQ d2 h (fun x => { x with ring := x.ring ++ [e], tail := (x.tail + 1) % 2 ^ 48, st := .spilling })) h = true := by
  simp only [pushTook, getQ_modQ_same _ hdie hq, hkept, decide_eq_true_eq, List.length_append, List.length_singleton]
  omega

end

/-! ## QPSH (R200) -/

section
variable {d : Data} {f k h : Nat} (r : BitVec 5) (scope : BitVec 3) (first : Bool)

/-- A push that its queue refuses traps and leaves the line. -/
theorem qpshTry_refused {c : Nat} (hpath : pushPath (getQ d h) = .fault c) : qpshTry d f k r scope h first =
    trapAt (modQ d h (fun q => { q with waitPush := (pushWaiters d h).filter (fun e => e != (f, k)) })) f k 0x0E c
      (getTp d f k).pc.toNat (getSlot d f k).word 0 := by
  simp only [qpshTry, hpath]

/-- A push waits where its queue has no place for it, or behind an earlier push. -/
theorem qpshTry_waits (hwait : pushPath (getQ d h) = .waits ∨
      (∀ c, pushPath (getQ d h) ≠ .fault c) ∧ pushWaiters d h ≠ [] ∧ (pushWaiters d h).head? ≠ some (f, k)) :
    qpshTry d f k r scope h first =
      if first then modSlot (modQ d h (fun q => { q with waitPush := joinWait (pushWaiters d h) f k })) f k
        (fun sl => { sl with block := .qpsh r scope h })
      else d := by
  rcases hwait with hpath | ⟨hopen, hsome, hbehind⟩
  · simp only [qpshTry, hpath]
  · cases hpath : pushPath (getQ d h)
    case fault c => exact absurd hpath (hopen c)
    all_goals simp [qpshTry, hpath, hsome, hbehind]

/-- A push first in line whose entry is taken completes. -/
theorem qpshTry_taken {d' : Data} (hpath : pushPath (getQ d h) = .direct ∨ pushPath (getQ d h) = .ring)
    (hline : pushWaiters d h = [] ∨ (pushWaiters d h).head? = some (f, k)) (hdo : pushDo d h (pushEntry d f k r scope.toNat) = d')
    (htook : pushTook d d' h = true) : qpshTry d f k r scope h first =
      modSlot (modQ d' h (fun q => { q with waitPush := (pushWaiters d h).filter (fun e => e != (f, k)) })) f k
        (fun sl => { sl with block := .none, tp := pastWord sl.tp }) := by
  have hfirst : (! ((pushWaiters d h).isEmpty || (pushWaiters d h).head? == some (f, k))) = false := by
    rcases hline with hline | hline <;> simp [hline]
  rcases hpath with hpath | hpath <;>
    · simp only [qpshTry, hpath, hfirst, hdo, htook, Bool.false_eq_true, if_false, if_true]
      rfl

/-- A push first in line at a DIRECT queue with a free place. -/
theorem qpshTry_direct (hst : (getQ d h).st = .direct) (hgoes : (getQ d h).stalled = false) (hroom : (getQ d h).hw.length < 32)
    (hline : pushWaiters d h = [] ∨ (pushWaiters d h).head? = some (f, k)) (hdie : h / 128 < d.dies.length)
    (hq : h % 128 < (getDie d (h / 128)).queues.length) : qpshTry d f k r scope h first =
      modSlot (modQ d h (fun q => { q with
        hw := q.hw ++ [pushEntry d f k r scope.toNat],
        waitPush := (pushWaiters d h).filter (fun e => e != (f, k)) })) f k
        (fun sl => { sl with block := .none, tp := pastWord sl.tp }) := by
  have hpath := pushPath_direct hst hgoes hroom
  rw [qpshTry_taken r scope first (.inl hpath) hline (pushDo_direct hpath) (pushTook_direct hdie hq), modQ_modQ]

end

/-- The entry of the issuing TP, register by register (R200, R201, R208). -/
theorem pushEntry_cur (d : Data) (r : BitVec 5) (scope : BitVec 3) : pushEntry d d.curF d.curK r scope.toNat =
    { data := [rs d r, rs d (r + 1), rs d (r + 2), rs d (r + 3)], stamp := (curTp d).wi, sc := scope.toNat, mid := d.curF,
      role := d.curK * 8 + roleCode (getSlot d d.curF d.curK).role,
      psn := (if scope = 0 then 0 else lostCause (curTp d) (curTp d).wi) != 0,
      cause := if scope = 0 then 0 else lostCause (curTp d) (curTp d).wi, prod := some (curTp d).owner } := by
  have hreg : ∀ i, BitVec.ofNat 5 (r.toNat + i) = r + BitVec.ofNat 5 i := fun i => by
    rw [BitVec.ofNat_add, BitVec.ofNat_toNat, BitVec.setWidth_eq]
  have hscope : (scope.toNat = 0) = (scope = 0) := by
    rw [← BitVec.toNat_inj]
    rfl
  simp only [pushEntry, hscope, List.range, List.range.loop, List.map_cons, List.map_nil, hreg, BitVec.ofNat_eq_ofNat]
  simp [rs, curTp, getTp, tpRole]

/-! ## QPOP (R202, R208) -/

section
variable {d : Data} {f k h : Nat} (r : BitVec 5) (p : BitVec 3) (first : Bool)

/-- A pop at a disabled queue traps and leaves the line. -/
theorem qpopTry_refused (hst : (getQ d h).st = .disabled) : qpopTry d f k r p h first =
    trapAt (modQ d h (fun q => { q with waitPop := (popWaiters d h).filter (fun e => e != (f, k)) })) f k 0x0E 1
      (getTp d f k).pc.toNat (getSlot d f k).word 0 := by
  simp only [qpopTry, hst, if_true]

/-- A pop waits where there is no entry, where the head is not poppable, or behind an earlier pop. -/
theorem qpopTry_waits (hst : (getQ d h).st ≠ .disabled)
    (hwait : (getQ d h).hw = [] ∨ (∀ e ∈ (getQ d h).hw.head?, poppable d e = false) ∨
      (popWaiters d h ≠ [] ∧ (popWaiters d h).head? ≠ some (f, k))) :
    qpopTry d f k r p h first =
      if first then modSlot (modQ d h (fun q => { q with waitPop := joinWait (popWaiters d h) f k })) f k
        (fun sl => { sl with block := .qpop r p h })
      else d := by
  cases hhw : (getQ d h).hw with
  | nil => simp only [qpopTry, if_neg hst, hhw]
  | cons e es =>
    have hnot : (poppable d e && ((popWaiters d h).isEmpty || (popWaiters d h).head? == some (f, k))) = false := by
      rcases hwait with hnone | hdrain | ⟨hsome, hbehind⟩
      · exact absurd (hhw.symm.trans hnone) (List.cons_ne_nil e es)
      · rw [hdrain e (by rw [hhw]; rfl), Bool.false_and]
      · simp [hsome, hbehind]
    simp only [qpopTry, if_neg hst, hhw, hnot, Bool.false_eq_true, if_false]

/-- A pop first in line takes the head entry once that is poppable. -/
theorem qpopTry_taken {e : HwqEnt} {es : List HwqEnt} (hst : (getQ d h).st ≠ .disabled) (hhw : (getQ d h).hw = e :: es)
    (hpop : poppable d e = true) (hline : popWaiters d h = [] ∨ (popWaiters d h).head? = some (f, k)) :
    qpopTry d f k r p h first =
      modSlot (modQ d h (fun q => { q with hw := es, waitPop := (popWaiters d h).filter (fun x => x != (f, k)) })) f k
        (fun sl => { sl with block := .none, tp := pastWord (popRegs sl.tp r p e) }) := by
  have htakes : (poppable d e && ((popWaiters d h).isEmpty || (popWaiters d h).head? == some (f, k))) = true := by
    rcases hline with hline | hline <;> simp [hpop, hline]
  simp only [qpopTry, if_neg hst, hhw, htakes, if_true]
  exact retireAt_modTp _ _ _ _

end

/-- An entry is poppable where it has no scope, or its producer's writes have drained to its stamp (R201). -/
theorem poppable_iff (d : Data) (e : HwqEnt) : poppable d e = true ↔ e.sc = 0 ∨ stampReached d e.prod e.stamp = true := by
  rw [poppable, Bool.or_eq_true, beq_iff_eq]

/-- It is not where it has one and they have not. -/
theorem poppable_eq_false {d : Data} {e : HwqEnt} (h : e.sc ≠ 0 ∧ stampReached d e.prod e.stamp = false) : poppable d e = false := by
  rw [poppable, Bool.or_eq_false_iff, beq_eq_false_iff_ne]
  exact h

/-- The registers after the pop of a sound entry. -/
theorem popRegs_sound {e : HwqEnt} (t : Tp) (r : BitVec 5) (k : BitVec 3) (hpsn : e.psn = false) : popRegs t r k e =
    pput (sput (sput (sput (sput t r (e.data.getD 0 0)) (r + 1) (e.data.getD 1 0)) (r + 2) (e.data.getD 2 0)) (r + 3)
      (e.data.getD 3 0)) k false := by
  simp only [popRegs, hpsn]
  rfl

/-- The registers after the pop of a poisoned entry: its cause, its role and the low half of its first doubleword (R208). -/
theorem popRegs_poisoned {e : HwqEnt} (t : Tp) (r : BitVec 5) (k : BitVec 3) (hpsn : e.psn = true) : popRegs t r k e =
    pput (sput (sput (sput (sput t r
        (BitVec.ofNat 64 (e.cause + e.role * 2 ^ 8 + (e.data.getD 0 0).toNat % 2 ^ 32 * 2 ^ 32)))
      (r + 1) (e.data.getD 1 0)) (r + 2) (e.data.getD 2 0)) (r + 3) (e.data.getD 3 0)) k true := by
  have hwhole : ∀ w : Word, w64 (wb w 0 64) = w := fun w => by
    rw [wb_low, w64, Nat.mod_eq_of_lt w.isLt, BitVec.ofNat_toNat, BitVec.setWidth_eq]
  simp only [popRegs, hpsn, if_true, hwhole]
  rw [wb_low]
  rfl

/-! ## The checks of a queue instruction (R196, R200, R415) -/

/-- An effect that a check goes before: a fault traps. -/
def afterCheck (d : Data) (c : Check) (effect : Data) : Data := c.elim effect (fun fc => trapped d fc.1 fc.2 0)

theorem afterCheck_refused {d : Data} {c : Check} {cls cause : Nat} (effect : Data) (h : c = some (cls, cause)) :
    afterCheck d c effect = trapped d cls cause 0 := by rw [h]; rfl

theorem afterCheck_passed {d : Data} {c : Check} (effect : Data) (h : c = none) : afterCheck d c effect = effect := by rw [h]; rfl

section
variable {d : Data} {v : Word} {right : Nat}

/-- A handle is of nine bits. -/
theorem handleBad_eq (v : Word) : handleBad v = decide (2 ^ 9 ≤ v.toNat) := by
  rw [handleBad, wb_high v (lo := 9) (n := 55) rfl, Bool.eq_iff_iff, bne_iff_ne, decide_eq_true_eq]
  omega

theorem queueCheck_badHandle (right : Nat) (h : 2 ^ 9 ≤ v.toNat) : queueCheck d v right = some (0x0E, 2) := by
  rw [queueCheck, handleBad_eq, if_pos (decide_eq_true h)]

theorem queueCheck_denied (h : v.toNat < 2 ^ 9)
    (hacl : aclOk d (42 + v.toNat / 128) d.curF right (v.toNat % 128 * 4096) 1 = false) :
    queueCheck d v right = some (7, right) := by
  rw [queueCheck, handleBad_eq, if_neg (by simpa using h), hacl, if_neg Bool.false_ne_true]

theorem queueCheck_passed (h : v.toNat < 2 ^ 9)
    (hacl : aclOk d (42 + v.toNat / 128) d.curF right (v.toNat % 128 * 4096) 1 = true) : queueCheck d v right = none := by
  rw [queueCheck, handleBad_eq, if_neg (by simpa using h), hacl, if_pos rfl]

end

section
variable {d : Data} {a : BitVec 5}

/-- The checks of QCTL.off: those of a queue instruction, then that its queue may be disabled (R203). -/
def qctlOffCheck (d : Data) (a : BitVec 5) : Check :=
  firstFault [queueCheck d (rs d a) 4, (if handleBad (rs d a) || queueIdle d (rn d a) then none else some (0x0E, 4))]

/-- The checks of QCTL.cfg: those of a queue instruction, that its queue is disabled, then those of its descriptor's tile (R203). -/
def qctlCfgCheck (d : Data) (a : BitVec 5) (view : Option View) : Check :=
  firstFault [queueCheck d (rs d a) 4,
    (if handleBad (rs d a) || (getQ d (rn d a)).st == .disabled then none else some (0x0E, 4)), descCheck d view]

/-- What the checks of a queue instruction refuse, those of QCTL.off refuse. -/
theorem qctlOffCheck_refused {fc : Nat × Nat} (h : queueCheck d (rs d a) 4 = some fc) : qctlOffCheck d a = some fc := by
  rw [qctlOffCheck, h, firstFault]

/-- What the checks of a queue instruction refuse, those of QCTL.cfg refuse. -/
theorem qctlCfgCheck_refused {fc : Nat × Nat} (view : Option View) (h : queueCheck d (rs d a) 4 = some fc) :
    qctlCfgCheck d a view = some fc := by
  rw [qctlCfgCheck, h, firstFault]

theorem handleBad_eq_false (h : rn d a < 2 ^ 9) : handleBad (rs d a) = false := by
  rw [handleBad_eq]
  exact decide_eq_false (Nat.not_le.mpr h)

/-- With those passed QCTL.off turns on its queue. -/
theorem qctlOffCheck_passed (h : rn d a < 2 ^ 9) (hcheck : queueCheck d (rs d a) 4 = none) :
    qctlOffCheck d a = if queueIdle d (rn d a) then none else some (0x0E, 4) := by
  rw [qctlOffCheck, hcheck, handleBad_eq_false h, Bool.false_or]
  split <;> rfl

/-- QCTL.cfg of a queue that is not disabled. -/
theorem qctlCfgCheck_enabled (view : Option View) (h : rn d a < 2 ^ 9) (hcheck : queueCheck d (rs d a) 4 = none)
    (hst : (getQ d (rn d a)).st ≠ .disabled) : qctlCfgCheck d a view = some (0x0E, 4) := by
  rw [qctlCfgCheck, hcheck, handleBad_eq_false h, beq_eq_false_iff_ne.mpr hst]
  rfl

/-- QCTL.cfg of a disabled queue turns on its descriptor's tile. -/
theorem qctlCfgCheck_disabled (view : Option View) (hcheck : queueCheck d (rs d a) 4 = none)
    (hst : (getQ d (rn d a)).st = .disabled) : qctlCfgCheck d a view = descCheck d view := by
  rw [qctlCfgCheck, hcheck, hst, beq_self_eq_true, Bool.or_true, if_pos rfl]
  cases descCheck d view <;> rfl

end

/-! ## At issue (R415) -/

section
variable {s : State} {g : Guard} {d a : BitVec 5}

/-- A ready QPSH. -/
theorem exec_qpsh_ready (scope : BitVec 3) (hr : Ready s g [a, d, d + 1, d + 2, d + 3]) :
    exec (.qpsh g d a scope) s = .next { s with
      d := afterCheck s.d (queueCheck s.d (rs s.d a) 2) (qpshTry s.d s.d.curF s.d.curK d scope (rn s.d a) true) } := by
  show execQpsh g d a scope s = _
  rw [execQpsh, nextD_eq, issue_of_ready hr]
  cases queueCheck s.d (rs s.d a) 2 <;> rfl

/-- A ready QPOP. -/
theorem exec_qpop_ready {k : BitVec 3} (hr : Ready s g [a, d, d + 1, d + 2, d + 3]) (hs : Sound s (predRegs [k])) :
    exec (.qpop g d a k) s = .next { s with
      d := afterCheck s.d (queueCheck s.d (rs s.d a) 1) (qpopTry s.d s.d.curF s.d.curK d k (rn s.d a) true) } := by
  show execQpop g d a k s = _
  rw [execQpop, nextD_eq, issueS_of_sound hr hs]
  cases queueCheck s.d (rs s.d a) 1 <;> rfl

/-- A ready QCTL.stat. -/
theorem exec_qctlStat_ready (hr : Ready s g [d, a]) :
    exec (.qctlStat g d a) s = .next { s with
      d := afterCheck s.d (queueCheck s.d (rs s.d a) 4) (modCur s.d (scalarThen d (queueStat (getQ s.d (rn s.d a))))) } := by
  show execQctlStat g d a s = _
  rw [execQctlStat, nextD_eq, issue_of_ready hr, retire_modCur_pastWord]
  cases queueCheck s.d (rs s.d a) 4 <;> rfl

/-- A ready QCTL.off. -/
theorem exec_qctlOff_ready (hr : Ready s g [a]) :
    exec (.qctlOff g a) s = .next { s with
      d := afterCheck s.d (qctlOffCheck s.d a) (modCur (modQ s.d (rn s.d a) (fun q =>
        { Hwq.reset with waitPush := q.waitPush, waitPop := q.waitPop })) pastWord) } := by
  show execQctlOff g a s = _
  rw [execQctlOff, nextD_eq, issue_of_ready hr]
  have hcheck : firstFault _ = qctlOffCheck s.d a := rfl
  simp only [hcheck]
  cases qctlOffCheck s.d a <;> rfl

/-- A ready QCTL.cfg that nothing holds. -/
theorem exec_qctlCfg_ready {t : BitVec 4} (hr : Ready s g [a]) (hs : Sound s (viewRegs (curTp s.d) t))
    (hheld : heldBy (getFloe s.d s.d.curF) (curTp s.d) true false false = false) :
    exec (.qctlCfg g a t) s = .next { s with
      d := afterCheck s.d (qctlCfgCheck s.d a (curView s.d t))
        (modCurSlot s.d (fun sl => { sl with block := .issue (.qctlCfg g a t) })) } := by
  show execQctlCfg g a t s = _
  rw [execQctlCfg, nextD_eq, issueS_of_sound hr hs, whenFree_of_not_held _ hheld]
  have hcheck : firstFault _ = qctlCfgCheck s.d a (curView s.d t) := rfl
  simp only [hcheck]
  cases qctlCfgCheck s.d a (curView s.d t) <;> rfl

end

/-- The status word of a queue (R203). -/
theorem queueStat_eq (q : Hwq) : queueStat q = BitVec.ofNat 64 (q.hw.length + (if q.spe then 2 ^ 6 else 0) +
    (if q.v then 2 ^ 7 else 0) + (if q.st = .spilling then 2 ^ 8 else 0) + (if q.st = .faulted then 2 ^ 9 else 0) +
    q.ring.length % 2 ^ 25 * 2 ^ 16) := by
  have hbit : ∀ (b : Bool) (lo : Nat), atBit (bnat b) lo 1 = if b then 2 ^ lo else 0 := fun b lo => by
    cases b <;> simp [atBit, bnat]
  simp only [queueStat, hbit, beq_iff_eq]
  rfl

/-- The queues QCTL.off may disable (R203). -/
theorem queueIdle_iff (d : Data) (h : Nat) : queueIdle d h = true ↔ (getQ d h).st = .faulted ∨
    ((getQ d h).hw = [] ∧ (getQ d h).ring = [] ∧ pushWaiters d h = [] ∧ popWaiters d h = []) := by
  simp [queueIdle, and_assoc]

/-! ## Waits and ends (R201-R203, R205) -/

section
variable {s : State} {f k h : Nat} {r : BitVec 5}

/-- QPSH_RETRY of a waiting QPSH. -/
theorem exec_qpshRetry {sc : BitVec 3} (hb : (getSlot s.d f k).block = .qpsh r sc h) :
    exec (.qpshRetry f k) s = .next { s with d := qpshTry s.d f k r sc h false } := by
  show execQpshRetry f k s = _
  rw [execQpshRetry, nextD_eq]
  simp only [hb]

/-- QPOP_WAKE of a waiting QPOP. -/
theorem exec_qpopWake {p : BitVec 3} (hb : (getSlot s.d f k).block = .qpop r p h) :
    exec (.qpopWake f k) s = .next { s with d := qpopTry s.d f k r p h false } := by
  show execQpopWake f k s = _
  rw [execQpopWake, nextD_eq]
  simp only [hb]

end

section
variable {d d' : Data} {a : BitVec 5} {t : BitVec 4} {w : List Word}

/-- The queue that a descriptor w with V = 1 sets up (R197). -/
def describedQueue (w : List Word) : Hwq := { Hwq.reset with
  st := .direct, v := true, spe := (w.getD 0 0).getLsbD 1, ssp := (w.getD 0 0).toNat / 2 ^ 4 % 2 ^ 4,
  sre := (w.getD 0 0).toNat / 2 ^ 8 % 2 ^ 8, sbase := (w.getD 1 0).toNat / 2 ^ 6 % 2 ^ 46 * 64 }

/-- The descriptor read, QCTL.cfg of a queue that is still disabled turns on its form and its V. -/
theorem qctlCfgRead_read
    (hread : readWordsAt d (reqFloe d.curF) { space := 1, psp := 0, pmod := 0 } (lvAddr (curView d t)) 8 = (d', .ok w))
    (hst : (getQ d' (rn d' a)).st = .disabled) : qctlCfgRead d a t =
      if queueDescBad w then trap d' 0x0E 3
      else modSlot (if (w.getD 0 0).getLsbD 0 then modQ d' (rn d' a) (fun _ => describedQueue w) else d') d'.curF d'.curK
        (fun sl => { sl with block := .none, tp := pastWord sl.tp }) := by
  simp only [qctlCfgRead, hread, hst, ne_eq, not_true_eq_false, if_false]
  split
  · rfl
  · split
    · rfl
    · rw [modQ_getQ]
      rfl

end

/-- QUEUE_REFILL of a SPILLING queue with a free place, whose ring can be read and its control block written. -/
theorem exec_queueRefill_moves {s : State} {h : Nat} {e : HwqEnt} {es : List HwqEnt} {q : Hwq} {d d' : Data} {ws : List Word}
    (hq : q = getQ s.d h) (hring : q.ring = e :: es) (hgoes : q.stalled = false) (hroom : q.hw.length < 32) (hst : q.st = .spilling)
    (hread : readWordsAt s.d (reqRefill (h / 128)) (ringPlace q) (q.sbase + 64 + 64 * (q.head % 2 ^ q.sre)) 8 = (d, .ok ws))
    (hwrite : writeAt d (reqRefill (h / 128)) (ringPlace q) q.sbase 8 ((q.head + 1) % 2 ^ 48) false = (d', .ok ())) :
    exec (.queueRefill h) s = .next { s with
      d := modQ d' h (fun q => { q with
        hw := q.hw ++ [e], ring := es, head := (q.head + 1) % 2 ^ 48, st := if es = [] then .direct else .spilling }) } := by
  subst hq
  have hmoves : ((getQ s.d h).stalled || decide (32 ≤ (getQ s.d h).hw.length) || (getQ s.d h).st != .spilling) = false := by
    simp [hgoes, hst, hroom]
  show execQueueRefill h s = _
  rw [execQueueRefill, nextD_eq]
  simp only [hring, hmoves, hread, hwrite, Bool.false_eq_true, if_false, List.isEmpty_iff]

end Sys2Proof.Machine
end

section
/-!
PROOF. QPSH, QPOP and QCTL at issue; their retries and ends, and the refill of a queue.
-/

namespace Sys2Proof.Machine

open Sys2Proof.Safety

/-- Settles O33, by the checks of each instruction, then by where its queue sends a push, what it has for a pop, and its state. -/
theorem queueInstructionResults : Obligations.QueueInstructionResults := by
  unfold Obligations.QueueInstructionResults
  rintro s g d a t k scope h q hr hs rfl rfl
  have hpush := exec_qpsh_ready scope hr
  have hpop := exec_qpop_ready hr hs
  have hstat := exec_qctlStat_ready (ready_of_subset hr (by simp) : Ready s g [d, a])
  have hra : Ready s g [a] := ready_of_subset hr (by simp)
  have hoff := exec_qctlOff_ready hra
  have hcfg := exec_qctlCfg_ready (t := t) hra
  have qctlRefused : ∀ {cls cause}, queueCheck s.d (rs s.d a) 4 = some (cls, cause) →
      Traps (.qctlStat g d a) s cls cause ∧ Traps (.qctlOff g a) s cls cause ∧
      (heldBy (getFloe s.d s.d.curF) (curTp s.d) true false false = false → Sound s (viewRegs (curTp s.d) t) →
        Traps (.qctlCfg g a t) s cls cause) := fun hc =>
    ⟨leavesData_of_eq (afterCheck_refused _ hc) hstat, leavesData_of_eq (afterCheck_refused _ (qctlOffCheck_refused hc)) hoff,
      fun hheld hsv => leavesData_of_eq (afterCheck_refused _ (qctlCfgCheck_refused _ hc)) (hcfg hsv hheld)⟩
  refine ⟨fun hbad => ?badHandle, fun hh => ?denied, fun hh hacl => ?push, fun hh hacl => ?pop,
    fun e t => ⟨popRegs_sound t d k, popRegs_poisoned t d k⟩, fun hh hacl => ?control⟩
  case badHandle =>
    exact ⟨leavesData_of_eq (afterCheck_refused _ (queueCheck_badHandle 2 hbad)) hpush,
      leavesData_of_eq (afterCheck_refused _ (queueCheck_badHandle 1 hbad)) hpop, qctlRefused (queueCheck_badHandle 4 hbad)⟩
  case denied =>
    exact ⟨fun hacl => leavesData_of_eq (afterCheck_refused _ (queueCheck_denied hh hacl)) hpush,
      fun hacl => leavesData_of_eq (afterCheck_refused _ (queueCheck_denied hh hacl)) hpop,
      fun hacl => qctlRefused (queueCheck_denied hh hacl)⟩
  case push =>
    rw [afterCheck_passed _ (queueCheck_passed hh hacl)] at hpush
    refine ⟨fun hdie hq hline hgoes => ⟨fun hst hroom => ?direct, fun e d1 d2 he hpath hentry htail hdie2 hq2 hkept => ?ring⟩,
      fun hwait => ?waits, fun hst => ?refused⟩
    case direct =>
      have htaken := qpshTry_direct (f := s.d.curF) (k := s.d.curK) d scope true hst hgoes hroom (.inl hline) hdie hq
      rw [hline, pushEntry_cur] at htaken
      exact leavesData_of_eq htaken hpush
    case ring =>
      subst he
      have hpath := pushPath_ring hgoes hpath
      have htaken := qpshTry_taken (f := s.d.curF) (k := s.d.curK) d scope true (.inr hpath) (.inl hline)
        (pushDo_ring rfl hpath hentry htail) (pushTook_ring hdie2 hq2 hkept)
      rw [hline, modQ_modQ] at htaken
      exact leavesData_of_eq htaken hpush
    case waits =>
      refine leavesData_of_eq (qpshTry_waits d scope true ?_) hpush
      rcases hwait with h | h | ⟨hon, hsome, hbehind⟩
      · exact .inl (pushPath_waits (.inl h))
      · exact .inl (pushPath_waits (.inr h))
      · exact .inr ⟨pushPath_ne_fault hon, hsome, hbehind⟩
    case refused => exact leavesData_of_eq (qpshTry_refused d scope true (pushPath_fault hst)) hpush
  case pop =>
    rw [afterCheck_passed _ (queueCheck_passed hh hacl)] at hpop
    refine ⟨fun hst => leavesData_of_eq (qpopTry_refused d k true hst) hpop, fun hst => ⟨fun e es hhw he hline => ?takes,
      fun hwait => leavesData_of_eq (qpopTry_waits d k true hst ?_) hpop⟩⟩
    case takes =>
      have htaken := qpopTry_taken (f := s.d.curF) (k := s.d.curK) d k true hst hhw ((poppable_iff s.d e).mpr he) (.inl hline)
      rw [hline] at htaken
      exact leavesData_of_eq htaken hpop
    · exact hwait.imp_right (Or.imp_left fun hdrain e he => poppable_eq_false (hdrain e he))
  case control =>
    have hcheck := queueCheck_passed hh hacl
    rw [afterCheck_passed _ hcheck, queueStat_eq] at hstat
    refine ⟨hstat, fun hidle => ?off, fun hst hsome => ?busy, fun hheld hsv => ?cfg⟩
    case off =>
      exact leavesData_of_eq (afterCheck_passed _ ((qctlOffCheck_passed hh hcheck).trans (if_pos ((queueIdle_iff _ _).mpr hidle)))) hoff
    case busy =>
      have hbusy : ¬ queueIdle s.d (rn s.d a) = true := by
        rw [queueIdle_iff]
        tauto
      exact leavesData_of_eq (afterCheck_refused _ ((qctlOffCheck_passed hh hcheck).trans (if_neg hbusy))) hoff
    case cfg =>
      have hcfg := hcfg hsv hheld
      exact ⟨fun hst => leavesData_of_eq (afterCheck_refused _ (qctlCfgCheck_enabled _ hh hcheck hst)) hcfg,
        fun cls cause hst hdesc => leavesData_of_eq (afterCheck_refused _ ((qctlCfgCheck_disabled _ hcheck hst).trans hdesc)) hcfg,
        fun hst hdesc => leavesData_of_eq (afterCheck_passed _ ((qctlCfgCheck_disabled _ hcheck hst).trans hdesc)) hcfg⟩

/-- Settles O34: a retry is the push or pop of its issue; the end of QCTL.cfg turns on its descriptor; a refill has one path. -/
theorem queueRequestsEnd : Obligations.QueueRequestsEnd := by
  unfold Obligations.QueueRequestsEnd
  refine ⟨fun s f k h r sc hb => ⟨fun hst hgoes => ⟨fun hroom hline hdie hq => ?pushed, fun hfull hspe => ?full⟩,
      fun hst => ?refused⟩,
    fun s f k h r p hb => ⟨fun hst => ⟨fun e es hhw he hline => ?popped, fun hnone => ?empty⟩, fun hst => ?disabled⟩,
    fun s f k g a t d d' w hb hlive hearlier hh hd hread hst hf hk => ?cfg,
    fun s h e es q d d' ws hq hring hgoes hroom hst hread hwrite =>
      exec_queueRefill_moves hq hring hgoes hroom hst hread hwrite⟩
  case pushed => exact leavesData_of_eq (qpshTry_direct r sc false hst hgoes hroom (.inr hline) hdie hq) (exec_qpshRetry hb)
  case full =>
    exact exec_kept_of_eq (qpshTry_waits r sc false (.inl (pushPath_waits (.inl ⟨hst, .inr ⟨hfull, hspe⟩⟩)))) (exec_qpshRetry hb)
  case refused =>
    have hrefused := qpshTry_refused (f := f) (k := k) r sc false (pushPath_fault (.inl hst))
    rw [if_pos hst] at hrefused
    exact leavesData_of_eq hrefused (exec_qpshRetry hb)
  case popped => exact leavesData_of_eq (qpopTry_taken r p false hst hhw ((poppable_iff s.d e).mpr he) (.inr hline)) (exec_qpopWake hb)
  case empty => exact exec_kept_of_eq (qpopTry_waits r p false hst (.inl hnone)) (exec_qpopWake hb)
  case disabled => exact leavesData_of_eq (qpopTry_refused r p false hst) (exec_qpopWake hb)
  case cfg =>
    subst hd
    have hexec := exec_issueCompletion_ready hb hlive hearlier hh
    have hend := qctlCfgRead_read hread hst
    rw [hf, hk] at hend
    refine ⟨fun hok hv => leavesData_of_eq (hend.trans ?_) hexec, fun hok hv => leavesData_of_eq (hend.trans ?_) hexec,
      fun hbad => leavesData_of_eq (hend.trans (if_pos hbad)) hexec⟩
    · rw [if_neg (ne_true_of_eq_false hok), if_pos hv]
      rfl
    · rw [if_neg (ne_true_of_eq_false hok), if_neg (ne_true_of_eq_false hv)]

end Sys2Proof.Machine
end

section
/-!
PROOF SUPPORT. INGQ (R209, R378): its checks, what each form makes of the data at issue and as it ends, and the start of a pipe.
-/

namespace Sys2Proof.Machine

open Sys2Proof.Safety

/-! ## The checks of INGQ (R25, R209, R302) -/

section
variable {d : Data} {v : Word} {right : Nat}

theorem pipeCheck_illegal (right : Nat) (h : 2 ^ 4 ≤ v.toNat) : pipeCheck d v right = some (1, 5) := by
  rw [pipeCheck, wb_high v (lo := 4) (n := 60) rfl, if_pos (by omega)]

/-- A pipe of sixteen whose I/O die does not run its units (log entry 22). -/
theorem pipeCheck_down (right : Nat) (h : v.toNat < 2 ^ 4) (hdown : pipeDown d v.toNat = true) :
    pipeCheck d v right = some (0x10, 0x51) := by
  rw [pipeCheck, wb_high v (lo := 4) (n := 60) rfl, if_neg (by omega), if_pos hdown]

theorem pipeCheck_passed (h : v.toNat < 2 ^ 4) (hup : pipeDown d v.toNat = false)
    (hacl : aclOk d (46 + v.toNat / 8) d.curF right (v.toNat * 4096) 1 = true) : pipeCheck d v right = none := by
  rw [pipeCheck, wb_high v (lo := 4) (n := 60) rfl, if_neg (by omega), if_neg (ne_true_of_eq_false hup), if_pos hacl]

/-- What the checks of INGQ refuse, those of its start refuse. -/
theorem startCheck_refused {fc : Nat × Nat} (n : BitVec 4) (h : pipeCheck d v 4 = some fc) : startCheck d v n = some fc := by
  simp only [startCheck, h]

/-- With those passed and the descriptor's tile at hand a start passes. -/
theorem startCheck_passed {n : BitVec 4} {x : List Word × Nat} (h : pipeCheck d v 4 = none) (htile : blockTile d n = .ok x) :
    startCheck d v n = none := by
  simp only [startCheck, h, htile]

end

/-! ## INGQ at issue (R209, R378) -/

section
variable {s : State} {g : Guard} {d a : BitVec 5} {tag : BitVec 6}

/-- A ready start. -/
theorem exec_ingqStart_ready {t : BitVec 4} (hr : Ready s g [a]) (htag : tag = 0 ∨ (curTp s.d).busy.contains tag = false)
    (hs : Sound s (viewRegs (curTp s.d) t)) (hheld : heldBy (getFloe s.d s.d.curF) (curTp s.d) true false false = false) :
    exec (.ingqStart g tag t a) s = .next { s with
      d := afterCheck s.d (startCheck s.d (rs s.d a) t)
        (modCurSlot s.d (fun sl => { sl with block := .issue (.ingqStart g tag t a) })) } := by
  show execIngqStart g tag t a s = _
  rw [execIngqStart, nextD_eq, issueS_of_sound hr hs, tagFree_of_free _ htag, whenFree_of_not_held _ hheld]
  cases startCheck s.d (rs s.d a) t <;> rfl

/-- A ready stop. -/
theorem exec_ingqStop_ready (hr : Ready s g [a]) (htag : tag = 0 ∨ (curTp s.d).busy.contains tag = false)
    (hheld : heldBy (getFloe s.d s.d.curF) (curTp s.d) true false false = false) :
    exec (.ingqStop g tag a) s = .next { s with
      d := afterCheck s.d (pipeCheck s.d (rs s.d a) 4) (ingqStop s.d (rs s.d a) tag) } := by
  show execIngqStop g tag a s = _
  rw [execIngqStop, nextD_eq, issue_of_ready hr, tagFree_of_free _ htag, whenFree_of_not_held _ hheld]
  cases pipeCheck s.d (rs s.d a) 4 <;> rfl

/-- A ready query. -/
theorem exec_ingqStat_ready (hr : Ready s g [d, a]) :
    exec (.ingqStat g d a) s = .next { s with
      d := afterCheck s.d (pipeCheck s.d (rs s.d a) 1) (modCur s.d (scalarThen d (pipeStatus (getPipe s.d (rn s.d a))))) } := by
  show execIngqStat g d a s = _
  rw [execIngqStat, nextD_eq, issue_of_ready hr, retire_modCur_pastWord]
  cases pipeCheck s.d (rs s.d a) 1 <;> rfl

end

/-- The status word of a pipe (R209). -/
theorem pipeStatus_eq (x : Pipe) : pipeStatus x = BitVec.ofNat 64 (x.code % 2 ^ 8 + (if x.running then 2 ^ 8 else 0) +
    (if x.stalled then 2 ^ 9 else 0) + x.done.toNat * 2 ^ 32) := by
  rw [pipeStatus]
  cases x.running <;> cases x.stalled <;> rfl

/-! ## A stop (R209) -/

section
variable {d : Data} {p : Nat} {o : Owner × BitVec 6}

theorem stopNow_empty (h : (getPipe d p).msgs = []) :
    stopNow d p o = solTag (modPipe d p (fun x => { x with running := false })) o.1 o.2 := by
  rw [stopNow, h, List.isEmpty_nil, if_pos rfl]

theorem stopNow_inHand (h : (getPipe d p).msgs ≠ []) :
    stopNow d p o = modPipe d p (fun x => { x with running := false, stopping := x.stopping ++ [o] }) := by
  rw [stopNow, if_neg (mt List.isEmpty_iff.mp h)]

end

/-- The TP once a command of no counted write has begun under a tag, past its word (R91). -/
theorem retire_beginCmd (d : Data) (tag : BitVec 6) : retire (modCur d (fun t => beginCmd t tag false)) =
    modCur d (fun t => pastWord { t with
      tags := if tag = 0 then t.tags else t.tags &&& ~~~(BitVec.ofNat 64 (2 ^ tag.toNat)), busy := t.busy ++ [tag] }) := by
  simp only [retire_modCur_pastWord, beginCmd_eq]
  rfl

/-- A stop acts where no request is before it. -/
theorem ingqStop_first {d : Data} {v : Word} (tag : BitVec 6) (h : (getPipe d v.toNat).reqs = []) : ingqStop d v tag =
    stopNow (modCur d (fun t => pastWord { t with
      tags := if tag = 0 then t.tags else t.tags &&& ~~~(BitVec.ofNat 64 (2 ^ tag.toNat)), busy := t.busy ++ [tag] }))
      v.toNat ((curTp d).owner, tag) := by
  rw [ingqStop, retire_beginCmd]
  exact if_pos (List.isEmpty_iff.mpr h)

/-- It joins the requests else. -/
theorem ingqStop_behind {d : Data} {v : Word} (tag : BitVec 6) (h : (getPipe d v.toNat).reqs ≠ []) : ingqStop d v tag =
    modPipe (modCur d (fun t => pastWord { t with
      tags := if tag = 0 then t.tags else t.tags &&& ~~~(BitVec.ofNat 64 (2 ^ tag.toNat)), busy := t.busy ++ [tag] }))
      v.toNat (fun x => { x with reqs := x.reqs ++ [(none, (curTp d).owner, tag)] }) := by
  rw [ingqStop, retire_beginCmd]
  exact if_neg (mt List.isEmpty_iff.mp h)

/-- INGQ_STOP_DONE of a pipe with no message in hand sets the tags of its stops. -/
theorem exec_ingqStopDone_empty {s : State} {p : Nat} (h : (getPipe s.d p).msgs = []) :
    exec (.ingqStopDone p) s = .next { s with
      d := (getPipe s.d p).stopping.foldl (fun d o => solTag d o.1 o.2) (modPipe s.d p (fun x => { x with stopping := [] })) } := by
  show execIngqStopDone p s = _
  rw [execIngqStopDone, nextD_eq]
  exact congrArg (fun d => Host.Outcome.next { s with d := d }) (if_pos (List.isEmpty_iff.mpr h))

/-- With one in hand it changes nothing. -/
theorem exec_ingqStopDone_inHand {s : State} {p : Nat} (h : (getPipe s.d p).msgs ≠ []) : exec (.ingqStopDone p) s = .next s :=
  exec_kept_of_eq (if_neg (mt List.isEmpty_iff.mp h))

/-! ## A start (R209, R378) -/

section
variable {d d1 : Data} {tag : BitVec 6} {t : BitVec 4} {a : BitVec 5} {e w : List Word} {ad : Nat}

/-- With its descriptor read a start is refused at a pipe that is down by now, or joins the requests of its pipe. -/
theorem ingqRead_read (htile : blockTile d t = .ok (e, ad)) (hread : readWordsAt d (reqFloe d.curF) (ltePlace e) ad 8 = (d1, .ok w)) :
    ingqRead d tag t a = if pipeDown d1 (rn d1 a) then trap d1 0x10 0x51 else modCurSlot
      (modPipe d1 (rn d1 a) (fun x => { x with reqs := x.reqs ++ [(some w, (curTp d1).owner, tag)] }))
      (fun sl => { sl with block := .none, tp := pastWord { sl.tp with
        tags := if tag = 0 then sl.tp.tags else sl.tp.tags &&& ~~~(BitVec.ofNat 64 (2 ^ tag.toNat)),
        busy := sl.tp.busy ++ [tag] } }) := by
  simp only [ingqRead, htile, hread]
  split
  · rfl
  · refine (retireAt_modTp _ _ _ _).trans ?_
    simp only [beginCmd_eq]
    rfl

end

section
variable {d : Data} {p : Nat} {w : List Word} {o : Owner × BitVec 6}

/-- A pipe that runs, or has a message in hand, is not started (code 0x01). -/
theorem pipeStart_running (h : (getPipe d p).running = true ∨ (getPipe d p).msgs ≠ []) :
    pipeStart d p w o = startEnd d p 1 o id := by
  have hbusy : ((getPipe d p).running || ! (getPipe d p).msgs.isEmpty) = true := by simpa using h
  exact if_pos hbusy

variable (hrun : (getPipe d p).running = false) (hmsgs : (getPipe d p).msgs = [])
include hrun hmsgs

/-- The first test of a start passes at an idle pipe. -/
theorem pipe_not_busy : ((getPipe d p).running || ! (getPipe d p).msgs.isEmpty) = false := by
  rw [hrun, hmsgs]
  rfl

/-- A malformed descriptor (code 0x02). -/
theorem pipeStart_malformed (hbad : pipeDescBad w = true) : pipeStart d p w o = startEnd d p 2 o id := by
  simp only [pipeStart, pipe_not_busy hrun hmsgs, hbad, Bool.false_eq_true, if_false, if_true]

/-- A queue of the descriptor that is disabled (code 0x04). -/
theorem pipeStart_queueOff (hok : pipeDescBad w = false) (hoff : queueOn d (pdIq w) = false ∨ queueOn d (pdOq w) = false) :
    pipeStart d p w o = startEnd d p 4 o id := by
  have hoff' : (! queueOn d (pdIq w) || ! queueOn d (pdOq w)) = true := by simpa using hoff
  simp only [pipeStart, pipe_not_busy hrun hmsgs, hok, hoff', Bool.false_eq_true, if_false, if_true]

section
variable {d1 d2 : Data} {voc ent : List (List Word)} (hok : pipeDescBad w = false) (hiq : queueOn d (pdIq w) = true)
  (hoq : queueOn d (pdOq w) = true) (hbpe : pdWord w = false)
  (hvoc : readRecs d (reqPipe p) (pdPlace w 2) (pdAddr w 2) 1 0 128 = (d1, .ok voc))
  (hent : readRecs d1 (reqPipe p) (pdPlace w 3) (pdAddr w 3) 2 0 (pdNent w) = (d2, .ok ent))
include hok hiq hoq hbpe hvoc hent

/-- Tables of byte pairs that the check refuses. -/
theorem pipeStart_refused {code : Nat} (hcheck : tablesCheck w voc ent = .error code) :
    pipeStart d p w o = startEnd d2 p code o id := by
  simp [pipeStart, pipe_not_busy hrun hmsgs, hok, hiq, hoq, hbpe, hvoc, hent, hcheck]

/-- Tables that it accepts: the pipe runs with them. -/
theorem pipeStart_runs {ids : List Nat} {ms : List (Nat × Nat × Nat × Nat)} {vs : List (List Byte × Bool × Nat)}
    (hcheck : tablesCheck w voc ent = .ok (ids, ms, vs)) : pipeStart d p w o =
      startEnd d2 p 0 o (fun x => { x with desc := w, running := true, vocab := ids, merges := ms, pieces := vs }) := by
  simp [pipeStart, pipe_not_busy hrun hmsgs, hok, hiq, hoq, hbpe, hvoc, hent, hcheck]

end

end

/-- INGQ_START_DONE of a pipe's oldest request, a start that leaves none behind it. -/
theorem exec_ingqStartDone_last {s : State} {p : Nat} {w : List Word} {o : Owner × BitVec 6} {d : Data}
    (hreqs : (getPipe s.d p).reqs = [(some w, o)]) (hstill : pipeStill s.d p = false) (hend : pipeStart s.d p w o = d)
    (hlast : (getPipe d p).reqs = []) : exec (.ingqStartDone p) s = .next { s with d := d } := by
  show execIngqStartDone p s = _
  rw [execIngqStartDone, nextD_eq]
  simp only [hreqs, hstill, hend, hlast, Bool.false_eq_true, if_false, List.length_nil, stopsAct]

end Sys2Proof.Machine
end

section
/-!
PROOF. INGQ: its checks, its stops and starts.
-/

namespace Sys2Proof.Machine

open Sys2Proof.Safety

/-- Settles O40, by the checks of INGQ at issue, then by what the pipe holds and runs, and for a start by its own checks in order. -/
theorem ingestInstructionResults : Obligations.IngestInstructionResults := by
  unfold Obligations.IngestInstructionResults
  refine ⟨?issue, ?joins, fun d p o => ⟨stopNow_empty, stopNow_inHand⟩, ?start,
    fun s p => ⟨exec_ingqStopDone_empty, exec_ingqStopDone_inHand⟩⟩
  case issue =>
    rintro s g d a t tag x hr htag hs hheld rfl
    have hra : Ready s g [a] := ready_of_subset hr (by simp)
    have hstart := exec_ingqStart_ready hra htag hs hheld
    have hstop := exec_ingqStop_ready hra htag hheld
    have hstat := exec_ingqStat_ready hr
    have refused : ∀ {cls cause}, (∀ right, pipeCheck s.d (rs s.d a) right = some (cls, cause)) →
        Traps (.ingqStart g tag t a) s cls cause ∧ Traps (.ingqStop g tag a) s cls cause ∧ Traps (.ingqStat g d a) s cls cause :=
      fun hc => ⟨leavesData_of_eq (afterCheck_refused _ (startCheck_refused t (hc 4))) hstart,
        leavesData_of_eq (afterCheck_refused _ (hc 4)) hstop, leavesData_of_eq (afterCheck_refused _ (hc 1)) hstat⟩
    refine ⟨fun hbad => refused fun right => pipeCheck_illegal right hbad,
      fun hp hdown => refused fun right => pipeCheck_down right hp ((Bool.or_eq_true _ _).mpr hdown), fun hp hup hacl => ?stat,
      fun hp hup hacl => ⟨fun e ad htile => ?waits, fun hfirst => ?first, fun hlater => ?later⟩⟩
    case stat =>
      rw [afterCheck_passed _ (pipeCheck_passed hp hup hacl), pipeStatus_eq] at hstat
      exact hstat
    all_goals have hcheck := pipeCheck_passed hp hup hacl
    case waits => exact leavesData_of_eq (afterCheck_passed _ (startCheck_passed hcheck htile)) hstart
    case first => exact leavesData_of_eq ((afterCheck_passed _ hcheck).trans (ingqStop_first tag hfirst)) hstop
    case later => exact leavesData_of_eq ((afterCheck_passed _ hcheck).trans (ingqStop_behind tag hlater)) hstop
  case joins =>
    rintro s f k g a t tag d d1 e w ad hb hlive hearlier hh rfl htile hread
    have hexec := exec_issueCompletion_ready hb hlive hearlier hh
    have hend := ingqRead_read (tag := tag) (a := a) htile hread
    exact ⟨fun hdown => leavesData_of_eq (hend.trans (if_pos hdown)) hexec,
      fun hup => leavesData_of_eq (hend.trans (if_neg (ne_true_of_eq_false hup))) hexec⟩
  case start =>
    rintro s p x w o ends rfl hreqs hstill rfl
    refine ⟨fun d hlast hbusy hd => ?running, fun hrun hmsgs => ⟨fun hbad hlast => ?malformed, fun hok hoff hlast => ?queueOff,
      fun d d' voc ent hok hiq hoq hbpe hvoc hent => ⟨fun hcheck hlast => ?disordered, fun ids ms vs h hcheck hh hlast => ?runs⟩⟩⟩
    case running =>
      subst hd
      exact exec_ingqStartDone_last hreqs hstill (pipeStart_running hbusy) hlast
    case malformed => exact exec_ingqStartDone_last hreqs hstill (pipeStart_malformed hrun hmsgs hbad) hlast
    case queueOff => exact exec_ingqStartDone_last hreqs hstill (pipeStart_queueOff hrun hmsgs hok hoff) hlast
    case disordered =>
      exact exec_ingqStartDone_last hreqs hstill (pipeStart_refused hrun hmsgs hok hiq hoq hbpe hvoc hent hcheck) hlast
    case runs =>
      subst hh
      exact exec_ingqStartDone_last hreqs hstill (pipeStart_runs hrun hmsgs hok hiq hoq hbpe hvoc hent hcheck) hlast

end Sys2Proof.Machine
end

section
/-!
PROOF SUPPORT. A message on its way through a pipe (R209-R219): a message changed, the record popped, what each stage takes, a byte of
the input read, a token written, and the result pushed.
-/

namespace Sys2Proof.Machine

open Sys2Proof.Safety

/-! ## A pipe and a message changed -/

/-- Two changes of one pipe are one. -/
theorem modPipe_modPipe (d : Data) (p : Nat) (h h' : Pipe → Pipe) :
    modPipe (modPipe d p h) p h' = modPipe d p (fun x => h' (h x)) := by
  simp only [modPipe, modIo_modIo, list_set_set_getD]

/-- Two changes of one message are one. -/
theorem modMsg_modMsg (d : Data) (p i : Nat) (h h' : Msg → Msg) :
    modMsg (modMsg d p i h) p i h' = modMsg d p i (fun m => h' (h m)) := by
  have htwice : ∀ (l : List Msg), ((l.zipIdx.map (fun e => if e.2 = i then h e.1 else e.1)).zipIdx.map
      (fun e => if e.2 = i then h' e.1 else e.1)) = l.zipIdx.map (fun e => if e.2 = i then h' (h e.1) else e.1) := fun l => by
    refine List.ext_getElem (by simp) fun j hj _ => ?_
    by_cases hji : j = i <;> simp [hji]
  simp only [modMsg, modPipe_modPipe, htwice]

/-! ## A record popped (R209, R210, R214) -/

section
variable {d : Data} {p : Nat} {e : HwqEnt} {es : List HwqEnt} (hrun : (getPipe d p).running = true) (hstill : pipeStill d p = false)
  (hline : popWaiters d (pdIq (getPipe d p).desc) = []) (hon : (getQ d (pdIq (getPipe d p).desc)).st ≠ .disabled)
  (hacl : aclOk d (42 + pdIq (getPipe d p).desc / 128) (0xC8 + p) 1 (pdIq (getPipe d p).desc % 128 * 4096) 1 = true)
  (hhw : (getQ d (pdIq (getPipe d p).desc)).hw = e :: es)
include hrun hstill hline hon hacl hhw

/-- A pipe that may pop turns on the head of its input queue. -/
theorem recordPop_head {d' : Data} (hd : d' = modPipe (modQ d (pdIq (getPipe d p).desc) (fun q => { q with hw := es })) p
      (fun x => { x with msgs := x.msgs ++ [msgOf e.data] })) : recordPop d p =
    if poppable d e then
      if msgBad (msgOf e.data) then quarantine d' p (getPipe d p).msgs.length 0x10 0 0
      else if e.psn then quarantine d' p (getPipe d p).msgs.length 0x19 0 0
      else d'
    else d := by
  subst hd
  have hon' : ((getQ d (pdIq (getPipe d p).desc)).st != .disabled) = true := bne_iff_ne.mpr hon
  simp only [recordPop, hrun, hstill, hline, hacl, hhw, hon', List.isEmpty_nil, Bool.not_false, Bool.and_true, if_true]

end

/-! ## What a stage takes (R211, R215) -/

section
variable {d : Data} {p st i : Nat} {m : Msg} (hstill : pipeStill d p = false) (hmsg : stageMsg (getPipe d p).msgs st = some i)
include hstill hmsg

/-- Stage 1 reads. -/
theorem stageStep_reads (hst : st = 1) : stageStep d p st = stageRead d p i := by
  subst hst
  simp [stageStep, hstill, hmsg]

/-- Stage 5 waits with a message that is not the oldest. -/
theorem stageStep_waits (hst : st = 5) (hi : i ≠ 0) : stageStep d p st = d := by
  simp only [stageStep, hstill, hmsg, if_pos (And.intro hst hi), Bool.false_eq_true, if_false]

/-- Stage 5 writes the next token it has formed of the oldest message. -/
theorem stageStep_writes {t : Nat × Nat} {ts : List (Nat × Nat)} (hst : st = 5) (hi : i = 0) (htoks : (msgAt d p i).toks = t :: ts) :
    stageStep d p st = tokWrite d p i t := by
  subst hst hi
  simp [stageStep, hstill, hmsg, htoks]

/-- Stages 2 to 5, 5 with the oldest message and no token to write, take what has come to them. -/
theorem stageStep_takes {n : Nat} (hn : n = (msgAt d p i).taken.getD (st - 1) 0) (hlo : 2 ≤ st)
    (hfive : st = 5 → (msgAt d p i).toks = [] ∧ i = 0) : stageStep d p st =
      if n < ((msgAt d p i).ins.getD (st - 1) []).length then stageTake d p i st (n + 1) false
      else if (msgAt d p i).fin.getD (st - 2) false then stageTake d p i st n true
      else d := by
  subst hn
  have hnone : (if st = 5 then (msgAt d p i).toks else []) = [] := by
    split
    · next hst => exact (hfive hst).1
    · rfl
  have holdest : ¬ (st = 5 ∧ i ≠ 0) := fun h => h.2 (hfive h.1).2
  have hnotFirst : ¬ st = 1 := by omega
  simp only [stageStep, hstill, hmsg, if_neg holdest, if_neg hnotFirst, hnone, Bool.false_eq_true, if_false]

end

/-- What stages 1 to 4 make of the bytes they have taken goes on, or quarantines the message (R217). -/
theorem stageTake_eq {d : Data} {p i st n : Nat} {ended : Bool} {r : StageOut} (hst : st ≤ 4)
    (hr : r = stageOut (pdRatio (getPipe d p).desc) (msgAt d p i) st (((msgAt d p i).ins.getD (st - 1) []).take n) ended) :
    stageTake d p i st n ended =
      r.2.elim
        (modMsg d p i (fun m => { m with
          taken := m.taken.set (st - 1) n, fin := m.fin.set (st - 1) ended, ins := m.ins.set st r.1 }))
        (fun c => quarantine (modMsg d p i (fun m => { m with
          taken := m.taken.set (st - 1) n, fin := m.fin.set (st - 1) ended, ins := m.ins.set st r.1 })) p i c.1 st c.2) := by
  subst hr
  have hnotLast : ¬ st = 5 := by omega
  simp only [stageTake, if_neg hnotLast, modMsg_modMsg]
  cases (stageOut (pdRatio (getPipe d p).desc) (msgAt d p i) st (((msgAt d p i).ins.getD (st - 1) []).take n) ended).2 <;> rfl

/-! ## A byte of the input (R216, R217) -/

section
variable {d : Data} {p i n : Nat} {m : Msg} (hm : m = msgAt d p i) (hn : n = m.taken.getD 0 0)
include hm hn

/-- Stage 1 has its last byte at ILEN. -/
theorem stageRead_ends (hlen : msgIlen m ≤ n) : stageRead d p i = stageTake d p i 1 n true := by
  subst hm hn
  simp only [stageRead, if_pos hlen]

/-- A byte read is taken. -/
theorem stageRead_byte {d' : Data} {b : Nat} (hlen : n < msgIlen m)
    (hread : readAt d (reqPipe p) (msgPlace m 2) (msgAddr m 2 + n) 1 = (d', .ok b)) : stageRead d p i =
      stageTake (modMsg d' p i (fun m => { m with ins := m.ins.set 0 (m.ins.getD 0 [] ++ [BitVec.ofNat 8 b]) })) p i 1 (n + 1) false := by
  subst hm hn
  simp only [stageRead, if_neg (Nat.not_le.mpr hlen), hread]

/-- A byte that cannot be read stalls the pipe for a fault of translation, and quarantines the message for any other. -/
theorem stageRead_fault {d' : Data} {fc : Nat × Nat} (hlen : n < msgIlen m)
    (hread : readAt d (reqPipe p) (msgPlace m 2) (msgAddr m 2 + n) 1 = (d', .error fc)) : stageRead d p i =
      if fc.1 = 5 ∨ fc.1 = 6 then pipeStall d' p none 0 n (msgAddr m 2 + n) false fc
      else quarantine d' p i (if fc.1 = 0x0C then 0x19 else if fc.1 = 3 then 0x10 else 0x18) 1 n := by
  subst hm hn
  simp only [stageRead, if_neg (Nat.not_le.mpr hlen), hread]

end

/-! ## A token (R213, R217) -/

section
variable {d : Data} {p i : Nat} {m : Msg} {t : Nat × Nat} (hm : m = msgAt d p i)
include hm

/-- A token past the budget quarantines its message. -/
theorem tokWrite_pastBudget (hspent : msgBudget m ≤ m.written) : tokWrite d p i t = quarantine d p i 0x17 5 t.2 := by
  subst hm
  simp only [tokWrite, if_pos hspent]

/-- A token that can be written is a counted write of the pipe. -/
theorem tokWrite_written {d' : Data} (hleft : m.written < msgBudget m)
    (hwrite : writeAt d (reqPipe p) (msgPlace m 5) (msgAddr m 5 + 4 * m.written) 4 t.1 false = (d', .ok ())) :
    tokWrite d p i t = modMsg (modPipe d' p (fun x => { x with wi := x.wi + 1 })) p i (fun m =>
      { m with toks := m.toks.drop 1, written := m.written + 1 }) := by
  subst hm
  simp only [tokWrite, if_neg (Nat.not_le.mpr hleft), hwrite]

end

/-! ## Quarantine and result (R214, R215, R218) -/

/-- QUARANTINE_RING_RESUME of the oldest message whose quarantine goes on. -/
theorem exec_quarantineRingResume_goesOn {s : State} {p i : Nat} (hstill : pipeStill s.d p = false)
    (hfind : (getPipe s.d p).msgs.findIdx? (fun m => m.quar.isSome && ! m.entryDone) = some i) :
    exec (.quarantineRingResume p) s = .next { s with d := quarStep s.d p i } := by
  show execQuarantineRingResume p s = _
  rw [execQuarantineRingResume, nextD_eq]
  simp only [hstill, hfind, Bool.false_eq_true, if_false]

section
variable {d : Data} {p : Nat} {m : Msg} {ms : List Msg} (hmsgs : (getPipe d p).msgs = m :: ms)
include hmsgs

/-- A result waits for the oldest message to be through. -/
theorem resultPush_waits (hnot : msgThrough m = false) : resultPush d p = d := by
  simp only [resultPush, hmsgs, hnot, Bool.false_and, Bool.false_eq_true, if_false]

/-- The result of a message that is through joins a DIRECT output queue with a free place, and the message leaves. -/
theorem resultPush_direct {h : Nat} (hh : h = pdOq (getPipe d p).desc) (hthrough : msgThrough m = true)
    (hheld : unitHeld d 7 (4 + p / 8) (p % 8) = false) (hline : pushWaiters d h = []) (hgoes : (getQ d h).stalled = false)
    (hacl : aclOk d (42 + h / 128) (0xC8 + p) 2 (h % 128 * 4096) 1 = true) (hst : (getQ d h).st = .direct)
    (hroom : (getQ d h).hw.length < 32) (hdie : h / 128 < d.dies.length) (hq : h % 128 < (getDie d (h / 128)).queues.length) :
    resultPush d p = modPipe (modQ d h (fun q => { q with hw := q.hw ++ [resultEnt (getPipe d p) p m] })) p
      (fun x => { x with msgs := x.msgs.drop 1, done := x.done + 1 }) := by
  subst hh
  have hdo := pushDo_direct (e := resultEnt (getPipe d p) p m) (pushPath_direct hst hgoes hroom)
  have htook := pushTook_direct (e := resultEnt (getPipe d p) p m) hdie hq
  simp only [resultPush, hmsgs, hthrough, hheld, hline, hacl, hdo, htook, List.isEmpty_nil, Bool.not_false, Bool.and_self, if_true]

end

end Sys2Proof.Machine
end

section
/-!
PROOF. The messages of a pipe: records, stages, quarantine and results.
-/

namespace Sys2Proof.Machine

open Sys2Proof.Safety

/-- Settles O41: each event acts on one message, by its record, by what its stage has to take or to write, or by its result. -/
theorem ingestMessagesMove : Obligations.IngestMessagesMove := by
  unfold Obligations.IngestMessagesMove
  refine ⟨?records, fun s p st i n m hstill hmsg hm hn => ⟨fun hst => ?first, fun hlo _ hfive => ?takes,
      fun hst hi => exec_kept_of_eq (stageStep_waits hstill hmsg hst hi), fun t ts hst hi htoks => ?writes⟩, ?goesOn,
    fun s p i hstill hfind => exec_quarantineRingResume_goesOn hstill hfind, ?results⟩
  case records =>
    rintro s p h x e es d rfl rfl hrun hstill hline hon hacl hhw hd
    have hpop := recordPop_head hrun hstill hline hon hacl hhw hd
    refine ⟨fun hdrain => exec_kept_of_eq (hpop.trans (if_neg (ne_true_of_eq_false hdrain))), fun hpoppable => ?_⟩
    rw [if_pos hpoppable] at hpop
    refine ⟨fun hbad => leavesData_of_eq (hpop.trans (if_pos hbad)), fun hok hpsn => ?_, fun hok hpsn => ?_⟩
    · exact leavesData_of_eq (hpop.trans ((if_neg (ne_true_of_eq_false hok)).trans (if_pos hpsn)))
    · exact leavesData_of_eq (hpop.trans ((if_neg (ne_true_of_eq_false hok)).trans (if_neg (ne_true_of_eq_false hpsn))))
  case first =>
    subst hst
    have hreads := stageStep_reads hstill hmsg rfl
    refine ⟨fun hlen => leavesData_of_eq (hreads.trans (stageRead_ends hm hn hlen)), fun hlen =>
      ⟨fun d b hread => leavesData_of_eq (hreads.trans (stageRead_byte hm hn hlen hread)), fun d fc hread => ?_⟩⟩
    have hfault := hreads.trans (stageRead_fault hm hn hlen hread)
    exact ⟨fun htrans => leavesData_of_eq (hfault.trans (if_pos htrans)),
      fun h5 h6 => leavesData_of_eq (hfault.trans (if_neg (not_or.mpr ⟨h5, h6⟩)))⟩
  case takes =>
    subst hm
    have htakes := stageStep_takes hstill hmsg hn hlo hfive
    refine ⟨fun hmore => leavesData_of_eq (htakes.trans (if_pos hmore)), fun hall hfin => leavesData_of_eq (htakes.trans ?_)⟩
    rw [if_neg (by omega), if_pos hfin]
  case writes =>
    have hwrites := stageStep_writes hstill hmsg hst hi (hm ▸ htoks)
    exact ⟨fun hspent => leavesData_of_eq (hwrites.trans (tokWrite_pastBudget hm hspent)),
      fun d hleft hwrite => leavesData_of_eq (hwrites.trans (tokWrite_written hm hleft hwrite))⟩
  case goesOn =>
    rintro d e p i st n ended m r rfl - hst hr rfl
    have htake := stageTake_eq hst hr
    refine ⟨fun hnone => ?_, fun code offs hsome => ?_⟩
    · rw [htake, hnone, Option.elim_none]
    · rw [htake, hsome, Option.elim_some]
  case results =>
    intro s p h m ms hmsgs hh
    exact ⟨fun hnot => exec_kept_of_eq (resultPush_waits hmsgs hnot), fun hthrough hheld hline hgoes hacl hst hroom hdie hq =>
      leavesData_of_eq (resultPush_direct hmsgs hh hthrough hheld hline hgoes hacl hst hroom hdie hq)⟩

end Sys2Proof.Machine
end

section
/-!
PROOF SUPPORT. The embedding engine: an engine changed, the look-ups and bags of EGAT (R227), the batches, contributions and closes
of EUPD (R228, R229, R231), and the end of a command (R226).
-/

namespace Sys2Proof.Machine

open Sys2Proof.Safety

/-! ## An engine changed -/

/-- A change of an engine depends on what it makes of that engine. -/
theorem modEmb_congr {d : Data} {c : Nat} {h h' : Emb → Emb} (hc : h (getEmb d c) = h' (getEmb d c)) :
    modEmb d c h = modEmb d c h' := by
  rw [getEmb] at hc
  rw [modEmb, modEmb, modDie, modDie, hc]

/-- An engine changed to itself stands, and with it the rest. -/
theorem modEmb_self {d : Data} {c : Nat} {h : Emb → Emb} (hc : h (getEmb d c) = getEmb d c) : modEmb d c h = d := by
  rw [getEmb] at hc
  rw [modEmb, modDie, hc, getDie, list_set_getD]

/-- What a change of an engine keeps of that engine stands. -/
theorem getEmb_modEmb_keeps {α : Type} {p : Emb → α} {d : Data} {c : Nat} {h : Emb → Emb} (hp : ∀ e, p (h e) = p e) :
    p (getEmb (modEmb d c h) c) = p (getEmb d c) := by
  by_cases hc : c < d.dies.length
  · rw [getEmb, modEmb, getDie_modDie_same d c _ hc, hp, getEmb]
  · rw [modEmb, modDie, List.set_eq_of_length_le (by omega)]

/-! ## Ageing (R230) -/

theorem ageSet_due {d : Data} {c set : Nat} (h : set ∈ (getEmb d c).due) : ageSet d c set = modEmb d c (fun e => { e with
    due := e.due.erase set,
    units := e.units.map (fun u => if u.set = set then { u with count := u.count / 2 } else u) }) :=
  modEmb_congr (if_pos (List.contains_iff_mem.mpr h))

theorem ageSet_not_due {d : Data} {c set : Nat} (h : set ∉ (getEmb d c).due) : ageSet d c set = d :=
  modEmb_self (if_neg (mt List.contains_iff_mem.mp h))

/-! ## Look-ups (R222, R227) -/

section
variable {d : Data} {c b p row : Nat} {x : EmbCmd}

/-- A running EGAT reads the index of a position that it wants and has not asked for. -/
theorem exec_rowLookUp_read {s : State} {die : Nat} (hx : embAt s.d die c = some x) (hop : x.op = 1)
    (hrun : embRuns s.d die x = true) (hrows : x.rows.any (fun r => r.1 == p) = false) (hasked : p ∉ x.asked)
    (hwant : posWanted s.d die x p = some b) (hread : readIdx s.d die (dwAt x.block 1) p = (d, .ok row)) :
    exec (.rowLookUp die c p) s = .next { s with d := if edNrows x.tab ≤ row then d else lookUpAt d die x b p row } := by
  have hasks : (x.op == 1 && embRuns s.d die x && ! x.rows.any (fun r => r.1 == p) && ! x.asked.contains p) = true := by
    simp [hop, hrun, hrows, hasked]
  show execRowLookUp die c p s = _
  rw [execRowLookUp, nextD_eq]
  simp only [hx, hwant, hread]
  rw [if_pos hasks]

/-- A look-up that reaches its row's home: at another module it asks for the row, and here it leaves the row's values with the
command. (`lookUpAt` is unfolded as a bare constant: comparing its application with its body has the kernel evaluate the home
hash of an open row.) -/
theorem lookUpAt_linked (hlink : embLink d c (rowHome d x.tab row) 1 = none) :
    (engLocal d (rowHome d x.tab row) = false → lookUpAt d c x b p row =
      modEmbId (embSend d (rowHome d x.tab row) (.lookUp (engHere d c) x.id p x.tab row)) c x.id
        (fun y => { y with asked := p :: y.asked })) ∧
    (∀ {d' : Data} {bs : List Byte} {psn : Bool}, engLocal d (rowHome d x.tab row) = true →
      rowGet d (rowHome d x.tab row % 4) x.tab row = (d', .ok (bs, psn)) → lookUpAt d c x b p row =
      modEmbId d' c x.id (fun y => { y with rows := (p, rowValues y.tab bs, psn) :: y.rows })) := by
  generalize hf : lookUpAt = f
  delta lookUpAt at hf
  subst hf
  dsimp only
  rw [hlink]
  refine ⟨fun hfar => if_neg (Bool.eq_false_iff.mp hfar), fun hlocal hget => (if_pos hlocal).trans ?_⟩
  rw [hget]

end

/-! ## Bags (R227) -/

section
variable {d e : Data} {c b lo hi : Nat} {x : EmbCmd} {ts : List Term}

/-- A running EGAT reads the bounds of a bag that it has not pooled. -/
theorem exec_egatBag_bounds {s : State} {die : Nat} {d' : Data} (hx : embAt s.d die c = some x) (hop : x.op = 1)
    (hrun : embRuns s.d die x = true) (hb : b < x.n) (hnew : b ∉ x.bags)
    (hlo : readIdx s.d die (dwAt x.block 3) b = (d, .ok lo)) (hhi : readIdx d die (dwAt x.block 3) (b + 1) = (d', .ok hi)) :
    exec (.egatBag die c b) s = .next { s with d := bagForm d' die x b lo hi } := by
  have hforms : (x.op == 1 && embRuns s.d die x && decide (b < x.n) && ! x.bags.contains b) = true := by
    simp [hop, hrun, hb, hnew]
  show execEgatBag die c b s = _
  rw [execEgatBag, nextD_eq]
  simp only [hx, hlo, hhi]
  rw [if_pos hforms]

theorem bagBad_iff (lo hi : Nat) : bagBad lo hi = true ↔ hi < lo ∨ 1024 < hi - lo := by
  rw [bagBad, Bool.or_eq_true, decide_eq_true_eq, decide_eq_true_eq]

/-- A malformed bag gives a row of NaNs and is bad. -/
theorem bagForm_malformed (h : hi < lo ∨ 1024 < hi - lo) :
    bagForm d c x b lo hi = bagWrite d c x b (List.replicate (edD x.tab) .nan) true false (fun _ => false) :=
  if_pos ((bagBad_iff lo hi).mpr h)

/-- The row of a term was poisoned. -/
def termPoisoned : Term → Bool
  | .row _ _ p => p
  | _ => false

/-- A well-formed bag reads its terms. -/
theorem bagForm_read (hle : lo ≤ hi) (hlen : hi - lo ≤ 1024) (hts : bagTerms d c x lo (hi - lo) = (e, .ok ts)) :
    bagForm d c x b lo hi = if ts.any (fun t => t == .missing) then e
      else bagWrite e c x b (poolSum (edD x.tab) ts)
        (ts.any termPoisoned || ts.any (fun t => t == .absent))
        (ts.any termPoisoned) (fun p => decide (lo ≤ p) && decide (p < hi)) := by
  have hok : ¬ bagBad lo hi = true := by rw [bagBad_iff]; omega
  simp only [bagForm, if_neg hok, hts]
  rfl

/-- A bag waits for a row that has not been looked up. -/
theorem bagForm_waits (hle : lo ≤ hi) (hlen : hi - lo ≤ 1024) (hts : bagTerms d c x lo (hi - lo) = (e, .ok ts))
    (hmissing : .missing ∈ ts) : bagForm d c x b lo hi = e := by
  exact (bagForm_read hle hlen hts).trans (if_pos (List.any_eq_true.mpr ⟨.missing, hmissing, by decide⟩))

/-- Some row of a bag was poisoned. -/
theorem any_poisoned_iff (ts : List Term) :
    ts.any termPoisoned = true ↔ ∃ w v, Term.row w v true ∈ ts := by
  rw [List.any_eq_true]
  constructor
  · rintro ⟨t, ht, hp⟩
    cases t with
    | missing => exact absurd hp (by decide)
    | absent => exact absurd hp (by decide)
    | row w v p => exact ⟨w, v, (show p = true from hp) ▸ ht⟩
  · rintro ⟨w, v, h⟩
    exact ⟨_, h, rfl⟩

/-- A bag with all its rows looked up gives their pooled sum; it is bad where one was absent or poisoned. -/
theorem bagForm_pools (hle : lo ≤ hi) (hlen : hi - lo ≤ 1024) (hts : bagTerms d c x lo (hi - lo) = (e, .ok ts))
    (hall : .missing ∉ ts) {psn : Bool} (hpsn : psn = true ↔ ∃ w v, Term.row w v true ∈ ts) :
    bagForm d c x b lo hi = bagWrite e c x b (poolSum (edD x.tab) ts) (psn || ts.contains .absent) psn
      (fun p => decide (lo ≤ p) && decide (p < hi)) := by
  have hpoison : ts.any termPoisoned = psn :=
    Bool.eq_iff_iff.mpr ((any_poisoned_iff ts).trans hpsn.symm)
  have hmissing : ¬ ts.any (fun t => t == .missing) = true := by simpa using hall
  rw [bagForm_read hle hlen hts, if_neg hmissing, hpoison, List.contains_eq_any_beq]
  simp only [BEq.comm (a := Term.absent)]

/-- A bag that is written is done, and lets go of its rows. -/
theorem bagWrite_written {d' : Data} {v : List Fp} {bad psn : Bool} {used : Nat → Bool}
    (hw : writeBytesAt d (reqEmb c) (placeOf (dwAt x.block 4)).1 psn ((outBytes x v).length / 4096 + 2)
      ((placeOf (dwAt x.block 4)).2 + 16 * wb (dwAt x.block 5) 0 20 * b) (outBytes x v) = (d', .ok ())) :
    bagWrite d c x b v bad psn used = modEmbId d' c x.id (fun y => { y with
      bad := if bad = true ∧ b ∉ y.bad then b :: y.bad else y.bad, bags := b :: y.bags,
      rows := y.rows.filter (fun r => ! used r.1), asked := y.asked.filter (fun p => ! used p) }) := by
  simp only [bagWrite, hw]
  congr 1
  funext y
  by_cases hbad : bad = true <;> by_cases hb : b ∈ y.bad <;> simp [markBad, hbad, hb]

end

/-! ## The batch of an EUPD (R228) -/

/-- A running EUPD whose indices and gradients can be read, and that may reach every engine of its table, sends its sums. -/
theorem exec_eupdCoalesce_sends {s : State} {die c : Nat} {x : EmbCmd} {d d' : Data} {l : List (Nat × Nat)}
    {sums : List (Nat × Nat × List Fp)} (hx : embAt s.d die c = some x) (hop : x.op = 2) (hrun : embRuns s.d die x = true)
    (hnew : x.coalesced = false) (hrows : batchRows s.d die x 0 x.n = (d, .ok l))
    (hsums : batchSums d die x [] (sortBy (fun a b => decide (a.1 < b.1) || (a.1 == b.1 && decide (a.2 ≤ b.2)))
      (l.filter (fun e => decide (e.1 < edNrows x.tab)))) = (d', .ok sums))
    (hlinks : ∀ e ∈ tabEngines x.tab, embLink d' die e 3 = none) :
    exec (.eupdCoalesce die c) s = .next { s with d := sendSums (modEmbId d' die x.id (fun y => { y with
      coalesced := true, bad := (l.filter (fun e => decide (edNrows x.tab ≤ e.1))).map (fun e => e.2),
      waiting := sums.map (fun e => (e.1, e.2.1)) })) die x sums } := by
  have hsends : (x.op == 2 && embRuns s.d die x && ! x.coalesced) = true := by simp [hop, hrun, hnew]
  have hlinked : (tabEngines x.tab).findSome? (fun e => embLink d' die e 3) = none := List.findSome?_eq_none_iff.mpr hlinks
  show execEupdCoalesce die c s = _
  rw [execEupdCoalesce, nextD_eq]
  simp only [hx, hrows, hsums, hlinked]
  rw [if_pos hsends]

/-! ## Contributions and closes at a home (R228, R229, R231) -/

section
variable {d : Data} {c src step module : Nat} {t : List Word} {x : Contrib}

/-- A contribution to a row at home here that does not migrate enters its step. -/
theorem contribArrive_enters {row : Nat} (hrow : x.row = row) (hdir : dirFind (getEmb d c) (edTid t) row = none)
    (hhome : hashHome t row = engHere d c) (hmigr : migrFind (getEmb d c) (edTid t) row = none) :
    contribArrive d c t step x = contribEnter d c t step x := by
  subst hrow
  simp [contribArrive, hdir, hhome, hmigr]

/-- A close that a hash home relays counts once for its module. -/
theorem closeArrive_relayed : closeArrive d c src t step module true = applyReady (stepMod d c t step (fun s =>
    if s.closes.contains (module, 1 + src) then s else { s with closes := (module, 1 + src) :: s.closes })) c (edTid t) := rfl

/-- A close keeps the directory. -/
theorem dir_stepMod (h : StepSt → StepSt) : (getEmb (stepMod d c t step h) c).dir = (getEmb d c).dir := by
  refine getEmb_modEmb_keeps (p := Emb.dir) fun e => ?_
  split <;> rfl

/-- A close of a module counts once for it; with no row of the table migrated out it is not relayed. -/
theorem closeArrive_own (hdir : (getEmb d c).dir.any (fun x => x.1 == edTid t) = false) :
    closeArrive d c src t step module false = applyReady (stepMod d c t step (fun s =>
      if s.closes.contains (module, 0) then s else { s with closes := (module, 0) :: s.closes })) c (edTid t) := by
  have hnone : (getEmb d c).dir.filter (fun x => x.1 == edTid t) = [] :=
    List.filter_eq_nil_iff.mpr (List.any_eq_false.mp hdir)
  simp [closeArrive, dir_stepMod, hnone]

end

section
variable {s : State} {die i src step module row engine id : Nat} {t : List Word} {g p : List (BitVec 32)} {relayed : Bool}

/-- A contribution leaves the inbox and reaches its home. -/
theorem exec_eupdContribution_arrives {x : Contrib}
    (h : inboxAt (getEmb s.d die) i = some (.contribution src t step module row g p engine id))
    (hx : x = { module := module, row := row, g := g, p := p, engine := engine, id := id }) :
    exec (.eupdContribution die i) s = .next { s with d := contribArrive (inboxDrop s.d die i) die t step x } := by
  subst hx
  show execEupdContribution die i s = _
  rw [execEupdContribution, nextD_eq]
  simp only [h]

/-- A close leaves the inbox and reaches the engine. -/
theorem exec_eupdClose_arrives (h : inboxAt (getEmb s.d die) i = some (.close src t step module relayed)) :
    exec (.eupdClose die i) s = .next { s with d := closeArrive (inboxDrop s.d die i) die src t step module relayed } := by
  show execEupdClose die i s = _
  rw [execEupdClose, nextD_eq]
  simp only [h]

end

/-! ## The end of a command (R226, R208) -/

/-- A command that is done, or that a fault has ended, writes its status and leaves the engine. -/
theorem embComplete_ends {d d' : Data} {c i : Nat} {x : EmbCmd} (hx : embAt d c i = some x) (hgoes : x.stopped = none)
    (hover : x.failAt.isSome = true ∨ embDone x = true) (hafter : afterDone d x.owner x.after = true)
    (hheld : unitHeld d 4 c 0 = false)
    (hw : writeAt d (reqEmb c) (placeOf (dwAt x.block 7)).1 (placeOf (dwAt x.block 7)).2 8 (embStatus x) false = (d', .ok ())) :
    embComplete d c i = embEnd d' c x := by
  have hends : (x.stopped.isNone && (x.failAt.isSome || embDone x) && afterDone d x.owner x.after && ! unitHeld d 4 c 0) = true := by
    simp [hgoes, hover, hafter, hheld]
  simp only [embComplete, hx, hw]
  rw [if_pos hends]

end Sys2Proof.Machine
end

section
/-!
PROOF. The look-ups, bags, batches and steps of the embedding engine, and the ends of its commands.
-/

namespace Sys2Proof.Machine

open Sys2Proof.Safety

/-- Settles O37, command by command, and for EUPD message by message. -/
theorem engineLookUpsAndUpdates : Obligations.EngineLookUpsAndUpdates := by
  unfold Obligations.EngineLookUpsAndUpdates
  refine ⟨⟨?lookUp, ?bag, ?output, fun s die set => ⟨fun hdue => leavesData_of_eq (ageSet_due hdue),
    fun hnot _ => exec_kept_of_eq (ageSet_not_due hnot)⟩⟩, ?batch, ?contribution, ?relayed, ?close, ?complete⟩
  case lookUp =>
    intro s die c p b row x d hx hop hrun hrows hasked hwant hread
    have hexec := exec_rowLookUp_read hx hop hrun hrows hasked hwant hread
    refine ⟨fun habsent => leavesData_of_eq (if_pos habsent) hexec,
      fun hrow hfar hlink => leavesData_of_eq ((if_neg (Nat.not_le.mpr hrow)).trans ((lookUpAt_linked hlink).1 hfar)) hexec,
      fun d' bs psn hrow hlocal hlink hget => ?_⟩
    exact leavesData_of_eq ((if_neg (Nat.not_le.mpr hrow)).trans ((lookUpAt_linked hlink).2 hlocal hget)) hexec
  case bag =>
    intro s die c b lo hi x d d' hx hop hrun hb hnew hlo hhi
    have hexec := exec_egatBag_bounds hx hop hrun hb hnew hlo hhi
    refine ⟨fun hbad => leavesData_of_eq (bagForm_malformed hbad) hexec, fun e ts hle hlen hts =>
      ⟨fun hmissing => leavesData_of_eq (bagForm_waits hle hlen hts hmissing) hexec, fun hall psn hpsn => ?_⟩⟩
    exact leavesData_of_eq (bagForm_pools hle hlen hts hall hpsn) hexec
  case output =>
    intro d d' die b a x v bad psn used ha hw
    rw [ha, ← wb_low] at hw
    exact bagWrite_written hw
  case batch =>
    intro s die c x d d' l sums hx hop hrun hnew hrows hsums hlinks
    exact exec_eupdCoalesce_sends hx hop hrun hnew hrows hsums hlinks
  case contribution =>
    rintro s die i src step module row engine id t g p d x hin rfl hx hdir hhome hmigr
    have hexec := exec_eupdContribution_arrives hin hx
    rw [contribArrive_enters (congrArg Contrib.row hx) hdir hhome hmigr] at hexec
    subst hx
    exact ⟨fun hfirst => leavesData_of_eq (if_neg (Bool.eq_false_iff.mp hfirst)) hexec,
      fun hsecond => leavesData_of_eq (if_pos hsecond) hexec⟩
  case relayed =>
    rintro s die i src step module t d hin rfl
    exact leavesData_of_eq closeArrive_relayed (exec_eupdClose_arrives hin)
  case close =>
    rintro s die i src step module t d hin rfl hdir -
    exact leavesData_of_eq (closeArrive_own hdir) (exec_eupdClose_arrives hin)
  case complete =>
    rintro s die c x d e hx hgoes hover hafter hheld hw rfl
    exact leavesData_of_eq ((embComplete_ends hx hgoes hover hafter hheld hw).trans (engineEnd_eq _ _ _ _))

end Sys2Proof.Machine
end

section
/-!
PROOF. An EPIN with PIN of a row whose copy waits for its ways (R230, R231, log entry 153).
-/

namespace Sys2Proof.Machine

open Sys2Proof.Safety

/-- A table of 16 rows of 16 bytes in L2. The home of row 0 is the engine of die 0. -/
def pinTable : List Word := [0x1004101, 0, 16, 0x10000, 0, 0, 0, 0]

/-- An EPIN with PIN of one row, row 0, which the index array at L2 address 0 names. -/
def pinCmd : EmbCmd :=
  { op := 3, id := 0, owner := ⟨0, 0⟩, tag := 1, n := 1,
    block := [0x10000000000C00, 0x10000000000000, 0, 0, 0, 0, 0, 0x10000000000B00], tab := pinTable, pos := 0, bad := [],
    rows := [], asked := [], bags := [], coalesced := false, waiting := [], redo := [], stopped := none, failAt := none, wno := 0,
    after := [] }

/-- A unit of row 0's set. -/
def pinUnit (row : Nat) (ways : List Nat) (pinned : Bool) : MorUnit :=
  { set := morSet pinTable 0, tab := pinTable, row := row, ways := ways, count := 1, dirty := true, pinned := pinned,
    bytes := List.replicate 16 0, psn := false }

/-- Row 0, whose copy waits for its way and is not pinned. -/
def waitingUnit : MorUnit := pinUnit 0 [] false

/-- The engine with that command and that unit, and twelve other rows pinned in the set, each in a way of its own. -/
def pinEmb : Emb :=
  { Emb.reset with
    cmds := [pinCmd], units := waitingUnit :: (List.range 12).map (fun w => pinUnit (w + 1) [w] true) }

/-- Die 0 with that engine, which may read the first 4 KiB of L2. -/
def pinState : State :=
  { State.reset with d := { Data.reset with
      dies := [{ Die.reset with emb := pinEmb }], acl := [((14 * 256 + 0xB0) * 8, 0x11)] } }

/-- The index read is row 0, and changes nothing. -/
theorem readIdx_pinState : readIdx pinState.d 0 (pinCmd.block.getD 1 0) pinCmd.pos = (pinState.d, .ok 0) := by decide +kernel

/-- Row 0 is at home at the engine that has the command. -/
theorem rowHome_pinState : rowHome pinState.d pinCmd.tab 0 = 0 := by decide +kernel

/-- PIN counts the item bad: the set's pinned ways are twelve, and the row would take one more. -/
theorem bad_epinStep_pinState : (embAt (epinStep pinState.d 0 0 0) 0 0).map (fun x => x.bad) = some [0] := by decide +kernel

/-- Refutes O38: PIN of a cached row counts, beside the pinned ways of the row's set, the ways that the row's unit has, and of a unit
whose copy still waits for its ways (log entry 153) those that it will take. The clause counts those that it has, and so none for a
unit in wait: with twelve ways of its set pinned it has that row pinned, where the item is bad. (A unit in wait is pinned at first;
UNPIN unpins one that has come back to its hash home.) -/
theorem not_engineResidency : ¬ Obligations.EngineResidency := by
  unfold Obligations.EngineResidency
  rintro ⟨hitems, -⟩
  obtain ⟨hpin, -⟩ := hitems pinState 0 0 0 0 pinCmd pinState.d waitingUnit _ rfl rfl (by decide +kernel) (by decide) rfl
    readIdx_pinState (by decide +kernel) (by decide +kernel) (by decide +kernel) (by rw [rowHome_pinState]) rfl (by decide +kernel)
  have hpinned := (hpin (by decide +kernel) rfl).1 (by decide +kernel)
  have hdata : epinStep pinState.d 0 0 0 = _ := data_eq_of_leavesData hpinned
  have hbad := bad_epinStep_pinState
  rw [hdata] at hbad
  exact absurd hbad (by decide +kernel)

end Sys2Proof.Machine
end
